-- ==== Sys2Proof/Word.lean ====
section
/-! DEFINITION. The word types of the module and their plainest arithmetic: bytes, the sparse keyed store in which
registers, memories and counters are held as plain data, little-endian bytes (R8) and bit fields (R7). -/

namespace Sys2Proof

abbrev Byte := BitVec 8

/-- A sparse store: key and value pairs with strictly rising keys; a key that is not listed holds a default that its
reader names, and no listed value equals that default. -/
abbrev KMap (α : Type) := List (Nat × α)

/-- The largest value a saturating 48-bit count holds (R78, R121, R223 and their like). -/
def countMax : Nat := 2 ^ 48 - 1

/-- Bits `[lo + w - 1 : lo]` of a number (R7: bit 0 is the least significant). -/
def bits (v lo w : Nat) : Nat := v / 2 ^ lo % 2 ^ w

/-- Bit `n` of a number. -/
def bit (v n : Nat) : Bool := v / 2 ^ n % 2 == 1

/-- The number that little-endian bytes spell (R8). -/
def leNat : List Byte → Nat
  | [] => 0
  | b :: r => b.toNat + 256 * leNat r

/-- The `n` little-endian bytes of a number (R8). -/
def leBytes : Nat → Nat → List Byte
  | 0, _ => []
  | n + 1, v => BitVec.ofNat 8 v :: leBytes n (v / 256)

/-- `n` bytes of a byte string from offset `o`, as a little-endian number; bytes past the end count as 0. -/
def leAt (l : List Byte) (o n : Nat) : Nat := leNat ((l.drop o).take n)

/-- Rounding up to a multiple. -/
def ceilDiv (a b : Nat) : Nat := (a + b - 1) / b

/-- Pad a byte string with zeros to `n` bytes. -/
def padTo (n : Nat) (l : List Byte) : List Byte := l ++ List.replicate (n - l.length) 0

/-- An exact operand value: a NaN, an infinity, or sign and magnitude m × 2^e, so that zeros keep their sign (R38, R70). -/
inductive Val where
  | nan
  | inf (neg : Bool)
  | fin (neg : Bool) (m : Nat) (e : Int)
  deriving DecidableEq, Repr

/-- An XA128 element: its flags, XRP in bit 0, XRN in bit 1, XNAN in bit 2, and its sum modulo 2^128 (R49, R52 to R55). -/
structure XEl where
  flags : Nat
  q     : Nat
  deriving DecidableEq, Repr

end Sys2Proof
end

