-- ==== Sys2Proof/Syntax.lean ====
section
/-! DEFINITION. The commands of the Svamel SV4 module: one constructor of `Instr` per row of spec/opcode_table.json,
and the plain-data records that some of them carry.

Operands (the table gives its rows none, so these are the model's, log entry 1): `u` is a logical core of the package,
(die × 12 + cluster) × 16 + core; `l` a link; `p` the lowest die of a partition; `d` a die; `ses` an SPDM session ID;
`c` the cycle within the current beat at which the step happens (in `ctx…`, `install…` and `flashBlock…` commands `c` is a
context); `val` the bytes of a dictionary value as written (R600); `ns`, `us`, `ms` an elapsed time that the sender has measured;
`ents` the 16 bytes of each ring entry that the host posts (R589); for MB_GO, `len` is MB_REQ_LEN, `req` the request buffer,
`dict` whether it holds a secured dictionary message, `clr` the host's other writes into BAR0 and `ev` how many event slots
it has read since the last GO; `hdr` is the 32-byte header of a bulk record (R564). -/

namespace Sys2Proof

/-- Traffic class of a packet (R347): the code of CLASS is its position here. -/
inductive TClass where
  | plan | canopy | serve | mgmt
  deriving DecidableEq, Repr

/-- Frame stream of the link layer (R345, R351). -/
inductive Stream where
  | plan | unsched | link
  deriving DecidableEq, Repr

/-- A packet: the header fields of R347 and the payload bytes. -/
structure Packet where
  addr    : Nat
  space   : Nat
  inc     : Nat
  ctr     : Nat
  cv      : Bool
  len     : Nat
  ep      : Nat
  die     : Nat
  dest    : Nat
  cls     : TClass
  ptype   : Nat
  payload : List Byte
  deriving DecidableEq, Repr

/-- The codeword headers of a received frame in order (R345), and how many cycles ago its first piece had come (R358). -/
structure FrameHeads where
  heads  : List Nat
  sofAge : Nat
  deriving DecidableEq, Repr

/-- The codeword that a link lost, and what had come of the frames then in progress on it (R350). -/
structure LostWord where
  link  : Nat
  begun : List (Stream × List Byte)
  deriving DecidableEq, Repr

/-- The outcome of a link test and how long it ran, in ms (R375). -/
structure LinkTest where
  result : List Byte
  ms     : Nat
  deriving DecidableEq, Repr

/-- What a link frame's trailer carries for the receiver (R348, R349): the ACK and the five cumulative credit counts in the
order PLAN, CANOPY, SERVE, MGMT, shared. -/
structure Trailer where
  ack     : Nat
  credits : List Nat
  deriving DecidableEq, Repr

/-- The body of an IDENT link frame (R349). -/
structure Ident where
  link   : Nat
  flags  : Nat
  coord  : Nat
  valid  : Bool
  serial : List Byte
  deriving DecidableEq, Repr

/-- The head of a canopy message (R287) and the body of an ALARM (R288). -/
structure CanopyMsg where
  mtype  : Nat
  origin : Nat
  beat   : Nat
  cycle  : Nat
  hops   : Nat
  cls    : Nat
  code   : Nat
  level  : Nat
  unit   : Nat
  deriving DecidableEq, Repr

/-- What a RELEASE carries (R287, R288): its BID, ORIGIN and HOPS. -/
structure ReleaseMsg where
  bid    : Nat
  origin : Nat
  hops   : Nat
  deriving DecidableEq, Repr

/-- The number of a step announcement, and its ORIGIN and HOPS (R287, R438). -/
structure StepSeq where
  seq    : Nat
  origin : Nat
  hops   : Nat
  deriving DecidableEq, Repr

/-- The body of an ARRIVE (R288). -/
structure Arrive where
  origin : Nat
  bid    : Nat
  scope  : Nat
  mb     : Bool
  cmask  : Nat
  kmask  : Nat
  dmask  : Nat
  deriving DecidableEq, Repr

/-- A received BEATSYNC: the body of R431, and what the receiver's own counters say of the reference marker (R432): `known`
when RING lies among the last 256 markers, and the arrival count of its first bit in units of 1/65,536 cyc since the start
of beat `arrBeat`. -/
structure BeatSync where
  origin   : Nat
  hops     : Nat
  ring     : Nat
  sbeat    : Nat
  scyc     : Nat
  sfrac    : Nat
  k        : Nat
  n        : Nat
  flags    : Nat
  stepN    : Nat
  stepAt   : Nat
  ppsBeat  : Nat
  ppsCyc   : Nat
  ppsFrac  : Nat
  ppsSec   : Nat
  known    : Bool
  arrBeat  : Nat
  arrUnits : Nat
  deriving DecidableEq, Repr

/-- The cycle of a mover unit's issue, and the retries of its transfer between dies (R631). -/
structure UnitTick where
  cyc     : Nat
  retries : Nat
  deriving DecidableEq, Repr

/-- What follows the 32-byte header of a bulk record in host memory: its ciphertext and its tag (R564). -/
structure HostRec where
  cipher : List Byte
  tag    : List Byte
  deriving DecidableEq, Repr

/-- What the host writes into BAR0 with an MB_GO: MB_CTL, whose bit 0 is GO, the bits it clears in MB_STATUS, and the words of the MSI-X
table, each by its position and value (R584, R585). -/
structure MbWrites where
  ctl  : Nat
  clr  : Nat
  msix : List (Nat × Nat)
  deriving DecidableEq, Repr

/-- Where an MCTP packet comes from: an MGMT packet of a link, the PCIe VDM or I3C binding, whose packet the payload then is, or the module
itself, which sends the next of its own packets to a peer (R597, R599). -/
inductive MctpFrom where
  | link (l : Nat)
  | vdm
  | i3c
  | own
  deriving DecidableEq, Repr

/-- A firmware image as copied into heartwood SRAM (R575): its bytes, the security version that they state, the signature that comes with
them and the Vendor firmware key that it is checked under, which must have the digest in the fuses. -/
structure FwImage where
  bytes : List Byte
  svn   : Nat
  key   : List Byte
  sig   : List Byte
  deriving DecidableEq, Repr

/-- The commands: one constructor per row of the operation and event table. -/
inductive Instr where
  /-- DESCRIPTOR_FETCH (R202). The stream unit fetches the next descriptor, or a routine's descriptors after a CALL, into its 256-entry prefetch queue. -/
  | descriptorFetch (u c : Nat)
  /-- DESCRIPTOR_DISPATCH (R208). The stream unit takes a descriptor from the prefetch queue, counts it, checks it in stream order and dispatches it to its engine queue. -/
  | descriptorDispatch (u c : Nat)
  /-- CALL (R213). CALL executes once its wait and the SC56 to SC63 condition hold, and opens a frame with return position, bases, arguments and counter snapshots. -/
  | call (u c : Nat)
  /-- RET (R213). RET closes the innermost frame, and dispatch resumes at the return position. -/
  | ret (u c : Nat)
  /-- CALL_SIGNAL (R213). A CALL's signal is applied in the cycle after the later of its closing RET and the completion of the last descriptor dispatched in its frame. -/
  | callSignal (u c : Nat)
  /-- SEED (R200). SEED replaces the core's stochastic-rounding generator state. -/
  | seed (u c : Nat)
  /-- HINT (R525). HINT announces the phase tag that the die runs from a later beat, for the cap controller's prediction. -/
  | hint (u c : Nat)
  /-- MM (R111). An MM descriptor starts on the MXE when it heads the queue and its issue, wait, pipeline and tile conditions hold, or runs as a no-op. -/
  | mm (u c : Nat)
  /-- MM_COMPLETE (R108). After its drain the MM applies its signal and logs its single XA_RANGE entry if any event occurred. -/
  | mmComplete (u c : Nat)
  /-- ADD (R143). VX ADD adds two sources element-wise with one rounding to the destination format. -/
  | add (u c : Nat)
  /-- MUL (R143). VX MUL multiplies two sources element-wise with one rounding. -/
  | mul (u c : Nat)
  /-- FMA (R143). VX FMA computes s1 × s2 + s3 with a single rounding. -/
  | fma (u c : Nat)
  /-- MIN (R145). VX MIN writes the smaller of two sources, with −0 below +0 and NaN giving the canonical NaN. -/
  | min (u c : Nat)
  /-- MAX (R145). VX MAX writes the larger of two sources. -/
  | max (u c : Nat)
  /-- CMP (R146). VX CMP writes 1.0 or +0 according to the compare condition COND. -/
  | cmp (u c : Nat)
  /-- SEL (R147). VX SEL writes s2 where s1 is nonzero and not NaN, and s3 otherwise. -/
  | sel (u c : Nat)
  /-- CVT (R148). VX CVT converts or copies each element between real formats and XA128. -/
  | cvt (u c : Nat)
  /-- LUT (R157). VX LUT reads a 256-entry table and applies the indexed piecewise-linear segment to each element. -/
  | lut (u c : Nat)
  /-- RSUM (R152). VX RSUM reduces along the axis by the fixed FP32 binary tree. -/
  | rsum (u c : Nat)
  /-- RDOT (R152). VX RDOT reduces exact products along the axis by the fixed FP32 binary tree. -/
  | rdot (u c : Nat)
  /-- RMAX (R153). VX RMAX reduces to the maximum along the axis. -/
  | rmax (u c : Nat)
  /-- RMIN (R153). VX RMIN reduces to the minimum along the axis. -/
  | rmin (u c : Nat)
  /-- XADD (R149). VX XADD adds two XA128 sources exactly with flags combined by OR. -/
  | xadd (u c : Nat)
  /-- XSUM (R153). VX XSUM sums XA128 elements along the axis exactly and rounds once. -/
  | xsum (u c : Nat)
  /-- QNT (R158). VX QNT quantises blocks of 32 elements to a narrow format and writes their E8M0 scales. -/
  | qnt (u c : Nat)
  /-- DQS (R159). VX DQS multiplies narrow elements by their block scale and rounds once. -/
  | dqs (u c : Nat)
  /-- VX_COMPLETE (R163). A VX descriptor writes its last result and applies its signal after set-up, streaming and pipeline. -/
  | vxComplete (u c : Nat)
  /-- MOV (R315). A MOV starts on the mover and moves M strided rows, copying or converting. -/
  | mov (u c : Nat)
  /-- GATHER (R315). A GATHER starts and moves source rows chosen by an index list to consecutive destination rows. -/
  | gather (u c : Nat)
  /-- SCATTER (R315). A SCATTER starts and moves source rows to destination rows chosen by an index list, optionally adding exactly. -/
  | scatter (u c : Nat)
  /-- MOVER_UNIT_ISSUE (R325). A mover unit issues once its channels are ready and outside refresh and its banks have room. -/
  | moverUnitIssue (u : Nat) (c : UnitTick)
  /-- MOVE_COMPLETE (R326). After its last unit is written at the destination the mover descriptor applies its signal. -/
  | moveComplete (u c : Nat)
  /-- SEND (R397). A SEND starts on the mover and forms M PLAN WRITE packets to a remote rank. -/
  | send (u c : Nat)
  /-- SENDX (R397). A SENDX starts on the mover and forms M XACC packets that add XA128 elements at a remote rank. -/
  | sendx (u c : Nat)
  /-- PACKET_HANDOFF (R401). A packet is handed to its link's PLAN transmit queue when the queue has room, or delivered locally to the own rank. -/
  | packetHandoff (u c : Nat)
  /-- SEND_COMPLETE (R401). After the last packet is handed off the SEND or SENDX applies its signal. -/
  | sendComplete (u c : Nat)
  /-- SYNC (R271). A SYNC starts on the sync engine and sends remote posts to the target cores. -/
  | sync (u c : Nat)
  /-- SYNC_POST_APPLY (R272). A core's canopy port applies one queued remote post or release increment. -/
  | syncPostApply (u c : Nat)
  /-- ARRIVAL_APPLY (R265). A core's arrival port applies one completion count from its arrival queue. -/
  | arrivalApply (u c : Nat)
  /-- BARRIER (R278). A BARRIER starts and sends its arrival towards the node at the top of its scope. -/
  | barrier (u c : Nat)
  /-- BARRIER_ARRIVE (R279). A canopy node receives a barrier arrival, opens or joins the instance for its BID and compares masks. -/
  | barrierArrive (p c : Nat)
  /-- BARRIER_RELEASE (R280). The release reaches the participants and applies their signals or the multi-beat release increment. -/
  | barrierRelease (p bid scope node c : Nat)
  /-- CANOPY_TIMEOUT (R282). A multi-beat barrier instance still open at the eighth beat edge is closed without release and logged. -/
  | canopyTimeout (p bid scope node : Nat)
  /-- STEP (R495). The step core's STEP is dispatched at a step boundary and the serving unit runs the result, top-up, admission and output phases. -/
  | step (u c : Nat)
  /-- STEP_COMPLETE (R498). The STEP applies its signal once its unit accesses and record store room allow. -/
  | stepComplete (p c : Nat)
  /-- BEAT_EDGE (R240). At each beat edge the beat number advances and every core checks that the ending slice completed. -/
  | beatEdge
  /-- PLAN_START (R187). At the armed start beat a LOADED partition enters RUNNING with beat 0 of segment 0. -/
  | planStart (p : Nat)
  /-- PLAN_COMPLETE (R186). After the last beat of the last segment the partition's PLAN_STATE becomes COMPLETE. -/
  | planComplete (p : Nat)
  /-- BEAT_K_CHANGE (R226). At the pending target beat BEAT_K takes BEAT_K_NEXT and BEAT_K_AT returns to 0. -/
  | beatKChange
  /-- FSTEP_APPLY (R441). At the edge of beat AT the package applies the announced CORE_FREQ_N to every clock region. -/
  | fstepApply
  /-- BEATSYNC_SEND (R430). The timing root sends BEATSYNC every 2^BEATSYNC_EXP beats on its timing links. -/
  | beatsyncSend (c : Nat)
  /-- BEATSYNC_RX (R434). A package accepts a BEATSYNC from TIMING_ACTIVE, computes the phase error, checks it, adopts or corrects phase, and forwards it. -/
  | beatsyncRx (l : Nat) (m : BeatSync)
  /-- FSTEP_REQUEST_RX (R439). A received frequency request updates SUBTREE_CEIL and may send a request towards the root. -/
  | fstepRequestRx (l n : Nat)
  /-- FSTEP_ANNOUNCE_RX (R441). A received step announcement is forwarded once and recorded as pending, or logged FSTEP_LATE when late. -/
  | fstepAnnounceRx (l n atBeat : Nat) (seq : StepSeq)
  /-- ALARM_RX (R289). A received ALARM is logged as FLEET_ALARM, forwarded once, and makes the partition freeze at the next edge. -/
  | alarmRx (l : Nat) (m : CanopyMsg)
  /-- ARRIVE_RX (R279). A package node receives an ARRIVE from a child and compares it with its instance. -/
  | arriveRx (l c : Nat) (a : Arrive)
  /-- RELEASE_RX (R280). A RELEASE received from the parent is forwarded and applied to local participants 32 cyc later. -/
  | releaseRx (l : Nat) (bid : ReleaseMsg) (c : Nat)
  /-- FAULT_RECORD (R632). A fault record reaches the package fault controller, is logged, and decides whether a fleet alarm follows. -/
  | faultRecord
  /-- HBM_PATROL (R305). In each refresh window every channel patrols 4 lines, correcting and rewriting them. -/
  | hbmPatrol (d ch c : Nat)
  /-- STRETCHED_CYCLE (R446). A region's droop monitor takes a stretched cycle and logs STRETCH_LIMIT when STRETCH_MAX is exceeded. -/
  | stretchedCycle (d r c : Nat)
  /-- FIFO_RANGE (R448). A crossing FIFO whose occupancy reaches 0 or 8 logs REGION_SLIP FIFO_RANGE. -/
  | fifoRange (d x occ c : Nat)
  /-- LOCKING (R424). A non-root package enters LOCKING when TIMING_LINK is UP with RTT measured. -/
  | locking
  /-- PLL_LOCK (R424). The core PLL locks to TIMING_ACTIVE and the package enters LOCKED. -/
  | pllLock (us : Nat)
  /-- TIMING_LOST (R437). After 10 ms in HOLDOVER the package falls to FREERUN and raises a fleet alarm. -/
  | timingLost (us : Nat)
  /-- REFCLK_LOSS (R659). REFCLK absent for 1 µs at the root or in FREERUN logs TIMING_LOST and raises a fleet alarm. -/
  | refclkLoss (ns : Nat)
  /-- TIME_PPS (R660). A TIME_PPS rising edge is stamped at the timing root and assigned TIME_SEC. -/
  | timePps (c frac ms : Nat)
  /-- PPS_TIMEOUT (R449). PPS_LAST valid clears when no edge has arrived for 1.5 s. -/
  | ppsTimeout (ms : Nat)
  /-- FRAME_START (R360). A new data frame starts sending when window, replay buffer room and credits allow, and is numbered at its trailer. -/
  | frameStart (l : Nat) (cls : TClass) (c : Nat)
  /-- REPLAY_SEND (R360). A queued replay is sent in the unscheduled share with its original SEQ. -/
  | replaySend (l c : Nat)
  /-- FRAME_FORWARD (R358). A forwarding package chooses the outgoing link and sends the frame on when stream, slot and credits allow. -/
  | frameForward (l c : Nat)
  /-- DATA_FRAME_RX (R361). A data frame is accepted, discarded as duplicate or framing or CRC error, marks lost sequences, and its packet is delivered or forwarded. -/
  | dataFrameRx (l c : Nat) (str : Stream) (order : FrameHeads) (fr : List Byte)
  /-- KEEPALIVE (R361). A received KEEPALIVE marks sequences up to TX_LAST lost. -/
  | keepalive (l : Nat) (txLast : Option Nat) (t : Trailer)
  /-- NAK (R360). A received NAK queues replays of the frames its MISS bits name. -/
  | nak (l base miss : Nat) (t : Trailer)
  /-- IDENT (R369). A received IDENT updates the PEER entries and moves the link from TRAINING to PROBING or PROBING to UP. -/
  | ident (l : Nat) (m : Ident) (t : Trailer)
  /-- RESUME (R370). A RESUME exchange in HOLD returns the link to UP and replays frames after the peer's RX_BASE. -/
  | resume (l rxBase txNext : Nat) (t : Trailer)
  /-- ACK (R373). An SV2 ACK link frame frees acknowledged frames at the sender. -/
  | ack (l : Nat) (t : Trailer)
  /-- SV2_ACK_TIMER (R373). 500 ns after an unacknowledged acceptance the SV2 receiver sends an ACK link frame. -/
  | sv2AckTimer (l ns : Nat)
  /-- KEEPALIVE_IDLE (R367). 1 µs after the last frame sent the link sends a KEEPALIVE. -/
  | keepaliveIdle (l ns : Nat)
  /-- ACK_REFRESH (R367). 256 ns after an unsent ACK or credit change the link sends a KEEPALIVE. -/
  | ackRefresh (l ns : Nat)
  /-- DOWN (R368). 8 µs without a valid frame takes an UP link DOWN and into HOLD. -/
  | down (l ns : Nat)
  /-- ALIGNMENT_LOST (R344). Four consecutive missing or undecodable markers take the link DOWN into HOLD. -/
  | alignmentLost (l n : Nat)
  /-- LANE_SIGNAL_LOSS (R368). A receive lane losing signal takes the link DOWN into HOLD. -/
  | laneSignalLoss (l lane : Nat)
  /-- NAK_REPEAT (R367). 2 µs after a NAK whose sequences are still lost the NAK is sent again. -/
  | nakRepeat (l ns : Nat)
  /-- REPLAY_TIMER (R360). A frame's replay timer expires and a replay is queued, or the link fails at the replay limit. -/
  | replayTimer (l seq ns : Nat)
  /-- CREDIT_TIMEOUT (R367). 20 µs of credit wait with no credit returned fails the link. -/
  | creditTimeout (l ns : Nat)
  /-- HOLD_EXPIRED (R367). 50 µs in HOLD without resume fails the link. -/
  | holdExpired (l ns : Nat)
  /-- TRAIN_ATTEMPT (R367). 1 s in TRAINING restarts training and counts TRAIN_FAILS. -/
  | trainAttempt (l ms : Nat)
  /-- TRAINING_DONE (R374). Lanes trained, aligned and IDENT exchanged move the link from TRAINING to PROBING. -/
  | trainingDone (l : Nat)
  /-- HOLD_RETRAIN_DONE (R370). Lanes retrained and realigned in HOLD with unchanged IDENT lead to the RESUME exchange. -/
  | holdRetrainDone (l : Nat)
  /-- RTT_WINDOW_END (R427). A marker-echo window of 256 rings ends and RTT is taken as the median measurement. -/
  | rttWindowEnd (l : Nat) (meas : List Nat)
  /-- LINK_ADMIN (R369). A write of LINK_ADMIN starts training, enables UP, or disables the link. -/
  | linkAdmin (ses l : Nat) (val : List Byte)
  /-- LINK_RETRAIN (R376). INVOKE of LINK_RETRAIN retrains the link and completes at PROBING or with STATE after 4 failed attempts. -/
  | linkRetrain (ses l : Nat)
  /-- LINK_SELFTEST (R375). INVOKE of LINK_SELFTEST runs a PRBS test for TEST_MS in state TEST. -/
  | linkSelftest (ses l : Nat)
  /-- LINK_SELFTEST_END (R375). The link test ends, fills TEST_RESULT and returns the link to DISABLED. -/
  | linkSelftestEnd (l : Nat) (res : LinkTest)
  /-- MY_COORD (R381). A write of MY_COORD resets the route tables and sends a fresh IDENT on every PROBING or UP link. -/
  | myCoord (ses : Nat) (val : List Byte)
  /-- BUNDLES (R409). A write of a partition's bundles returns a LOADED or COMPLETE plan to NONE. -/
  | bundles (ses p : Nat) (val : List Byte)
  /-- ROUTE_TABLE_WRITE (R389). A write of ROUTE_X to ROUTE_W is checked and returns a LOADED or COMPLETE plan to NONE. -/
  | routeTableWrite (ses p dim : Nat) (val : List Byte)
  /-- RANK_WINDOW_WRITE (R409). A write of RANK_BASE or RANK_LEN is checked and returns a LOADED or COMPLETE plan to NONE. -/
  | rankWindowWrite (ses p : Nat) (len : Bool) (val : List Byte)
  /-- RANK_TABLE_WRITE (R415). A write replaces 256 rank table elements and returns affected LOADED or COMPLETE plans to NONE. -/
  | rankTableWrite (ses q : Nat) (val : List Byte)
  /-- TIMING_CONFIG_WRITE (R423). A write of TIMING_ROOT, TIMING_LINK, TIMING_ALT or TIMING_PART puts the package in FREERUN. -/
  | timingConfigWrite (ses sub : Nat) (val : List Byte)
  /-- STRETCH_FRAC (R231). A write of STRETCH_FRAC recomputes STRETCH_MAX, refused when it would exceed a loaded plan's RESERVE. -/
  | stretchFrac (ses : Nat) (val : List Byte)
  /-- BEAT_K_AT (R226). A write of BEAT_K_AT arms or cancels a beat-length change. -/
  | beatKAt (ses : Nat) (val : List Byte)
  /-- PLAN_START_BEAT (R187). A write of PLAN_START_BEAT arms or disarms the start beat of a LOADED plan. -/
  | planStartBeat (ses p : Nat) (val : List Byte)
  /-- BRK_CTL (R224). A write of BRK_CTL enables break conditions and clears BRK_HIT. -/
  | brkCtl (ses : Nat) (val : List Byte)
  /-- PLAN_LOAD (R179). INVOKE of PLAN_LOAD issues a handle and starts copying, checking, relocating and placing the image. -/
  | planLoad (ses p : Nat) (arg : List Byte)
  /-- PLAN_LOAD_COMPLETE (R179). The load completes with the first applicable status, and on OK the plan becomes LOADED with its restore image written. -/
  | planLoadComplete (p : Nat) (ready : Unit)
  /-- PLAN_RESET (R647). A write of PLAN_RESET starts a plan reset of a FROZEN or COMPLETE partition. -/
  | planReset (ses p : Nat) (val : List Byte)
  /-- PLAN_RESET_COMPLETE (R636). The plan reset restores CM, OC and KM from the restore image and returns the plan to LOADED, or to NONE on an uncorrectable error. -/
  | planResetComplete (p us : Nat)
  /-- DICT_GET (R604). A GET message reads an entry after the role, access and existence checks. -/
  | dictGet (ses idx sub : Nat)
  /-- DICT_SET (R601). A SET message writes an entry that has no behaviour of its own, after the checks of R17. -/
  | dictSet (ses idx sub : Nat) (val : List Byte)
  /-- POLL (R611). A POLL returns the handle record of a long operation. -/
  | poll (ses h : Nat)
  /-- LOCK (R607). A LOCK takes, renews or takes over the session lock, or returns LOCKED. -/
  | lock (ses : Nat)
  /-- UNLOCK (R609). An UNLOCK by the holder releases the session lock. -/
  | unlock (ses : Nat)
  /-- LOCK_LEASE_EXPIRY (R609). The 2 s lease ends and the session lock is released. -/
  | lockLeaseExpiry (ms : Nat)
  /-- HANDLE_EXPIRY (R612). A DONE handle expires 60 s after completion and leaves the handle table. -/
  | handleExpiry (h sec : Nat)
  /-- LOG_READ (R646). A read of LOG_READ returns up to 256 visible fault log entries and advances LOG_SEEK. -/
  | logRead (ses : Nat)
  /-- MB_GO (R586). Writing GO in MB_CTL submits the mailbox message, which is processed and answered with DONE and vector 0. -/
  | mbGo (len : Nat) (req : List Byte) (dict : Bool) (clr : MbWrites) (ev : Nat)
  /-- H2M_TAIL (R590). The host posts H2M ring entries and the module takes them in index order. -/
  | h2mTail (slot tail : Nat) (ents : List (List Byte))
  /-- M2H_TAIL (R596). The host posts empty M2H buffers and waiting records, acknowledgements and read data are written. -/
  | m2hTail (slot tail : Nat) (ents : List (List Byte))
  /-- RING_WRITE (R590). A write of RING_H2M or RING_M2H sets the ring, clears RING_ERR and resets its indices. -/
  | ringWrite (ses : Nat) (m2h : Bool) (val : List Byte)
  /-- HOST_WRITE (R591). A DIR 0 KIND 0x01 record is decrypted, checked and written to HBM, then acknowledged. -/
  | hostWrite (slot : Nat) (hdr : List Byte) (hr : HostRec)
  /-- HOST_READ_REQUEST (R591). A DIR 0 KIND 0x02 record reads HBM and is answered by read data records and an acknowledgement. -/
  | hostReadRequest (slot : Nat) (hdr : List Byte) (hr : HostRec)
  /-- SERVE_COMMAND_RECORD (R591). A DIR 0 KIND 0x03 record carries serving commands that are answered in order. -/
  | serveCommandRecord (slot : Nat) (hdr : List Byte) (hr : HostRec)
  /-- INSTALL_CHUNK (R460). A DIR 0 KIND 0x04 chunk is taken by the install, its leaf computed, encrypted and programmed. -/
  | installChunk (slot : Nat) (hdr : List Byte) (hr : HostRec)
  /-- PERST_N (R583). PERST_N resets the PCIe function and ends mailbox and VDM sessions with their rings. -/
  | perstN
  /-- MGMT_PACKET_RX (R599). An MGMT packet is assembled as an MCTP packet and handled, or an outgoing MCTP packet to a peer EID is bridged. -/
  | mgmtPacketRx (l : MctpFrom) (pk : Packet)
  /-- SET_ENDPOINT_ID (R598). MCTP control Set Endpoint ID sets the module's EID on that binding. -/
  | setEndpointId (b eid : Nat)
  /-- GET_ENDPOINT_ID (R598). MCTP control Get Endpoint ID returns the EID. -/
  | getEndpointId (b : Nat)
  /-- GET_MCTP_VERSION_SUPPORT (R598). MCTP control Get MCTP Version Support returns the supported versions. -/
  | getMctpVersionSupport (b : Nat)
  /-- GET_MESSAGE_TYPE_SUPPORT (R598). MCTP control Get Message Type Support returns the accepted message types. -/
  | getMessageTypeSupport (b : Nat)
  /-- GET_VENDOR_DEFINED_MSG_SUPPORT (R598). MCTP control Get Vendor Defined Message Support returns the vendor-defined support. -/
  | getVendorDefinedMsgSupport (b : Nat)
  /-- GET_VERSION (R561). SPDM GET_VERSION is answered with version 1.3. -/
  | getVersion (b : Nat)
  /-- GET_CAPABILITIES (R561). SPDM GET_CAPABILITIES is answered with the responder capabilities. -/
  | getCapabilities (b : Nat)
  /-- NEGOTIATE_ALGORITHMS (R561). SPDM NEGOTIATE_ALGORITHMS selects P-384, SHA-384, secp384r1 and AES-256-GCM. -/
  | negotiateAlgorithms (b : Nat)
  /-- GET_DIGESTS (R561). SPDM GET_DIGESTS returns the digest of certificate slot 0. -/
  | getDigests (b : Nat)
  /-- GET_CERTIFICATE (R559). SPDM GET_CERTIFICATE returns the five-link chain of slot 0. -/
  | getCertificate (b slot off len : Nat)
  /-- CHALLENGE (R562). SPDM CHALLENGE is answered with CHALLENGE_AUTH signed by AK. -/
  | challenge (b : Nat) (nonce : List Byte)
  /-- GET_MEASUREMENTS (R563). SPDM GET_MEASUREMENTS returns the measurement blocks the requester may receive, signed by AK. -/
  | getMeasurements (b : Nat) (ses : Option Nat) (nonce : List Byte)
  /-- KEY_EXCHANGE (R537). SPDM KEY_EXCHANGE with mutual authentication opens a session whose role is fixed by the requester's key, or is refused. -/
  | keyExchange (b : Nat) (key : List Byte) (vendor mutualOk : Bool)
  /-- FINISH (R561). SPDM FINISH completes the session handshake. -/
  | finish (b ses : Nat) (ok : Bool)
  /-- KEY_UPDATE (R566). SPDM KEY_UPDATE renews the session data keys and resets the record count limit. -/
  | keyUpdate (ses : Nat)
  /-- HEARTBEAT (R561). SPDM HEARTBEAT keeps the session alive. -/
  | heartbeat (ses : Nat)
  /-- END_SESSION (R621). SPDM END_SESSION ends the session and discards its rings, sink, events and lock. -/
  | endSession (ses : Nat)
  /-- SUBMIT (R490). A SUBMIT command is checked and takes the lowest FREE entry as QUEUED with its input pages, or is refused. -/
  | submit (ses : Option Nat) (cmd : List Byte)
  /-- CANCEL (R483). A CANCEL drops a QUEUED entry at once or makes an ACTIVE entry CANCEL_PENDING. -/
  | cancel (ses : Option Nat) (cmd : List Byte)
  /-- SERVE_MAINT (R503). A write of SERVE_MAINT puts the serving unit into or out of MAINTENANCE. -/
  | serveMaint (ses : Nat) (val : List Byte)
  /-- SERVE_SELFTEST (R503). INVOKE of SERVE_SELFTEST tests the table and record store and leaves every entry FREE within 50 ms. -/
  | serveSelftest (ses : Nat)
  /-- CTX_INSTALL (R460). INVOKE of CTX_INSTALL checks the manifest, verifies it, reserves space, generates the key and enters INSTALLING. -/
  | ctxInstall (ses c : Nat) (arg : List Byte)
  /-- HOST_IDLE (R462). No chunk for 10 s fails the install, crypto-erasing the new key. -/
  | hostIdle (c ms : Nat)
  /-- CTX_GRAFT (R464). INVOKE of CTX_GRAFT checks the target and queues the graft. -/
  | ctxGraft (ses c : Nat)
  /-- GRAFT_START (R467). A queued graft leaves QUEUED when the previous graft or test ends and begins reading and verifying. -/
  | graftStart (ue : Bool)
  /-- GRAFT_COMPLETE (R464). All chunks have landed and verified, the context becomes GRAFTED, or the graft fails. -/
  | graftComplete (bad : Option Nat) (ue : Bool)
  /-- CTX_RELEASE (R470). INVOKE of CTX_RELEASE returns a GRAFTED context to READY. -/
  | ctxRelease (ses c : Nat)
  /-- CTX_ERASE (R471). INVOKE of CTX_ERASE crypto-erases a READY or INCOMPLETE context and makes it EMPTY. -/
  | ctxErase (ses c : Nat)
  /-- FLASH_MAINT (R476). A write of FLASH_MAINT puts flash controllers into or out of MAINTENANCE. -/
  | flashMaint (ses : Nat) (val : List Byte)
  /-- FLASH_SELFTEST (R477). INVOKE of FLASH_SELFTEST reads every programmed page of the named controllers. -/
  | flashSelftest (ses : Nat)
  /-- FLASH_SELFTEST_END (R477). The flash test ends, fills its result and releases queued grafts. -/
  | flashSelftestEnd (res : List Byte)
  /-- HBM_SELFTEST (R336). INVOKE of HBM_SELFTEST overwrites and tests the HBM of the named dies. -/
  | hbmSelftest (ses : Nat)
  /-- HBM_SELFTEST_END (R336). The HBM test ends, leaves the HBM zero and fills HBM_TEST_RESULT. -/
  | hbmSelftestEnd (fail : List Nat)
  /-- POWER_FAIL (R657). VIN out of window or PWR_EN low for 20 µs switches off the compute rails and runs the hold-up sequence. -/
  | powerFail (mv us : Nat) (pwrEn : Bool)
  /-- HOLDUP_END (R658). At the end of the hold-up sequence the module powers down, then cold starts if input power and PWR_EN allow. -/
  | holdupEnd (mv : Nat) (pwrEn : Bool)
  /-- SENSOR_SAMPLE (R510). Every 20 µs the junction sensors are sampled and compared with the trip temperatures. -/
  | sensorSample (d : Nat) (raw : List Int) (hbm : List Int)
  /-- CALIBRATION_INTERVAL (R517). Every 1 ms each estimated rail's fit is updated and phase energies are attributed and learned; with
  the samples of rail r's voltage and current in the interval, in mV and mA, and the coolant and board sensors. -/
  | calibrationInterval (r : Nat) (meas : List (Nat × Nat)) (coolant : Int × Int) (board : List Int)
  /-- SENSE_OPEN (R515). A sense pair implausible for 10 samples is open, logged, and the regulator falls back to local sense. -/
  | senseOpen (r n : Nat)
  /-- SENSE_MISMATCH (R519). A rail discrepancy over 20 % for 5 intervals is classed as SENSE_MISMATCH, POWER_UNEXPLAINED or MODEL_DRIFT. -/
  | senseMismatch (r n : Nat) (above agreesEst : Bool)
  /-- SENSE_STATE (R520). Clearing a rail's bit in SENSE_STATE resumes calibration. -/
  | senseState (ses : Nat) (val : List Byte)
  /-- THERMTRIP (R532). A trip input held low for 10 µs is asserted and trips at once if the other is asserted. -/
  | thermtrip (b : Bool) (ns : Nat)
  /-- TRIP_DISCREPANCY (R532). One trip input asserted for 2 ms without the other trips the module, or a short glitch is logged. -/
  | tripDiscrepancy (us : Nat)
  /-- CAP_MISS_TRIP (R528). The 10 ms average above 1.05 × POWER_CAP for CAP_MISS_MS at full throttle trips the module. -/
  | capMissTrip (avgMw ms : Nat)
  /-- OWNER_CLAIM (R543). A valid OWNER_CLAIM registers the Owner and first Operator keys and makes the module OWNED. -/
  | ownerClaim (ses : Nat) (val secret : List Byte)
  /-- LIFECYCLE_NEXT (R541). A Vendor write of LIFECYCLE_NEXT moves MANUFACTURE or RMA to PROVISIONED. -/
  | lifecycleNext (ses : Nat) (val : List Byte)
  /-- RW2P_WRITE (R569). A signed write of a two-party entry becomes pending, or as second signature applies or discards the change. -/
  | rw2pWrite (ses idx sub : Nat) (val nonce sig : List Byte)
  /-- CHANGE_WINDOW_EXPIRY (R569). A pending change's 60 s window ends, the change is discarded and a new nonce is drawn. -/
  | changeWindowExpiry (sec : Nat)
  /-- DEBUG_REQ (R571). A write of DEBUG_REQ issues a fresh debug challenge. -/
  | debugReq (ses : Nat) (val : List Byte)
  /-- DEBUG_RESPONSE (R572). A verifying DEBUG_RESPONSE opens the debug level and re-derives AK; otherwise the challenge is consumed. -/
  | debugResponse (ses : Nat) (val ownerKey vendorKey : List Byte)
  /-- DEBUG_CHALLENGE_EXPIRY (R571). A debug challenge becomes invalid 60 s after issue. -/
  | debugChallengeExpiry (sec : Nat)
  /-- DEBUG_CLOSE (R574). A write of DEBUG_CLOSE sets DEBUG_LEVEL to 0. -/
  | debugClose (ses : Nat) (val : List Byte)
  /-- PART_ASSIGN (R548). INVOKE of PART_ASSIGN assigns an IDLE partition, scrubbing first when PART_USED = 1. -/
  | partAssign (ses p : Nat)
  /-- PART_RELEASE (R549). INVOKE of PART_RELEASE makes the partition DIRTY, through a fleet alarm and freeze when RUNNING. -/
  | partRelease (ses p : Nat)
  /-- PART_MAINT (R548). A write of PART_MAINT moves the partition between IDLE and MAINTENANCE. -/
  | partMaint (ses p : Nat) (val : List Byte)
  /-- PART_ERASE_CTX (R554). A write of PART_ERASE_CTX names contexts to crypto-erase at the next scrub. -/
  | partEraseCtx (ses p : Nat) (val : List Byte)
  /-- PART_SCRUB (R555). INVOKE of PART_SCRUB restarts the scrub of a DIRTY partition. -/
  | partScrub (ses p : Nat)
  /-- SCRUB_LINK_DRAIN (R552). A partition link not empty 100 µs after scrub entry goes to DISABLED. -/
  | scrubLinkDrain (l us : Nat)
  /-- SCRUB_COMPLETE (R551). The scrub ends, clears the state store record and makes the partition IDLE or ASSIGNED, or DIRTY on failure. -/
  | scrubComplete (p us : Nat) (bad : Option (Nat × Nat))
  /-- FW_UPDATE (R575). INVOKE of FW_UPDATE copies, hashes, verifies and SVN-checks an image and stores it to the inactive copy. -/
  | fwUpdate (ses : Nat) (arg : List Byte) (img : FwImage)
  /-- ATTEST (R610). INVOKE of ATTEST produces a signed MEASUREMENTS response over the session's blocks. -/
  | attest (ses : Nat) (nonce : List Byte)
  /-- FREQ_CHANGE (R443). INVOKE of FREQ_CHANGE at the root completes when the resulting step takes effect. -/
  | freqChange (ses : Nat)
  /-- SLOT_RETIRE (R640). A write of SLOT_RETIRE persistently retires a slot, cluster or link and returns a plan that binds it to NONE. -/
  | slotRetire (ses : Nat) (val : List Byte)
  /-- RETIRE_CLEAR (R640). A Vendor write of RETIRE_CLEAR in RMA clears every retirement. -/
  | retireClear (ses : Nat) (val : List Byte)
  /-- COLD_START (R622). PWR_EN accepted with VIN in range starts a cold start through the start-up stages. -/
  | coldStart (mv ms : Nat) (pwrEn : Bool)
  /-- START_UP_STAGE (R625). A start-up stage ends and the next begins, or the module moves to HALTED. -/
  | startUpStage (ok : Bool) (slots : List Nat)
  /-- MODULE_RST_N (R623). MODULE_RST_N held low for 1 µs warm-resets the package, and its rise starts start-up. -/
  | moduleRstN (level : Bool) (ns : Nat)
  /-- WARM_RESET (R623). A write of WARM_RESET starts a 1 ms warm reset within 10 ms. -/
  | warmReset (ses : Nat) (val : List Byte)
  /-- MC_RESET (R638). A write of MC_RESET restarts the MC. -/
  | mcReset (ses : Nat) (val : List Byte)
  /-- MC_LOCKSTEP_MISMATCH (R638). A lockstep mismatch restarts the MC and logs MC_RESTART. -/
  | mcLockstepMismatch
  /-- MC_WATCHDOG (R638). The 250 ms MC watchdog expires and restarts the MC. -/
  | mcWatchdog (ms : Nat)
  /-- MC_RESTART_DONE (R638). The MC reaches MC_STATE 0 and drains the kept fault entries. -/
  | mcRestartDone (ms : Nat)
  /-- MC_FAILED (R639). The third failed MC restart within 60 s holds the MC in reset, asserts FAULT_N and raises a fleet alarm. -/
  | mcFailed (ms : Nat)
  /-- REFCLK_RETURN (R659). REFCLK_P/N returns after a loss and the PLL, which held its last setting, follows it again. -/
  | refclkReturn
  /-- TRIP_INPUT_DEASSERT (R627). A board trip input returns high; during RAILS the rails are raised once both inputs read deasserted, and a single input released within 2 ms is logged as TRIP_GLITCH. -/
  | tripInputDeassert (b : Bool) (us : Nat)
  /-- ENVELOPE_LIMIT (R528). The 1 ms average of VIN power exceeds 1.05 × POWER_ENVELOPE and the module trips with cause POWER_ENVELOPE. -/
  | envelopeLimit (avgMw : Nat)
  /-- CODEWORD_DECODE_FAILURE (R350). A received codeword fails to decode, every frame in progress on the link is discarded, and a frame being forwarded is closed with ABORT. -/
  | codewordDecodeFailure (l : LostWord)
  /-- SERVE_SELFTEST_END (R503). The serving unit self-test ends, leaves every entry FREE, fills SERVE_TEST_RESULT and completes its handle. -/
  | serveSelftestEnd (pass : Bool)
  /-- FLASH_BLOCK_RETURN (R471). After a crypto-erase, the context's flash blocks are returned to FLASH_FREE in the background. -/
  | flashBlockReturn (c : Nat)
  /-- ENTDAA (R597). The I3C bus owner assigns the MC's dynamic address by ENTDAA. -/
  | entdaa (addr : Nat)
  deriving DecidableEq, Repr

end Sys2Proof
end

