-- ==== Sys2Proof/Decode.lean ====
section
/-! DEFINITION. The command that a table word spells. No row of spec/opcode_table.json gives its command any bits ("fields" is
empty in every row), so no word spells one. -/

namespace Sys2Proof

/-- The command that the `nbits` bits of `w` spell by the table: none, because the table gives no row any bits. -/
def decodeTableWord (_nbits _w : Nat) : Option Instr := none

end Sys2Proof
end

