-- ==== Sys2Proof/Machine/Crypto.lean ====
section
/-! DEFINITION. The algorithms that the spec names: SHA-384 (R178, R459, R568), AES-256 (R457, R560, R565), XTS over 4 KiB data units
(R457), the AES key wrap of RFC 3394 (R560), and AES-256-GCM for bulk records (R564, R565). Each is written from its public definition
(FIPS 180-4, FIPS 197, IEEE 1619, RFC 3394, SP 800-38D). -/

namespace Sys2Proof

/-! ### SHA-384 -/

/-- The round constants of SHA-384: the first 64 bits of the fractional parts of the cube roots of the first 80 primes. -/
def Sha.k : List (BitVec 64) :=
  [0x428A2F98D728AE22, 0x7137449123EF65CD, 0xB5C0FBCFEC4D3B2F, 0xE9B5DBA58189DBBC,
   0x3956C25BF348B538, 0x59F111F1B605D019, 0x923F82A4AF194F9B, 0xAB1C5ED5DA6D8118,
   0xD807AA98A3030242, 0x12835B0145706FBE, 0x243185BE4EE4B28C, 0x550C7DC3D5FFB4E2,
   0x72BE5D74F27B896F, 0x80DEB1FE3B1696B1, 0x9BDC06A725C71235, 0xC19BF174CF692694,
   0xE49B69C19EF14AD2, 0xEFBE4786384F25E3, 0x0FC19DC68B8CD5B5, 0x240CA1CC77AC9C65] ++
  [0x2DE92C6F592B0275, 0x4A7484AA6EA6E483, 0x5CB0A9DCBD41FBD4, 0x76F988DA831153B5,
   0x983E5152EE66DFAB, 0xA831C66D2DB43210, 0xB00327C898FB213F, 0xBF597FC7BEEF0EE4,
   0xC6E00BF33DA88FC2, 0xD5A79147930AA725, 0x06CA6351E003826F, 0x142929670A0E6E70,
   0x27B70A8546D22FFC, 0x2E1B21385C26C926, 0x4D2C6DFC5AC42AED, 0x53380D139D95B3DF,
   0x650A73548BAF63DE, 0x766A0ABB3C77B2A8, 0x81C2C92E47EDAEE6, 0x92722C851482353B] ++
  [0xA2BFE8A14CF10364, 0xA81A664BBC423001, 0xC24B8B70D0F89791, 0xC76C51A30654BE30,
   0xD192E819D6EF5218, 0xD69906245565A910, 0xF40E35855771202A, 0x106AA07032BBD1B8,
   0x19A4C116B8D2D0C8, 0x1E376C085141AB53, 0x2748774CDF8EEB99, 0x34B0BCB5E19B48A8,
   0x391C0CB3C5C95A63, 0x4ED8AA4AE3418ACB, 0x5B9CCA4F7763E373, 0x682E6FF3D6B2B8A3,
   0x748F82EE5DEFB2FC, 0x78A5636F43172F60, 0x84C87814A1F0AB72, 0x8CC702081A6439EC] ++
  [0x90BEFFFA23631E28, 0xA4506CEBDE82BDE9, 0xBEF9A3F7B2C67915, 0xC67178F2E372532B,
   0xCA273ECEEA26619C, 0xD186B8C721C0C207, 0xEADA7DD6CDE0EB1E, 0xF57D4F7FEE6ED178,
   0x06F067AA72176FBA, 0x0A637DC5A2C898A6, 0x113F9804BEF90DAE, 0x1B710B35131C471B,
   0x28DB77F523047D84, 0x32CAAB7B40C72493, 0x3C9EBE0A15C9BEBC, 0x431D67C49C100D4C,
   0x4CC5D4BECB3E42B6, 0x597F299CFC657E2A, 0x5FCB6FAB3AD6FAEC, 0x6C44198C4A475817]

/-- The initial hash value of SHA-384. -/
def Sha.init : List (BitVec 64) :=
  [0xCBBB9D5DC1059ED8, 0x629A292A367CD507, 0x9159015A3070DD17, 0x152FECD8F70E5939,
   0x67332667FFC00B31, 0x8EB44A8768581511, 0xDB0C2E0D64F98FA7, 0x47B5481DBEFA4FA4]

/-- A big-endian number of bytes. -/
def beNat (l : List Byte) : Nat := l.foldl (fun n b => n * 256 + b.toNat) 0

/-- The `n` big-endian bytes of a number. -/
def beBytes (n v : Nat) : List Byte := (leBytes n v).reverse

/-- A message padded to whole blocks of 128 bytes: 0x80, zeros, its length in bits. -/
def Sha.pad (l : List Byte) : List Byte :=
  l ++ [0x80] ++ List.replicate ((239 - l.length % 128) % 128) 0 ++ beBytes 16 (8 * l.length)

/-- The next word of a message schedule, from the latest 16 words, newest first. -/
def Sha.nextWord (w : List (BitVec 64)) : BitVec 64 :=
  let a := w.getD 1 0
  let b := w.getD 14 0
  (a.rotateRight 19 ^^^ a.rotateRight 61 ^^^ (a >>> 6)) + w.getD 6 0 + (b.rotateRight 1 ^^^ b.rotateRight 8 ^^^ (b >>> 7)) + w.getD 15 0

/-- `n` more words of a message schedule, newest first. -/
def Sha.schedule : Nat → List (BitVec 64) → List (BitVec 64)
  | 0, w => w
  | n + 1, w => Sha.schedule n (Sha.nextWord w :: w)

/-- One round on the eight working variables. -/
def Sha.round (v : List (BitVec 64)) (kw : BitVec 64) : List (BitVec 64) :=
  match v with
  | [a, b, c, d, e, f, g, h] =>
    let t1 := h + (e.rotateRight 14 ^^^ e.rotateRight 18 ^^^ e.rotateRight 41) + ((e &&& f) ^^^ (~~~e &&& g)) + kw
    let t2 := (a.rotateRight 28 ^^^ a.rotateRight 34 ^^^ a.rotateRight 39) + ((a &&& b) ^^^ (a &&& c) ^^^ (b &&& c))
    [t1 + t2, a, b, c, d + t1, e, f, g]
  | l => l

/-- One block of 128 bytes. -/
def Sha.block (h : List (BitVec 64)) (l : List Byte) : List (BitVec 64) :=
  let w0 := (List.range 16).map (fun i => BitVec.ofNat 64 (beNat ((l.drop (8 * i)).take 8)))
  let w := (Sha.schedule 64 w0.reverse).reverse
  let v := (List.zip Sha.k w).foldl (fun v x => Sha.round v (x.1 + x.2)) h
  (List.zip h v).map (fun x => x.1 + x.2)

/-- `n` blocks. -/
def Sha.blocks : Nat → List (BitVec 64) → List Byte → List (BitVec 64)
  | 0, h, _ => h
  | n + 1, h, l => Sha.blocks n (Sha.block h (l.take 128)) (l.drop 128)

/-- The SHA-384 digest of a message: the first six words after the last block. -/
def sha384 (l : List Byte) : List Byte :=
  let m := Sha.pad l
  (((Sha.blocks (m.length / 128) Sha.init m).take 6).map (fun (w : BitVec 64) => beBytes 8 w.toNat)).flatten

/-! ### AES-256 -/

/-- Twice an element of GF(2^8) modulo x^8 + x^4 + x^3 + x + 1. -/
def Aes.twice (a : Byte) : Byte := (a <<< 1) ^^^ (if a.msb then 0x1B else 0)

/-- The product of two elements; `n` bits of the second are left. -/
def Aes.mulN : Nat → Byte → Byte → Byte
  | 0, _, _ => 0
  | n + 1, a, b => (if b.getLsbD 0 then a else 0) ^^^ Aes.mulN n (Aes.twice a) (b >>> 1)

def Aes.mul (a b : Byte) : Byte := Aes.mulN 8 a b

/-- The substitution table: the inverse in GF(2^8), then an affine map of the bits. -/
def Aes.table : List Byte :=
  [0x63, 0x7C, 0x77, 0x7B, 0xF2, 0x6B, 0x6F, 0xC5, 0x30, 0x01, 0x67, 0x2B, 0xFE, 0xD7, 0xAB, 0x76] ++
  [0xCA, 0x82, 0xC9, 0x7D, 0xFA, 0x59, 0x47, 0xF0, 0xAD, 0xD4, 0xA2, 0xAF, 0x9C, 0xA4, 0x72, 0xC0] ++
  [0xB7, 0xFD, 0x93, 0x26, 0x36, 0x3F, 0xF7, 0xCC, 0x34, 0xA5, 0xE5, 0xF1, 0x71, 0xD8, 0x31, 0x15] ++
  [0x04, 0xC7, 0x23, 0xC3, 0x18, 0x96, 0x05, 0x9A, 0x07, 0x12, 0x80, 0xE2, 0xEB, 0x27, 0xB2, 0x75] ++
  [0x09, 0x83, 0x2C, 0x1A, 0x1B, 0x6E, 0x5A, 0xA0, 0x52, 0x3B, 0xD6, 0xB3, 0x29, 0xE3, 0x2F, 0x84] ++
  [0x53, 0xD1, 0x00, 0xED, 0x20, 0xFC, 0xB1, 0x5B, 0x6A, 0xCB, 0xBE, 0x39, 0x4A, 0x4C, 0x58, 0xCF] ++
  [0xD0, 0xEF, 0xAA, 0xFB, 0x43, 0x4D, 0x33, 0x85, 0x45, 0xF9, 0x02, 0x7F, 0x50, 0x3C, 0x9F, 0xA8] ++
  [0x51, 0xA3, 0x40, 0x8F, 0x92, 0x9D, 0x38, 0xF5, 0xBC, 0xB6, 0xDA, 0x21, 0x10, 0xFF, 0xF3, 0xD2] ++
  [0xCD, 0x0C, 0x13, 0xEC, 0x5F, 0x97, 0x44, 0x17, 0xC4, 0xA7, 0x7E, 0x3D, 0x64, 0x5D, 0x19, 0x73] ++
  [0x60, 0x81, 0x4F, 0xDC, 0x22, 0x2A, 0x90, 0x88, 0x46, 0xEE, 0xB8, 0x14, 0xDE, 0x5E, 0x0B, 0xDB] ++
  [0xE0, 0x32, 0x3A, 0x0A, 0x49, 0x06, 0x24, 0x5C, 0xC2, 0xD3, 0xAC, 0x62, 0x91, 0x95, 0xE4, 0x79] ++
  [0xE7, 0xC8, 0x37, 0x6D, 0x8D, 0xD5, 0x4E, 0xA9, 0x6C, 0x56, 0xF4, 0xEA, 0x65, 0x7A, 0xAE, 0x08] ++
  [0xBA, 0x78, 0x25, 0x2E, 0x1C, 0xA6, 0xB4, 0xC6, 0xE8, 0xDD, 0x74, 0x1F, 0x4B, 0xBD, 0x8B, 0x8A] ++
  [0x70, 0x3E, 0xB5, 0x66, 0x48, 0x03, 0xF6, 0x0E, 0x61, 0x35, 0x57, 0xB9, 0x86, 0xC1, 0x1D, 0x9E] ++
  [0xE1, 0xF8, 0x98, 0x11, 0x69, 0xD9, 0x8E, 0x94, 0x9B, 0x1E, 0x87, 0xE9, 0xCE, 0x55, 0x28, 0xDF] ++
  [0x8C, 0xA1, 0x89, 0x0D, 0xBF, 0xE6, 0x42, 0x68, 0x41, 0x99, 0x2D, 0x0F, 0xB0, 0x54, 0xBB, 0x16]

/-- The substitution of a byte, and its inverse. -/
def Aes.sub (a : Byte) : Byte := Aes.table.getD a.toNat 0
def Aes.subInv (a : Byte) : Byte := BitVec.ofNat 8 (Aes.table.findIdx (fun b => b == a))

/-- Two byte strings added bit by bit. -/
def xorBytes (a b : List Byte) : List Byte := (List.zip a b).map (fun x => x.1 ^^^ x.2)

/-- Bytes 4 × column + row of a state; row r moves left by r columns (`k` 1), or right (`k` 3). -/
def Aes.shiftRows (k : Nat) (l : List Byte) : List Byte := (List.range 16).map (fun i => l.getD ((i + 4 * (k * (i % 4))) % 16) 0)

/-- A column times the circulant matrix of a first row. -/
def Aes.column (m : List Byte) (c : List Byte) : List Byte :=
  (List.range 4).map (fun r => (List.range 4).foldl (fun x i => x ^^^ Aes.mul (m.getD ((i + 4 - r) % 4) 0) (c.getD i 0)) 0)

def Aes.columns (m : List Byte) (l : List Byte) : List Byte := ((List.range 4).map (fun c => Aes.column m ((l.drop (4 * c)).take 4))).flatten

/-- The words of the key schedule after the first eight, newest first: word `i` and on. -/
def Aes.expand : Nat → Nat → Byte → List (List Byte) → List (List Byte)
  | 0, _, _, w => w
  | n + 1, i, rc, w =>
    let t := w.headD []
    let t := if i % 8 = 0 then xorBytes ((t.drop 1 ++ t.take 1).map Aes.sub) [rc, 0, 0, 0] else if i % 8 = 4 then t.map Aes.sub else t
    Aes.expand n (i + 1) (if i % 8 = 0 then Aes.twice rc else rc) (xorBytes (w.getD 7 []) t :: w)

/-- The fifteen round keys of a 32-byte key. -/
def Aes.keys (key : List Byte) : List (List Byte) :=
  let w := (Aes.expand 52 8 1 ((List.range 8).map (fun i => (key.drop (4 * i)).take 4)).reverse).reverse
  (List.range 15).map (fun r => ((w.drop (4 * r)).take 4).flatten)

/-- The cipher on a block of 16 bytes, with the round keys. -/
def Aes.cipher (ks : List (List Byte)) (l : List Byte) : List Byte :=
  let l := (List.range 13).foldl (fun l r =>
    xorBytes (Aes.columns [2, 3, 1, 1] (Aes.shiftRows 1 (l.map Aes.sub))) (ks.getD (r + 1) [])) (xorBytes l (ks.headD []))
  xorBytes (Aes.shiftRows 1 (l.map Aes.sub)) (ks.getD 14 [])

/-- The inverse cipher. -/
def Aes.decipher (ks : List (List Byte)) (l : List Byte) : List Byte :=
  let l := (Aes.shiftRows 3 (xorBytes l (ks.getD 14 []))).map Aes.subInv
  let l := (List.range 13).foldl (fun l r =>
    (Aes.shiftRows 3 (Aes.columns [14, 11, 13, 9] (xorBytes l (ks.getD (13 - r) [])))).map Aes.subInv) l
  xorBytes l (ks.headD [])

/-! ### XTS (R457) -/

/-- A tweak times the primitive element of GF(2^128). -/
def Xts.next (t : BitVec 128) : BitVec 128 := (t <<< 1) ^^^ (if t.msb then 0x87 else 0)

/-- The blocks of a data unit under a cipher `f`, from the tweak of the first. -/
def Xts.blocks (f : List Byte → List Byte) : Nat → BitVec 128 → List Byte → List Byte
  | 0, _, _ => []
  | n + 1, t, l =>
    let tb := leBytes 16 t.toNat
    xorBytes (f (xorBytes (l.take 16) tb)) tb ++ Xts.blocks f n (Xts.next t) (l.drop 16)

/-- A data unit of whole blocks under a 64-byte key and a tweak; `dec` deciphers. -/
def Xts.unit (key : List Byte) (dec : Bool) (tweak : Nat) (l : List Byte) : List Byte :=
  let k1 := Aes.keys (key.take 32)
  let t := BitVec.ofNat 128 (leNat (Aes.cipher (Aes.keys (key.drop 32)) (leBytes 16 tweak)))
  Xts.blocks (if dec then Aes.decipher k1 else Aes.cipher k1) (l.length / 16) t l

/-! ### Key wrap (R560) -/

/-- Six passes over the 8-byte registers of a key; step `t` counts from 1. -/
def wrapPass (ks : List (List Byte)) : Nat → List Byte → List (List Byte) → List (List Byte) → List Byte × List (List Byte)
  | _, a, [], acc => (a, acc.reverse)
  | t, a, r :: rs, acc =>
    let b := Aes.cipher ks (a ++ r)
    wrapPass ks (t + 1) (xorBytes (b.take 8) (beBytes 8 t)) rs (b.drop 8 :: acc)

/-- A key of whole 8-byte registers wrapped under a 32-byte key: 8 bytes longer. -/
def keyWrap (kek key : List Byte) : List Byte :=
  let ks := Aes.keys kek
  let n := key.length / 8
  let r := (List.range 6).foldl (fun (x : List Byte × List (List Byte)) j => wrapPass ks (n * j + 1) x.1 x.2 [])
    (List.replicate 8 0xA6, (List.range n).map (fun i => (key.drop (8 * i)).take 8))
  r.1 ++ r.2.flatten

/-- One pass back, over the registers from the last one. -/
def unwrapPass (ks : List (List Byte)) : Nat → List Byte → List (List Byte) → List (List Byte) → List Byte × List (List Byte)
  | _, a, [], acc => (a, acc)
  | t, a, r :: rs, acc =>
    let b := Aes.decipher ks (xorBytes a (beBytes 8 t) ++ r)
    unwrapPass ks (t - 1) (b.take 8) rs (b.drop 8 :: acc)

/-- The key that a wrapped form holds, none when it was not wrapped under this key. -/
def keyUnwrap (kek w : List Byte) : Option (List Byte) :=
  let ks := Aes.keys kek
  let n := w.length / 8 - 1
  let r := (List.range 6).foldl (fun (x : List Byte × List (List Byte)) j => unwrapPass ks (n * (6 - j)) x.1 x.2.reverse [])
    (w.take 8, (List.range n).map (fun i => (w.drop (8 + 8 * i)).take 8))
  if r.1 = List.replicate 8 0xA6 then some r.2.flatten else none

/-! ### AES-256-GCM (R564, R565) -/

/-- The product of two blocks in GF(2^128) as GCM orders bits: one step for each bit of `x`, its most significant first. -/
def Gcm.mulN (x : BitVec 128) : Nat → BitVec 128 → BitVec 128 → BitVec 128
  | 0, z, _ => z
  | n + 1, z, v =>
    Gcm.mulN x n (if x.getLsbD n then z ^^^ v else z) ((v >>> 1) ^^^ (if v.getLsbD 0 then 0xE1#128 <<< 120 else 0))

def Gcm.mul (x h : BitVec 128) : BitVec 128 := Gcm.mulN x 128 0 h

/-- GHASH over whole blocks, the last filled with zeros. -/
def Gcm.hash (h : BitVec 128) : Nat → BitVec 128 → List Byte → BitVec 128
  | 0, y, _ => y
  | n + 1, y, l => Gcm.hash h n (Gcm.mul (y ^^^ BitVec.ofNat 128 (beNat (padTo 16 (l.take 16)))) h) (l.drop 16)

/-- Counter mode from counter value `c` on. -/
def Gcm.ctr (ks : List (List Byte)) (iv : List Byte) : Nat → Nat → List Byte → List Byte
  | 0, _, _ => []
  | n + 1, c, l => xorBytes (l.take 16) (Aes.cipher ks (iv ++ beBytes 4 (c % 2 ^ 32))) ++ Gcm.ctr ks iv n (c + 1) (l.drop 16)

/-- A text in counter mode: the same operation encrypts and decrypts. -/
def Gcm.crypt (key iv l : List Byte) : List Byte := Gcm.ctr (Aes.keys key) iv ((l.length + 15) / 16) 2 l

/-- The tag of additional authenticated data and a ciphertext, with an IV of 96 bits. -/
def Gcm.tag (key iv aad c : List Byte) : List Byte :=
  let ks := Aes.keys key
  let h := BitVec.ofNat 128 (beNat (Aes.cipher ks (List.replicate 16 0)))
  let y := Gcm.hash h ((c.length + 15) / 16) (Gcm.hash h ((aad.length + 15) / 16) 0 aad) c
  let y := Gcm.mul (y ^^^ BitVec.ofNat 128 (aad.length * 8 * 2 ^ 64 + c.length * 8)) h
  xorBytes (beBytes 16 y.toNat) (Aes.cipher ks (iv ++ beBytes 4 1))

/-- Ciphertext and tag of a plaintext. -/
def Gcm.seal (key iv aad plain : List Byte) : List Byte :=
  Gcm.crypt key iv plain ++ Gcm.tag key iv aad (Gcm.crypt key iv plain)

/-- The plaintext of a ciphertext whose tag verifies. -/
def Gcm.opens (key iv aad c tag : List Byte) : Option (List Byte) :=
  if tag = Gcm.tag key iv aad c then some (Gcm.crypt key iv c) else none

end Sys2Proof
end

