-- ==== Sys2Proof/Machine/Ecc.lean ====
section
/-! DEFINITION. The keyed algorithms that the spec names: HMAC-SHA-384 (R543) and HKDF-SHA-384 (R558), and ECDSA over P-384 (R558, R561,
R568, R572, R575, R576). Each is written from its public definition (RFC 2104, RFC 5869, FIPS 186-5, SP 800-186). -/

namespace Sys2Proof

/-! ### HMAC and HKDF -/

/-- A key brought to the block size of SHA-384, each byte added to a constant. -/
def Hmac.pad (key : List Byte) (c : Byte) : List Byte := (padTo 128 (if 128 < key.length then sha384 key else key)).map (fun b => b ^^^ c)

/-- HMAC-SHA-384. -/
def hmac384 (key msg : List Byte) : List Byte := sha384 (Hmac.pad key 0x5C ++ sha384 (Hmac.pad key 0x36 ++ msg))

/-- HKDF-SHA-384 with an output of at most 48 bytes. -/
def hkdf384 (salt ikm info : List Byte) (n : Nat) : List Byte :=
  (hmac384 (hmac384 (if salt.isEmpty then List.replicate 48 0 else salt) ikm) (info ++ [1])).take n

/-! ### The field and the group of P-384 -/

/-- The field prime. -/
def p384 : Nat := 2 ^ 384 - 2 ^ 128 - 2 ^ 96 + 2 ^ 32 - 1

/-- The constant b: Y² = X³ − 3X + b. -/
def p384b : Nat := 0xb3312fa7e23ee7e4988e056be3f82d19181d9c6efe8141120314088f5013875ac656398d8a2ed19d2a85c8edd3ec2aef

/-- The order of the group. -/
def p384n : Nat := 0xffffffffffffffffffffffffffffffffffffffffffffffffc7634d81f4372ddf581a0db248b0a77aecec196accc52973

/-- `a` to the power `e`, of `k` bits, modulo `m`. -/
def powMod (m a e : Nat) : Nat → Nat
  | 0 => 1 % m
  | k + 1 =>
    let r := powMod m a (e / 2) k
    if e % 2 = 0 then r * r % m else r * r % m * a % m

/-- The inverse modulo a prime of 384 bits. -/
def invMod (m a : Nat) : Nat := powMod m (a % m) (m - 2) 384

/-- A point in Jacobian coordinates; Z is 0 at the point at infinity. -/
structure EcPoint where
  x : Nat
  y : Nat
  z : Nat
  deriving DecidableEq, Repr

/-- The difference modulo the prime. -/
def subP (a b : Nat) : Nat := (a + p384 - b) % p384

def EcPoint.double (p : EcPoint) : EcPoint :=
  let d := p.z * p.z % p384
  let g := p.y * p.y % p384
  let b := p.x * g % p384
  let a := 3 * (subP p.x d * (p.x + d) % p384) % p384
  let x := subP (a * a % p384) (8 * b % p384)
  { x := x, y := subP (a * subP (4 * b % p384) x % p384) (8 * (g * g) % p384),
    z := subP ((p.y + p.z) * (p.y + p.z) % p384) ((g + d) % p384) }

def EcPoint.add (p q : EcPoint) : EcPoint :=
  if p.z = 0 then q
  else if q.z = 0 then p
  else
    let z1 := p.z * p.z % p384
    let z2 := q.z * q.z % p384
    let u1 := p.x * z2 % p384
    let s1 := p.y * (q.z * z2 % p384) % p384
    let h := subP (q.x * z1 % p384) u1
    let r := subP (q.y * (p.z * z1 % p384) % p384) s1
    if h = 0 then (if r = 0 then p.double else { x := 1, y := 1, z := 0 })
    else
      let h2 := h * h % p384
      let h3 := h * h2 % p384
      let v := u1 * h2 % p384
      let x := subP (r * r % p384) ((h3 + 2 * v) % p384)
      { x := x, y := subP (r * subP v x % p384) (s1 * h3 % p384), z := h * (p.z * q.z % p384) % p384 }

/-- `e` times a point: the sum so far, bit `n − 1` of `e` next. -/
def EcPoint.times (e : Nat) (p : EcPoint) : Nat → EcPoint → EcPoint
  | 0, q => q
  | n + 1, q =>
    let r := if e / 2 ^ n % 2 = 1 then q.double.add p else q.double
    if r.x + r.y + r.z = 0 then r else EcPoint.times e p n r

def EcPoint.mul (e : Nat) (p : EcPoint) : EcPoint := EcPoint.times e p 384 { x := 1, y := 1, z := 0 }

/-- The base point. -/
def EcPoint.base : EcPoint :=
  { x := 0xaa87ca22be8b05378eb1c71ef320ad746e1d3b628ba79b9859f741e082542a385502f25dbf55296c3a545e3872760ab7,
    y := 0x3617de4a96262c6f5d9e98bf9292dc29f8f41dbd289a147ce9da3113b5f0b8c00a60b1ce1d7e819d7a431d7c90ea0e5f, z := 1 }

/-- Affine coordinates of a point that is not at infinity. -/
def EcPoint.affine (p : EcPoint) : Nat × Nat :=
  let i := invMod p384 p.z
  let i2 := i * i % p384
  (p.x * i2 % p384, p.y * (i2 * i % p384) % p384)

/-! ### Keys and signatures -/

/-- An uncompressed SEC1 point of P-384: 0x04, X, Y with Y² = X³ − 3X + b. -/
def onCurve (k : List Byte) : Bool :=
  let x := beNat ((k.drop 1).take 48)
  let y := beNat (k.drop 49)
  k.length == 97 && leNat (k.take 1) == 4 && decide (x < p384 ∧ y < p384) &&
    y * y % p384 == (x * x * x + (p384 - 3) * x + p384b) % p384

/-- The public key of a private one. -/
def ecPublic (d : Nat) : List Byte :=
  let a := (EcPoint.base.mul d).affine
  [0x04] ++ beBytes 48 a.1 ++ beBytes 48 a.2

/-- A private key from 48 derived bytes: reduced modulo the group order, with 0 replaced by 1 (R558). -/
def ecPrivate (b : List Byte) : Nat := if beNat b % p384n = 0 then 1 else beNat b % p384n

/-- A signature r ‖ s of 96 bytes verifies under a public key for a digest of 48 bytes. -/
def ecVerify (key digest sig : List Byte) : Bool :=
  let r := beNat (sig.take 48)
  let t := beNat (sig.drop 48)
  onCurve key && sig.length == 96 && decide (0 < r ∧ r < p384n ∧ 0 < t ∧ t < p384n) &&
    (let w := invMod p384n t
     let p := (EcPoint.base.mul (beNat digest * w % p384n)).add
       (({ x := beNat ((key.drop 1).take 48), y := beNat (key.drop 49), z := 1 } : EcPoint).mul (r * w % p384n))
     p.z != 0 && p.affine.1 % p384n == r)

/-- The signature of a digest by private key `d` with the per-message number `k`. -/
def ecSign (d k : Nat) (digest : List Byte) : List Byte :=
  let r := (EcPoint.base.mul k).affine.1 % p384n
  beBytes 48 r ++ beBytes 48 (invMod p384n k * ((beNat digest + r * d) % p384n) % p384n)

end Sys2Proof
end

