-- ==== Sys2Proof/Config.lean ====
section
/-! DEFINITION. What an individual module fixes and the spec does not state: factory contents, the ROM library, secrets, and values that the spec leaves open. Each is an uninterpreted constant:
no proof can see what it is, so a claim holds whatever it is (log entries 3 to 6). -/

namespace Sys2Proof

/-- The routine library that ROM seeds into LM: the byte at an LM offset (R211, R625; log entry 4). -/
opaque Config.lmRom : Nat → Byte

/-- The 256-bit unique device secret in the fuses, as made (R557; log entry 5). -/
opaque Config.uds : List Byte

/-- The SHA-384 digests in the fuses, of the Vendor root key (0) and of the Vendor firmware key (1), as made (R557; log entry 5). -/
opaque Config.fuseDigest : Nat → List Byte

/-- Salt and label of a derivation with HKDF-SHA-384, by its number: R558 states the inputs and neither of these (log entry 48). -/
opaque Config.hkdfSalt : Nat → List Byte
opaque Config.hkdfLabel : Nat → List Byte

/-- What a certificate that the module issues says before its signature, by its link in the chain, the key that it certifies and the
measurements that it carries: its DER encoding is not stated (R559; log entry 48). -/
opaque Config.certBody : Nat → List Byte → List Byte → List Byte

/-- The claim secret whose digest CLAIM_HASH holds, and the Vendor key that a debug response of level 3 is signed with, where they come with a
SET: the spec does not say how the module has them (R543, R572; log entry 3). -/
opaque Config.claimSecret : List Byte → List Byte
opaque Config.vendorKey : List Byte

/-- The firmware image that an FW_UPDATE sent as an INVOKE by its index finds in host memory: by 0 its bytes, by 1 its key, by 2 its
signature, by 3 its SVN (R575, R604; log entry 3). -/
opaque Config.hostImage : Nat → List Byte → List Byte

/-- The bytes of an entry whose default the spec calls factory or random, by its key (R602); by 1, 2 and 4 the digests of the boot
ROM, package firmware and MC firmware as made, by 3 the fuse lock state (R562; log entry 5). -/
opaque Config.factory : Nat → List Byte

/-- The library that an LM firmware image carries, as LM bytes: the layout of a firmware image is not stated (R212, R575; log
entry 5). -/
opaque Config.libBytes : List Byte → List Byte

/-- The n-th value that the module draws at random: nonces, session IDs, context keys (R568, R571, R457; log entry 6). -/
opaque Config.randomDraw : Nat → BitVec 512

/-- Whether a read of flash that no command describes meets an uncorrectable error, by the free values drawn so far (R454; log entry 6). -/
opaque Config.flashUe : Nat → Bool

/-- When the first of the markers that a link sends left, in ps, and its ring number, by link and by how often that link had lost its state
(R344; log entry 6). -/
opaque Config.ringStart : Nat → Nat → Nat × Nat

/-- The symbols that a link's decoder corrects on a lane in a frame, by the free values drawn so far and the lane (R377; log entry 6). -/
opaque Config.fecSymbols : Nat → Nat → Nat

/-- A measured quantity that no command carries, by the key of the entry that shows it and the count of free values drawn
(R513, R534; log entry 6). -/
opaque Config.measured : Nat → Nat → Nat

/-- The energy in nJ at which firmware weighs one of a class of activity, by the kind of rail, 0 core, 1 SRAM, 2 HBM, 3 SerDes, 4 VD2D, and
the class (R516; log entry 5). -/
opaque Config.weight : Nat → Nat → Nat

/-- θ in °C/W and τ in ms of an HBM stack, as FP32 codes, held as made (R518; log entry 5). -/
opaque Config.stackTheta : Nat → Nat × Nat

/-- How far the thermal model's filter moves in an interval towards its target, by τ: the filter's form is not stated (R518; log entry 6). -/
opaque Config.filterStep : Nat → Rat

end Sys2Proof
end

