-- ==== Sys2Proof/Machine/State.lean ====
section
/-! DEFINITION. The state of one SV4 module as plain data, the reasons a step can stop, and the state after reset.
Every numeric dictionary entry has its home in `regs` and every STR, BLOB and TABLE entry in `blobs`, keyed index × 256 +
sub-index; an unlisted key reads the entry's default (Dict.lean). CM, OC, KM, LM and HBM share one byte store `mem`. -/

namespace Sys2Proof.Machine

/-- Why a step stops with a fault. -/
inductive Fault where
  /-- Raised by every meaning whose command names a core, die, cluster, link, channel or slot that the variant does not fit
  (R1, R19). Safe: such a unit does not exist, so nothing of it can act. -/
  | absentUnit
  /-- Raised by a partition's command whose operand is not the lowest die of a partition (R546). Safe: there is no such
  partition. -/
  | noPartition
  deriving DecidableEq, Repr

/-- Why a step is refused. -/
inductive Refusal where
  /-- Raised by `exec` for a command that has no meaning yet. Safe: the machine stops. -/
  | notModelled (mnemonic : String)
  deriving DecidableEq, Repr

/-- The ordering code (R1). -/
inductive Variant where
  | x | t | h
  deriving DecidableEq, Repr

/-- The role of a session (R12, R537); `restricted` is the session of an unclaimed module. -/
inductive Role where
  | vd | ow | op | tn | restricted
  deriving DecidableEq, Repr

/-- The dictionary status codes (R15), in the order of their codes. -/
inductive Status where
  | ok | noIndex | noSub | denied | type | range | busy | absent | needsSecond | locked | noHandle | state
  deriving DecidableEq, Repr

/-- Access codes (R13). -/
inductive Acc where
  | ro | rw | wo | w1c | rw2p | inv
  deriving DecidableEq, Repr

/-- Value types (R600). -/
inductive VTy where
  | num (bytes : Nat) | i32 | f32 | bool | enum | str (max : Nat) | blob (max : Nat) | table (bytes : Nat) | inv
  deriving DecidableEq, Repr

/-- What a written number must satisfy (the Range column). -/
inductive Rng where
  | any | between (lo hi : Nat) | oneOf (l : List Nat) | mask (m : Nat)
  deriving DecidableEq, Repr

/-- Which instances an entry has: one, one per die, per partition (by lowest die), per link (0x10 apart), per context, per rank
table page, or the requesting session's own. -/
inductive Inst where
  | pkg | die | part | link | ctx | rank | self
  deriving DecidableEq, Repr

/-- An entry's default: a number per variant, bytes per variant, all zero at full length, empty, or factory-set. -/
inductive Dflt where
  | num (x t h : Nat) | bytes (x t h : List Nat) | zeros | empty | factory
  deriving DecidableEq, Repr

/-- One row of a dictionary table (R11 to R13, R602); `load` and `scrub` say whether it returns to its default at plan load and
at a scrub of its partition. -/
structure Entry where
  base    : Nat
  sub     : Nat
  name    : String
  inst    : Inst
  ty      : VTy
  acc     : List (Acc × List Role)
  dflt    : Dflt
  rng     : Rng
  persist : Bool
  load    : Bool
  scrub   : Bool
  deriving DecidableEq, Repr

/-- A region table entry (R188). -/
structure Region where
  space    : Nat
  base     : Nat
  size     : Nat
  rd       : Bool
  wr       : Bool
  str      : Bool
  segFirst : Nat
  segLast  : Nat
  deriving DecidableEq, Repr

/-- A descriptor in an engine queue: the 512 bits after parameter expansion (R214), its descriptor count (R209), the generator
state before its reserved draws (R68), whether it came from LM, the call depth, the cycle of its dispatch, its scheduled issue cycle
(R206), and its cycles of lateness so far in the categories of R235: queue, wait, pipe or hazard, tile. -/
structure QDesc where
  raw   : BitVec 512
  cnt   : Nat
  gen   : BitVec 64
  lm    : Bool
  depth : Nat
  disp  : Nat
  due   : Nat := 0
  lateQ : Nat := 0
  lateW : Nat := 0
  lateP : Nat := 0
  lateT : Nat := 0
  deriving DecidableEq, Repr

/-- A descriptor that owes its signal in an absolute cycle (R204, R271, R278). -/
structure Owed where
  d      : QDesc
  fin    : Nat
  deriving DecidableEq, Repr

/-- A fold or drain (R85, R109): the place in its MM's time of its first write, whether it is the operation's first, and the shadow
registers, one per cell in row-major order. -/
structure Fold where
  place : Nat
  first : Bool
  vals  : List (Nat × Nat)
  deriving DecidableEq, Repr

/-- An MM in progress (R83 to R88, R108, R109): how many of its cycles have passed, the accesses of the present one that still wait for
a bank and the cycle in which they began, the slices of its first main-phase cycle, the block scales in use, the cell partials or FP32
accumulators (number and flags), the folds under way, the tile elements that folds have written (number and flags), and the XA event
kinds of each cell, all in row-major order. -/
structure MmRun where
  d      : QDesc
  noop   : Bool
  pos    : Nat := 0
  todo   : List (Nat × Nat) := []
  began  : Nat := 0
  slices : List (List Nat × List Nat) := []
  sa     : List Nat := []
  sb     : List Nat := []
  part   : List (Nat × Nat) := []
  folds  : List Fold := []
  el     : List (Nat × Nat) := []
  kinds  : List Nat := []
  deriving DecidableEq, Repr

/-- The codes that a VX descriptor read for one element: S1, S2, S3 and the block scale. -/
structure VElem where
  c1 : Nat
  c2 : Nat
  c3 : Nat
  sc : Nat
  deriving DecidableEq, Repr

/-- A VX descriptor in progress (R161 to R163): as of an MM its cycles and waiting accesses, the lookup table as read, the elements read
so far in ascending e, results and scale bytes that are written in this cycle, the XA event kinds with the first affected element, and
the words whose errors have been met. -/
structure VxRun where
  d      : QDesc
  noop   : Bool
  pos    : Nat := 0
  todo   : List (Nat × Nat) := []
  began  : Nat := 0
  table  : List Byte := []
  got    : List VElem := []
  out    : List (Nat × Nat) := []
  outSc  : List (Nat × Nat) := []
  kind   : Nat := 0
  first  : Nat := 0
  met    : List Nat := []
  deriving DecidableEq, Repr

/-- A mover descriptor in progress (R325, R401): next row and unit, issue cycle of the last unit, cycle of its latest write or
hand-off, whether an INDEX_RANGE entry has been logged, the indices as read, and the bytes read for the packet that is being formed. -/
structure MoveRun where
  d      : QDesc
  start  : Nat
  row    : Nat
  unit   : Nat
  lastQ  : Nat
  lastWr : Nat
  logged : Bool
  idx    : List Nat
  handed : Nat
  buf    : List Byte := []
  deriving DecidableEq, Repr

/-- What the write of an accepted packet leaves to do (R265, R266, R366, R405): its arrival link, 0xFF for a delivery to the own rank,
with how often that link had lost its state, the receive pool units that it holds there, its increment if it has one, whether its HBM lines still have to be accepted by their
channels, whether its bank's port has been granted, and whether its bytes have been written. -/
structure PktEnd where
  part  : Nat
  link  : Nat
  era   : Nat
  ures  : Nat
  ush   : Nat
  cv    : Bool
  ctr   : Nat
  inc   : Nat
  ask   : Bool
  wrote : Bool
  port  : Bool := false
  deriving DecidableEq, Repr

/-- A write on its way to its destination (R306, R326, R405): the absolute cycle in which it commits, its byte store address and bytes,
whether they are added to what is there (R319), the descriptor count and TAG of a mover, and for a packet what is left to do. -/
structure Landing where
  due   : Nat
  addr  : Nat
  bytes : List Byte
  acc   : Bool
  cnt   : Nat
  tag   : Nat
  pkt   : Option PktEnd
  deriving DecidableEq, Repr

/-- An open call frame (R213). -/
structure Frame where
  cnt       : Nat
  issueBase : Nat
  baseCM    : Nat
  baseOC    : Nat
  args      : List Nat
  snaps     : List Nat
  last      : Nat
  next      : Nat
  deriving DecidableEq, Repr

/-- A CALL whose signal is outstanding (R213): its own count, its signal, the count of the last descriptor dispatched while the
frame was open, and the cycles in which the frame closed and that descriptor completed. -/
structure CallRec where
  cnt    : Nat
  sv     : Bool
  sid    : Nat
  sinc   : Nat
  lastCnt : Nat
  closed : Option Nat
  done   : Option Nat
  deriving DecidableEq, Repr

/-- A fetch position: a list (repeat, next index) or a routine in LM (next index, end). -/
structure FetchPos where
  lm   : Bool
  rep  : Nat
  next : Nat
  stop : Nat
  deriving DecidableEq, Repr

/-- A prefetched descriptor: its bits, where it came from, the nesting of its fetch, the cycle from which it can be taken, and
whether its fetch met an uncorrectable error (R332). -/
structure PItem where
  raw   : BitVec 512
  lm    : Bool
  rep   : Nat
  idx   : Nat
  depth : Nat
  ready : Nat
  bad   : Bool
  deriving DecidableEq, Repr

/-- A taken descriptor that has not completed (R207, R241), and whether it still has to signal one of SC56 to SC63 (R212). -/
structure OutRec where
  cnt   : Nat
  tag   : Nat
  opc   : Nat
  sig56 : Bool
  deriving DecidableEq, Repr

/-- An increment waiting at a port of a core (R265, R272); `key` orders releases before posts and each in their own order; `comp` is
the descriptor count of the BARRIER that completes with it, 0 for none (R281). -/
structure PortInc where
  ctr     : Nat
  inc     : Nat
  ready   : Nat
  release : Bool
  key     : Nat
  comp    : Nat
  deriving DecidableEq, Repr

/-- An increment that the adder received in the current cycle, with the place of its source in R263; carried ones have place 0. -/
structure AddInc where
  ctr     : Nat
  src     : Nat
  inc     : Nat
  deriving DecidableEq, Repr

/-- One core (R19): counters, tiles and tags, vector registers, generator, descriptor counter, region table, stream unit, engine queues,
what the engines have in progress, and the writes that are on their way: those of its mover and those of packets to it. -/
structure CoreSt where
  sc       : KMap (BitVec 32) := []
  tile     : KMap (BitVec 128) := []
  tag      : KMap (BitVec 16) := []
  dtag     : KMap (BitVec 16) := []
  vreg     : KMap (BitVec 32) := []
  gen      : BitVec 64 := 0
  seed     : BitVec 64 := 0
  dcount   : Nat := 0
  regions  : List Region := []
  fetch    : List FetchPos := []
  nextFetch : Nat := 0
  pq       : List PItem := []
  frames   : List Frame := []
  held     : Option QDesc := none
  idleTill : Nat := 0
  stopped  : Bool := false
  sliceIdx : Nat := 0
  sliceEnd : Nat := 0
  sliceRep : Nat := 0
  lastTaken : Option OutRec := none
  outst    : List OutRec := []
  finish   : Option Nat := none
  calls    : List CallRec := []
  mq       : List QDesc := []
  vq       : List QDesc := []
  dq       : List QDesc := []
  yq       : List QDesc := []
  mrun     : List MmRun := []
  vrun     : List VxRun := []
  drun     : List MoveRun := []
  yrun     : List Owed := []
  srun     : List Owed := []
  lastMStart : Nat := 0
  lastVStart : Nat := 0
  lastD    : Nat := 0
  lastY    : Nat := 0
  packets  : List (Nat × Packet × Nat × Nat) := []
  lands    : List Landing := []
  arrQ     : List PortInc := []
  canQ     : List PortInc := []
  addCyc   : Nat := 0
  addNow   : List AddInc := []
  addCarry : List AddInc := []
  waitBid  : List (Nat × Nat) := []
  stretch  : Nat := 0
  phase    : Nat := 0
  phaseFrom : Nat := 0
  deriving DecidableEq, Repr

/-- A frame held for transmission or replay (R360): SEQ, packet, class, credit units, pieces, replays so far, whether a replay is
queued. -/
structure HeldFrame where
  seq     : Nat
  pkt     : Packet
  ures    : Nat
  ush     : Nat
  pieces  : Nat
  replays : Nat
  queued  : Bool
  deriving DecidableEq, Repr

/-- A frame that waits to be forwarded (R358): its arrival link, 0xFF when that link has lost its state, the reserved and shared units it
holds there, its stream and packet, and how many of the link's own packets of its class came before it (R352). -/
structure Fwd where
  src   : Nat
  ures  : Nat
  ush   : Nat
  str   : Stream
  pkt   : Packet
  ahead : Nat
  deriving DecidableEq, Repr

/-- One link (R359 to R374): sequence state and whether a number has been assigned, queues, replay buffer, credits, lost sequences, the
frames that wait to start (R360: 0 to 3 the link's own of a class, 4 to 7 a forwarded one of the UNSCHED stream, 8 one of the PLAN stream)
with the cycle since when and whether for credits, in HOLD the peer's RX_BASE once its RESUME has come (R370), the mode and time of a running self-test (R375), how often the link has lost its state (R370), and the beat in which the
timing root last sent BEATSYNC on it (R430). -/
structure LinkSt where
  txNext   : Nat := 0
  txBase   : Nat := 0
  rxBase   : Nat := 0
  rxHigh   : Nat := 0xFFF
  numbered : Bool := false
  waiting  : KMap (Nat × Bool) := []
  rxSet    : List Nat := []
  lost     : List Nat := []
  planQ    : List Packet := []
  unsQ     : List Packet := []
  fwdQ     : List Fwd := []
  held     : List HeldFrame := []
  replayQ  : List Nat := []
  res      : List Nat := []
  crSent   : List Nat := []
  crSeen   : List Nat := []
  unsent   : Bool := false
  sv2Acc   : Nat := 0
  peer     : Option Ident := none
  identRx  : Bool := false
  resumed  : Option Nat := none
  trained  : Bool := false
  rttPs    : Nat := 0
  rttWins  : Nat := 0
  tries    : Nat := 0
  retrain  : List Nat := []
  test     : Option Nat := none
  testMode : Nat := 0
  testMs   : Nat := 0
  draining : Bool := false
  poolUsed : Nat := 0
  era      : Nat := 0
  synced   : Option Nat := none
  deriving DecidableEq, Repr

/-- A barrier instance (R278) at the node at the top of its scope, numbered cluster, die or 0: its masks as first seen, the source of
the first arrival, the cores that arrived with the descriptor count and the counter and increment that the release adds, the child
links that arrived, the beat in which it opened, and the cycle of its release. -/
structure BInst where
  bid     : Nat
  scope   : Nat
  node    : Nat
  mb      : Bool
  cmask   : Nat
  kmask   : Nat
  dmask   : Nat
  src     : Nat
  cores   : List (Nat × Nat × Nat × Nat)
  kids    : List Nat
  beat    : Nat
  relAt   : Option Nat
  bad     : Bool
  deriving DecidableEq, Repr

/-- A barrier arrival on its way (R278, R279). -/
structure BArr where
  u     : Nat
  d     : QDesc
  cyc   : Nat
  deriving DecidableEq, Repr

/-- A STEP in progress (R494, R498): its issue, the earliest cycle of its signal, how much of that is a wait for background stretches, and the
records that have no room yet. -/
structure StepRun where
  u     : Nat
  d     : QDesc
  start : Nat
  fin   : Nat
  wait  : Nat := 0
  recs  : List (List Byte)
  deriving DecidableEq, Repr

/-- A load in progress (R179, R610), with the PLAN_STATE before it. -/
structure LoadReq where
  handle : Nat
  addr   : Nat
  len    : Nat
  prev   : Nat
  deriving DecidableEq, Repr

/-- One partition, by its lowest die: the loaded plan and its bindings, its canopy and its life, and the serving commands that wait
(R492, R494), each with 0 or one more than its session; `relCtx` is PART_ERASE_CTX as a PART_RELEASE that still waits captured it (R614). -/
structure PartSt where
  segs     : List (Nat × Nat) := []
  coreseg  : KMap Nat := []
  segBeat  : Nat := 0
  ended    : Bool := false
  reserve  : Nat := 0
  grove    : Nat := 1
  rank     : Nat := 0
  dieMap   : List Nat := []
  hbmBase  : List Nat := []
  ctxMap   : List Nat := []
  slotMap  : KMap (List Nat) := []
  bgMask   : List Nat := []
  slots    : KMap Nat := []
  stage    : Nat := 0
  stageLen : Nat := 0
  imgLen   : Nat := 0
  guarded  : Bool := false
  hbmUse   : List (Nat × Nat) := []
  loading  : Option LoadReq := none
  alarm    : Bool := false
  planFault : Bool := false
  firstPF  : List Byte := []
  cause    : List Byte := []
  seen     : List (Nat × Nat) := []
  insts    : List BInst := []
  reach    : List BInst := []
  arrs     : List BArr := []
  step     : Option StepRun := none
  stepCfg  : Option (Nat × Nat) := none
  halfLogged : Bool := false
  resetting : Bool := false
  relHandle : Option Nat := none
  asgHandle : Option Nat := none
  scrHandle : Option Nat := none
  relPending : Bool := false
  relCtx   : Option Nat := none
  cmdQ     : List (Nat × List Byte) := []
  deriving DecidableEq, Repr

/-- A captured fault record or a log entry (R628), with what R666 needs: the dies it names (mask), the key of a saturated
package entry, and the number of the entry once logged (R646). -/
structure LogRec where
  beat   : Nat
  cycle  : Nat
  level  : Nat
  cls    : Nat
  code   : Nat
  unit   : Nat
  detail : List Byte
  dies   : Nat
  ent    : Option Nat
  num    : Nat
  deriving DecidableEq, Repr

/-- What waits for an M2H buffer (R596): an acknowledgement, or the rest of a read by address and length. -/
inductive Waiting where
  | ack (val : List Byte)
  | data (addr left : Nat)
  deriving DecidableEq, Repr

/-- The header of a dictionary message that waits (R603): EN, OP, DVER, the reserved bytes, TAG, INDEX and SUB, LENGTH, and how many bytes
follow it. -/
structure MsgHead where
  en     : Nat
  op     : Nat
  dver   : Nat := 1
  rsv    : Nat := 0
  tag    : Nat
  index  : Nat := 0
  sub    : Nat := 0
  length : Nat
  got    : Nat
  deriving DecidableEq, Repr

/-- The requester of an MCTP message: its package's coordinate on the MGMT binding, its endpoint ID, its message tag and the instance ID of a
control request (R597, R599). -/
structure MctpPeer where
  coord : Nat := 0
  eid   : Nat := 0
  tag   : Nat := 0
  inst  : Nat := 0
  deriving DecidableEq, Repr

/-- An SPDM session with its rings and queues (R537, R588 to R590, R615, R620) and its requester; the ring entries posted and not yet
taken, those of H2M as their 16 bytes and those of M2H as ADDR and BYTES, a buffer that cannot be used as (0, 0). -/
structure Session where
  id       : Nat
  role     : Role
  slot     : Nat
  transport : Nat
  key      : List Byte
  up       : Bool := false
  bounce   : List Byte := List.replicate 64 0
  ringH    : List Byte := List.replicate 16 0
  ringM    : List Byte := List.replicate 16 0
  h2mTail  : Nat := 0
  h2mHead  : Nat := 0
  m2hTail  : Nat := 0
  m2hHead  : Nat := 0
  errH     : Nat := 0
  errM     : Nat := 0
  seqIn    : Nat := 0
  seqOut   : Nat := 0
  recsIn   : Nat := 0
  h2mEnts  : List (List Byte) := []
  m2hBufs  : List (Nat × Nat) := []
  waiting  : List Waiting := []
  mask     : Nat := 1
  sink     : Nat := 0
  events   : List (List Byte) := []
  lost     : Bool := false
  logSeek  : Nat := 1
  dirKeys  : List Byte × List Byte := ([], [])
  dirIvs   : List Byte × List Byte := ([], [])
  peer     : MctpPeer := {}
  deriving DecidableEq, Repr

/-- A long-operation handle and its record (R610 to R614). -/
structure Handle where
  h        : Nat
  st       : Nat
  status   : Status
  reason   : Nat
  progress : Nat
  start    : Nat
  fin      : Nat
  result   : List Byte
  ses      : Nat
  due      : Bool := false
  deriving DecidableEq, Repr

/-- A request table entry (R482) with its page list (R486). -/
structure ServeEnt where
  tag      : Nat := 0
  deadline : Nat := 0
  listPtr  : Nat := 0
  maxNew   : Nat := 0
  gen      : Nat := 0
  length   : Nat := 0
  pages    : List Nat := []
  slot     : Nat := 0
  slv      : Bool := false
  ctx      : Nat := 0
  prio     : Nat := 0
  reason   : Nat := 0
  st       : Nat := 0
  deriving DecidableEq, Repr

/-- What flash holds of a context beside its dictionary entries (R455 to R462): the wrapped key when one exists, the stored leaves, the
running operation's handle, the encrypted chunks of each controller in order, the flash bytes that still wait to be returned and those
reserved. -/
structure CtxSt where
  key     : Option (List Byte) := none
  leaves  : List (List Byte) := []
  handle  : Option Nat := none
  flash   : List (List (List Byte)) := []
  owed    : Nat := 0
  reserved : Nat := 0
  /-- The journal holds a BEGIN record of the context and no later COMMIT or ERASE record (R472). -/
  begun   : Bool := false
  deriving DecidableEq, Repr

/-- A queued or running graft (R464, R467). -/
structure Graft where
  ctx    : Nat
  handle : Nat
  target : Nat
  part   : Nat
  deriving DecidableEq, Repr

/-- A pending two-party change (R569). -/
structure Change where
  idx   : Nat
  sub   : Nat
  value : List Byte
  first : Role
  deriving DecidableEq, Repr

/-- A phase hint of a die (R525): the beat from which it takes effect, the phase, and the cycle and core of its execution. -/
structure Hint where
  beat  : Nat
  phase : Nat
  cyc   : Nat
  core  : Nat
  deriving DecidableEq, Repr

/-- The calibration of a rail (R513, R517 to R520): its eligible intervals (measured energy in µJ, raw estimate in nJ), consecutive large
discrepancies, whether MODEL_DRIFT has been logged, the last interval, whether it is in SENSE_MISMATCH or SENSE_OPEN, the filtered
predictions of the thermal model from the estimate and from the measurement, their errors in the last 5 intervals, and the power of the
last interval that no phase tag took, in mW (R518, R521, R526). -/
structure RailSt where
  hist  : List (Rat × Nat) := []
  bad   : Nat := 0
  drift : Bool := false
  meas  : Rat := 0
  est   : Nat := 0
  frozen : Bool := false
  opn   : Bool := false
  tEst  : Option Rat := none
  tMeas : Option Rat := none
  errs  : List (Rat × Rat) := []
  stat  : Rat := 0
  deriving DecidableEq, Repr

/-- What the key engine has derived (R557, R558): whether the UDS is locked, CDI_1, the private keys of the layer 1 alias and of AK, CDI_2, and
the certificates of the two keys (R559). -/
structure Dice where
  locked    : Bool := false
  cdi1      : List Byte := []
  alias1    : Nat := 0
  cdi2      : List Byte := []
  ak        : Nat := 0
  aliasCert : List Byte := []
  akCert    : List Byte := []
  deriving DecidableEq, Repr

/-- What the module sends out of itself, oldest first. -/
inductive Out where
  | msg (ses : Nat) (bytes : List Byte)
  | frame (l : Nat) (str : Stream) (bytes : List Byte)
  | linkFrame (l ltype : Nat) (args : List Nat)
  | canopy (l mtype : Nat) (args : List Nat)
  | event (ses : Nat) (val : List Byte)
  | mcrec (ses kind : Nat) (val : List Byte)
  | mailbox (xfer rspLen : Nat)
  | mctp (b : Nat) (val : List Byte)
  | packet (b : Nat) (bytes : List Byte)
  | ibi
  | spdm (b code : Nat) (val : List Byte)
  | msix (vector : Nat)
  deriving DecidableEq, Repr

/-- The state of the module. -/
structure State where
  /-- The commands that are waiting, first in, first out. -/
  pending  : List Instr := []
  /-- The ordering code (R1); fixed. -/
  variant  : Variant := .x
  /-- Numeric dictionary entries, by index × 256 + sub-index (R11). -/
  regs     : KMap Nat := []
  /-- STR, BLOB and TABLE entries. -/
  blobs    : KMap (List Byte) := []
  /-- Remainders below one unit of the counts kept in units of 1,024 or of mJ (R120, R172, R337, R521), by the count's key. -/
  rems     : KMap Nat := []
  /-- The number of the latest log entry at the last scrub of each die (R550). -/
  scrubNum : KMap Nat := []
  /-- CM, OC, KM, LM and HBM. -/
  mem      : List Host.Cell := []
  /-- Error state of 16-byte words: 1 correctable, 2 uncorrectable (R330 to R332). -/
  ecc      : KMap Nat := []
  /-- Beat number, cycle within the beat, and the absolute cycle of the beat's edge (R225 to R228). -/
  beat     : Nat := 0
  cyc      : Nat := 0
  edge     : Nat := 0
  /-- The time at the beat's edge since reset, in ps (R420), and the time up to which HOLDOVER_US has been counted (R450). -/
  edgePs   : Rat := 0
  holdPs   : Rat := 0
  /-- CORE_FREQ_N and the beat length of the beat before this one, for a marker that left in it (R431). -/
  lastN    : Nat := 100
  lastLen  : Nat := 1024
  cores    : KMap CoreSt := []
  links    : KMap LinkSt := []
  parts    : KMap PartSt := []
  /-- HBM channel readiness, by die × 64 + channel: the next cycle that accepts a request (R303), and the patrol position. -/
  chReady  : KMap Nat := []
  patrol   : KMap Nat := []
  /-- One more than the absolute cycle of the refresh window in which a channel last patrolled (R305). -/
  patrolled : KMap Nat := []
  /-- Bytes that each bank has served to movers and stream units in the present cycle (R295), by bankKey. -/
  bankUse  : KMap Nat := []
  /-- Fault capture, the log and its numbering (R628, R630, R646), and the entries kept for
  an MC that is not running (R638). -/
  faultq   : List LogRec := []
  log      : List LogRec := []
  logNum   : Nat := 0
  kept     : List LogRec := []
  /-- First records seen in this beat, by core or die and class (R630). -/
  capSeen  : List (Nat × Nat) := []
  sessions : List Session := []
  /-- Of each session's requests that wait in the queue, in order, which were admitted when they arrived (R606). -/
  asks     : KMap (List Bool) := []
  lockBy   : Option Nat := none
  lockLeft : Nat := 0
  handles  : List Handle := []
  handleSeq : Nat := 1
  serve    : KMap ServeEnt := []
  records  : List (Nat × List Byte) := []
  ctxs     : KMap CtxSt := []
  grafts   : List Graft := []
  graftRun : Option Graft := none
  flashTest : Option (Nat × Nat) := none
  hbmTest  : Option (Nat × Nat) := none
  serveTest : Option Nat := none
  /-- Two-party change, debug challenge, security log position (R569, R571, R578). -/
  change   : Option Change := none
  debugReq : Option Nat := none
  keysBlocked : Bool := false
  stateStore : List (Nat × Nat × Nat) := []
  /-- Derivations of AK so far, what the key engine holds, and the fuses: the UDS and the digests of the Vendor root key and firmware key. -/
  akGen    : Nat := 0
  dice     : Dice := {}
  fuseUds  : List Byte := Config.uds
  fuseRoot : List Byte := Config.fuseDigest 0
  fuseFw   : List Byte := Config.fuseDigest 1
  /-- Fleet time base: requests by link (N, beat), beat of the last BEATSYNC by link, the last announcement, the root's next announcement
  number, the FREQ_CHANGE handles that wait for the step to come and those that wait for a later one, and the phase left to move
  (R432 to R443). -/
  ceilReq  : KMap (Nat × Nat) := []
  bsyncAt  : KMap Nat := []
  fstepSeen : List Nat := []
  fstepSeq : Nat := 0
  freqHandle : List Nat := []
  freqLater : List Nat := []
  /-- Arrival count, in units of 1/65,536 cyc since the start of beat 0, of markers of TIMING_ACTIVE, by ring number (R432). -/
  marks    : List (Nat × Nat × Nat) := []
  phaseLeft : Int := 0
  phaseBad : Bool := false
  refLost  : Bool := false
  ppsSeen  : Bool := false
  /-- Stretched cycles of each clock region in this beat, by die × 4 + region (R446). -/
  stretchNow : KMap (List Nat) := []
  /-- Regions that have logged STRETCH_LIMIT in this beat (R446), and the occupancy of crossings, by die × 16 + number, with the absolute cycle
  in which it was seen (R445). -/
  stretchHit : List Nat := []
  fifos    : KMap (Nat × Nat) := []
  /-- Power and thermal control: phase hints by die, rails, measured averages in mW, sensors logged
  invalid, and the beats of the last ceiling moves (R516 to R529). -/
  hints    : KMap (List Hint) := []
  rails    : KMap RailSt := []
  avg1     : Nat := 0
  avg10    : Nat := 0
  badSens  : List Nat := []
  ceilUp   : Option Nat := none
  ceilDown : Option Nat := none
  sens     : KMap (List Int) := []
  hbmTemp  : KMap (List Int) := []
  /-- Coolant at the inlet and the outlet in 1/16 °C, and the board's sensors at the regulator stages and the flash controllers (R509). -/
  coolant  : Int × Int := (0, 0)
  board    : List Int := []
  /-- Attribution of energy (R516, R521, R522): counts of activity in this interval by (die × 64 + class) × 512 + phase, core-cycles by
  die × 256 + phase, and the energy in nJ attributed in this interval by partition × 256 + phase. -/
  act      : KMap Nat := []
  coreCyc  : KMap Nat := []
  attr     : KMap Nat := []
  /-- Trip inputs, in µs since each asserted, and a trip in progress (R530 to R533). -/
  tripAt   : KMap Nat := []
  tripped  : Bool := false
  tripKept : Nat := 0
  /-- The causes that the trip in progress has logged (R531, R533). -/
  tripCauses : List Nat := []
  /-- Pins and power (R650 to R658). Active-low pins hold true when asserted. -/
  powered  : Bool := true
  holdup   : Bool := false
  pwrGood  : Bool := false
  moduleRst : Bool := false
  alertN   : Bool := false
  faultN   : Bool := false
  railsUp  : Bool := false
  warmBoot : Bool := false
  /-- MC: not running, held in reset (R638, R639), transports (R584 to R587, R597, R598). -/
  mcDown   : Bool := false
  mcDead   : Bool := false
  /-- When the MC last reached MC_STATE 0 after a restart, and when the restarts of the last 60 s failed that count towards R639, in ps. -/
  mcUpAt   : Option Rat := none
  mcFails  : List Rat := []
  /-- The headers of the dictionary messages that wait, by session in their order; a message with none listed is well formed, and its TAG is 0
  (R603, R604). -/
  heads    : KMap (List MsgHead) := []
  /-- The number of secured messages sent in each session (R586). -/
  msgSeq   : KMap Nat := []
  /-- The last requester on each MCTP binding, and the MCTP packets that wait to be sent to peers, with their coordinates (R599). -/
  mctpFrom : KMap MctpPeer := []
  mgmtOut  : List (Nat × List Byte) := []
  /-- The MSI-X table as 18 entries of four words, each vector masked at reset, and its pending bits (R582, R584). -/
  msixTab  : List Nat := (List.replicate 18 [0, 0, 0, 1]).flatten
  msixPba  : Nat := 0
  /-- The ring register slot whose turn is next (R594). -/
  rrSlot   : Nat := 0
  mbStatus : Nat := 0
  mbRspLen : Nat := 0
  mbReqLen : Nat := 0
  mbReq    : List Byte := []
  mbRsp    : List Byte := []
  evHead   : Nat := 0
  evTail   : Nat := 0
  evFifo   : KMap (List Byte) := []
  evLost   : Bool := false
  eids     : KMap Nat := []
  i3cAddr  : Option Nat := none
  spdm     : KMap Nat := []
  /-- The inactive firmware copies (R575): image type, SVN, digest; the library update stored for the next cold start. -/
  fwNext   : List (Nat × Nat × List Byte) := []
  lmNext   : Option (List Byte) := none
  /-- Digests of the package firmware (2) and the MC firmware (4) that run, once updated (R562). -/
  fwRun    : KMap (List Byte) := []
  /-- Free values drawn so far (log entry 6). -/
  fresh    : Nat := 0
  /-- What the module has sent, oldest first. -/
  out      : List Out := []
  deriving DecidableEq, Repr

/-- The module right after reset: a cold start has begun, every entry reads its default but that the one partition of PART_LAYOUT 0 reads SCRUBBING
until it is scrubbed (R556), every memory reads its reset contents, no session is open and nothing waits (R624, R625; log entry 7 for what the
spec leaves open). -/
def State.reset : State := { regs := [(0x6040 * 256 + 1, 3)] }

end Sys2Proof.Machine
end

