-- ==== Sys2Proof/Machine/Store.lean ====
section
/-! DEFINITION. Reading and writing the keyed stores in which registers, memories and per-unit states are held. -/

namespace Sys2Proof.Machine

/-- The value stored under a key. -/
def kget {α : Type} : KMap α → Nat → Option α
  | [], _ => none
  | (k, v) :: r, n => if k = n then some v else kget r n

/-- Store a value under a key, keeping keys in rising order. -/
def kset {α : Type} : KMap α → Nat → α → KMap α
  | [], n, v => [(n, v)]
  | (k, w) :: r, n, v => if n < k then (n, v) :: (k, w) :: r else if n = k then (n, v) :: r else (k, w) :: kset r n v

/-- Remove a key. -/
def kdel {α : Type} : KMap α → Nat → KMap α
  | [], _ => []
  | (k, w) :: r, n => if k = n then kdel r n else (k, w) :: kdel r n

/-- Store a value, listing nothing for a value equal to the default. -/
def kput {α : Type} [DecidableEq α] (d : α) (m : KMap α) (n : Nat) (v : α) : KMap α :=
  if v = d then kdel m n else kset m n v

/-- Keys rise strictly. -/
def KSorted {α : Type} : KMap α → Bool
  | [] => true
  | [_] => true
  | (k, _) :: (n, w) :: r => decide (k < n) && KSorted ((n, w) :: r)

/-- The pairs whose keys lie in a range. -/
def krange {α : Type} (m : KMap α) (lo n : Nat) : KMap α := m.filter (fun p => decide (lo ≤ p.1 ∧ p.1 < lo + n))

/-- Drop the pairs whose keys lie in a range. -/
def kclear {α : Type} (m : KMap α) (lo n : Nat) : KMap α := m.filter (fun p => !decide (lo ≤ p.1 ∧ p.1 < lo + n))

end Sys2Proof.Machine
end

