-- ==== Sys2Proof/Machine/Dict.lean ====
section
/-! DEFINITION. The parameter dictionary: one row per entry of the spec's dictionary tables (R11 to R13, R602, R618 to R620 and
the entry tables of each chapter), where each index lies, and what an entry holds before anything is written. -/

namespace Sys2Proof.Machine

/-- A link number or 0xFF for none (R292, R422). -/
def linkOrNone : List Nat := 255 :: List.range 64

/-- One row: base index, sub-index, name, kind of index, type, access, default, range, and whether it is persistent, returns to
its default at plan load, and at a scrub only. -/
def ent (base sub : Nat) (name : String) (inst : Inst) (ty : VTy) (acc : List (Acc × List Role)) (dflt : Dflt) (rng : Rng)
    (persist load scrub : Bool) : Entry :=
  { base, sub, name, inst, ty, acc, dflt, rng, persist, load, scrub }

/-- The entries of index 0x1000. -/
def dict1000 : List Entry := [
  ent 0x1000 1 "VENDOR" .pkg (.str 32) [(.ro, [.vd, .ow, .op, .tn])] (.bytes [78, 111, 114, 100, 111, 112, 111, 114] [78, 111, 114, 100, 111, 112, 111, 114] [78, 111, 114, 100, 111, 112, 111, 114]) (.any) true false false,
  ent 0x1000 2 "PRODUCT" .pkg (.str 32) [(.ro, [.vd, .ow, .op, .tn])] (.bytes [83, 118, 97, 109, 101, 108, 32, 83, 86, 52] [83, 118, 97, 109, 101, 108, 32, 83, 86, 52] [83, 118, 97, 109, 101, 108, 32, 83, 86, 52]) (.any) true false false,
  ent 0x1000 3 "ORDER_CODE" .pkg (.str 16) [(.ro, [.vd, .ow, .op, .tn])] (.bytes [78, 83, 86, 52, 45, 88] [78, 83, 86, 52, 45, 84] [78, 83, 86, 52, 45, 72]) (.any) true false false,
  ent 0x1000 4 "SERIAL" .pkg (.str 16) [(.ro, [.vd, .ow, .op, .tn])] (.factory) (.any) true false false,
  ent 0x1000 5 "HW_REV" .pkg (.num 2) [(.ro, [.vd, .ow, .op, .tn])] (.num 16 16 16) (.any) true false false,
  ent 0x1000 6 "PCI_VENDOR_ID" .pkg (.num 2) [(.ro, [.vd, .ow, .op, .tn])] (.num 8026 8026 8026) (.any) true false false,
  ent 0x1000 7 "PCI_DEVICE_ID" .pkg (.num 2) [(.ro, [.vd, .ow, .op, .tn])] (.num 21252 21252 21252) (.any) true false false,
  ent 0x1000 8 "IANA_EN" .pkg (.num 4) [(.ro, [.vd, .ow, .op, .tn])] (.num 58372 58372 58372) (.any) true false false,
  ent 0x1000 9 "FW_VERSION" .pkg (.table 8) [(.ro, [.vd, .ow, .op, .tn])] (.factory) (.any) true false false,
  ent 0x1000 10 "CAP_SET" .pkg (.blob 64) [(.ro, [.vd, .ow, .op, .tn])] (.zeros) (.any) true false false]

/-- The entries of index 0x1008. -/
def dict1008 : List Entry := [
  ent 0x1008 1 "ATTEST" .pkg (.inv) [(.inv, [.ow, .op, .tn])] (.num 0 0 0) (.any) false false false]

/-- The entries of index 0x1100. -/
def dict1100 : List Entry := [
  ent 0x1100 1 "DIES_FITTED" .pkg (.num 1) [(.ro, [.vd, .ow, .op, .tn])] (.num 15 15 3) (.any) false false false,
  ent 0x1100 2 "CORES_ACTIVE" .pkg (.num 2) [(.ro, [.vd, .ow, .op, .tn])] (.num 768 768 384) (.any) true false false,
  ent 0x1100 3 "SERVING_PRESENT" .pkg (.bool) [(.ro, [.vd, .ow, .op, .tn])] (.num 1 0 1) (.any) false false false,
  ent 0x1100 4 "LINKS_FITTED" .pkg (.num 8) [(.ro, [.vd, .ow, .op, .tn])] (.num 18446744073709551615 18446744073709551615 4294967295) (.any) false false false,
  ent 0x1100 5 "SLOTS_USABLE" .pkg (.table 192) [(.ro, [.vd, .ow, .op, .tn])] (.zeros) (.any) true false false,
  ent 0x1100 6 "CAPACITY_SEQ" .pkg (.num 4) [(.ro, [.vd, .ow, .op, .tn])] (.num 0 0 0) (.any) false false false]

/-- The entries of index 0x2000. -/
def dict2000 : List Entry := [
  ent 0x2000 1 "CORE_FREQ_N" .pkg (.num 1) [(.ro, [.ow, .op, .tn])] (.num 100 100 100) (.any) false false false,
  ent 0x2000 2 "FLEET_N_SET" .pkg (.num 1) [(.ro, [.ow, .op]), (.rw, [.op])] (.num 100 100 100) (.between 48 112) true false false,
  ent 0x2000 3 "FREQ_CHANGE" .pkg (.inv) [(.inv, [.op])] (.num 0 0 0) (.any) false false false,
  ent 0x2000 4 "FSTEP_LEAD" .pkg (.num 2) [(.ro, [.ow, .op]), (.rw, [.op])] (.num 64 64 64) (.between 64 4096) true false false,
  ent 0x2000 5 "FSTEP_PENDING" .pkg (.blob 8) [(.ro, [.ow, .op, .tn])] (.zeros) (.any) false false false,
  ent 0x2000 6 "SUBTREE_CEIL" .pkg (.num 1) [(.ro, [.ow, .op])] (.num 112 112 112) (.any) false false false,
  ent 0x2000 7 "STRETCH_FRAC" .pkg (.num 2) [(.ro, [.ow, .op, .tn]), (.rw, [.op])] (.num 983 983 983) (.between 0 8192) true false false,
  ent 0x2000 8 "STRETCH_MAX" .pkg (.num 2) [(.ro, [.ow, .op, .tn])] (.num 61 61 61) (.any) false false false,
  ent 0x2000 9 "TIMING_ROOT" .pkg (.bool) [(.ro, [.ow, .op, .tn]), (.rw, [.op])] (.num 0 0 0) (.any) true false false,
  ent 0x2000 10 "TIMING_LINK" .pkg (.num 1) [(.ro, [.ow, .op, .tn]), (.rw, [.op])] (.num 255 255 255) (.oneOf linkOrNone) true false false,
  ent 0x2000 11 "TIMING_ALT" .pkg (.num 1) [(.ro, [.ow, .op, .tn]), (.rw, [.op])] (.num 255 255 255) (.oneOf linkOrNone) true false false,
  ent 0x2000 12 "TIMING_PART" .pkg (.num 1) [(.ro, [.ow, .op, .tn]), (.rw, [.op])] (.num 0 0 0) (.between 0 3) true false false,
  ent 0x2000 13 "TIMING_STATE" .pkg (.enum) [(.ro, [.ow, .op, .tn])] (.num 0 0 0) (.any) false false false,
  ent 0x2000 14 "TIMING_ACTIVE" .pkg (.num 1) [(.ro, [.ow, .op, .tn])] (.num 255 255 255) (.any) false false false,
  ent 0x2000 15 "LINK_DELAY" .pkg (.num 4) [(.ro, [.ow, .op])] (.num 0 0 0) (.any) false false false,
  ent 0x2000 16 "PHASE_ERR" .pkg (.i32) [(.ro, [.ow, .op])] (.num 0 0 0) (.any) false true false,
  ent 0x2000 17 "BEATSYNC_EXP" .pkg (.num 1) [(.ro, [.ow, .op]), (.rw, [.op])] (.num 6 6 6) (.between 0 10) true false false,
  ent 0x2000 18 "TIME_SEC" .pkg (.num 8) [(.ro, [.ow, .op, .tn]), (.rw, [.op])] (.num 0 0 0) (.any) false false false,
  ent 0x2000 19 "PPS_LAST" .pkg (.blob 24) [(.ro, [.ow, .op, .tn])] (.zeros) (.any) false false false]

/-- The entries of index 0x2008. -/
def dict2008 : List Entry := [
  ent 0x2008 1 "TIMING_SWITCHES" .pkg (.num 8) [(.ro, [.ow, .op])] (.num 0 0 0) (.any) false false false,
  ent 0x2008 2 "HOLDOVER_EVENTS" .pkg (.num 8) [(.ro, [.ow, .op])] (.num 0 0 0) (.any) false false false,
  ent 0x2008 3 "HOLDOVER_US" .pkg (.num 8) [(.ro, [.ow, .op])] (.num 0 0 0) (.any) false false false,
  ent 0x2008 4 "PHASE_FAULTS" .pkg (.num 8) [(.ro, [.ow, .op])] (.num 0 0 0) (.any) false false false,
  ent 0x2008 5 "FREQ_STEPS" .pkg (.num 8) [(.ro, [.ow, .op])] (.num 0 0 0) (.any) false false false,
  ent 0x2008 6 "TIMING_COUNT_OVF" .pkg (.num 1) [(.ro, [.ow, .op]), (.w1c, [.op])] (.num 0 0 0) (.mask 31) false false false]

/-- The entries of index 0x2010. -/
def dict2010 : List Entry := [
  ent 0x2010 1 "REGION_SLIP_COUNT" .die (.num 8) [(.ro, [.ow, .op, .tn])] (.num 0 0 0) (.any) false true false,
  ent 0x2010 2 "OCC_MIN" .die (.table 14) [(.ro, [.ow, .op, .tn])] (.zeros) (.any) false true false,
  ent 0x2010 3 "OCC_MAX" .die (.table 14) [(.ro, [.ow, .op, .tn])] (.zeros) (.any) false true false,
  ent 0x2010 4 "STRETCH_PEAK" .die (.table 8) [(.ro, [.ow, .op, .tn])] (.zeros) (.any) false true false,
  ent 0x2010 5 "REGION_COUNT_OVF" .die (.num 1) [(.ro, [.ow, .op, .tn]), (.w1c, [.op])] (.num 0 0 0) (.mask 1) false true false]

/-- The entries of index 0x2100. -/
def dict2100 : List Entry := [
  ent 0x2100 1 "BEAT_K" .pkg (.num 1) [(.ro, [.ow, .op, .tn])] (.num 12 12 12) (.any) false false false,
  ent 0x2100 2 "BEAT_K_NEXT" .pkg (.num 1) [(.ro, [.ow, .op]), (.rw, [.op])] (.num 12 12 12) (.between 10 16) false false false,
  ent 0x2100 3 "BEAT_K_AT" .pkg (.num 8) [(.ro, [.ow, .op]), (.rw, [.op])] (.num 0 0 0) (.mask 0x8000FFFFFFFFFFFF) false false false,
  ent 0x2100 4 "BEAT_NOW" .pkg (.num 8) [(.ro, [.ow, .op, .tn])] (.num 0 0 0) (.any) false false false]

/-- The entries of index 0x2108. -/
def dict2108 : List Entry := [
  ent 0x2108 1 "NONDET_COUNT" .pkg (.num 8) [(.ro, [.ow, .op])] (.num 0 0 0) (.any) false false false,
  ent 0x2108 2 "NONDET_LAST" .pkg (.blob 16) [(.ro, [.ow, .op])] (.zeros) (.any) false false false,
  ent 0x2108 3 "NONDET_OVF" .pkg (.num 1) [(.ro, [.ow, .op]), (.w1c, [.op])] (.num 0 0 0) (.mask 1) false false false]

/-- The entries of index 0x2120. -/
def dict2120 : List Entry := [
  ent 0x2120 1 "PLAN_STATE" .part (.enum) [(.ro, [.ow, .op, .tn])] (.num 0 0 0) (.any) false false false,
  ent 0x2120 2 "PLAN_LOAD" .part (.inv) [(.inv, [.op, .tn])] (.num 0 0 0) (.any) false false false,
  ent 0x2120 3 "PLAN_BIND" .part (.blob 4096) [(.ro, [.ow, .op, .tn]), (.rw, [.op])] (.zeros) (.any) false false false,
  ent 0x2120 4 "PLAN_DIGEST" .part (.blob 48) [(.ro, [.ow, .op, .tn])] (.zeros) (.any) false false false,
  ent 0x2120 5 "PLAN_START_BEAT" .part (.num 8) [(.ro, [.ow, .op, .tn]), (.rw, [.op])] (.num 0 0 0) (.mask 0x8000FFFFFFFFFFFF) false false false,
  ent 0x2120 6 "PLAN_BEATS_DONE" .part (.num 8) [(.ro, [.ow, .op, .tn])] (.num 0 0 0) (.any) false true false,
  ent 0x2120 7 "PLAN_SEGMENT" .part (.num 2) [(.ro, [.ow, .op, .tn])] (.num 0 0 0) (.any) false true false,
  ent 0x2120 8 "PLAN_REPEAT" .part (.num 4) [(.ro, [.ow, .op, .tn])] (.num 0 0 0) (.any) false true false,
  ent 0x2120 9 "PLAN_DEPTH_MAX" .part (.num 1) [(.ro, [.ow, .op, .tn])] (.num 0 0 0) (.any) false true false]

/-- The entries of index 0x2128. -/
def dict2128 : List Entry := [
  ent 0x2128 1 "LIB_DIGEST" .pkg (.blob 48) [(.ro, [.ow, .op, .tn])] (.factory) (.any) false false false,
  ent 0x2128 2 "LIB_VERSION" .pkg (.num 2) [(.ro, [.ow, .op, .tn])] (.factory) (.any) false false false,
  ent 0x2128 3 "LIB_ROUTINES" .pkg (.num 2) [(.ro, [.ow, .op, .tn])] (.factory) (.any) false false false]

/-- The entries of index 0x2130. -/
def dict2130 : List Entry := [
  ent 0x2130 1 "RESERVE_CYC" .part (.num 2) [(.ro, [.ow, .op, .tn])] (.num 0 0 0) (.any) false true false,
  ent 0x2130 2 "LAST_FINISH" .part (.i32) [(.ro, [.ow, .op, .tn])] (.num 4294967295 4294967295 4294967295) (.any) false true false,
  ent 0x2130 3 "MARGIN_MIN" .part (.num 4) [(.ro, [.ow, .op, .tn])] (.num 65535 65535 65535) (.any) false true false,
  ent 0x2130 4 "MARGIN_MIN_BEAT" .part (.num 8) [(.ro, [.ow, .op, .tn])] (.num 0 0 0) (.any) false true false,
  ent 0x2130 5 "RESERVE_BEATS" .part (.num 8) [(.ro, [.ow, .op, .tn])] (.num 0 0 0) (.any) false true false,
  ent 0x2130 6 "OVERRUN_COUNT" .part (.num 8) [(.ro, [.ow, .op, .tn])] (.num 0 0 0) (.any) false true false,
  ent 0x2130 7 "OVERRUN_LAST" .part (.blob 32) [(.ro, [.ow, .op, .tn])] (.zeros) (.any) false true false,
  ent 0x2130 8 "PART_NONDET" .part (.num 8) [(.ro, [.ow, .op, .tn])] (.num 0 0 0) (.any) false true false,
  ent 0x2130 9 "BEAT_COUNT_OVF" .part (.num 1) [(.ro, [.ow, .op, .tn]), (.w1c, [.op])] (.num 0 0 0) (.mask 7) false true false]

/-- The entries of index 0x2210. -/
def dict2210 : List Entry := [
  ent 0x2210 1 "CANOPY_ROOT" .part (.bool) [(.ro, [.ow, .op, .tn]), (.rw, [.op])] (.num 0 0 0) (.any) false false false,
  ent 0x2210 2 "CANOPY_PARENT" .part (.num 1) [(.ro, [.ow, .op, .tn]), (.rw, [.op])] (.num 255 255 255) (.oneOf linkOrNone) false false false,
  ent 0x2210 3 "CANOPY_ALT" .part (.num 1) [(.ro, [.ow, .op, .tn]), (.rw, [.op])] (.num 255 255 255) (.oneOf linkOrNone) false false false,
  ent 0x2210 4 "CANOPY_CHILDREN" .part (.num 8) [(.ro, [.ow, .op, .tn]), (.rw, [.op])] (.num 0 0 0) (.any) false false false,
  ent 0x2210 5 "CANOPY_DEPTH" .part (.num 1) [(.ro, [.ow, .op, .tn]), (.rw, [.op])] (.num 0 0 0) (.between 0 127) false false false,
  ent 0x2210 6 "CANOPY_ACTIVE" .part (.num 1) [(.ro, [.ow, .op, .tn])] (.num 255 255 255) (.any) false false false,
  ent 0x2210 7 "BARRIERS_DONE" .part (.num 8) [(.ro, [.ow, .op, .tn])] (.num 0 0 0) (.any) false true false,
  ent 0x2210 8 "BARRIER_OPEN" .part (.num 2) [(.ro, [.ow, .op, .tn])] (.num 0 0 0) (.any) false true false,
  ent 0x2210 9 "CANOPY_TIMEOUTS" .part (.num 8) [(.ro, [.ow, .op, .tn])] (.num 0 0 0) (.any) false true false,
  ent 0x2210 10 "ALARMS_RAISED" .part (.num 8) [(.ro, [.ow, .op, .tn])] (.num 0 0 0) (.any) false true false,
  ent 0x2210 11 "ALARMS_SEEN" .part (.num 8) [(.ro, [.ow, .op, .tn])] (.num 0 0 0) (.any) false true false,
  ent 0x2210 12 "ALARM_LAST" .part (.blob 32) [(.ro, [.ow, .op, .tn])] (.zeros) (.any) false true false,
  ent 0x2210 13 "CANOPY_BAD" .part (.num 8) [(.ro, [.ow, .op, .tn])] (.num 0 0 0) (.any) false true false,
  ent 0x2210 14 "CANOPY_COUNT_OVF" .part (.num 1) [(.ro, [.ow, .op, .tn]), (.w1c, [.op])] (.num 0 0 0) (.mask 31) false false false]

/-- The entries of index 0x3000. -/
def dict3000 : List Entry := [
  ent 0x3000 1 "LINK_ADMIN" .link (.enum) [(.ro, [.ow, .op, .tn]), (.rw, [.op])] (.num 0 0 0) (.between 0 2) false false false,
  ent 0x3000 2 "LINK_MODE" .link (.enum) [(.ro, [.ow, .op, .tn]), (.rw, [.op])] (.num 0 0 0) (.between 0 1) true false false,
  ent 0x3000 3 "FEC_MODE" .link (.enum) [(.ro, [.ow, .op, .tn]), (.rw, [.op])] (.num 0 0 0) (.between 0 1) true false false,
  ent 0x3000 4 "PHY_PROFILE" .link (.enum) [(.ro, [.ow, .op, .tn]), (.rw, [.op])] (.num 1 1 1) (.between 0 2) true false false,
  ent 0x3000 5 "REPLAY_TIMER" .link (.num 1) [(.ro, [.ow, .op, .tn]), (.rw, [.op])] (.num 4 4 4) (.between 1 16) true false false,
  ent 0x3000 6 "LINK_RETRAIN" .link (.inv) [(.inv, [.op])] (.num 0 0 0) (.any) false false false,
  ent 0x3000 7 "LINK_SELFTEST" .link (.inv) [(.inv, [.op])] (.num 0 0 0) (.any) false false false,
  ent 0x3000 8 "TEST_MODE" .link (.enum) [(.ro, [.ow, .op]), (.rw, [.op])] (.num 0 0 0) (.between 0 2) true false false,
  ent 0x3000 9 "TEST_MS" .link (.num 4) [(.ro, [.ow, .op]), (.rw, [.op])] (.num 1000 1000 1000) (.between 1 60000) true false false]

/-- The entries of index 0x3001. -/
def dict3001 : List Entry := [
  ent 0x3001 1 "LINK_STATE" .link (.enum) [(.ro, [.ow, .op, .tn])] (.num 0 0 0) (.any) false false false,
  ent 0x3001 2 "FAIL_CAUSE" .link (.enum) [(.ro, [.ow, .op, .tn])] (.num 0 0 0) (.any) false false false,
  ent 0x3001 3 "PEER_SERIAL" .link (.str 16) [(.ro, [.ow, .op, .tn])] (.empty) (.any) false false false,
  ent 0x3001 4 "PEER_LINK" .link (.num 1) [(.ro, [.ow, .op, .tn])] (.num 255 255 255) (.any) false false false,
  ent 0x3001 5 "PEER_COORD" .link (.num 4) [(.ro, [.ow, .op, .tn])] (.num 0 0 0) (.any) false false false,
  ent 0x3001 6 "PEER_FLAGS" .link (.num 1) [(.ro, [.ow, .op, .tn])] (.num 0 0 0) (.any) false false false,
  ent 0x3001 7 "RTT" .link (.num 4) [(.ro, [.ow, .op, .tn])] (.num 0 0 0) (.any) false false false,
  ent 0x3001 8 "SV2_WINDOW" .link (.num 4) [(.ro, [.ow, .op, .tn])] (.num 0 0 0) (.any) false false false,
  ent 0x3001 9 "TEST_RESULT" .link (.blob 64) [(.ro, [.ow, .op])] (.zeros) (.any) false false false]

/-- The entries of index 0x3002. -/
def dict3002 : List Entry := [
  ent 0x3002 1 "FEC_CORR_SYM" .link (.num 8) [(.ro, [.ow, .op, .tn])] (.num 0 0 0) (.any) false false false,
  ent 0x3002 2 "FEC_UNCORR" .link (.num 8) [(.ro, [.ow, .op, .tn])] (.num 0 0 0) (.any) false false false,
  ent 0x3002 3 "CRC_ERR" .link (.num 8) [(.ro, [.ow, .op, .tn])] (.num 0 0 0) (.any) false false false,
  ent 0x3002 4 "FRAMING_ERR" .link (.num 8) [(.ro, [.ow, .op, .tn])] (.num 0 0 0) (.any) false false false,
  ent 0x3002 5 "REPLAYS" .link (.num 8) [(.ro, [.ow, .op, .tn])] (.num 0 0 0) (.any) false false false,
  ent 0x3002 6 "NAK_TX" .link (.num 8) [(.ro, [.ow, .op, .tn])] (.num 0 0 0) (.any) false false false,
  ent 0x3002 7 "NAK_RX" .link (.num 8) [(.ro, [.ow, .op, .tn])] (.num 0 0 0) (.any) false false false,
  ent 0x3002 8 "DUP_RX" .link (.num 8) [(.ro, [.ow, .op, .tn])] (.num 0 0 0) (.any) false false false,
  ent 0x3002 9 "ABORT_RX" .link (.num 8) [(.ro, [.ow, .op, .tn])] (.num 0 0 0) (.any) false false false,
  ent 0x3002 10 "DOWN_EVENTS" .link (.num 8) [(.ro, [.ow, .op, .tn])] (.num 0 0 0) (.any) false false false,
  ent 0x3002 11 "HOLD_RESUMES" .link (.num 8) [(.ro, [.ow, .op, .tn])] (.num 0 0 0) (.any) false false false,
  ent 0x3002 12 "TRAIN_FAILS" .link (.num 8) [(.ro, [.ow, .op, .tn])] (.num 0 0 0) (.any) false false false,
  ent 0x3002 13 "TX_STALL" .link (.num 8) [(.ro, [.ow, .op, .tn])] (.num 0 0 0) (.any) false false false,
  ent 0x3002 14 "CREDIT_WAIT" .link (.num 8) [(.ro, [.ow, .op, .tn])] (.num 0 0 0) (.any) false false false,
  ent 0x3002 15 "LINK_COUNT_OVF" .link (.num 2) [(.ro, [.ow, .op, .tn]), (.w1c, [.op])] (.num 0 0 0) (.mask 16383) false false false]

/-- The entries of index 0x3003. -/
def dict3003 : List Entry := [
  ent 0x3003 1 "LANE_SNR" .link (.table 8) [(.ro, [.ow, .op, .tn])] (.zeros) (.any) false false false,
  ent 0x3003 2 "LANE_CORR" .link (.table 32) [(.ro, [.ow, .op, .tn])] (.zeros) (.any) false false false]

/-- The entries of index 0x3400. -/
def dict3400 : List Entry := [
  ent 0x3400 1 "MY_COORD" .pkg (.num 4) [(.ro, [.ow, .op, .tn]), (.rw, [.op])] (.num 0 0 0) (.mask 0x80FFFFFF) true false false,
  ent 0x3400 2 "FABRIC_EXTENT" .pkg (.num 4) [(.ro, [.ow, .op, .tn]), (.rw, [.op])] (.num 0 0 0) (.mask 0xFFFFFF) true false false]

/-- The entries of index 0x3410. -/
def dict3410 : List Entry := [
  ent 0x3410 1 "BUNDLES" .part (.table 64) [(.ro, [.ow, .op, .tn]), (.rw, [.op])] (.zeros) (.any) true false false,
  ent 0x3410 2 "ROUTE_X" .part (.table 64) [(.ro, [.ow, .op, .tn]), (.rw, [.op])] (.zeros) (.any) true false false,
  ent 0x3410 3 "ROUTE_Y" .part (.table 64) [(.ro, [.ow, .op, .tn]), (.rw, [.op])] (.zeros) (.any) true false false,
  ent 0x3410 4 "ROUTE_Z" .part (.table 64) [(.ro, [.ow, .op, .tn]), (.rw, [.op])] (.zeros) (.any) true false false,
  ent 0x3410 5 "ROUTE_W" .part (.table 64) [(.ro, [.ow, .op, .tn]), (.rw, [.op])] (.zeros) (.any) true false false,
  ent 0x3410 6 "RANK_BASE" .part (.num 2) [(.ro, [.ow, .op, .tn]), (.rw, [.op])] (.num 0 0 0) (.between 0 32767) true false false,
  ent 0x3410 7 "RANK_LEN" .part (.num 2) [(.ro, [.ow, .op, .tn]), (.rw, [.op])] (.num 0 0 0) (.between 0 32768) true false false]

/-- The entries of index 0x3420. -/
def dict3420 : List Entry := [
  ent 0x3420 1 "PKT_SENT" .part (.num 8) [(.ro, [.ow, .op, .tn])] (.num 0 0 0) (.any) false true false,
  ent 0x3420 2 "PKT_DELIVERED" .part (.num 8) [(.ro, [.ow, .op, .tn])] (.num 0 0 0) (.any) false true false,
  ent 0x3420 3 "PKT_FORWARDED" .part (.num 8) [(.ro, [.ow, .op, .tn])] (.num 0 0 0) (.any) false true false,
  ent 0x3420 4 "PKT_REFUSED" .part (.num 8) [(.ro, [.ow, .op, .tn])] (.num 0 0 0) (.any) false true false,
  ent 0x3420 5 "NO_ROUTE_COUNT" .part (.num 8) [(.ro, [.ow, .op, .tn])] (.num 0 0 0) (.any) false true false,
  ent 0x3420 6 "FABRIC_COUNT_OVF" .part (.num 1) [(.ro, [.ow, .op, .tn]), (.w1c, [.op])] (.num 0 0 0) (.mask 31) false false false,
  ent 0x3420 7 "FABRIC_LAST" .part (.blob 32) [(.ro, [.ow, .op, .tn])] (.zeros) (.any) false true false]

/-- The entries of index 0x3800. -/
def dict3800 : List Entry := [
  ent 0x3800 1 "RANK_TABLE" .rank (.table 1024) [(.ro, [.ow, .op, .tn]), (.rw, [.op])] (.zeros) (.any) true false false]

/-- The entries of index 0x4000. -/
def dict4000 : List Entry := [
  ent 0x4000 1 "CM_BYTES" .pkg (.num 4) [(.ro, [.ow, .op, .tn])] (.num 2621440 2621440 2621440) (.any) false false false,
  ent 0x4000 2 "OC_BYTES" .pkg (.num 4) [(.ro, [.ow, .op, .tn])] (.num 65536 65536 65536) (.any) false false false,
  ent 0x4000 3 "KM_BYTES" .pkg (.num 4) [(.ro, [.ow, .op, .tn])] (.num 16777216 16777216 16777216) (.any) false false false,
  ent 0x4000 4 "LM_BYTES" .pkg (.num 4) [(.ro, [.ow, .op, .tn])] (.num 1048576 1048576 1048576) (.any) false false false,
  ent 0x4000 5 "HBM_STACKS" .pkg (.num 1) [(.ro, [.ow, .op, .tn])] (.num 8 8 4) (.any) false false false,
  ent 0x4000 6 "HBM_CHANNELS" .pkg (.num 2) [(.ro, [.ow, .op, .tn])] (.num 256 256 128) (.any) false false false,
  ent 0x4000 7 "HBM_BYTES" .pkg (.num 8) [(.ro, [.ow, .op, .tn])] (.num 412316860416 412316860416 206158430208) (.any) false false false,
  ent 0x4000 8 "HBM_PIN_RATE" .pkg (.num 2) [(.ro, [.ow, .op, .tn])] (.num 6400 6400 6400) (.any) false false false,
  ent 0x4000 9 "HBM_LINE_CYC" .pkg (.num 1) [(.ro, [.ow, .op, .tn])] (.num 2 2 2) (.any) false false false,
  ent 0x4000 10 "REFRESH_PERIOD" .pkg (.num 2) [(.ro, [.ow, .op, .tn])] (.num 2048 2048 2048) (.any) false false false,
  ent 0x4000 11 "REFRESH_LEN" .pkg (.num 2) [(.ro, [.ow, .op, .tn])] (.num 128 128 128) (.any) false false false,
  ent 0x4000 12 "PATROL_LINES" .pkg (.num 1) [(.ro, [.ow, .op, .tn])] (.num 4 4 4) (.any) false false false]

/-- The entries of index 0x4008. -/
def dict4008 : List Entry := [
  ent 0x4008 1 "HBM_TEST_DIES" .pkg (.num 1) [(.ro, [.ow, .op]), (.rw, [.op])] (.num 0 0 0) (.mask 15) false false false,
  ent 0x4008 2 "HBM_SELFTEST" .pkg (.inv) [(.inv, [.op])] (.num 0 0 0) (.any) false false false,
  ent 0x4008 3 "HBM_TEST_RESULT" .pkg (.blob 64) [(.ro, [.ow, .op])] (.zeros) (.any) false false false]

/-- The entries of index 0x4010. -/
def dict4010 : List Entry := [
  ent 0x4010 1 "CM_CORR" .die (.num 8) [(.ro, [.ow, .op, .tn])] (.num 0 0 0) (.any) false false true,
  ent 0x4010 2 "OC_CORR" .die (.num 8) [(.ro, [.ow, .op, .tn])] (.num 0 0 0) (.any) false false true,
  ent 0x4010 3 "KM_CORR" .die (.num 8) [(.ro, [.ow, .op, .tn])] (.num 0 0 0) (.any) false false true,
  ent 0x4010 4 "LM_CORR" .die (.num 8) [(.ro, [.ow, .op, .tn])] (.num 0 0 0) (.any) false false true,
  ent 0x4010 5 "HBM_CORR" .die (.num 8) [(.ro, [.ow, .op, .tn])] (.num 0 0 0) (.any) false false true,
  ent 0x4010 6 "PATROL_CORR" .die (.num 8) [(.ro, [.ow, .op, .tn])] (.num 0 0 0) (.any) false false true,
  ent 0x4010 7 "SRAM_UE" .die (.num 8) [(.ro, [.ow, .op, .tn])] (.num 0 0 0) (.any) false false true,
  ent 0x4010 8 "HBM_UE" .die (.num 8) [(.ro, [.ow, .op, .tn])] (.num 0 0 0) (.any) false false true,
  ent 0x4010 9 "MOVE_UNITS" .die (.num 8) [(.ro, [.ow, .op, .tn])] (.num 0 0 0) (.any) false true false,
  ent 0x4010 10 "INDEX_RANGE_COUNT" .die (.num 8) [(.ro, [.ow, .op, .tn])] (.num 0 0 0) (.any) false true false,
  ent 0x4010 11 "HBM_CH_CORR" .die (.table 512) [(.ro, [.ow, .op, .tn])] (.zeros) (.any) false false true,
  ent 0x4010 12 "MEM_COUNT_OVF" .die (.num 2) [(.ro, [.ow, .op, .tn]), (.w1c, [.op])] (.num 0 0 0) (.mask 2047) false false false,
  ent 0x4010 13 "MEM_LAST" .die (.blob 32) [(.ro, [.ow, .op, .tn])] (.zeros) (.any) false true false]

/-- The entries of index 0x4400. -/
def dict4400 : List Entry := [
  ent 0x4400 1 "FLASH_BYTES" .pkg (.num 8) [(.ro, [.ow, .op])] (.num 16000000000000 4000000000000 8000000000000) (.any) false false false,
  ent 0x4400 2 "FLASH_USABLE" .pkg (.num 8) [(.ro, [.ow, .op])] (.num 15360000000000 3840000000000 7680000000000) (.any) false false false,
  ent 0x4400 3 "FLASH_FREE" .pkg (.num 8) [(.ro, [.ow, .op])] (.num 15360000000000 3840000000000 7680000000000) (.any) true false false,
  ent 0x4400 4 "FLASH_READ_RATE" .pkg (.num 4) [(.ro, [.ow, .op, .tn])] (.num 256000 256000 256000) (.any) false false false,
  ent 0x4400 5 "FLASH_WRITE_RATE" .pkg (.num 4) [(.ro, [.ow, .op, .tn])] (.num 32000 16000 16000) (.any) false false false,
  ent 0x4400 6 "FLASH_MAINT" .pkg (.num 1) [(.ro, [.ow, .op]), (.rw, [.op])] (.num 0 0 0) (.mask 15) true false false,
  ent 0x4400 7 "FLASH_SELFTEST" .pkg (.inv) [(.inv, [.op])] (.num 0 0 0) (.any) false false false,
  ent 0x4400 8 "FLASH_TEST_RESULT" .pkg (.blob 64) [(.ro, [.ow, .op])] (.zeros) (.any) false false false,
  ent 0x4400 9 "GRAFT_QUEUE" .pkg (.num 1) [(.ro, [.ow, .op])] (.num 0 0 0) (.any) false false false,
  ent 0x4400 10 "FLASH_UE" .pkg (.num 8) [(.ro, [.ow, .op])] (.num 0 0 0) (.any) false false false,
  ent 0x4400 11 "FLASH_COUNT_OVF" .pkg (.num 1) [(.ro, [.ow, .op]), (.w1c, [.op])] (.num 0 0 0) (.mask 1) false false false]

/-- The entries of index 0x4440. -/
def dict4440 : List Entry := [
  ent 0x4440 1 "CTX_STATE" .ctx (.enum) [(.ro, [.ow, .op, .tn])] (.num 0 0 0) (.any) true false false,
  ent 0x4440 2 "CTX_MANIFEST" .ctx (.blob 256) [(.ro, [.ow, .op, .tn]), (.rw, [.op])] (.zeros) (.any) true false false,
  ent 0x4440 3 "CTX_INSTALL" .ctx (.inv) [(.inv, [.op])] (.num 0 0 0) (.any) false false false,
  ent 0x4440 4 "CTX_TARGET" .ctx (.num 8) [(.ro, [.ow, .op, .tn]), (.rw, [.op])] (.num 0 0 0) (.any) true false false,
  ent 0x4440 5 "CTX_GRAFT" .ctx (.inv) [(.inv, [.op])] (.num 0 0 0) (.any) false false false,
  ent 0x4440 6 "CTX_RELEASE" .ctx (.inv) [(.inv, [.op])] (.num 0 0 0) (.any) false false false,
  ent 0x4440 7 "CTX_ERASE" .ctx (.inv) [(.inv, [.op])] (.num 0 0 0) (.any) false false false,
  ent 0x4440 8 "CTX_PROGRESS" .ctx (.num 4) [(.ro, [.ow, .op, .tn])] (.num 0 0 0) (.any) false false false,
  ent 0x4440 9 "CTX_LAST_ERROR" .ctx (.enum) [(.ro, [.ow, .op, .tn])] (.num 0 0 0) (.any) false false false,
  ent 0x4440 10 "CTX_GRAFT_BASE" .ctx (.num 8) [(.ro, [.ow, .op, .tn])] (.num 0 0 0) (.any) false false false]

/-- The entries of index 0x4800. -/
def dict4800 : List Entry := [
  ent 0x4800 1 "SERVE_ENTRIES" .pkg (.num 2) [(.ro, [.ow, .op, .tn])] (.num 8192 8192 4096) (.any) false false false,
  ent 0x4800 2 "SERVE_SLOTS_MAX" .pkg (.num 2) [(.ro, [.ow, .op, .tn])] (.num 1024 1024 1024) (.any) false false false,
  ent 0x4800 3 "SERVE_MAINT" .pkg (.bool) [(.ro, [.ow, .op]), (.rw, [.op])] (.num 0 0 0) (.any) false false false,
  ent 0x4800 4 "SERVE_SELFTEST" .pkg (.inv) [(.inv, [.op])] (.num 0 0 0) (.any) false false false,
  ent 0x4800 5 "SERVE_TEST_RESULT" .pkg (.blob 16) [(.ro, [.ow, .op])] (.zeros) (.any) false false false,
  ent 0x4800 6 "RECORD_BACKLOG" .pkg (.num 2) [(.ro, [.ow, .op])] (.num 0 0 0) (.any) false false false]

/-- The entries of index 0x4810. -/
def dict4810 : List Entry := [
  ent 0x4810 1 "POOL_BASE" .part (.num 8) [(.ro, [.ow, .op, .tn]), (.rw, [.op])] (.num 0 0 0) (.any) false false true,
  ent 0x4810 2 "POOL_PAGES" .part (.num 4) [(.ro, [.ow, .op, .tn]), (.rw, [.op])] (.num 0 0 0) (.any) false false true,
  ent 0x4810 3 "TOKENS_PER_PAGE" .part (.num 4) [(.ro, [.ow, .op, .tn]), (.rw, [.op])] (.num 0 0 0) (.between 0 65536) false false true,
  ent 0x4810 4 "LIST_BASE" .part (.num 8) [(.ro, [.ow, .op, .tn]), (.rw, [.op])] (.num 0 0 0) (.any) false false true,
  ent 0x4810 5 "PAGES_FREE" .part (.num 4) [(.ro, [.ow, .op, .tn])] (.num 0 0 0) (.any) false false true,
  ent 0x4810 6 "QUEUED_NOW" .part (.num 2) [(.ro, [.ow, .op, .tn])] (.num 0 0 0) (.any) false false true,
  ent 0x4810 7 "ACTIVE_NOW" .part (.num 2) [(.ro, [.ow, .op, .tn])] (.num 0 0 0) (.any) false false true,
  ent 0x4810 8 "STEPS" .part (.num 8) [(.ro, [.ow, .op, .tn])] (.num 0 0 0) (.any) false false true,
  ent 0x4810 9 "DONE_COUNT" .part (.num 8) [(.ro, [.ow, .op, .tn])] (.num 0 0 0) (.any) false false true,
  ent 0x4810 10 "DROPPED_COUNT" .part (.num 8) [(.ro, [.ow, .op, .tn])] (.num 0 0 0) (.any) false false true,
  ent 0x4810 11 "BAD_RESULT_COUNT" .part (.num 8) [(.ro, [.ow, .op, .tn])] (.num 0 0 0) (.any) false false true,
  ent 0x4810 12 "STEP_LATE_CYC" .part (.num 8) [(.ro, [.ow, .op, .tn])] (.num 0 0 0) (.any) false false true,
  ent 0x4810 13 "PEEK_IDX" .part (.num 2) [(.ro, [.ow, .op, .tn]), (.rw, [.ow, .op, .tn])] (.num 0 0 0) (.any) false false true,
  ent 0x4810 14 "PEEK" .part (.blob 32) [(.ro, [.ow, .op, .tn])] (.zeros) (.any) false false true,
  ent 0x4810 15 "SERVE_COUNT_OVF" .part (.num 1) [(.ro, [.ow, .op, .tn]), (.w1c, [.op])] (.num 0 0 0) (.mask 31) false false true]

/-- The entries of index 0x5000. -/
def dict5000 : List Entry := [
  ent 0x5000 1 "POWER_ENVELOPE" .pkg (.num 4) [(.ro, [.ow, .op, .tn])] (.num 4000 4000 2100) (.any) false false false,
  ent 0x5000 2 "POWER_CAP" .pkg (.num 4) [(.ro, [.ow, .op, .tn]), (.rw, [.op])] (.num 4000 4000 2100) (.any) true false false,
  ent 0x5000 3 "CAP_GUARD" .pkg (.num 1) [(.ro, [.ow, .op]), (.rw, [.op])] (.num 3 3 3) (.between 0 10) true false false,
  ent 0x5000 4 "CAP_MISS_MS" .pkg (.num 2) [(.ro, [.ow, .op]), (.rw, [.op])] (.num 100 100 100) (.between 10 1000) true false false,
  ent 0x5000 5 "JUNCTION_CAP" .pkg (.num 1) [(.ro, [.ow, .op, .tn]), (.rw, [.op])] (.num 95 95 95) (.between 70 105) true false false,
  ent 0x5000 6 "VF_TABLE" .pkg (.table 130) [(.ro, [.ow, .op])] (.factory) (.any) false false false]

/-- The entries of index 0x5008. -/
def dict5008 : List Entry := [
  ent 0x5008 1 "P_IN_1MS" .pkg (.f32) [(.ro, [.ow, .op, .tn])] (.num 0 0 0) (.any) false false false,
  ent 0x5008 2 "P_IN_10MS" .pkg (.f32) [(.ro, [.ow, .op, .tn])] (.num 0 0 0) (.any) false false false,
  ent 0x5008 3 "P_EST" .pkg (.f32) [(.ro, [.ow, .op])] (.num 0 0 0) (.any) false false false,
  ent 0x5008 4 "N_CEIL" .pkg (.num 1) [(.ro, [.ow, .op, .tn])] (.num 112 112 112) (.any) false false false,
  ent 0x5008 5 "THROTTLE_NOW" .pkg (.num 2) [(.ro, [.ow, .op, .tn])] (.num 0 0 0) (.any) false false false,
  ent 0x5008 6 "CAP_MISS_BEATS" .pkg (.num 8) [(.ro, [.ow, .op])] (.num 0 0 0) (.any) false false false,
  ent 0x5008 7 "T_INLET, T_OUTLET" .pkg (.table 8) [(.ro, [.ow, .op, .tn])] (.zeros) (.any) false false false,
  ent 0x5008 8 "T_HBM" .pkg (.table 32) [(.ro, [.ow, .op, .tn])] (.zeros) (.any) false false false,
  ent 0x5008 9 "ALERT_STATUS" .pkg (.num 2) [(.ro, [.ow, .op]), (.w1c, [.op])] (.num 0 0 0) (.mask 63) false false false,
  ent 0x5008 10 "PWR_COUNT_OVF" .pkg (.num 1) [(.ro, [.ow, .op]), (.w1c, [.op])] (.num 0 0 0) (.mask 3) false false false]

/-- The entries of index 0x5010. -/
def dict5010 : List Entry := [
  ent 0x5010 1 "RAIL_V" .pkg (.table 76) [(.ro, [.ow, .op])] (.zeros) (.any) false false false,
  ent 0x5010 2 "RAIL_I" .pkg (.table 76) [(.ro, [.ow, .op])] (.zeros) (.any) false false false,
  ent 0x5010 3 "RAIL_GAIN" .pkg (.table 76) [(.ro, [.ow, .op])] (.zeros) (.any) false false false,
  ent 0x5010 4 "RAIL_OFFSET" .pkg (.table 76) [(.ro, [.ow, .op])] (.zeros) (.any) false false false,
  ent 0x5010 5 "SENSE_STATE" .pkg (.num 4) [(.ro, [.ow, .op]), (.w1c, [.op])] (.num 0 0 0) (.mask 524287) false false false]

/-- The entries of index 0x5018. -/
def dict5018 : List Entry := [
  ent 0x5018 1 "TRIP_IN" .pkg (.num 1) [(.ro, [.ow, .op])] (.num 0 0 0) (.any) false false false,
  ent 0x5018 2 "TRIP_CAUSE" .pkg (.enum) [(.ro, [.ow, .op])] (.num 0 0 0) (.any) false false false,
  ent 0x5018 3 "TRIP_GLITCHES" .pkg (.num 8) [(.ro, [.ow, .op])] (.num 0 0 0) (.any) false false false]

/-- The entries of index 0x5020. -/
def dict5020 : List Entry := [
  ent 0x5020 1 "SENSOR_T" .die (.table 384) [(.ro, [.ow, .op, .tn])] (.zeros) (.any) false false false,
  ent 0x5020 2 "DIE_TMAX" .die (.f32) [(.ro, [.ow, .op, .tn])] (.num 0 0 0) (.any) false false false,
  ent 0x5020 3 "DIE_THETA" .die (.table 8) [(.ro, [.ow, .op])] (.factory) (.any) false false false]

/-- The entries of index 0x5040. -/
def dict5040 : List Entry := [
  ent 0x5040 1 "PART_ENERGY" .part (.num 8) [(.ro, [.ow, .op, .tn])] (.num 0 0 0) (.any) false true false,
  ent 0x5040 2 "PHASE_ENERGY" .part (.table 2048) [(.ro, [.ow, .op, .tn])] (.zeros) (.any) false true false,
  ent 0x5040 3 "STATIC_ENERGY" .part (.num 8) [(.ro, [.ow, .op, .tn])] (.num 0 0 0) (.any) false true false,
  ent 0x5040 4 "PHASE_EPC" .part (.table 1024) [(.ro, [.ow, .op, .tn])] (.zeros) (.any) false true false,
  ent 0x5040 5 "ENERGY_OVF" .part (.num 1) [(.ro, [.ow, .op, .tn]), (.w1c, [.op])] (.num 0 0 0) (.mask 7) false true false]

/-- The entries of index 0x6000. -/
def dict6000 : List Entry := [
  ent 0x6000 1 "LIFECYCLE" .pkg (.enum) [(.ro, [.vd, .ow, .op, .tn])] (.num 0 0 0) (.any) true false false,
  ent 0x6000 2 "LIFECYCLE_NEXT" .pkg (.enum) [(.ro, [.vd, .ow, .op]), (.rw, [.vd]), (.rw2p, [.ow, .op])] (.num 0 0 0) (.oneOf [1, 3]) false false false,
  ent 0x6000 3 "PART_LAYOUT" .pkg (.enum) [(.ro, [.ow, .op, .tn]), (.rw2p, [.ow, .op])] (.num 0 0 0) (.between 0 2) true false false,
  ent 0x6000 4 "OWNER_CLAIM" .pkg (.blob 242) [(.wo, [.ow])] (.zeros) (.any) false false false,
  ent 0x6000 5 "CLAIM_HASH" .pkg (.blob 48) [(.wo, [.vd])] (.zeros) (.any) true false false,
  ent 0x6000 6 "CHANGE_NONCE" .pkg (.blob 32) [(.ro, [.ow, .op])] (.factory) (.any) false false false,
  ent 0x6000 7 "CHANGE_PENDING" .pkg (.blob 56) [(.ro, [.ow, .op])] (.zeros) (.any) false false false,
  ent 0x6000 8 "FW_UPDATE" .pkg (.inv) [(.inv, [.op])] (.num 0 0 0) (.any) false false false,
  ent 0x6000 9 "FW_SVN" .pkg (.table 3) [(.ro, [.ow, .op, .tn])] (.factory) (.any) true false false,
  ent 0x6000 10 "RMA_TRIPS" .pkg (.num 1) [(.ro, [.vd, .ow, .op])] (.num 0 0 0) (.any) true false false]

/-- The entries of index 0x6010. -/
def dict6010 : List Entry := [
  ent 0x6010 1 "OWNER_KEY" .pkg (.blob 97) [(.ro, [.ow, .op]), (.rw2p, [.ow, .op])] (.zeros) (.any) true false false,
  ent 0x6010 2 "OPERATOR_KEYS" .pkg (.table 776) [(.ro, [.ow, .op]), (.rw2p, [.ow, .op])] (.zeros) (.any) true false false,
  ent 0x6010 3 "INSTALLER_KEYS" .pkg (.table 776) [(.ro, [.ow, .op]), (.rw2p, [.ow, .op])] (.zeros) (.any) true false false,
  ent 0x6010 4 "INSTALLER_REVOKED" .pkg (.num 1) [(.ro, [.ow, .op]), (.rw2p, [.ow, .op])] (.num 0 0 0) (.any) true false false,
  ent 0x6010 5 "OWNER_DEBUG_KEY" .pkg (.blob 97) [(.ro, [.ow, .op]), (.rw2p, [.ow, .op])] (.zeros) (.any) true false false,
  ent 0x6010 6 "OWNER_EPOCH" .pkg (.num 4) [(.ro, [.ow, .op])] (.num 0 0 0) (.any) true false false]

/-- The entries of index 0x6020. -/
def dict6020 : List Entry := [
  ent 0x6020 1 "DEBUG_LEVEL" .pkg (.num 1) [(.ro, [.vd, .ow, .op, .tn])] (.num 0 0 0) (.any) false false false,
  ent 0x6020 2 "DEBUG_LEVEL_PEAK" .pkg (.num 1) [(.ro, [.vd, .ow, .op, .tn])] (.num 0 0 0) (.any) false false false,
  ent 0x6020 3 "DEBUG_POLICY" .pkg (.num 1) [(.ro, [.ow, .op]), (.rw2p, [.ow, .op])] (.num 0 0 0) (.mask 7) true false false,
  ent 0x6020 4 "DEBUG_REQ" .pkg (.num 1) [(.wo, [.vd, .ow, .op])] (.num 0 0 0) (.between 1 3) false false false,
  ent 0x6020 5 "DEBUG_CHALLENGE" .pkg (.blob 48) [(.ro, [.vd, .ow, .op])] (.zeros) (.any) false false false,
  ent 0x6020 6 "DEBUG_RESPONSE" .pkg (.blob 192) [(.wo, [.vd, .ow, .op])] (.zeros) (.any) false false false,
  ent 0x6020 7 "DEBUG_CLOSE" .pkg (.bool) [(.wo, [.vd, .ow, .op])] (.num 0 0 0) (.between 1 1) false false false]

/-- The entries of index 0x6030. -/
def dict6030 : List Entry := [
  ent 0x6030 1 "CERT_CHAIN" .pkg (.blob 8192) [(.ro, [.vd, .ow, .op, .tn])] (.factory) (.any) false false false,
  ent 0x6030 2 "SESSIONS" .pkg (.num 1) [(.ro, [.ow, .op])] (.num 0 0 0) (.any) false false false]

/-- The entries of index 0x6040. -/
def dict6040 : List Entry := [
  ent 0x6040 1 "PART_STATE" .part (.enum) [(.ro, [.ow, .op, .tn])] (.num 0 0 0) (.any) false false false,
  ent 0x6040 2 "PART_USED" .part (.bool) [(.ro, [.ow, .op])] (.num 0 0 0) (.any) false false false,
  ent 0x6040 3 "PART_TENANT_KEY" .part (.blob 97) [(.ro, [.ow, .op, .tn]), (.rw, [.op])] (.zeros) (.any) true false false,
  ent 0x6040 4 "PART_ASSIGN" .part (.inv) [(.inv, [.op])] (.num 0 0 0) (.any) false false false,
  ent 0x6040 5 "PART_RELEASE" .part (.inv) [(.inv, [.op, .tn])] (.num 0 0 0) (.any) false false false,
  ent 0x6040 6 "PART_MAINT" .part (.bool) [(.ro, [.ow, .op]), (.rw, [.op])] (.num 0 0 0) (.any) false false false,
  ent 0x6040 7 "PART_SCRUB" .part (.inv) [(.inv, [.op])] (.num 0 0 0) (.any) false false false,
  ent 0x6040 8 "PART_ERASE_CTX" .part (.num 8) [(.ro, [.ow, .op, .tn]), (.rw, [.op, .tn])] (.num 0 0 0) (.any) false false false,
  ent 0x6040 9 "SCRUB_LAST" .part (.blob 24) [(.ro, [.ow, .op, .tn])] (.zeros) (.any) false false false]

/-- The entries of index 0x6050. -/
def dict6050 : List Entry := [
  ent 0x6050 1 "SEC_EVENTS" .pkg (.num 8) [(.ro, [.ow, .op])] (.num 0 0 0) (.any) false false false,
  ent 0x6050 2 "SEC_LOG" .pkg (.table 2048) [(.ro, [.ow, .op])] (.zeros) (.any) true false false,
  ent 0x6050 3 "SEC_OVF" .pkg (.num 1) [(.ro, [.ow, .op]), (.w1c, [.op])] (.num 0 0 0) (.mask 1) false false false]

/-- The entries of index 0x7000. -/
def dict7000 : List Entry := [
  ent 0x7000 1 "LOG_COUNT" .pkg (.num 8) [(.ro, [.ow, .op, .tn])] (.num 0 0 0) (.any) false false false,
  ent 0x7000 2 "LOG_SEEK" .pkg (.num 8) [(.ro, [.ow, .op, .tn]), (.rw, [.ow, .op, .tn])] (.num 1 1 1) (.any) false false false,
  ent 0x7000 3 "LOG_READ" .pkg (.blob 8192) [(.ro, [.ow, .op, .tn])] (.zeros) (.any) false false false,
  ent 0x7000 4 "LOG_OLDEST" .pkg (.num 8) [(.ro, [.ow, .op, .tn])] (.num 0 0 0) (.any) false false false,
  ent 0x7000 5 "LOG_DROPPED" .pkg (.num 8) [(.ro, [.ow, .op])] (.num 0 0 0) (.any) false false false,
  ent 0x7000 6 "LOG_OVF" .pkg (.num 1) [(.ro, [.ow, .op]), (.w1c, [.op])] (.num 0 0 0) (.mask 3) false false false,
  ent 0x7000 7 "BLACKBOX" .pkg (.table 512) [(.ro, [.ow, .op])] (.zeros) (.any) true false false]

/-- The entries of index 0x7008. -/
def dict7008 : List Entry := [
  ent 0x7008 1 "BOOT_STAGE" .pkg (.enum) [(.ro, [.vd, .ow, .op, .tn])] (.num 0 0 0) (.any) false false false,
  ent 0x7008 2 "RESET_CAUSE" .pkg (.enum) [(.ro, [.vd, .ow, .op, .tn])] (.num 0 0 0) (.any) false false false,
  ent 0x7008 3 "WARM_RESET" .pkg (.bool) [(.wo, [.op])] (.num 0 0 0) (.between 1 1) false false false,
  ent 0x7008 4 "MC_RESET" .pkg (.bool) [(.wo, [.op])] (.num 0 0 0) (.between 1 1) false false false,
  ent 0x7008 5 "MC_RESTARTS" .pkg (.num 8) [(.ro, [.ow, .op])] (.num 0 0 0) (.any) false false false,
  ent 0x7008 6 "MC_LAST_CAUSE" .pkg (.enum) [(.ro, [.ow, .op])] (.num 0 0 0) (.any) false false false,
  ent 0x7008 7 "SLOT_RETIRE" .pkg (.num 4) [(.wo, [.op])] (.num 0 0 0) (.any) false false false,
  ent 0x7008 8 "RETIRE_LOG" .pkg (.table 1024) [(.ro, [.ow, .op, .tn])] (.zeros) (.any) true false false,
  ent 0x7008 9 "LINKS_RETIRED" .pkg (.num 8) [(.ro, [.ow, .op, .tn])] (.num 0 0 0) (.any) true false false,
  ent 0x7008 10 "RETIRE_CLEAR" .pkg (.bool) [(.wo, [.vd])] (.num 0 0 0) (.between 1 1) false false false,
  ent 0x7008 11 "RESET_OVF" .pkg (.num 1) [(.ro, [.ow, .op]), (.w1c, [.op])] (.num 0 0 0) (.mask 1) false false false]

/-- The entries of index 0x7010. -/
def dict7010 : List Entry := [
  ent 0x7010 1 "PLAN_RESET" .part (.bool) [(.wo, [.op, .tn])] (.num 0 0 0) (.between 1 1) false false false,
  ent 0x7010 2 "FREEZES" .part (.num 8) [(.ro, [.ow, .op, .tn])] (.num 0 0 0) (.any) false false false,
  ent 0x7010 3 "FREEZE_BEAT" .part (.num 8) [(.ro, [.ow, .op, .tn])] (.num 0 0 0) (.any) false false false,
  ent 0x7010 4 "FREEZE_CAUSE" .part (.blob 32) [(.ro, [.ow, .op, .tn])] (.zeros) (.any) false false false,
  ent 0x7010 5 "RESET_US" .part (.num 4) [(.ro, [.ow, .op, .tn])] (.num 0 0 0) (.any) false false false,
  ent 0x7010 6 "FREEZE_OVF" .part (.num 1) [(.ro, [.ow, .op, .tn]), (.w1c, [.op])] (.num 0 0 0) (.mask 1) false false false]

/-- The entries of index 0x7020. -/
def dict7020 : List Entry := [
  ent 0x7020 1 "XA_HIGH_COUNT" .die (.num 8) [(.ro, [.ow, .op, .tn])] (.num 0 0 0) (.any) false true false,
  ent 0x7020 2 "XA_LOW_COUNT" .die (.num 8) [(.ro, [.ow, .op, .tn])] (.num 0 0 0) (.any) false true false,
  ent 0x7020 3 "XA_NAN_COUNT" .die (.num 8) [(.ro, [.ow, .op, .tn])] (.num 0 0 0) (.any) false true false,
  ent 0x7020 4 "XA_COUNT_OVF" .die (.num 1) [(.ro, [.ow, .op, .tn]), (.w1c, [.op])] (.num 0 0 0) (.mask 7) false true false,
  ent 0x7020 5 "XA_LAST" .die (.blob 32) [(.ro, [.ow, .op, .tn])] (.zeros) (.any) false true false]

/-- The entries of index 0x7810. -/
def dict7810 : List Entry := [
  ent 0x7810 1 "BRK_CTL" .pkg (.num 1) [(.ro, [.ow, .op]), (.rw, [.ow, .op])] (.num 0 0 0) (.mask 3) false false false,
  ent 0x7810 2 "BRK_CORE" .pkg (.num 2) [(.ro, [.ow, .op]), (.rw, [.ow, .op])] (.num 65535 65535 65535) (.any) false false false,
  ent 0x7810 3 "BRK_DCOUNT" .pkg (.num 8) [(.ro, [.ow, .op]), (.rw, [.ow, .op])] (.num 0 0 0) (.between 0 (2 ^ 48 - 1)) false false false,
  ent 0x7810 4 "BRK_TAG" .pkg (.num 2) [(.ro, [.ow, .op]), (.rw, [.ow, .op])] (.num 0 0 0) (.any) false false false,
  ent 0x7810 5 "BRK_MASK" .pkg (.num 2) [(.ro, [.ow, .op]), (.rw, [.ow, .op])] (.num 65535 65535 65535) (.any) false false false,
  ent 0x7810 6 "BRK_HIT" .pkg (.blob 32) [(.ro, [.ow, .op])] (.zeros) (.any) false false false]

/-- The entries of index 0x7840. -/
def dict7840 : List Entry := [
  ent 0x7840 1 "MXE_OPS" .die (.num 8) [(.ro, [.ow, .op, .tn])] (.num 0 0 0) (.any) false true false,
  ent 0x7840 2 "MXE_NOOPS" .die (.num 8) [(.ro, [.ow, .op, .tn])] (.num 0 0 0) (.any) false true false,
  ent 0x7840 3 "MXE_MAIN_CYC" .die (.num 8) [(.ro, [.ow, .op, .tn])] (.num 0 0 0) (.any) false true false,
  ent 0x7840 4 "MXE_TILE_SLIP" .die (.num 8) [(.ro, [.ow, .op, .tn])] (.num 0 0 0) (.any) false true false,
  ent 0x7840 5 "TILE_CORR" .die (.num 8) [(.ro, [.ow, .op, .tn])] (.num 0 0 0) (.any) false true false,
  ent 0x7840 6 "MXE_COUNT_OVF" .die (.num 1) [(.ro, [.ow, .op, .tn]), (.w1c, [.op])] (.num 0 0 0) (.mask 31) false true false]

/-- The entries of index 0x7848. -/
def dict7848 : List Entry := [
  ent 0x7848 1 "VXE_OPS" .die (.num 8) [(.ro, [.ow, .op, .tn])] (.num 0 0 0) (.any) false true false,
  ent 0x7848 2 "VXE_NOOPS" .die (.num 8) [(.ro, [.ow, .op, .tn])] (.num 0 0 0) (.any) false true false,
  ent 0x7848 3 "VXE_STREAM_CYC" .die (.num 8) [(.ro, [.ow, .op, .tn])] (.num 0 0 0) (.any) false true false,
  ent 0x7848 4 "VXE_HAZARD_SLIP" .die (.num 8) [(.ro, [.ow, .op, .tn])] (.num 0 0 0) (.any) false true false,
  ent 0x7848 5 "VREG_CORR" .die (.num 8) [(.ro, [.ow, .op, .tn])] (.num 0 0 0) (.any) false true false,
  ent 0x7848 6 "VXE_COUNT_OVF" .die (.num 1) [(.ro, [.ow, .op, .tn]), (.w1c, [.op])] (.num 0 0 0) (.mask 31) false true false,
  ent 0x7848 7 "VXE_LANES" .die (.num 2) [(.ro, [.ow, .op, .tn])] (.num 128 64 64) (.any) false false false]

/-- The entries of index 0x7850. -/
def dict7850 : List Entry := [
  ent 0x7850 1 "ILLEGAL_COUNT" .die (.num 8) [(.ro, [.ow, .op, .tn])] (.num 0 0 0) (.any) false true false,
  ent 0x7850 2 "CALL_TRAP_COUNT" .die (.num 8) [(.ro, [.ow, .op, .tn])] (.num 0 0 0) (.any) false true false,
  ent 0x7850 3 "ILLEGAL_LAST" .die (.blob 32) [(.ro, [.ow, .op, .tn])] (.zeros) (.any) false true false,
  ent 0x7850 4 "PLAN_COUNT_OVF" .die (.num 1) [(.ro, [.ow, .op, .tn]), (.w1c, [.op])] (.num 0 0 0) (.mask 3) false true false]

/-- The entries of index 0x7858. -/
def dict7858 : List Entry := [
  ent 0x7858 1 "SLIP_QUEUE" .die (.num 8) [(.ro, [.ow, .op, .tn])] (.num 0 0 0) (.any) false true false,
  ent 0x7858 2 "SLIP_WAIT" .die (.num 8) [(.ro, [.ow, .op, .tn])] (.num 0 0 0) (.any) false true false,
  ent 0x7858 3 "SLIP_PIPE" .die (.num 8) [(.ro, [.ow, .op, .tn])] (.num 0 0 0) (.any) false true false,
  ent 0x7858 4 "SLIP_BANK" .die (.num 8) [(.ro, [.ow, .op, .tn])] (.num 0 0 0) (.any) false true false,
  ent 0x7858 5 "SLIP_TRAP" .die (.num 8) [(.ro, [.ow, .op, .tn])] (.num 0 0 0) (.any) false true false,
  ent 0x7858 6 "STRETCH_CYC" .die (.num 8) [(.ro, [.ow, .op, .tn])] (.num 0 0 0) (.any) false true false,
  ent 0x7858 7 "THROTTLE_CYC" .die (.num 8) [(.ro, [.ow, .op, .tn])] (.num 0 0 0) (.any) false true false,
  ent 0x7858 8 "SLIP_COUNT_OVF" .die (.num 1) [(.ro, [.ow, .op, .tn]), (.w1c, [.op])] (.num 0 0 0) (.mask 127) false true false]

/-- The entries of index 0x7860. -/
def dict7860 : List Entry := [
  ent 0x7860 1 "SYNC_POSTS" .die (.num 8) [(.ro, [.ow, .op, .tn])] (.num 0 0 0) (.any) false true false,
  ent 0x7860 2 "BARRIER_ARRIVALS" .die (.num 8) [(.ro, [.ow, .op, .tn])] (.num 0 0 0) (.any) false true false,
  ent 0x7860 3 "CANOPY_DEFER" .die (.num 8) [(.ro, [.ow, .op, .tn])] (.num 0 0 0) (.any) false true false,
  ent 0x7860 4 "ARRIVAL_HOLD" .die (.num 8) [(.ro, [.ow, .op, .tn])] (.num 0 0 0) (.any) false true false,
  ent 0x7860 5 "SYNC_PORTS_COUNT" .die (.num 8) [(.ro, [.ow, .op, .tn])] (.num 0 0 0) (.any) false true false,
  ent 0x7860 6 "SYNC_COUNT_OVF" .die (.num 1) [(.ro, [.ow, .op, .tn]), (.w1c, [.op])] (.num 0 0 0) (.mask 31) false false false]

/-- The entries of index 0x8000. -/
def dict8000 : List Entry := [
  ent 0x8000 1 "HANDLE_CAP" .pkg (.num 2) [(.ro, [.ow, .op, .tn])] (.num 256 256 256) (.any) false false false,
  ent 0x8000 2 "HANDLES_LIVE" .pkg (.num 2) [(.ro, [.ow, .op, .tn])] (.num 0 0 0) (.any) false false false,
  ent 0x8000 3 "HANDLE_LIST" .pkg (.table 1024) [(.ro, [.ow, .op, .tn])] (.zeros) (.any) false false false,
  ent 0x8000 4 "HANDLE_KEEP" .pkg (.num 4) [(.ro, [.ow, .op, .tn])] (.num 60000 60000 60000) (.any) false false false,
  ent 0x8000 5 "HANDLES_ISSUED" .pkg (.num 8) [(.ro, [.ow, .op])] (.num 0 0 0) (.any) false false false,
  ent 0x8000 6 "HANDLE_OVF" .pkg (.num 1) [(.ro, [.ow, .op]), (.w1c, [.op])] (.num 0 0 0) (.mask 1) false false false]

/-- The entries of index 0x9000. -/
def dict9000 : List Entry := [
  ent 0x9000 1 "LOCK_HOLDER" .pkg (.num 4) [(.ro, [.vd, .ow, .op, .tn])] (.num 0 0 0) (.any) false false false,
  ent 0x9000 2 "LOCK_LEFT" .pkg (.num 2) [(.ro, [.vd, .ow, .op, .tn])] (.num 0 0 0) (.any) false false false,
  ent 0x9000 3 "MGMT_PEERS" .pkg (.table 128) [(.ro, [.ow, .op]), (.rw, [.op])] (.zeros) (.any) true false false]

/-- The entries of index 0x9010. -/
def dict9010 : List Entry := [
  ent 0x9010 1 "SELF_ID" .self (.num 4) [(.ro, [.vd, .ow, .op, .tn])] (.num 0 0 0) (.any) false false false,
  ent 0x9010 2 "SELF_ROLE" .self (.enum) [(.ro, [.vd, .ow, .op, .tn])] (.num 0 0 0) (.any) false false false,
  ent 0x9010 3 "SELF_TRANSPORT" .self (.enum) [(.ro, [.vd, .ow, .op, .tn])] (.num 0 0 0) (.any) false false false,
  ent 0x9010 4 "SELF_SLOT" .self (.num 1) [(.ro, [.vd, .ow, .op, .tn])] (.num 0 0 0) (.any) false false false,
  ent 0x9010 5 "BOUNCE" .self (.table 64) [(.ro, [.vd, .ow, .op, .tn]), (.rw, [.vd, .ow, .op, .tn])] (.zeros) (.any) false false false,
  ent 0x9010 6 "RING_H2M" .self (.blob 16) [(.ro, [.vd, .ow, .op, .tn]), (.rw, [.vd, .ow, .op, .tn])] (.zeros) (.any) false false false,
  ent 0x9010 7 "RING_M2H" .self (.blob 16) [(.ro, [.vd, .ow, .op, .tn]), (.rw, [.vd, .ow, .op, .tn])] (.zeros) (.any) false false false,
  ent 0x9010 8 "EVENT_MASK" .self (.num 1) [(.ro, [.vd, .ow, .op, .tn]), (.rw, [.vd, .ow, .op, .tn])] (.num 1 1 1) (.mask 31) false false false,
  ent 0x9010 9 "SERVE_SINK" .self (.num 1) [(.ro, [.vd, .ow, .op, .tn]), (.rw, [.vd, .ow, .op, .tn])] (.num 0 0 0) (.mask 15) false false false]

/-- The entries at a base index (R618 to R620 and the chapters). -/
def entriesAt (base : Nat) : List Entry :=
  match base with
  | 0x1000 => dict1000
  | 0x1008 => dict1008
  | 0x1100 => dict1100
  | 0x2000 => dict2000
  | 0x2008 => dict2008
  | 0x2010 => dict2010
  | 0x2100 => dict2100
  | 0x2108 => dict2108
  | 0x2120 => dict2120
  | 0x2128 => dict2128
  | 0x2130 => dict2130
  | 0x2210 => dict2210
  | 0x3000 => dict3000
  | 0x3001 => dict3001
  | 0x3002 => dict3002
  | 0x3003 => dict3003
  | 0x3400 => dict3400
  | 0x3410 => dict3410
  | 0x3420 => dict3420
  | 0x3800 => dict3800
  | 0x4000 => dict4000
  | 0x4008 => dict4008
  | 0x4010 => dict4010
  | 0x4400 => dict4400
  | 0x4440 => dict4440
  | 0x4800 => dict4800
  | 0x4810 => dict4810
  | 0x5000 => dict5000
  | 0x5008 => dict5008
  | 0x5010 => dict5010
  | 0x5018 => dict5018
  | 0x5020 => dict5020
  | 0x5040 => dict5040
  | 0x6000 => dict6000
  | 0x6010 => dict6010
  | 0x6020 => dict6020
  | 0x6030 => dict6030
  | 0x6040 => dict6040
  | 0x6050 => dict6050
  | 0x7000 => dict7000
  | 0x7008 => dict7008
  | 0x7010 => dict7010
  | 0x7020 => dict7020
  | 0x7810 => dict7810
  | 0x7840 => dict7840
  | 0x7848 => dict7848
  | 0x7850 => dict7850
  | 0x7858 => dict7858
  | 0x7860 => dict7860
  | 0x8000 => dict8000
  | 0x9000 => dict9000
  | 0x9010 => dict9010
  | _ => []

/-- Every base index of the dictionary. -/
def dictBases : List Nat := [0x1000, 0x1008, 0x1100, 0x2000, 0x2008, 0x2010, 0x2100, 0x2108, 0x2120, 0x2128, 0x2130, 0x2210, 0x3000, 0x3001, 0x3002, 0x3003, 0x3400, 0x3410, 0x3420, 0x3800, 0x4000, 0x4008, 0x4010, 0x4400, 0x4440, 0x4800, 0x4810, 0x5000, 0x5008, 0x5010, 0x5018, 0x5020, 0x5040, 0x6000, 0x6010, 0x6020, 0x6030, 0x6040, 0x6050, 0x7000, 0x7008, 0x7010, 0x7020, 0x7810, 0x7840, 0x7848, 0x7850, 0x7858, 0x7860, 0x8000, 0x9000, 0x9010]

/-- The base index, kind and number of the unit that an index addresses (R11): die d, partition of lowest die d, link n, context
c, rank table page q. -/
def locate (idx : Nat) : Nat × Inst × Nat :=
  if 0x3000 ≤ idx ∧ idx < 0x3400 then (0x3000 + idx % 16, .link, (idx - 0x3000) / 16)
  else if 0x3800 ≤ idx ∧ idx < 0x3880 then (0x3800, .rank, idx - 0x3800)
  else if 0x4440 ≤ idx ∧ idx < 0x4480 then (0x4440, .ctx, idx - 0x4440)
  else if idx / 4 * 4 ∈ [0x2010, 0x4010, 0x5020, 0x7020, 0x7840, 0x7848, 0x7850, 0x7858, 0x7860] then (idx / 4 * 4, .die, idx % 4)
  else if idx / 4 * 4 ∈ [0x2120, 0x2130, 0x2210, 0x3410, 0x3420, 0x4810, 0x5040, 0x6040, 0x7010] then (idx / 4 * 4, .part, idx % 4)
  else if idx = 0x9010 then (idx, .self, 0)
  else (idx, .pkg, 0)

/-- The row of an entry. -/
def entry? (idx sub : Nat) : Option Entry := (entriesAt (locate idx).1).find? (fun e => e.sub == sub)

/-- The number an entry of a variant holds by default. -/
def Dflt.numOf (d : Dflt) (v : Variant) : Nat :=
  match d with
  | .num x t h => match v with | .x => x | .t => t | .h => h
  | _ => 0

/-- The default of a numeric entry (the Default columns; PEEK_IDX of R507 is the partition's lowest request entry;
the library's header is that of the ROM library). -/
def regDefault (v : Variant) (idx sub : Nat) : Nat :=
  if (locate idx).1 = 0x4810 ∧ sub = 13 then 2048 * (locate idx).2.2
  else if idx = 0x2128 ∧ sub = 2 then (Config.lmRom 0).toNat + 256 * (Config.lmRom 1).toNat
  else if idx = 0x2128 ∧ sub = 3 then (Config.lmRom 2).toNat + 256 * (Config.lmRom 3).toNat
  else match entry? idx sub with
    | some e => if e.dflt = .factory then leNat (Config.factory (idx * 256 + sub)) else e.dflt.numOf v
    | none => 0

/-- The bytes of a type of fixed size. -/
def VTy.size (t : VTy) : Nat :=
  match t with
  | .num n => n | .i32 => 4 | .f32 => 4 | .bool => 1 | .enum => 1 | .inv => 4
  | .str n => n | .blob n => n | .table n => n

/-- The size of an entry that reads as zeros by default: its table or BLOB size. -/
def zeroSize (idx sub : Nat) (t : VTy) : Nat :=
  match (locate idx).1 * 256 + sub with
  | 0x200005 => 8
  | 0x200013 => 24
  | 0x210802 => 16
  | 0x212003 => 4096
  | 0x212004 => 48
  | 0x213007 => 32
  | 0x22100C => 32
  | 0x300109 => 64
  | 0x342007 => 32
  | 0x400803 => 64
  | 0x40100D => 32
  | 0x440008 => 64
  | 0x444002 => 256
  | 0x480005 => 16
  | 0x48100E => 32
  | 0x600004 => 242
  | 0x600005 => 48
  | 0x600007 => 56
  | 0x602005 => 48
  | 0x602006 => 192
  | 0x604009 => 24
  | 0x700003 => 8192
  | 0x701004 => 32
  | 0x702005 => 32
  | 0x781006 => 32
  | 0x785003 => 32
  | 0x901006 => 16
  | 0x901007 => 16
  | _ => t.size

/-- The length of a factory entry of fixed size: a TABLE, CHANGE_NONCE or a digest (R222, R579, R618). -/
def factorySize (idx sub : Nat) (t : VTy) : Option Nat :=
  match t with
  | .table n => some n
  | t => match idx * 256 + sub with
    | 0x600006 => some 32
    | _ => match t with
      | .str _ => none
      | .blob _ => none
      | u => some u.size

/-- The capability set of a variant (R616): serving unit, 128 lanes, SV2, GL-L, then the dies. -/
def capSet (v : Variant) : List Byte :=
  match v with
  | .x => leBytes 8 15 ++ leBytes 56 4
  | .t => leBytes 8 12 ++ leBytes 56 4
  | .h => leBytes 8 13 ++ leBytes 56 2

/-- SERIAL: "SV4", the letter of the ordering code, and twelve digits of the module's own (R618). -/
def serialOf (v : Variant) : List Byte :=
  [83, 86, 52, match v with | .x => (88 : Byte) | .t => 84 | .h => 72] ++
    (List.range 12).map (fun i => BitVec.ofNat 8 (48 + leAt (Config.factory 0x100004) i 1 % 10))

/-- The default of a STR, BLOB or TABLE entry; `comp` is the package's own coordinate component for a route table (R390). -/
def blobDefault (v : Variant) (comp : Nat) (idx sub : Nat) : List Byte :=
  let base := (locate idx).1
  if base = 0x3410 ∧ 2 ≤ sub ∧ sub ≤ 5 then (List.range 64).map (fun i => if i = comp then 0 else 3)
  else if base = 0x2010 ∧ (sub = 2 ∨ sub = 3) then List.replicate 14 4
  else if base = 0x5010 ∧ sub = 3 then
    ((List.range 19).map (fun r => leBytes 4 (if 1 ≤ r ∧ r ≤ 17 then 0x3F800000 else 0))).flatten
  else if base = 0x1000 ∧ sub = 4 then serialOf v
  else if base = 0x1000 ∧ sub = 10 then capSet v
  else if base = 0x2128 ∧ sub = 1 then sha384 ((List.range (2 ^ 20)).map Config.lmRom)
  else if base = 0x1100 ∧ sub = 5 then
    ((List.range 48).map (fun c => leBytes 4 (if v = .h ∧ 24 ≤ c then 0 else 0x1FFFF))).flatten
  else match entry? idx sub with
    | none => []
    | some e => match e.dflt with
      | .bytes x t h => (match v with | .x => x | .t => t | .h => h).map (BitVec.ofNat 8)
      | .zeros => List.replicate (zeroSize idx sub e.ty) 0
      | .factory => match factorySize idx sub e.ty with
        | some n => (Config.factory (idx * 256 + sub) ++ List.replicate n 0).take n
        | none => Config.factory (idx * 256 + sub)
      | _ => []

end Sys2Proof.Machine
end

