-- ==== Sys2Proof/Machine/Ops.lean ====
section
/-! DEFINITION. The shared operations of the model: units and partitions, dictionary registers, the byte store, counts, fault
capture, the log, alarms, events, handles, and the one way in which a command's effect becomes the next state. -/

namespace Sys2Proof.Machine

/-! ### Units (R1, R19) -/

/-- Fitted dies. -/
def dies (v : Variant) : Nat := match v with | .x => 4 | .t => 4 | .h => 2

/-- Fitted links. -/
def linksOf (v : Variant) : Nat := dies v * 16

/-- Logical cores of the package: 12 clusters of 16 logical cores per die. -/
def coresOf (v : Variant) : Nat := dies v * 192

/-- VXE lanes (R123). -/
def lanesOf (v : Variant) : Nat := match v with | .x => 128 | .t => 64 | .h => 64

/-- Whether the serving unit is fitted. -/
def hasServe (v : Variant) : Bool := match v with | .x => true | .t => false | .h => true

/-- All fitted dies as a mask. -/
def allDies (v : Variant) : Nat := 2 ^ dies v - 1

/-- The die of a core. -/
def dieOf (u : Nat) : Nat := u / 192

/-- The cluster of a core, numbered over the package. -/
def clusterOf (u : Nat) : Nat := u / 16

/-- The clock region of a core, numbered over the package: 4 per die, of 3 clusters each (R19). -/
def regionOf (u : Nat) : Nat := u / 48

/-- UNIT of a core's engine (R629): 0 none, 1 MXE, 2 VXE, 3 mover, 4 sync engine, 5 stream unit. -/
def unitCode (u eng : Nat) : Nat := u % 16 + u / 16 % 12 * 16 + dieOf u * 256 + eng * 1024

def coreAt (s : State) (u : Nat) : CoreSt := (kget s.cores u).getD {}
def setCore (s : State) (u : Nat) (x : CoreSt) : State := { s with cores := kset s.cores u x }
def linkAt (s : State) (l : Nat) : LinkSt := (kget s.links l).getD {}
def setLink (s : State) (l : Nat) (x : LinkSt) : State := { s with links := kset s.links l x }
def partAt (s : State) (p : Nat) : PartSt := (kget s.parts p).getD {}
def setPart (s : State) (p : Nat) (x : PartSt) : State := { s with parts := kset s.parts p x }
def ctxAt (s : State) (c : Nat) : CtxSt := (kget s.ctxs c).getD {}
def setCtx (s : State) (c : Nat) (x : CtxSt) : State := { s with ctxs := kset s.ctxs c x }
def servAt (s : State) (e : Nat) : ServeEnt := (kget s.serve e).getD {}
def setServ (s : State) (e : Nat) (x : ServeEnt) : State := { s with serve := kset s.serve e x }

/-! ### Dictionary registers (R11) -/

/-- The key of an entry. -/
def rkey (idx sub : Nat) : Nat := idx * 256 + sub

/-- A numeric entry. -/
def rg (s : State) (idx sub : Nat) : Nat :=
  match kget s.regs (rkey idx sub) with
  | some v => v
  | none => regDefault s.variant idx sub

/-- Set a numeric entry. -/
def wr (s : State) (idx sub v : Nat) : State := { s with regs := kset s.regs (rkey idx sub) v }

/-- The package's own coordinate component in a dimension (MY_COORD, R380). -/
def ownComp (s : State) (dim : Nat) : Nat := bits (rg s 0x3400 1) (6 * dim) 6

/-- A STR, BLOB or TABLE entry. -/
def rb (s : State) (idx sub : Nat) : List Byte :=
  match kget s.blobs (rkey idx sub) with
  | some b => b
  | none => blobDefault s.variant (ownComp s (sub - 2)) idx sub

/-- Set a STR, BLOB or TABLE entry. -/
def wb (s : State) (idx sub : Nat) (b : List Byte) : State := { s with blobs := kset s.blobs (rkey idx sub) b }

/-- Element `i` of a TABLE of `n`-byte elements. -/
def rtab (s : State) (idx sub n i : Nat) : Nat := leAt (rb s idx sub) (n * i) n

/-- Replace bytes `o …` of a byte string. -/
def patch (l : List Byte) (o : Nat) (b : List Byte) : List Byte :=
  (padTo o l).take o ++ b ++ l.drop (o + b.length)

/-- Set element `i` of a TABLE of `n`-byte elements. -/
def wtab (s : State) (idx sub n i v : Nat) : State := wb s idx sub (patch (rb s idx sub) (n * i) (leBytes n v))

/-- Return one entry to its default. -/
def toDefault (s : State) (idx sub : Nat) : State :=
  { s with regs := kdel s.regs (rkey idx sub), blobs := kdel s.blobs (rkey idx sub), rems := kdel s.rems (rkey idx sub) }

/-- Return to their defaults all entries of the listed indices that satisfy a test. -/
def resetEntries (s : State) (test : Nat → Entry → Bool) : State :=
  let keep : Nat → Bool := fun k => match entry? (k / 256) (k % 256) with
    | some e => !test (k / 256) e
    | none => true
  { s with regs := s.regs.filter (fun p => keep p.1), blobs := s.blobs.filter (fun p => keep p.1),
           rems := s.rems.filter (fun p => keep p.1) }

/-! ### Partitions (R546) -/

/-- The lowest die of the partition that holds die `d` under PART_LAYOUT. -/
def partLow (s : State) (d : Nat) : Nat :=
  match rg s 0x6000 3 with
  | 0 => 0
  | 1 => d / 2 * 2
  | _ => d

/-- The dies of the partition of lowest die `p`. -/
def partDies (s : State) (p : Nat) : List Nat := (List.range (dies s.variant)).filter (fun d => partLow s d == p)

/-- The partitions, by lowest die. -/
def partitions (s : State) : List Nat := (List.range (dies s.variant)).filter (fun d => partLow s d == d)

/-- A set of dies as a mask. -/
def dieMask (l : List Nat) : Nat := l.foldl (fun m d => m ||| 2 ^ d) 0

/-- The partition of a core. -/
def partOf (s : State) (u : Nat) : Nat := partLow s (dieOf u)

/-- The cores of a partition. -/
def partCores (s : State) (p : Nat) : List Nat :=
  ((partDies s p).map (fun d => (List.range 192).map (fun i => d * 192 + i))).flatten

/-- The links of a partition: LNKnn belongs to die nn div 16. -/
def partLinks (s : State) (p : Nat) : List Nat :=
  ((partDies s p).map (fun d => (List.range 16).map (fun i => d * 16 + i))).flatten

/-- PLAN_STATE: 0 NONE, 1 LOADING, 2 LOADED, 3 RUNNING, 4 FROZEN, 5 COMPLETE. -/
def planState (s : State) (p : Nat) : Nat := rg s (0x2120 + p) 1
def setPlanState (s : State) (p v : Nat) : State := wr s (0x2120 + p) 1 v

/-- PART_STATE: 0 IDLE, 1 MAINTENANCE, 2 DIRTY, 3 SCRUBBING, 4 ASSIGNED. -/
def partState (s : State) (p : Nat) : Nat := rg s (0x6040 + p) 1

/-- FEC_MODE of a link is GL-L (R341). -/
def glL (s : State) (l : Nat) : Bool := rg s (0x3000 + 16 * l) 3 == 1

/-- TIMING_STATE: 0 FREERUN, 1 LOCKING, 2 LOCKED, 3 ALIGNED, 4 HOLDOVER. -/
def timingState (s : State) : Nat := rg s 0x2000 13

/-- LINK_STATE: 0 DISABLED, 1 TRAINING, 2 PROBING, 3 UP, 4 HOLD, 5 FAILED, 6 TEST. -/
def linkState (s : State) (l : Nat) : Nat := rg s (0x3001 + 16 * l) 1

/-! ### Time (R225) -/

/-- Cycles of the beat. -/
def beatLen (s : State) : Nat := 2 ^ rg s 0x2100 1

/-- The absolute cycle. -/
def absNow (s : State) : Nat := s.edge + s.cyc

/-- The difference of two beat numbers modulo 2^48, as an integer in −2^47 to 2^47 − 1 (R228). -/
def beatDiff (a b : Nat) : Int :=
  let d : Nat := (a + 2 ^ 48 - b % 2 ^ 48) % 2 ^ 48
  if d < 2 ^ 47 then Int.ofNat d else Int.ofNat d - 2 ^ 48

/-! ### The byte store (R294, R297, R298) -/

def cmBase : Nat := 2 ^ 44
def ocBase : Nat := 2 ^ 45
def kmBase : Nat := 2 ^ 46
def lmBase : Nat := 2 ^ 47
def tileBase : Nat := 2 ^ 48
def vregBase : Nat := 2 ^ 49

/-- Package HBM per die: 96 GiB (R298). -/
def dieHbm : Nat := 0x1800000000

def cmAddr (u off : Nat) : Nat := cmBase + u * 2 ^ 22 + off
def ocAddr (u off : Nat) : Nat := ocBase + u * 2 ^ 16 + off
def kmAddr (cl off : Nat) : Nat := kmBase + cl * 2 ^ 24 + off
def lmAddr (cl off : Nat) : Nat := lmBase + cl * 2 ^ 20 + off
def tileAddr (u slot : Nat) : Nat := tileBase + u * 2 ^ 20 + slot * 16
def vregAddr (u elem : Nat) : Nat := vregBase + u * 2 ^ 14 + elem * 4

/-- What a byte that nothing has written reads as: the ROM library in LM, 0 elsewhere (R211, R624, R625). -/
def memDefault (a : Nat) : Byte :=
  if lmBase ≤ a ∧ a < tileBase then Config.lmRom ((a - lmBase) % 2 ^ 20) else 0

/-- One byte. -/
def mget (m : List Host.Cell) (a : Nat) : Byte := (kget m a).getD (memDefault a)

/-- Write one byte, listing nothing for a byte equal to what an unlisted address reads as. -/
def mset (m : List Host.Cell) (a : Nat) (b : Byte) : List Host.Cell := kput (memDefault a) m a b

/-- Keys rise strictly and no cell is listed at its default. -/
abbrev Memory.wf (m : List Host.Cell) : Prop :=
  m.Pairwise (fun x y => x.1 < y.1) ∧ ∀ c ∈ m, c.2 ≠ memDefault c.1

/-- `n` bytes from an address. -/
def mread (m : List Host.Cell) (a : Nat) : Nat → List Byte
  | 0 => []
  | n + 1 => mget m a :: mread m (a + 1) n

/-- Write bytes from an address. -/
def mwrite (m : List Host.Cell) (a : Nat) : List Byte → List Host.Cell
  | [] => m
  | b :: r => mwrite (mset m a b) (a + 1) r

/-- The protected word of a byte (R330): 64-byte lines in HBM, 16-byte words elsewhere. -/
def eccWord (a : Nat) : Nat := if a < cmBase then a / 64 * 64 else a / 16 * 16

/-- Write bytes; every protected word that is written holds no error any more (R331). -/
def poke (s : State) (a : Nat) (b : List Byte) : State :=
  { s with mem := mwrite s.mem a b,
           ecc := if b.isEmpty then s.ecc else s.ecc.filter (fun e => e.1 < eccWord a ∨ eccWord (a + b.length - 1) < e.1) }

/-- Bytes as a reader sees them: a word with an uncorrectable error reads as zeros (R332, R118, R169). -/
def peek (s : State) (a n : Nat) : List Byte :=
  let bad := s.ecc.filter (fun e => e.2 == 2)
  if bad.isEmpty then mread s.mem a n
  else (mread s.mem a n).zipIdx.map (fun x => if (kget bad (eccWord (a + x.2))).isSome then 0 else x.1)

/-- The error state of the protected words that a range touches. -/
def eccIn (s : State) (a n : Nat) : List (Nat × Nat) :=
  if n = 0 then [] else s.ecc.filter (fun e => eccWord a ≤ e.1 ∧ e.1 ≤ eccWord (a + n - 1))

/-- Set a range to zero (never LM). -/
def mzero (s : State) (a n : Nat) : State :=
  { s with mem := kclear s.mem a n, ecc := s.ecc.filter (fun e => e.1 < a ∨ a + n ≤ e.1) }

/-- Copy `n` bytes between ranges that read zero where unlisted. -/
def mcopy (s : State) (src dst n : Nat) : State :=
  (krange s.mem src n).foldl (fun t c => { t with mem := mset t.mem (dst + (c.1 - src)) c.2 }) (mzero s dst n)

/-! ### Output -/

/-- The module sends something out of itself. -/
def emit (s : State) (o : Out) : State := { s with out := s.out ++ [o] }

/-- A free value (log entry 6). -/
def draw (s : State) : BitVec 512 × State := (Config.randomDraw s.fresh, { s with fresh := s.fresh + 1 })

/-! ### Sessions and events (R537, R615) -/

def sesAt (s : State) (id : Nat) : Option Session := s.sessions.find? (fun x => x.id == id)

def setSes (s : State) (x : Session) : State :=
  { s with sessions := s.sessions.map (fun y => if y.id == x.id then x else y) }

/-- The partitions of a Tenant session: ASSIGNED ones with its key (R537). -/
def tenantParts (s : State) (x : Session) : List Nat :=
  (partitions s).filter (fun p => partState s p == 4 && rb s (0x6040 + p) 3 == x.key)

/-- The dies of a Tenant session. -/
def tenantDies (s : State) (x : Session) : Nat := dieMask (((tenantParts s x).map (partDies s)).flatten)

/-- Whether a Tenant sees a log entry (R666, R550). -/
def tenantSees (s : State) (x : Session) (r : LogRec) : Bool :=
  let mine := tenantDies s x
  let readable := match r.ent with
    | none => true
    | some k => match entry? (k / 256) (k % 256) with
      | some e => e.acc.any (fun a => a.1 == .ro && a.2.contains .tn)
      | none => false
  (r.dies &&& mine == r.dies || r.dies == allDies s.variant) && readable &&
    ((List.range 4).all (fun d => !bit mine d || decide ((kget s.scrubNum d).getD 0 < r.num)))

/-- Whether a session sees a log entry: Ow and Op all, Tn by R666. -/
def sees (s : State) (x : Session) (r : LogRec) : Bool :=
  match x.role with
  | .ow => true
  | .op => true
  | .tn => tenantSees s x r
  | .vd => false
  | .restricted => false

/-! ### Messages on their way out (R584 to R587, R597, R599, R603) -/

/-- Signal an MSI-X vector: a masked one becomes pending (R582, R584; log entry 30). -/
def vector (s : State) (v : Nat) : State :=
  if s.msixTab.getD (4 * v + 3) 1 % 2 = 1 then { s with msixPba := s.msixPba ||| 2 ^ v } else emit s (.msix v)

/-- The bytes of a dictionary message that the module sends (R603); EN goes most significant byte first. -/
def dictMsg (en op tag idx sub : Nat) (st : Status) (val : List Byte) : List Byte :=
  leBytes 1 0x7F ++ (leBytes 4 en).reverse ++ leBytes 1 1 ++ leBytes 1 op ++ leBytes 1 st.ctorIdx ++ leBytes 2 tag ++ leBytes 2 idx ++
    leBytes 1 sub ++ leBytes 3 0 ++ leBytes 4 val.length ++ val

/-- The IV of a record or message: the direction's IV with the number, little-endian, XORed into its low 8 bytes (R565). -/
def recordIv (iv : List Byte) (seq : Nat) : List Byte := xorBytes (iv.take 8) (leBytes 8 seq) ++ iv.drop 8

/-- A message as a secured message of its session, message type first, encrypted with the response direction's key (R586, R603; the layout is
DSP0277's, PRESUMED, log entry 32). -/
def secure (s : State) (x : Session) (m : List Byte) : List Byte × State :=
  let n := (kget s.msgSeq x.id).getD 0
  let body := leBytes 2 m.length ++ m
  let head := leBytes 4 x.id ++ leBytes 2 n ++ leBytes 2 (body.length + 16)
  (leBytes 1 6 ++ head ++ Gcm.seal x.dirKeys.2 (recordIv x.dirIvs.2 n) head body, { s with msgSeq := kset s.msgSeq x.id (n + 1) })

/-- The endpoint ID of a binding, 0 until the bus owner has set it. -/
def eidOf (s : State) (b : Nat) : Nat := (kget s.eids b).getD 0

/-- The MCTP packets of a message to a peer, `mtu` bytes to a packet: header version, destination, source, and the flags with a packet number
modulo 4 (R597; the layout is DSP0236's, PRESUMED, log entry 32). -/
def mctpPackets (src mtu : Nat) (p : MctpPeer) (own : Bool) : Nat → Nat → List Byte → List (List Byte)
  | 0, _, _ => []
  | k + 1, i, l =>
    (leBytes 1 1 ++ leBytes 1 p.eid ++ leBytes 1 src ++
      leBytes 1 ((if i = 0 then 128 else 0) + (if k = 0 then 64 else 0) + 16 * (i % 4) + (if own then 8 else 0) + p.tag % 8) ++ l.take mtu) ::
      mctpPackets src mtu p own k (i + 1) (l.drop mtu)

/-- Put a message on a binding but the mailbox: on I3C an IBI announces it, on the MGMT binding its packets wait to be sent to the peer's
package. Of the transmission units of PCIe VDM the least is used, which every endpoint takes (R597, R599; log entry 32). -/
def wire (s : State) (b : Nat) (p : MctpPeer) (own : Bool) (m : List Byte) : State :=
  let mtu := if b = 3 then 1024 else 64
  let ks := mctpPackets (eidOf s b) mtu p own (ceilDiv m.length mtu) 0 m
  if b = 3 then { s with mgmtOut := s.mgmtOut ++ ks.map (fun k => (p.coord, k)) }
  else ks.foldl (fun t k => emit t (.packet b k)) (if b = 2 then emit s .ibi else s)

/-- Send one event to a session: to the event FIFO on the mailbox, each slot with the length of its message first, else as a message; queued
while the MC is not running (R587, R615, log entry 8). -/
def sendEvent (s : State) (x : Session) (ty : Nat) (body : List Byte) : State :=
  if !x.up || !bit x.mask (ty - 1) then s
  else if s.mcDown then
    let q := x.events ++ [leBytes 4 ty ++ body]
    setSes s (if 64 < q.length then { x with events := q.drop 1, lost := true } else { x with events := q })
  else
    let lost := x.lost || (x.transport == 0 && s.evLost)
    let m := dictMsg (rg s 0x1000 8) 7 0 0 0 .ok (leBytes 1 ty ++ leBytes 3 (if lost then 1 else 0) ++ body)
    let r := secure s x m
    let t := emit (setSes r.2 { x with lost := false }) (.event x.id m)
    if x.transport == 0 then
      let full := 32 ≤ s.evTail - s.evHead
      vector { t with evFifo := kset s.evFifo (s.evTail % 32) (leBytes 4 r.1.length ++ r.1), evTail := s.evTail + 1,
                      evHead := if full then s.evHead + 1 else s.evHead, evLost := full } 1
    else wire t x.transport x.peer true r.1

/-- Send an event to every session that a test admits. -/
def eventAll (s : State) (test : Session → Bool) (ty : Nat) (body : List Byte) : State :=
  s.sessions.foldl (fun t x => match sesAt t x.id with
    | some y => if test y then sendEvent t y ty body else t
    | none => t) s

/-! ### Activity (R516) -/

/-- A die's unit has done `n` of a class of activity for a descriptor of phase `ph`, 256 for none (R516, R521). Classes: 0 to 15 K-steps by
AFMT, 16 to 47 VXE elements by VOP, 48 bank accesses, 49 mover units, 50 HBM line requests, 51 codewords, 52 die-to-die bytes. -/
def countAct (s : State) (die cls ph n : Nat) : State :=
  let k := (64 * die + cls) * 512 + ph
  { s with act := kput 0 s.act k ((kget s.act k).getD 0 + n) }

/-! ### Fault capture, the log and alarms (R628 to R634) -/

/-- The 32 bytes of a log entry (R628). -/
def LogRec.bytes (r : LogRec) : List Byte :=
  leBytes 6 r.beat ++ leBytes 2 r.cycle ++ leBytes 1 r.level ++ leBytes 1 r.cls ++ leBytes 2 r.code ++ leBytes 2 r.unit ++
    (padTo 18 r.detail).take 18

/-- A record of the present cycle; the class is the high byte of the code (R631). -/
def mkRec (s : State) (level code unit : Nat) (detail : List Byte) (named : Nat) : LogRec :=
  { beat := s.beat, cycle := s.cyc, level, cls := code / 256, code, unit, detail, dies := named, ent := none, num := 0 }

/-- A record of a core's engine, LEVEL 0, or of the core itself, LEVEL 1 with engine 0 (R629). -/
def coreRec (s : State) (u eng code : Nat) (detail : List Byte) : LogRec :=
  mkRec s (if eng = 0 then 1 else 0) code (unitCode u eng) detail (2 ^ dieOf u)

/-- Put a record on its way to the package fault controller. -/
def pushRec (s : State) (r : LogRec) : State := { s with faultq := s.faultq ++ [r] }

/-- COUNTER_SAT for an entry (R631, R666). -/
def satRec (s : State) (idx sub : Nat) : LogRec :=
  let detail := leBytes 2 idx ++ leBytes 1 sub
  let at3 := fun (d : Nat) => mkRec s 3 2 (d * 256) detail (2 ^ d)
  match (locate idx).2.1 with
  | .die => at3 (locate idx).2.2
  | .link => at3 ((locate idx).2.2 / 16)
  | .part => mkRec s 4 2 0 detail (dieMask (partDies s (locate idx).2.2))
  | .pkg => { mkRec s 4 2 0 detail (allDies s.variant) with ent := some (rkey idx sub) }
  | .ctx => { mkRec s 4 2 0 detail (allDies s.variant) with ent := some (rkey idx sub) }
  | .rank => { mkRec s 4 2 0 detail (allDies s.variant) with ent := some (rkey idx sub) }
  | .self => { mkRec s 4 2 0 detail (allDies s.variant) with ent := some (rkey idx sub) }

/-- The buffer that a record takes a place in: its core's, or its die's (R630). -/
def capKey (r : LogRec) : Nat := if r.level ≤ 1 then r.unit % 1024 else 1024 + r.unit % 1024

/-- A record of a class has been captured there in this beat. -/
def classSeen (s : State) (r : LogRec) : Bool :=
  s.capSeen.contains (capKey r, r.cls) || (s.faultq ++ s.log ++ s.kept).any (fun x => x.beat == s.beat && capKey x == capKey r && x.cls == r.cls)

/-- The buffer of 8 records of a core, or of 64 of a die, has no room for a record (R630). -/
def capFull (s : State) (r : LogRec) : Bool :=
  (decide (r.level ≤ 1) && decide (8 ≤ (s.faultq.filter (fun x => decide (x.level ≤ 1) && x.unit % 1024 == r.unit % 1024)).length)) ||
    decide (64 ≤ (s.faultq.filter (fun x => decide (x.level ≤ 3) && x.unit / 256 % 4 == r.unit / 256 % 4)).length)

/-- A record that is not logged is counted in LOG_DROPPED (R630, R648). -/
def noteDropped (s : State) : State :=
  let v := rg s 0x7000 5
  if v ≥ countMax then s
  else if v + 1 < countMax then wr s 0x7000 5 (v + 1)
  else pushRec (wr (wr s 0x7000 5 countMax) 0x7000 6 (rg s 0x7000 6 ||| 2)) (satRec s 0x7000 5)

/-- A COUNTER_SAT record on its way: one of a die takes a place in the die's buffer (R630). -/
def pushSat (s : State) (r : LogRec) : State := if r.level ≤ 3 ∧ capFull s r ∧ classSeen s r then noteDropped s else pushRec s r

/-- Add to a count, which stays at 2^48 − 1 once it is reached, then sets its overflow bit and raises COUNTER_SAT (R78, R121, R173,
R223, R256, R293, R338, R378, R417, R451, R452, R479, R508, R536, R581, R621, R648). -/
def bumpAt (s : State) (idx sub ovfIdx ovfSub b n : Nat) : State :=
  let v := rg s idx sub
  if v ≥ countMax ∨ n = 0 then s
  else if v + n < countMax then wr s idx sub (v + n)
  else
    let t := wr s idx sub countMax
    pushSat (wr t ovfIdx ovfSub (rg t ovfIdx ovfSub ||| 2 ^ b)) (satRec s idx sub)

def bump (s : State) (idx sub ovfSub b n : Nat) : State := bumpAt s idx sub idx ovfSub b n

/-- Add to a count kept in units of `k`; what is left over waits for the next addition. -/
def bumpUnits (s : State) (idx sub ovfSub b k n : Nat) : State :=
  let r := (kget s.rems (rkey idx sub)).getD 0 + n
  bump { s with rems := kset s.rems (rkey idx sub) (r % k) } idx sub ovfSub b (r / k)

/-- Add to an element of a TABLE of counts. -/
def bumpTab (s : State) (idx sub i ovfSub b n : Nat) : State :=
  let v := rtab s idx sub 8 i
  if v ≥ countMax ∨ n = 0 then s
  else if v + n < countMax then wtab s idx sub 8 i (v + n)
  else
    let t := wtab s idx sub 8 i countMax
    pushSat (wr t idx ovfSub (rg t idx ovfSub ||| 2 ^ b)) (satRec s idx sub)

/-- Add to an element of LANE_CORR, which has no overflow bit (R377, R378). -/
def bumpLane (s : State) (l i n : Nat) : State :=
  let v := rtab s (0x3003 + 16 * l) 2 8 i
  if v ≥ countMax ∨ n = 0 then s
  else if v + n < countMax then wtab s (0x3003 + 16 * l) 2 8 i (v + n)
  else pushSat (wtab s (0x3003 + 16 * l) 2 8 i countMax) (satRec s (0x3003 + 16 * l) 2)

/-- A PLAN_FAULT of a RUNNING partition raises its alarm at the next beat edge, whether or not its record is logged (R211,
R630). -/
def notePlanFault (s : State) (r : LogRec) : State :=
  let p := partLow s (r.unit / 256 % 4)
  if r.cls = 2 ∧ r.level ≤ 3 ∧ planState s p = 3 then setPart s p { partAt s p with planFault := true } else s

/-- Capture a record at its core and die: 8 records per core, 64 per die; the first of a class in a beat always passes (R630). -/
def capture (s : State) (r : LogRec) : State :=
  let s := notePlanFault s r
  let k := (capKey r, r.cls)
  if !classSeen s r ∨ !capFull s r then pushRec { s with capSeen := if k ∈ s.capSeen then s.capSeen else k :: s.capSeen } r
  else noteDropped s

/-- The partition a log entry belongs to: by its die, or by the lowest die that the detail of a package entry carries. -/
def recPart (s : State) (r : LogRec) : Nat :=
  if r.level ≤ 3 then partLow s (r.unit / 256 % 4)
  else match r.code with
    | 0x0701 => leAt r.detail 17 1
    | 0x0704 => leAt r.detail 0 1
    | 0x0101 => leAt r.detail 8 1
    | 0x0205 => (List.range 4).findIdx (fun d => bit r.dies d)
    | 0x0206 => (List.range 4).findIdx (fun d => bit r.dies d)
    | _ => 0

/-- The counts and last-entry records that a log entry updates (R77, R120, R222 to R224, R253 to R255, R291 to R293, R337, R416,
R450 to R452, R534). -/
def noteEntry (s : State) (r : LogRec) : State :=
  let d := r.unit / 256 % 4
  let p := recPart s r
  let b := LogRec.bytes r
  match r.code with
  | 0x0001 => wb s (0x7020 + d) 5 b
  | 0x0005 => bumpAt s 0x5018 3 0x5008 10 1 1
  | 0x0007 => bump s 0x2008 1 6 0 1
  | 0x0201 => wb (bump s (0x7850 + d) 1 4 0 1) (0x7850 + d) 3 b
  | 0x0202 => wb (bump s (0x2130 + p) 6 9 1 1) (0x2130 + p) 7 b
  | 0x0203 => bump s 0x2008 4 6 3 1
  | 0x0209 => bump s 0x2008 4 6 3 1
  | 0x020A => bump s 0x2008 4 6 3 1
  | 0x020B => bump s 0x2008 4 6 3 1
  | 0x0204 => bump s (0x7860 + d) 5 6 4 1
  | 0x0206 => bump s (0x2210 + p) 9 14 1 1
  | 0x0207 => wb s (0x4010 + d) 13 b
  | 0x0208 => wb s (0x3420 + p) 7 b
  | 0x0402 => wb s (0x3420 + p) 7 b
  | 0x0301 => wb (bump s (0x4010 + d) 7 12 6 1) (0x4010 + d) 13 b
  | 0x0302 => wb (bump s (0x4010 + d) 8 12 7 1) (0x4010 + d) 13 b
  | 0x0303 => wb (bump s (0x4010 + d) 8 12 7 1) (0x4010 + d) 13 b
  | 0x0501 => bump s (0x2010 + d) 1 5 0 1
  | 0x0502 => bump s (0x2010 + d) 1 5 0 1
  | 0x0701 => wb (bump s (0x2210 + p) 11 14 3 1) (0x2210 + p) 12 b
  | _ => s

/-- Write one entry into the fault log (R646, R648, R615). -/
def logNow (s : State) (r : LogRec) : State :=
  let n := s.logNum + 1
  let r := { r with num := n }
  let s := { s with logNum := n, log := (s.log ++ [r]).drop ((s.log.length + 1) - 1024) }
  let s := bump s 0x7000 1 6 0 1
  let s := if 7 ≤ r.cls then
      let l := rb s 0x7000 7 ++ LogRec.bytes r
      wb s 0x7000 7 (l.drop (l.length - 512))
    else s
  let s := eventAll s (fun x => sees s x r) 2 (LogRec.bytes r)
  let s := if r.code = 2 then eventAll s (fun x => sees s x r) 3 (leBytes 3 (leNat (r.detail.take 3)) ++ [0]) else s
  noteEntry s r

/-- An entry reaches the log, or is kept while the MC is not running (R638). -/
def logRec (s : State) (r : LogRec) : State :=
  if s.mcDown then
    if s.kept.length < 256 then { s with kept := s.kept ++ [r] } else bump s 0x7000 5 6 1 1
  else logNow s r

/-- A link in native mode: one in SV2 mode is never a timing link or a canopy parent or child (R373). -/
def isNative (s : State) (l : Nat) : Bool := rg s (0x3000 + 16 * l) 2 == 0

/-- The active canopy parent of a partition, none where it names no native link of the partition's own (R284, R286, R373). -/
def canopyParent (s : State) (p : Nat) : Option Nat :=
  if (partLinks s p).contains (rg s (0x2210 + p) 6) ∧ isNative s (rg s (0x2210 + p) 6) then some (rg s (0x2210 + p) 6) else none

/-- The child links of a partition's canopy: its own links that CANOPY_CHILDREN names (R284). -/
def canopyKids (s : State) (p : Nat) : List Nat := (partLinks s p).filter (fun n => bit (rg s (0x2210 + p) 4) n && isNative s n)

/-- The canopy links of a partition: the active parent, then the children (R286, R289). -/
def canopyLinks (s : State) (p : Nat) : List Nat := (canopyParent s p).toList ++ canopyKids s p

/-- The body fields of a canopy message by MTYPE, as their widths in bytes (R288, R431, R438). -/
def canopyWidths (mtype : Nat) : List Nat :=
  match mtype with
  | 1 => [4, 6, 2, 2, 1, 1, 1, 1, 6, 6, 2, 2, 8]
  | 2 => [1, 1, 1, 2, 2, 1]
  | 3 => [1]
  | 4 => [1, 1, 6, 2]
  | _ => [1, 2, 1, 2]

/-- The 64 bytes of a canopy message: ORIGIN, BEAT, CYCLE, HOPS, then its body (R287). -/
def canopyBytes (mtype : Nat) (args : List Nat) : List Byte :=
  let a := fun (i : Nat) => args.getD i 0
  padTo 64 (leBytes 1 mtype ++ leBytes 4 0 ++ leBytes 1 (a 3) ++ leBytes 2 (a 0) ++ leBytes 2 (a 2) ++ leBytes 6 (a 1) ++
    ((List.zip (canopyWidths mtype) (args.drop 4)).map (fun x => leBytes x.1 x.2)).flatten)

/-- Send a canopy message on a link: it waits there as a CANOPY packet to the package at the other end (R287, R394). A link that is
neither UP nor in HOLD, or runs in SV2 mode (R373), takes none. -/
def sendMsg (s : State) (l mtype : Nat) (args : List Nat) : State :=
  if (linkState s l = 3 ∨ linkState s l = 4) ∧ isNative s l then
    let k : Packet := { addr := 0, space := 0, inc := 0, ctr := 0, cv := false, len := 1, ep := 0xF0, die := 0,
                        dest := rg s (0x3001 + 16 * l) 5 % 2 ^ 24, cls := .canopy, ptype := 0x11, payload := canopyBytes mtype args }
    emit (setLink s l { linkAt s l with unsQ := (linkAt s l).unsQ ++ [k] }) (.canopy l mtype args)
  else s

/-- The package's rank in a partition's plan (R217). -/
def ownRank (s : State) (p : Nat) : Nat := (partAt s p).rank

/-- A partition raises a fleet alarm: once per freeze it sends an ALARM on its canopy and copies the entry to FREEZE_CAUSE (R289,
R633, R634). -/
def raiseAlarm (s : State) (r : LogRec) (p : Nat) : State :=
  let q := partAt s p
  if planState s p ≠ 3 ∨ q.alarm then s
  else
    let s := setPart s p { q with alarm := true, cause := LogRec.bytes r }
    let s := bump s (0x2210 + p) 10 14 2 1
    (canopyLinks s p).foldl (fun t l =>
      sendMsg t l 5 [ownRank s p, s.beat, s.cyc, 1, r.cls, r.code, r.level, r.unit]) s

/-- The partitions that a fault concerns (R633). -/
def concerns (s : State) (r : LogRec) : List Nat :=
  if r.code = 0x0702 ∨ r.code = 0x0703 ∨ r.code = 0x0705 ∨ r.code = 0x0706 then partitions s
  else if r.level ≤ 3 then [partLow s (r.unit / 256 % 4)]
  else (partitions s).filter (fun p => bit r.dies p)

/-- The outcome of a class (R632): PLAN_FAULT raises its alarm at the next beat edge; DATA_FAULT, LINK_FAULT, REGION_SLIP and
PACKAGE_FAULT raise it at once, except FLEET_ALARM. -/
def escalate (s : State) (r : LogRec) : State :=
  if r.cls = 2 then
    (concerns s r).foldl (fun t p =>
      if planState t p = 3 then
        setPart t p { partAt t p with planFault := true,
                                      firstPF := if (partAt t p).firstPF.isEmpty then LogRec.bytes r else (partAt t p).firstPF }
      else t) s
  else if (3 ≤ r.cls ∧ r.cls ≤ 5) ∨ (r.cls = 7 ∧ r.code ≠ 0x0701) then
    (concerns s r).foldl (fun t p => raiseAlarm t r p) s
  else s

/-- The package fault controller logs a record of its own and acts on it. -/
def raise (s : State) (r : LogRec) : State := escalate (logRec s r) r

/-- A package or module record (LEVEL 4 or 5, UNIT 0) that names every die. -/
def pkgRec (s : State) (level code : Nat) (detail : List Byte) : LogRec := mkRec s level code 0 detail (allDies s.variant)

/-- A package record that names the dies of a partition (R666). -/
def partRec (s : State) (p code : Nat) (detail : List Byte) : LogRec := mkRec s 4 code 0 detail (dieMask (partDies s p))

/-! ### The security log (R578) -/

/-- Roles as the dictionary numbers them (R620). -/
def Role.code (r : Role) : Nat := match r with | .vd => 0 | .ow => 1 | .op => 2 | .tn => 3 | .restricted => 4

/-- Append a security log entry and tell Ow and Op sessions. -/
def secLog (s : State) (code role part ses : Nat) (detail : List Byte) : State :=
  let e := leBytes 6 s.beat ++ leBytes 2 s.cyc ++ leBytes 2 code ++ leBytes 1 role ++ leBytes 1 part ++ leBytes 4 ses ++
    (padTo 16 detail).take 16
  let l := match kget s.blobs (rkey 0x6050 2) with | some l => l ++ e | none => e
  let s := wb s 0x6050 2 (l.drop (l.length - 2048))
  let s := bump s 0x6050 1 3 0 1
  eventAll s (fun x => x.role == .ow || x.role == .op) 5 e

/-- Free bytes (log entry 6). -/
def drawBytes : Nat → State → List Byte × State
  | 0, s => ([], s)
  | n + 1, s =>
    let r := draw s
    let t := drawBytes n r.2
    (leBytes 64 r.1.toNat ++ t.1, t.2)

/-- A security log entry whose detail the spec does not state: a free value (log entry 6). -/
def secFree (s : State) (code role part ses : Nat) : State :=
  let r := draw s
  secLog r.2 code role part ses (leBytes 16 r.1.toNat)

/-! ### Alerts (R534, R652) -/

/-- Set a bit of ALERT_STATUS. -/
def alert (s : State) (b : Nat) : State := wr s 0x5008 9 (rg s 0x5008 9 ||| 2 ^ b)

/-! ### Long operations (R610 to R614) -/

/-- The 32 bytes of a handle record (R611). -/
def Handle.bytes (h : Handle) : List Byte :=
  leBytes 4 h.h ++ leBytes 1 h.st ++ leBytes 1 (if h.st = 2 then h.status.ctorIdx else 0) ++ leBytes 1 h.reason ++ leBytes 1 0 ++
    leBytes 4 h.progress ++ leBytes 6 h.start ++ leBytes 6 h.fin ++ leBytes 2 h.result.length ++ leBytes 6 0

/-- The next sequence number: wraps from 2^24 − 1 to 1 and skips numbers still in the table (R611). -/
def nextSeq (hs : List Handle) : Nat → Nat → Nat
  | 0, n => n
  | k + 1, n =>
    let m := if n + 1 ≥ 2 ^ 24 then 1 else n + 1
    if hs.any (fun h => h.h % 2 ^ 24 == m) then nextSeq hs k m else m

/-- Whether an INVOKE finds 256 operations in progress (R612). -/
def handlesBusy (s : State) : Bool := decide (256 ≤ (s.handles.filter (fun h => h.st != 2)).length)

/-- The DONE handle with the earliest END, compared as beat numbers are (R228, R612). -/
def oldestDone (hs : List Handle) : Option Handle :=
  (hs.filter (fun h => h.st == 2)).foldl (fun m h => match m with
    | none => some h
    | some g => if beatDiff h.fin g.fin < 0 then some h else some g) none

/-- Issue a handle: RUNNING at once when it leaves QUEUED now (R610 to R612). -/
def issue (s : State) (ty ses : Nat) (queued : Bool) : Nat × State :=
  let h := ty * 2 ^ 24 + s.handleSeq
  let hs := if s.handles.length < 256 then s.handles else match oldestDone s.handles with
    | some g => s.handles.filter (fun x => x.h != g.h)
    | none => s.handles
  let new : Handle := { h := h, st := if queued then 0 else 1, status := .ok, reason := 0, progress := 0,
                        start := if queued then 0 else s.beat, fin := 0, result := [], ses := ses }
  (h, bump { s with handles := hs ++ [new], handleSeq := nextSeq (hs ++ [new]) 300 s.handleSeq } 0x8000 5 6 0 1)

def handleAt (s : State) (h : Nat) : Option Handle := s.handles.find? (fun x => x.h == h)

def setHandle (s : State) (h : Handle) : State :=
  { s with handles := s.handles.map (fun x => if x.h == h.h then h else x) }

/-- A handle leaves QUEUED. -/
def startHandle (s : State) (h : Nat) : State :=
  match handleAt s h with
  | some x => if x.st = 0 then setHandle s { x with st := 1, start := s.beat } else s
  | none => s

/-- A handle's PROGRESS. -/
def progress (s : State) (h n : Nat) : State :=
  match handleAt s h with
  | some x => setHandle s { x with progress := n }
  | none => s

/-- A handle is DONE: its record is filled and HANDLE_DONE is sent; while the MC is not running it completes when the MC returns
(R611, R614, R25). -/
def finishHandle (s : State) (h : Nat) (st : Status) (reason : Nat) (result : List Byte) : State :=
  match handleAt s h with
  | none => s
  | some x =>
    if s.mcDown then setHandle s { x with status := st, reason := reason, result := result, due := true }
    else
      let x := { x with st := 2, status := st, reason := reason, result := result, fin := s.beat, due := false }
      eventAll (setHandle s x) (fun y => y.id == x.ses) 1 (Handle.bytes x)

/-- Complete an operation's handle if it has one. -/
def finishOpt (s : State) (h : Option Nat) (st : Status) (reason : Nat) (result : List Byte) : State :=
  match h with
  | some n => finishHandle s n st reason result
  | none => s

/-- Complete operations of a link, whose REASON is the link's FAIL_CAUSE (R611). -/
def finishAll (s : State) (l : Nat) (hs : List Nat) (st : Status) : State :=
  hs.foldl (fun t h => finishHandle t h st (rg s (0x3001 + 16 * l) 2) []) s

/-! ### Receive pools of links (R366) -/

/-- The number of a class (R347). -/
def classNum (c : TClass) : Nat := match c with | .plan => 0 | .canopy => 1 | .serve => 2 | .mgmt => 3

/-- Receive pool units of a frame are released (R366). -/
def release (s : State) (l : Nat) (c : TClass) (ures ush : Nat) : State :=
  if 64 ≤ l then s
  else
    let x := linkAt s l
    let add := fun (i : Nat) => (x.crSent.getD i 0 + (if i = classNum c then ures else 0) + (if i = 4 then ush else 0)) % 2 ^ 16
    setLink s l { x with crSent := (List.range 5).map add, unsent := true, poolUsed := x.poolUsed - (ures + ush) }

/-! ### Outcomes -/

/-- The next state of a command: the queue is what was left of it, the ordering code never changes, and ALERT_N is asserted
exactly while a bit of ALERT_STATUS is set (R1, R534, R652). -/
def doneAny (s t : State) : Host.Outcome State Fault Refusal :=
  .next { t with pending := s.pending, variant := s.variant, alertN := decide (rg { t with variant := s.variant } 0x5008 9 ≠ 0) }

/-- The next state of a command; a module that is powered down entirely does nothing (R658). -/
def done (s t : State) : Host.Outcome State Fault Refusal := if s.powered then doneAny s t else .next s

/-- A command of a core. -/
def onCore (s : State) (u : Nat) (t : State) : Host.Outcome State Fault Refusal :=
  if u < coresOf s.variant then done s t else .fault .absentUnit

/-- A command of a link. -/
def onLink (s : State) (l : Nat) (t : State) : Host.Outcome State Fault Refusal :=
  if l < linksOf s.variant then done s t else .fault .absentUnit

/-- A command of a die. -/
def onDie (s : State) (d : Nat) (t : State) : Host.Outcome State Fault Refusal :=
  if d < dies s.variant then done s t else .fault .absentUnit

/-- A command of a partition, named by its lowest die. -/
def onPart (s : State) (p : Nat) (t : State) : Host.Outcome State Fault Refusal :=
  if p ∈ partitions s then done s t else .fault .noPartition

/-- A command of the serving unit. -/
def onServe (s : State) (t : State) : Host.Outcome State Fault Refusal :=
  if hasServe s.variant then done s t else .fault .absentUnit

end Sys2Proof.Machine
end

