-- ==== Sys2Proof/Machine/Gate.lean ====
section
/-! DEFINITION. The gate of every dictionary access: existence, role, lock, state, type, range, busy, in the order of R17, and the
answer to the session. -/

namespace Sys2Proof.Machine

/-- The operations of R604 as access kinds: 1 GET, 2 SET, 3 INVOKE. -/
def accServes (op : Nat) (a : Acc) : Bool :=
  match a with
  | .ro => op == 1
  | .rw => op == 1 || op == 2
  | .wo => op == 2
  | .w1c => op == 1 || op == 2
  | .rw2p => op == 1 || op == 2
  | .inv => op == 3

/-- Whether the entry's access cell lists the role for the operation (R12 to R14). The restricted session is an Owner session
limited to OWNER_CLAIM and the 0x1000 and 0x1100 ranges (R537, R618). -/
def roleMay (x : Session) (op : Nat) (base : Nat) (e : Entry) : Bool :=
  match x.role with
  | .restricted =>
    (base == 0x6000 && e.sub == 4 && op == 2) || (decide (0x1000 ≤ base ∧ base < 0x1200) && (op == 1 || op == 3) &&
      e.acc.any (fun a => accServes op a.1))
  | r => e.acc.any (fun a => accServes op a.1 && a.2.contains r)

/-- Whether the unit of an index is absent (R3, R505). -/
def unitAbsent (s : State) (idx : Nat) : Bool :=
  let (base, k, n) := locate idx
  match k with
  | .die => decide (dies s.variant ≤ n)
  | .part => decide (dies s.variant ≤ n) || (base == 0x4810 && !hasServe s.variant)
  | .link => decide (linksOf s.variant ≤ n)
  | .pkg => base == 0x4800 && !hasServe s.variant
  | .ctx => false
  | .rank => false
  | .self => false

/-- The partition that holds a package HBM address. -/
def hbmPart (s : State) (a : Nat) : Nat := partLow s (a / dieHbm)

/-- Whether a context is GRAFTED into, or being grafted to, one of these partitions (R478). -/
def ctxWith (s : State) (c : Nat) (ps : List Nat) : Bool :=
  (rg s (0x4440 + c) 1 == 4 && ps.contains (hbmPart s (bits (rg s (0x4440 + c) 10) 0 40))) ||
    (s.grafts ++ s.graftRun.toList).any (fun g => g.ctx == c && ps.contains g.part)

/-- Whether a Tenant may use the unit of an index (R222, R253, R376, R413, R415, R478, R534, R579). -/
def tenantMay (s : State) (x : Session) (op idx : Nat) : Bool :=
  let (_, k, n) := locate idx
  match k with
  | .die => bit (tenantDies s x) n
  | .part => (tenantParts s x).contains n
  | .ctx => op != 1 || ctxWith s n (tenantParts s x)
  | .rank => op != 1 || (tenantParts s x).any (fun p =>
      decide (max (256 * n) (rg s (0x3410 + p) 6) < min (256 * n + 256) (rg s (0x3410 + p) 6 + rg s (0x3410 + p) 7)))
  | .link => bit (tenantDies s x) (n / 16)
  | .pkg => true
  | .self => true

/-- The first of NO_INDEX, NO_SUB, ABSENT, DENIED and LOCKED that applies (R17, R608). -/
def preStatus (s : State) (x : Session) (op idx sub : Nat) : Status :=
  match entriesAt (locate idx).1 with
  | [] => .noIndex
  | l =>
    match l.find? (fun e => e.sub == sub) with
    | none => .noSub
    | some e =>
      if unitAbsent s idx then .absent
      else if !roleMay x op (locate idx).1 e then .denied
      else if x.role = .tn ∧ !tenantMay s x op idx then .denied
      else if op ≠ 1 ∧ (locate idx).2.1 ≠ .self ∧ s.lockBy ≠ some x.id then .locked
      else .ok

/-- An index of a die that is not the lowest of a partition returns STATE (R222). -/
def notLowest (s : State) (idx : Nat) : Bool :=
  match (locate idx).2.1 with
  | .part => partLow s (locate idx).2.2 != (locate idx).2.2
  | _ => false

/-- BUSY before READY outside the 0x1000, 0x1100, 0x7000 and 0x9000 ranges (R626), with TRIP_IN readable while RAILS waits for a trip input
(R627), for serving entries in MAINTENANCE
(R503), and for the flash tier while the hold-up sequence runs (R475). -/
def entryBusy (s : State) (idx sub : Nat) : Bool :=
  let base := (locate idx).1
  let early := (0x1000 ≤ base ∧ base < 0x1200) ∨ (0x7000 ≤ base ∧ base < 0x7100) ∨ (0x9000 ≤ base ∧ base < 0x9100) ∨
    (base = 0x5018 ∧ sub = 1 ∧ rg s 0x7008 1 = 1 ∧ !s.tripAt.isEmpty)
  (rg s 0x7008 1 != 5 && !decide early) ||
    (s.holdup && (base == 0x4400 || base == 0x4440)) || (rg s 0x4800 3 == 1 && ((base == 0x4800 && sub != 3 && sub != 4 && sub != 5) || base == 0x4810))

/-- Whether a number meets the Range column (R601). -/
def Rng.ok (r : Rng) (v : Nat) : Bool :=
  match r with
  | .any => true
  | .between lo hi => decide (lo ≤ v ∧ v ≤ hi)
  | .oneOf l => l.contains v
  | .mask m => v &&& m == v

/-- TYPE and RANGE of a value by the entry's type and range (R600, R601). -/
def valueStatus (e : Entry) (val : List Byte) : Status :=
  match e.ty with
  | .num n => if val.length ≠ n then .type else if e.rng.ok (leNat val) then .ok else .range
  | .i32 => if val.length ≠ 4 then .type else .ok
  | .f32 => if val.length ≠ 4 then .type else if 0x7F800000 < leNat val % 2 ^ 31 then .range else .ok
  | .bool => if val.length ≠ 1 then .type else if leNat val ≤ 1 ∧ e.rng.ok (leNat val) then .ok else .range
  | .enum => if val.length ≠ 1 then .type else if e.rng.ok (leNat val) then .ok else .range
  | .str m => if m < val.length then .range
      else if val.all (fun b => decide (0x20 ≤ b.toNat ∧ b.toNat ≤ 0x7E)) then .ok else .range
  | .blob m => if m < val.length then .range
      else if e.base = 0x2120 then .ok
      else if e.base = 0x6020 ∧ e.sub = 6 then (if val.length = 96 ∨ val.length = 192 then .ok else .type)
      else if val.length ≠ m then .type else .ok
  | .table n => if val.length ≠ n then .type else .ok
  | .inv => .denied

/-- The status of a SET (R17): the entry's own conditions are a STATE condition that ignores the value, a RANGE condition, a STATE
condition on the value, and a BUSY condition. -/
def setStatus (s : State) (x : Session) (idx sub : Nat) (val : List Byte) (stateNV bad stateV busy : Bool) : Status :=
  match preStatus s x 2 idx sub with
  | .ok =>
    if notLowest s idx || stateNV then .state
    else match entry? idx sub with
      | none => .noSub
      | some e =>
        match valueStatus e val with
        | .ok => if bad then .range else if stateV then .state else if entryBusy s idx sub || busy then .busy else .ok
        | st => st
  | st => st

/-! ### Message headers (R603, R604) -/

/-- The header of the present message of a session. -/
def headOf (s : State) (ses : Nat) : Option MsgHead := ((kget s.heads ses).getD []).head?

/-- The present message of a session is dealt with. -/
def dropHead (s : State) (ses : Nat) : State :=
  let l := ((kget s.heads ses).getD []).drop 1
  { s with heads := if l.isEmpty then kdel s.heads ses else kset s.heads ses l }

/-- A message that R604 answers with RANGE: another OP, EN or DVER, a reserved byte, a LENGTH that is too long or not that of the bytes that
follow, an INDEX or SUB where there is none. -/
def headBad (s : State) (ses op : Nat) : Bool :=
  match headOf s ses with
  | none => false
  | some h => h.en != rg s 0x1000 8 || h.op != op || h.dver != 1 || h.rsv != 0 || decide (8320 < h.length) || h.length != h.got ||
      (decide (4 ≤ op) && (h.index != 0 || h.sub != 0))

/-- The bytes of VALUE: those that the header says, else those of the command. -/
def valueLen (s : State) (ses : Nat) (val : List Byte) : Nat :=
  match headOf s ses with
  | none => val.length
  | some h => h.got

/-- The status of an INVOKE with an expected argument length (R17, R610, R612). -/
def invStatus (s : State) (x : Session) (idx sub : Nat) (arg : List Byte) (len : Nat) (stateNV bad busy : Bool) : Status :=
  match preStatus s x 3 idx sub with
  | .ok =>
    if notLowest s idx || stateNV then .state
    else if valueLen s x.id arg ≠ len then .type
    else if bad then .range
    else if entryBusy s idx sub || busy || handlesBusy s then .busy
    else .ok
  | st => st

/-- The status of a GET, which has no VALUE (R17, R604). -/
def getStatus (s : State) (x : Session) (idx sub : Nat) : Status :=
  match preStatus s x 1 idx sub with
  | .ok => if notLowest s idx then .state else if valueLen s x.id [] ≠ 0 then .type else if entryBusy s idx sub then .busy else .ok
  | st => st

/-- A response to the mailbox message in progress is written, BUSY clears, DONE is set and vector 0 raised (R586). -/
def mailboxDone (s : State) (m : List Byte) : State :=
  if bit s.mbStatus 1 then
    vector (emit { s with mbStatus := 1 + (if bit s.mbStatus 3 then 8 else 0), mbRsp := m, mbRspLen := m.length } (.mailbox 0 m.length)) 0
  else s

/-- A response goes out on a binding: 0 is the mailbox (R586, R597). -/
def carry (s : State) (b : Nat) (p : MctpPeer) (m : List Byte) : State := if b = 0 then mailboxDone s m else wire s b p false m

/-- A message of a session goes out on the session's transport as a secured message. -/
def sendSecured (s : State) (x : Session) (o : Out) (m : List Byte) : State :=
  let r := secure (emit s o) x m
  carry r.2 x.transport x.peer r.1

/-- The response to a dictionary message: the header of R603 with OP + 0x80 and the TAG of its request. -/
def response (s : State) (ses op idx sub : Nat) (st : Status) (val : List Byte) : List Byte :=
  dictMsg (rg s 0x1000 8) ((match headOf s ses with | some h => h.op | none => op) + 0x80) (match headOf s ses with | some h => h.tag | none => 0)
    idx sub st val

/-- Answer a dictionary message outside a session. -/
def answer (s : State) (ses op idx sub : Nat) (st : Status) (val : List Byte) : State :=
  emit (dropHead s ses) (.msg ses (response s ses op idx sub st val))

/-- Answer a dictionary message in its session. -/
def answerIn (s : State) (x : Session) (op idx sub : Nat) (st : Status) (val : List Byte) : State :=
  let m := response s x.id op idx sub st val
  sendSecured (dropHead s x.id) x (.msg x.id m) m

/-- Any message of the lock's holder renews the lease (R609). -/
def touch (s : State) (ses : Nat) : State := if s.lockBy = some ses then { s with lockLeft := 2000 } else s

/-! ### Requests that await their response (R606) -/

/-- The session of a dictionary message. -/
def askOf (i : Instr) : Option Nat :=
  match i with
  | .linkAdmin ses _ _ | .linkRetrain ses _ | .linkSelftest ses _ | .myCoord ses _ | .bundles ses _ _ | .routeTableWrite ses _ _ _
  | .rankWindowWrite ses _ _ _ | .rankTableWrite ses _ _ | .timingConfigWrite ses _ _ | .stretchFrac ses _ | .beatKAt ses _
  | .planStartBeat ses _ _ | .brkCtl ses _ | .planLoad ses _ _ | .planReset ses _ _ | .dictGet ses _ _ | .dictSet ses _ _ _ | .poll ses _
  | .lock ses | .unlock ses | .logRead ses | .ringWrite ses _ _ | .serveMaint ses _ | .serveSelftest ses | .ctxInstall ses _ _
  | .ctxGraft ses _ | .ctxRelease ses _ | .ctxErase ses _ | .flashMaint ses _ | .flashSelftest ses | .hbmSelftest ses | .senseState ses _
  | .ownerClaim ses _ _ | .lifecycleNext ses _ | .rw2pWrite ses _ _ _ _ _ | .debugReq ses _ | .debugResponse ses _ _ _
  | .debugClose ses _ | .partAssign ses _ | .partRelease ses _ | .partMaint ses _ _ | .partEraseCtx ses _ _ | .partScrub ses _
  | .fwUpdate ses _ _ | .attest ses _ | .freqChange ses | .slotRetire ses _ | .retireClear ses _ | .warmReset ses _ | .mcReset ses _ => some ses
  | _ => none

/-- The marks of a session's requests that have arrived, the present one first and then those that wait in the queue: a request was admitted
unless four admitted ones awaited their response when it arrived. -/
def askMarks (s : State) (ses : Nat) : List Bool :=
  let n := (s.pending.filter (fun i => askOf i == some ses)).length + 1
  let old := ((kget s.asks ses).getD []).take n
  (List.range (n - old.length)).foldl (fun l _ => l ++ [decide ((l.filter id).length < 4)]) old

/-- The present request of a session arrived while four others awaited their response. -/
def fifthAsk (s : State) (ses : Nat) : Bool := !(askMarks s ses).headD true

/-- The present request of a session is dealt with. -/
def asked (s : State) (ses : Nat) : State :=
  let l := (askMarks s ses).drop 1
  { s with asks := if l.isEmpty then kdel s.asks ses else kset s.asks ses l }

/-- Run a dictionary message of operation `op` in its session: nothing is answered while the MC is not running (R25, R586, R598), a message
outside a session is DENIED (R539), a fifth request is BUSY (R606), and a message whose header R604 refuses is RANGE. -/
def inSes (s : State) (ses op idx sub : Nat) (k : State → Session → State) : State :=
  if s.mcDown then dropHead s ses
  else match sesAt s ses with
    | none => answer s ses op idx sub .denied []
    | some x =>
      if !x.up then answer s ses op idx sub .denied []
      else if fifthAsk s ses then answerIn (touch (asked s ses) ses) x op idx sub .busy []
      else if headBad s ses op then answerIn (touch (asked s ses) ses) x op idx sub .range []
      else k (touch (asked s ses) ses) x

/-- A SET: answered with its status, and its effect made when the status is OK (R16). -/
def setting (s : State) (ses idx sub : Nat) (st : State → Session → Status) (eff : State → Session → State) : State :=
  inSes s ses 2 idx sub (fun s x =>
    answerIn (if st s x = .ok then eff s x else s) x 2 idx sub (st s x) [])

/-- A SET that also acts when it is not OK (R16, R569, R572). -/
def settingElse (s : State) (ses idx sub : Nat) (st : State → Session → Status) (eff : State → Session → State)
    (els : State → Session → Status → State) : State :=
  inSes s ses 2 idx sub (fun s x =>
    answerIn (if st s x = .ok then eff s x else els s x (st s x)) x 2 idx sub (st s x) [])

/-- A further DENIED condition, in its place in the order of R17. -/
def alsoDenied (st : Status) (bad : Bool) : Status :=
  match st with
  | .noIndex => st
  | .noSub => st
  | .absent => st
  | _ => if bad then .denied else st

/-- An INVOKE: on OK a handle of the type is issued and returned (R610). -/
def invoking (s : State) (ses idx sub ty : Nat) (queued : Bool) (st : State → Session → Status)
    (eff : State → Session → Nat → State) : State :=
  inSes s ses 3 idx sub (fun s x =>
    if st s x = .ok then
      let (h, t) := issue s ty ses queued
      answerIn (eff t x h) x 3 idx sub .ok (leBytes 4 h)
    else answerIn s x 3 idx sub (st s x) [])

end Sys2Proof.Machine
end

