-- ==== Sys2Proof/Machine/Num.lean ====
section
/-! DEFINITION. The number formats (R35 to R42), exact values and their rounding (R64 to R70), XA128 elements (R49 to R55), exact
arithmetic (R59 to R62, R143 to R149), and the stochastic generator (R67). Formats are named by their code (R35). -/

namespace Sys2Proof.Machine

/-! ### Formats (R35, R37) -/

/-- Element width in bits. -/
def fmtW (f : Nat) : Nat :=
  match f with
  | 0 => 32 | 1 => 16 | 2 => 16 | 3 => 8 | 4 => 8 | 5 => 6 | 6 => 6 | 7 => 4 | 8 => 8 | 9 => 8 | 10 => 128 | _ => 8

/-- Mantissa width. -/
def fmtM (f : Nat) : Nat :=
  match f with
  | 0 => 23 | 1 => 10 | 2 => 7 | 3 => 3 | 4 => 2 | 5 => 2 | 6 => 3 | 7 => 1 | _ => 0

/-- Exponent bias. -/
def fmtBias (f : Nat) : Nat :=
  match f with
  | 0 => 127 | 1 => 15 | 2 => 127 | 3 => 7 | 4 => 15 | 5 => 3 | 6 => 1 | 7 => 1 | _ => 0

/-- The code of the largest finite magnitude. -/
def fmtMax (f : Nat) : Nat :=
  match f with
  | 0 => 0x7F7FFFFF | 1 => 0x7BFF | 2 => 0x7F7F | 3 => 0x7E | 4 => 0x7B | 5 => 0x1F | 6 => 0x1F | 7 => 0x7 | _ => 0x7F

/-- The code of +infinity, where the format has one. -/
def fmtInf (f : Nat) : Option Nat :=
  match f with
  | 0 => some 0x7F800000 | 1 => some 0x7C00 | 2 => some 0x7F80 | 4 => some 0x7C | _ => none

/-- The canonical NaN (R40); 0 in the formats without NaN codes (R72). -/
def fmtNaN (f : Nat) : Nat :=
  match f with
  | 0 => 0x7FC00000 | 1 => 0x7E00 | 2 => 0x7FC0 | 3 => 0x7F | 4 => 0x7E | _ => 0

/-- Narrow formats (R35). -/
def isNarrow (f : Nat) : Bool := decide (3 ≤ f ∧ f ≤ 8)

/-- Bytes of a packed vector of `n` elements (R42, R90). -/
def packSize (f n : Nat) : Nat :=
  match f with
  | 5 => ceilDiv n 4 * 3
  | 6 => ceilDiv n 4 * 3
  | _ => ceilDiv (n * fmtW f) 8

/-- Element `i` of a packed vector (R42). -/
def packGet (f : Nat) (b : List Byte) (i : Nat) : Nat := bits (leAt b (i * fmtW f / 8) (fmtW f / 8 + 2)) (i * fmtW f % 8) (fmtW f)

/-- Codes packed densely, element 0 lowest, padded with zeros (R42). -/
def packNat (w : Nat) : List Nat → Nat
  | [] => 0
  | c :: r => c % 2 ^ w + 2 ^ w * packNat w r

def packVec (f : Nat) (l : List Nat) : List Byte := leBytes (packSize f l.length) (packNat (fmtW f) l)

/-! ### Values (R38 to R41) -/

/-- The value of a code (R37, R38, R41). -/
def decodeVal (f c : Nat) : Val :=
  if f = 8 then if c % 256 < 128 then .fin false (c % 256) 0 else .fin true (256 - c % 256) 0
  else
    let neg := bit c (fmtW f - 1)
    let mag := c % 2 ^ (fmtW f - 1)
    if mag ≤ fmtMax f then
      let e := mag / 2 ^ fmtM f
      let m := mag % 2 ^ fmtM f
      if e = 0 then .fin neg m (1 - (fmtBias f : Int) - fmtM f)
      else .fin neg (2 ^ fmtM f + m) ((e : Int) - fmtBias f - fmtM f)
    else if fmtInf f = some mag then .inf neg
    else .nan

/-- Flip the sign (R144); a NaN stays. -/
def negVal (v : Val) : Val := match v with | .nan => .nan | .inf n => .inf !n | .fin n m e => .fin (!n) m e

/-- A finite value as a signed integer in units of 2^u, for u at most its exponent. -/
def intAt (neg : Bool) (m : Nat) (e u : Int) : Int :=
  let a : Int := m * 2 ^ (e - u).toNat
  if neg then -a else a

/-- The exact product with the special values of R62. -/
def mulVal (a b : Val) : Val :=
  match a, b with
  | .nan, _ => .nan
  | .inf _, .nan => .nan
  | .fin _ _ _, .nan => .nan
  | .inf x, .inf y => .inf (x != y)
  | .inf x, .fin y m _ => if m = 0 then .nan else .inf (x != y)
  | .fin x m _, .inf y => if m = 0 then .nan else .inf (x != y)
  | .fin x m e, .fin y n g => .fin (x != y) (m * n) (e + g)

/-- The exact sum with the special values of R62. -/
def addVal (a b : Val) : Val :=
  match a, b with
  | .nan, _ => .nan
  | .inf _, .nan => .nan
  | .fin _ _ _, .nan => .nan
  | .inf x, .inf y => if x = y then .inf x else .nan
  | .inf x, .fin _ _ _ => .inf x
  | .fin _ _ _, .inf y => .inf y
  | .fin x m e, .fin y n g =>
    let u := min e g
    let t := intAt x m e u + intAt y n g u
    if t = 0 then .fin (x && y) 0 u else .fin (decide (t < 0)) t.natAbs u

/-- Numeric order of two values that are not NaN: less, equal or greater, with −0 equal to +0 (R146). -/
def cmpVal (a b : Val) : Ordering :=
  match a, b with
  | .nan, _ => .eq
  | .inf _, .nan => .eq
  | .fin _ _ _, .nan => .eq
  | .inf x, .inf y => if x = y then .eq else if x then .lt else .gt
  | .inf x, .fin _ _ _ => if x then .lt else .gt
  | .fin _ _ _, .inf y => if y then .gt else .lt
  | .fin x m e, .fin y n g => compare (intAt x m e (min e g)) (intAt y n g (min e g))

def isNaN (v : Val) : Bool := match v with | .nan => true | .inf _ => false | .fin _ _ _ => false
def isNeg (v : Val) : Bool := match v with | .nan => false | .inf n => n | .fin n _ _ => n
def isZero (v : Val) : Bool := match v with | .nan => false | .inf _ => false | .fin _ m _ => m == 0

/-- MIN of R145: a NaN source gives NaN, and −0 is smaller than +0. -/
def minVal (a b : Val) : Val :=
  if isNaN a || isNaN b then .nan
  else match cmpVal a b with
    | .lt => a
    | .gt => b
    | .eq => if isNeg a then a else b

/-- MAX of R145. -/
def maxVal (a b : Val) : Val :=
  if isNaN a || isNaN b then .nan
  else match cmpVal a b with
    | .lt => b
    | .gt => a
    | .eq => if isNeg a then b else a

/-! ### Rounding (R64 to R66, R70, R72, R74) -/

/-- Whether a magnitude n + rem / 2^k rounds up: 0 RNE, 1 RTZ, 2 SR with draw r. -/
def roundsUp (rnd r n rem k : Nat) : Bool :=
  match rnd with
  | 0 => decide (2 ^ k < 2 * rem) || (decide (2 * rem = 2 ^ k) && n % 2 == 1)
  | 2 => decide (2 ^ 16 ≤ rem * 2 ^ 16 / 2 ^ k + r)
  | _ => false

/-- The magnitude m × 2^e rounded to a multiple of 2^q. -/
def roundAt (rnd r m : Nat) (e q : Int) : Nat :=
  if q ≤ e then m * 2 ^ (e - q).toNat
  else
    let k := (q - e).toNat
    m / 2 ^ k + (if roundsUp rnd r (m / 2 ^ k) (m % 2 ^ k) k then 1 else 0)

/-- The magnitude code of m × 2^e as if the exponent range had no upper bound. -/
def magCode (f rnd r m : Nat) (e : Int) : Nat :=
  let top : Int := (m.log2 : Int) + e
  let q := max top (1 - (fmtBias f : Int)) - fmtM f
  let n := roundAt rnd r m e q
  ((q + fmtM f + fmtBias f).toNat * 2 ^ fmtM f + n) - 2 ^ fmtM f

/-- A signed magnitude code; a zero of FP4 is +0 (R70). -/
def signed (f : Nat) (neg : Bool) (mag : Nat) : Nat :=
  if neg ∧ ¬(f = 7 ∧ mag = 0) then 2 ^ (fmtW f - 1) + mag else mag

/-- The code of an overflow (R65). -/
def overflowCode (f : Nat) (sat neg : Bool) : Nat :=
  if sat then signed f neg (fmtMax f)
  else match fmtInf f with
    | some c => signed f neg c
    | none => if f = 3 then 0x7F else signed f neg (fmtMax f)

/-- The INT8 code of an integer, saturated (R65, R72). -/
def int8Code (neg : Bool) (n : Nat) : Nat :=
  if neg then (256 - min n 128) % 256 else min n 127

/-- A value rounded into a real format (R64 to R66, R70, R72, R74). An infinity stays one in every format that has one, whatever SAT is: R65
and R72 do not say whether it counts as an overflow (DESIGN CHOICE, log entry 47). -/
def toFormat (f rnd r : Nat) (sat : Bool) (v : Val) : Nat :=
  match v with
  | .nan => fmtNaN f
  | .inf neg =>
    if f = 8 then int8Code neg 200
    else match fmtInf f with
      | some c => signed f neg c
      | none => if f = 3 ∧ !sat then 0x7F else signed f neg (fmtMax f)
  | .fin neg m e =>
    if f = 8 then int8Code neg (if m = 0 then 0 else roundAt rnd r m e 0)
    else if m = 0 then signed f neg 0
    else
      let c := magCode f rnd r m e
      if fmtMax f < c then overflowCode f sat neg else signed f neg c

/-- A value rounded to FP32 with RNE, as a value (R59, R152). -/
def toF32 (v : Val) : Val := decodeVal 0 (toFormat 0 0 0 false v)

/-! ### XA128 (R49 to R56) -/

/-- Signed base exponent of a 10-bit field (R50). -/
def sext (w v : Nat) : Int := if v < 2 ^ (w - 1) then v else (v : Int) - 2 ^ w

/-- The value an element holds (R55). -/
def XEl.held (x : XEl) : Nat :=
  match x.flags % 8 with
  | 0 => x.q % 2 ^ 128
  | 1 => 2 ^ 127 - 1
  | 2 => 2 ^ 127 + 1
  | _ => 2 ^ 127

/-- An element loaded from its held value (R56). -/
def XEl.load (q : Nat) : XEl :=
  if q = 2 ^ 127 - 1 then { flags := 1, q := q }
  else if q = 2 ^ 127 + 1 then { flags := 2, q := q }
  else if q = 2 ^ 127 then { flags := 4, q := q }
  else { flags := 0, q := q }

/-- The exact addition of two elements (R55). -/
def XEl.add (x y : XEl) : XEl := { flags := x.flags ||| y.flags, q := (x.q + y.q) % 2 ^ 128 }

/-- NG of an XA128 source (R144). -/
def XEl.neg (x : XEl) : XEl := XEl.load ((2 ^ 128 - XEl.held x % 2 ^ 128) % 2 ^ 128)

/-- A product or a converted value entering XA128 under base exponent B: the element it adds and the event kinds, HIGH 1, LOW 2,
NAN 4 (R52 to R54, R75). -/
def XEl.enter (v : Val) (b : Int) : XEl × Nat :=
  match v with
  | .nan => ({ flags := 4, q := 0 }, 4)
  | .inf neg => ({ flags := if neg then 2 else 1, q := 0 }, 1)
  | .fin neg m e =>
    if m = 0 then ({ flags := 0, q := 0 }, 0)
    else if b + 63 ≤ (m.log2 : Int) + e then ({ flags := if neg then 2 else 1, q := 0 }, 1)
    else
      let u := b - 64
      let n := if u ≤ e then m * 2 ^ (e - u).toNat else m / 2 ^ (u - e).toNat
      let lost := decide (e < u) && m % 2 ^ (u - e).toNat != 0
      ({ flags := 0, q := if neg then (2 ^ 128 - n) % 2 ^ 128 else n }, if lost then 2 else 0)

/-- An element as a value: flagged elements as NaN or infinity, for R48 and comparisons (R158). -/
def XEl.val (x : XEl) (b : Int) : Val :=
  match x.flags % 8 with
  | 0 => if x.q < 2 ^ 127 then .fin false x.q (b - 64) else .fin true (2 ^ 128 - x.q) (b - 64)
  | 1 => .inf false
  | 2 => .inf true
  | _ => .nan

/-- An element converted to a real format: flags first, then one rounding (R55, R69, R70, R75). An XADD or XSUM converts the sum itself
with its own flags: an unflagged modular sum that happens to equal one of the flag patterns of R55 is converted as that number, where R57
speaks of the bits that were written (DESIGN CHOICE). -/
def XEl.toFormat (x : XEl) (b : Int) (f rnd r : Nat) (sat : Bool) : Nat :=
  match x.flags % 8 with
  | 0 => Sys2Proof.Machine.toFormat f rnd r sat (XEl.val x b)
  | 1 => fmtMax f
  | 2 => if f = 8 then 0x80 else signed f true (fmtMax f)
  | _ => fmtNaN f

/-! ### Block scales (R43 to R48) -/

/-- A scale code as a value: 2^(x − 127), or NaN for 0xFF (R43, R47). -/
def scaleVal (x : Nat) : Val := if x = 255 then .nan else .fin false 1 ((x : Int) - 127)

/-- An element of a scaled or unscaled operand; a scaled INT8 element carries 2^−6 (R45, R46). -/
def scaledVal (f c : Nat) (scale : Option Nat) : Val :=
  match scale with
  | none => decodeVal f c
  | some x => mulVal (mulVal (decodeVal f c) (if f = 8 then .fin false 1 (-6) else .fin false 1 0)) (scaleVal x)

/-- emax of R48. -/
def fmtEmax (f : Nat) : Int := match f with | 3 => 8 | 4 => 15 | 5 => 4 | 6 => 2 | 7 => 2 | _ => 0

/-- The scale of a block (R48). -/
def blockScale (f : Nat) (l : List Val) : Nat :=
  if l.any (fun v => match v with | .nan => true | .inf _ => true | .fin _ _ _ => false) then 255
  else
    let tops : List Int := l.filterMap (fun v => match v with
      | .fin _ m e => if m = 0 then none else some ((m.log2 : Int) + e)
      | .nan => none
      | .inf _ => none)
    match tops with
    | [] => 127
    | t :: r => (max 0 (min 254 (r.foldl max t - fmtEmax f + 127))).toNat

/-! ### The stochastic generator (R67, R68) -/

/-- One advance of the generator state. -/
def genStep (s : BitVec 64) : BitVec 64 :=
  let s := s ^^^ (s <<< 13)
  let s := s ^^^ (s >>> 7)
  s ^^^ (s <<< 17)

/-- The draw that a state gives. -/
def genDraw (s : BitVec 64) : Nat :=
  (s.extractLsb' 0 16 ^^^ s.extractLsb' 16 16 ^^^ s.extractLsb' 32 16 ^^^ s.extractLsb' 48 16).toNat

/-- The state after `n` advances. -/
def genAfter (s : BitVec 64) : Nat → BitVec 64
  | 0 => s
  | n + 1 => genAfter (genStep s) n

/-- Pair each item of a list with its draw, in order (R68). -/
def withDraws {α : Type} (s : BitVec 64) : List α → List (α × Nat)
  | [] => []
  | a :: r => (a, genDraw (genStep s)) :: withDraws (genStep s) r

end Sys2Proof.Machine
end

