-- ==== Sys2Proof/Machine/Operands.lean ====
section
/-! DEFINITION. Descriptor fields (R191, R196, R198, R199, R269, R275, R313), the region checks (R188, R190, R197, R297), and
reading and writing operands of the engines. -/

namespace Sys2Proof.Machine

/-! ### Fields -/

/-- Bits `[lo + w − 1 : lo]` of a descriptor (R7). -/
def fld (d : BitVec 512) (lo w : Nat) : Nat := (d.extractLsb' lo w).toNat

/-- Replace a field of a descriptor. -/
def setFld (d : BitVec 512) (lo w v : Nat) : BitVec 512 :=
  (d &&& ~~~(BitVec.ofNat 512 ((2 ^ w - 1) * 2 ^ lo))) ||| BitVec.ofNat 512 (v % 2 ^ w * 2 ^ lo)

def dOpc (d : BitVec 512) : Nat := fld d 0 8
def dWV (d : BitVec 512) : Bool := fld d 8 1 == 1
def dWid (d : BitVec 512) : Nat := fld d 9 6
def dSV (d : BitVec 512) : Bool := fld d 15 1 == 1
def dSid (d : BitVec 512) : Nat := fld d 16 6
def dRnd (d : BitVec 512) : Nat := fld d 22 2
def dSat (d : BitVec 512) : Bool := fld d 24 1 == 1
def dPX (d : BitVec 512) : Bool := fld d 25 1 == 1
def dIssue (d : BitVec 512) : Nat := fld d 32 16
def dSinc (d : BitVec 512) : Nat := fld d 48 16
def dWtgt (d : BitVec 512) : Nat := fld d 64 32
def dTag (d : BitVec 512) : Nat := fld d 96 16
def dPhase (d : BitVec 512) : Nat := fld d 112 8
def dM (d : BitVec 512) : Nat := fld d 128 24
def dN (d : BitVec 512) : Nat := fld d 152 24
def dK (d : BitVec 512) : Nat := fld d 176 24
def dCount (d : BitVec 512) : Nat := fld d 200 24

/-- Opcodes whose "Uses shape" cell is yes (R193). -/
def usesShape (opc : Nat) : Bool := opc ∈ [0x10, 0x20, 0x30, 0x31, 0x32, 0x33, 0x34, 0x40, 0x41]

/-- Opcodes whose "Rounds" cell is yes (R193). -/
def usesRnd (opc : Nat) : Bool := opc ∈ [0x20, 0x30, 0x31, 0x32]

/-- Opcodes of R193. -/
def isOpcode (opc : Nat) : Bool := opc ∈ [1, 2, 3, 4, 0x50] || usesShape opc

/-- A no-op: an opcode that uses shape with a zero in any shape field (R195). -/
def isNoop (d : BitVec 512) : Bool := usesShape (dOpc d) && (dM d == 0 || dN d == 0 || dK d == 0 || dCount d == 0)

/-! ### Addresses and regions -/

/-- The space and offset of a 24-bit address field with its space bit (R196): 0 CM, 1 operand cache. -/
def spaceOf (a : Nat) : Nat := bits a 23 1
def offOf (a : Nat) : Nat := a % 2 ^ 23

/-- Bytes of a space of one core (R294, R197). -/
def spaceSize (sp : Nat) : Nat :=
  match sp with | 0 => 0x280000 | 1 => 0x10000 | 2 => 0x40000000 | 3 => 2 ^ 39 | 4 => 0x100000 | _ => 0

/-- The byte store's address of a space address as seen by a core (R294, R297, R298). -/
def flatAddr (u sp a : Nat) : Nat :=
  match sp with
  | 0 => cmAddr u a
  | 1 => ocAddr u a
  | 2 => kmAddr (bits a 28 2 * 12 + bits a 24 4) (a % 2 ^ 24)
  | 3 => a
  | _ => lmAddr (clusterOf u) a

/-- Whether an entry of the right space and permissions contains an extent (R188). -/
def inRegion (regs : List Region) (sp a n : Nat) (rd wr : Bool) : Bool :=
  regs.any (fun r => r.size != 0 && r.space == sp && decide (r.base ≤ a ∧ a + n ≤ r.base + r.size) && (!rd || r.rd) && (!wr || r.wr))

/-- Whether a write would touch a stream region of the current segment (R190). -/
def hitsStream (regs : List Region) (seg sp a n : Nat) : Bool :=
  regs.any (fun r => r.size != 0 && r.str && r.space == sp && decide (r.segFirst ≤ seg ∧ seg ≤ r.segLast) &&
    decide (a < r.base + r.size ∧ r.base < a + n))

/-- An extent that a descriptor may read. -/
def mayRead (regs : List Region) (sp a n : Nat) : Bool := decide (a + n ≤ spaceSize sp) && inRegion regs sp a n true false

/-- An extent that a descriptor may write. -/
def mayWrite (regs : List Region) (seg sp a n : Nat) : Bool :=
  decide (a + n ≤ spaceSize sp) && inRegion regs sp a n false true && !hitsStream regs seg sp a n

/-- Two byte ranges share a byte. -/
def overlaps (a n b m : Nat) : Bool := decide (a < b + m ∧ b < a + n)

/-! ### Packed vectors (R42, R118, R169) -/

/-- The bytes of element `i` of a packed vector at `a`. -/
def elemSpan (f a i : Nat) : Nat × Nat := (a + i * fmtW f / 8, (i * fmtW f % 8 + fmtW f + 7) / 8)

/-- Element `i` of the packed vector at `a`: an element that lies wholly or partly in a word with an uncorrectable error reads as 0. -/
def readPacked (s : State) (f a i : Nat) : Nat :=
  let e := elemSpan f a i
  if (eccIn s e.1 e.2).any (fun w => w.2 == 2) then 0 else bits (leNat (mread s.mem e.1 e.2)) (i * fmtW f % 8) (fmtW f)

/-- The codes of a packed vector of `n` elements. -/
def readVec (s : State) (f a n : Nat) : List Nat := (List.range n).map (readPacked s f a)

/-- Write a code as element `i` of the packed vector of `n` elements at `a`; the last element takes the padding with it (R42). -/
def writePacked (s : State) (f a n i c : Nat) : State :=
  let lo := i * fmtW f
  let w := if i + 1 = n then 8 * packSize f n - lo else fmtW f
  let k := (lo % 8 + w + 7) / 8
  let old := leNat (mread s.mem (a + lo / 8) k)
  poke s (a + lo / 8) (leBytes k (old - bits old (lo % 8) w * 2 ^ (lo % 8) + c % 2 ^ fmtW f * 2 ^ (lo % 8)))

/-! ### Tiles and vector registers (R95, R126) -/

def tileKey (t slot : Nat) : Nat := t * 8192 + slot

def tileGet (x : CoreSt) (t slot : Nat) : Nat := ((kget x.tile (tileKey t slot)).getD 0).toNat

def tileSet (x : CoreSt) (t slot v : Nat) : CoreSt := { x with tile := kput 0 x.tile (tileKey t slot) (BitVec.ofNat 128 v) }

/-- Set every slot of a tile to zero (R98). -/
def tileClear (x : CoreSt) (t : Nat) : CoreSt := { x with tile := kclear x.tile (tileKey t 0) 8192 }

def vregGet (x : CoreSt) (r p : Nat) : Nat := ((kget x.vreg (r * 128 + p)).getD 0).toNat

def vregSet (x : CoreSt) (r p v : Nat) : CoreSt := { x with vreg := kput 0 x.vreg (r * 128 + p) (BitVec.ofNat 32 v) }

/-- A tile tag (R96): 0 EMPTY, else the format and base exponent. -/
def mkTag (xa : Bool) (xb : Nat) : BitVec 16 := BitVec.ofNat 16 (if xa then 2 * 2 ^ 10 + xb else 2 ^ 10)

def tagOf (m : KMap (BitVec 16)) (t : Nat) : BitVec 16 := (kget m t).getD 0

/-! ### VX operand specifiers (R131, R132) -/

def oStride (o : Nat) : Nat := o % 2 ^ 16
def oAddr (o : Nat) : Nat := bits o 16 24
def oNG (o : Nat) : Bool := bit o 40
def oFmt (o : Nat) : Nat := bits o 41 4
def oKind (o : Nat) : Nat := bits o 45 3

def vD (d : BitVec 512) : Nat := fld d 256 48
def vS1 (d : BitVec 512) : Nat := fld d 304 48
def vS2 (d : BitVec 512) : Nat := fld d 352 48
def vS3 (d : BitVec 512) : Nat := fld d 400 48
def vImm (d : BitVec 512) : Nat := fld d 448 32
def vOp (d : BitVec 512) : Nat := fld d 480 6
def vCond (d : BitVec 512) : Nat := fld d 486 3
def vAX (d : BitVec 512) : Nat := fld d 489 1
def vLMode (d : BitVec 512) : Nat := fld d 490 1
def vLParam (d : BitVec 512) : Nat := fld d 491 8
def vXB (d : BitVec 512) : Nat := fld d 499 10

def isMem (o : Nat) : Bool := oKind o == 5 || oKind o == 6

/-- Reductions (R150). -/
def isReduce (vop : Nat) : Bool := vop ∈ [9, 10, 11, 12, 17]

/-- Outputs of a VX descriptor. -/
def vOutputs (d : BitVec 512) : Nat :=
  if isReduce (vOp d) then (if vAX d = 0 then dM d else dN d) else dM d * dN d

/-- Rows and columns that a destination holds: a reduction writes output k as element (0, k) (R150). -/
def destShape (d : BitVec 512) : Nat × Nat := if isReduce (vOp d) then (1, vOutputs d) else (dM d, dN d)

/-- Bytes of the extent of a memory operand of an m × n shape (R134). -/
def memExtent (o m n : Nat) : Nat :=
  if oKind o = 5 then (m - 1) * oStride o + packSize (oFmt o) n else (n - 1) * oStride o + packSize (oFmt o) m

/-- Bytes of the scale array of QNT and DQS (R134). -/
def scaleExtent (d : BitVec 512) : Nat := if vAX d = 0 then ceilDiv (dN d) 32 * 128 else ceilDiv (dM d) 32 * 64

/-- The byte that holds the block scale of element (i, j) (R91, R158). -/
def scaleOff (ax i j : Nat) : Nat := if ax = 0 then 128 * (j / 32) + i else 64 * (i / 32) + j

/-- The code of element (i, j) of a source operand, as the VXE reads it: a protected word with an uncorrectable error reads as
zero (R132, R169). `e` is the element index. -/
def readElem (s : State) (u : Nat) (d : BitVec 512) (o i j : Nat) : Nat :=
  let x := coreAt s u
  let e := i * dN d + j
  let bad := fun (a : Nat) => kget s.ecc a == some 2
  match oKind o with
  | 1 => if bad (tileAddr u (tileKey (oAddr o) (64 * i + j))) then 0
         else if oFmt o = 10 then tileGet x (oAddr o) (64 * i + j) else tileGet x (oAddr o) (64 * i + j) % 2 ^ 32
  | 2 => if bad (eccWord (vregAddr u ((oAddr o + e / 128) * 128 + e % 128))) then 0 else vregGet x (oAddr o + e / 128) (e % 128)
  | 3 => if bad (eccWord (vregAddr u (oAddr o * 128 + i))) then 0 else vregGet x (oAddr o) i
  | 4 => if bad (eccWord (vregAddr u (oAddr o * 128 + j))) then 0 else vregGet x (oAddr o) j
  | 5 => readPacked s (oFmt o) (flatAddr u (spaceOf (oAddr o)) (offOf (oAddr o) + i * oStride o)) j
  | 6 => readPacked s (oFmt o) (flatAddr u (spaceOf (oAddr o)) (offOf (oAddr o) + j * oStride o)) i
  | 7 => vImm d
  | _ => 0

/-- Write the code of element `e` of an m × n destination (R95, R132). -/
def writeElem (s : State) (u : Nat) (o m n : Nat) (c : Nat × Nat) : State :=
  let e := c.1
  match oKind o with
  | 1 =>
    let s := setCore s u (tileSet (coreAt s u) (oAddr o) (64 * (e / n) + e % n) c.2)
    { s with ecc := s.ecc.filter (fun p => p.1 != tileAddr u (tileKey (oAddr o) (64 * (e / n) + e % n))) }
  | 2 =>
    let s := setCore s u (vregSet (coreAt s u) (oAddr o + e / 128) (e % 128) c.2)
    { s with ecc := s.ecc.filter (fun p => p.1 != eccWord (vregAddr u (oAddr o * 128 + e))) }
  | 5 => writePacked s (oFmt o) (flatAddr u 0 (offOf (oAddr o) + e / n * oStride o)) n (e % n) c.2
  | 6 => writePacked s (oFmt o) (flatAddr u 0 (offOf (oAddr o) + e % n * oStride o)) m (e / n) c.2
  | _ => s

/-- A TILE destination whose elements are written takes its tag; unless the tag was EMPTY or the same, every element outside the m × n
region is set to zero (R140). -/
def tagDest (s : State) (u : Nat) (o xb m n : Nat) : State :=
  if oKind o ≠ 1 then s
  else
    let x := coreAt s u
    let t := oAddr o
    let new := mkTag (oFmt o == 10) xb
    let inside := fun (k : Nat) => decide (k % 8192 / 64 < m ∧ k % 64 < n)
    if tagOf x.tag t = 0 ∨ tagOf x.tag t = new then setCore s u { x with tag := kset x.tag t new }
    else
      let s := setCore s u { x with tag := kset x.tag t new, tile := x.tile.filter (fun e => e.1 / 8192 != t || inside e.1) }
      { s with ecc := s.ecc.filter (fun p => !(decide (tileAddr u (tileKey t 0) ≤ p.1 ∧ p.1 < tileAddr u (tileKey (t + 1) 0)) &&
                                              !inside ((p.1 - tileAddr u 0) / 16))) }

/-! ### Mover fields (R313, R325, R327, R396) -/

def mSSP (d : BitVec 512) : Nat := fld d 296 4
def mDSP (d : BitVec 512) : Nat := fld d 340 4

/-- SEND or SENDX. -/
def isSend (d : BitVec 512) : Bool := dOpc d == 0x33 || dOpc d == 0x34

/-- The interleave period of a space (R294, R327). -/
def interleave (sp : Nat) : Nat := match sp with | 2 => 1024 | 3 => 4096 | _ => 512

/-- The step g (R325). -/
def moveStep (d : BitVec 512) : Nat :=
  let gatherHbm := dOpc d == 0x31 && mSSP d == 3 && fld d 344 24 % interleave (mSSP d) != 0
  let scatterHbm := dOpc d == 0x32 && mDSP d == 3 && fld d 368 24 % interleave (mDSP d) != 0
  if isSend d then 1 else if fld d 424 1 = 1 ∨ gatherHbm ∨ scatterHbm then 2 else 1

end Sys2Proof.Machine
end

