-- ==== Sys2Proof/Machine/Flags.lean ====
section
/-! DEFINITION. Sync counters: the counter adder, waits and signals (R205, R257 to R265); completion of descriptors and frames
(R207, R213, R239); the slip categories (R235); and the handling of storage errors by a reading engine (R332). -/

namespace Sys2Proof.Machine

/-! ### The counter adder (R262, R263) -/

/-- Of the increments in their order, the first four of each counter and the rest. -/
def takeFour : List AddInc → List Nat → List AddInc × List AddInc
  | [], _ => ([], [])
  | a :: r, seen =>
    if (seen.filter (fun c => c == a.ctr)).length < 4 then
      ((a :: (takeFour r (a.ctr :: seen)).1), (takeFour r (a.ctr :: seen)).2)
    else ((takeFour r seen).1, a :: (takeFour r seen).2)

/-- Insert an increment behind those of sources that come before or equal its own. -/
def insAdd : List AddInc → AddInc → List AddInc
  | [], a => [a]
  | b :: r, a => if a.src < b.src then a :: b :: r else b :: insAdd r a

/-- The sum of the increments of one counter. -/
def sumInc (l : List AddInc) (ctr : Nat) : Nat := ((l.filter (fun a => a.ctr == ctr)).map AddInc.inc).foldl (· + ·) 0

/-- A counter as a wait sees it in the adder's present cycle (R205, R257, R262). -/
def scAt (x : CoreSt) (ctr : Nat) : BitVec 32 :=
  (kget x.sc ctr).getD 0 + BitVec.ofNat 32 (sumInc (takeFour (x.addCarry ++ x.addNow) []).1 ctr)

/-- One increment is added to a counter, modulo 2^32. -/
def addOne (x : CoreSt) (a : AddInc) : CoreSt :=
  { x with sc := kput 0 x.sc a.ctr ((kget x.sc a.ctr).getD 0 + BitVec.ofNat 32 a.inc) }

/-- SYNC_PORTS: five or more increments reached one counter in one cycle (R263). -/
def portsFault (s : State) (u cyc : Nat) (l : List AddInc) : State :=
  (List.range 64).foldl (fun t c =>
    let n := (l.filter (fun a => a.ctr == c)).length
    if n < 5 then t
    else capture t { coreRec t u 0 0x0204 (leBytes 1 c ++ leBytes 1 n ++ leBytes 2 (cyc - t.edge)) with cycle := cyc - t.edge }) s

/-- The adder's present cycle ends: four increments per counter are in, the rest are carried into the next cycle. -/
def closeCycle (s : State) (u : Nat) : State :=
  let x := coreAt s u
  let r := takeFour (x.addCarry ++ x.addNow) []
  let y := r.1.foldl addOne x
  let s := setCore s u { y with addCarry := r.2, addNow := [], addCyc := x.addCyc + 1 }
  if x.addNow.length < 5 then s else portsFault s u x.addCyc x.addNow

/-- Close up to `n` cycles. -/
def closeCycles (s : State) (u c : Nat) : Nat → State
  | 0 => s
  | n + 1 =>
    let x := coreAt s u
    if x.addCyc < c ∧ ¬(x.addCarry.isEmpty ∧ x.addNow.isEmpty) then closeCycles (closeCycle s u) u c n else s

/-- Bring a core's adder to absolute cycle `c`. -/
def adderTo (s : State) (u c : Nat) : State :=
  let x := coreAt s u
  let s := closeCycles s u c (x.addCarry.length + x.addNow.length + 1)
  setCore s u { coreAt s u with addCyc := max (coreAt s u).addCyc c }

/-- A source delivers an increment in the adder's present cycle. Sources in the order of R263: 1 arrival port, 2 canopy port,
3 sync engine, 4 mover, 5 MXE, 6 VXE, 7 stream unit. -/
def deliver (s : State) (u src ctr inc : Nat) : State :=
  let x := coreAt s u
  setCore s u { x with addNow := insAdd x.addNow { ctr := ctr, src := src, inc := inc } }

/-! ### Waits (R205) -/

/-- The signed test of R205. -/
def waitTest (v : BitVec 32) (tgt : Nat) : Bool := decide (0 ≤ (v - BitVec.ofNat 32 tgt).toInt)

/-- Whether a descriptor's wait holds. -/
def waitHolds (x : CoreSt) (d : BitVec 512) : Bool := !dWV d || waitTest (scAt x (dWid d)) (dWtgt d)

/-- ISSUE does not hold the descriptor back: its cycle counts from the edge of the beat in which it was dispatched (R206, R242). -/
def issueOk (s : State) (q : QDesc) : Bool := dIssue q.raw == 0xFFFF || decide (q.due ≤ absNow s)

/-! ### Completion (R207, R213, R239) -/

/-- A descriptor completes in absolute cycle `t`. -/
def completeAt (s : State) (u cnt t : Nat) : State :=
  let x := coreAt s u
  setCore s u { x with outst := x.outst.filter (fun o => o.cnt != cnt),
                       finish := some (max (x.finish.getD 0) (t - s.edge)),
                       calls := x.calls.map (fun r => if r.lastCnt = cnt ∧ r.done = none then { r with done := some t } else r) }

/-- A descriptor applies its signal, if it has one, in the adder's present cycle, and completes. -/
def signalDone (s : State) (u src : Nat) (d : QDesc) : State :=
  let s := if dSV d.raw then deliver s u src (dSid d.raw) (dSinc d.raw) else s
  completeAt s u d.cnt (coreAt s u).addCyc

/-- Insert by signal cycle. -/
def insRun : List (Nat × Owed) → Nat × Owed → List (Nat × Owed)
  | [], a => [a]
  | b :: r, a => if a.2.fin < b.2.fin then a :: b :: r else b :: insRun r a

/-- Apply the signals that the sync engine and the stream unit owe up to absolute cycle `c` (R204, R269, R271, R282), and bring the
core's adder to that cycle. -/
def settle (s : State) (u c : Nat) : State :=
  let x := coreAt s u
  let due : List (Nat × Owed) := ((x.yrun.map (fun r => (3, r))) ++ (x.srun.map (fun r => (7, r)))).filter (fun r => decide (r.2.fin ≤ c))
  let s := setCore s u { x with yrun := x.yrun.filter (fun r => decide (c < r.fin)),
                                srun := x.srun.filter (fun r => decide (c < r.fin)) }
  let s := (due.foldl insRun []).foldl (fun t r => signalDone (adderTo t u r.2.fin) u r.1 r.2.d) s
  adderTo s u c

/-! ### Stretched and throttled cycles (R236, R237, R446, R529) -/

/-- The clock region of a link, numbered over the package: LNK(16d + 4r) to LNK(16d + 4r + 3) lie in region r of die d (R444). -/
def linkRegion (l : Nat) : Nat := 4 * (l / 16) + l % 16 / 4

/-- The present cycle is stretched for a clock region: nothing in it does work (R236). -/
def regionStill (s : State) (g : Nat) : Bool := ((kget s.stretchNow g).getD []).contains (absNow s)

/-- Throttled cycles of the present beat up to cycle `c`: cycle j falls at floor(j × 2^k / T). -/
def throttleCount (s : State) (c : Nat) : Nat := min (rg s 0x5008 5) (ceilDiv ((c + 1) * rg s 0x5008 5) (beatLen s))

/-- The absolute cycle of throttled cycle `j`. -/
def throttleAt (s : State) (j : Nat) : Nat := s.edge + j * beatLen s / rg s 0x5008 5

/-- A field that holds cycle `t` or a later one moves on by one. -/
def later (t v : Nat) : Nat := if t ≤ v then v + 1 else v

def Owed.shift (t : Nat) (r : Owed) : Owed := { r with fin := later t r.fin }

def Landing.shift (t : Nat) (r : Landing) : Landing := { r with due := later t r.due }

/-- A bound that work waits for moves on by one while cycle `t` lies before it. -/
def delayed (t v : Nat) : Nat := if t < v then v + 1 else v

/-- A mover descriptor in progress: its writes, and the units that are still to come. -/
def MoveRun.shift (t : Nat) (m : MoveRun) : MoveRun :=
  { m with lastWr := later t m.lastWr, start := if t < m.start + 4 then m.start + 1 else m.start,
           lastQ := if t < m.lastQ + moveStep m.d.raw ∧ ¬(m.row = 0 ∧ m.unit = 0) then m.lastQ + 1 else m.lastQ }

/-- A core does no work in absolute cycle `t`: what would have happened in it happens one cycle later (R236). What the MXE and the VXE have
in progress stands still by itself, since a still cycle does not pass for it. -/
def shiftCore (x : CoreSt) (t : Nat) : CoreSt :=
  { x with yrun := x.yrun.map (Owed.shift t), srun := x.srun.map (Owed.shift t), lands := x.lands.map (Landing.shift t),
           drun := x.drun.map (MoveRun.shift t), packets := x.packets.map (fun k => (later t k.1, k.2)),
           pq := x.pq.map (fun (i : PItem) => { i with ready := delayed t i.ready }),
           idleTill := delayed t x.idleTill, nextFetch := delayed t x.nextFetch }

/-- Let a core meet the throttled cycles up to the present one (R237, R529). -/
def meetThrottle (s : State) (u : Nat) : State :=
  if rg s 0x5008 5 = 0 ∨ planState s (partOf s u) ≠ 3 then s
  else
    let x := coreAt s u
    let n := throttleCount s s.cyc
    let y := (List.range (n - x.stretch)).foldl (fun y i => shiftCore y (throttleAt s (x.stretch + i))) x
    setCore s u { y with stretch := max x.stretch n }

/-- Whether the present cycle is stretched for the core's region or throttled. -/
def stillNow (s : State) (u : Nat) : Bool :=
  regionStill s (regionOf u) ||
    (rg s 0x5008 5 != 0 && throttleCount s s.cyc != (if s.cyc = 0 then 0 else throttleCount s (s.cyc - 1)))

/-- A core's engines, stream unit and ports work in the present cycle: its partition runs, and the cycle is neither stretched nor
throttled. -/
def coreWorks (s : State) (u : Nat) : Bool := planState s (partOf s u) == 3 && !stillNow s u

/-! ### Slip (R235, R238) -/

/-- Cycles of [a, b) that were neither stretched nor throttled for the core. -/
def lateCycles (s : State) (u a b : Nat) : Nat :=
  let thr := fun (c : Nat) => if c ≤ s.edge then 0 else throttleCount s (c - s.edge - 1)
  (b - a) - (((kget s.stretchNow (regionOf u)).getD []).filter (fun t => decide (a ≤ t ∧ t < b ∧ thr (t + 1) = thr t))).length -
    (thr b - thr a)

/-- Slip categories: SLIP_QUEUE, SLIP_WAIT, SLIP_PIPE, VXE_HAZARD_SLIP, MXE_TILE_SLIP, SLIP_BANK, SLIP_TRAP. -/
def bumpSlip (s : State) (u : Nat) (cat n : Nat) : State :=
  let d := dieOf u
  match cat with
  | 0 => bump s (0x7858 + d) 1 8 0 n
  | 1 => bump s (0x7858 + d) 2 8 1 n
  | 2 => bump s (0x7858 + d) 3 8 2 n
  | 3 => bump s (0x7848 + d) 4 6 3 n
  | 4 => bump s (0x7840 + d) 4 6 3 n
  | 5 => bump s (0x7858 + d) 4 8 3 n
  | _ => bump s (0x7858 + d) 5 8 4 n

/-- A descriptor that is dispatched now: its issue cycle of this beat, and the cycles since then, which count as SLIP_QUEUE when it starts
(R235). -/
def dispatched (s : State) (u : Nat) (q : QDesc) : QDesc :=
  let i := s.edge + dIssue q.raw
  { q with disp := absNow s, due := i, lateQ := if dIssue q.raw = 0xFFFF then 0 else lateCycles s u i (absNow s), lateW := 0, lateP := 0,
           lateT := 0 }

/-- What holds a queued descriptor back in a cycle: it is not at the head, its wait does not hold, condition 4 or 5 of R111 or R164, or the
tile ownership rule; `free` when nothing does. -/
inductive Held where
  | behind | wait | pipe | tile | free
  deriving DecidableEq, Repr

/-- A cycle at or after its issue cycle passes for a descriptor that has not started (R235). -/
def QDesc.lateBy (now : Nat) (q : QDesc) (h : Held) : QDesc :=
  if dIssue q.raw = 0xFFFF ∨ now < q.due then q
  else match h with
    | .behind => { q with lateQ := q.lateQ + 1 }
    | .wait => { q with lateW := q.lateW + 1 }
    | .pipe => { q with lateP := q.lateP + 1 }
    | .tile => { q with lateT := q.lateT + 1 }
    | .free => q

/-- A descriptor starts now: its slip is counted, what a pipe or hazard condition caused in category `pcat` (R112, R165, R235). -/
def countSlip (s : State) (u : Nat) (q : QDesc) (pcat : Nat) : State :=
  bumpSlip (bumpSlip (bumpSlip (bumpSlip s u 0 q.lateQ) u 1 q.lateW) u pcat q.lateP) u 4 q.lateT

/-! ### Storage errors met by a reader (R118, R169, R330 to R332) -/

/-- The space that a byte store address lies in: 0 CM, 1 operand cache, 2 KM, 3 HBM, 4 LM, 5 tile, 6 vector register. -/
def spaceAt (a : Nat) : Nat :=
  if a < cmBase then 3 else if a < ocBase then 0 else if a < kmBase then 1 else if a < lmBase then 2
  else if a < tileBase then 4 else if a < vregBase then 5 else 6

/-- The die that holds a byte store address. -/
def dieAt (a : Nat) : Nat :=
  match spaceAt a with
  | 3 => a / dieHbm
  | 0 => (a - cmBase) / 2 ^ 22 / 192
  | 1 => (a - ocBase) / 2 ^ 16 / 192
  | 2 => (a - kmBase) / 2 ^ 24 / 12
  | 4 => (a - lmBase) / 2 ^ 20 / 12
  | 5 => (a - tileBase) / 2 ^ 20 / 192
  | _ => (a - vregBase) / 2 ^ 14 / 192

/-- The HBM channel of an address, or 0xFF outside HBM: 64-byte lines over the 64 channels of a die (R298). -/
def channelAt (a : Nat) : Nat := if spaceAt a = 3 then a % dieHbm / 64 % 64 else 0xFF

/-- The address of a byte within its space as a detail shows it. -/
def localAddr (a : Nat) : Nat :=
  match spaceAt a with
  | 3 => a
  | 0 => (a - cmBase) % 2 ^ 22
  | 1 => (a - ocBase) % 2 ^ 16
  | 2 => (a - kmBase) / 2 ^ 24 / 12 * 2 ^ 28 + (a - kmBase) / 2 ^ 24 % 12 * 2 ^ 24 + (a - kmBase) % 2 ^ 24
  | _ => (a - lmBase) % 2 ^ 20

/-- Count a corrected error (R331, R337, R102, R128). -/
def bumpCorr (s : State) (a : Nat) : State :=
  let d := dieAt a
  match spaceAt a with
  | 0 => bump s (0x4010 + d) 1 12 0 1
  | 1 => bump s (0x4010 + d) 2 12 1 1
  | 2 => bump s (0x4010 + d) 3 12 2 1
  | 3 => bumpTab (bump s (0x4010 + d) 5 12 4 1) (0x4010 + d) 11 (channelAt a) 12 10 1
  | 4 => bump s (0x4010 + d) 4 12 3 1
  | 5 => bump s (0x7840 + d) 5 6 4 1
  | _ => bump s (0x7848 + d) 5 6 4 1

/-- Log an uncorrectable error met by a descriptor: SRAM_UE, HBM_UE or REG_UE (R332, R118, R169, log entry 20). -/
def errorRec (s : State) (u eng : Nat) (a cnt tag extra : Nat) : State :=
  if 5 ≤ spaceAt a then
    capture s (coreRec s u eng 0x0304 (leBytes 6 cnt ++ leBytes 2 tag ++ leBytes 3 extra))
  else
    capture s (coreRec s u eng (if spaceAt a = 3 then 0x0302 else 0x0301)
      (leBytes 1 (spaceAt a) ++ leBytes 5 (localAddr a) ++ leBytes 1 (channelAt a) ++ leBytes 6 cnt ++ leBytes 2 tag ++
        leBytes 3 extra))

/-- Errors met in a range when no descriptor is reading (R331, R332): a correctable one is counted, an uncorrectable one logged at the
die that holds the word. -/
def bareErrors (s : State) (a n : Nat) : State :=
  (eccIn s a n).foldl (fun t e =>
    if e.2 = 2 then capture t (mkRec t 3 (if spaceAt e.1 = 3 then 0x0302 else 0x0301) (dieAt e.1 * 256)
      (leBytes 1 (spaceAt e.1) ++ leBytes 5 (localAddr e.1) ++ leBytes 1 (channelAt e.1) ++ leBytes 8 0) (2 ^ dieAt e.1))
    else bumpCorr t e.1) s

/-- A reader meets the errors of a range: a correctable one is counted, an uncorrectable one logged. -/
def readErrors (s : State) (u eng a n cnt tag extra : Nat) : State :=
  (eccIn s a n).foldl (fun t e => if e.2 = 2 then errorRec t u eng e.1 cnt tag extra else bumpCorr t e.1) s

end Sys2Proof.Machine
end

