-- ==== Sys2Proof/Machine/Banks.lean ====
section
/-! DEFINITION. Banks and their ports (R294, R295), the order of accesses that meet (R30), and the lists that a stream unit fetches (R182,
R183, R202). -/

namespace Sys2Proof.Machine

/-! ### Banks (R294) -/

/-- The bytes that one access takes at most of a bank: a granule of CM, a line of the others; 0 outside the banked memories. -/
def portGrain (a : Nat) : Nat := match spaceAt a with | 0 => 32 | 1 => 128 | 2 => 64 | 4 => 64 | _ => 0

/-- The bank of a byte store address, numbered over the module: CM and operand cache by core, KM and LM by cluster from 2^20. -/
def bankKey (a : Nat) : Nat :=
  match spaceAt a with
  | 0 => (a - cmBase) / 2 ^ 22 * 32 + (a - cmBase) % 2 ^ 22 / 32 % 16
  | 1 => (a - ocBase) / 2 ^ 16 * 32 + 16 + (a - ocBase) % 2 ^ 16 / 128 % 4
  | 2 => 2 ^ 20 + (a - kmBase) / 2 ^ 24 * 32 + (a - kmBase) % 2 ^ 24 / 64 % 16
  | _ => 2 ^ 20 + (a - lmBase) / 2 ^ 20 * 32 + 16 + (a - lmBase) % 2 ^ 20 / 64 % 8

/-- Bytes per cycle of a bank's port: three granules of CM, a line of the others. -/
def portWidth (key : Nat) : Nat := if 2 ^ 20 ≤ key then 64 else if key % 32 < 16 then 96 else 128

/-- The granules or lines that a range of bytes touches, with the bytes of their port that it takes: a granule of CM is taken whole. -/
def portPieces (a n : Nat) : List (Nat × Nat) :=
  let g := portGrain a
  if g = 0 ∨ n = 0 then []
  else (List.range ((a + n - 1) / g - a / g + 1)).map (fun i =>
    let l := g * (a / g + i)
    (l, if g = 32 then 32 else min (l + g) (a + n) - max l a))

/-- The accesses of an operand to its ranges of bytes in one cycle, by bank: what falls into one granule or line is one access, of at most its
width. -/
def accessesOf (l : List (Nat × Nat)) : List (Nat × Nat) :=
  (((l.map (fun k => portPieces k.1 k.2)).flatten.foldl (fun (m : KMap Nat) k =>
    kset m k.1 (min (portGrain k.1) ((kget m k.1).getD 0 + k.2))) []).map (fun k => (bankKey k.1, k.2)))

/-- The accesses of one range of bytes. -/
def accesses (a n : Nat) : List (Nat × Nat) := accessesOf [(a, n)]

/-! ### Serving (R30, R295) -/

/-- Serve accesses in order while their ports have room: the bytes served and the accesses that wait. -/
def serve (use : KMap Nat) (l : List (Nat × Nat)) : KMap Nat × List (Nat × Nat) :=
  l.foldl (fun r k =>
    let n := (kget r.1 k.1).getD 0 + k.2
    if n ≤ portWidth k.1 then (kset r.1 k.1 n, r.2) else (r.1, r.2 ++ [k])) (use, [])

/-- Insert behind accesses that began earlier or in the same cycle. -/
def insBegan : List (Nat × List (Nat × Nat)) → Nat × List (Nat × Nat) → List (Nat × List (Nat × Nat))
  | [], a => [a]
  | b :: r, a => if a.1 < b.1 then a :: b :: r else b :: insBegan r a

/-- The accesses of a core's engines that wait from an earlier cycle, which come first (R30): earliest first, the MXE before the VXE. -/
def waitingOf (x : CoreSt) : List (Nat × List (Nat × Nat)) :=
  ((x.mrun.map (fun r => (r.began, r.todo)) ++ x.vrun.map (fun r => (r.began, r.todo))).filter (fun w => !w.2.isEmpty)).foldl insBegan []

/-- What a core's engines have waiting that an access goes behind which began in cycle `b` at port `rank` of R30 (0 mover, 1 MXE, 2 VXE,
3 stream unit, 4 a packet, which R30 does not place: log entry 30). -/
def enginesAhead (x : CoreSt) (b rank : Nat) : List (Nat × List (Nat × Nat)) :=
  (waitingOf x).filter (fun w => decide (w.1 < b) || (w.1 == b && decide (2 < rank)))

/-- A mover or a stream unit is served. -/
def useBanks (s : State) (l : List (Nat × Nat)) : State :=
  { s with bankUse := l.foldl (fun m k => kset m k.1 ((kget m k.1).getD 0 + k.2)) s.bankUse }

/-! ### Lists (R182, R183) -/

/-- The byte store address of a core's entry for the current segment (R182). -/
def segEntryAddr (s : State) (u : Nat) : Nat :=
  let p := partOf s u
  let off := (kget (partAt s p).coreseg (clusterOf u)).getD 0
  kmAddr (clusterOf u) (off + 8 * (rg s (0x2120 + p) 7 * 16 + u % 16))

/-- The core segment entry of a core in the current segment (R182). -/
def segEntry (s : State) (u : Nat) : Nat := leNat (peek s (segEntryAddr s u) 8)

def listLen (s : State) (u : Nat) : Nat := bits (segEntry s u) 40 24
def listInKM (s : State) (u : Nat) : Bool := bit (segEntry s u) 0

/-- The byte store address of the beat table of a core's segment. -/
def tableAddr (s : State) (u : Nat) : Nat :=
  if listInKM s u then kmAddr (clusterOf u) (bits (segEntry s u) 16 24) else cmAddr u (bits (segEntry s u) 16 24)

/-- BEATS and REPEAT of the current segment (R180). -/
def segShape (s : State) (p : Nat) : Nat × Nat := (partAt s p).segs.getD (rg s (0x2120 + p) 7) (1, 1)

/-- The byte store address of descriptor `i` of the list (R183). -/
def listDesc (s : State) (u i : Nat) : Nat :=
  tableAddr s u + ceilDiv (4 * (segShape s (partOf s u)).1) 64 * 64 + 64 * i

/-- A core takes and fetches descriptors: its partition runs, the plan has beats left, and no check has failed (R184, R186, R242,
R244). -/
def coreRuns (s : State) (u : Nat) : Bool :=
  coreWorks s u && !(partAt s (partOf s u)).ended && !(coreAt s u).stopped

/-- The position of the next fetch: a list that has reached its end starts its next repeat. -/
def nextPos (reps : Nat) (l : List FetchPos) : Option (FetchPos × List FetchPos) :=
  match l with
  | [] => none
  | p :: r =>
    if p.lm then some (p, r)
    else if p.next < p.stop then some (p, r)
    else if p.rep + 1 < reps ∧ 0 < p.stop then some ({ p with rep := p.rep + 1, next := 0 }, r)
    else none

/-- The bytes of the next fetch, if there is one. -/
def fetchAddr (s : State) (u : Nat) : Option Nat :=
  (nextPos (segShape s (partOf s u)).2 (coreAt s u).fetch).map (fun r =>
    if r.1.lm then lmAddr (clusterOf u) (64 * r.1.next) else listDesc s u r.1.next)

/-- The stream unit has a fetch to make, begun in its `nextFetch` or later: there is room in the prefetch queue and the fetch before is over
(R202). -/
def fetchWants (s : State) (u : Nat) : Bool :=
  coreRuns s u && decide ((coreAt s u).pq.length < 256 ∧ (coreAt s u).nextFetch ≤ absNow s)

end Sys2Proof.Machine
end

