-- ==== Sys2Proof/Machine/Check.lean ====
section
/-! DEFINITION. The check of a descriptor at dispatch (R208): parameter expansion (R214), the illegal codes of every opcode (R106,
R166, R274, R277, R324, R399, R501), and the choice of a packet's first link (R391). -/

namespace Sys2Proof.Machine

/-! ### Routing (R388 to R392) -/

/-- The members of a bundle: of the links that BUNDLES names those of the partition itself, ascending (R385, R387). -/
def bundleLinks (s : State) (p dirn : Nat) : List Nat :=
  (partLinks s p).filter (fun n => bit (rtab s (0x3410 + p) 1 8 dirn) n)

/-- A member can be used: UP or HOLD, and its mode may carry the class (R373, R391). -/
def memberOk (s : State) (cls : TClass) (l : Nat) : Bool :=
  (linkState s l == 3 || linkState s l == 4) && (rg s (0x3000 + 16 * l) 2 == 0 || cls != .canopy)

/-- The first usable member from a starting position, in cyclic order. -/
def pickMember (s : State) (cls : TClass) (b : List Nat) (start : Nat) : Option Nat :=
  let k := start % b.length
  (b.drop k ++ b.take k).find? (memberOk s cls)

/-- The choice of R391 from dimension `dim` on: none to refuse, some none to deliver here, some (some l) to send on l. -/
def routeFrom (s : State) (p dest start : Nat) (cls : TClass) : List Nat → Option (Option Nat)
  | [] => some none
  | dim :: r =>
    let dir := rtab s (0x3410 + p) (2 + dim) 1 (bits dest (6 * dim) 6)
    if dir = 0 then routeFrom s p dest start cls r
    else if dir = 3 then none
    else
      let b := bundleLinks s p (2 * dim + dir - 1)
      if b.isEmpty then none else (pickMember s cls b start).map some

def route (s : State) (p dest start : Nat) (cls : TClass) : Option (Option Nat) := routeFrom s p dest start cls [0, 1, 2, 3]

/-- The rank table element of a rank in a partition's window (R397, R415). -/
def rankEntry (s : State) (p r : Nat) : Nat :=
  let q := rg s (0x3410 + p) 6 + r
  rtab s (0x3800 + q / 256) 1 4 (q % 256)

/-- The package's own coordinate with its valid bit (R413). -/
def myCoord (s : State) : Nat := rg s 0x3400 1

/-! ### Parameter expansion (R214) -/

/-- A shape field after substitution of an argument, and whether the argument is too wide. -/
def substShape (f : Frame) (v : Nat) : Nat × Bool :=
  if v < 0xFFFFFA then (v, false)
  else let a := f.args.getD (v - 0xFFFFFA) 0; (a % 2 ^ 24, decide (2 ^ 24 ≤ a))

/-- Add a frame's base to a 24-bit address field; true when the sum overflows. -/
def substAddr (f : Frame) (d : BitVec 512) (lo : Nat) : BitVec 512 × Bool :=
  let a := fld d lo 24
  let n := offOf a + (if spaceOf a = 0 then f.baseCM else f.baseOC)
  (setFld d lo 23 n, decide (2 ^ 23 ≤ n))

/-- Add a frame's base to a 40-bit address field whose space field names CM or the operand cache. -/
def substWide (f : Frame) (d : BitVec 512) (lo sp : Nat) : BitVec 512 × Bool :=
  if fld d sp 4 = 0 ∨ fld d sp 4 = 1 then
    let n := fld d lo 40 + (if fld d sp 4 = 0 then f.baseCM else f.baseOC)
    (setFld d lo 40 n, decide (2 ^ 23 ≤ n))
  else (d, false)

/-- Run substitutions in turn. -/
def substAll (d : BitVec 512) : List (BitVec 512 → BitVec 512 × Bool) → BitVec 512 × Bool
  | [] => (d, false)
  | g :: r => let x := g d; let y := substAll x.1 r; (y.1, x.2 || y.2)

/-- The address fields in use of a descriptor that does work (R214, R323). -/
def substAddrs (f : Frame) (d : BitVec 512) : BitVec 512 × Bool :=
  let mem := fun (lo : Nat) (d : BitVec 512) => if isMem (fld d lo 48) then substAddr f d (lo + 16) else (d, false)
  match dOpc d with
  | 0x10 => substAll d [fun d => substAddr f d 256, fun d => substAddr f d 280,
      fun d => if fld d 400 1 = 1 then substAddr f d 336 else (d, false),
      fun d => if fld d 401 1 = 1 then substAddr f d 360 else (d, false)]
  | 0x20 => substAll d [mem 256, mem 304, mem 352, mem 400]
  | 0x30 => substAll d [fun d => substWide f d 256 296, fun d => substWide f d 300 340]
  | 0x31 => substAll d [fun d => substWide f d 256 296, fun d => substWide f d 300 340, fun d => substAddr f d 400]
  | 0x32 => substAll d [fun d => substWide f d 256 296, fun d => substWide f d 300 340, fun d => substAddr f d 400]
  | 0x33 => substAll d [fun d => substWide f d 256 296, fun d => substWide f d 300 340]
  | 0x34 => substAll d [fun d => substWide f d 256 296, fun d => substWide f d 300 340]
  | 1 =>
    let cm := fld d 272 24 + f.baseCM
    let oc := fld d 296 24 + f.baseOC
    (setFld (setFld d 272 24 cm) 296 24 oc, decide (2 ^ 23 ≤ cm) || decide (2 ^ 23 ≤ oc))
  | _ => (d, false)

/-- The values a descriptor from LM is run with, and the codes that its expansion meets: RESERVED, ISSUE_RANGE, EXTENT. With k = 16 a sum of
65,535 is in range and is stored as 0xFFFF, so the descriptor runs as soon as its conditions hold: R214 does not say (DESIGN CHOICE, log
entry 47). -/
def expand (k : Nat) (f : Frame) (d : BitVec 512) : BitVec 512 × Bool × Bool × Bool :=
  let range := dIssue d != 0xFFFF && decide (2 ^ k ≤ f.issueBase + dIssue d)
  let d := if dIssue d = 0xFFFF ∨ range then d else setFld d 32 16 (f.issueBase + dIssue d)
  let d := if dWV d && decide (56 ≤ dWid d) then setFld d 64 32 (f.snaps.getD (dWid d - 56) 0 + dWtgt d) else d
  if dPX d then
    let m := substShape f (dM d)
    let n := substShape f (dN d)
    let kk := substShape f (dK d)
    let ct := substShape f (dCount d)
    let d := setFld (setFld (setFld (setFld d 128 24 m.1) 152 24 n.1) 176 24 kk.1) 200 24 ct.1
    let wide := m.2 || n.2 || kk.2 || ct.2
    let r := if isNoop d then (d, false) else substAddrs f d
    (r.1, wide, range, r.2)
  else (d, false, range, false)

/-! ### MM (R106, R107) -/

/-- A wide operand format. -/
def isWide (f : Nat) : Bool := decide (f ≤ 2)

/-- FA and FB form a wide pair (R36). -/
def widePair (d : BitVec 512) : Bool := fld d 384 4 == fld d 388 4 && isWide (fld d 384 4)

/-- FA and FB form a narrow pair. -/
def narrowPair (d : BitVec 512) : Bool := isNarrow (fld d 384 4) && isNarrow (fld d 388 4)

/-- The four operand extents of an MM (R89 to R92). -/
def mmExtents (d : BitVec 512) : List (Nat × Nat) :=
  let k := dK d
  [(fld d 256 24, (k - 1) * fld d 304 16 + packSize (fld d 384 4) (dM d)),
   (fld d 280 24, (k - 1) * fld d 320 16 + packSize (fld d 388 4) (dN d))] ++
  (if fld d 400 1 = 1 then [(fld d 336 24, ceilDiv k 32 * 128)] else []) ++
  (if fld d 401 1 = 1 then [(fld d 360 24, ceilDiv k 32 * 64)] else [])

def mmCodes (s : State) (u : Nat) (d : BitVec 512) : List (Nat × Bool) :=
  let x := coreAt s u
  let fa := fld d 384 4
  let fb := fld d 388 4
  let fc := fld d 392 4
  let sca := fld d 400 1 == 1
  let scb := fld d 401 1 == 1
  let work := !isNoop d
  [(0x03, fld d 399 1 != 0 || fld d 402 4 != 0 || fld d 416 96 != 0 || (!sca && fld d 336 24 != 0) ||
      (!scb && fld d 360 24 != 0) || (widePair d && fld d 406 10 != 0)),
   (0x05, decide (11 ≤ fa ∨ 11 ≤ fb ∨ 9 = fc ∨ 11 ≤ fc)),
   (0x06, !((narrowPair d && fc == 10) || (widePair d && fc == 0))),
   (0x07, (sca && isWide fa) || (scb && isWide fb)),
   (0x0A, decide (128 < dM d ∨ 64 < dN d ∨ 1 < dCount d)),
   (0x0C, fld d 256 24 % 32 != 0 || fld d 280 24 % 32 != 0 || fld d 304 16 % 32 != 0 || fld d 320 16 % 32 != 0 ||
      decide (fld d 304 16 < packSize fa (dM d) ∨ fld d 320 16 < packSize fb (dN d)) ||
      (sca && fld d 336 24 % 32 != 0) || (scb && fld d 360 24 % 32 != 0)),
   (0x0D, work && (mmExtents d).any (fun e => !mayRead x.regions (spaceOf e.1) (offOf e.1) e.2)),
   (0x0E, work && fld d 398 1 == 1 && tagOf x.dtag (fld d 396 2) != mkTag (fc == 10) (fld d 406 10))]

/-! ### VX (R166, R167) -/

/-- Source positions that a VOP uses: S2 and S3 (R142). -/
def usesS2 (v : Nat) : Bool := v ∈ [0, 1, 2, 3, 4, 5, 6, 8, 10, 16, 24, 25]
def usesS3 (v : Nat) : Bool := v ∈ [2, 6]
def isVop (v : Nat) : Bool := decide (v ≤ 12) || v ∈ [16, 17, 24, 25]

/-- Whether S2 is the scale array of QNT or DQS, or the table of LUT. -/
def s2Fixed (v : Nat) : Bool := v ∈ [8, 24, 25]

def isReal (f : Nat) : Bool := decide (f ≤ 8)
def realOrX (f : Nat) : Bool := isReal f || f == 10

/-- The sources that are read element by element. -/
def vSources (d : BitVec 512) : List Nat :=
  [vS1 d] ++ (if usesS2 (vOp d) && !s2Fixed (vOp d) then [vS2 d] else []) ++ (if usesS3 (vOp d) then [vS3 d] else [])

/-- The used operands. -/
def vUsed (d : BitVec 512) : List Nat := [vD d] ++ vSources d ++ (if s2Fixed (vOp d) then [vS2 d] else [])

/-- A field of a specifier that must be 0 is not (R131, R132). NG of S2 of a QNT, the scale array that is written, is accepted: the spec
neither refuses it nor gives it an effect (DESIGN CHOICE). -/
def specBad (o : Nat) (dest : Bool) : Bool :=
  match oKind o with
  | 0 => o % 2 ^ 45 != 0
  | 1 => (dest && oNG o) || oAddr o / 4 != 0 || oStride o != 0
  | 2 => (dest && oNG o) || oAddr o / 32 != 0 || oStride o != 0
  | 3 => (dest && oNG o) || oAddr o / 32 != 0 || oStride o != 0
  | 4 => (dest && oNG o) || oAddr o / 32 != 0 || oStride o != 0
  | 7 => (dest && oNG o) || oAddr o != 0 || oStride o != 0
  | _ => dest && oNG o

/-- The format rules of R135. -/
def kindFmt (o : Nat) : Bool :=
  match oKind o with
  | 1 => oFmt o == 0 || oFmt o == 10
  | 5 => realOrX (oFmt o)
  | 6 => realOrX (oFmt o)
  | _ => oFmt o == 0

/-- The format rules of R142. -/
def vopFmt (d : BitVec 512) : Bool :=
  let fs := (vSources d).map oFmt
  let f1 := oFmt (vS1 d)
  let fd := oFmt (vD d)
  match vOp d with
  | 7 => realOrX f1 && realOrX fd
  | 16 => fs.all (· == 10) && realOrX fd
  | 17 => f1 == 10 && isReal fd
  | 24 => realOrX f1 && isNarrow fd && isMem (vD d) && oKind (vS2 d) == 5 && oFmt (vS2 d) == 9
  | 25 => isNarrow f1 && isMem (vS1 d) && isReal fd && oKind (vS2 d) == 5 && oFmt (vS2 d) == 9
  | 8 => isReal f1 && isReal fd && oKind (vS2 d) == 5 && oFmt (vS2 d) == 0
  | _ => fs.all isReal && isReal fd

/-- BAD_OPERAND. -/
def vxOperandBad (d : BitVec 512) : Bool :=
  let v := vOp d
  let destKind := if isReduce v then oKind (vD d) == 2 || oKind (vD d) == 5 else oKind (vD d) ∈ [1, 2, 5, 6]
  !destKind || oKind (vS1 d) == 0 || (usesS2 v && oKind (vS2 d) == 0) || (usesS3 v && oKind (vS3 d) == 0) ||
    (!usesS2 v && oKind (vS2 d) != 0) || (!usesS3 v && oKind (vS3 d) != 0) ||
    !((([vD d] ++ vSources d)).all kindFmt) || !vopFmt d ||
    (isMem (vD d) && spaceOf (oAddr (vD d)) == 1) || (v == 24 && spaceOf (oAddr (vS2 d)) == 1) ||
    (v == 8 && vLMode d == 0 && bits (vImm d) 23 8 == 255)

/-- RESERVED (R130, R131). XB and IMM count as unused where the only XA128 or IMM operand stands in a position that the VOP does not use, or
the VOP is reserved: R131 does not say (DESIGN CHOICE, log entry 47). -/
def vxReserved (d : BitVec 512) : Bool :=
  let v := vOp d
  let anyX := (vUsed d).any (fun o => oKind o != 0 && oFmt o == 10)
  let immUsed := (vSources d).any (fun o => oKind o == 7) || (v == 8 && vLMode d == 0)
  fld d 509 3 != 0 || vCond d == 7 || (v != 5 && vCond d != 0) || (!(isReduce v || v == 24 || v == 25) && vAX d != 0) ||
    (v != 8 && (vLMode d != 0 || vLParam d != 0)) || (!anyX && vXB d != 0) || (!immUsed && vImm d != 0) ||
    specBad (vD d) true || specBad (vS1 d) false || specBad (vS2 d) false || specBad (vS3 d) false

/-- SHAPE_RANGE (R136). -/
def vxShapeBad (d : BitVec 512) : Bool :=
  let v := vOp d
  let has := fun (k : Nat) => ([vD d, vS1 d, vS2 d, vS3 d]).any (fun o => oKind o == k)
  (has 1 && decide (128 < dM d ∨ 64 < dN d)) || (has 3 && decide (128 < dM d)) || (has 4 && decide (128 < dN d)) ||
    (isReduce v && decide (128 < (if vAX d = 0 then dN d else dM d))) ||
    ((v == 24 || v == 25) && decide (if vAX d = 0 then 128 < dM d else 64 < dN d)) || decide (1 < dK d ∨ 1 < dCount d)

/-- ALIGN of an ordinary memory operand of an m × n descriptor: a STRIDE below N elements of a MEMR or M of a MEMC, or of 0 (R134). -/
def memAlignBad (o m n : Nat) : Bool :=
  isMem o && (oAddr o % 32 != 0 || oStride o % 32 != 0 || oStride o == 0 ||
    decide (oStride o < packSize (oFmt o) (if oKind o = 5 then n else m)))

/-- Bytes of the fixed extent of S2 in LUT, QNT and DQS (R134). -/
def s2Extent (d : BitVec 512) : Nat := if vOp d = 8 then 2048 else scaleExtent d

def vxAlignBad (d : BitVec 512) : Bool :=
  memAlignBad (vD d) (dM d) (dN d) || (vSources d).any (fun o => memAlignBad o (dM d) (dN d)) ||
    (s2Fixed (vOp d) && (oAddr (vS2 d) % 32 != 0 || oStride (vS2 d) != 0))

/-- Registers that an operand covers (R136). -/
def regCount (o outs : Nat) : Nat := if oKind o = 2 then ceilDiv outs 128 else 1

/-- A memory operand outside its region, or a VREG operand past V31. -/
def operandOut (x : CoreSt) (seg : Nat) (o m n : Nat) (wr : Bool) : Bool :=
  if isMem o then
    let e := memExtent o m n
    if wr then !mayWrite x.regions seg (spaceOf (oAddr o)) (offOf (oAddr o)) e
    else !mayRead x.regions (spaceOf (oAddr o)) (offOf (oAddr o)) e
  else oKind o == 2 && decide (32 < oAddr o + ceilDiv (m * n) 128)

def vxExtentBad (x : CoreSt) (seg : Nat) (d : BitVec 512) : Bool :=
  operandOut x seg (vD d) (destShape d).1 (destShape d).2 true ||
    (vSources d).any (fun o => operandOut x seg o (dM d) (dN d) false) ||
    (s2Fixed (vOp d) &&
      (if vOp d = 24 then !mayWrite x.regions seg (spaceOf (oAddr (vS2 d))) (offOf (oAddr (vS2 d))) (s2Extent d)
       else !mayRead x.regions (spaceOf (oAddr (vS2 d))) (offOf (oAddr (vS2 d))) (s2Extent d)))

/-- The bytes, registers or tile of an operand as a range of one numbering. -/
def footprint (o ext regs : Nat) : Option (Nat × Nat) :=
  match oKind o with
  | 1 => some (tileBase + oAddr o, 1)
  | 2 => some (vregBase + oAddr o, regs)
  | 3 => some (vregBase + oAddr o, 1)
  | 4 => some (vregBase + oAddr o, 1)
  | 5 => some (spaceOf (oAddr o) * ocBase + offOf (oAddr o), ext)
  | 6 => some (spaceOf (oAddr o) * ocBase + offOf (oAddr o), ext)
  | _ => none

def meets (a b : Option (Nat × Nat)) : Bool :=
  match a, b with
  | some x, some y => overlaps x.1 x.2 y.1 y.2
  | some _, none => false
  | none, _ => false

def srcPrint (d : BitVec 512) (o : Nat) : Option (Nat × Nat) :=
  footprint o (memExtent o (dM d) (dN d)) (ceilDiv (dM d * dN d) 128)

def dstPrint (d : BitVec 512) : Option (Nat × Nat) :=
  footprint (vD d) (memExtent (vD d) (destShape d).1 (destShape d).2) (ceilDiv (vOutputs d) 128)

def s2Print (d : BitVec 512) : Option (Nat × Nat) := footprint (vS2 d) (s2Extent d) 0

/-- The bytes, registers or tile that an operand of an m × n shape touches, as base, width, stride and count of its vectors. -/
def touched (o m n regs : Nat) : Option (Nat × Nat × Nat × Nat) :=
  match oKind o with
  | 1 => some (tileBase + oAddr o, 1, 0, 1)
  | 2 => some (vregBase + oAddr o, regs, 0, 1)
  | 3 => some (vregBase + oAddr o, 1, 0, 1)
  | 4 => some (vregBase + oAddr o, 1, 0, 1)
  | 5 => some (spaceOf (oAddr o) * ocBase + offOf (oAddr o), packSize (oFmt o) n, oStride o, m)
  | 6 => some (spaceOf (oAddr o) * ocBase + offOf (oAddr o), packSize (oFmt o) m, oStride o, n)
  | _ => none

/-- The bytes of the scale array of QNT and DQS, or of the table of LUT, that a descriptor touches. -/
def s2Touched (d : BitVec 512) : Option (Nat × Nat × Nat × Nat) :=
  let a := spaceOf (oAddr (vS2 d)) * ocBase + offOf (oAddr (vS2 d))
  if vOp d = 8 then some (a, 2048, 0, 1)
  else if vAX d = 0 then some (a, dM d, 128, ceilDiv (dN d) 32)
  else some (a, dN d, 64, ceilDiv (dM d) 32)

/-- What a VX descriptor reads. -/
def vReads (d : BitVec 512) : List (Nat × Nat × Nat × Nat) :=
  ((vSources d).map (fun o => touched o (dM d) (dN d) (ceilDiv (dM d * dN d) 128)) ++
    (if vOp d = 8 ∨ vOp d = 25 then [s2Touched d] else [])).reduceOption

/-- What a VX descriptor writes. -/
def vWrites (d : BitVec 512) : List (Nat × Nat × Nat × Nat) :=
  ([touched (vD d) (destShape d).1 (destShape d).2 (ceilDiv (vOutputs d) 128)] ++
    (if vOp d = 24 then [s2Touched d] else [])).reduceOption

/-- Two sets of vectors share a byte, a register or a tile; only the vector of `b` at or below the start of one of `a` and the next one
can meet it. -/
def shares (a b : Nat × Nat × Nat × Nat) : Bool :=
  (List.range a.2.2.2).any (fun i =>
    let x := a.1 + i * a.2.2.1
    let j := (x - b.1) / b.2.2.1
    [j, j + 1].any (fun j => decide (j < b.2.2.2) && overlaps x a.2.1 (b.1 + j * b.2.2.1) b.2.1))

/-- OVERLAP (R141). -/
def vxOverlapBad (d : BitVec 512) : Bool :=
  let same := fun (o : Nat) => !isReduce (vOp d) && oKind o == oKind (vD d) && oFmt o == oFmt (vD d) &&
    oAddr o == oAddr (vD d) && oStride o == oStride (vD d)
  (vSources d).any (fun o => meets (srcPrint d o) (dstPrint d) && !same o) ||
    (s2Fixed (vOp d) && meets (s2Print d) (dstPrint d)) ||
    (vOp d == 24 && (vSources d).any (fun o => meets (srcPrint d o) (s2Print d)))

def vxCodes (s : State) (u seg : Nat) (d : BitVec 512) : List (Nat × Bool) :=
  let x := coreAt s u
  let v := vOp d
  let work := !isNoop d
  [(0x03, vxReserved d),
   (0x04, !isVop v),
   (0x05, ([vD d, vS1 d, vS2 d, vS3 d]).any (fun o => oKind o != 0 && decide (11 ≤ oFmt o)) ||
      ([vD d, vS1 d, vS3 d] ++ (if v = 24 ∨ v = 25 then [] else [vS2 d])).any (fun o => oKind o != 0 && oFmt o == 9)),
   (0x08, vxOperandBad d),
   (0x0A, vxShapeBad d),
   (0x0C, vxAlignBad d),
   (0x0D, work && vxExtentBad x seg d),
   (0x0E, work && (vSources d).any (fun o => oKind o == 1 && tagOf x.dtag (oAddr o) != mkTag (oFmt o == 10) (vXB d))),
   (0x0F, work && vxOverlapBad d)]

/-! ### Mover descriptors (R313 to R324, R396 to R399) -/

/-- A KM address whose die field names a die that is not fitted (R297). -/
def kmAbsent (s : State) (sp a : Nat) : Bool := sp == 2 && decide (dies s.variant ≤ bits a 28 2)

/-- The lowest-numbered region that holds row 0 of the indexed side (R315). -/
def indexedRegion (x : CoreSt) (d : BitVec 512) : Option Region :=
  let gather := dOpc d == 0x31
  let sp := if gather then fld d 296 4 else fld d 340 4
  let a := if gather then fld d 256 40 else fld d 300 40
  let n := packSize (if gather then fld d 392 4 else fld d 396 4) (dN d)
  x.regions.find? (fun r => inRegion [r] sp a n gather (!gather))

/-- Source, destination and index list of a mover descriptor as (space, address, bytes); the indexed side is its whole region. -/
def moveSrc (x : CoreSt) (d : BitVec 512) : Nat × Nat × Nat :=
  if dOpc d = 0x31 then match indexedRegion x d with
    | some r => (r.space, r.base, r.size)
    | none => (fld d 296 4, fld d 256 40, 2 ^ 40)
  else (fld d 296 4, fld d 256 40, (dM d - 1) * fld d 344 24 + packSize (fld d 392 4) (dN d))

def moveDst (x : CoreSt) (d : BitVec 512) : Nat × Nat × Nat :=
  if dOpc d = 0x32 then match indexedRegion x d with
    | some r => (r.space, r.base, r.size)
    | none => (fld d 340 4, fld d 300 40, 2 ^ 40)
  else (fld d 340 4, fld d 300 40, (dM d - 1) * fld d 368 24 + packSize (fld d 396 4) (dN d))

def moveIdx (d : BitVec 512) : Nat × Nat × Nat := (spaceOf (fld d 400 24), offOf (fld d 400 24), 4 * dM d)

/-- Two extents share a byte. -/
def meets3 (a b : Nat × Nat × Nat) : Bool := a.1 == b.1 && a.2.2 != 0 && b.2.2 != 0 && overlaps a.2.1 a.2.2 b.2.1 b.2.2

/-- The indexed region of a SCATTER holds bytes of an active stream region, which its rows could write (R190): as for OVERLAP, the
indexed side counts as its whole indexed region (R322; DESIGN CHOICE for R190). -/
def scatterHitsStream (x : CoreSt) (seg : Nat) (d : BitVec 512) : Bool :=
  match indexedRegion x d with
  | some r => hitsStream x.regions seg r.space r.base r.size
  | none => true

/-- The index list does not lie in CM or the operand cache (R324); a working descriptor meets EXTENT first. -/
def indexOut (d : BitVec 512) : Bool :=
  let i := moveIdx d
  decide (spaceSize i.1 ≤ i.2.1 ∨ spaceSize i.1 < i.2.1 + i.2.2)

/-- MOVE_SPACE (R324). -/
def moveSpaceBad (d : BitVec 512) : Bool := decide (5 ≤ fld d 296 4 ∨ 5 ≤ fld d 340 4) || fld d 340 4 == 4

def moveCodes (s : State) (u seg : Nat) (d : BitVec 512) : List (Nat × Bool) :=
  let x := coreAt s u
  let opc := dOpc d
  let indexed := opc != 0x30
  let fs := fld d 392 4
  let fd := fld d 396 4
  let ss := fld d 344 24
  let src := moveSrc x d
  let dst := moveDst x d
  let work := !isNoop d
  [(0x02, kmAbsent s (fld d 296 4) (fld d 256 40) || kmAbsent s (fld d 340 4) (fld d 300 40)),
   (0x03, fld d 425 87 != 0 || (fs == fd && (dRnd d != 0 || dSat d))),
   (0x03 + 0x100, moveSpaceBad d),
   (0x05, decide (11 ≤ fs ∨ 11 ≤ fd)),
   (0x0A, decide (1 < dK d ∨ 1 < dCount d)),
   (0x0C, fld d 256 40 % 32 != 0 || fld d 300 40 % 32 != 0 || ss % 32 != 0 || fld d 368 24 % 32 != 0 ||
      (indexed && fld d 400 24 % 4 != 0) || decide (fld d 368 24 < packSize fd (dN d)) ||
      (decide (ss < packSize fs (dN d)) && !(opc == 0x30 && ss == 0))),
   (0x0D, work && ((if opc = 0x31 then (indexedRegion x d).isNone else !mayRead x.regions src.1 src.2.1 src.2.2) ||
      (if opc = 0x32 then scatterHitsStream x seg d else !mayWrite x.regions seg dst.1 dst.2.1 dst.2.2) ||
      (indexed && !mayRead x.regions (moveIdx d).1 (moveIdx d).2.1 (moveIdx d).2.2))),
   (0x0F, work && (meets3 dst src || (indexed && meets3 dst (moveIdx d)))),
   (0x21, fs != fd && decide (8 < fs ∨ 8 < fd)),
   (0x22, if indexed then indexOut d else fld d 400 24 != 0),
   (0x23, fld d 424 1 == 1 && (opc != 0x32 || fs != 10 || fd != 10 || !(fld d 340 4 == 0 || fld d 340 4 == 2)))]

/-- SEND_SPACE (R399). -/
def sendSpaceBad (d : BitVec 512) : Bool :=
  !(fld d 296 4 ∈ [0, 2, 3]) || !(if dOpc d = 0x33 then fld d 340 4 ∈ [0, 2, 3] else fld d 340 4 ∈ [0, 2])

/-- The rank table entry that a SEND names (R397). -/
def sendEntry (s : State) (u : Nat) (d : BitVec 512) : Nat := rankEntry s (partOf s u) (fld d 392 16)

def sendCodes (s : State) (u : Nat) (d : BitVec 512) : List (Nat × Bool) :=
  let x := coreAt s u
  let p := partOf s u
  let n := dN d
  let ss := fld d 344 24
  let ds := fld d 368 24
  let cv := fld d 424 1 == 1
  let work := !isNoop d
  [(0x02, kmAbsent s (fld d 296 4) (fld d 256 40)),
   (0x03, fld d 445 67 != 0 || (!cv && (fld d 425 16 != 0 || fld d 418 6 != 0))),
   (0x03 + 0x100, sendSpaceBad d),
   (0x0A, decide (128 < n ∨ 1 < dK d ∨ 1 < dCount d)),
   (0x0C, fld d 256 40 % 64 != 0 || fld d 300 40 % 64 != 0 || ss % 64 != 0 || ds % 64 != 0 ||
      (dOpc d == 0x33 && decide (ds < 64 * n))),
   (0x0D, work && !(mayRead x.regions (fld d 296 4) (fld d 256 40) ((dM d - 1) * ss + 64 * n))),
   (0x30, work && (decide (rg s (0x3410 + p) 7 ≤ fld d 392 16) || !bit (sendEntry s u d) 31)),
   (0x32, decide (56 ≤ fld d 418 6) || (cv && fld d 425 16 == 0)),
   (0x33, work && (route s p (sendEntry s u d % 2 ^ 24) (fld d 441 4) .plan).isNone),
   (0x34, decide (0xC0 ≤ fld d 410 8))]

/-! ### SYNC and BARRIER (R274, R277) -/

def syncCodes (s : State) (u : Nat) (d : BitVec 512) : List (Nat × Bool) :=
  let die := fld d 260 2
  [(0x02, decide (dies s.variant ≤ die)),
   (0x03, fld d 328 184 != 0 || fld d 296 12 != 0 || fld d 274 6 != 0 || fld d 262 6 != 0 || fld d 256 4 != 0),
   (0x0A, decide (1 < dM d ∨ 1 < dN d ∨ 1 < dK d ∨ 1 < dCount d)),
   (0x38, partLow s die != partOf s u || decide (11 < fld d 308 4) || fld d 312 16 == 0),
   (0x39, decide (56 ≤ fld d 268 6) || fld d 280 16 == 0)]

/-- The logical die of a core's partition that is bound to its die (R217). -/
def logicalDie (s : State) (u : Nat) : Nat := ((partAt s (partOf s u)).dieMap.findIdx (fun d => d == dieOf u))

/-- Whether a core is a participant of a barrier's masks in a scope, seen from the issuing core (R276). -/
def participates (s : State) (issuer scope cm km dm u : Nat) : Bool :=
  partOf s u == partOf s issuer && bit cm (u % 16) &&
    (match scope with
     | 0 => clusterOf u == clusterOf issuer
     | 1 => dieOf u == dieOf issuer && bit km (u / 16 % 12)
     | _ => bit km (u / 16 % 12) && bit dm (logicalDie s u))

def barrierCodes (s : State) (u : Nat) (d : BitVec 512) : List (Nat × Bool) :=
  let scope := fld d 262 2
  let mb := fld d 265 1 == 1
  let cm := fld d 282 16
  let km := fld d 270 12
  let dm := fld d 266 4
  let nd := (partDies s (partOf s u)).length
  [(0x03, fld d 320 192 != 0 || fld d 264 1 != 0 || fld d 260 2 != 0 || (!mb && (fld d 304 16 != 0 || fld d 298 6 != 0)) ||
      (scope == 0 && km != 0) || (decide (scope ≤ 1) && dm != 0)),
   (0x0A, decide (1 < dM d ∨ 1 < dN d ∨ 1 < dK d ∨ 1 < dCount d)),
   (0x39, mb && (decide (56 ≤ fld d 298 6) || fld d 304 16 == 0)),
   (0x3A, cm == 0 || (decide (1 ≤ scope) && km == 0) || (decide (2 ≤ scope) && dm == 0) ||
      decide (2 ≤ scope ∧ 2 ^ nd ≤ dm) || !participates s u scope cm km dm u),
   (0x3B, mb == dSV d),
   (0x3C, !isNoop d && (coreAt s u).waitBid.any (fun b => b.1 == fld d 256 4))]

/-! ### Stream-unit descriptors and STEP (R199, R200, R208, R493, R501, R524) -/

/-- The routine table entry of a routine in a cluster's LM (R212). -/
def routineEntry (s : State) (u r : Nat) : Nat := leNat (peek s (lmAddr (clusterOf u) (0x40 + 8 * r)) 8)

def routineOk (s : State) (u r : Nat) : Bool := decide (r < 1024) && bit (routineEntry s u r) 28

def callCodes (s : State) (u depth : Nat) (d : BitVec 512) : List (Nat × Bool) :=
  [(0x0C, fld d 272 24 % 32 != 0 || fld d 296 24 % 32 != 0),
   (0x10, !routineOk s u (fld d 256 16)),
   (0x14, decide (8 ≤ depth))]

def retCodes (depth : Nat) (d : BitVec 512) : List (Nat × Bool) := [(0x03, fld d 256 256 != 0), (0x13, depth == 0)]

def seedCodes (d : BitVec 512) : List (Nat × Bool) := [(0x03, fld d 320 192 != 0), (0x11, fld d 256 64 == 0)]

def hintCodes (d : BitVec 512) : List (Nat × Bool) := [(0x03, fld d 276 236 != 0)]

/-- Bytes of the page-list area (R485). -/
def listBytes (s : State) (p : Nat) : Nat := 16384 * 2048 * (partDies s p).length

def stepCodes (s : State) (u seg : Nat) (d : BitVec 512) : List (Nat × Bool) :=
  let p := partOf s u
  let slots := fld d 256 11
  let ahead := fld d 276 4
  let res := (fld d 380 4, fld d 340 40, 64 * slots)
  let tab := (fld d 336 4, fld d 296 40, 32 * slots)
  let pool := (3, rg s (0x4810 + p) 1, rg s (0x4810 + p) 2 * 65536)
  let lst := (3, rg s (0x4810 + p) 4, listBytes s p)
  let cfgBad := fun (f : Nat × Nat → Bool) => match (partAt s p).stepCfg with | some c => f c | none => false
  [(0x02, !hasServe s.variant || kmAbsent s res.1 res.2.1 || kmAbsent s tab.1 tab.2.1),
   (0x03, fld d 384 128 != 0 || fld d 280 16 != 0 || fld d 267 9 != 0),
   (0x0C, res.2.1 % 64 != 0 || tab.2.1 % 32 != 0),
   (0x0D, !mayRead (coreAt s u).regions res.1 res.2.1 res.2.2 || !mayWrite (coreAt s u).regions seg tab.1 tab.2.1 tab.2.2),
   (0x40, !(u % 192 == 0 && logicalDie s u == 0)),
   (0x41, slots == 0 || decide (1024 < slots) || cfgBad (fun c => c.1 != slots)),
   (0x42, ahead == 0 || decide (12 < ahead) || cfgBad (fun c => c.2 != ahead)),
   (0x43, !(res.1 ∈ [2, 3]) || !(tab.1 ∈ [2, 3])),
   (0x44, meets3 res tab || meets3 res pool || meets3 res lst || meets3 tab pool || meets3 tab lst),
   (0x45, rg s (0x4810 + p) 2 == 0 || rg s (0x4810 + p) 3 == 0)]

/-! ### All codes -/

/-- The codes that apply to every opcode (R192, R194, R206, R208). -/
def commonCodes (k : Nat) (lm : Bool) (d : BitVec 512) (wide range ext : Bool) : List (Nat × Bool) :=
  let opc := dOpc d
  [(0x01, !isOpcode opc),
   (0x03, wide || fld d 26 6 != 0 || fld d 120 8 != 0 || fld d 224 32 != 0 || (!dWV d && (dWid d != 0 || dWtgt d != 0)) ||
      (!dSV d && (dSid d != 0 || dSinc d != 0)) || (dSV d && dSinc d == 0) ||
      (!usesShape opc && (dM d != 0 || dN d != 0 || dK d != 0 || dCount d != 0)) || (dPX d && !lm)),
   (0x09, dRnd d == 3 || (!usesRnd opc && (dRnd d != 0 || dSat d))),
   (0x0B, range || (dIssue d != 0xFFFF && decide (2 ^ k ≤ dIssue d))),
   (0x0D, ext),
   (0x12, !lm && ((dWV d && decide (56 ≤ dWid d)) || (dSV d && decide (56 ≤ dSid d))))]

/-- The codes of the opcode. -/
def bodyCodes (s : State) (u seg depth : Nat) (d : BitVec 512) : List (Nat × Bool) :=
  match dOpc d with
  | 0x01 => callCodes s u depth d
  | 0x02 => retCodes depth d
  | 0x03 => seedCodes d
  | 0x04 => hintCodes d
  | 0x10 => mmCodes s u d
  | 0x20 => vxCodes s u seg d
  | 0x30 => moveCodes s u seg d
  | 0x31 => moveCodes s u seg d
  | 0x32 => moveCodes s u seg d
  | 0x33 => sendCodes s u d
  | 0x34 => sendCodes s u d
  | 0x40 => syncCodes s u d
  | 0x41 => barrierCodes s u d
  | 0x50 => stepCodes s u seg d
  | _ => []

/-- Smallest number of a list. -/
def least : List Nat → Option Nat
  | [] => none
  | a :: r => match least r with
    | none => some a
    | some b => some (min a b)

/-- The logged code: the lowest that applies, except that MOVE_SPACE and SEND_SPACE replace codes 0x04 to 0x15 (R208). -/
def lowestCode (opc : Nat) (l : List (Nat × Bool)) : Option Nat :=
  let hit := (l.filter (fun c => c.2)).map (fun c => c.1)
  let spaced := if opc < 0x33 then 0x20 else 0x31
  if hit.contains 0x103 then
    match least (hit.filter (fun c => decide (c ≤ 3))) with
    | some c => some c
    | none => match least (hit.filter (fun c => decide (0x16 ≤ c ∧ c < 0x100))) with
      | some c => some (min c spaced)
      | none => some spaced
  else least hit

/-- A descriptor taken at call depth `depth`: the values it runs with and its illegal code, if any (R208, R214). -/
def checkDesc (s : State) (u : Nat) (lm : Bool) (raw : BitVec 512) : BitVec 512 × Option Nat :=
  let x := coreAt s u
  let k := rg s 0x2100 1
  let seg := rg s (0x2120 + partOf s u) 7
  let r := match lm, x.frames with
    | true, f :: _ => expand k f raw
    | true, [] => (raw, false, false, false)
    | false, _ => (raw, false, false, false)
  (r.1, lowestCode (dOpc raw) (commonCodes k lm r.1 r.2.1 r.2.2.1 r.2.2.2 ++
    (if isOpcode (dOpc raw) then bodyCodes s u seg x.frames.length r.1 else [])))

end Sys2Proof.Machine
end

