-- ==== Sys2Proof/Machine/MoverUnit.lean ====
section
/-! DEFINITION. The mover's units: the rows and lines they cover, their timing, the channels and banks they touch, and the writes that are
on their way (R303, R304, R306, R307, R314 to R328, R401, R405). -/

namespace Sys2Proof.Machine

/-! ### Rows (R314 to R320) -/

def mFS (d : BitVec 512) : Nat := fld d 392 4
def mFD (d : BitVec 512) : Nat := fld d 396 4
/-- Bytes of a source row and of a destination row. -/
def srcBytes (d : BitVec 512) : Nat := if isSend d then 64 * dN d else packSize (mFS d) (dN d)
def dstBytes (d : BitVec 512) : Nat := packSize (mFD d) (dN d)

/-- Index `r` of the list (R315). -/
def moveIndex (s : State) (u : Nat) (d : BitVec 512) (r : Nat) : Nat :=
  if dOpc d = 0x30 ∨ isSend d then 0
  else leNat (peek s (flatAddr u (moveIdx d).1 ((moveIdx d).2.1 + 4 * r)) 4)

/-- A row whose index is empty, 0xFFFF_FFFF, or lies outside the indexed region (R316, R317). -/
def rowEmpty (x : CoreSt) (d : BitVec 512) (i : Nat) : Bool × Bool :=
  if dOpc d = 0x30 ∨ isSend d then (false, false)
  else if i = 0xFFFFFFFF then (true, false)
  else
    let a := if dOpc d = 0x31 then fld d 256 40 + i * fld d 344 24 else fld d 300 40 + i * fld d 368 24
    let n := if dOpc d = 0x31 then srcBytes d else dstBytes d
    let bad := match indexedRegion x d with
      | some r => !decide (r.base ≤ a ∧ a + n ≤ r.base + r.size)
      | none => true
    (bad, bad)

/-- The space addresses of source and destination row `r`, whose index reads `i`; an empty row lies at row 0 of its indexed side. -/
def rowSrc (d : BitVec 512) (r i : Nat) (empty : Bool) : Nat :=
  if dOpc d = 0x31 then fld d 256 40 + (if empty then 0 else i * fld d 344 24) else fld d 256 40 + r * fld d 344 24

def rowDst (d : BitVec 512) (r i : Nat) (empty : Bool) : Nat :=
  if dOpc d = 0x32 then fld d 300 40 + (if empty then 0 else i * fld d 368 24) else fld d 300 40 + r * fld d 368 24

/-- 64-byte lines that `n` bytes from `a` touch. -/
def lineCount (a n : Nat) : Nat := if n = 0 then 0 else (a + n - 1) / 64 - a / 64 + 1

/-- Units of a row, or of a packet of a SEND (R325, R401). -/
def rowUnits (d : BitVec 512) (r i : Nat) (empty : Bool) : Nat :=
  if isSend d then ceilDiv (64 * dN d) 512
  else max (lineCount (rowSrc d r i empty) (srcBytes d)) (lineCount (rowDst d r i empty) (dstBytes d))

/-- The bytes of a side that unit `k` of `n` covers: the lines i with floor(i × n / lines) = k. -/
def unitLines (a len n k : Nat) : List Nat :=
  (List.range (lineCount a len)).filter (fun i => i * n / lineCount a len == k)

/-- Start and end of the lines of a unit within a row, as addresses of the space. -/
def unitSpan (a len n k : Nat) : Nat × Nat :=
  match unitLines a len n k with
  | [] => (a, a)
  | i :: r => (max a (64 * (a / 64 + i)), min (a + len) (64 * (a / 64 + (r.getLastD i) + 1)))

/-- The bytes that a row brings to its destination, from its source as it stands (R316, R320); with ACC = 1 they are added there when they
land (R319). -/
def rowBytes (s : State) (u : Nat) (q : QDesc) (r i : Nat) (empty : Bool) : List Byte :=
  let d := q.raw
  let n := dN d
  if empty then List.replicate (dstBytes d) 0
  else
    let src := peek s (flatAddr u (mSSP d) (rowSrc d r i empty)) (srcBytes d)
    if mFS d = mFD d then src
    else
      let l := (List.range n).map (fun j => decodeVal (mFS d) (packGet (mFS d) src j))
      let l := if dRnd d = 2 then withDraws (genAfter q.gen (r * n)) l else l.map (fun v => (v, 0))
      packVec (mFD d) (l.map (fun v => toFormat (mFD d) (dRnd d) v.2 (dSat d) v.1))

/-! ### Timing (R325 to R327) -/

/-- Read and write latency of a space address from a core (R326). -/
def latRead (u sp a : Nat) : Nat :=
  match sp with
  | 2 => if bits a 28 2 != dieOf u then 80 else if bits a 24 4 == u / 16 % 12 then 16 else 32
  | 3 => if a / dieHbm == dieOf u then 192 else 240
  | 4 => 16
  | _ => 4

def latWrite (u sp a : Nat) : Nat :=
  match sp with
  | 2 => if bits a 28 2 != dieOf u then 72 else if bits a 24 4 == u / 16 % 12 then 8 else 24
  | 3 => if a / dieHbm == dieOf u then 64 else 112
  | _ => 2

/-- Cycles from a unit's issue to its write (R326). -/
def unitLat (u : Nat) (d : BitVec 512) : Nat :=
  latRead u (mSSP d) (fld d 256 40) + (if mFS d = mFD d then 0 else 4) + latWrite u (mDSP d) (fld d 300 40) +
    (if fld d 424 1 = 1 then latRead u (mDSP d) (fld d 300 40) + 4 else 0)

/-- A cycle of the beat lies in a refresh window (R304). -/
def inRefresh (k cyc : Nat) : Bool := if k = 10 then decide (896 ≤ cyc) else decide (1920 ≤ cyc % 2048)

/-- The channel keys of HBM bytes [a, b). -/
def channelKeys (sp a b : Nat) : List Nat :=
  if sp ≠ 3 then [] else (List.range (lineCount a (b - a))).map (fun i =>
    let l := 64 * (a / 64 + i); l / dieHbm * 64 + l % dieHbm / 64 % 64)

/-- The channels that the next unit of a descriptor touches; the indexed side of an empty row touches none (R316). -/
def unitChannels (d : BitVec 512) (m : MoveRun) (i : Nat) (empty : Bool) : List Nat :=
  let n := rowUnits d m.row i empty
  if isSend d then
    let a := fld d 256 40 + m.row * fld d 344 24 + 512 * m.unit
    channelKeys (mSSP d) a (min (a + 512) (fld d 256 40 + m.row * fld d 344 24 + 64 * dN d))
  else
    let sp := unitSpan (rowSrc d m.row i empty) (srcBytes d) n m.unit
    let dp := unitSpan (rowDst d m.row i empty) (dstBytes d) n m.unit
    (if empty ∧ dOpc d = 0x31 then [] else channelKeys (mSSP d) sp.1 sp.2) ++
      (if empty ∧ dOpc d = 0x32 then [] else channelKeys (mDSP d) dp.1 dp.2)

/-- The bytes of the byte store that the next unit of a descriptor reads and writes, as ranges. -/
def unitRanges (u : Nat) (d : BitVec 512) (m : MoveRun) (i : Nat) (empty : Bool) : List (Nat × Nat) :=
  if isSend d then
    [(flatAddr u (mSSP d) (fld d 256 40 + m.row * fld d 344 24 + 512 * m.unit), min 512 (64 * dN d - 512 * m.unit))]
  else
    let n := rowUnits d m.row i empty
    let sp := unitSpan (rowSrc d m.row i empty) (srcBytes d) n m.unit
    let dp := unitSpan (rowDst d m.row i empty) (dstBytes d) n m.unit
    (if empty ∧ dOpc d = 0x31 then [] else [(flatAddr u (mSSP d) sp.1, sp.2 - sp.1)]) ++
      (if empty ∧ dOpc d = 0x32 then [] else [(flatAddr u (mDSP d) dp.1, dp.2 - dp.1)])

/-- The accesses of the next unit to banks (R325). -/
def unitAccesses (u : Nat) (d : BitVec 512) (m : MoveRun) (i : Nat) (empty : Bool) : List (Nat × Nat) :=
  ((unitRanges u d m i empty).map (fun k => accesses k.1 k.2)).flatten

/-- The bytes of the next unit that cross to or from another die (R334). -/
def unitCrossing (u : Nat) (d : BitVec 512) (m : MoveRun) (i : Nat) (empty : Bool) : Nat :=
  (((unitRanges u d m i empty).filter (fun k => dieAt k.1 != dieOf u)).map (fun k => k.2)).sum

/-- A mover descriptor whose units have all issued. -/
def allIssued (m : MoveRun) : Bool := decide (dM m.d.raw ≤ m.row)

/-- The first cycle in which the next unit may issue, channels and refresh windows aside. -/
def unitEarliest (m : MoveRun) : Nat := max (m.start + 4) (m.lastQ + (if m.row = 0 ∧ m.unit = 0 then 0 else moveStep m.d.raw))

/-- The channels of the next unit are ready, outside refresh windows, and in regions that are not stretched in this cycle (R236, R303,
R304, R444). -/
def channelsReady (s : State) (l : List Nat) : Bool :=
  l.isEmpty || (!inRefresh (rg s 0x2100 1) s.cyc && l.all (fun k => decide ((kget s.chReady k).getD 0 ≤ absNow s) && !regionStill s (k / 16)))

/-- Channels accept their next request two cycles later, and one that takes two lines two cycles after that (R303). -/
def useChannels (s : State) (l : List Nat) : State :=
  { s with chReady := l.foldl (fun m k => kset m k (max ((kget m k).getD 0) (absNow s) + 2)) s.chReady }

/-! ### Meetings at channels and banks (R30, R295, R307) -/

/-- The index of the row in progress, as its list stands. -/
def rowIndex (s : State) (u : Nat) (m : MoveRun) : Nat := if m.unit = 0 then moveIndex s u m.d.raw m.row else m.idx.getD m.row 0

/-- An access that waits for channels or banks: the cycle in which it began, its port's rank, its channels and its accesses to banks. -/
abbrev Waiter := Nat × Nat × List Nat × List (Nat × Nat)

/-- What a core has waiting beside its engines' accesses: the mover's next unit, the fetch of its stream unit, and packets to it. -/
def waitersOf (s : State) (u : Nat) (x : CoreSt) : List Waiter :=
  let unit := match x.drun.find? (fun m => !allIssued m) with
    | some m =>
      let i := rowIndex s u m
      let e := (rowEmpty x m.d.raw i).1
      if coreWorks s u ∧ unitEarliest m ≤ absNow s then [(unitEarliest m, 0, unitChannels m.d.raw m i e, unitAccesses u m.d.raw m i e)] else []
    | none => []
  let fetch := match fetchAddr s u with
    | some a => if fetchWants s u then [(x.nextFetch, 3, [], accesses a 64)] else []
    | none => []
  unit ++ fetch ++ (x.lands.filter (fun l => decide (l.due ≤ absNow s) && l.pkt.any (fun k => !k.wrote && !k.port))).map (fun l =>
    (l.due, 4, channelKeys (if spaceAt l.addr = 3 then 3 else 0) l.addr (l.addr + l.bytes.length), accesses l.addr l.bytes.length))

/-- Of those of all cores the ones that go before an access which began in cycle `b` at port `rank`: those that began earlier, and of the same
cycle those of an earlier port (R30). Accesses of the same cycle and port go as their commands come (log entry 30). -/
def waitersAhead (s : State) (b rank : Nat) : List Waiter :=
  (s.cores.map (fun e => (waitersOf s e.1 e.2).filter (fun w => decide (w.1 < b) || (w.1 == b && decide (w.2.1 < rank))))).flatten

/-- No access that goes before wants one of these channels. -/
def channelsClear (s : State) (b rank : Nat) (l : List Nat) : Bool :=
  l.isEmpty || (waitersAhead s b rank).all (fun w => w.2.2.1.all (fun k => !l.contains k))

/-- Every bank has room for accesses of core `u` that began in cycle `b` at port `rank`, beside what has been served in this cycle and
what goes before (R295, R325). -/
def bankRoom (s : State) (u b rank : Nat) (l : List (Nat × Nat)) : Bool :=
  l.isEmpty ||
    let use := (enginesAhead (coreAt s u) b rank).foldl (fun m w => (serve m w.2).1) s.bankUse
    (serve ((waitersAhead s b rank).foldl (fun m w => (serve m w.2.2.2).1) use) l).2.isEmpty

/-- Index `i` of row `m.row` makes the next unit wait: its channels are not ready, lie in a refresh window, or a bank has no room, or an
access that goes before takes them (R307, R325, R328). -/
def unitHeldUp (s : State) (u : Nat) (m : MoveRun) (i : Nat) : Bool :=
  let d := m.d.raw
  let e := (rowEmpty (coreAt s u) d i).1
  let ch := unitChannels d m i e
  let b := unitEarliest m
  !channelsReady s ch || !channelsClear s b 0 ch || !bankRoom s u b 0 (unitAccesses u d m i e)

/-- The bytes that XACC leaves: each XA128 element added (R319, R397). -/
def xaccBytes (old new : List Byte) : List Byte :=
  ((List.range (new.length / 16)).map (fun i =>
    leBytes 16 (XEl.held (XEl.add (XEl.load (leAt old (16 * i) 16)) (XEl.load (leAt new (16 * i) 16)))))).flatten

/-! ### Writes on their way (R306, R319, R326, R405) -/

/-- A write commits: its bytes are stored, or added element by element to what is there (R319, R397), whose storage errors its reader
meets. -/
def commit (s : State) (u : Nat) (l : Landing) : State :=
  if l.acc then
    let t := if l.pkt.isSome then bareErrors s l.addr l.bytes.length else readErrors s u 3 l.addr l.bytes.length l.cnt l.tag 0
    poke t l.addr (xaccBytes (peek s l.addr l.bytes.length) l.bytes)
  else poke s l.addr l.bytes

/-- The increment of a packet that has been written enters the arrival queue of 64 in the next cycle, and its receive units are released; while
the queue is full it is held, and holds them (R265, R266, R366). A frozen partition takes no increment. -/
def landCount (s : State) (u : Nat) (l : Landing) (k : PktEnd) : State × Option Landing :=
  let x := coreAt s u
  let free := fun (t : State) => if (linkAt t k.link).era = k.era then release t k.link .plan k.ures k.ush else t
  if !k.cv ∨ planState s (partOf s u) ≠ 3 then (free s, none)
  else if x.arrQ.length < 64 then
    (free (setCore s u { x with arrQ := x.arrQ ++ [{ ctr := k.ctr, inc := k.inc, ready := absNow s + 1, release := false, key := 0, comp := 0 }] }),
      none)
  else (s, some { l with pkt := some { k with wrote := true } })

/-- A packet that writes to a bank gets its port in this cycle, if it began in a cycle with `f`; it goes behind what began earlier and, of the
same cycle, behind the ports of R30 (R295). -/
def grantPacket (u : Nat) (f : Nat → Bool) (s : State) (l : Landing) : State :=
  match l.pkt with
  | none => s
  | some k =>
    let ac := accesses l.addr l.bytes.length
    if ac.isEmpty ∨ k.port ∨ k.wrote ∨ absNow s < l.due ∨ !f l.due ∨ !bankRoom s u l.due 4 ac then s
    else
      let s := countAct s (dieOf u) 48 256 ac.length
      let x := coreAt s u
      useBanks (setCore s u { x with lands := x.lands.map (fun r => if r = l then { r with pkt := some { k with port := true } } else r) }) ac

def grantPackets (s : State) (u : Nat) (f : Nat → Bool) : State := (coreAt s u).lands.foldl (grantPacket u f) s

/-- What a write on its way does in the present cycle, and what remains of it. A packet's lines of HBM are first accepted by their channels,
outside refresh windows, and a wait for that is access slip (R303, R304, R307); its bytes of a bank wait for the bank's port (R295). -/
def landOne (s : State) (u : Nat) (l : Landing) : State × Option Landing :=
  if absNow s < l.due then (s, some l)
  else match l.pkt with
    | none => (commit s u l, none)
    | some k =>
      if k.ask then
        let ch := channelKeys 3 l.addr (l.addr + l.bytes.length)
        if channelsReady s ch ∧ channelsClear s l.due 4 ch then
          (useChannels (countAct s (dieOf u) 50 256 ch.length) ch, some { l with due := absNow s + 64, pkt := some { k with ask := false } })
        else (bumpSlip s u 5 1, some l)
      else if k.wrote then landCount s u l k
      else if !(accesses l.addr l.bytes.length).isEmpty ∧ !k.port then (s, some l)
      else landCount (bump (commit s u l) (0x3420 + k.part) 2 6 1 1) u l k

/-- The writes of a core that are due. A cycle that follows with an increment held is one of ARRIVAL_HOLD (R266). -/
def landAll (s : State) (u : Nat) : State :=
  let l := (coreAt s u).lands
  let s := setCore s u { coreAt s u with lands := [] }
  let s := l.foldl (fun t k =>
    let r := landOne t u k
    let x := coreAt r.1 u
    setCore r.1 u { x with lands := x.lands ++ r.2.toList }) s
  if (coreAt s u).lands.any (fun k => k.pkt.any (fun e => e.wrote)) then bump s (0x7860 + dieOf u) 4 6 3 1 else s

end Sys2Proof.Machine
end

