-- ==== Sys2Proof/Machine/MxeUnit.lean ====
section
/-! DEFINITION. The matrix engine at work: what each cycle of an MM reads, adds and writes (R81 to R95, R108 to R111, R114, R118). -/

namespace Sys2Proof.Machine

/-! ### Timing (R83, R108, R110) -/

/-- Main-phase cycles (R110). -/
def mmP (d : BitVec 512) : Nat :=
  let k := dK d
  if fld d 384 4 = 7 ∧ fld d 388 4 = 7 then max 32 (ceilDiv k 2)
  else if isNarrow (fld d 384 4) then max 32 k
  else if fld d 384 4 = 0 then max 32 (16 * k)
  else max 32 (2 * k)

/-- Cycles of a K-step of a wide pair, 1 for a narrow one (R83, R114). -/
def mmWide (d : BitVec 512) : Nat := if isNarrow (fld d 384 4) then 1 else if fld d 384 4 = 0 then 16 else 2

/-- The K-steps whose products are added in main-phase cycle `m`: two of an FP4 pair, one of any other narrow pair, and of a wide pair one in
the last of its 2 or 16 cycles (R83, R114). -/
def mmSteps (d : BitVec 512) (m : Nat) : List Nat :=
  let l := if fld d 384 4 = 7 ∧ fld d 388 4 = 7 then [2 * m, 2 * m + 1]
    else if isNarrow (fld d 384 4) then [m]
    else if m % mmWide d + 1 = mmWide d then [m / mmWide d] else []
  l.filter (fun k => decide (k < dK d))

/-- Whether the MM starts from +0, not from its tile (R98, R99). -/
def mmFresh (d : BitVec 512) : Bool := fld d 398 1 == 0

/-- Whether it accumulates in XA128, for a narrow pair, not in FP32. -/
def mmExact (d : BitVec 512) : Bool := fld d 392 4 == 10

def mmTile (d : BitVec 512) : Nat := fld d 396 2

/-- An MM that applies its signal in this cycle or an earlier one (R104, R108). -/
def mmDone (r : MmRun) : Bool := if r.noop then decide (4 ≤ r.pos) else decide (96 + mmP r.d.raw ≤ r.pos)

/-! ### Operands (R45 to R47, R89 to R93, R118) -/

/-- The byte store address of slice `k` of operand A, and of operand B. -/
def sliceA (u : Nat) (d : BitVec 512) (k : Nat) : Nat := flatAddr u (spaceOf (fld d 256 24)) (offOf (fld d 256 24) + k * fld d 304 16)
def sliceB (u : Nat) (d : BitVec 512) (k : Nat) : Nat := flatAddr u (spaceOf (fld d 280 24)) (offOf (fld d 280 24) + k * fld d 320 16)

/-- The byte store address of block `g` of the scales of A, and of B. -/
def scalesA (u : Nat) (d : BitVec 512) (g : Nat) : Nat := flatAddr u (spaceOf (fld d 336 24)) (offOf (fld d 336 24) + 128 * g)
def scalesB (u : Nat) (d : BitVec 512) (g : Nat) : Nat := flatAddr u (spaceOf (fld d 360 24)) (offOf (fld d 360 24) + 64 * g)

/-- The K-steps whose slices an MM of a narrow pair reads in the cycle at place `p` of its time: those of the first main-phase cycle at
c + 4, every other one in the cycle that adds its products (R93, R108; log entry 12). -/
def mmReads (d : BitVec 512) (p : Nat) : List Nat :=
  if p = 4 then mmSteps d 0 else if 64 < p ∧ p < 64 + mmP d then mmSteps d (p - 64) else []

/-- The part of a slice that an MM of a wide pair reads there, as K-step, part and number of parts: a slice is spread over its K-step's 2 or
16 cycles, the first one over 2 or 8 cycles from c + 4 (R83, R93, R108; log entry 12). -/
def mmPart (d : BitVec 512) (p : Nat) : Option (Nat × Nat × Nat) :=
  let w := mmWide d
  let w0 := min w 8
  if w = 1 then none
  else if 4 ≤ p ∧ p < 4 + w0 then some (0, p - 4, w0)
  else if 64 + w ≤ p ∧ p < 64 + w * dK d then some ((p - 64) / w, (p - 64) % w, w)
  else none

/-- Part `j` of `w` of a vector of `n` elements: where it starts and how many it has. -/
def partOfVec (n j w : Nat) : Nat × Nat := (n * j / w, n * (j + 1) / w - n * j / w)

/-- The scale blocks that it reads there: block 0 at c + 12, every other one in the cycle that begins it. -/
def mmBlocks (d : BitVec 512) (p : Nat) : List Nat :=
  if p = 12 then [0] else if 64 < p ∧ p < 64 + mmP d then ((mmSteps d (p - 64)).filter (fun k => k % 32 == 0 && k != 0)).map (· / 32) else []

/-- The byte ranges that an MM reads in the cycle at place `p`, each with its K-step: slices of A and B, then scales. -/
def mmRanges (u : Nat) (d : BitVec 512) (p : Nat) : List (Nat × Nat × Nat) :=
  (match mmPart d p with
    | some (k, j, w) =>
      let a := partOfVec (dM d) j w
      let b := partOfVec (dN d) j w
      [(sliceA u d k + packSize (fld d 384 4) a.1, packSize (fld d 384 4) a.2, k), (sliceB u d k + packSize (fld d 388 4) b.1, packSize (fld d 388 4) b.2, k)]
    | none => []) ++
  ((if mmWide d = 1 then mmReads d p else []).map (fun k => [(sliceA u d k, packSize (fld d 384 4) (dM d), k), (sliceB u d k, packSize (fld d 388 4) (dN d), k)])).flatten ++
    ((mmBlocks d p).map (fun g => (if fld d 400 1 = 1 then [(scalesA u d g, dM d, 32 * g)] else []) ++
      (if fld d 401 1 = 1 then [(scalesB u d g, dN d, 32 * g)] else []))).flatten

/-- The slices of a K-step as read. -/
def mmSlices (s : State) (u : Nat) (d : BitVec 512) (k : Nat) : List Nat × List Nat :=
  (readVec s (fld d 384 4) (sliceA u d k) (dM d), readVec s (fld d 388 4) (sliceB u d k) (dN d))

/-- The scales of a block as read. A scale in a word with an uncorrectable error reads as code 0, 2^-127: R118 gives 0 for an element and
names no scale (DESIGN CHOICE). -/
def mmScales (s : State) (u : Nat) (d : BitVec 512) (r : MmRun) (g : Nat) : MmRun :=
  { r with sa := if fld d 400 1 = 1 then readVec s 9 (scalesA u d g) (dM d) else [],
           sb := if fld d 401 1 = 1 then readVec s 9 (scalesB u d g) (dN d) else [] }

/-! ### Products (R51 to R55, R59, R60, R84, R88) -/

/-- The products of a K-step in row-major order, from its slices and the block scales in use. -/
def mmProducts (d : BitVec 512) (r : MmRun) (ab : List Nat × List Nat) : List Val :=
  let va := ab.1.zipIdx.map (fun c => scaledVal (fld d 384 4) c.1 (if fld d 400 1 = 1 then some (r.sa.getD c.2 0) else none))
  let vb := ab.2.zipIdx.map (fun c => scaledVal (fld d 388 4) c.1 (if fld d 401 1 = 1 then some (r.sb.getD c.2 0) else none))
  (va.map (fun a => vb.map (fun b => mulVal a b))).flatten

/-- A cell adds a product. A narrow cell adds it exactly under XB; the 48 bits in which a partial holds a group's sum, and where its binary
point stands, are read by nothing (R84, R86, R87), and the partial is kept as the number and flags that it stands for. A wide cell rounds
the sum to FP32. -/
def mmAddCell (d : BitVec 512) (p : Nat × Nat) (v : Val) : Nat × Nat :=
  if mmExact d then
    let e := XEl.add { flags := p.2, q := p.1 } (XEl.enter v (sext 10 (fld d 406 10))).1
    (e.q, e.flags)
  else (toFormat 0 0 0 false (addVal (decodeVal 0 p.1) v), 0)

/-- The XA event kinds of a product (R52 to R54). -/
def mmEvent (d : BitVec 512) (v : Val) : Nat := if mmExact d then (XEl.enter v (sext 10 (fld d 406 10))).2 else 0

/-- A K-step ends a fold group: its 64th, or the operation's last (R85). -/
def groupEnds (d : BitVec 512) (k : Nat) : Bool := mmExact d && (k % 64 == 63 || k + 1 == dK d)

/-- One K-step: every cell adds its product, and at the end of a fold group the partials move into the shadow registers and the next group
starts from zero. The fold writes from the next cycle on; that of the last group is the drain (R85, R109). -/
def mmStep (d : BitVec 512) (r : MmRun) (k : Nat) (ab : List Nat × List Nat) : MmRun :=
  let v := mmProducts d r ab
  let part := List.zipWith (mmAddCell d) r.part v
  let kinds := List.zipWith (fun n x => n ||| mmEvent d x) r.kinds v
  if groupEnds d k then
    { r with part := part.map (fun _ => (0, 0)), kinds := kinds,
             folds := r.folds ++ [{ place := if k + 1 = dK d then 64 + mmP d else r.pos + 1, first := decide (k < 64), vals := part }] }
  else { r with part := part, kinds := kinds }

/-- At the end of a wide operation's main phase its accumulators move to the shadow registers, to be written in the drain (R88). -/
def mmWideEnd (d : BitVec 512) (r : MmRun) : MmRun :=
  if !mmExact d && decide (r.pos = 63 + mmP d) then { r with folds := r.folds ++ [{ place := 64 + mmP d, first := true, vals := r.part }] } else r

/-! ### The tile (R85, R95, R98, R99, R102, R109) -/

/-- The XA128 or FP32 code in a slot of the target tile; a slot with an uncorrectable error reads as zero. -/
def slotCode (s : State) (u t slot : Nat) : Nat :=
  if kget s.ecc (tileAddr u (tileKey t slot)) = some 2 then 0 else tileGet (coreAt s u) t slot

/-- A slot of a tile is written: it holds no error any more. -/
def writeSlot (s : State) (u t slot v : Nat) : State :=
  let s := setCore s u (tileSet (coreAt s u) t slot v)
  { s with ecc := s.ecc.filter (fun p => p.1 != tileAddr u (tileKey t slot)) }

/-- A fold reaches cell (i, j): a fresh MM's first one writes the cell's sum; any other adds it to the tile element, which keeps its exact
number and flags while the operation runs (R51, R55), and reads as zero where its slot has an uncorrectable error. -/
def foldCell (u : Nat) (f : Fold) (a : State × MmRun) (i j : Nat) : State × MmRun :=
  let d := a.2.d.raw
  let t := mmTile d
  let slot := 64 * i + j
  let c := i * dN d + j
  let v := f.vals.getD c (0, 0)
  if !mmExact d then (writeSlot a.1 u t slot v.1, a.2)
  else if f.first && mmFresh d then
    (writeSlot a.1 u t slot (XEl.held { flags := v.2, q := v.1 }), { a.2 with el := a.2.el.set c v })
  else
    let s := readErrors a.1 u 1 (tileAddr u (tileKey t slot)) 16 a.2.d.cnt (dTag d) 0
    let bad := decide (kget s.ecc (tileAddr u (tileKey t slot)) = some 2)
    let old : XEl := if f.first then XEl.load (slotCode s u t slot)
      else if bad then { flags := 0, q := 0 } else { flags := (a.2.el.getD c (0, 0)).2, q := (a.2.el.getD c (0, 0)).1 }
    let e := XEl.add old { flags := v.2, q := v.1 }
    (writeSlot s u t slot (XEl.held e), { a.2 with el := a.2.el.set c (e.q, e.flags) })

/-- A row of a fold: a fresh MM's first fold or drain sets the row's elements outside the M × N region to zero. -/
def foldRow (u : Nat) (f : Fold) (a : State × MmRun) (i : Nat) : State × MmRun :=
  let d := a.2.d.raw
  let base := tileKey (mmTile d) (64 * i)
  let a := if f.first && mmFresh d then
      let x := coreAt a.1 u
      let s := setCore a.1 u { x with tile := kclear x.tile base 64 }
      ({ s with ecc := s.ecc.filter (fun p => p.1 < tileAddr u base ∨ tileAddr u (base + 64) ≤ p.1) }, a.2)
    else a
  if dM d ≤ i then a else (List.range (dN d)).foldl (fun a j => foldCell u f a i j) a

/-- The folds and the drain write 4 rows per cycle, in ascending order, in 32 cycles (R109). Where the last group has fewer than 32 main-phase
cycles the drain begins before the fold of the group before it has ended; R109 says that two never overlap, and the cycles of R108 to R110
make them: both write then, each row first by the fold (DESIGN CHOICE, log entry 47). -/
def foldCycle (u p : Nat) (a : State × MmRun) : State × MmRun :=
  let a := a.2.folds.foldl (fun a f =>
    if f.place ≤ p ∧ p < f.place + 32 then (List.range 4).foldl (fun a i => foldRow u f a (4 * (p - f.place) + i)) a else a) a
  (a.1, { a.2 with folds := a.2.folds.filter (fun f => decide (p < f.place + 31)) })

/-- In c + 48 to c + 63 a wide MM with ACC = 1 reads its tile, 8 rows per cycle, into its accumulators (R88, R108). -/
def tileRead (u p : Nat) (a : State × MmRun) : State × MmRun :=
  let d := a.2.d.raw
  if mmExact d || mmFresh d || decide (p < 48 ∨ 64 ≤ p) then a
  else
    ((List.range 8).map (fun i => (List.range (dN d)).map (fun j => (8 * (p - 48) + i, j)))).flatten.foldl (fun a ij =>
      if dM d ≤ ij.1 then a
      else
        let s := readErrors a.1 u 1 (tileAddr u (tileKey (mmTile d) (64 * ij.1 + ij.2))) 16 a.2.d.cnt (dTag d) 0
        (s, { a.2 with part := a.2.part.set (ij.1 * dN d + ij.2) (slotCode s u (mmTile d) (64 * ij.1 + ij.2) % 2 ^ 32, 0) })) a

/-- In the last drain cycle a fresh MM's tile takes its tag (R98; R98 does not say in which cycle, DESIGN CHOICE). -/
def mmTag (u p : Nat) (a : State × MmRun) : State × MmRun :=
  let d := a.2.d.raw
  if mmFresh d && decide (p = 95 + mmP d) then
    let x := coreAt a.1 u
    (setCore a.1 u { x with tag := kput 0 x.tag (mmTile d) (mkTag (mmExact d) (fld d 406 10)) }, a.2)
  else a

/-! ### One cycle -/

/-- An MM that starts now (R104, R108). -/
def mmBegin (q : QDesc) : MmRun :=
  let n := if isNoop q.raw then 0 else dM q.raw * dN q.raw
  { d := q, noop := isNoop q.raw, part := List.replicate n (0, 0), el := List.replicate n (0, 0), kinds := List.replicate n 0 }

/-- The accesses of an MM in its present cycle. -/
def mmAccesses (u : Nat) (r : MmRun) : List (Nat × Nat) :=
  if r.noop then [] else ((mmRanges u r.d.raw r.pos).map (fun k => accesses k.1 k.2.1)).flatten

/-- What is read in the present cycle: scales, and the slices or parts of slices that are kept for later. -/
def mmTake (s : State) (u : Nat) (r : MmRun) : MmRun :=
  let d := r.d.raw
  let r := (mmBlocks d r.pos).foldl (mmScales s u d) r
  match mmPart d r.pos with
  | some (k, j, w) =>
    let ab := mmSlices s u d k
    let a := partOfVec (dM d) j w
    let b := partOfVec (dN d) j w
    let old := if j = 0 then ([], []) else r.slices.headD ([], [])
    { r with slices := [(old.1 ++ (ab.1.drop a.1).take a.2, old.2 ++ (ab.2.drop b.1).take b.2)] }
  | none => if r.pos = 4 then { r with slices := (mmReads d 4).map (mmSlices s u d) } else r

/-- The products of a main-phase cycle. -/
def mmMain (s : State) (u : Nat) (r : MmRun) : MmRun :=
  let d := r.d.raw
  if r.pos < 64 ∨ 64 + mmP d ≤ r.pos then r
  else
    let r := (mmSteps d (r.pos - 64)).zipIdx.foldl (fun r k =>
      mmStep d r k.1 (if r.pos = 64 ∨ mmWide d ≠ 1 then r.slices.getD k.2 ([], []) else mmSlices s u d k.1)) r
    mmWideEnd d { r with slices := if r.pos = 64 ∧ mmWide d = 1 then [] else r.slices }

/-- One cycle of an MM whose accesses have been served passes: it reads, logs the errors that it meets, adds products, and writes what its
folds and its drain have for the tile. "Global k" of an error is the descriptor's own k, from 0: R118 does not say from where it counts
(DESIGN CHOICE). -/
def mmCycle (s : State) (u : Nat) (r : MmRun) : State × MmRun :=
  let d := r.d.raw
  let p := r.pos
  if r.noop ∨ mmDone r then (s, { r with pos := p + 1 })
  else
    let t := (mmRanges u d p).foldl (fun t k => readErrors t u 1 k.1 k.2.1 r.d.cnt (dTag d) k.2.2) s
    let t := countAct t (dieOf u) 48 (dPhase d) (mmAccesses u r).length
    let t := if 64 ≤ p ∧ p < 64 + mmP d then
        bumpUnits (countAct t (dieOf u) (fld d 384 4) (dPhase d) (mmSteps d (p - 64)).length) (0x7840 + dieOf u) 3 6 2 1024 1 else t
    let a := mmTag u p (foldCycle u p (tileRead u p (t, mmMain s u (mmTake s u r))))
    (a.1, { a.2 with pos := p + 1 })

end Sys2Proof.Machine
end

