-- ==== Sys2Proof/Machine/VxeUnit.lean ====
section
/-! DEFINITION. The vector engine at work: what each cycle of a VX descriptor reads, computes and writes (R122 to R163, R169, R170). -/

namespace Sys2Proof.Machine

/-! ### Timing (R161 to R164) -/

/-- A CVT that is a copy (R148). -/
def vxCopy (d : BitVec 512) : Bool := vOp d == 7 && oFmt (vS1 d) == oFmt (vD d) && !oNG (vS1 d)

/-- Set-up A and depth D of a descriptor's class (R161). -/
def vxAD (d : BitVec 512) : Nat × Nat :=
  if vxCopy d then (0, 0)
  else if vOp d = 8 then (16, 8)
  else if vOp d = 24 then (0, 40)
  else if isReduce (vOp d) then (0, 14)
  else if vOp d = 16 ∨ (vOp d = 7 ∧ (oFmt (vS1 d) = 10 ∨ oFmt (vD d) = 10)) then (0, 8)
  else (0, 6)

/-- Bytes of packed data of a memory operand of an m × n shape; gaps do not count (R162). -/
def packedBytes (o m n : Nat) : Nat :=
  if oKind o = 5 then m * packSize (oFmt o) n else if oKind o = 6 then n * packSize (oFmt o) m else 0

/-- Scale bytes of QNT and DQS. -/
def scaleBytes (d : BitVec 512) : Nat := if vAX d = 0 then dM d * ceilDiv (dN d) 32 else dN d * ceilDiv (dM d) 32

/-- Streaming cycles S (R162). -/
def vxS (v : Variant) (d : BitVec 512) : Nat :=
  let rate := if vOp d = 24 then lanesOf v / 2 else lanesOf v
  let rb := ((vSources d).map (fun o => packedBytes o (dM d) (dN d))).foldl (· + ·) 0 + (if vOp d = 25 then scaleBytes d else 0)
  let wb := packedBytes (vD d) (destShape d).1 (destShape d).2 + (if vOp d = 24 then scaleBytes d else 0)
  max 1 (max (ceilDiv (dM d * dN d) rate) (max (ceilDiv rb 1024) (ceilDiv wb 1024)))

/-- The place in a descriptor's time at which it applies its signal: 4 for a no-op, else A + S + D (R137, R163). -/
def vxEnd (v : Variant) (r : VxRun) : Nat := if r.noop then 4 else (vxAD r.d.raw).1 + vxS v r.d.raw + (vxAD r.d.raw).2

/-- A VX descriptor that applies its signal in this cycle or an earlier one. -/
def vxDone (v : Variant) (r : VxRun) : Bool := decide (vxEnd v r ≤ r.pos)

/-- The elements that streaming cycle `t` handles: M × N elements in ascending e, spread evenly over S cycles. R163 says only in which cycles
streaming lies (DESIGN CHOICE, log entry 12). -/
def vxGroup (v : Variant) (d : BitVec 512) (t : Nat) : Nat × Nat :=
  let e := dM d * dN d
  (t * e / vxS v d, (t + 1) * e / vxS v d)

/-- The elements read in the cycle at place `p` of a descriptor's time, as a range. -/
def vxReadGroup (v : Variant) (d : BitVec 512) (p : Nat) : Nat × Nat :=
  let a := (vxAD d).1
  if a ≤ p ∧ p < a + vxS v d then vxGroup v d (p - a) else (0, 0)

/-- The elements whose results are written in the cycle at place `p`: those read D cycles earlier. -/
def vxWriteGroup (v : Variant) (d : BitVec 512) (p : Nat) : Nat × Nat :=
  let a := (vxAD d).1 + (vxAD d).2
  if a ≤ p ∧ p < a + vxS v d then vxGroup v d (p - a) else (0, 0)

/-! ### Reading (R132, R142, R169) -/

/-- The byte store address of the scale of element (i, j). -/
def scaleAddr (u : Nat) (d : BitVec 512) (i j : Nat) : Nat :=
  flatAddr u (spaceOf (oAddr (vS2 d))) (offOf (oAddr (vS2 d)) + scaleOff (vAX d) i j)

/-- The codes of element `e`, as read in this cycle. -/
def vxRead (s : State) (u : Nat) (d : BitVec 512) (e : Nat) : VElem :=
  let i := e / dN d
  let j := e % dN d
  { c1 := readElem s u d (vS1 d) i j,
    c2 := if usesS2 (vOp d) && !s2Fixed (vOp d) then readElem s u d (vS2 d) i j else 0,
    c3 := if usesS3 (vOp d) then readElem s u d (vS3 d) i j else 0,
    sc := if vOp d = 25 then readPacked s 9 (scaleAddr u d i j) 0 else 0 }

/-- The bytes in which a source element lies. -/
def elemRange (u : Nat) (d : BitVec 512) (o i j : Nat) : Nat × Nat :=
  let e := i * dN d + j
  let flat := flatAddr u (spaceOf (oAddr o)) (offOf (oAddr o))
  match oKind o with
  | 1 => (tileAddr u (tileKey (oAddr o) (64 * i + j)), 16)
  | 2 => (vregAddr u ((oAddr o + e / 128) * 128 + e % 128), 4)
  | 3 => (vregAddr u (oAddr o * 128 + i), 4)
  | 4 => (vregAddr u (oAddr o * 128 + j), 4)
  | 5 => elemSpan (oFmt o) (flat + i * oStride o) j
  | 6 => elemSpan (oFmt o) (flat + j * oStride o) i
  | _ => (0, 0)

/-- The byte ranges that element `e` is read from, its scale among them. -/
def elemRanges (u : Nat) (d : BitVec 512) (e : Nat) : List (Nat × Nat) :=
  (vSources d).map (fun o => elemRange u d o (e / dN d) (e % dN d)) ++
    (if vOp d = 25 then [(scaleAddr u d (e / dN d) (e % dN d), 1)] else [])

/-- The byte ranges read in the cycle at place `p`, each with its element index: 128 bytes of a lookup table in its set-up (R161), whose
errors R169 gives no element and which count as element 0 (DESIGN CHOICE), then the elements of the group. -/
def vxRanges (v : Variant) (u : Nat) (d : BitVec 512) (p : Nat) : List ((Nat × Nat) × Nat) :=
  if vOp d = 8 ∧ p < 16 then [((flatAddr u (spaceOf (oAddr (vS2 d))) (offOf (oAddr (vS2 d)) + 128 * p), 128), 0)]
  else
    let g := vxReadGroup v d p
    ((List.range (g.2 - g.1)).map (fun i => (elemRanges u d (g.1 + i)).map (fun r => (r, g.1 + i)))).flatten

/-- Meet the errors of what is read, each word once in a descriptor. -/
def vxErrors (s : State) (u : Nat) (r : VxRun) : State × VxRun :=
  if s.ecc.isEmpty then (s, r)
  else
    (((vxRanges s.variant u r.d.raw r.pos).map (fun k => (eccIn s k.1.1 k.1.2).map (fun w => (w, k.2)))).flatten).foldl (fun a w =>
      if a.2.met.contains w.1.1 then a
      else (if w.1.2 = 2 then errorRec a.1 u 2 w.1.1 r.d.cnt (dTag r.d.raw) w.2 else bumpCorr a.1 w.1.1,
        { a.2 with met := w.1.1 :: a.2.met })) (s, r)

/-! ### Values (R142 to R149) -/

/-- A source code as a value, after its NG (R142, R144). -/
def srcVal (o c : Nat) : Val := if oNG o then negVal (decodeVal (oFmt o) c) else decodeVal (oFmt o) c

/-- An XA128 source element, after its NG (R144). -/
def srcX (o c : Nat) : XEl := if oNG o then XEl.neg (XEl.load c) else XEl.load c

/-- The values of sources S1, S2 and S3 of an element as read. -/
def val1 (d : BitVec 512) (g : VElem) : Val := srcVal (vS1 d) g.c1
def val2 (d : BitVec 512) (g : VElem) : Val := srcVal (vS2 d) g.c2
def val3 (d : BitVec 512) (g : VElem) : Val := srcVal (vS3 d) g.c3

/-- A value rounded once to the destination's format with a draw (R140, R143). -/
def toDest (d : BitVec 512) (r : Nat) (v : Val) : Nat := toFormat (oFmt (vD d)) (dRnd d) r (dSat d) v

/-- An XA128 element converted to the destination's format. -/
def xToDest (d : BitVec 512) (r : Nat) (x : XEl) : Nat :=
  if oFmt (vD d) = 10 then XEl.held x else XEl.toFormat x (sext 10 (vXB d)) (oFmt (vD d)) (dRnd d) r (dSat d)

/-- Whether a compare condition holds (R146). -/
def condHolds (cond : Nat) (a b : Val) : Bool :=
  let nan := isNaN a || isNaN b
  match cond with
  | 0 => !nan && cmpVal a b == .eq
  | 1 => nan || cmpVal a b != .eq
  | 2 => !nan && cmpVal a b == .lt
  | 3 => !nan && cmpVal a b != .gt
  | 4 => !nan && cmpVal a b == .gt
  | 5 => !nan && cmpVal a b != .lt
  | _ => nan

/-! ### CVT (R148) -/

/-- A code as a copy writes it: a NaN becomes the canonical NaN. -/
def copyCode (f c : Nat) : Nat := if f ≠ 10 ∧ isNaN (decodeVal f c) then fmtNaN f else c

/-- One element of a CVT: the code written and the XA_RANGE kinds. A CVT with NG = 1 between one real format and itself is rounded, so a
negated FP4 zero is written as +0 (R70), where R73 calls the conversion exact (DESIGN CHOICE). -/
def cvtCode (d : BitVec 512) (c r : Nat) : Nat × Nat :=
  let fs := oFmt (vS1 d)
  let fd := oFmt (vD d)
  if vxCopy d then (copyCode fs c, 0)
  else if fs = 10 then (xToDest d r (srcX (vS1 d) c), 0)
  else if fd = 10 then
    let e := XEl.enter (srcVal (vS1 d) c) (sext 10 (vXB d))
    (XEl.held e.1, e.2)
  else (toDest d r (srcVal (vS1 d) c), 0)

/-! ### LUT (R154 to R157) -/

/-- floor of a finite value. -/
def floorVal (neg : Bool) (m : Nat) (e : Int) : Int :=
  let a : Int := if neg then -(m : Int) else m
  if 0 ≤ e then a * 2 ^ e.toNat else a / 2 ^ (-e).toNat

/-- The table index of a value (R155, R156, R157). -/
def lutIndex (d : BitVec 512) (v : Val) : Nat :=
  match v with
  | .nan => 0
  | .inf neg => if neg then 0 else 255
  | .fin neg m e =>
    if vLMode d = 0 then
      match addVal (.fin neg m e) (negVal (decodeVal 0 (vImm d))) with
      | .fin n k g => (max 0 (min 255 (floorVal n k (g - sext 8 (vLParam d))))).toNat
      | .nan => 0
      | .inf n => if n then 0 else 255
    else if neg ∨ m = 0 then 0
    else
      let code := toFormat 0 1 0 false (.fin false m e)
      (max 0 (min 255 (((code / 2 ^ 23 : Nat) - (vLParam d : Int)) * 16 + (bits code 19 4 : Nat)))).toNat

/-- A table entry's slope (part 0) or intercept (part 1), after the NG of S2 (log entry 26). -/
def lutWord (d : BitVec 512) (table : List Byte) (n part : Nat) : Val :=
  let v := decodeVal 0 (leAt table (8 * n + 4 * part) 4)
  if oNG (vS2 d) then negVal v else v

/-- The result of a lookup (R157). A finite x with an infinite slope or intercept follows R62, so 0 × infinity and infinity − infinity
give NaN: R157 lists no such case (DESIGN CHOICE). -/
def lutVal (d : BitVec 512) (table : List Byte) (v : Val) : Val :=
  let n := lutIndex d v
  let a := lutWord d table n 0
  let b := lutWord d table n 1
  if isNaN v || isNaN a || isNaN b then .nan
  else match v with
    | .inf neg => if isZero a then b else .inf (neg != isNeg a)
    | .nan => .nan
    | .fin _ _ _ => addVal (mulVal a v) b

/-! ### Reductions (R150 to R153) -/

/-- One level of the fixed binary tree. -/
def pairUp {α : Type} (comb : α → α → α) (pass : α → α) : List α → List α
  | [] => []
  | [a] => [pass a]
  | a :: b :: r => comb a b :: pairUp comb pass r

/-- The seven levels of the tree. -/
def treeOf {α : Type} (comb : α → α → α) (pass : α → α) (l : List α) : List α :=
  (List.range 7).foldl (fun a _ => pairUp comb pass a) l

/-- The leaves of output k, as element indices along the reduced axis. -/
def leavesOf (d : BitVec 512) (k : Nat) : List Nat :=
  if vAX d = 0 then (List.range (dN d)).map (fun j => k * dN d + j) else (List.range (dM d)).map (fun i => i * dN d + k)

/-- The root of the tree over the leaves of output k. -/
def reduceTo {α : Type} (d : BitVec 512) (got : List VElem) (k : Nat) (leaf : VElem → α) (comb : α → α → α) (pass : α → α) (zero : α) : α :=
  (treeOf comb pass ((leavesOf d k).map (fun e => leaf (got.getD e ⟨0, 0, 0, 0⟩)))).headD zero

def fpSum (a b : Val) : Val := toF32 (addVal a b)

/-! ### Quantise and dequantise (R158, R159) -/

/-- A QNT source element as a value. -/
def qntVal (d : BitVec 512) (g : VElem) : Val :=
  if oFmt (vS1 d) = 10 then XEl.val (srcX (vS1 d) g.c1) (sext 10 (vXB d)) else val1 d g

/-- The elements of the block of an element, in ascending e. -/
def blockOf (d : BitVec 512) (e : Nat) : List Nat :=
  let i := e / dN d
  let j := e % dN d
  if vAX d = 0 then ((List.range (dN d)).filter (fun k => k / 32 == j / 32)).map (fun k => i * dN d + k)
  else ((List.range (dM d)).filter (fun k => k / 32 == i / 32)).map (fun k => k * dN d + j)

/-- The scale that QNT chooses for an element's block (R48). -/
def qntScale (d : BitVec 512) (got : List VElem) (e : Nat) : Nat :=
  blockScale (oFmt (vD d)) ((blockOf d e).map (fun k => qntVal d (got.getD k ⟨0, 0, 0, 0⟩)))

/-- The code that QNT writes for an element: divided by the scale, with the INT8 factor, rounded and saturated. -/
def qntCode (d : BitVec 512) (got : List VElem) (e r : Nat) : Nat :=
  let x := qntScale d got e
  if x = 255 then 0
  else toFormat (oFmt (vD d)) (dRnd d) r true
    (mulVal (qntVal d (got.getD e ⟨0, 0, 0, 0⟩)) (.fin false 1 (127 - (x : Int) + (if oFmt (vD d) = 8 then 6 else 0))))

/-- A DQS element (R159); NG of either source negates it (R142, R144). -/
def dqsVal (d : BitVec 512) (g : VElem) : Val :=
  let v := scaledVal (oFmt (vS1 d)) g.c1 (some g.sc)
  if oNG (vS1 d) != oNG (vS2 d) then negVal v else v

/-! ### Results -/

/-- The draw of output `k`, 0 without stochastic rounding (R68, R160). -/
def drawOf (q : QDesc) (k : Nat) : Nat := if dRnd q.raw = 2 then genDraw (genAfter q.gen (k + 1)) else 0

/-- The code and the XA_RANGE kinds of output `k` of an operation, from the elements read (R143 to R159). -/
def vxCode (q : QDesc) (table : List Byte) (got : List VElem) (k : Nat) : Nat × Nat :=
  let d := q.raw
  let g := got.getD k ⟨0, 0, 0, 0⟩
  let r := drawOf q k
  let fp := fun (v : Val) => (toDest d r v, 0)
  match vOp d with
  | 0 => fp (addVal (val1 d g) (val2 d g))
  | 1 => fp (mulVal (val1 d g) (val2 d g))
  | 2 => fp (addVal (mulVal (val1 d g) (val2 d g)) (val3 d g))
  | 3 => fp (minVal (val1 d g) (val2 d g))
  | 4 => fp (maxVal (val1 d g) (val2 d g))
  | 5 => fp (if condHolds (vCond d) (val1 d g) (val2 d g) then .fin false 1 0 else .fin false 0 0)
  | 6 => fp (if isNaN (val1 d g) || isZero (val1 d g) then val3 d g else val2 d g)
  | 7 => cvtCode d g.c1 r
  | 8 => fp (lutVal d table (val1 d g))
  | 9 => fp (reduceTo d got k (val1 d) fpSum toF32 (.fin false 0 0))
  | 10 => fp (reduceTo d got k (fun g => mulVal (val1 d g) (val2 d g)) fpSum toF32 (.fin false 0 0))
  | 11 => fp (reduceTo d got k (val1 d) maxVal id (.fin false 0 0))
  | 12 => fp (reduceTo d got k (val1 d) minVal id (.fin false 0 0))
  | 16 => (xToDest d r (XEl.add (srcX (vS1 d) g.c1) (srcX (vS2 d) g.c2)), 0)
  | 17 => (xToDest d r (reduceTo d got k (fun g => srcX (vS1 d) g.c1) XEl.add id ⟨0, 0⟩), 0)
  | 24 => (qntCode d got k r, 0)
  | 25 => fp (dqsVal d g)
  | _ => (0, 0)

/-- The last element that output `k` depends on: its own, the last leaf of a reduction, or the last of its block for QNT. -/
def lastElem (d : BitVec 512) (k : Nat) : Nat :=
  if isReduce (vOp d) then (leavesOf d k).getLastD 0 else if vOp d = 24 then (blockOf d k).getLastD k else k

/-- The outputs whose results are written in the cycle at place `p`. -/
def vxOutputsAt (v : Variant) (d : BitVec 512) (p : Nat) : List Nat :=
  let g := vxWriteGroup v d p
  if isReduce (vOp d) ∨ vOp d = 24 then
    (List.range (vOutputs d)).filter (fun k => decide (g.1 ≤ lastElem d k ∧ lastElem d k < g.2))
  else (List.range (g.2 - g.1)).map (fun i => g.1 + i)

/-- The byte range of output `k` in memory, for a destination in CM. -/
def destRange (u : Nat) (d : BitVec 512) (k : Nat) : Nat × Nat :=
  let o := vD d
  let n := (destShape d).2
  match oKind o with
  | 5 => elemSpan (oFmt o) (flatAddr u 0 (offOf (oAddr o) + k / n * oStride o)) (k % n)
  | 6 => elemSpan (oFmt o) (flatAddr u 0 (offOf (oAddr o) + k % n * oStride o)) (k / n)
  | _ => (0, 0)

/-- Whether an element is the first of its block. -/
def blockHead (d : BitVec 512) (e : Nat) : Bool := if vAX d = 0 then e % dN d % 32 == 0 else e / dN d % 32 == 0

/-! ### One cycle -/

/-- A VX descriptor that starts now. -/
def vxBegin (q : QDesc) : VxRun := { d := q, noop := isNoop q.raw }

/-- The accesses of a VX descriptor in its present cycle: what it reads by operand, then what it writes. -/
def vxAccesses (v : Variant) (u : Nat) (r : VxRun) : List (Nat × Nat) :=
  let d := r.d.raw
  if r.noop ∨ vxDone v r then []
  else
    let g := vxReadGroup v d r.pos
    let es := (List.range (g.2 - g.1)).map (fun i => g.1 + i)
    let table := if vOp d = 8 ∧ r.pos < 16 then (vxRanges v u d r.pos).map (fun k => k.1) else []
    let reads := ((vSources d).filter isMem).map (fun o => es.map (fun e => elemRange u d o (e / dN d) (e % dN d)))
    let scales := if vOp d = 25 then es.map (fun e => (scaleAddr u d (e / dN d) (e % dN d), 1)) else []
    let outs := vxOutputsAt v d r.pos
    let writes := if isMem (vD d) then outs.map (destRange u d) else []
    let newSc := if vOp d = 24 then (outs.filter (blockHead d)).map (fun e => (scaleAddr u d (e / dN d) (e % dN d), 1)) else []
    (([table] ++ reads ++ [scales, writes, newSc]).map accessesOf).flatten

/-- One cycle of a VX descriptor whose accesses have been served passes: it reads its elements, or 128 bytes of its table, and has the
results of this cycle ready to be written. -/
def vxCycle (s : State) (u : Nat) (r : VxRun) : State × VxRun :=
  let d := r.d.raw
  let p := r.pos
  if r.noop ∨ vxDone s.variant r then (s, { r with pos := p + 1 })
  else
    let a := vxErrors s u r
    let s1 := a.1
    let a1 := (vxAD d).1
    let s1 := if a1 ≤ p ∧ p < a1 + vxS s.variant d then bumpUnits s1 (0x7848 + dieOf u) 3 6 2 1024 1 else s1
    let g := vxReadGroup s.variant d p
    let s1 := countAct (countAct s1 (dieOf u) 48 (dPhase d) (vxAccesses s.variant u r).length) (dieOf u) (16 + vOp d) (dPhase d) (g.2 - g.1)
    let table := if vOp d = 8 ∧ p < 16 then
        a.2.table ++ peek s (flatAddr u (spaceOf (oAddr (vS2 d))) (offOf (oAddr (vS2 d)) + 128 * p)) 128 else a.2.table
    let got := a.2.got ++ (List.range (g.2 - g.1)).map (fun i => vxRead s u d (g.1 + i))
    let outs := (vxOutputsAt s.variant d p).map (fun k => (k, vxCode r.d table got k))
    let hit := outs.find? (fun o => o.2.2 != 0)
    let heads := if vOp d = 24 then (outs.map (fun o => o.1)).filter (blockHead d) else []
    (s1, { a.2 with pos := p + 1, table := table, got := got, out := outs.map (fun o => (o.1, o.2.1)),
                    outSc := heads.map (fun e => (scaleAddr u d (e / dN d) (e % dN d), qntScale d got e)),
                    kind := outs.foldl (fun n o => n ||| o.2.2) r.kind,
                    first := if r.kind = 0 then (hit.map (fun o => o.1)).getD 0 else r.first })

/-- Write the results that a cycle of a VX descriptor has ready (R140, R158, R163); with its last ones a tile takes its tag. -/
def vxWrite (s : State) (u : Nat) (r : VxRun) : State :=
  let d := r.d.raw
  let s := r.outSc.foldl (fun t k => poke t k.1 (leBytes 1 k.2)) s
  let s := r.out.foldl (fun t c => writeElem t u (vD d) (destShape d).1 (destShape d).2 c) s
  if !r.noop && decide (r.pos = vxEnd s.variant r) then tagDest s u (vD d) (vXB d) (destShape d).1 (destShape d).2 else s

end Sys2Proof.Machine
end

