-- ==== Sys2Proof/Machine/Time.lean ====
section
/-! DEFINITION. Time within a beat: what holds a queued descriptor back in a cycle (R111, R164, R204, R235, R271, R325), the lateness and the
access slip that a cycle adds, the work of the engines and the writes that land in it, and how a command's cycle comes (R225, R236, R237). -/

namespace Sys2Proof.Machine

/-! ### The tile ownership rule and the pipeline conditions (R101, R111, R164) -/

/-- A VX descriptor reads or writes a tile. -/
def vxUsesTile (d : BitVec 512) (t : Nat) : Bool := (vUsed d).any (fun o => oKind o == 1 && oAddr o == t)

/-- The last MM in progress that is not a no-op. -/
def lastMm (x : CoreSt) : Option MmRun := (x.mrun.filter (fun r => !r.noop)).getLast?

/-- Conditions 4 and 5 of R111 hold an MM back: its main phase would begin within that of the MM before it, or that one is wide, has the
same tile and has not drained. -/
def mmPipe (x : CoreSt) (d : BitVec 512) : Bool :=
  match lastMm x with
  | none => false
  | some j => decide (j.pos < mmP j.d.raw) ||
      (!mmExact d && !mmExact j.d.raw && mmTile d == mmTile j.d.raw && !mmFresh d && !mmDone j)

/-- The tile ownership rule holds an MM back: a VX descriptor that has started and not completed uses its tile (R101). -/
def mmTileHeld (v : Variant) (x : CoreSt) (d : BitVec 512) : Bool :=
  x.vrun.any (fun r => !r.noop && !vxDone v r && vxUsesTile r.d.raw (mmTile d))

/-- What holds the head of the MXE queue back (R104, R111). -/
def mmHeld (s : State) (u : Nat) (q : QDesc) : Held :=
  let x := coreAt s u
  if absNow s < x.lastMStart then .behind
  else if !waitHolds x q.raw then .wait
  else if isNoop q.raw then .free
  else if mmPipe x q.raw then .pipe
  else if mmTileHeld s.variant x q.raw then .tile
  else .free

/-- The head of the MXE queue may start now. -/
def mmReady (s : State) (u : Nat) : Option QDesc :=
  match (coreAt s u).mq with
  | [] => none
  | q :: _ => if coreWorks s u ∧ issueOk s q ∧ mmHeld s u q = .free then some q else none

/-- Conditions 4 and 5 of R164 hold a VX descriptor back: it would stream within an earlier one's streaming, or an earlier one that has not
written everything writes what it reads or writes. -/
def vxPipe (v : Variant) (x : CoreSt) (d : BitVec 512) : Bool :=
  let run := x.vrun.filter (fun r => !r.noop)
  run.any (fun j => decide (j.pos + (vxAD d).1 < (vxAD j.d.raw).1 + vxS v j.d.raw)) ||
    run.any (fun r => !vxDone v r && (vWrites r.d.raw).any (fun w => (vReads d ++ vWrites d).any (shares w)))

/-- The tile ownership rule holds a VX descriptor back: a tile it uses is the target of an MM in progress, or of an MM that is
ready in this cycle (R101). -/
def vxTileHeld (s : State) (u : Nat) (d : BitVec 512) : Bool :=
  (coreAt s u).mrun.any (fun r => !r.noop && !mmDone r && vxUsesTile d (mmTile r.d.raw)) ||
    (match mmReady s u with
     | some q => !isNoop q.raw && vxUsesTile d (mmTile q.raw)
     | none => false)

/-- What holds the head of the VXE queue back (R137, R164). -/
def vxHeld (s : State) (u : Nat) (q : QDesc) : Held :=
  let x := coreAt s u
  if absNow s < x.lastVStart then .behind
  else if !waitHolds x q.raw then .wait
  else if isNoop q.raw then .free
  else if vxPipe s.variant x q.raw then .pipe
  else if vxTileHeld s u q.raw then .tile
  else .free

/-- What holds the head of the mover queue back (R325). -/
def moveHeld (s : State) (u : Nat) (q : QDesc) : Held :=
  let x := coreAt s u
  if absNow s < x.lastD ∨ !x.drun.all allIssued then .behind else if !waitHolds x q.raw then .wait else .free

/-- What holds the head of the sync engine's queue back (R271, R278). -/
def syncHeld (s : State) (u : Nat) (q : QDesc) : Held :=
  let x := coreAt s u
  if absNow s < x.lastY then .behind else if !waitHolds x q.raw then .wait else .free

/-- No earlier descriptor still has to signal SC56 to SC63 (R212). -/
def callClear (x : CoreSt) (cnt : Nat) : Bool := !(x.outst.any (fun o => o.sig56 && o.cnt != cnt))

/-- What holds a stream-unit descriptor back: for a STEP the partition's previous one, its wait, or for a CALL R212, which counts as a wait
too (R204, R235, R494). -/
def streamHeld (s : State) (u : Nat) (q : QDesc) : Held :=
  let x := coreAt s u
  if dOpc q.raw = 0x50 ∧ (partAt s (partOf s u)).step.isSome then .behind
  else if !waitHolds x q.raw ∨ (dOpc q.raw = 1 ∧ !callClear x q.cnt) then .wait
  else .free

/-! ### Lateness and waits of a cycle (R235, R266, R272, R328, R402) -/

/-- A cycle passes for a queue: its head is held back by its conditions, the others are behind it. -/
def lateQueue (now : Nat) (held : QDesc → Held) : List QDesc → List QDesc
  | [] => []
  | q :: r => q.lateBy now (held q) :: r.map (fun k => k.lateBy now .behind)

/-- The lateness that the present cycle adds to what a core has queued (R235). -/
def lateCore (s : State) (u : Nat) : State :=
  let x := coreAt s u
  let n := absNow s
  setCore s u { x with mq := lateQueue n (mmHeld s u) x.mq, vq := lateQueue n (vxHeld s u) x.vq, dq := lateQueue n (moveHeld s u) x.dq,
                       yq := lateQueue n (syncHeld s u) x.yq,
                       held := x.held.map (fun q => if 1 ≤ dOpc q.raw / 16 ∧ dOpc q.raw < 0x50 then q else q.lateBy n (streamHeld s u q)) }

/-- A packet that could be handed off but for its link's full queue of 64 frames (R402). -/
def packetWaits (s : State) (u : Nat) (k : Nat × Packet × Nat × Nat) : Bool :=
  decide (k.1 ≤ absNow s) && match route s (partOf s u) k.2.1.dest k.2.2.2 .plan with
    | some (some l) => decide (64 ≤ (linkAt s l).planQ.length)
    | some none => false
    | none => false

/-- Access slip of the mover in the present cycle: its next unit waits for a channel, a refresh window or a bank, and packets wait for their
links (R307, R328, R402). -/
def moverSlip (s : State) (u : Nat) : Nat :=
  let x := coreAt s u
  let unit := match x.drun.find? (fun m => !allIssued m) with
    | some m => if unitEarliest m ≤ absNow s ∧ unitHeldUp s u m (rowIndex s u m) then 1 else 0
    | none => 0
  unit + (x.packets.filter (packetWaits s u)).length

/-- Increments that wait in the canopy queue or its node in the present cycle (R272). -/
def deferred (s : State) (u : Nat) : Nat := ((coreAt s u).canQ.filter (fun r => decide (r.ready ≤ absNow s))).length

/-! ### The engines' cycle (R30, R236, R295) -/

/-- What is left of an MM's accesses, and whether it goes on: its main phase begins only after that of every earlier MM (R111). -/
def mmGate (earlier : List MmRun) (r : MmRun) : Bool := r.pos != 63 || earlier.all (fun j => j.noop || decide (64 + mmP j.d.raw ≤ j.pos))

/-- A VX descriptor streams only after every earlier one has streamed (R164). -/
def vxGate (v : Variant) (earlier : List VxRun) (r : VxRun) : Bool :=
  r.noop || r.pos + 1 != (vxAD r.d.raw).1 || earlier.all (fun j => j.noop || decide ((vxAD j.d.raw).1 + vxS v j.d.raw ≤ j.pos))

/-- Serve the accesses that wait from earlier cycles, operation by operation: for each whether it waited, and what still waits. -/
def serveOld (use : KMap Nat) (l : List (List (Nat × Nat))) : KMap Nat × List (Bool × List (Nat × Nat)) :=
  l.foldl (fun r t => if t.isEmpty then (r.1, r.2 ++ [(false, [])]) else ((serve r.1 t).1, r.2 ++ [(true, (serve r.1 t).2)])) (use, [])

/-- The present cycle passes for the MMs in progress, in order: an MM that has waited goes on when nothing waits any more, another one makes
its new accesses. `use` is what the banks have served, `done` the MMs already dealt with. -/
def mmAll (u : Nat) : State → KMap Nat → List MmRun → List (MmRun × Bool × List (Nat × Nat)) → State × KMap Nat × List MmRun
  | s, use, done, [] => (s, use, done)
  | s, use, done, (r, old, left) :: rest =>
    if !old ∧ !mmGate done r then mmAll u s use (done ++ [r]) rest
    else
      let w := if old then (use, left) else serve use (mmAccesses u r)
      if w.2.isEmpty then
        let a := mmCycle s u { r with todo := [] }
        mmAll u a.1 w.1 (done ++ [a.2]) rest
      else mmAll u (bumpSlip s u 5 w.2.length) w.1 (done ++ [{ r with todo := w.2, began := if old then r.began else absNow s }]) rest

/-- The present cycle passes for the VX descriptors in progress. -/
def vxAll (u : Nat) : State → KMap Nat → List VxRun → List (VxRun × Bool × List (Nat × Nat)) → State × KMap Nat × List VxRun
  | s, use, done, [] => (s, use, done)
  | s, use, done, (r, old, left) :: rest =>
    if !old ∧ !vxGate s.variant done r then vxAll u s use (done ++ [r]) rest
    else
      let w := if old then (use, left) else serve use (vxAccesses s.variant u r)
      if w.2.isEmpty then
        let a := vxCycle s u { r with todo := [] }
        vxAll u a.1 w.1 (done ++ [a.2]) rest
      else vxAll u (bumpSlip s u 5 w.2.length) w.1 (done ++ [{ r with todo := w.2, began := if old then r.began else absNow s }]) rest

/-- The engines of a core work for a cycle, with what the banks have then served. Accesses that wait from earlier cycles go first, those of the VXE before those of the MXE only
where they began earlier; then come the mover's and the stream unit's of this cycle, then the MXE's, then the VXE's (R30). -/
def engineServe (s : State) (u : Nat) : State × KMap Nat :=
  let x := coreAt s u
  let wait := waitingOf x
  let vFirst := match wait.head?, x.mrun.find? (fun r => !r.todo.isEmpty) with
    | some w, some r => decide (w.1 < r.began)
    | some _, none => true
    | none, _ => false
  let mt := x.mrun.map MmRun.todo
  let vt := x.vrun.map VxRun.todo
  let v0 := serveOld (if vFirst then s.bankUse else (serveOld s.bankUse mt).1) vt
  let m0 := serveOld (if vFirst then v0.1 else s.bankUse) mt
  let m := mmAll u s (if vFirst then m0.1 else v0.1) [] (List.zipWith (fun r w => (r, w.1, w.2)) x.mrun m0.2)
  let s := setCore m.1 u { coreAt m.1 u with mrun := m.2.2 }
  let v := vxAll u s m.2.1 [] (List.zipWith (fun r w => (r, w.1, w.2)) x.vrun v0.2)
  (setCore v.1 u { coreAt v.1 u with vrun := v.2.2 }, v.2.1)

/-- The engines' cycle, and what the banks have then served in it. -/
def engineCycle (s : State) (u : Nat) : State := let r := engineServe s u; { r.1 with bankUse := r.2 }

/-- The banks have room for an access of the stream unit that began in cycle `b`: it goes behind what began earlier and, when it begins now,
behind the accesses that the engines make now (R30). -/
def fetchRoom (s : State) (u b : Nat) (l : List (Nat × Nat)) : Bool :=
  bankRoom s u b 3 l && (decide (b < absNow s) || (serve (engineServe s u).2 l).2.isEmpty)

/-- The results that the VXE has ready in this cycle are written. -/
def writeResults (s : State) (u : Nat) : State :=
  let t := (coreAt s u).vrun.foldl (fun t r => vxWrite t u r) s
  setCore t u { coreAt t u with vrun := (coreAt t u).vrun.map (fun r => { r with out := [], outSc := [] }) }

/-! ### The passing of a cycle (R225) -/

/-- Nothing is in progress, queued or on its way at a core, so that a cycle changes nothing there. -/
def coreQuiet (x : CoreSt) : Bool :=
  x.mq.isEmpty && x.vq.isEmpty && x.dq.isEmpty && x.yq.isEmpty && x.held.isNone && x.mrun.isEmpty && x.vrun.isEmpty && x.drun.isEmpty &&
    x.packets.isEmpty && x.lands.isEmpty && x.canQ.isEmpty

/-- The first half of a cycle at a core, in which everything reads: signals that are due, lateness and waits are counted, and the engines
work unless the cycle is stretched or throttled. -/
def coreCycle (s : State) (u : Nat) : State :=
  let s := meetThrottle s u
  let s := settle s u (absNow s)
  if planState s (partOf s u) ≠ 3 then grantPackets s u (fun _ => true)
  else
    let s := bump s (0x7860 + dieOf u) 3 6 2 (deferred s u)
    if stillNow s u then s
    else
      let s := grantPackets (bumpSlip s u 5 (moverSlip s u)) u (fun b => decide (b < absNow s))
      grantPackets (engineCycle (lateCore s u) u) u (fun _ => true)

/-- The second half, in which everything is written: what a cycle writes is read from the next one on. -/
def coreWrites (s : State) (u : Nat) : State := landAll (if planState s (partOf s u) = 3 then writeResults s u else s) u

/-- The cores at which something is in progress. -/
def busyCores (s : State) : List Nat := (s.cores.filter (fun e => !coreQuiet e.2)).map (fun e => e.1)

/-- The present cycle ends and the next begins. -/
def nextCycle (s : State) : State :=
  let l := busyCores s
  let s := l.foldl coreWrites (l.foldl coreCycle s)
  { s with cyc := s.cyc + 1, bankUse := [] }

/-- Up to `n` cycles pass; while nothing is in progress anywhere only the count moves on. -/
def pass : Nat → State → State
  | 0, s => s
  | n + 1, s => if (busyCores s).isEmpty then { s with cyc := s.cyc + (n + 1), bankUse := [] } else pass n (nextCycle s)

/-- Throttled cycles of the present beat before cycle `c`. -/
def throttledBefore (s : State) (c : Nat) : Nat := if c = 0 then 0 else throttleCount s (c - 1)

/-- THROTTLE_CYC: the throttled cycles from cycle `a` on count once for each core of a running partition (R237, R529). -/
def countThrottle (s : State) (a : Nat) : State :=
  if rg s 0x5008 5 = 0 then s
  else (List.range (dies s.variant)).foldl (fun t x => if planState t (partLow t x) = 3 then
    bump t (0x7858 + x) 7 8 6 (192 * (throttledBefore s s.cyc - throttledBefore s a)) else t) s

/-- `n` cycles pass. -/
def elapse (s : State) (n : Nat) : State := countThrottle (pass n s) s.cyc

/-- Move to cycle `c` of the beat, never backwards and never past the beat's last cycle (log entry 2). -/
def tick (s : State) (c : Nat) : State := elapse s (min c (beatLen s - 1) - s.cyc)

/-- A core at cycle `c` of the beat, with everything settled that was due. -/
def coreTick (s : State) (u c : Nat) : State := let s := meetThrottle (tick s c) u; settle s u (absNow s)

end Sys2Proof.Machine
end

