-- ==== Sys2Proof/Machine/Stream.lean ====
section
/-! DEFINITION. The stream unit: fetching, taking and dispatching descriptors, and its own descriptors CALL, RET, SEED and HINT
(R182 to R186, R200 to R221, R525). -/

namespace Sys2Proof.Machine

/-! ### Fetch (R185, R202, R332) -/

/-- The descriptor that bytes spell. -/
def descOf (b : List Byte) : BitVec 512 := BitVec.ofNat 512 (leNat b)

/-- What remains of a position after its descriptor is fetched. -/
def advance (p : FetchPos) : List FetchPos :=
  if p.lm ∧ p.next = p.stop then [] else [{ p with next := p.next + 1 }]

/-- Fetch one descriptor into the prefetch queue, and follow a CALL into its routine, whose table entry is read then (R202, R332). -/
def fetchOne (s : State) (u : Nat) : State :=
  let x := coreAt s u
  match nextPos (segShape s (partOf s u)).2 x.fetch with
  | none => s
  | some (p, r) =>
    let a := if p.lm then lmAddr (clusterOf u) (64 * p.next) else listDesc s u p.next
    let raw := descOf (peek s a 64)
    let bad := (eccIn s a 64).any (fun e => e.2 == 2)
    let slow := p.lm || listInKM s u
    let item : PItem := { raw := raw, lm := p.lm, rep := p.rep, idx := p.next, depth := r.length,
                          ready := absNow s + (if slow then 2 else 1), bad := bad }
    let e := routineEntry s u (fld raw 256 16)
    let into : List FetchPos :=
      if dOpc raw = 1 ∧ ¬bad ∧ routineOk s u (fld raw 256 16) ∧ r.length < 8 then
        [{ lm := true, rep := 0, next := bits e 0 14, stop := bits e 0 14 + bits e 14 14 - 1 }]
      else []
    let s := setCore s u { x with pq := x.pq ++ [item], fetch := into ++ advance p ++ r,
                                  nextFetch := absNow s + (if slow then 2 else 1) }
    let s := countAct (useBanks s (accesses a 64)) (dieOf u) 48 256 (accesses a 64).length
    let s := readErrors s u 5 a 64 0 0 0
    if dOpc raw = 1 ∧ ¬bad ∧ fld raw 256 16 < 1024 then readErrors s u 5 (lmAddr (clusterOf u) (0x40 + 8 * fld raw 256 16)) 8 0 0 0 else s

/-- The stream unit fetches in this cycle: there is room in the prefetch queue, the fetch before is over, and the banks can serve it (R30,
R202). -/
def fetchesNow (s : State) (u : Nat) : Bool :=
  fetchWants s u &&
    (match fetchAddr s u with
     | some a => fetchRoom s u (coreAt s u).nextFetch (accesses a 64)
     | none => false)

/-- DESCRIPTOR_FETCH (R185, R202). -/
def execDescriptorFetch (u c : Nat) (s : State) : Host.Outcome State Fault Refusal :=
  let t := coreTick s u c
  onCore s u (if fetchesNow t u then fetchOne t u else t)

/-! ### Breaks (R220, R221, R224) -/

/-- A match is recorded: BRK_HIT holds none of this beat, or one of the same cycle on a later core (R220, R221). A match in a later beat
replaces the one that BRK_HIT still holds: R220 and R224 do not say (DESIGN CHOICE, log entry 47). -/
def breakFirst (s : State) (u : Nat) : Bool :=
  match kget s.blobs (rkey 0x7810 6) with
  | none => true
  | some old => leAt old 0 6 != s.beat || (leAt old 6 2 == s.cyc && decide (unitCode u 0 < leAt old 8 2))

/-- The state of a break match: BRK_HIT takes the first before the edge, and the partition raises its alarm; what its ALARM and
FREEZE_CAUSE name is not stated, and is a free value (log entry 6). Where several partitions run, a later match of the beat raises no alarm
in another partition, and a match of the same cycle on a lower core leaves the alarms of both: R221 does not say (DESIGN CHOICE, log entry
47). -/
def breakMatch (s : State) (u cnt tag opc depth : Nat) : State :=
  let ctl := rg s 0x7810 1
  let hit := (bit ctl 0 && rg s 0x7810 3 == cnt) || (bit ctl 1 && tag &&& rg s 0x7810 5 == rg s 0x7810 4 &&& rg s 0x7810 5)
  let watched := rg s 0x7810 2 == 0xFFFF || rg s 0x7810 2 == unitCode u 0
  if rg s 0x6020 1 = 0 ∨ !hit ∨ !watched ∨ !breakFirst s u then s
  else
    let val := leBytes 6 s.beat ++ leBytes 2 s.cyc ++ leBytes 2 (unitCode u 0) ++ leBytes 6 cnt ++ leBytes 2 tag ++
      leBytes 1 opc ++ leBytes 1 depth
    let (r, s) := draw s
    let n := r.toNat
    raiseAlarm (wb s 0x7810 6 (padTo 32 val))
      { beat := bits n 0 48, cycle := bits n 48 16, level := bits n 64 8, cls := bits n 72 8, code := bits n 80 16,
        unit := bits n 96 16, detail := leBytes 18 (n / 2 ^ 112), dies := 0, ent := none, num := 0 } (partOf s u)

/-! ### Taking a descriptor (R203, R208 to R211) -/

/-- Remove from the prefetch queue and the fetch position what was fetched for frames deeper than `n` (R202). -/
def discardDeeper (x : CoreSt) (n : Nat) : CoreSt :=
  let q := x.pq.dropWhile (fun i => decide (n < i.depth))
  { x with pq := q, fetch := if q.isEmpty then x.fetch.drop (x.fetch.length - (n + 1)) else x.fetch }

/-- Whether the head of the prefetch queue may be taken now: it belongs to the slice of the beat or to the open frame (R183, R203,
R213). -/
def headOk (s : State) (x : CoreSt) (i : PItem) : Bool :=
  decide (i.ready ≤ absNow s ∧ x.idleTill ≤ absNow s) && i.depth == x.frames.length &&
    (i.lm || (i.rep == x.sliceRep && i.idx == x.sliceIdx && decide (x.sliceIdx < x.sliceEnd)))

/-- A descriptor is taken: it is counted (R209), and the slice moves on; a full prefetch queue has room for a fetch from now on. The counter has no dictionary entry, so what the detail of its
COUNTER_SAT names is a free value (log entry 6). -/
def takeItem (s : State) (u : Nat) (i : PItem) : State :=
  let x := coreAt s u
  let s := setCore s u { x with pq := x.pq.drop 1, dcount := min (x.dcount + 1) countMax, idleTill := absNow s + 1,
                                nextFetch := if x.pq.length < 256 then x.nextFetch else max x.nextFetch (absNow s),
                                sliceIdx := if i.lm then x.sliceIdx else x.sliceIdx + 1 }
  if x.dcount + 1 = countMax then
    let (r, s) := draw s
    pushRec s (coreRec s u 0 0x0002 (leBytes 3 r.toNat)) else s

/-- The detail of ILLEGAL_DESC (R210). -/
def illegalDetail (cnt tag opc code depth : Nat) : List Byte :=
  leBytes 6 cnt ++ leBytes 2 tag ++ leBytes 1 opc ++ leBytes 1 code ++ leBytes 1 depth

/-- The cycles since a core last took a descriptor are core-cycles of that one's phase tag (R522, log entry 29). -/
def countPhase (s : State) (u : Nat) : State :=
  let x := coreAt s u
  let k := dieOf u * 256 + x.phase
  setCore { s with coreCyc := kput 0 s.coreCyc k ((kget s.coreCyc k).getD 0 + (absNow s - x.phaseFrom)) } u { x with phaseFrom := absNow s }

/-- A taken descriptor is skipped: it completes in this cycle (R210). -/
def skipDesc (s : State) (u : Nat) (d : BitVec 512) : State :=
  let x := coreAt s u
  let o : OutRec := { cnt := x.dcount, tag := dTag d, opc := dOpc d, sig56 := false }
  let x := { x with lastTaken := some o, finish := some (max (x.finish.getD 0) s.cyc) }
  setCore s u (if dOpc d = 1 then discardDeeper x x.frames.length else x)

/-- An illegal descriptor is logged and skipped; a CALL at depth 8 also runs the overflow trap (R210, R216). -/
def skipIllegal (s : State) (u : Nat) (d : BitVec 512) (code : Nat) : State :=
  let x := coreAt s u
  let s := capture s (coreRec s u 0 0x0201 (illegalDetail x.dcount (dTag d) (dOpc d) code x.frames.length))
  let s := skipDesc s u d
  if code = 0x14 then
    let s := bump (bumpSlip s u 6 16) (0x7850 + dieOf u) 2 4 1 1
    setCore s u { coreAt s u with idleTill := absNow s + 16 }
  else s

/-- Draws that a descriptor reserves (R68, R160, R320). -/
def drawsOf (d : BitVec 512) : Nat :=
  if dRnd d ≠ 2 ∨ isNoop d then 0
  else match dOpc d with
    | 0x20 => vOutputs d
    | 0x30 => dM d * dN d
    | 0x31 => dM d * dN d
    | 0x32 => dM d * dN d
    | _ => 0

/-- The tags as the stream unit sees them after a descriptor (R98, R100, R140). -/
def dispatchTag (x : CoreSt) (d : BitVec 512) : KMap (BitVec 16) :=
  if isNoop d then x.dtag
  else match dOpc d with
    | 0x10 => if fld d 398 1 = 0 then kput 0 x.dtag (fld d 396 2) (mkTag (fld d 392 4 == 10) (fld d 406 10)) else x.dtag
    | 0x20 => if oKind (vD d) = 1 then kput 0 x.dtag (oAddr (vD d)) (mkTag (oFmt (vD d) == 10) (vXB d)) else x.dtag
    | _ => x.dtag

/-- The queue of an engine descriptor: 1 MXE, 2 VXE, 3 mover, 4 sync engine, 0 a descriptor that the stream unit holds. -/
def engineOf (opc : Nat) : Nat := if 0x50 ≤ opc then 0 else opc / 16

/-- The frames that are open follow the last engine descriptor or STEP dispatched (R213). -/
def followCalls (x : CoreSt) (cnt : Nat) : List CallRec :=
  x.calls.map (fun (r : CallRec) => if x.frames.any (fun f => f.cnt == r.cnt) then { r with lastCnt := cnt, done := none } else r)

/-- Put a descriptor into its engine queue of 32 entries, or hold it until an entry frees (R117, R168). A mover descriptor keeps its entry
until the cycle after the issue of its last unit (R325). -/
def enqueue (s : State) (u : Nat) (q : QDesc) : State :=
  let x := coreAt s u
  let q := dispatched s u q
  let y := { x with held := none, idleTill := absNow s + 1, calls := followCalls x q.cnt }
  match engineOf (dOpc q.raw) with
  | 1 => if x.mq.length < 32 then setCore s u { y with mq := x.mq ++ [q] } else setCore s u { x with held := some q }
  | 2 => if x.vq.length < 32 then setCore s u { y with vq := x.vq ++ [q] } else setCore s u { x with held := some q }
  | 3 => if x.dq.length + (x.drun.filter (fun m => !allIssued m || decide (absNow s ≤ m.lastQ))).length < 32 then setCore s u { y with dq := x.dq ++ [q] } else setCore s u { x with held := some q }
  | 4 => if x.yq.length < 32 then setCore s u { y with yq := x.yq ++ [q] } else setCore s u { x with held := some q }
  | _ => setCore s u { x with held := some q }

/-- A legal descriptor: its draws are reserved, tags move on, and it goes to its queue or is held by the stream unit. -/
def acceptDesc (s : State) (u : Nat) (lm : Bool) (d : BitVec 512) : State :=
  let x := coreAt s u
  let o : OutRec := { cnt := x.dcount, tag := dTag d, opc := dOpc d, sig56 := dSV d && decide (56 ≤ dSid d) }
  let q : QDesc := dispatched s u { raw := d, cnt := x.dcount, gen := x.gen, lm := lm, depth := x.frames.length, disp := absNow s }
  let bids := if dOpc d = 0x41 ∧ ¬isNoop d then x.waitBid ++ [(fld d 256 4, x.dcount)] else x.waitBid
  enqueue (setCore s u { x with lastTaken := some o, outst := x.outst ++ [o], gen := genAfter x.gen (drawsOf d),
                                dtag := dispatchTag x d, waitBid := bids }) u q

/-- Take the head of the prefetch queue (R208 to R210, R220, R332). A descriptor matches a break in the cycle in which it is taken, also when
it is held for its queue or its wait after that; one that is skipped for an uncorrectable fetch never matches: R220 does not say (DESIGN
CHOICE, log entry 47). -/
def takeHead (s : State) (u : Nat) (i : PItem) : State :=
  let s := takeItem (countPhase s u) u i
  let s := setCore s u { coreAt s u with phase := dPhase i.raw }
  if i.bad then skipDesc s u i.raw
  else
    let r := checkDesc s u i.lm i.raw
    let x := coreAt s u
    let s := breakMatch s u x.dcount (dTag i.raw) (dOpc i.raw) x.frames.length
    match r.2 with
    | some code => skipIllegal s u i.raw code
    | none => acceptDesc s u i.lm r.1

/-- DESCRIPTOR_DISPATCH (R202, R203, R208): the held engine descriptor gets its queue entry, or the next descriptor is taken. -/
def dispatchOne (s : State) (u : Nat) : State :=
  let x := coreAt s u
  if !coreRuns s u then s
  else match x.held with
    | some q => if engineOf (dOpc q.raw) = 0 then s else enqueue s u q
    | none => match x.pq with
      | [] => s
      | i :: _ => if headOk s x i then takeHead s u i else s

def execDescriptorDispatch (u c : Nat) (s : State) : Host.Outcome State Fault Refusal :=
  onCore s u (dispatchOne (coreTick s u c) u)

/-! ### Stream-unit descriptors (R204, R212 to R215) -/

/-- The held stream-unit descriptor of an opcode that may execute now (R204). -/
def readyHeld (s : State) (u opc : Nat) : Option QDesc :=
  match (coreAt s u).held with
  | some q =>
    if dOpc q.raw = opc ∧ coreRuns s u ∧ issueOk s q ∧ waitHolds (coreAt s u) q.raw then some q else none
  | none => none

/-- A stream-unit descriptor that owes its signal in the next cycle (R204). -/
def owe (s : State) (u : Nat) (q : QDesc) : State :=
  let x := coreAt s u
  let t := absNow s
  setCore s u { x with held := none, idleTill := t + 1,
                       srun := x.srun ++ [{ d := q, fin := t + 1 }] }

/-- Slip of a stream-unit descriptor that executes now (R235). -/
def heldSlip (s : State) (u : Nat) (q : QDesc) : State := countSlip s u q 1

/-- Open the frame of a CALL (R213, R214). -/
def openFrame (s : State) (u : Nat) (q : QDesc) : State :=
  let x := coreAt s u
  let e := routineEntry s u (fld q.raw 256 16)
  let f : Frame := { cnt := q.cnt, issueBase := if dIssue q.raw = 0xFFFF then s.cyc else dIssue q.raw,
                     baseCM := fld q.raw 272 24, baseOC := fld q.raw 296 24,
                     args := (List.range 6).map (fun i => fld q.raw (320 + 32 * i) 32),
                     snaps := (List.range 8).map (fun i => (scAt x (56 + i)).toNat),
                     last := bits e 0 14 + bits e 14 14 - 1, next := bits e 0 14 }
  let r : CallRec := { cnt := q.cnt, sv := dSV q.raw, sid := dSid q.raw, sinc := dSinc q.raw, lastCnt := 0, closed := none,
                       done := some (absNow s) }
  let p := partOf s u
  let s := setCore s u { x with held := none, idleTill := absNow s + 1, frames := f :: x.frames, calls := x.calls ++ [r] }
  wr s (0x2120 + p) 9 (max (rg s (0x2120 + p) 9) (x.frames.length + 1))

/-- CALL (R204, R212, R213). -/
def execCall (u c : Nat) (s : State) : Host.Outcome State Fault Refusal :=
  let t := coreTick s u c
  onCore s u (match readyHeld t u 1 with
    | some q => if callClear (coreAt t u) q.cnt then openFrame (heldSlip t u q) u q else t
    | none => t)

/-- Close the innermost frame (R213). -/
def closeFrame (s : State) (u : Nat) : State :=
  let x := coreAt s u
  match x.frames with
  | [] => s
  | f :: r =>
    let y := { x with frames := r,
                      calls := x.calls.map (fun (k : CallRec) => if k.cnt = f.cnt then { k with closed := some (absNow s) } else k) }
    setCore s u (discardDeeper y r.length)

/-- RET (R204, R213). -/
def execRet (u c : Nat) (s : State) : Host.Outcome State Fault Refusal :=
  let t := coreTick s u c
  onCore s u (match readyHeld t u 2 with
    | some q => closeFrame (owe (heldSlip t u q) u q) u
    | none => t)

/-- Whether a CALL's signal is due (R213). -/
def callDue (now : Nat) (r : CallRec) : Bool :=
  match r.closed, r.done with
  | some a, some b => decide (max a b + 1 ≤ now)
  | some _, none => false
  | none, _ => false

/-- CALL_SIGNAL (R213). -/
def callSignalNow (s : State) (u : Nat) : State :=
  let x := coreAt s u
  match x.calls.find? (callDue (absNow s)) with
  | none => s
  | some r =>
    let s := setCore s u { x with calls := x.calls.filter (fun k => k.cnt != r.cnt) }
    let s := if r.sv then deliver s u 7 r.sid r.sinc else s
    completeAt s u r.cnt (absNow s)

def execCallSignal (u c : Nat) (s : State) : Host.Outcome State Fault Refusal :=
  let t := coreTick s u c
  onCore s u (if stillNow t u then t else callSignalNow t u)

/-- SEED (R200). -/
def execSeed (u c : Nat) (s : State) : Host.Outcome State Fault Refusal :=
  let t := coreTick s u c
  onCore s u (match readyHeld t u 3 with
    | some q =>
      let t := owe (heldSlip t u q) u q
      setCore t u { coreAt t u with gen := q.raw.extractLsb' 256 64 }
    | none => t)

/-- Remember a hint of a die: of two of one effective beat the one executed later stays, in one cycle that of the higher cluster and core
(R525). -/
def addHint (s : State) (n : Hint) : State :=
  let d := dieOf n.core
  let l := (kget s.hints d).getD []
  if l.any (fun h => h.beat == n.beat && h.cyc == n.cyc && decide (n.core < h.core)) then s
  else { s with hints := kset s.hints d (l.filter (fun h => h.beat != n.beat) ++ [n]) }

/-- HINT (R525). -/
def execHint (u c : Nat) (s : State) : Host.Outcome State Fault Refusal :=
  let t := coreTick s u c
  onCore s u (match readyHeld t u 4 with
    | some q => addHint (owe (heldSlip t u q) u q)
        { beat := (t.beat + fld q.raw 264 12 + 1) % 2 ^ 48, phase := fld q.raw 256 8, cyc := absNow t, core := u }
    | none => t)

/-! ### Background stretches (R308) -/

/-- The dies that a range of HBM touches. -/
def diesOf (s : State) (a n : Nat) : List Nat := (List.range (dies s.variant)).filter (fun d => overlaps a n (d * dieHbm) dieHbm)

/-- Cycle `c` of a beat lies in a background stretch of the logical die bound to `d`. -/
def inStretch (q : PartSt) (d c : Nat) : Bool := bit (q.bgMask.getD (q.dieMap.findIdx (fun e => e == d)) 0) (c % 2048 / 32)

/-- Cycles until a die is next in a stretch outside the refresh windows, none when it has no stretch: the pattern recurs every 2,048 cycles,
with k = 10 every beat. -/
def stretchIn (s : State) (q : PartSt) (d : Nat) : Option Nat :=
  let n := min 2048 (beatLen s)
  (List.range n).find? (fun i => !inRefresh (rg s 0x2100 1) ((s.cyc + i) % n) && inStretch q d ((s.cyc + i) % n))

end Sys2Proof.Machine
end

