-- ==== Sys2Proof/Machine/Plan.lean ====
section
/-! DEFINITION. Plan images and the loader (R175 to R190, R217 to R219, R299 to R301, R310 to R312, R354, R355, R576, R610, R616, R617,
R636), plan reset (R635 to R637, R647), arming a plan (R187) and breaks (R224). The spec gives no layout for PLAN_BIND, CORESEG, STREAMS
and the restore image; theirs are the model's (log entry 28). -/

namespace Sys2Proof.Machine

/-! ### The bytes of a partition's memories -/

/-- The number of bytes of CM, OC and KM of a die (R636). -/
def restoreBytes : Nat := 717225984

/-- CM, OC and KM of a partition's dies become zero (R299); the tiles and vector registers that are set to zero beside them hold no
error any more (R127, R331). -/
def zeroOnChip (s : State) (p : Nat) : State :=
  (partDies s p).foldl (fun t d =>
    let t := mzero (mzero (mzero t (cmAddr (192 * d) 0) (192 * 2 ^ 22)) (ocAddr (192 * d) 0) (192 * 2 ^ 16)) (kmAddr (12 * d) 0) (12 * 2 ^ 24)
    mzero (mzero t (tileAddr (192 * d) 0) (192 * 2 ^ 20)) (vregAddr (192 * d) 0) (192 * 2 ^ 14)) s

/-- The pieces of a die's memories in the restore image: byte store address, offset and length. -/
def restorePieces (d : Nat) : List (Nat × Nat × Nat) :=
  ((List.range 192).map (fun i => [(cmAddr (192 * d + i) 0, i * 0x290000, 0x280000), (ocAddr (192 * d + i) 0, i * 0x290000 + 0x280000, 0x10000)])).flatten ++
    (List.range 12).map (fun c => (kmAddr (12 * d + c) 0, 192 * 0x290000 + c * 2 ^ 24, 2 ^ 24))

/-- Where the restore image of a loaded plan starts (R636). -/
def restoreBase (x : PartSt) : Nat := x.stage + ceilDiv x.imgLen 4096 * 4096

/-- Write the restore image. -/
def saveRestore (s : State) (p : Nat) : State :=
  let b := restoreBase (partAt s p)
  (partDies s p).zipIdx.foldl (fun t d =>
    (restorePieces d.1).foldl (fun t r => mcopy t r.1 (b + d.2 * restoreBytes + r.2.1) r.2.2) t) s

/-- Restore CM, OC and KM. -/
def loadRestore (s : State) (p : Nat) : State :=
  let b := restoreBase (partAt s p)
  (partDies s p).zipIdx.foldl (fun t d =>
    (restorePieces d.1).foldl (fun t r => mcopy t (b + d.2 * restoreBytes + r.2.1) r.1 r.2.2) t) s

/-- Replace every core of a partition. -/
def mapCores (s : State) (p : Nat) (f : Nat → CoreSt → CoreSt) : State :=
  (partCores s p).foldl (fun t u => match kget t.cores u with
    | some x => setCore t u (f u x)
    | none => if f u {} = {} then t else setCore t u (f u {})) s

/-- Whether an entry belongs to a partition, one of its dies or the package. -/
def entryOf (s : State) (p idx : Nat) : Bool :=
  match (locate idx).2.1 with
  | .die => partLow s (locate idx).2.2 == p
  | .part => (locate idx).2.2 == p
  | .pkg => true
  | .link => false
  | .ctx => false
  | .rank => false
  | .self => false

/-- The entries that return to their defaults at plan load (R79, R122, R174, R223, R256, R293, R338, R417, R452, R536): of the entries per
die only those of the partition's own dies, where R79 says "all" and names no partition (DESIGN CHOICE). -/
def loadDefaults (s : State) (p : Nat) : State :=
  let s := resetEntries s (fun idx e => e.load && entryOf s p idx)
  let s := { s with rems := kclear s.rems (2 ^ 40 + 256 * p) 256 }
  (partDies s p).foldl (fun t d => wr t (0x4010 + d) 12 (rg t (0x4010 + d) 12 &&& 0x4FF)) s

/-- HBM ranges of a plan's regions. -/
def regionHbm (s : State) (p : Nat) : List (Nat × Nat) :=
  ((partCores s p).map (fun u => ((coreAt s u).regions.filter (fun r => r.size != 0 && r.space == 3)).map (fun r => (r.base, r.size)))).flatten

/-- A partition holds a loaded plan that is LOADED, RUNNING or FROZEN, or would be so again if the load in progress failed (R179). -/
def planHeld (s : State) (p : Nat) : Bool :=
  decide (2 ≤ planState s p ∧ planState s p ≤ 4) || (planState s p == 1 && match (partAt s p).loading with
    | some r => decide (2 ≤ r.prev ∧ r.prev ≤ 4)
    | none => false)

/-- HBM ranges that a plan of a partition uses: its regions, its HBMLAYOUT records. -/
def planHbm (s : State) (p : Nat) : List (Nat × Nat) := regionHbm s p ++ (partAt s p).hbmUse

/-- HBM ranges that host writes and grafts must not touch: the staging range of a load, and the image and restore image of a loaded plan,
without what lies between them (R577, R636). -/
def guardedHbm (s : State) (p : Nat) : List (Nat × Nat) :=
  (match (partAt s p).loading with
    | some r => [(r.addr, ceilDiv r.len 4096 * 4096 + restoreBytes * (partDies s p).length)]
    | none => []) ++
    (if (partAt s p).guarded then
      [((partAt s p).stage, (partAt s p).imgLen), (restoreBase (partAt s p), restoreBytes * (partDies s p).length)] else [])

/-- Whether a range meets one of a list. -/
def meetsAny (a n : Nat) (l : List (Nat × Nat)) : Bool := l.any (fun r => overlaps a n r.1 r.2)

/-- A plan is no longer loaded (R409, R637, R640). -/
def unloadPlan (s : State) (p : Nat) : State :=
  setPart (wr (setPlanState s p 0) (0x2120 + p) 5 0) p { partAt s p with guarded := false }

/-- A configuration write that a loaded plan was checked against (R409, R415): LOADED or COMPLETE becomes NONE. -/
def dropPlan (s : State) (p : Nat) : State := if planState s p = 2 ∨ planState s p = 5 then unloadPlan s p else s

/-! ### The image (R175 to R177) -/

/-- A section: type, offset, size. -/
abbrev Sect := Nat × Nat × Nat

def imgK (img : List Byte) : Nat := leAt img 16 1
def imgReserve (img : List Byte) : Nat := leAt img 18 2
def imgFirst (img : List Byte) : Nat := leAt img 20 2
def imgLast (img : List Byte) : Nat := leAt img 22 2
def imgGrove (img : List Byte) : Nat := leAt img 24 2
def imgSegs (img : List Byte) : Nat := leAt img 26 2

/-- The section directory. -/
def sections (img : List Byte) : List Sect :=
  (List.range (leAt img 6 2)).map (fun i => (leAt img (64 + 16 * i) 2, leAt img (72 + 16 * i) 8, leAt img (68 + 16 * i) 4))

/-- The first section of a type. -/
def sect (img : List Byte) (ty : Nat) : Option Sect := (sections img).find? (fun x => x.1 == ty)

/-- The body of a section, empty when it is absent. -/
def body (img : List Byte) (ty : Nat) : List Byte :=
  match sect img ty with
  | some x => (img.drop x.2.1).take x.2.2
  | none => []

/-- The header is well formed (R175, R230). -/
def headerOk (img : List Byte) (len : Nat) : Bool :=
  let k := imgK img
  decide (64 ≤ len) && leAt img 0 4 == 0x34495054 && leAt img 4 2 == 1 && decide (9 ≤ leAt img 6 2 ∧ leAt img 6 2 ≤ 12) &&
    leAt img 8 8 == len && decide (10 ≤ k ∧ k ≤ 16) && leAt img 17 1 == 0 && leAt img 28 36 == 0 &&
    decide (ceilDiv (2 ^ k) 50 ≤ imgReserve img ∧ imgReserve img ≤ 2 ^ k / 8) && decide (imgFirst img ≤ imgLast img) &&
    decide (1 ≤ imgGrove img ∧ imgGrove img ≤ 32768) && decide (1 ≤ imgSegs img ∧ imgSegs img ≤ 4096)

/-- No two ranges of a list of (start, length) overlap. -/
def disjoint : List (Nat × Nat) → Bool
  | [] => true
  | a :: r => r.all (fun b => !overlaps a.1 a.2 b.1 b.2) && disjoint r

/-- The directory is well formed (R176, R177). A body of SIZE 0 whose offset lies strictly inside another body overlaps it: R176 does not
say (DESIGN CHOICE). -/
def directoryOk (img : List Byte) (len : Nat) : Bool :=
  let l := sections img
  let top := 64 + 16 * leAt img 6 2
  l.all (fun x => decide (1 ≤ x.1 ∧ x.1 ≤ 12 ∧ top ≤ x.2.1 ∧ x.2.1 + x.2.2 ≤ len) && x.2.1 % 64 == 0) &&
    (List.range l.length).all (fun i => leAt img (66 + 16 * i) 2 == 0) &&
    disjoint (l.map (fun x => (x.2.1, x.2.2))) &&
    [1, 2, 3, 4, 5, 6, 7, 8, 12].all (fun t => (l.filter (fun x => x.1 == t)).length == 1) &&
    [9, 10, 11].all (fun t => decide ((l.filter (fun x => x.1 == t)).length ≤ 1))

/-- DIES of CAPS (R616). -/
def capDies (img : List Byte) : Nat := leAt (body img 1) 8 1

/-- The sizes of the fixed sections, CAPS and the segment table (R180, R181, R616, R617). -/
def fixedOk (img : List Byte) : Bool :=
  let c := body img 1
  let n := imgSegs img
  let seg := body img 3
  let ds := capDies img
  c.length == 64 && (ds == 1 || ds == 2 || ds == 4) && leAt c 9 55 == 0 && (body img 2).length == 48 && seg.length == 16 * n &&
    (List.range n).all (fun i => leAt seg (16 * i) 4 != 0 && leAt seg (16 * i + 4) 4 != 0 && leAt seg (16 * i + 8) 8 == 0) &&
    decide (((List.range n).map (fun i => leAt seg (16 * i) 4 * leAt seg (16 * i + 4) 4)).sum ≤ countMax) &&
    (body img 4).length == 12 * ds * (4 + 128 * n) && (body img 6).length == 192 * ds * 1024 && (body img 7).length == 192 * ds * 8 &&
    (body img 8).length % 16 == 0 && (body img 12).length == 112

/-- The digest's message: every byte but those of the SIGNATURE section (R178). -/
def digestMsg (img : List Byte) : List Byte :=
  match sect img 12 with
  | some x => img.take x.2.1 ++ img.drop (x.2.1 + x.2.2)
  | none => img

/-- A key slot of OPERATOR_KEYS. -/
def operatorKey (s : State) (i : Nat) : List Byte := ((rb s 0x6010 2).drop (97 * i)).take 97

/-- The SIGNATURE section names a key that is registered, and its signature over the plan digest verifies (R178, R576). An empty entry is
no point of the curve. -/
def sigSectionOk (s : State) (p : Nat) (img : List Byte) : Bool :=
  let g := body img 12
  let ok := fun (key : List Byte) => ecVerify key (sha384 (digestMsg img)) ((g.drop 16).take 96)
  leAt g 2 14 == 0 &&
  match leAt g 0 1 with
  | 0 => leAt g 1 1 == 0 && ok (rb s (0x6040 + p) 3)
  | 1 => decide (leAt g 1 1 < 8) && ok (operatorKey s (leAt g 1 1))
  | _ => false

/-! ### Placement records (R300, R301) -/

/-- A record of STREAMS or INITDATA: space, die, cluster, core, address and data. -/
structure PRec where
  space : Nat
  die   : Nat
  clus  : Nat
  core  : Nat
  addr  : Nat
  data  : List Byte
  deriving DecidableEq, Repr

/-- The records of a section, none when one is malformed. -/
def records (ds : Nat) : Nat → List Byte → Option (List PRec)
  | 0, l => if l.isEmpty then some [] else none
  | n + 1, l =>
    if l.isEmpty then some []
    else
      let h := leAt l 0 16
      let r : PRec := { space := bits h 48 4, die := bits h 42 2, clus := bits h 38 4, core := bits h 34 4, addr := bits h 56 40,
                        data := (l.drop 16).take (bits h 96 32) }
      let full := 16 + ceilDiv (bits h 96 32) 16 * 16
      let km := r.space = 2
      if l.length < full ∨ bits h 96 32 = 0 ∨ bits h 0 34 ≠ 0 ∨ bits h 44 4 ≠ 0 ∨ bits h 52 4 ≠ 0 ∨ 2 < r.space ∨ ds ≤ r.die ∨ 12 ≤ r.clus ∨
          (km ∧ (r.die ≠ 0 ∨ r.clus ≠ 0 ∨ r.core ≠ 0 ∨ ds ≤ bits r.addr 28 2 ∨ 12 ≤ bits r.addr 24 4 ∨ 2 ^ 30 ≤ r.addr ∨
            2 ^ 24 < r.addr % 2 ^ 24 + r.data.length)) ∨
          (¬km ∧ spaceSize r.space < r.addr + r.data.length) then none
      else (records ds n (l.drop full)).map (fun q => r :: q)

def recordsOf (ds : Nat) (l : List Byte) : Option (List PRec) := records ds (l.length / 16 + 1) l

/-- The byte store address of a record through the die map. -/
def PRec.dest (dm : List Nat) (r : PRec) : Nat :=
  if r.space = 2 then kmAddr (dm.getD (bits r.addr 28 2) 0 * 12 + bits r.addr 24 4) (r.addr % 2 ^ 24)
  else
    let u := (dm.getD r.die 0 * 12 + r.clus) * 16 + r.core
    if r.space = 0 then cmAddr u r.addr else ocAddr u r.addr

/-! ### HBMLAYOUT and LINKSLOTS (R310 to R312, R354, R355) -/

/-- Record `i` of HBMLAYOUT as a number. -/
def hbmRec (h : List Byte) (i : Nat) : Nat := leAt h (64 + 32 * i) 32
def hrKind (r : Nat) : Nat := bits r 0 8
def hrDie (r : Nat) : Nat := bits r 10 2
def hrOff (r : Nat) : Nat := bits r 88 40
def hrLen (r : Nat) : Nat := bits r 128 40
def hrSrc (r : Nat) : Nat := bits r 192 64

def hbmRecs (h : List Byte) : List Nat := (List.range (leAt h 32 2)).map (hbmRec h)

/-- Stretches that a BG_MASK must not name (R304, R312). -/
def bgBanned (k : Nat) : Nat := if k = 10 then 2 ^ 64 - 2 ^ 28 else 15 * 2 ^ 60

/-- HBMLAYOUT is well formed. -/
def hbmOk (img : List Byte) (len : Nat) : Bool :=
  let h := body img 9
  if (sect img 9).isNone then true
  else
    let ds := capDies img
    let l := hbmRecs h
    decide (64 ≤ h.length) && h.length == 64 + 32 * leAt h 32 2 && leAt h 34 30 == 0 &&
      (List.range 4).all (fun i => if i < ds then leAt h (8 * i) 8 &&& bgBanned (imgK img) == 0 else leAt h (8 * i) 8 == 0) &&
      l.all (fun r => (hrKind r == 1 || (hrKind r == 2 && hrSrc r == 0)) && bits r 8 2 == 0 && bits r 12 76 == 0 && bits r 168 24 == 0 &&
        hrLen r % 64 == 0 && hrOff r % 64 == 0 && hrLen r != 0 && decide (hrDie r < ds ∧ hrOff r + hrLen r ≤ dieHbm) &&
        (hrKind r == 2 || decide (hrSrc r + hrLen r ≤ len))) &&
      disjoint (l.map (fun r => (hrDie r * 2 ^ 40 + hrOff r, hrLen r)))

/-- Where a record lies in HBM. -/
def hrDest (dm hb : List Nat) (r : Nat) : Nat := hb.getD (dm.getD (hrDie r) 0) 0 + hrOff r

/-- A LINKSLOTS record: die, link, slots and bitmap; none when it is malformed. -/
def slotRecs (k ds : Nat) : Nat → List Byte → Option (List (Nat × Nat × Nat))
  | 0, l => if l.isEmpty then some [] else none
  | n + 1, l =>
    let h := leAt l 0 16
    let ns := 2 ^ k / 32
    let full := 16 + ceilDiv (ceilDiv ns 8) 16 * 16
    let map := leAt l 16 (full - 16)
    let zeros := ((List.range ns).filter (fun i => !bit map i)).length
    let runs := (List.range ns).all (fun i => (List.range 65).any (fun j => !bit map ((i + j) % ns)))
    if l.length < full ∨ bits h 64 64 ≠ 0 ∨ bits h 6 26 ≠ 0 ∨ bits h 32 16 ≠ ns ∨ bits h 48 16 ≠ zeros ∨ ds ≤ bits h 4 2 ∨
        2 ^ ns ≤ map ∨ !runs ∨ zeros < ceilDiv ns 50 ∨ ns / 8 < zeros then none
    else (slotRecs k ds n (l.drop full)).map (fun q => (bits h 4 2, bits h 0 4, map) :: q)

/-- The records of LINKSLOTS. -/
def linkSlots (img : List Byte) : Option (List (Nat × Nat × Nat)) :=
  let b := body img 10
  if (sect img 10).isNone then some []
  else if b.length < 16 ∨ leAt b 2 14 ≠ 0 then none
  else match slotRecs (imgK img) (capDies img) (leAt b 0 2) (b.drop 16) with
    | some l => if (l.map (fun r => (r.1, r.2.1))).Nodup then some l else none
    | none => none

/-! ### The binding table (R217) -/

/-- PLAN_BIND, padded to its full length. -/
def bindOf (s : State) (p : Nat) : List Byte := padTo 4096 (rb s (0x2120 + p) 3)

def bindRank (b : List Byte) : Nat := leAt b 0 2
def bindSlot (b : List Byte) (cl i : Nat) : Nat := leAt b (2 + 16 * cl + i) 1
def bindDies (b : List Byte) (ds : Nat) : List Nat := (List.range ds).map (fun i => leAt b (770 + i) 1)
def bindHbm (b : List Byte) : List Nat := (List.range 4).map (fun i => leAt b (774 + 8 * i) 8)

/-- Context slots: the context id, or 0xFF for none. -/
def bindCtx (b : List Byte) : List Nat :=
  (List.range 64).map (fun i => if leAt b (807 + 2 * i) 1 = 0 then 0xFF else leAt b (806 + 2 * i) 1)

/-- The HBM range of a GRAFTED context (R458, R464). -/
def ctxRange (s : State) (c : Nat) : Nat × Nat := (bits (rg s (0x4440 + c) 10) 0 40, leAt (rb s (0x4440 + c) 2) 8 8)

/-- A context slot of the binding table that names a context above 63 or one that is not GRAFTED (R217). -/
def bindCtxBad (s : State) (b : List Byte) (i : Nat) : Bool :=
  leAt b (807 + 2 * i) 1 != 0 && (decide (63 < leAt b (806 + 2 * i) 1) || rg s (0x4440 + leAt b (806 + 2 * i) 1) 1 != 4)

/-- The die map names a die outside the partition or one die twice (R217). -/
def bindDiesBad (s : State) (p : Nat) (dm : List Nat) : Bool :=
  dm.any (fun d => !(partDies s p).contains d) || !decide dm.Nodup

/-- An HBM base that does not lie on its die (R217). -/
def bindHbmBad (b : List Byte) (d : Nat) : Bool := (bindHbm b).getD d 0 / dieHbm != d

/-- As many dies as an image has: those of the partition, and any others where the image has more (R5, R617). -/
def dieStock (s : State) (p ds : Nat) : List Nat :=
  (partDies s p ++ (List.range 4).filter (fun d => !(partDies s p).contains d)).take ds

/-- The dies that an image's regions may lie on: the partition's, and where the image has more those that stand in for them. -/
def dieHome (s : State) (p ds : Nat) : List Nat := if ds ≤ (partDies s p).length then partDies s p else dieStock s p ds

/-- The binding table with every part that holds an error replaced by one that holds none: dies in order, the first byte of the die, no
context, the first rank. RANGE causes are tested with it, because an error of the table never gives RANGE and hides no RANGE cause that
does not rest on it (R179, R217; log entry 28). -/
def mendBind (s : State) (p : Nat) (img : List Byte) (b : List Byte) : List Byte :=
  let ds := capDies img
  let b := if bindDiesBad s p (bindDies b ds) then patch b 770 ((dieStock s p ds).map (BitVec.ofNat 8)) else b
  let b := (bindDies b ds).foldl (fun b d => if d < 4 ∧ bindHbmBad b d then patch b (774 + 8 * d) (leBytes 8 (d * dieHbm)) else b) b
  let b := (List.range 64).foldl (fun b i => if bindCtxBad s b i then patch b (807 + 2 * i) [0] else b) b
  if bindRank b < imgFirst img ∨ imgLast img < bindRank b then patch b 0 (leBytes 2 (imgFirst img)) else b

/-- An error of the binding table. -/
def bindBad (s : State) (p : Nat) (img : List Byte) : Bool :=
  let b := bindOf s p
  let ds := capDies img
  let dm := bindDies b ds
  (List.range 64).any (bindCtxBad s b) ||
    (partDies s p).any (fun d => (List.range 12).any (fun c =>
      let l := (List.range 16).map (bindSlot b (12 * d + c))
      !decide l.Nodup || l.any (fun n => decide (16 < n) || !bit (rtab s 0x1100 5 4 (12 * d + c)) n))) ||
    bindDiesBad s p dm || dm.any (bindHbmBad b) ||
    (List.range (imgLast img + 1 - imgFirst img)).any (fun i => !bit (rankEntry s p (imgFirst img + i)) 31)

/-! ### Relocation (R218, R219) -/

def relocs (img : List Byte) : List Nat := (List.range ((body img 8).length / 16)).map (fun i => leAt (body img 8) (16 * i) 16)

/-- The STREAMS or REGIONS section that holds a whole field. -/
def relocSect (img : List Byte) (r : Nat) : Option Sect :=
  let t := bits r 64 64
  let e := t + ceilDiv (bits r 16 16 + bits r 8 8) 8
  (sections img).find? (fun x => (x.1 == 5 || x.1 == 6) && decide (x.2.1 ≤ t ∧ e ≤ x.2.1 + x.2.2))

/-- A record is well formed. -/
def relocOk (img : List Byte) (r : Nat) : Bool :=
  let ty := bits r 0 8
  let w := bits r 8 8
  let arg := bits r 32 32
  decide (1 ≤ ty ∧ ty ≤ 4 ∧ 1 ≤ w ∧ w ≤ 48) && bits r 64 64 % 8 == 0 && decide (bits r 16 16 + w ≤ 512) && (ty != 3 || w == 2) &&
    (ty != 1 || decide (arg < capDies img)) && (ty != 2 || decide (arg < 64)) && (relocSect img r).isSome

/-- A record whose patch rests on a part of the binding table that holds an error, or on a context slot that binds no context: what it
would give is open, so it gives no RANGE cause (R217). `b` is the table as written. -/
def relocOpen (s : State) (p : Nat) (b : List Byte) (img : List Byte) (r : Nat) : Bool :=
  let arg := bits r 32 32
  let ds := capDies img
  let dm := bindDies b ds
  match bits r 0 8 with
  | 1 => bindDiesBad s p dm || bindHbmBad b (dm.getD arg 0)
  | 2 => bindCtxBad s b arg || (bindCtx b).getD arg 0xFF == 0xFF
  | 3 => bindDiesBad s p dm
  | _ => decide (bindRank b < imgFirst img ∨ imgLast img < bindRank b)

/-- The 16-byte entry of the image that a record patches. -/
def relocEntry (r : Nat) : Nat := (bits r 64 64 + bits r 16 16 / 8) / 16

/-- Apply one record to the image; none when an add carries out of its width, or a die field names no logical die. An open record keeps
what its width holds. -/
def relocate (s : State) (b : List Byte) (open_ : Nat → Bool) (img : List Byte) (r : Nat) : Option (List Byte) :=
  let ty := bits r 0 8
  let w := bits r 8 8
  let o := bits r 16 16
  let arg := bits r 32 32
  let t := bits r 64 64
  let ds := capDies img
  let n := ceilDiv (o + w) 8
  let old := leAt img t n
  let f := bits old o w
  let new := match ty with
    | 1 => f + (bindHbm b).getD ((bindDies b ds).getD arg 0) 0
    | 2 => f + if (bindCtx b).getD arg 0xFF < 64 then (ctxRange s ((bindCtx b).getD arg 0)).1 else 0
    | 3 => (bindDies b ds).getD f 4
    | _ => f + bindRank b * arg
  let new := if open_ r then new % 2 ^ w else new
  if 2 ^ w ≤ new then none else some (patch img t (leBytes n (old - f * 2 ^ o + new * 2 ^ o)))

/-- Apply all records in order. -/
def relocateAll (s : State) (b : List Byte) (open_ : Nat → Bool) : List Nat → List Byte → Option (List Byte)
  | [], img => some img
  | r :: rs, img => match relocate s b open_ img r with
    | some i => relocateAll s b open_ rs i
    | none => none

/-! ### Regions and lists after relocation (R182 to R184, R188, R189, R333, R636) -/

/-- A region table entry's 16 bytes. -/
def regionOfBytes (n : Nat) : Region :=
  { space := bits n 0 4, base := bits n 16 40, size := bits n 56 40, rd := bit n 5, wr := bit n 6, str := bit n 7, segFirst := bits n 96 16,
    segLast := bits n 112 16 }

/-- The region table of the `i`-th logical core of the image. -/
def regionTable (img : List Byte) (i : Nat) : List Region :=
  let t := ((body img 6).drop (1024 * i)).take 1024
  (List.range 64).map (fun j => regionOfBytes (leAt t (16 * j) 16))

/-- Reserved bits of a core's region entries are 0. -/
def regionBitsOk (img : List Byte) (i : Nat) : Bool :=
  let t := ((body img 6).drop (1024 * i)).take 1024
  (List.range 64).all (fun j => bits (leAt t (16 * j) 16) 4 1 == 0 && bits (leAt t (16 * j) 16) 8 8 == 0)

/-- The form of a region entry is acceptable (R189). -/
def regionFormOk (r : Region) : Bool :=
  decide (r.space ≤ 4) && !(r.space == 4 && r.wr) && !(r.str && r.space != 0 && r.space != 2) &&
    !(r.str && decide (r.segLast < r.segFirst))

/-- The place of a region entry is acceptable, with its die among `home` (R189, R297, R333). -/
def regionPlaceOk (home : List Nat) (r : Region) : Bool :=
  if r.space = 2 then decide (r.base < 2 ^ 30 ∧ bits r.base 24 4 < 12 ∧ r.base % 2 ^ 24 + r.size ≤ 2 ^ 24) && home.contains (bits r.base 28 2)
  else if r.space = 3 then decide (r.base % dieHbm + r.size ≤ dieHbm) && home.contains (r.base / dieHbm)
  else decide (r.base + r.size ≤ spaceSize r.space)

/-- The core of the package that an image's `i`-th logical core is. -/
def imageCore (dm : List Nat) (i : Nat) : Nat := dm.getD (i / 192) 0 * 192 + i % 192

/-- KM offset of the core segment table of the `c`-th cluster of the image, and its entries. -/
def coresegOff (img : List Byte) (c : Nat) : Nat := leAt (body img 4) (4 * c) 4
def coresegTab (img : List Byte) (c : Nat) : List Byte :=
  ((body img 4).drop (48 * capDies img + 128 * imgSegs img * c)).take (128 * imgSegs img)

/-- The core segment entries are well formed where a list is named (R182, R184): the list lies in one stream region of the segment.
Of an entry with LIST_LEN 0 only the reserved bits are checked, not LIST_ADDR: R182 does not say (DESIGN CHOICE). -/
def coresegOk (img : List Byte) (dm : List Nat) (i : Nat) : Bool :=
  let t := coresegTab img (i / 16)
  let regs := regionTable img i
  let seg := body img 3
  (List.range (imgSegs img)).all (fun sg =>
    let e := leAt t (8 * (16 * sg + i % 16)) 8
    let len := bits e 40 24
    let a := bits e 16 24
    let km := bit e 0
    let n := ceilDiv (4 * leAt seg (16 * sg) 4) 64 * 64 + 64 * len
    let base := if km then (clusterOf (imageCore dm i) / 12 * 2 ^ 28 + clusterOf (imageCore dm i) % 12 * 2 ^ 24) + a else a
    bits e 1 15 == 0 && (len == 0 || (a % 64 == 0 &&
      regs.any (fun r => r.str && r.size != 0 && r.space == (if km then 2 else 0) && decide (r.base ≤ base ∧ base + n ≤ r.base + r.size) &&
        decide (r.segFirst ≤ sg ∧ sg ≤ r.segLast)))))

/-- FIRST entries start at 0, do not decrease and do not exceed LIST_LEN (R183). The bytes that pad the table are not looked at: R183 gives
zeros and names nothing that follows from others (DESIGN CHOICE, log entry 47). -/
def firstOk (len : Nat) (l : List Nat) : Bool :=
  l.headD 0 == 0 && (l.zip (l.drop 1)).all (fun p => decide (p.1 ≤ p.2)) && l.all (fun v => decide (v ≤ len))

/-- The byte that the records of an image place at a byte store address, the last record's where several hold it. -/
def placedByte (dm : List Nat) (st : List PRec) (a : Nat) : Option Byte :=
  match st.reverse.find? (fun r => decide (r.dest dm ≤ a ∧ a < r.dest dm + r.data.length)) with
  | some r => r.data[a - r.dest dm]?
  | none => none

/-- The beat tables that the loader copies itself, in one record or several, are well formed (R184). -/
def tablesOk (img : List Byte) (dm : List Nat) (st : List PRec) (i : Nat) : Bool :=
  let t := coresegTab img (i / 16)
  let u := imageCore dm i
  let seg := body img 3
  (List.range (imgSegs img)).all (fun sg =>
    let e := leAt t (8 * (16 * sg + i % 16)) 8
    let n := leAt seg (16 * sg) 4
    let a := if bit e 0 then kmAddr (clusterOf u) (bits e 16 24) else cmAddr u (bits e 16 24)
    bits e 40 24 == 0 || match (List.range (4 * n)).mapM (fun j => placedByte dm st (a + j)) with
      | none => true
      | some l => firstOk (bits e 40 24) ((List.range n).map (fun j => leAt l (4 * j) 4)))

/-- Where tables and lists of the image lie: core segment tables, STREAMS records. -/
def placedRanges (img : List Byte) (dm : List Nat) (st : List PRec) : List (Nat × Nat) :=
  (List.range (12 * capDies img)).map (fun c => (kmAddr (dm.getD (c / 12) 0 * 12 + c % 12) (coresegOff img c), 128 * imgSegs img)) ++
    st.map (fun r => (r.dest dm, r.data.length))

/-- What a loaded plan keeps in HBM: the image and the restore image (R636). -/
def imageHbm (s : State) (p : Nat) (r : LoadReq) : List (Nat × Nat) :=
  [(r.addr, r.len), (r.addr + ceilDiv r.len 4096 * 4096, restoreBytes * (partDies s p).length)]

/-- Region entry `j` of logical core `i` of the image: its form, and unless an open record patches it its place, outside the image and the
restore image. -/
def regionOk (img : List Byte) (home : List Nat) (own : List (Nat × Nat)) (open_ : List Nat) (i j : Nat) : Bool :=
  let r := (regionTable img i).getD j (regionOfBytes 0)
  regionFormOk r && (open_.contains (match sect img 6 with
      | some x => (x.2.1 + 1024 * i) / 16 + j
      | none => 0) ||
    (regionPlaceOk home r && !(r.size != 0 && r.space == 3 && meetsAny r.base r.size own)))

/-- The RANGE causes that depend on the bindings: relocated regions, lists, records and the staging range. `open_` are the 16-byte entries
that open records patch, `hbOpen` the dies whose HBM base is open. -/
def placedOk (s : State) (p : Nat) (img : List Byte) (dm hb : List Nat) (own : List (Nat × Nat)) (open_ hbOpen : List Nat) : Bool :=
  let ds := capDies img
  let cores := List.range (192 * ds)
  let hrs := hbmRecs (body img 9)
  match recordsOf ds (body img 5), recordsOf ds (body img 11) with
  | some st, some ini =>
    let iniR := ini.map (fun r => (r.dest dm, r.data.length))
    cores.all (fun i => regionBitsOk img i && (List.range 64).all (regionOk img (dieHome s p ds) own open_ i)) &&
    cores.all (fun i => coresegOk img dm i && tablesOk img dm (st ++ ini) i) &&
    (List.range (12 * ds)).all (fun c => decide (coresegOff img c + 128 * imgSegs img ≤ 2 ^ 24)) &&
    disjoint iniR && iniR.all (fun a => (placedRanges img dm st).all (fun b => !overlaps a.1 a.2 b.1 b.2)) &&
    hrs.all (fun r => decide (hrDest dm hb r / dieHbm = dm.getD (hrDie r) 0 ∧ hrDest dm hb r % dieHbm + hrLen r ≤ dieHbm) &&
      (hbOpen.contains (dm.getD (hrDie r) 0) || !meetsAny (hrDest dm hb r) (hrLen r) own))
  | _, _ => false

/-! ### Consistency with the module (row 4 of R179) -/

/-- A bundle that R387 refuses. -/
def bundleBad (s : State) (p dirn : Nat) : Bool :=
  let l := bundleLinks s p dirn
  let ext := bits (rg s 0x3400 2) (6 * (dirn / 2)) 6 + 1
  let mine := myCoord s
  match l with
  | [] => false
  | a :: _ =>
    let ser := fun (n : Nat) => ((linkAt s n).peer.map Ident.serial).getD []
    l.any (fun n => linkState s n != 3 || rg s (0x3000 + 16 * n) 2 != rg s (0x3000 + 16 * a) 2 ||
      rg s (0x3000 + 16 * n) 3 != rg s (0x3000 + 16 * a) 3 || ser n != ser a ||
      match (linkAt s n).peer with
      | none => true
      | some q => !q.valid || (List.range 4).any (fun dim =>
          let me := bits mine (6 * dim) 6
          let its := bits q.coord (6 * dim) 6
          if dim ≠ dirn / 2 then its != me
          else if dirn % 2 = 0 then its % ext != (me + 1) % ext else (its + 1) % ext != me % ext))

/-- STATE causes that do not come from an error of the binding table (R5, R71, R179, R231, R285, R312, R355, R387, R408, R425, R617). A
CONTEXT record of a slot that binds no context gives STATE, as an error of the table does: no rule names a status (DESIGN CHOICE, log entry
47). -/
def stateBad (s : State) (p : Nat) (img : List Byte) (slots : List (Nat × Nat × Nat)) : Bool :=
  let b := bindOf s p
  let g := imgGrove img
  let c := body img 1
  let canopy := [rg s (0x2210 + p) 2, rg s (0x2210 + p) 3].filter (fun l => decide (l < 64)) ++
    (List.range 64).filter (fun n => bit (rg s (0x2210 + p) 4) n)
  let dm := bindDies b (capDies img)
  leAt c 0 8 &&& leAt (rb s 0x1000 10) 0 8 != leAt c 0 8 || capDies img != (partDies s p).length ||
    (List.range (192 * capDies img)).any (fun i => leAt (body img 7) (8 * i) 8 == 0) ||
    body img 2 != rb s 0x2128 1 || imgK img != rg s 0x2100 1 || decide (imgReserve img < rg s 0x2000 8) ||
    decide (bindRank b < imgFirst img ∨ imgLast img < bindRank b) ||
    (g == 1 && rg s (0x2210 + p) 1 == 0) || (decide (1 < g) && rg s (0x2210 + p) 1 == 0 && rg s (0x2210 + p) 2 == 255) ||
    canopy.any (fun l => rg s (0x3000 + 16 * l) 2 == 1) ||
    (List.range 8).any (bundleBad s p) || (decide (1 < g) && !bit (myCoord s) 31) || decide (rg s (0x3410 + p) 7 < g) ||
    (List.range g).any (fun r => !bit (rankEntry s p r) 31) || bits (rankEntry s p (bindRank b)) 0 24 != bits (myCoord s) 0 24 ||
    (decide (1 < g) && timingState s != 3) ||
    slots.any (fun r => linkState s (16 * dm.getD r.1 0 + r.2.1) != 3) ||
    (hbmRecs (body img 9)).any (fun r => (bindCtx b).any (fun x => decide (x < 64) &&
      overlaps (hrDest dm (bindHbm b) r) (hrLen r) (ctxRange s x).1 (ctxRange s x).2)) ||
    (relocs img).any (fun r => bits r 0 8 == 2 && (bindCtx b).getD (bits r 32 32) 0xFF == 0xFF)

/-! ### The load -/

/-- The staging range lies in the partition's HBM; one that does not is never read (R333, R610). -/
def stageInside (s : State) (p : Nat) (r : LoadReq) : Bool :=
  decide (p * dieHbm ≤ r.addr ∧
    r.addr + ceilDiv r.len 4096 * 4096 + restoreBytes * (partDies s p).length ≤ (p + (partDies s p).length) * dieHbm)

/-- The status of a load and the relocated image (R179). -/
def loadStatus (s : State) (p : Nat) (r : LoadReq) (img : List Byte) : Status × List Byte :=
  let formOk := headerOk img r.len && directoryOk img r.len && fixedOk img && hbmOk img r.len && (relocs img).all (relocOk img) && sigSectionOk s p img &&
    (recordsOf (capDies img) (body img 5)).isSome && (recordsOf (capDies img) (body img 11)).isSome
  let b := bindOf s p
  let dm := bindDies b (capDies img)
  if !stageInside s p r then (.range, img)
  else match linkSlots img with
  | none => (.range, img)
  | some slots =>
    if slots.any (fun x => linkState s (16 * dm.getD x.1 4 + x.2.1) == 6) then (.busy, img)
    else if !formOk then (.range, img)
    else
      let m := mendBind s p img b
      let wild := relocOpen s p b img
      match relocateAll s m wild (relocs img) img with
      | none => (.range, img)
      | some i =>
        if !placedOk s p i (bindDies m (capDies img)) (bindHbm m) (imageHbm s p r) (((relocs img).filter wild).map relocEntry)
            ((List.range 4).filter (fun d => bindDiesBad s p dm || bindHbmBad b d)) then (.range, i)
        else if bindBad s p img || stateBad s p i slots then (.state, i)
        else (.ok, i)

/-- Place everything (R299), from the checked and relocated image. -/
def placeAll (s : State) (p : Nat) (img : List Byte) (dm hb : List Nat) : State :=
  let ds := capDies img
  let put := fun (t : State) (l : Option (List PRec)) => (l.getD []).foldl (fun t r => poke t (r.dest dm) r.data) t
  let s := zeroOnChip s p
  let s := (List.range (12 * ds)).foldl (fun t c =>
    poke t (kmAddr (dm.getD (c / 12) 0 * 12 + c % 12) (coresegOff img c)) (coresegTab img c)) s
  let s := put (put s (recordsOf ds (body img 5))) (recordsOf ds (body img 11))
  (hbmRecs (body img 9)).foldl (fun t r =>
    if hrKind r = 1 then poke t (hrDest dm hb r) ((img.drop (hrSrc r)).take (hrLen r)) else mzero t (hrDest dm hb r) (hrLen r)) s

/-- A core right after a load (R97, R127, R201, R209, R258). -/
def loadedCore (img : List Byte) (dm : List Nat) (u : Nat) : CoreSt :=
  let i := dm.findIdx (fun d => d == dieOf u) * 192 + u % 192
  let seed := BitVec.ofNat 64 (leAt (body img 7) (8 * i) 8)
  { gen := seed, seed := seed, regions := regionTable img i }

/-- The load is OK: the plan is LOADED. -/
def loadDone (s : State) (p : Nat) (r : LoadReq) (raw img : List Byte) : State :=
  let b := bindOf s p
  let ds := capDies img
  let dm := bindDies b ds
  let q := partAt s p
  let seg := body img 3
  let s := loadDefaults s p
  let s := mapCores s p (fun u _ => loadedCore img dm u)
  let s := placeAll s p img dm (bindHbm b)
  let s := setPart s p
    { segs := (List.range (imgSegs img)).map (fun i => (leAt seg (16 * i) 4, leAt seg (16 * i + 4) 4)),
      coreseg := (List.range (12 * ds)).foldl (fun m c => kset m (dm.getD (c / 12) 0 * 12 + c % 12) (coresegOff img c)) [],
      reserve := imgReserve img, grove := imgGrove img, rank := bindRank b, dieMap := dm, hbmBase := bindHbm b, ctxMap := bindCtx b,
      slotMap := ((partDies s p).map (fun d => (List.range 12).map (fun c => (12 * d + c, (List.range 16).map (bindSlot b (12 * d + c)))))).flatten,
      bgMask := (List.range ds).map (fun i => leAt (body img 9) (8 * i) 8),
      slots := ((linkSlots img).getD []).foldl (fun m x => kset m (16 * dm.getD x.1 0 + x.2.1) x.2.2) [],
      stage := r.addr, stageLen := ceilDiv r.len 4096 * 4096 + restoreBytes * (partDies s p).length, imgLen := r.len, guarded := true,
      hbmUse := (hbmRecs (body img 9)).map (fun r => (hrDest dm (bindHbm b) r, hrLen r)),
      relHandle := q.relHandle, asgHandle := q.asgHandle, scrHandle := q.scrHandle, cmdQ := q.cmdQ, seen := q.seen }
  let s := saveRestore s p
  let s := wb s (0x2120 + p) 4 (sha384 (digestMsg raw))
  let s := wr (wr s (0x2130 + p) 1 (imgReserve img)) (0x2120 + p) 5 0
  setPlanState s p 2

/-- PLAN_LOAD_COMPLETE (R179); the errors of the image are met as it is read (R331, R332). -/
def planLoadComplete (s : State) (p : Nat) : State :=
  match (partAt s p).loading with
  | none => s
  | some r =>
    let s := setPlanState (setPart s p { partAt s p with loading := none }) p r.prev
    let img := peek s r.addr r.len
    let st := loadStatus s p r img
    let s := if stageInside s p r then bareErrors s r.addr r.len else s
    if st.1 = .ok then finishHandle (loadDone s p r img st.2) r.handle .ok 0 [] else finishHandle s r.handle st.1 0 []

def execPlanLoadComplete (p : Nat) (_ready : Unit) (s : State) : Host.Outcome State Fault Refusal :=
  onPart s p (planLoadComplete s p)

/-- PLAN_LOAD (R179, R548, R610): rows 1 and 2 of the statuses complete the handle at once. -/
def planLoad (s : State) (p h : Nat) (arg : List Byte) : State :=
  if partState s p = 1 ∨ partState s p = 2 ∨ partState s p = 3 then finishHandle s h .busy 0 []
  else if planState s p = 1 ∨ planState s p = 3 then finishHandle s h .state 0 []
  else
    let r : LoadReq := { handle := h, addr := leAt arg 0 8, len := leAt arg 8 8, prev := planState s p }
    setPlanState (setPart (wr s (0x6040 + p) 2 1) p { partAt s p with loading := some r }) p 1

def execPlanLoad (ses p : Nat) (arg : List Byte) (s : State) : Host.Outcome State Fault Refusal :=
  done s (invoking s ses (0x2120 + p) 2 1 false
    (fun s x => invStatus s x (0x2120 + p) 2 arg 16 false (leAt arg 0 8 % 4096 != 0) false)
    (fun s _ h => planLoad s p h arg))

/-! ### Plan reset (R635 to R637, R647) -/

/-- The first line of the restore image that holds an uncorrectable error. -/
def restoreError (s : State) (p : Nat) : Option Nat :=
  ((eccIn s (restoreBase (partAt s p)) (restoreBytes * (partDies s p).length)).find? (fun e => e.2 == 2)).map (fun e => e.1)

/-- A reset clears what R624 lists of a partition; descriptor counters and region tables stay. -/
def clearRun (s : State) (p : Nat) : State :=
  let s := mapCores s p (fun _ x => { gen := x.seed, seed := x.seed, dcount := x.dcount, regions := x.regions })
  setPart s p { partAt s p with segBeat := 0, ended := false, alarm := false, planFault := false, firstPF := [],
                                cause := [], insts := [], reach := [], arrs := [], step := none, resetting := false }

/-- PLAN_RESET_COMPLETE; while a load replaces the plan, a reset does not act, and a load that fails leaves it to go on. -/
def planResetComplete (s : State) (p us : Nat) : State :=
  if !(partAt s p).resetting ∨ (planState s p ≠ 4 ∧ planState s p ≠ 5) then s
  else
    let s := wr (zeroOnChip (clearRun s p) p) (0x7010 + p) 5 us
    match restoreError s p with
    | some a =>
      let rec_ := mkRec s 3 0x0302 (dieAt a * 256)
        (leBytes 1 3 ++ leBytes 5 a ++ leBytes 1 (channelAt a) ++ leBytes 8 0) (2 ^ dieAt a)
      unloadPlan (logRec s rec_) p
    | none =>
      let s := (eccIn s (restoreBase (partAt s p)) (restoreBytes * (partDies s p).length)).foldl (fun t e => bumpCorr t e.1) s
      let s := loadRestore s p
      setPlanState (wr (wr (wr (wr s (0x2120 + p) 5 0) (0x2120 + p) 6 0) (0x2120 + p) 7 0) (0x2120 + p) 8 0) p 2

def execPlanResetComplete (p us : Nat) (s : State) : Host.Outcome State Fault Refusal := onPart s p (planResetComplete s p us)

/-- PLAN_RESET. -/
def execPlanReset (ses p : Nat) (val : List Byte) (s : State) : Host.Outcome State Fault Refusal :=
  done s (setting s ses (0x7010 + p) 1
    (fun s x => setStatus s x (0x7010 + p) 1 val (planState s p != 4 && planState s p != 5) false false (partAt s p).resetting)
    (fun s _ => setPart s p { partAt s p with resetting := true }))

/-! ### Arming (R187, R222, R228) -/

/-- Whether a beat lies 64 to 2^47 − 1 beats ahead (R228). -/
def beatAhead (s : State) (b : Nat) : Bool := decide (64 ≤ beatDiff b s.beat)

/-- The RANGE condition of PLAN_START_BEAT and BEAT_K_AT. -/
def armBad (s : State) (v : Nat) : Bool :=
  if bit v 63 then bits v 48 15 != 0 || !beatAhead s (v % 2 ^ 48) else v != 0

/-- PLAN_START_BEAT. -/
def execPlanStartBeat (ses p : Nat) (val : List Byte) (s : State) : Host.Outcome State Fault Refusal :=
  done s (setting s ses (0x2120 + p) 5
    (fun s x => setStatus s x (0x2120 + p) 5 val (planState s p != 2) (armBad s (leNat val)) false false)
    (fun s _ => wr s (0x2120 + p) 5 (leNat val)))

/-! ### Breaks (R224) -/

/-- BRK_CTL: every write clears BRK_HIT. -/
def execBrkCtl (ses : Nat) (val : List Byte) (s : State) : Host.Outcome State Fault Refusal :=
  done s (setting s ses 0x7810 1
    (fun s x => setStatus s x 0x7810 1 val (rg s 0x6020 1 == 0) false false false)
    (fun s _ => { wr s 0x7810 1 (leNat val) with blobs := kdel (wr s 0x7810 1 (leNat val)).blobs (rkey 0x7810 6) }))

end Sys2Proof.Machine
end

