-- ==== Sys2Proof/Machine/Flash.lean ====
section
/-! DEFINITION. The flash tier: contexts, installs and the Merkle tree (R455 to R463), grafts (R464 to R469), release and erase (R470,
R471), flash maintenance and test (R476, R477), and the HBM self-test and patrol (R305, R336). -/

namespace Sys2Proof.Machine

/-! ### Contexts -/

def ctxState (s : State) (c : Nat) : Nat := rg s (0x4440 + c) 1
def setCtxState (s : State) (c v : Nat) : State := wr s (0x4440 + c) 1 v

/-- The manifest (R458). -/
def manifest (s : State) (c : Nat) : List Byte := padTo 256 (rb s (0x4440 + c) 2)

/-- LENGTH and CHUNKS. -/
def ctxLen (s : State) (c : Nat) : Nat := leAt (manifest s c) 8 8
def ctxChunks (s : State) (c : Nat) : Nat := leAt (manifest s c) 16 4

/-- BAD_MANIFEST (R458, R463). -/
def manifestBad (m : List Byte) : Bool :=
  leAt m 0 4 != 0x4654584D || leAt m 4 2 != 1 || leAt m 7 1 != 0 || leAt m 20 12 != 0 || leAt m 104 56 != 0 ||
    leAt m 8 8 % 2 ^ 20 != 0 || leAt m 8 8 == 0 || decide (384 * 2 ^ 30 < leAt m 8 8) || leAt m 16 4 != leAt m 8 8 / 2 ^ 20

/-- Space that a context reserves (R460). -/
def ctxSpace (m : List Byte) : Nat := leAt m 8 8 + 48 * leAt m 16 4

/-- The manifest's signature verifies under the installer key of its KEY_SLOT, which is registered and not revoked (R458, R463). -/
def installerOk (s : State) (m : List Byte) : Bool :=
  let k := leAt m 6 1
  decide (k < 8) && !bit (rg s 0x6010 4) k && ecVerify (((rb s 0x6010 3).drop (97 * k)).take 97) (sha384 (m.take 160)) ((m.drop 160).take 96)

/-- Leaf `i` (R459). -/
def leafOf (i : Nat) (chunk : List Byte) : List Byte := sha384 (0 :: leBytes 8 i ++ chunk)

/-- One level up. -/
def levelUp : List (List Byte) → List (List Byte)
  | a :: b :: r => sha384 (1 :: a ++ b) :: levelUp r
  | l => l

/-- The root of a tree of at most 2^n leaves. -/
def rootOf : Nat → List (List Byte) → List Byte
  | 0, l => l.headD []
  | n + 1, l => match l with
    | [] => []
    | [a] => a
    | _ => rootOf n (levelUp l)

def merkleRoot (l : List (List Byte)) : List Byte := rootOf 20 l

/-- A value of 48 bytes that heartwood derives (R558): 0 DeviceID, 1 CDI_1, 2 the layer 1 alias key, 3 CDI_2, 4 AK, 5 KWK. The first input is the
keying material, the others follow the label. -/
def derive384 (k : Nat) (ikm inputs : List Byte) : List Byte := hkdf384 (Config.hkdfSalt k) ikm (Config.hkdfLabel k ++ inputs) 48

/-- The key that wraps context keys under the present OWNER_EPOCH (R558, R560). -/
def kwkBytes (s : State) : List Byte := (derive384 5 s.fuseUds (leBytes 4 (rg s 0x6010 6))).take 32

/-- The XTS key of a context, unwrapped with a wrapping key; one that another key wrapped does not unwrap (R457, R544, R560). -/
def contextKey (kwk : List Byte) (x : CtxSt) : List Byte :=
  match x.key with
  | some w => (keyUnwrap kwk w).getD []
  | none => []

/-- A chunk under XTS: data unit `u` of 4 KiB of chunk `i` has the tweak i × 256 + u (R457). -/
def cryptChunk (key : List Byte) (dec : Bool) (i : Nat) (b : List Byte) : List Byte :=
  ((List.range (ceilDiv b.length 4096)).map (fun u => Xts.unit key dec (i * 256 + u) ((b.drop (4096 * u)).take 4096))).flatten

/-- The controller that stores chunk `i` (R456). -/
def controllerOf (i : Nat) : Nat := i % 4

/-- The chunks that flash holds of a context. -/
def storedChunks (x : CtxSt) : Nat := (x.flash.map List.length).sum

/-- Program the next chunk, encrypted, on its controller (R456, R457, R460). -/
def storeChunk (kwk : List Byte) (x : CtxSt) (b : List Byte) : CtxSt :=
  let i := storedChunks x
  { x with flash := (List.range 4).map (fun k => x.flash.getD k [] ++ if k = controllerOf i then [cryptChunk (contextKey kwk x) false i b] else []) }

/-- Chunk `i` as a graft reads it back and decrypts it (R464). -/
def readChunk (kwk : List Byte) (x : CtxSt) (i : Nat) : List Byte :=
  cryptChunk (contextKey kwk x) true i ((x.flash.getD (controllerOf i) []).getD (i / 4) [])

/-- Crypto-erase (R457). -/
def cryptoErase (s : State) (c : Nat) : State := setCtx s c { ctxAt s c with key := none, leaves := [], flash := [] }

/-- A read of flash that no command describes met an uncorrectable error: it is counted (R454). -/
def countFlashUe (s : State) : State := bump { s with fresh := s.fresh + 1 } 0x4400 10 11 0 1

/-- Record a reason and complete the handle of a context operation (R463). -/
def ctxFinish (s : State) (c h reason : Nat) (st : Status) : State := finishHandle (wr s (0x4440 + c) 9 reason) h st reason []

/-- A context bound in a plan that is LOADING, LOADED, RUNNING or FROZEN (R463). -/
def ctxBound (s : State) (c : Nat) : Bool :=
  (partitions s).any (fun p => (planHeld s p && (partAt s p).ctxMap.contains c) ||
    (planState s p == 1 && (bindCtx (bindOf s p)).contains c))

/-- A controller is in MAINTENANCE or under test: every context spans all four (R476, R645). -/
def flashBusy (s : State) : Bool := rg s 0x4400 6 != 0 || s.flashTest.isSome

/-! ### Install (R460 to R462) -/

/-- The steps of CTX_INSTALL up to BEGIN; while the key engine blocks the keys it completes with STATE (R573; reason 1, log entry
31). -/
def doInstall (s : State) (c h : Nat) : State :=
  let m := manifest s c
  let s := wr s (0x4440 + c) 8 0
  let s := if ctxState s c = 2 ∧ !s.keysBlocked then cryptoErase s c else s
  if s.keysBlocked then ctxFinish s c h 1 .state
  else if !installerOk s m then ctxFinish s c h 3 .denied
  else
    let x := ctxAt s c
    let r := draw s
    let t := setCtx r.2 c { x with key := some (keyWrap (kwkBytes s) (leBytes 64 r.1.toNat)), leaves := [], flash := [],
                                   handle := some h, owed := x.owed + x.reserved, reserved := ctxSpace m, begun := true }
    setCtxState (wr t 0x4400 3 (rg t 0x4400 3 - ctxSpace m)) c 1

def execCtxInstall (ses c : Nat) (arg : List Byte) (s : State) : Host.Outcome State Fault Refusal :=
  done s (invoking s ses (0x4440 + c) 3 2 false
    (fun s x => invStatus s x (0x4440 + c) 3 arg 0 (ctxState s c != 0 && ctxState s c != 2)
      (manifestBad (manifest s c) || decide (rg s 0x4400 3 < ctxSpace (manifest s c))) (flashBusy s))
    (fun s _ h => doInstall s c h))

/-- An install fails after BEGIN (R461). -/
def failInstall (s : State) (c reason : Nat) (st : Status) : State :=
  let x := ctxAt s c
  let s := cryptoErase s c
  let s := setCtx s c { ctxAt s c with handle := none, reserved := 0, begun := false }
  let s := setCtxState (wr s 0x4400 3 (rg s 0x4400 3 + x.reserved)) c 0
  match x.handle with
  | some h => ctxFinish s c h reason st
  | none => wr s (0x4440 + c) 9 reason

/-- Take chunk `i` of an INSTALLING context, with the acknowledgement's status (R460, R462, R592). Whether the leaves that are
read after the last chunk hold a flash UE is free (R454, log entry 6). -/
def takeChunk (s : State) (c i : Nat) (data : List Byte) : State × Status :=
  if ctxState s c ≠ 1 then (s, .state)
  else
    let x := ctxAt s c
    if i ≠ storedChunks x ∨ ctxChunks s c ≤ i then (failInstall s c 6 .range, .range)
    else
      let y := { storeChunk (kwkBytes s) x data with leaves := x.leaves ++ [leafOf i data] }
      let s := wr (setCtx s c y) (0x4440 + c) 8 (i + 1)
      let s := match x.handle with | some h => progress s h (i + 1) | none => s
      if i + 1 < ctxChunks s c then (s, .ok)
      else if Config.flashUe s.fresh then (failInstall (countFlashUe s) c 9 .state, .ok)
      else if merkleRoot y.leaves = ((manifest s c).drop 32).take 48 then
        let s := setCtxState (setCtx s c { y with handle := none, begun := false }) c 3
        (match x.handle with | some h => ctxFinish s c h 0 .ok | none => s, .ok)
      else (failInstall s c 7 .state, .ok)

/-- HOST_IDLE (R462). -/
def execHostIdle (c ms : Nat) (s : State) : Host.Outcome State Fault Refusal :=
  done s (if ctxState s c = 1 ∧ 10000 ≤ ms then failInstall s c 5 .state else s)

/-! ### Graft (R464 to R469) -/

/-- TARGET (R465). -/
def targetBad (s : State) (a n : Nat) : Bool :=
  a % 2 ^ 20 != 0 || decide (dies s.variant * dieHbm < a + n) || hbmPart s a != hbmPart s (a + n - 1)

/-- The HBM ranges of contexts other than `c` that are GRAFTED or being grafted. -/
def otherCopies (s : State) (c : Nat) : List (Nat × Nat) :=
  ((List.range 64).filter (fun d => d != c && ctxState s d == 4)).map (ctxRange s) ++
    ((s.grafts ++ s.graftRun.toList).filter (fun g => g.ctx != c)).map (fun g => (g.target, ctxLen s g.ctx))

/-- The HBM regions and HBMLAYOUT records of an image that is being loaded, relocated with its bindings (R219, R466). -/
def loadingHbm (s : State) (p : Nat) : List (Nat × Nat) :=
  match (partAt s p).loading with
  | none => []
  | some r =>
    let img := peek s r.addr r.len
    if !(stageInside s p r && headerOk img r.len && directoryOk img r.len && fixedOk img) then []
    else
      let m := mendBind s p img (bindOf s p)
      match relocateAll s m (relocOpen s p (bindOf s p) img) (relocs img) img with
      | none => []
      | some i =>
        ((List.range (192 * capDies i)).map (fun u =>
          ((regionTable i u).filter (fun r => r.size != 0 && r.space == 3)).map (fun r => (r.base, r.size)))).flatten ++
        (hbmRecs (body i 9)).map (fun r => (hrDest (bindDies m (capDies i)) (bindHbm m) r, hrLen r))

/-- A range meets what a plan of a partition holds in HBM: a staging range or a restore image, and the regions and records of a plan
that is LOADING, LOADED, RUNNING or FROZEN (R466, R577, R636). -/
def planInUse (s : State) (p a n : Nat) : Bool :=
  meetsAny a n (guardedHbm s p) || (planHeld s p && meetsAny a n (planHbm s p)) ||
    (planState s p == 1 && meetsAny a n (loadingHbm s p))

/-- A range meets what a plan of any partition holds in HBM. -/
def plansUse (s : State) (a n : Nat) : Bool := (partitions s).any (fun p => planInUse s p a n)

/-- TARGET_USE (R466, R577, R636). -/
def targetUse (s : State) (c a n : Nat) : Bool := meetsAny a n (otherCopies s c) || plansUse s a n

/-- PARTITION (R463, R336). -/
def targetBusy (s : State) (a n : Nat) : Bool :=
  let p := hbmPart s a
  partState s p ∈ [1, 2, 3] || (match s.hbmTest with
    | some t => (List.range 4).any (fun d => bit t.2 d && overlaps a n (d * dieHbm) dieHbm)
    | none => false)

/-- CTX_GRAFT: the graft waits in its queue, and its target partition is used (R467, R548). -/
def execCtxGraft (ses c : Nat) (s : State) : Host.Outcome State Fault Refusal :=
  done s (invoking s ses (0x4440 + c) 5 3 true
    (fun s x =>
      let a := rg s (0x4440 + c) 4
      let n := ctxLen s c
      invStatus s x (0x4440 + c) 5 [] 0 (ctxState s c != 3 || targetUse s c a n) (targetBad s a n)
        (targetBusy s a n || decide (8 ≤ s.grafts.length)))
    (fun s _ h =>
      let p := hbmPart s (rg s (0x4440 + c) 4)
      wr { s with grafts := s.grafts ++ [{ ctx := c, handle := h, target := rg s (0x4440 + c) 4, part := p }] } (0x6040 + p) 2 1))

/-- A RUNNING plan that leaves no background stretch on a die of the target holds background traffic back (R309). -/
def trafficHeld (s : State) (a n : Nat) : Bool :=
  (List.range (dies s.variant)).any (fun d =>
    overlaps a n (d * dieHbm) dieHbm && planState s (partLow s d) == 3 &&
      (partAt s (partLow s d)).bgMask.getD ((partAt s (partLow s d)).dieMap.findIdx (fun e => e == d)) 0 == 0)

/-- Background traffic may issue requests to a die's HBM in the present cycle: outside refresh windows, while the plan of its partition runs
only in the background stretches of its mask, bit s of which marks cycles 32s to 32s + 31 of every 2,048, and behind plan requests (R304,
R308). -/
def bgNow (s : State) (d : Nat) : Bool :=
  let q := partAt s (partLow s d)
  !inRefresh (rg s 0x2100 1) s.cyc && (planState s (partLow s d) != 3 || inStretch q d s.cyc) &&
    s.chReady.all (fun k => k.1 / 64 != d || decide (k.2 ≤ absNow s))

/-- Background traffic to a range waits in the present cycle (R308, R309): a die leaves it no stretch at all, or none of its dies takes a
request now. The lines on the other dies were issued in earlier stretches of theirs (R411; log entry 30). -/
def bgHeld (s : State) (a n : Nat) : Bool := trafficHeld s a n || (!(diesOf s a n).isEmpty && (diesOf s a n).all (fun d => !bgNow s d))

/-- The last lines of background traffic take their channels, which accept their next request two cycles later (R303). -/
def useBg (s : State) (a n : Nat) : State :=
  let keys := (((diesOf s a n).filter (bgNow s)).map (fun d =>
    (List.range (min 64 (ceilDiv n 64 + 1))).map (fun i => 64 * d + (a / 64 + i) % 64))).flatten
  let s := (diesOf s a n).foldl (fun t d => countAct t d 50 256 (lineCount a n)) s
  { s with chReady := keys.foldl (fun m k => kset m k (absNow s + 2)) s.chReady }

/-- A graft fails (R468). -/
def failGraft (s : State) (g : Graft) (reason : Nat) (st : Status) (after : Nat) : State :=
  ctxFinish (if ctxState s g.ctx = 3 then setCtxState s g.ctx after else s) g.ctx g.handle reason st

/-- GRAFT_START (R464 steps 1 and 2, R467); none while the compute rails are off (R475, R530). `ue`: the manifest and the leaves that it reads
hold a flash UE (R454). -/
def graftStart (s : State) (ue : Bool) : State :=
  match s.graftRun, s.grafts with
  | none, g :: r =>
    if !s.railsUp ∨ s.flashTest.isSome ∨ trafficHeld s g.target (ctxLen s g.ctx) ∨ s.mcDown then s
    else
      let s := wr (startHandle { s with grafts := r } g.handle) (0x4440 + g.ctx) 8 0
      if s.keysBlocked ∨ ctxState s g.ctx ≠ 3 then failGraft s g 1 .state 3
      else if ue then failGraft (bump s 0x4400 10 11 0 1) g 9 .state 2
      else if !installerOk s (manifest s g.ctx) then failGraft s g 3 .denied 3
      else if merkleRoot (ctxAt s g.ctx).leaves ≠ ((manifest s g.ctx).drop 32).take 48 then failGraft s g 7 .state 2
      else { s with graftRun := some g }
  | some _, _ => s
  | none, [] => s

def execGraftStart (ue : Bool) (s : State) : Host.Outcome State Fault Refusal := done s (graftStart s ue)

/-- Write the first `n` chunks of a context to its target. -/
def landChunks (s : State) (g : Graft) (n : Nat) : State :=
  (List.range (min n (storedChunks (ctxAt s g.ctx)))).foldl (fun t i => poke t (g.target + i * 2 ^ 20) (readChunk (kwkBytes s) (ctxAt s g.ctx) i)) s

/-- What a chunk that differs from its leaf leaves in HBM is not stated: free values (log entry 6). -/
def landBad (s : State) (a : Nat) : State :=
  (List.range 16384).foldl (fun t i => let r := draw t; poke r.2 (a + 64 * i) (leBytes 64 r.1.toNat)) s

/-- GRAFT_COMPLETE (R464 steps 3 and 4, R468): `bad` is the chunk at which it fails, by an uncorrectable flash read when `ue`. It waits for a
cycle in which background traffic may reach its target (R308, R309, R467). -/
def graftComplete (s : State) (bad : Option Nat) (ue : Bool) : State :=
  match s.graftRun.filter (fun g => s.railsUp && !bgHeld s g.target (ctxLen s g.ctx)) with
  | none => s
  | some g =>
    let s := { useBg s g.target (ctxLen s g.ctx) with graftRun := none }
    let s := if ue then bump s 0x4400 10 11 0 1 else s
    let n := ctxChunks s g.ctx
    if ctxState s g.ctx ≠ 3 then failGraft s g 1 .state 3
    else if plansUse s g.target (ctxLen s g.ctx) then failGraft s g 11 .state 3
    else
      match bad with
      | some i =>
        let s := landChunks s g i
        let s := wr (progress s g.handle (min i n)) (0x4440 + g.ctx) 8 (min i n)
        if ue then failGraft s g 9 .state 2
        else failGraft (if i < n then landBad s (g.target + i * 2 ^ 20) else s) g 8 .state 2
      | none =>
        if ue then failGraft s g 9 .state 2
        else
          let s := landChunks s g n
          let s := wr (progress s g.handle n) (0x4440 + g.ctx) 8 n
          ctxFinish (wr (setCtxState s g.ctx 4) (0x4440 + g.ctx) 10 (g.target + 2 ^ 63)) g.ctx g.handle 0 .ok

def execGraftComplete (bad : Option Nat) (ue : Bool) (s : State) : Host.Outcome State Fault Refusal := done s (graftComplete s bad ue)

/-- A scrub of a partition begins: its grafts end (R463, R474). -/
def scrubGrafts (s : State) (p : Nat) : State :=
  let hit := (s.grafts ++ s.graftRun.toList).filter (fun g => g.part == p)
  let s := { s with grafts := s.grafts.filter (fun g => g.part != p), graftRun := s.graftRun.filter (fun g => g.part != p) }
  hit.foldl (fun t g => failGraft t g 13 .busy 3) s

/-- The journal as read at a start-up (R472): a context with BEGIN and no later COMMIT or ERASE record is INCOMPLETE with reason RESET. -/
def readJournal (s : State) (c : Nat) : State :=
  if ctxState s c = 1 ∨ (ctxAt s c).begun then wr (setCtxState s c 2) (0x4440 + c) 9 15 else s

/-- A reset ends installs and grafts: no handle completes (R463, R472, R474). -/
def resetContexts (s : State) : State :=
  let s := (s.grafts ++ s.graftRun.toList).foldl (fun t g => wr t (0x4440 + g.ctx) 9 15) s
  (List.range 64).foldl (fun t c =>
    let t := if (ctxAt t c).handle.isSome then setCtx t c { ctxAt t c with handle := none } else t
    readJournal t c) { s with grafts := [], graftRun := none }

/-! ### Release and erase (R470, R471, R473) -/

/-- A GRAFTED context becomes READY. -/
def ungraft (s : State) (c : Nat) : State := wr (setCtxState s c 3) (0x4440 + c) 10 0

def execCtxRelease (ses c : Nat) (s : State) : Host.Outcome State Fault Refusal :=
  done s (invoking s ses (0x4440 + c) 6 4 false
    (fun s x => invStatus s x (0x4440 + c) 6 [] 0 (ctxState s c != 4 || ctxBound s c) false false)
    (fun s _ h => ctxFinish (ungraft s c) c h 0 .ok))

/-- A context is crypto-erased and EMPTY; its blocks are owed to FLASH_FREE. -/
def eraseCtx (s : State) (c : Nat) : State :=
  let s := cryptoErase s c
  let x := ctxAt s c
  setCtxState (setCtx s c { x with owed := x.owed + x.reserved, reserved := 0, begun := false }) c 0

def execCtxErase (ses c : Nat) (s : State) : Host.Outcome State Fault Refusal :=
  done s (invoking s ses (0x4440 + c) 7 5 false
    (fun s x => invStatus s x (0x4440 + c) 7 [] 0 (ctxState s c != 3 && ctxState s c != 2) false (flashBusy s))
    (fun s _ h => ctxFinish (eraseCtx s c) c h 0 .ok))

/-- FLASH_BLOCK_RETURN (R471). -/
def execFlashBlockReturn (c : Nat) (s : State) : Host.Outcome State Fault Refusal :=
  let x := ctxAt s c
  done s (wr (setCtx s c { x with owed := 0 }) 0x4400 3 (rg s 0x4400 3 + x.owed))

/-! ### Maintenance and self-tests -/

/-- FLASH_MAINT (R476); while a test runs it is BUSY (R645). -/
def execFlashMaint (ses : Nat) (val : List Byte) (s : State) : Host.Outcome State Fault Refusal :=
  done s (setting s ses 0x4400 6
    (fun s x => setStatus s x 0x4400 6 val false false
      ((List.range 4).any (fun i => bit (leNat val) i && !bit (rg s 0x4400 6) i) && (List.range 64).any (fun c => ctxState s c == 1))
      s.flashTest.isSome)
    (fun s _ => wr s 0x4400 6 (leNat val)))

/-- FLASH_SELFTEST of the controllers that FLASH_MAINT names at its invocation (R477, R614). -/
def execFlashSelftest (ses : Nat) (s : State) : Host.Outcome State Fault Refusal :=
  done s (invoking s ses 0x4400 7 10 false
    (fun s x => invStatus s x 0x4400 7 [] 0 (rg s 0x4400 6 == 0) false s.flashTest.isSome)
    (fun s _ h => { s with flashTest := some (h, rg s 0x4400 6) }))

/-- FLASH_SELFTEST_END: the result of each controller under test, 1 pass or 2 fail, with its pages of flash UE. -/
def flashSelftestEnd (s : State) (res : List Byte) : State :=
  match s.flashTest with
  | none => s
  | some (h, m) =>
    let new := (List.range 4).foldl (fun l i =>
      if bit m i then patch l (16 * i) (leBytes 1 (if leAt res (16 * i) 1 = 1 then 1 else 2) ++ leBytes 7 0 ++ leBytes 8 (leAt res (16 * i + 8) 8)) else l)
      (rb s 0x4400 8)
    let pages := ((List.range 4).map (fun i => if bit m i then leAt res (16 * i + 8) 8 else 0)).sum
    finishHandle (bump (wb { s with flashTest := none } 0x4400 8 new) 0x4400 10 11 0 pages) h .ok 0 []

def execFlashSelftestEnd (res : List Byte) (s : State) : Host.Outcome State Fault Refusal := done s (flashSelftestEnd s res)

/-- HBM_SELFTEST (R336). -/
def execHbmSelftest (ses : Nat) (s : State) : Host.Outcome State Fault Refusal :=
  done s (invoking s ses 0x4008 2 9 false
    (fun s x =>
      let m := rg s 0x4008 1
      invStatus s x 0x4008 2 [] 0
        ((List.range (dies s.variant)).any (fun d => bit m d && partState s (partLow s d) != 1))
        (m == 0 || decide (2 ^ dies s.variant ≤ m)) s.hbmTest.isSome)
    (fun s _ h => { s with hbmTest := some (h, rg s 0x4008 1) }))

/-- HBM_SELFTEST_END: the named dies' HBM is zero; `fail` gives each die's failing channels as a mask. -/
def hbmSelftestEnd (s : State) (fail : List Nat) : State :=
  match s.hbmTest with
  | none => s
  | some t =>
    let s := (List.range (dies s.variant)).foldl (fun r d =>
      if bit t.2 d then
        let m := fail.getD d 0
        wb (mzero r (d * dieHbm) dieHbm) 0x4008 3
          (patch (rb r 0x4008 3) (16 * d) (leBytes 1 (if m % 2 ^ 64 = 0 then 1 else 2) ++ leBytes 7 0 ++ leBytes 8 m))
      else r) { s with hbmTest := none }
    finishHandle s t.1 .ok 0 []

def execHbmSelftestEnd (fail : List Nat) (s : State) : Host.Outcome State Fault Refusal := done s (hbmSelftestEnd s fail)

/-! ### Patrol (R305, R332) -/

/-- Patrol one line of a channel. -/
def patrolLine (s : State) (d ch : Nat) : State :=
  let i := (kget s.patrol (64 * d + ch)).getD 0
  let a := d * dieHbm + i * 4096 + ch * 64
  let s := { s with patrol := kput 0 s.patrol (64 * d + ch) ((i + 1) % (dieHbm / 4096)) }
  match kget s.ecc a with
  | some 2 => capture s (mkRec s 3 0x0303 (d * 256) (leBytes 1 3 ++ leBytes 5 a ++ leBytes 1 ch ++ leBytes 8 0) (2 ^ d))
  | some _ => bumpTab (bump { s with ecc := kdel s.ecc a } (0x4010 + d) 6 12 5 1) (0x4010 + d) 11 ch 12 10 1
  | none => s

/-- The refresh window of the present cycle: one more than the absolute cycle in which it began (R304). -/
def refreshWindow (s : State) : Option Nat :=
  if !inRefresh (rg s 0x2100 1) s.cyc then none
  else some (s.edge + (if rg s 0x2100 1 = 10 then 896 else s.cyc / 2048 * 2048 + 1920) + 1)

/-- A channel may patrol now: it lies in a refresh window in which it has not patrolled, and its region works (R236, R305). -/
def patrols (s : State) (d ch : Nat) : Bool :=
  (refreshWindow s).isSome && kget s.patrolled (64 * d + ch) != refreshWindow s && !regionStill s (4 * d + ch / 16)

/-- The four lines of a window. -/
def patrolFour (s : State) (d ch : Nat) : State :=
  let s := { s with patrolled := kset s.patrolled (64 * d + ch) ((refreshWindow s).getD 0) }
  patrolLine (patrolLine (patrolLine (patrolLine s d ch) d ch) d ch) d ch

/-- HBM_PATROL: four lines in each refresh window. -/
def execHbmPatrol (d ch c : Nat) (s : State) : Host.Outcome State Fault Refusal :=
  let t := tick s c
  if 64 ≤ ch then .fault .absentUnit else onDie s d (if patrols t d ch then patrolFour t d ch else t)

end Sys2Proof.Machine
end

