-- ==== Sys2Proof/Machine/Serve.lean ====
section
/-! DEFINITION. The serving unit: the request table (R481 to R484), KV pages (R485 to R488), commands and completion records (R489 to
R492, R593, R595), the STEP descriptor and its boundary (R493 to R500), and the unit's own entries (R502, R503). -/

namespace Sys2Proof.Machine

/-! ### The request table -/

/-- Entries of the table (R481). -/
def serveEntries (v : Variant) : Nat := 2048 * dies v

/-- The entries of a partition that are not at their default, in ascending index. -/
def partEnts (s : State) (p : Nat) : KMap ServeEnt := krange s.serve (2048 * p) (2048 * (partDies s p).length)

/-- Store an entry. -/
def putEnt (s : State) (e : Nat) (x : ServeEnt) : State := { s with serve := kput {} s.serve e x }

/-- Pages of a partition's pool that are held. -/
def usedPages (s : State) (p : Nat) : List Nat := ((partEnts s p).map (fun e => e.2.pages)).flatten

/-- Free pages of a pool (R485). -/
def freeCount (s : State) (p : Nat) : Nat := rg s (0x4810 + p) 2 - (usedPages s p).length

/-- The `n` lowest free pages (R488). -/
def lowPages (s : State) (p n : Nat) : List Nat :=
  let used := usedPages s p
  ((List.range (used.length + n)).filter (fun g => !used.contains g)).take n

/-- The need of a request (R487). -/
def needOf (s : State) (p ahead len : Nat) : Nat := ceilDiv (len + ahead) (rg s (0x4810 + p) 3)

/-- LIST_PTR of an entry (R486). -/
def listPtr (s : State) (p e : Nat) : Nat := rg s (0x4810 + p) 4 + 16384 * (e - 2048 * p)

/-- The 32 bytes of an entry (R482). -/
def ServeEnt.bytes (x : ServeEnt) : List Byte :=
  leBytes 32 (x.st * 2 ^ 23 + x.reason * 2 ^ 26 + x.prio * 2 ^ 30 + x.ctx * 2 ^ 34 + (if x.slv then 2 ^ 40 else 0) + x.slot * 2 ^ 41 +
    x.pages.length % 2 ^ 13 * 2 ^ 51 + x.length * 2 ^ 64 + x.gen * 2 ^ 88 + x.maxNew * 2 ^ 112 + x.listPtr * 2 ^ 136 +
    x.deadline * 2 ^ 176 + x.tag * 2 ^ 224)

/-! ### Completion records (R491, R492, R595) -/

/-- A completion record. -/
def recBytes (kind b1 entry tag beat b14 count : Nat) (tail : List Byte) : List Byte :=
  padTo 64 (leBytes 1 kind ++ leBytes 1 b1 ++ leBytes 2 entry ++ leBytes 4 tag ++ leBytes 6 beat ++ leBytes 1 b14 ++ leBytes 1 count ++ tail)

/-- The ENDED record of an entry that ends in beat `b`. -/
def endedRec (b e : Nat) (x : ServeEnt) (reason : Nat) : List Byte :=
  recBytes 4 reason e x.tag b 0 0 (leBytes 4 x.length ++ leBytes 4 x.gen)

/-- The session that takes a record: of its own commands, else the one that holds the partition's sink. Records are kept as the
partition, 7 for none, plus 8 times 0 or one more than the session. -/
def recSession (s : State) (dest : Nat) : Option Session :=
  if 8 ≤ dest then sesAt s (dest / 8 - 1) else s.sessions.find? (fun x => bit x.sink dest)

/-- Whether a session's M2H ring can take a record (R590, R596). -/
def m2hReady (x : Session) : Bool :=
  x.up && leAt x.ringM 0 16 != 0 && x.errM == 0 && x.m2hBufs.any (fun b => b.2 != 0) && x.waiting.isEmpty

/-- Take the next buffer that can be used: its capacity, and the session after it. -/
def takeBuf (x : Session) : Nat × Session :=
  let skip := x.m2hBufs.takeWhile (fun b => b.2 == 0)
  let rest := x.m2hBufs.drop skip.length
  ((rest.headD (0, 0)).2, { x with m2hBufs := rest.drop 1, m2hHead := (x.m2hHead + skip.length + min 1 rest.length) % 2 ^ 32 })

/-- Fill the next buffer of session `x` with a DIR 1 record, its content encrypted with the response direction's key, and signal its
vector (R564, R565, R584, R591). -/
def sendRec (s : State) (x : Session) (kind target : Nat) (plain : List Byte) : State :=
  let y := (takeBuf x).2
  let head := leBytes 4 x.id ++ leBytes 1 1 ++ leBytes 1 kind ++ leBytes 2 0 ++ leBytes 8 x.seqOut ++ leBytes 8 target ++
    leBytes 4 plain.length ++ leBytes 4 0
  vector (emit (setSes s { y with seqOut := x.seqOut + 1 }) (.mcrec x.id kind
    (head ++ Gcm.seal x.dirKeys.2 (recordIv x.dirIvs.2 x.seqOut) head plain))) (2 + x.slot)

/-- Deliver the records that can be delivered, oldest first, one to a buffer (log entry 27). -/
def flushRecords (s : State) : State :=
  s.records.foldl (fun t r =>
    match recSession t r.1 with
    | none => { t with records := t.records ++ [r] }
    | some x =>
      if m2hReady x ∧ !(t.records.any (fun q => decide ((recSession t q.1).map Session.id = some x.id))) then
        sendRec t x 3 0 r.2
      else { t with records := t.records ++ [r] }) { s with records := [] }

/-- Room in the record store of 16,384 records: those beyond, in their order, wait outside it and enter as it empties (R492). -/
def recordRoom (s : State) : Nat := 16384 - s.records.length

/-- Put a record into the store. -/
def putRecord (s : State) (dest : Nat) (r : List Byte) : State := flushRecords { s with records := s.records ++ [(dest, r)] }

/-! ### Leaving the table (R483) -/

/-- An entry enters DONE or DROPPED in beat `b`: pages and slot are released; its ENDED record. -/
def endEntIn (b : Nat) (s : State) (p e : Nat) (x : ServeEnt) (reason : Nat) : State × List Byte :=
  let isDone := 1 ≤ reason ∧ reason ≤ 3
  let s' := putEnt s e { x with pages := [], slv := false, st := if isDone then 4 else 5, reason := reason }
  (bump s' (0x4810 + p) (if isDone then 9 else 10) 15 (if isDone then 1 else 2) 1, endedRec b e x reason)

def endEnt (s : State) (p e : Nat) (x : ServeEnt) (reason : Nat) : State × List Byte := endEntIn s.beat s p e x reason

/-- DONE and DROPPED entries become FREE. -/
def freeEnded (s : State) (p : Nat) : State :=
  (partEnts s p).foldl (fun t e => if 4 ≤ e.2.st then putEnt t e.1 {} else t) s

/-- A boundary in progress ends without its signal: its records are not lost (R492). -/
def dropStep (s : State) (p : Nat) : State :=
  let s := (match (partAt s p).step with | some r => r.recs | none => []).foldl (fun t r => putRecord t p r) s
  setPart s p { partAt s p with step := none }

/-- The plan of a partition freezes or completes: ACTIVE and CANCEL_PENDING entries end, and ended entries are FREE at once (R483). -/
def endServing (s : State) (p : Nat) : State :=
  let s := dropStep s p
  let s := (partEnts s p).foldl (fun t e =>
    if e.2.st = 2 ∨ e.2.st = 3 then let r := endEnt t p e.1 e.2 8; putRecord r.1 p r.2 else t) s
  freeEnded s p

/-! ### Commands (R489, R490) -/

/-- A command that breaks R489. -/
def badCommand (c : List Byte) : Bool :=
  c.length != 64 || !((c.drop 26).all (fun b => b == 0)) ||
  match leAt c 0 1 with
  | 1 => decide (15 < leAt c 1 1) || decide (63 < leAt c 2 1) || leAt c 14 2 == 0 || decide (4096 < leAt c 14 2) || leAt c 16 4 == 0 ||
      decide (2 ^ 24 - 2 < leAt c 16 4) || decide (2 ^ 24 ≤ leAt c 20 4) || leAt c 24 2 != 0
  | 2 => leAt c 1 2 != 0 || leAt c 4 20 != 0
  | _ => true

/-- Whether a partition may take commands of this sender: any partition for a SERVE packet, one of the session's own otherwise (R490,
R593). -/
def senderMay (s : State) (ses : Option Nat) (p : Nat) : Bool :=
  decide (p ∈ partitions s) && !(partState s p ∈ [1, 2, 3]) && hasServe s.variant &&
  match ses with
  | none => true
  | some i => match sesAt s i with
    | none => false
    | some x => match x.role with
      | .tn => (tenantParts s x).contains p
      | .op => partState s p == 0
      | _ => false

/-- A context is GRAFTED into a partition (R464, R478). -/
def graftedInto (s : State) (c p : Nat) : Bool :=
  rg s (0x4440 + c) 1 == 4 && hbmPart s (bits (rg s (0x4440 + c) 10) 0 40) == p

/-- Whether a CANCEL names an entry of the partition that is QUEUED or ACTIVE. -/
def cancelable (s : State) (p e : Nat) : Bool :=
  decide (2048 * p ≤ e ∧ e < 2048 * (p + (partDies s p).length)) && ((servAt s e).st == 1 || (servAt s e).st == 2)

/-- The first refusal code of R490 that applies, 0 for none; any command on an NSV4-T, where the unit is absent, is refused with PARTITION
(R505). -/
def refuseCode (s : State) (ses : Option Nat) (c : List Byte) : Nat :=
  let p := leAt c 3 1
  let sub := leAt c 0 1 = 1
  if !hasServe s.variant then 2
  else if badCommand c then 1
  else if !senderMay s ses p then 2
  else if rg s 0x4800 3 = 1 then 3
  else if sub ∧ s.mcDown then 4
  else if sub ∧ !graftedInto s (leAt c 2 1) p then 5
  else if sub ∧ 2048 * (partDies s p).length ≤ (partEnts s p).length then 6
  else if sub ∧ freeCount s p < leAt c 14 2 then 7
  else if ¬sub ∧ !cancelable s p (leAt c 24 2) then 8
  else 0

/-- The lowest FREE entry of a partition. -/
def lowFree (s : State) (p : Nat) : Nat :=
  let used := (partEnts s p).map (fun e => e.1)
  (((List.range (used.length + 1)).map (fun i => 2048 * p + i)).find? (fun e => !used.contains e)).getD (2048 * p)

/-- An entry's page list in HBM (R486). -/
def pageList (x : ServeEnt) : List Byte := (x.pages.map (leBytes 4)).flatten

/-- An accepted SUBMIT (R490): the elements of the entry's page list are valid from now on, so that its sender can fill the pages (R486, R504,
log entry 47). -/
def doSubmit (s : State) (c : List Byte) : State × Nat :=
  let p := leAt c 3 1
  let e := lowFree s p
  let x : ServeEnt :=
    { tag := leAt c 4 4, deadline := leAt c 8 6, listPtr := listPtr s p e, maxNew := leAt c 20 4, gen := 0,
      length := leAt c 16 4, pages := lowPages s p (leAt c 14 2), slot := 0, slv := false, ctx := leAt c 2 1,
      prio := leAt c 1 1, reason := 0, st := 1 }
  (putEnt (poke s x.listPtr (pageList x)) e x, e)

/-- A CANCEL accepted in beat `b` (R483): its ENDED record follows ACCEPTED when the entry was QUEUED. -/
def doCancel (s : State) (p e b : Nat) : State × List (List Byte) :=
  let x := servAt s e
  if x.st = 1 then
    let r := endEntIn b s p e x 5
    (if planState s p = 3 then r.1 else freeEnded r.1 p, [r.2])
  else (putEnt s e { x with st := 3 }, [])

/-- Where the answer to a command goes (R595). -/
def answerDest (s : State) (ses : Option Nat) (p : Nat) : Nat :=
  let q := if p ∈ partitions s then p else 7
  match ses with
  | none => q
  | some i => q + 8 * (i + 1)

/-- The first refusal code for a command that waits at partition `q`: one in a SERVE packet that names another partition is refused (R385,
R481, log entry 46). -/
def codeAt (s : State) (q : Nat) (ses : Option Nat) (c : List Byte) : Nat :=
  if ses = none ∧ leAt c 3 1 ≠ q then (if badCommand c then 1 else 2) else refuseCode s ses c

/-- Apply one command that came to partition `q`, in beat `b`: its answer, then what it ends. -/
def applyCommand (s : State) (q : Nat) (ses : Option Nat) (c : List Byte) (b : Nat) : State :=
  let p := leAt c 3 1
  let code := codeAt s q ses c
  let dest := answerDest s ses (if ses = none then q else p)
  if code ≠ 0 then putRecord s dest (recBytes 2 code 0 (leAt c 4 4) b (leAt c 0 1) 0 [])
  else if leAt c 0 1 = 1 then
    let r := doSubmit s c
    putRecord r.1 dest (recBytes 1 0 r.2 (leAt c 4 4) b 1 0 [])
  else
    let e := leAt c 24 2
    let r := doCancel s p e b
    r.2.foldl (fun t x => putRecord t p x) (putRecord r.1 dest (recBytes 1 0 e (servAt s e).tag b 2 0 []))

/-- The records that a command needs room for: a CANCEL that ends a QUEUED entry writes two. -/
def recordNeed (s : State) (q : Nat) (ses : Option Nat) (c : List Byte) : Nat :=
  if leAt c 0 1 = 2 ∧ codeAt s q ses c = 0 ∧ (servAt s (leAt c 24 2)).st = 1 then 2 else 1

/-- A STEP of a partition is dispatched in the present cycle: its core holds one that may execute now, and none is in progress. A command
received in that cycle is applied after its signal (R494). -/
def stepDue (s : State) (p : Nat) : Bool :=
  planState s p == 3 && (partAt s p).step.isNone && (partCores s p).any (fun u => (kget s.cores u).isSome && (readyHeld s u 0x50).isSome)

/-- A command reaches the unit at partition `q`: it waits while a STEP of the partition is in progress or is dispatched in this cycle, while
others of its partition wait, or while the store has no room (R492, R494). -/
def commandAt (s : State) (q : Nat) (ses : Option Nat) (c : List Byte) : State :=
  if (partAt s q).step.isSome ∨ stepDue s q ∨ !(partAt s q).cmdQ.isEmpty ∨ recordRoom s < recordNeed s q ses c then
    setPart s q { partAt s q with cmdQ := (partAt s q).cmdQ ++ [(match ses with | none => 0 | some i => i + 1, c)] }
  else applyCommand s q ses c s.beat

/-- A host command goes to the partition that it names; one that names none is refused, at partition 0. -/
def serveCommand (s : State) (ses : Option Nat) (c : List Byte) : State :=
  commandAt s (if leAt c 3 1 ∈ partitions s then leAt c 3 1 else 0) ses c

/-- Apply the commands that wait, in order, while there is room. -/
def drainCommands (s : State) (p b : Nat) : State :=
  let q := (partAt s p).cmdQ
  let go := q.foldl (fun (r : State × List (Nat × List Byte)) k =>
    let ses := if k.1 = 0 then none else some (k.1 - 1)
    if r.2.isEmpty ∧ recordNeed r.1 p ses k.2 ≤ recordRoom r.1 then (applyCommand r.1 p ses k.2 b, [])
    else (r.1, r.2 ++ [k])) (setPart s p { partAt s p with cmdQ := [] }, [])
  setPart go.1 p { partAt go.1 p with cmdQ := go.2 }

/-- The plan ends, and the commands that a boundary held back are applied. -/
def planEnds (s : State) (p : Nat) : State :=
  let t := endServing s p
  drainCommands t p t.beat

/-- The plan of a partition is gone: nothing is ACTIVE by a boundary of its any more, ended entries are FREE at once (R483), and the commands
that a boundary held back are applied. -/
def planGone (s : State) (p : Nat) : State :=
  let t := freeEnded (dropStep s p) p
  drainCommands t p t.beat

/-- A command waits for room, and no boundary holds it back. -/
def unitWaits (s : State) (p : Nat) : Bool := (partAt s p).step.isNone && !stepDue s p && !(partAt s p).cmdQ.isEmpty

/-- The store has room again: commands that waited for it are applied (R492). -/
def resumeUnit (s : State) : State :=
  (partitions s).foldl (fun t p => if unitWaits t p then drainCommands t p t.beat else t) s

/-- A SERVE packet that arrives in partition `p` (R385). -/
def servePacket (s : State) (p : Nat) (c : List Byte) : State := commandAt s p none c

/-- SUBMIT (R490). -/
def execSubmit (ses : Option Nat) (cmd : List Byte) (s : State) : Host.Outcome State Fault Refusal :=
  done s (serveCommand s ses cmd)

/-- CANCEL (R483, R490). -/
def execCancel (ses : Option Nat) (cmd : List Byte) (s : State) : Host.Outcome State Fault Refusal :=
  done s (serveCommand s ses cmd)

/-! ### The step boundary (R494 to R497) -/

/-- A boundary in progress: the state and the records written so far. -/
abbrev Bound := State × List (List Byte)

/-- Insert by slot number. -/
def insSlot : List (Nat × ServeEnt) → Nat × ServeEnt → List (Nat × ServeEnt)
  | [], a => [a]
  | b :: r, a => if a.2.slot < b.2.slot then a :: b :: r else b :: insSlot r a

/-- The occupied slots' entries in ascending slot number. -/
def bySlot (s : State) (p : Nat) : List (Nat × ServeEnt) :=
  (((partEnts s p).filter (fun e => e.2.slv)).foldl insSlot [])

/-- A result record that breaks R496. -/
def badResult (ahead len : Nat) (r : List Byte) : Bool :=
  decide (ahead < leAt r 0 1) || decide (len ≤ leAt r 1 1) || decide (12 < leAt r 2 1) || decide (1 < leAt r 3 1) || leAt r 4 12 != 0

/-- GEN after more tokens: what the spec does not state, a count past the field's 24 bits, is a free value (log entry 6). -/
def genAfterEmit (s : State) (g : Nat) : Nat × State :=
  if g < 2 ^ 24 then (g, s) else let r := draw s; (r.1.toNat % 2 ^ 24, r.2)

/-- Phase 1 for one occupied slot. -/
def stepResult (u p ahead sp addr cnt tag : Nat) (b : Bound) (e : Nat × ServeEnt) : Bound :=
  let s := b.1
  let x := e.2
  let finish := fun (t : State) (y : ServeEnt) (reason : Nat) (l : List (List Byte)) =>
    let r := endEnt t p e.1 y reason
    ((r.1, l ++ [r.2]) : Bound)
  if x.st = 3 then finish s x 5 b.2
  else
    let a := flatAddr u sp (addr + 64 * x.slot)
    let r := peek s a 64
    let s := readErrors s u 5 a 64 cnt tag 0
    if badResult ahead x.length r then finish (bump s (0x4810 + p) 11 15 3 1) x 9 b.2
    else
      let len := min (x.length - leAt r 1 1 + leAt r 0 1) (2 ^ 24 - 1)
      let emitN := if x.maxNew ≠ 0 then min (leAt r 2 1) (x.maxNew - x.gen) else leAt r 2 1
      let l := if emitN = 0 then b.2
        else b.2 ++ [recBytes 3 0 e.1 x.tag s.beat emitN 0 ((r.drop 16).take (4 * emitN))]
      let g := genAfterEmit s (x.gen + emitN)
      let s := g.2
      let y := { x with length := len, gen := g.1 }
      if leAt r 3 1 = 1 then finish s y 1 l
      else if x.maxNew ≠ 0 ∧ g.1 = x.maxNew then finish s y 2 l
      else if len = 2 ^ 24 - 1 then finish s y 3 l
      else if 4096 < needOf s p ahead len then finish s y 4 l
      else (putEnt s e.1 { y with pages := x.pages.take (needOf s p ahead len) }, l)

/-- The end of phase 1 for one QUEUED entry: its deadline has passed. -/
def stepDeadline (p : Nat) (b : Bound) (e : Nat × ServeEnt) : Bound :=
  if e.2.st = 1 ∧ e.2.deadline ≠ 0 ∧ 0 < beatDiff b.1.beat e.2.deadline then
    let r := endEnt b.1 p e.1 e.2 6
    (r.1, b.2 ++ [r.2])
  else b

/-- Bring an entry to its need, or none when the pool cannot cover it (R487, R488). -/
def topUp (s : State) (p ahead e : Nat) (x : ServeEnt) : Option State :=
  let n := needOf s p ahead x.length
  let more := n - x.pages.length
  if freeCount s p < more then none
  else some (putEnt s e { x with pages := x.pages.take n ++ lowPages s p more })

/-- Phase 2 for one ACTIVE entry. -/
def stepTop (p ahead : Nat) (b : Bound) (e : Nat × ServeEnt) : Bound :=
  if e.2.st ≠ 2 then b
  else match topUp b.1 p ahead e.1 e.2 with
    | some t => (t, b.2)
    | none =>
      let r := endEnt b.1 p e.1 e.2 7
      (r.1, b.2 ++ [r.2])

/-- The order of admission (R495): highest PRIO, earliest deadline, lowest index. -/
def admitBefore (beat : Nat) (a b : Nat × ServeEnt) : Bool :=
  let rank := fun (x : ServeEnt) => if x.deadline = 0 then 2 ^ 48 else (x.deadline + 2 ^ 48 - beat % 2 ^ 48) % 2 ^ 48
  if a.2.prio ≠ b.2.prio then decide (b.2.prio < a.2.prio)
  else if rank a.2 ≠ rank b.2 then decide (rank a.2 < rank b.2)
  else decide (a.1 < b.1)

def insAdmit (beat : Nat) : List (Nat × ServeEnt) → Nat × ServeEnt → List (Nat × ServeEnt)
  | [], a => [a]
  | b :: r, a => if admitBefore beat a b then a :: b :: r else b :: insAdmit beat r a

/-- NONDET_COUNT, PART_NONDET and NONDET_LAST (R252, R500). -/
def noteAdmission (s : State) (p e slot : Nat) : State :=
  let s := bump s 0x2108 1 3 0 1
  let s := bump s (0x2130 + p) 8 9 2 1
  wb s 0x2108 2 (padTo 16 (leBytes 6 s.beat ++ leBytes 2 e ++ leBytes 2 slot ++ leBytes 1 p))

/-- Phase 3: candidates in order against free slots in order, with the entries admitted. -/
def stepAdmit (p ahead : Nat) : List (Nat × ServeEnt) → List Nat → Bound → List Nat → Bound × List Nat
  | [], _, b, new => (b, new)
  | _ :: _, [], b, new => (b, new)
  | c :: cs, sl :: sls, b, new =>
    let drop := fun (reason : Nat) => let r := endEnt b.1 p c.1 c.2 reason; ((r.1, b.2 ++ [r.2]) : Bound)
    if !(partAt b.1 p).ctxMap.contains c.2.ctx then stepAdmit p ahead cs (sl :: sls) (drop 10) new
    else if 4096 < needOf b.1 p ahead c.2.length then stepAdmit p ahead cs (sl :: sls) (drop 4) new
    else match topUp b.1 p ahead c.1 { c.2 with st := 2, slot := sl, slv := true } with
      | none => (b, new)
      | some t => stepAdmit p ahead cs sls (noteAdmission t p c.1 sl, b.2) (c.1 :: new)

/-- The slot table record of a slot (R497). -/
def slotRec (s : State) (p : Nat) (new : List Nat) (o : Option (Nat × ServeEnt)) : List Byte :=
  match o with
  | none => padTo 32 (leBytes 2 0xFFFF)
  | some (e, x) => padTo 32 (leBytes 2 e ++ leBytes 1 (if new.contains e then 1 else 0) ++
      leBytes 1 ((partAt s p).ctxMap.findIdx (fun c => c == x.ctx)) ++ leBytes 4 x.length ++ leBytes 8 x.listPtr ++
      leBytes 2 x.pages.length ++ leBytes 4 x.gen)

/-- Phase 4: the page lists and the slot table. -/
def stepOutput (s : State) (u p slots sp addr : Nat) (new : List Nat) : State :=
  let act := bySlot s p
  let s := act.foldl (fun t e => poke t e.2.listPtr (pageList e.2)) s
  poke s (flatAddr u sp addr)
    ((List.range slots).map (fun i => slotRec s p new (act.find? (fun e => e.2.slot == i)))).flatten

/-- The four phases (R495). -/
def boundary (s : State) (u p : Nat) (q : QDesc) : Bound :=
  let d := q.raw
  let ahead := fld d 276 4
  let slots := fld d 256 11
  let s := freeEnded s p
  let b := (bySlot s p).foldl (stepResult u p ahead (fld d 380 4) (fld d 340 40) q.cnt (dTag d)) (s, [])
  let b := (partEnts b.1 p).foldl (stepDeadline p) b
  let b := (bySlot b.1 p).foldl (stepTop p ahead) b
  let taken := (bySlot b.1 p).map (fun e => e.2.slot)
  let cand := ((partEnts b.1 p).filter (fun e => e.2.st == 1)).foldl (insAdmit b.1.beat) []
  let r := if s.mcDown then (b, []) else stepAdmit p ahead cand ((List.range slots).filter (fun i => !taken.contains i)) b []
  (stepOutput r.1.1 u p slots (fld d 336 4) (fld d 296 40) r.2, r.1.2)

/-- Cycles that the HBM accesses of a boundary wait: the unit reads the results, and writes page lists and slot table, of each die in a stretch
of that die (R308, R498). -/
def stepWait (s : State) (p : Nat) (d : BitVec 512) : Nat :=
  let slots := fld d 256 11
  let lists := (bySlot s p).map (fun e => (e.2.listPtr, 4 * e.2.pages.length))
  let all := (if fld d 380 4 = 3 then [(fld d 340 40, 64 * slots)] else []) ++ (if fld d 336 4 = 3 then [(fld d 296 40, 32 * slots)] else []) ++ lists
  let ds := (all.map (fun r => diesOf s r.1 r.2)).flatten.eraseDups
  (ds.map (fun k => (stretchIn s (partAt s p) k).getD (2 ^ 64))).foldl max 0

/-- The held STEP is dispatched: the step boundary (R494). Its reads and writes of HBM are made in the stretches that follow, which puts off its
signal (R498); no plan reads what it writes before that, and a host read of it waits for the same stretches, so the model writes at once
(DESIGN CHOICE, log entry 47). Waits of its KM accesses for bank ports show as the lateness of STEP_COMPLETE. -/
def startStep (s : State) (u p : Nat) (q : QDesc) : State :=
  let d := q.raw
  let slots := fld d 256 11
  let x := coreAt s u
  let s := setCore s u { x with held := none, idleTill := absNow s + 1, calls := followCalls x q.cnt }
  let b := boundary s u p q
  let w := stepWait b.1 p d
  let r : StepRun := { u := u, d := q, start := absNow s, fin := absNow s + 256 + 2 * slots + w, wait := w, recs := b.2 }
  setPart b.1 p { partAt b.1 p with step := some r, stepCfg := some (slots, fld d 276 4) }

/-- STEP (R204, R494): it also waits for the partition's previous STEP, which counts as queue slip. -/
def execStep (u c : Nat) (s : State) : Host.Outcome State Fault Refusal :=
  let t := coreTick s u c
  onCore s u (match readyHeld t u 0x50 with
    | some q =>
      let p := partOf t u
      if (partAt t p).step.isSome then t else startStep (heldSlip t u q) u p q
    | none => t)

/-- Move a STEP's records into the store while there is room. -/
def storeRecords (p : Nat) : List (List Byte) → State → State × List (List Byte)
  | [], s => (s, [])
  | r :: rs, s => if recordRoom s = 0 then (s, r :: rs) else storeRecords p rs (putRecord s p r)

/-- STEP_COMPLETE (R498): the records are in the store and the signal is due; the cycles beyond the least are X. -/
def stepComplete (s : State) (p : Nat) : State :=
  match (partAt s p).step with
  | none => s
  | some r =>
    let m := storeRecords p r.recs s
    let s := setPart m.1 p { partAt m.1 p with step := some { r with recs := m.2 } }
    if !m.2.isEmpty ∨ absNow s < r.fin then s
    else
      let t := absNow s
      let s := setPart s p { partAt s p with step := none }
      let s := signalDone (settle s r.u t) r.u 7 r.d
      let s := bump s (0x4810 + p) 8 15 0 1
      let s := bump s (0x4810 + p) 12 15 4 (t - r.fin + r.wait)
      drainCommands s p (if beatLen s ≤ s.cyc + 1 then (s.beat + 1) % 2 ^ 48 else s.beat)

def execStepComplete (p c : Nat) (s : State) : Host.Outcome State Fault Refusal :=
  let t := tick s c
  onPart s p (if planState t p = 3 then stepComplete t p else t)

/-! ### Maintenance (R503) -/

/-- SERVE_MAINT. -/
def execServeMaint (ses : Nat) (val : List Byte) (s : State) : Host.Outcome State Fault Refusal :=
  done s (setting s ses 0x4800 3
    (fun s x => setStatus s x 0x4800 3 val false false (leNat val == 1 && !s.serve.isEmpty) s.serveTest.isSome)
    (fun s _ => wr s 0x4800 3 (leNat val)))

/-- SERVE_SELFTEST. -/
def execServeSelftest (ses : Nat) (s : State) : Host.Outcome State Fault Refusal :=
  done s (invoking s ses 0x4800 4 12 false
    (fun s x => invStatus s x 0x4800 4 [] 0 (rg s 0x4800 3 != 1) false s.serveTest.isSome)
    (fun s _ h => { s with serveTest := some h }))

/-- SERVE_SELFTEST_END: table and record store were overwritten; every entry is FREE. -/
def serveSelftestEnd (s : State) (pass : Bool) : State :=
  match s.serveTest with
  | none => s
  | some h =>
    let s := { s with serveTest := none, serve := [], records := [] }
    finishHandle (wb s 0x4800 5 (padTo 16 (leBytes 1 (if pass then 1 else 2)))) h .ok 0 []

def execServeSelftestEnd (pass : Bool) (s : State) : Host.Outcome State Fault Refusal := onServe s (serveSelftestEnd s pass)

end Sys2Proof.Machine
end

