-- ==== Sys2Proof/Machine/Part.lean ====
section
/-! DEFINITION. Partitions: their states (R548), assignment, release and maintenance (R548, R549), and the scrub (R550 to R555). -/

namespace Sys2Proof.Machine

/-! ### Sessions that end (R549, R609, R621) -/

/-- A session ends: its rings, sink, events and requests go with it, and its lock is released. The answers to its commands stay in the store,
which loses no record (R492); nobody can take them, and they go with a scrub of their partition (DESIGN CHOICE, log entry 47). -/
def closeSession (s : State) (id : Nat) : State :=
  { s with sessions := s.sessions.filter (fun x => x.id != id),
           records := s.records.map (fun r => if r.1 / 8 = id + 1 then (r.1 % 8 + 8 * (2 ^ 33), r.2) else r),
           asks := kdel s.asks id,
           lockBy := if s.lockBy = some id then none else s.lockBy,
           lockLeft := if s.lockBy = some id then 0 else s.lockLeft }

/-- Close the Tenant sessions that hold a partition's key and no other ASSIGNED partition (R549). -/
def closeTenants (s : State) (p : Nat) : State :=
  ((s.sessions.filter (fun x => decide (x.role = .tn) && tenantParts s x == [p])).map Session.id).foldl closeSession s

/-! ### The scrub -/

def setPartState (s : State) (p v : Nat) : State := wr s (0x6040 + p) 1 v

/-- The dies and contexts that the state store records of a partition (R553): those named now, or when its PART_RELEASE was issued (R614). -/
def storeRecord (s : State) (p : Nat) : State :=
  { s with stateStore := s.stateStore.filter (fun r => r.1 != p) ++
             [(p, dieMask (partDies s p), (partAt s p).relCtx.getD (rg s (0x6040 + p) 8))] }

/-- Contexts GRAFTED into a partition. -/
def graftedIn (s : State) (p : Nat) : List Nat := (List.range 64).filter (fun c => graftedInto s c p)

/-- Entry to SCRUBBING: no plan, no graft, contexts READY, links drain (R550, R552, R554). -/
def startScrub (s : State) (p : Nat) : State :=
  let s := setPartState (storeRecord s p) p 3
  let s := scrubGrafts s p
  let s := (graftedIn s p).foldl ungraft s
  let s := match (partAt s p).loading with
    | some r => finishHandle (setPart s p { partAt s p with loading := none }) r.handle .busy 0 []
    | none => s
  let s := planGone (unloadPlan (setPart s p { partAt s p with resetting := false, relCtx := none }) p) p
  (partLinks s p).foldl (fun t l => if linkState t l = 3 ∨ linkState t l = 4 then setLink t l { linkAt t l with draining := true } else t) s

/-- A partition becomes DIRTY, and its scrub starts at once (R548, R549). -/
def becomeDirty (s : State) (p : Nat) : State :=
  let s := closeTenants s p
  startScrub (setPartState (setPart s p { partAt s p with relPending := false }) p 2) p

/-- Return the entries that a scrub returns (R338, R508, R550). -/
def scrubDefaults (s : State) (p : Nat) : State :=
  let s := resetEntries s (fun idx e =>
    (e.scrub || (e.load && e.acc.any (fun a => a.1 == .ro && a.2.contains .tn))) &&
      match (locate idx).2.1 with
      | .die => partLow s (locate idx).2.2 == p
      | .part => (locate idx).2.2 == p
      | .pkg => false
      | .link => false
      | .ctx => false
      | .rank => false
      | .self => false)
  (partDies s p).foldl (fun t d => wr t (0x4010 + d) 12 0) s

/-- Clear a link's transmit queues, replay buffer and receive pool; it stays UP (R552). Nothing waits there any more. -/
def clearQueues (s : State) (l : Nat) : State :=
  setLink s l { linkAt s l with planQ := [], unsQ := [], fwdQ := [], held := [], replayQ := [], draining := false, poolUsed := 0, waiting := [] }

/-- The links of a partition that still hold frames or pool units at a scrub; they are not cleared before they are empty (R552). -/
def undrained (s : State) (p : Nat) : Bool :=
  (partLinks s p).any (fun l => (linkAt s l).draining && !((linkAt s l).held.isEmpty && (linkAt s l).poolUsed == 0))

/-- Clear what R550 lists. -/
def scrubClear (s : State) (p : Nat) : State :=
  let q := partAt s p
  let s := scrubDefaults s p
  let s := { zeroOnChip s p with cores := s.cores.filter (fun x => partLow s (dieOf x.1) != p) }
  let s := (partDies s p).foldl (fun t d => { mzero t (d * dieHbm) dieHbm with scrubNum := kset t.scrubNum d t.logNum }) s
  let s := { s with serve := kclear s.serve (2048 * p) (2048 * (partDies s p).length),
                    records := s.records.filter (fun r => r.1 % 8 != p),
                    hints := kclear s.hints p (partDies s p).length }
  let s := setPart s p { relHandle := q.relHandle, asgHandle := q.asgHandle, scrHandle := q.scrHandle, seen := q.seen, cmdQ := q.cmdQ }
  let s := toDefault (wr (setPlanState s p 0) (0x2120 + p) 5 0) (0x2120 + p) 3
  (partLinks s p).foldl (fun t l => if (linkAt t l).draining then clearQueues t l else t) s

/-- A context named in PART_ERASE_CTX can be erased now (R471, R554). -/
def erasable (s : State) (p c : Nat) : Bool :=
  (ctxState s c == 0 || ctxState s c == 2 || ctxState s c == 3) &&
    !((s.grafts ++ s.graftRun.toList).any (fun g => g.ctx == c && g.part != p))

/-- The contexts that the scrub of a partition erases, as a mask: those named when it was recorded as DIRTY (R553, R614). -/
def namedCtx (s : State) (p : Nat) : Nat := (s.stateStore.find? (fun r => r.1 == p)).elim (rg s (0x6040 + p) 8) (fun r => r.2.2)

/-- The named contexts are erased; the mask of those that were skipped. -/
def eraseNamed (s : State) (p : Nat) : State × Nat :=
  ((List.range 64).filter (bit (namedCtx s p))).foldl (fun r c =>
    if erasable r.1 p c then (eraseCtx r.1 c, r.2) else (r.1, r.2 + 2 ^ c)) (s, 0)

/-- SCRUB_LAST. -/
def scrubLast (s : State) (p res d ch us skipped : Nat) : State :=
  wb s (0x6040 + p) 9 (leBytes 1 res ++ leBytes 1 d ++ leBytes 1 ch ++ leBytes 1 0 ++ leBytes 4 us ++ leBytes 6 s.beat ++
    leBytes 8 skipped ++ leBytes 2 0)

/-- The MiB that a scrub writes: HBM, CM, OC and KM of the partition's dies (R550). -/
def scrubMiB (s : State) (p : Nat) : Nat := (partDies s p).length * (98304 + 684)

/-- Complete the handles that wait for a scrub. Their PROGRESS is the MiB scrubbed (R611): registers and link buffers, whose bytes have no address,
do not count (DESIGN CHOICE, log entry 47), and what a scrub that fails has written is a measured value (log entry 6). -/
def scrubHandles (s : State) (p : Nat) (st : Status) : State :=
  let q := partAt s p
  let hs := q.relHandle.toList ++ q.scrHandle.toList ++ q.asgHandle.toList
  let n := if st = .ok then scrubMiB s p else Config.measured (rkey 0x6040 7) s.fresh % scrubMiB s p
  let s := setPart { s with fresh := s.fresh + 1 } p { q with relHandle := none, asgHandle := none, scrHandle := none }
  let s := hs.foldl (fun t h => progress t h n) s
  finishOpt (finishOpt (finishOpt s q.relHandle st 0 []) q.scrHandle st 0 []) q.asgHandle st 0 []

/-- SCRUB_COMPLETE (R548, R551 to R555): `bad` names the die and channel that failed it. The named contexts are erased either way. -/
def scrubComplete (s : State) (p us : Nat) (bad : Option (Nat × Nat)) : State :=
  if partState s p ≠ 3 ∨ undrained s p then s
  else
    let e := eraseNamed s p
    match bad with
    | some f =>
      let s := setPartState (wr (scrubLast e.1 p 2 f.1 f.2 us e.2) (0x6040 + p) 8 0) p 2
      let s := { s with stateStore := s.stateStore.map (fun r => if r.1 = p then (p, r.2.1, 0) else r) }
      scrubHandles (secLog s 0x0E 0xFF p 0 (leBytes 1 f.1 ++ leBytes 1 f.2)) p .state
    | none =>
      let s := scrubClear e.1 p
      let s := wr (scrubLast s p 1 0 0 us e.2) (0x6040 + p) 8 0
      let s := { s with stateStore := s.stateStore.filter (fun r => r.1 != p) }
      let s := wr s (0x6040 + p) 2 0
      let s := setPartState s p (if (partAt s p).asgHandle.isSome then 4 else 0)
      scrubHandles (secFree s 0x0D 0xFF p 0) p .ok

def execScrubComplete (p us : Nat) (bad : Option (Nat × Nat)) (s : State) : Host.Outcome State Fault Refusal :=
  onPart s p (scrubComplete s p us bad)

/-! ### Assignment, release, maintenance -/

/-- PART_ASSIGN. -/
def execPartAssign (ses p : Nat) (s : State) : Host.Outcome State Fault Refusal :=
  done s (invoking s ses (0x6040 + p) 4 6 false
    (fun s x => invStatus s x (0x6040 + p) 4 [] 0 (partState s p != 0 || leNat (rb s (0x6040 + p) 3) == 0) false false)
    (fun s _ h =>
      if rg s (0x6040 + p) 2 = 0 then finishHandle (setPartState s p 4) h .ok 0 []
      else startScrub (setPart s p { partAt s p with asgHandle := some h }) p))

/-- An ASSIGNED partition is released (R549). -/
def doRelease (s : State) (p h : Nat) : State :=
  let s := setPart s p { partAt s p with relHandle := some h, relCtx := some (rg s (0x6040 + p) 8) }
  if planState s p = 3 then raise (setPart s p { partAt s p with relPending := true }) (partRec s p 0x0704 (leBytes 1 p))
  else becomeDirty s p

/-- PART_RELEASE. -/
def execPartRelease (ses p : Nat) (s : State) : Host.Outcome State Fault Refusal :=
  done s (invoking s ses (0x6040 + p) 5 7 false
    (fun s x => invStatus s x (0x6040 + p) 5 [] 0 (partState s p != 4 || (partAt s p).relPending) false false)
    (fun s _ h => doRelease s p h))

/-- A self-test runs on a unit of the partition (R336, R375). -/
def testRuns (s : State) (p : Nat) : Bool :=
  (match s.hbmTest with
    | some t => (partDies s p).any (fun d => bit t.2 d)
    | none => false) || (partLinks s p).any (fun l => linkState s l == 6)

/-- PART_MAINT. -/
def execPartMaint (ses p : Nat) (val : List Byte) (s : State) : Host.Outcome State Fault Refusal :=
  done s (setting s ses (0x6040 + p) 6
    (fun s x => setStatus s x (0x6040 + p) 6 val false false
      (leNat val == 1 && partState s p != 1 && !(partState s p == 0 && (planState s p == 0 || planState s p == 5)))
      (leNat val == 0 && partState s p == 1 && testRuns s p))
    (fun s _ =>
      let s := wr s (0x6040 + p) 6 (leNat val)
      if leNat val = 1 then setPartState s p 1
      else if partState s p = 1 then wr (setPartState s p 0) (0x6040 + p) 2 1
      else s))

/-- PART_ERASE_CTX. -/
def execPartEraseCtx (ses p : Nat) (val : List Byte) (s : State) : Host.Outcome State Fault Refusal :=
  done s (setting s ses (0x6040 + p) 8
    (fun s x => setStatus s x (0x6040 + p) 8 val false false
      ((List.range 64).any (fun c => bit (leNat val) c && (ctxState s c == 1 ||
        (ctxState s c == 4 && !graftedInto s c p) || (s.grafts ++ s.graftRun.toList).any (fun g => g.ctx == c && g.part != p)))) false)
    (fun s _ => wr s (0x6040 + p) 8 (leNat val)))

/-- PART_SCRUB. -/
def execPartScrub (ses p : Nat) (s : State) : Host.Outcome State Fault Refusal :=
  done s (invoking s ses (0x6040 + p) 7 8 false
    (fun s x => invStatus s x (0x6040 + p) 7 [] 0 (partState s p != 2) false false)
    (fun s _ h => startScrub (setPart s p { partAt s p with scrHandle := some h }) p))

end Sys2Proof.Machine
end

