-- ==== Sys2Proof/Machine/Power.lean ====
section
/-! DEFINITION. Power, temperature and trips: sensors (R509 to R512), sense faults and calibration (R513 to R520), energy (R521, R522),
the cap controller (R523 to R529) and trips (R530 to R533). -/

namespace Sys2Proof.Machine

/-! ### FP32 entries -/

/-- The FP32 code nearest to a rational, to even on a tie; a sticky bit below 30 further bits stands for the rest. -/
def f32OfRat (q : Rat) : Nat :=
  if q = 0 then 0
  else
    let n := q.num.natAbs
    let k : Int := 30 + (Nat.log2 q.den : Int) - (Nat.log2 n : Int)
    let a := if 0 ≤ k then n * 2 ^ k.toNat else n
    let b := if 0 ≤ k then q.den else q.den * 2 ^ (-k).toNat
    toFormat 0 0 0 false (.fin (decide (q < 0)) (2 * (a / b) + (if a % b = 0 then 0 else 1)) (-k - 1))

/-- The value of an FP32 code; 0 for what is no number. -/
def ratOfF32 (c : Nat) : Rat :=
  match decodeVal 0 c with
  | .fin neg m e =>
    let v : Rat := if 0 ≤ e then (m : Rat) * (2 : Rat) ^ e.toNat else (m : Rat) / (2 : Rat) ^ (-e).toNat
    if neg then -v else v
  | .inf _ => 0
  | .nan => 0

/-- Watts as an entry shows them, from mW. -/
def wattsOf (mw : Nat) : Nat := f32OfRat ((mw : Rat) / 1000)

/-! ### Trips (R530 to R533) -/

/-- The compute rails go off: the package stops, and HBM and on-chip contents, links and plans are lost (R530, R657). -/
def railsOff (s : State) : State :=
  let t := (partitions s).foldl (fun t p => setPlanState (wr t (0x2120 + p) 5 0) p 0) s
  let t := (List.range (linksOf s.variant)).foldl (fun t l => wr t (0x3001 + 16 * l) 1 0) t
  { t with railsUp := false, pwrGood := false, cores := [], links := [], parts := [], mem := [], ecc := [], serve := [], chReady := [], bankUse := [],
           phaseLeft := 0 }

/-- A trip of a cause of R534. A cause that arises while a trip is in progress is logged once and changes nothing (R531, R533). -/
def trip (s : State) (cause : Nat) : State :=
  if !s.railsUp ∧ !s.tripped then s
  else if s.tripped ∧ cause ∈ s.tripCauses then s
  else
    let t := logRec { s with tripCauses := (if s.tripped then s.tripCauses else []) ++ [cause] } (pkgRec s 5 (0x0800 + cause) [])
    if s.tripped then t
    else { railsOff (wr t 0x5018 2 cause) with tripped := true, tripKept := 2, faultN := true }

/-! ### Temperatures (R509 to R512) -/

/-- A junction reading in 1/16 °C that is valid (R511). -/
def tempOk (t : Int) : Bool := decide (-320 ≤ t ∧ t ≤ 2400)

/-- The hottest of a list. -/
def hottest : List Int → Option Int
  | [] => none
  | a :: r => match hottest r with
    | none => some a
    | some b => some (max a b)

/-- The hottest valid junction of a die, in 1/16 °C. -/
def dieHot (s : State) (d : Nat) : Option Int := hottest (((kget s.sens d).getD []).filter tempOk)

/-- Whether any junction is above `a` °C or any stack above `b` °C. -/
def hotter (s : State) (a b : Nat) : Bool :=
  (List.range (dies s.variant)).any (fun d =>
    (match dieHot s d with
      | some t => decide (16 * (a : Int) < t)
      | none => false) || ((kget s.hbmTemp d).getD []).any (fun t => decide (16 * (b : Int) < t)))

/-- Log the sensors of a die that read invalid for the first time. -/
def noteInvalid (s : State) (d : Nat) (raw : List Int) : State :=
  raw.zipIdx.foldl (fun t r =>
    if tempOk r.1 ∨ (d * 96 + r.2) ∈ t.badSens then t
    else capture (alert { t with badSens := t.badSens ++ [d * 96 + r.2] } 5)
      (mkRec t 3 3 (d * 256) (leBytes 1 r.2) (2 ^ d))) s

/-- SENSOR_SAMPLE: 96 junction readings, 24 per region in order, and two stack readings, in 1/16 °C. -/
def sensorSample (s : State) (d : Nat) (raw hbm : List Int) : State :=
  let s := { s with sens := kset s.sens d (raw.take 96), hbmTemp := kset s.hbmTemp d (hbm.take 2) }
  let s := noteInvalid s d (raw.take 96)
  let s := if hotter s (rg s 0x5000 5) 1000 then alert s 2 else s
  let s := if hotter s 1000 95 then alert s 3 else s
  let s := if (dieHot s d).any (fun t => decide (1840 ≤ t)) then trip s 3 else s
  let s := if (hbm.take 2).any (fun t => decide (1680 ≤ t)) then trip s 4 else s
  if (List.range 4).any (fun r => let l := ((raw.take 96).drop (24 * r)).take 24; !l.isEmpty && l.all (fun t => !tempOk t)) then trip s 5
  else s

def execSensorSample (d : Nat) (raw hbm : List Int) (s : State) : Host.Outcome State Fault Refusal := onDie s d (sensorSample s d raw hbm)

/-- The thermal entries, refreshed every 1 ms (R509, R510). -/
def refreshThermal (s : State) : State :=
  let s := (List.range (dies s.variant)).foldl (fun t d =>
    let l := (kget t.sens d).getD []
    let t := wb t (0x5020 + d) 1 (padTo 384 ((l.map (fun v => leBytes 4 (if tempOk v then (v % 2 ^ 32).toNat else 2 ^ 31))).flatten))
    let t := wr t (0x5020 + d) 2 (match dieHot t d with | some v => f32OfRat ((v : Rat) / 16) | none => 0)
    ((kget t.hbmTemp d).getD []).zipIdx.foldl (fun t v => wtab t 0x5008 8 4 (2 * d + v.2) (f32OfRat ((v.1 : Rat) / 16))) t) s
  wb s 0x5008 7 (leBytes 4 (f32OfRat ((s.coolant.1 : Rat) / 16)) ++ leBytes 4 (f32OfRat ((s.coolant.2 : Rat) / 16)))

/-! ### Rails and calibration (R513 to R520) -/

def railAt (s : State) (r : Nat) : RailSt := (kget s.rails r).getD {}
def setRail (s : State) (r : Nat) (x : RailSt) : State := { s with rails := kset s.rails r x }

/-- The die and kind of a die rail: 0 core, 1 SRAM, 2 HBM, 3 SerDes. -/
def railDie (r : Nat) : Option (Nat × Nat) := if 1 ≤ r ∧ r ≤ 16 then some ((r - 1) % 4, (r - 1) / 4) else none

/-- Rails with an estimate and remote sense: 1 to 17, of fitted dies. -/
def estimated (s : State) (r : Nat) : Bool :=
  match railDie r with
  | some d => decide (d.1 < dies s.variant)
  | none => r == 17

/-- The codewords that a link has sent in a calibration interval, for a link that is UP at its end: the stream is continuous, one in 3.2 ns or
6.4 ns (R341; that it was UP throughout is DEDUCED, log entry 49). -/
def codewords (s : State) (l : Nat) : Nat := if linkState s l = 3 then (if glL s l then 156250 else 312500) else 0

/-- The counts of a die in this interval, by class and phase (R516). -/
def dieCounts (s : State) (d : Nat) : List (Nat × Nat × Nat) :=
  (krange s.act (d * 64 * 512) (64 * 512)).map (fun e => (e.1 / 512 % 64, e.1 % 512, e.2)) ++
    [(51, 256, ((List.range 16).map (fun i => codewords s (16 * d + i))).sum)]

/-- Counts as firmware weighs them for a kind of rail, in nJ (R516). -/
def weighed (k : Nat) (l : List (Nat × Nat × Nat)) : Nat := (l.map (fun e => Config.weight k e.1 * e.2.2)).sum

/-- The raw estimate Ê of an estimated rail in this interval, in nJ: a die rail's from its die's counts, VD2D's from those of every die (R516). -/
def rawEstimate (s : State) (r : Nat) : Nat :=
  match railDie r with
  | some (d, k) => weighed k (dieCounts s d)
  | none => weighed 4 (((List.range (dies s.variant)).map (dieCounts s)).flatten)

/-- The calibrated estimate of a raw estimate in nJ, in µJ per 1 ms or mW (R517). -/
def calibrated (s : State) (r : Nat) (est : Nat) : Rat :=
  ratOfF32 (rtab s 0x5010 3 4 r) * (est : Rat) / 1000 + ratOfF32 (rtab s 0x5010 4 4 r) * 1000

/-- A discrepancy above 20 % (R518, R519). -/
def bigGap (s : State) (r : Nat) (meas : Rat) (est : Nat) : Bool :=
  let c := calibrated s r est
  let d := meas - c
  decide ((if d < 0 then -d else d) * 5 > c)

/-- Least squares of M = g E + o over pairs, g clamped to 0.5 to 2.0 (R517); with no spread of E, g is a free value (log entry 6). -/
def fitRail (s : State) (l : List (Rat × Nat)) : Rat × Rat × State :=
  let l := l.map (fun p => (p.1, (p.2 : Rat) / 1000))
  let n : Rat := l.length
  let sm : Rat := (l.map (fun p => p.1)).sum
  let se : Rat := (l.map (fun p => p.2)).sum
  let see : Rat := (l.map (fun p => p.2 * p.2)).sum
  let sme : Rat := (l.map (fun p => p.1 * p.2)).sum
  let v := n * see - se * se
  if v = 0 then
    let (r, t) := draw s
    let g : Rat := 1 / 2 + 3 / 2 * ((r.toNat % 2 ^ 24 : Nat) : Rat) / (2 ^ 24 - 1 : Nat)
    (g, (sm - g * se) / n, t)
  else
    let g := max (1 / 2) (min 2 ((n * sme - sm * se) / v))
    (g, (sm - g * se) / n, s)

/-- The package's calibrated estimate of the last interval, in mW. -/
def packageEst (s : State) : Rat :=
  (((List.range 18).filter (estimated s)).map (fun r => calibrated s r (railAt s r).est)).sum

/-- The mean power of an interval's samples, in mW, which is its energy in µJ (R513, R517). -/
def meanPower (l : List (Nat × Nat)) : Rat :=
  if l.isEmpty then 0 else (((l.map (fun p => p.1 * p.2)).sum : Nat) : Rat) / (1000 * l.length : Nat)

/-- The voltage and current of a rail as last sampled (R513). -/
def readRail (s : State) (r : Nat) (l : List (Nat × Nat)) : State :=
  match l.getLast? with
  | none => s
  | some p => wtab (wtab s 0x5010 1 4 r (f32OfRat ((p.1 : Rat) / 1000))) 0x5010 2 4 r (f32OfRat ((p.2 : Rat) / 1000))

/-- Regulation loss in the last interval, in mW: the VIN power minus that of rails 1 to 18 (R513). It goes to the package share only, which no
entry shows (R521). -/
def regulationLoss (s : State) : Rat := (railAt s 0).meas - ((List.range 18).map (fun r => (railAt s (r + 1)).meas)).sum

/-! ### The thermal model (R518) -/

/-- The hotter stack of a die. -/
def hotStack (s : State) (d : Nat) : Nat :=
  let l := (kget s.hbmTemp d).getD []
  if l.getD 0 0 < l.getD 1 0 then 2 * d + 1 else 2 * d

/-- The sensor that the prediction of a rail is of, in °C: a VHBM rail's hotter stack, another die rail's hottest valid junction; VD2D has none
(log entry 49). -/
def railSensor (s : State) (r : Nat) : Option Rat :=
  match railDie r with
  | some (d, 2) => (hottest ((kget s.hbmTemp d).getD [])).map (fun t => (t : Rat) / 16)
  | some (d, _) => (dieHot s d).map (fun t => (t : Rat) / 16)
  | none => none

/-- θ and τ that apply to a rail, as FP32 codes. -/
def railTheta (s : State) (r : Nat) : Nat × Nat :=
  match railDie r with
  | some (d, 2) => Config.stackTheta (hotStack s d)
  | some (d, _) => (rtab s (0x5020 + d) 3 4 0, rtab s (0x5020 + d) 3 4 1)
  | none => (0, 0)

/-- P of the thermal model in mW, by a power of each rail: a VHBM rail's own, and for another die rail that of the die's core, SRAM and SerDes
rails, since θ is held per die (DESIGN CHOICE, log entry 49). -/
def heating (r : Nat) (power : Nat → Rat) : Rat :=
  match railDie r with
  | some (_, 2) => power r
  | some (d, _) => power (1 + d) + power (5 + d) + power (13 + d)
  | none => power r

/-- A prediction moves towards T_inlet + θ × P by the step of τ; the first takes that value. -/
def predictTemp (s : State) (r : Nat) (old : Option Rat) (p : Rat) : Rat :=
  let th := railTheta s r
  let goal := (s.coolant.1 : Rat) / 16 + ratOfF32 th.1 * p / 1000
  match old with
  | none => goal
  | some o => o + (goal - o) * max 0 (min 1 (Config.filterStep th.2))

/-- The predictions of a rail after this interval, and their errors where its sensor is valid. -/
def predictRail (s : State) (r : Nat) (x : RailSt) : RailSt :=
  let te := predictTemp s r x.tEst (heating r (fun i => if i = r then calibrated s r x.est else calibrated s i (railAt s i).est))
  let tm := predictTemp s r x.tMeas (heating r (fun i => if i = r then x.meas else (railAt s i).meas))
  let dist := fun (a b : Rat) => if a < b then b - a else a - b
  let e := match railSensor s r with
    | some t => [(dist te t, dist tm t)]
    | none => []
  { x with tEst := some te, tMeas := some tm, errs := (x.errs ++ e).drop (x.errs.length + e.length - 5) }

/-- The temperature agrees with the estimate: the prediction from it has the smaller mean error over these intervals. -/
def agrees (l : List (Rat × Rat)) : Bool := decide ((l.map (fun e => e.1)).sum < (l.map (fun e => e.2)).sum)

/-! ### Energy (R521, R522) -/

/-- Add nJ to an energy count kept in mJ. -/
def bumpEnergy (s : State) (p sub ovf nj : Nat) : State := bumpUnits s (0x5040 + p) sub 5 ovf 1000000 nj

/-- Add nJ to a phase tag's energy. -/
def bumpPhase (s : State) (p ph nj : Nat) : State :=
  let k := 2 ^ 40 + 256 * p + ph
  let r := (kget s.rems k).getD 0 + nj
  bumpTab { s with rems := kput 0 s.rems k (r % 1000000) } (0x5040 + p) 2 ph 5 1 (r / 1000000)

/-- Add a number of nJ that may be negative: a count never falls, so what lies below zero is owed and taken from what comes next (DESIGN
CHOICE, log entry 49). -/
def bumpSigned (s : State) (p sub ovf : Nat) (nj : Int) : State :=
  let k := 2 ^ 41 + 16 * p + sub
  let n := nj - ((kget s.rems k).getD 0 : Int)
  bumpEnergy { s with rems := kput 0 s.rems k (-n).toNat } p sub ovf n.toNat

/-- Attribute a die rail's calibrated energy: to each phase tag the part that its counts have in it, the offset and the other activity to no
tag. The estimate is a sum over beats, cores and counts, so what the beats and cores of the interval take in proportion adds up to
this (R521). VD2D goes to the package share. -/
def shareEnergy (s : State) (r : Nat) : State :=
  let x := railAt s r
  match railDie r with
  | none => setRail s r { x with stat := calibrated s r x.est }
  | some (d, k) =>
    let p := partLow s d
    let g := ratOfF32 (rtab s 0x5010 3 4 r)
    let l := (dieCounts s d).filter (fun e => decide (e.2.1 < 256))
    let part := fun (ph : Nat) => (g * (weighed k (l.filter (fun e => e.2.1 == ph)) : Rat)).floor.toNat
    let tags := (List.range 256).filter (fun ph => part ph != 0)
    let tagged : Nat := (tags.map part).sum
    let all := (calibrated s r x.est * 1000).floor
    let s := setRail s r { x with stat := calibrated s r x.est - (tagged : Rat) / 1000 }
    let s := bumpSigned s p 1 0 all
    let s := tags.foldl (fun t ph =>
      bumpPhase { t with attr := kput 0 t.attr (256 * p + ph) ((kget t.attr (256 * p + ph)).getD 0 + part ph) } p ph (part ph)) s
    bumpSigned s p 3 2 (all - tagged)

/-- V(N) of VF_TABLE in mV (R526). -/
def vf (s : State) (n : Nat) : Nat := rtab s 0x5000 6 2 (n - 48)

/-- PHASE_EPC after an interval (R522): 1/16 of the way to the attributed energy per core-cycle, normalised to N = 100. -/
def learnPhases (s : State) : State :=
  let n := rg s 0x2000 1
  let scale : Rat := ((vf s 100 : Rat) / (vf s n : Rat)) ^ 2
  let t := (partitions s).foldl (fun t p =>
    (List.range 256).foldl (fun t ph =>
      let cyc := ((partDies t p).map (fun d => (kget t.coreCyc (256 * d + ph)).getD 0)).sum
      if cyc = 0 then t
      else
        let old := ratOfF32 (rtab t (0x5040 + p) 4 4 ph)
        let new := ((kget t.attr (256 * p + ph)).getD 0 : Rat) / cyc * scale
        wtab t (0x5040 + p) 4 4 ph (f32OfRat (old + (new - old) / 16))) t) s
  { t with attr := [], coreCyc := [] }

/-- Bring every core's core-cycles up to now. -/
def countPhases (s : State) : State :=
  (List.range (coresOf s.variant)).foldl (fun t u =>
    if (kget t.cores u).isSome ∧ planState t (partOf t u) = 3 then countPhase t u else t) s

/-- CALIBRATION_INTERVAL of a rail: rail 0 gives the VIN averages and refreshes the thermal entries, each estimated rail its comparison, fit and
shares, rail 18 ends the interval. The commands of an interval come in ascending order of rails (log entry 49). -/
def calInterval (s : State) (r : Nat) (l : List (Nat × Nat)) : State :=
  let x := railAt s r
  let m := meanPower l
  if r = 0 then
    let h := ((x.hist ++ [(m, 0)]).drop (x.hist.length - 9))
    let s := readRail (setRail s 0 { x with hist := h, meas := m }) 0 l
    let s := { s with avg1 := m.floor.toNat, avg10 := ((h.map (fun e => e.1)).sum / (h.length : Rat)).floor.toNat }
    refreshThermal (wr (wr s 0x5008 1 (wattsOf s.avg1)) 0x5008 2 (wattsOf s.avg10))
  else if r = 18 then
    let s := learnPhases (countPhases (readRail (setRail s 18 { x with meas := m }) 18 l))
    { s with act := [] }
  else if !estimated s r then s
  else
    let e := rawEstimate s r
    let x := predictRail s r { x with meas := m, est := e }
    let big := bigGap s r m e
    let eligible := !(big && agrees (x.errs.drop (x.errs.length - 1))) && !x.frozen
    let h := if eligible then (x.hist ++ [(m, e)]).drop (x.hist.length - 63) else x.hist
    let s := readRail (setRail s r { x with hist := h, bad := if big then x.bad + 1 else 0 }) r l
    let s := if eligible then
        let f := fitRail s h
        wtab (wtab f.2.2 0x5010 3 4 r (f32OfRat f.1)) 0x5010 4 4 r (f32OfRat (f.2.1 / 1000))
      else s
    let s := shareEnergy s r
    wr s 0x5008 3 (f32OfRat (packageEst s / 1000))

def execCalibrationInterval (r : Nat) (meas : List (Nat × Nat)) (coolant : Int × Int) (board : List Int) (s : State) :
    Host.Outcome State Fault Refusal :=
  let t := { s with coolant := coolant, board := board }
  done s (if r ≤ 18 then (if s.railsUp then calInterval t r meas else t) else s)

/-- Set a rail's bit in SENSE_STATE and the sense fault alert. -/
def senseBit (s : State) (r : Nat) : State := alert (wr s 0x5010 5 (rg s 0x5010 5 ||| 2 ^ r)) 0

/-- Rails with remote sense: the estimated ones and VAUX (R513). -/
def sensed (s : State) (r : Nat) : Bool := estimated s r || r == 18

/-- SENSE_OPEN (R515): `n` consecutive implausible samples. -/
def execSenseOpen (r n : Nat) (s : State) : Host.Outcome State Fault Refusal :=
  done s (if sensed s r ∧ 10 ≤ n ∧ ¬(railAt s r).opn then
    logRec (senseBit (setRail s r { railAt s r with opn := true }) r) (pkgRec s 5 0x0601 (leBytes 1 r)) else s)

/-- SENSE_MISMATCH (R519): the outcome of five consecutive large discrepancies. -/
def senseMismatch (s : State) (r : Nat) (above agreesEst : Bool) : State :=
  let x := railAt s r
  if agreesEst then
    if x.frozen then s else logRec (senseBit (setRail s r { x with frozen := true }) r) (pkgRec s 5 0x0602 (leBytes 1 r))
  else if above then raise (setRail s r { x with bad := 0 }) (pkgRec s 5 0x0703 (leBytes 1 r))
  else if x.drift then s
  else logRec (setRail s r { x with drift := true }) (pkgRec s 5 4 (leBytes 1 r))

/-- The measurement of the last interval lies above the calibrated estimate (R519; which of the five intervals decides is DEDUCED, log
entry 49). -/
def measuredAbove (s : State) (r : Nat) : Bool := decide (calibrated s r (railAt s r).est < (railAt s r).meas)

/-- It acts where what it says is what the intervals held: `n` large discrepancies in a row, the last one's direction, and which of the two the
temperature agreed with over the last five. -/
def execSenseMismatch (r n : Nat) (above agreesEst : Bool) (s : State) : Host.Outcome State Fault Refusal :=
  done s (if estimated s r ∧ 5 ≤ n ∧ n ≤ (railAt s r).bad ∧ above = measuredAbove s r ∧ agreesEst = agrees (railAt s r).errs then
    senseMismatch s r above agreesEst else s)

/-- SENSE_STATE (R520). -/
def doSenseState (s : State) (v : Nat) : State :=
  let t := (List.range 19).foldl (fun t r =>
    if bit v r then setRail t r { railAt t r with frozen := false, opn := false, bad := 0 } else t) s
  wr t 0x5010 5 (rg t 0x5010 5 - (rg t 0x5010 5 &&& v))

def execSenseState (ses : Nat) (val : List Byte) (s : State) : Host.Outcome State Fault Refusal :=
  done s (setting s ses 0x5010 5 (fun s x => setStatus s x 0x5010 5 val false false false false)
    (fun s _ => doSenseState s (leNat val)))

/-! ### The cap controller at a beat edge (R526 to R529) -/

/-- The phase that a die's hints announce for a beat (R525). -/
def hintPhase (s : State) (d b : Nat) : Option Nat :=
  ((((kget s.hints d).getD []).filter (fun h => decide (beatDiff h.beat b ≤ 0))).foldl (fun (m : Option Hint) h =>
    match m with
    | none => some h
    | some g => if 0 ≤ beatDiff h.beat g.beat then some h else some g) none).map Hint.phase

/-- Last measured dynamic power of a die, in mW: what was measured beyond the part of no phase tag; a rail in SENSE_MISMATCH counts with its
estimate (R519). -/
def measuredDyn (s : State) (d : Nat) : Rat :=
  max 0 (([1 + d, 5 + d, 9 + d, 13 + d].map (fun r =>
    (if (railAt s r).frozen then calibrated s r (railAt s r).est else (railAt s r).meas) - (railAt s r).stat)).sum)

/-- Usable slots of a cluster, as a mask. -/
def usable (s : State) (cl : Nat) : Nat := rtab s 0x1100 5 4 cl

/-- Set bits (of 17). -/
def bitCount (m : Nat) : Nat := ((List.range 17).filter (fun i => bit m i)).length

/-- The active cores of a die: of each cluster its usable slots, at most 16 (R526, R618, R642). -/
def activeCores (s : State) (d : Nat) : Nat := ((List.range 12).map (fun c => min 16 (bitCount (usable s (12 * d + c))))).sum

/-- D of R526 for a beat, in mW: nJ per core-cycle × the die's active cores × 1.25 GHz, at the voltage in force. -/
def dynPower (s : State) (b : Nat) : Rat :=
  ((List.range (dies s.variant)).map (fun d => match hintPhase s d b with
    | some ph => ratOfF32 (rtab s (0x5040 + partLow s d) 4 4 ph) * (1250 * (activeCores s d : Rat)) * ((vf s (rg s 0x2000 1) : Rat) / (vf s 100 : Rat)) ^ 2
    | none => measuredDyn s d)).sum

/-- S of R526, in mW: the calibrated power of the last interval without its dynamic part, which is what the phase tags took (DEDUCED, log
entry 49); a rail in SENSE_MISMATCH enters with the factor 1.10 (R519). -/
def staticPower (s : State) : Rat :=
  (((List.range 18).filter (estimated s)).map (fun r =>
    (railAt s r).stat + (if (railAt s r).frozen then calibrated s r (railAt s r).est / 10 else 0))).sum

/-- P(N) for a beat. -/
def predict (s : State) (b n : Nat) : Rat :=
  dynPower s b * ((n : Rat) / (rg s 0x2000 1 : Rat)) * ((vf s n : Rat) / (vf s (rg s 0x2000 1) : Rat)) ^ 2 + staticPower s

/-- The beats at which the prediction can differ, up to FSTEP_LEAD + 2 ahead. -/
def predictBeats (s : State) : List Nat :=
  s.beat :: (((List.range (dies s.variant)).map (fun d => ((kget s.hints d).getD []).map Hint.beat)).flatten.filter
    (fun b => decide (0 < beatDiff b s.beat ∧ beatDiff b s.beat ≤ rg s 0x2000 4 + 2)))

/-- Every prediction in the window stays within a limit. -/
def fits (s : State) (n : Nat) (limit : Rat) : Bool := (predictBeats s).all (fun b => decide (predict s b n ≤ limit))

/-- The largest N that fits, 48 when none does. -/
def bestN (s : State) : Nat :=
  let cap : Rat := (rg s 0x5000 2 : Rat) * 1000 * (100 - (rg s 0x5000 3 : Rat)) / 100
  (((List.range 65).map (fun i => 112 - i)).find? (fun n => fits s n cap)).getD 48

/-- At least `n` beats have passed since an event, if it has happened at all. -/
def passedSince (s : State) (n : Int) (o : Option Nat) : Bool := o.all (fun b => decide (n ≤ beatDiff s.beat b))

/-- N_CEIL at a beat edge (R527). -/
def capPredict (s : State) : State :=
  let cur := rg s 0x5008 4
  let best := bestN s
  let hot := hotter s (rg s 0x5000 5) 95
  let low := min best cur
  if hot ∧ low = cur ∧ passedSince s 64 s.ceilDown then { wr s 0x5008 4 (max 48 (cur - 1)) with ceilDown := some s.beat }
  else if low < cur then wr s 0x5008 4 low
  else if !hot ∧ cur < best ∧ passedSince s 256 s.ceilUp ∧ fits s (cur + 1) ((rg s 0x5000 2 : Rat) * 950) then
    { wr s 0x5008 4 (cur + 1) with ceilUp := some s.beat }
  else s

/-- The throttle budget: the smallest of the RUNNING partitions (R237). -/
def budget (s : State) : Option Nat :=
  let l := ((partitions s).filter (fun p => planState s p == 3)).map (fun p => ((partAt s p).reserve - rg s 0x2000 8) / 2)
  match l with
  | [] => none
  | a :: r => some (r.foldl min a)

/-- T of the beat that begins, for the partitions that run in it: a start or an end of a plan and a frequency step at the same edge set it again (R237, R528, R529). -/
def setThrottle (s : State) : State :=
  let cap := rg s 0x5000 2 * 1000
  match budget s with
  | none => wr s 0x5008 5 0
  | some b =>
    if cap < s.avg1 ∨ hotter s (rg s 0x5000 5 + 5) 100 then
      let d := dynPower s s.beat
      let excess := d + staticPower s - (cap : Rat)
      let t := if excess ≤ 0 then 0 else if d ≤ 0 then b else min b ((excess * (beatLen s : Rat) / d).ceil.toNat)
      wr s 0x5008 5 t
    else wr s 0x5008 5 0

/-- CAP_MISS_BEATS: the throttle was at full budget in the beat that ends, and the average still exceeds POWER_CAP (R529). -/
def capMiss (s : State) : State :=
  match budget s with
  | none => s
  | some b => if rg s 0x5008 5 = b ∧ rg s 0x5000 2 * 1000 < s.avg1 then alert (bump s 0x5008 6 10 0 1) 1 else s

/-! ### Commands that trip -/

/-- ENVELOPE_LIMIT (R523, R528): the 1 ms average of VIN power in mW. -/
def execEnvelopeLimit (avgMw : Nat) (s : State) : Host.Outcome State Fault Refusal :=
  let t := wr { s with avg1 := avgMw } 0x5008 1 (wattsOf avgMw)
  done s (if rg s 0x5000 1 * 1050 < avgMw then trip t 6 else t)

/-- CAP_MISS_TRIP (R528): the 10 ms average has been above 1.05 × POWER_CAP for `ms`. -/
def execCapMissTrip (avgMw ms : Nat) (s : State) : Host.Outcome State Fault Refusal :=
  let t := wr { s with avg10 := avgMw } 0x5008 2 (wattsOf avgMw)
  done s (if rg s 0x5000 2 * 1050 < avgMw ∧ rg s 0x5000 4 ≤ ms ∧ budget s = some (rg s 0x5008 5) then trip t 7 else t)

/-- Present state of a trip input. -/
def tripIn (s : State) (b : Bool) : Bool := (kget s.tripAt (if b then 1 else 0)).isSome

/-- TRIP_IN follows the inputs. -/
def showTripIn (s : State) : State :=
  wr s 0x5018 1 ((if tripIn s false then 1 else 0) + (if tripIn s true then 2 else 0))

/-- THERMTRIP: an input has been low for `ns`. -/
def execThermtrip (b : Bool) (ns : Nat) (s : State) : Host.Outcome State Fault Refusal :=
  done s (if ns < 10000 ∨ tripIn s b then s
    else
      let t := showTripIn { s with tripAt := kset s.tripAt (if b then 1 else 0) 0 }
      if (t.pwrGood ∨ t.tripped) ∧ tripIn t (!b) then trip t 1 else t)

/-- TRIP_DISCREPANCY: one input has been asserted for `us` without the other. -/
def execTripDiscrepancy (us : Nat) (s : State) : Host.Outcome State Fault Refusal :=
  done s (if (s.pwrGood ∨ s.tripped) ∧ 2000 ≤ us ∧ tripIn s false ≠ tripIn s true then trip s 2 else s)

/-- TRIP_INPUT_DEASSERT: an input returns high `us` after it asserted. -/
def execTripInputDeassert (b : Bool) (us : Nat) (s : State) : Host.Outcome State Fault Refusal :=
  done s (if !tripIn s b then s
    else
      let t := showTripIn { s with tripAt := kdel s.tripAt (if b then 1 else 0) }
      if t.pwrGood ∧ us < 2000 ∧ !tripIn t (!b) then logRec (alert t 4) (pkgRec t 5 5 (leBytes 1 (if b then 1 else 0))) else t)

end Sys2Proof.Machine
end

