-- ==== Sys2Proof/Machine/Sync.lean ====
section
/-! DEFINITION. The sync engine and the canopy nodes: SYNC and its posts, arrivals of packets' counts, barriers, their releases and
time-outs, and the canopy messages ARRIVE and RELEASE (R265 to R283, R287, R288). -/

namespace Sys2Proof.Machine

/-! ### SYNC (R269 to R273) -/

/-- The head of the sync engine queue, with this opcode, may start now (R271, R278). -/
def syncReady (s : State) (u opc : Nat) : Option QDesc :=
  match (coreAt s u).yq with
  | [] => none
  | q :: _ => if dOpc q.raw = opc ∧ coreWorks s u ∧ issueOk s q ∧ syncHeld s u q = .free then some q else none

/-- The sync engine starts a descriptor that signals or completes `k` cycles later, if at all. -/
def syncStart (s : State) (u : Nat) (q : QDesc) (k : Option Nat) : State :=
  let c := absNow s
  let s := countSlip s u q 1
  let x := coreAt s u
  setCore s u { x with yq := x.yq.drop 1, lastY := c + 1, yrun := x.yrun ++ (k.map (fun n => { d := q, fin := c + n })).toList }

/-- The latency of a post (R271). -/
def postLatency (u v : Nat) : Nat :=
  if u = v then 4 else if clusterOf u = clusterOf v then 12 else if regionOf u = regionOf v then 24
  else if dieOf u = dieOf v then 32 else 64

/-- Send a post to every target core (R270, R271). -/
def sendPosts (s : State) (u : Nat) (d : BitVec 512) : State :=
  (List.range 16).foldl (fun t i =>
    if bit (fld d 312 16) i then
      let v := (fld d 260 2 * 12 + fld d 308 4) * 16 + i
      let x := coreAt t v
      let r : PortInc := { ctr := fld d 268 6, inc := fld d 280 16, ready := absNow t + postLatency u v, release := false,
                           key := u, comp := 0 }
      setCore t v { x with canQ := x.canQ ++ [r] }
    else t) s

/-- SYNC (R271). -/
def execSync (u c : Nat) (s : State) : Host.Outcome State Fault Refusal :=
  let t := coreTick s u c
  onCore s u (match syncReady t u 0x40 with
    | some q => if isNoop q.raw then syncStart t u q (some 4) else sendPosts (syncStart t u q (some 1)) u q.raw
    | none => t)

/-! ### Ports (R265, R266, R268, R272) -/

/-- The increment that a port takes next: earliest first, then releases in ascending BID, then posts in ascending source. -/
def before (a b : PortInc) : Bool :=
  decide (a.ready < b.ready) || (a.ready == b.ready && ((a.release && !b.release) || (a.release == b.release && decide (a.key < b.key))))

def firstInc : List PortInc → Option PortInc
  | [] => none
  | a :: r => match firstInc r with
    | none => some a
    | some b => if before b a then some b else some a

/-- Remove one occurrence. -/
def dropInc : List PortInc → PortInc → List PortInc
  | [], _ => []
  | a :: r, b => if a = b then r else a :: dropInc r b

/-- Whether a source has delivered in the adder's present cycle. -/
def sourceUsed (x : CoreSt) (src : Nat) : Bool := x.addNow.any (fun a => a.src == src)

/-- SYNC_POST_APPLY (R272): the canopy port applies one increment; a release of a barrier with MB = 0 completes its BARRIER. -/
def postApply (s : State) (u : Nat) : State :=
  let x := coreAt s u
  match firstInc (x.canQ.filter (fun r => decide (r.ready ≤ absNow s))) with
  | none => s
  | some r =>
    if sourceUsed x 2 then s
    else
      let s := setCore s u { x with canQ := dropInc x.canQ r }
      let s := if r.release then s else bump s (0x7860 + dieOf u) 1 6 0 1
      let s := deliver s u 2 r.ctr r.inc
      if r.comp = 0 then s else completeAt s u r.comp (absNow s)

def execSyncPostApply (u c : Nat) (s : State) : Host.Outcome State Fault Refusal :=
  let t := coreTick s u c
  onCore s u (if coreWorks t u then postApply t u else t)

/-- ARRIVAL_APPLY (R265, R266): the arrival port applies one entry of its queue of 64. -/
def arrivalApply (s : State) (u : Nat) : State :=
  let x := coreAt s u
  match firstInc (x.arrQ.filter (fun r => decide (r.ready ≤ absNow s))) with
  | none => s
  | some r =>
    if sourceUsed x 1 then s
    else deliver (setCore s u { x with arrQ := dropInc x.arrQ r }) u 1 r.ctr r.inc

def execArrivalApply (u c : Nat) (s : State) : Host.Outcome State Fault Refusal :=
  let t := coreTick s u c
  onCore s u (if coreWorks t u then arrivalApply t u else t)

/-! ### Barriers (R275 to R283) -/

def bBid (d : BitVec 512) : Nat := fld d 256 4
def bScope (d : BitVec 512) : Nat := fld d 262 2
def bMB (d : BitVec 512) : Bool := fld d 265 1 == 1

/-- BARRIER (R278, R281, R282): the arrival is sent; with MB = 1 the descriptor completes in the next cycle. -/
def execBarrier (u c : Nat) (s : State) : Host.Outcome State Fault Refusal :=
  let t := coreTick s u c
  onCore s u (match syncReady t u 0x41 with
    | some q =>
      if isNoop q.raw then syncStart t u q (some 4)
      else
        let t := syncStart t u q (if bMB q.raw then some 1 else none)
        let p := partOf t u
        let a : BArr := { u := u, d := q, cyc := absNow t }
        bump (setPart t p { partAt t p with arrs := (partAt t p).arrs ++ [a] }) (0x7860 + dieOf u) 2 6 1 1
    | none => t)

/-- The node at the top of a scope, seen from a core: cluster, die or the package. -/
def topNode (scope u : Nat) : Nat := match scope with | 0 => clusterOf u | 1 => dieOf u | _ => 0

/-- The LEVELs of the nodes that an arrival of a scope reaches (R279). -/
def pathLevels (scope : Nat) : List Nat := match scope with | 0 => [2] | 1 => [2, 3] | _ => [2, 3, 4]

/-- Whether an arrival has reached the node of a LEVEL above core `u`. -/
def atNode (a : BInst) (level u : Nat) : Bool :=
  (pathLevels a.scope).contains level && (match level with
    | 2 => a.cores.any (fun k => clusterOf k.1 == clusterOf u)
    | 3 => a.cores.any (fun k => dieOf k.1 == dieOf u)
    | _ => true)

/-- The first arrival of a BID at that node, of those whose instances are open (R279). -/
def firstAt (s : State) (p bid level u : Nat) : Option BInst := (partAt s p).reach.find? (fun i => i.bid == bid && atNode i level u)

/-- The record of a canopy node at its LEVEL and with its UNIT (R279). -/
def nodeRec (s : State) (p level die cluster code : Nat) (detail : List Byte) : LogRec :=
  match level with
  | 2 => mkRec s 2 code (cluster * 16 + die * 256) detail (2 ^ die)
  | 3 => mkRec s 3 code (die * 256) detail (2 ^ die)
  | _ => partRec s p code detail

/-- A PLAN_FAULT of a canopy node is logged (R279, R282). -/
def nodeFault (s : State) (p level die cluster code : Nat) (detail : List Byte) : State :=
  let r := nodeRec s p level die cluster code detail
  if level ≤ 3 then capture s r else raise s r

/-- The same SCOPE, MB and masks. -/
def sameMasks (i j : BInst) : Bool :=
  i.scope == j.scope && i.mb == j.mb && i.cmask == j.cmask && i.kmask == j.kmask && i.dmask == j.dmask

/-- Arrivals of one instance: they name one BID at one node and agree (R278, R279). -/
def sameInst (i j : BInst) : Bool := i.bid == j.bid && i.node == j.node && sameMasks i j

/-- An instance closes, and with it what its arrivals were compared with. -/
def closeInst (s : State) (p : Nat) (i : BInst) : State :=
  let q := partAt s p
  setPart s p { q with insts := q.insts.filter (fun k => !sameInst k i), reach := q.reach.filter (fun k => !sameInst k i) }

/-- Compare an arrival, as an instance of its own, with the first arrival at each node it reaches; a mismatch is logged there and both
instances are spoilt (R279). -/
def compareAt (p u src : Nat) (a : BInst) (levels : List Nat) (s : State) : State :=
  levels.foldl (fun t level =>
    match firstAt t p a.bid level u with
    | none => t
    | some i =>
      if sameMasks i a then t
      else
        let t := nodeFault t p level (dieOf u) (u / 16 % 12) 0x0205
          (leBytes 1 a.bid ++ leBytes 1 i.scope ++ leBytes 2 i.src ++ leBytes 2 src ++ leBytes 1 p)
        setPart t p { partAt t p with insts := (partAt t p).insts.map (fun k =>
          if sameInst k i then { k with bad := true } else k) }) s

/-- An arrival, spoilt when it mismatches at a node it reaches. -/
def spoilt (s : State) (p u : Nat) (a : BInst) (levels : List Nat) : BInst :=
  { a with bad := levels.any (fun level =>
      match firstAt s p a.bid level u with
      | none => false
      | some i => !sameMasks i a) }

/-- Every participant within the package has arrived (R276, R280). -/
def allArrived (s : State) (p : Nat) (i : BInst) : Bool :=
  let here := i.cores.map (fun k => k.1)
  match here with
  | [] => false
  | v :: _ => (partCores s p).all (fun u => !participates s v i.scope i.cmask i.kmask i.dmask u || here.contains u)

/-- Every canopy child has arrived (R280). -/
def kidsArrived (s : State) (p : Nat) (i : BInst) : Bool :=
  (canopyKids s p).all (fun n => i.kids.contains n)

/-- RELEASE to every child, with the ORIGIN and HOPS that it carries (R280, R287, R288). -/
def releaseKids (s : State) (p bid origin hops : Nat) : State :=
  (canopyKids s p).foldl (fun t n => sendMsg t n 3 [origin, t.beat, t.cyc, hops, bid]) s

/-- After an arrival in absolute cycle `a`: a complete instance gets its release cycle, or its ARRIVE goes to the parent (R280). -/
def settleInst (s : State) (p : Nat) (key : BInst) (a : Nat) (fromKid : Bool) : State :=
  match (partAt s p).insts.find? (fun i => sameInst i key) with
  | none => s
  | some i =>
    let setRel := fun (t : State) (c : Nat) => setPart t p { partAt t p with insts := (partAt t p).insts.map (fun k =>
      if sameInst k i then { k with relAt := some c } else k) }
    if i.bad ∨ !allArrived s p i then s
    else match i.scope with
      | 0 => setRel s (a + 12)
      | 1 => setRel s (a + 32)
      | 2 => setRel s (a + 64)
      | _ =>
        if (partAt s p).grove = 1 then setRel s (a + 64)
        else if !kidsArrived s p i then s
        else if rg s (0x2210 + p) 1 = 1 then setRel (releaseKids s p i.bid (ownRank s p) 1) (a + (if fromKid then 32 else 64))
        else match canopyParent s p with
          | some l => sendMsg s l 2 [ownRank s p, s.beat, s.cyc, 1, i.bid, i.scope, if i.mb then 1 else 0, i.cmask, i.kmask, i.dmask]
          | none => s

/-- Add an arrival to its instance, opening it if need be. -/
def joinInst (s : State) (p : Nat) (a : BInst) : State :=
  let q := { partAt s p with reach := (partAt s p).reach ++ [a] }
  if q.insts.any (fun i => sameInst i a) then
    setPart s p { q with insts := q.insts.map (fun i =>
      if sameInst i a then { i with cores := i.cores ++ a.cores, kids := i.kids ++ a.kids, bad := i.bad || a.bad } else i) }
  else setPart s p { q with insts := q.insts ++ [a] }

/-- A core's arrival as an instance of its own. -/
def coreArrival (s : State) (r : BArr) : BInst :=
  let d := r.d.raw
  { bid := bBid d, scope := bScope d, node := topNode (bScope d) r.u, mb := bMB d, cmask := fld d 282 16, kmask := fld d 270 12,
    dmask := fld d 266 4, src := unitCode r.u 0,
    cores := [if bMB d then (r.u, 0, fld d 298 6, fld d 304 16) else (r.u, r.d.cnt, dSid d, dSinc d)], kids := [], beat := s.beat,
    relAt := none, bad := false }

/-- The clock region of the node at the top of a barrier's scope: a cluster's, or region 0 of its die or of die 0 (R444). -/
def nodeRegion (i : BInst) : Nat :=
  match i.scope with
  | 0 => 4 * (i.node / 12) + i.node % 12 / 3
  | 1 => 4 * i.node
  | _ => 0

/-- BARRIER_ARRIVE (R278, R279): the oldest arrival on its way reaches the nodes, not in a stretched cycle of the top one (R236). -/
def barrierArrive (s : State) (p : Nat) : State :=
  match (partAt s p).arrs with
  | [] => s
  | r :: rest =>
    if absNow s < r.cyc ∨ regionStill s (nodeRegion (coreArrival s r)) then s
    else
      let s := setPart s p { partAt s p with arrs := rest }
      let a := coreArrival s r
      settleInst (joinInst (compareAt p r.u (unitCode r.u 0) a (pathLevels a.scope) s) p (spoilt s p r.u a (pathLevels a.scope))) p a
        r.cyc false

def execBarrierArrive (p c : Nat) (s : State) : Host.Outcome State Fault Refusal :=
  let t := tick s c
  onPart s p (if planState t p = 3 then barrierArrive t p else t)

/-- The release reaches a participant (R281, R282): its increment goes to the canopy port, and its BID is free again. -/
def releaseCore (s : State) (bid : Nat) (k : Nat × Nat × Nat × Nat) : State :=
  let x := coreAt s k.1
  let r : PortInc := { ctr := k.2.2.1, inc := k.2.2.2, ready := absNow s, release := true, key := bid, comp := k.2.1 }
  setCore s k.1 { x with canQ := x.canQ ++ [r], waitBid := x.waitBid.filter (fun b => b.1 != bid) }

/-- The first open instance of a BID at a node, of those with a property. -/
def instAt (s : State) (p bid scope node : Nat) (f : BInst → Bool) : Option BInst :=
  (partAt s p).insts.find? (fun i => i.bid == bid && i.scope == scope && i.node == node && f i)

/-- BARRIER_RELEASE (R280 to R282); an instance that met a mismatch on the way is not released (R279). -/
def barrierRelease (s : State) (p bid scope node : Nat) : State :=
  match instAt s p bid scope node (fun i => !i.bad) with
  | none => s
  | some i =>
    match i.relAt with
    | none => s
    | some c =>
      if absNow s < c ∨ regionStill s (nodeRegion i) then s
      else
        let s := i.cores.foldl (fun t k => releaseCore t bid k) s
        bump (closeInst s p i) (0x2210 + p) 7 14 0 1

def execBarrierRelease (p bid scope node c : Nat) (s : State) : Host.Outcome State Fault Refusal :=
  let t := tick s c
  onPart s p (if planState t p = 3 then barrierRelease t p bid scope node else t)

/-- The node at the top of a scope is in this package: at scope 3 only in that of the canopy root (R278). -/
def topHere (s : State) (p scope : Nat) : Bool := scope != 3 || (partAt s p).grove == 1 || rg s (0x2210 + p) 1 == 1

/-- CANOPY_TIMEOUT (R282): a multi-beat instance open since eight edges is closed without release, and the node raises PLAN_FAULT at
that edge. -/
def canopyTimeout (s : State) (p bid scope node : Nat) : State :=
  match instAt s p bid scope node (fun i => i.mb && decide (8 ≤ beatDiff s.beat i.beat)) with
  | none => s
  | some i =>
    if !topHere s p scope then s
    else
      let s := closeInst s p i
      let die := if scope = 0 then node / 12 else node
      let cl := if scope = 0 then node % 12 else 0
      let detail := leBytes 1 bid ++ leBytes 1 scope ++ leBytes 1 p
      let r := nodeRec s p (min (scope + 2) 4) die cl 0x0206 detail
      raiseAlarm (nodeFault s p (min (scope + 2) 4) die cl 0x0206 detail) r p

def execCanopyTimeout (p bid scope node : Nat) (s : State) : Host.Outcome State Fault Refusal :=
  onPart s p (if planState s p = 3 then canopyTimeout s p bid scope node else s)

/-! ### ARRIVE and RELEASE over links (R279, R280) -/

/-- The cycle in which the package node takes a message that comes now: the next one when this one is stretched there (R236). -/
def nodeNow (s : State) : Nat := if regionStill s 0 then absNow s + 1 else absNow s

/-- ARRIVE_RX: an ARRIVE of a child reaches the package node. -/
def arriveRx (s : State) (p l : Nat) (m : Arrive) : State :=
  if l ∉ canopyKids s p then s
  else
    let a : BInst := { bid := m.bid, scope := m.scope, node := 0, mb := m.mb, cmask := m.cmask, kmask := m.kmask, dmask := m.dmask,
                       src := 0x8000 + m.origin, cores := [], kids := [l], beat := s.beat, relAt := none, bad := false }
    settleInst (joinInst (compareAt p (p * 192) (0x8000 + m.origin) a [4] s) p (spoilt s p (p * 192) a [4])) p a (nodeNow s) true

def execArriveRx (l c : Nat) (m : Arrive) (s : State) : Host.Outcome State Fault Refusal :=
  let t := tick s c
  let p := partLow t (l / 16)
  onLink s l (if planState t p = 3 then arriveRx t p l m else t)

/-- RELEASE_RX: the release from the parent goes on to the children with its ORIGIN and one more hop, and to the participants 32 cyc later
(R280, R287). -/
def releaseRx (s : State) (p l : Nat) (m : ReleaseMsg) : State :=
  if canopyParent s p ≠ some l then s
  else
    let s := releaseKids s p m.bid m.origin (m.hops + 1)
    setPart s p { partAt s p with insts := (partAt s p).insts.map (fun i =>
      if i.bid == m.bid && i.scope == 3 && !i.bad then { i with relAt := some (nodeNow s + 32) } else i) }

def execReleaseRx (l : Nat) (bid : ReleaseMsg) (c : Nat) (s : State) : Host.Outcome State Fault Refusal :=
  let t := tick s c
  let p := partLow t (l / 16)
  onLink s l (if planState t p = 3 then releaseRx t p l bid else t)

end Sys2Proof.Machine
end

