-- ==== Sys2Proof/Machine/Clock.lean ====
section
/-! DEFINITION. Clocks and the fleet time base: timing entries and states (R422 to R425, R437), beat synchronisation (R426 to R436),
frequency steps (R438 to R443), clock regions (R444 to R448), the beat length (R226) and the module's time inputs (R659, R660). -/

namespace Sys2Proof.Machine

/-! ### The timing tree (R422, R426) -/

def timingRoot (s : State) : Bool := rg s 0x2000 9 == 1
def timingPart (s : State) : Nat := rg s 0x2000 12
def timingActive (s : State) : Nat := rg s 0x2000 14
def coreN (s : State) : Nat := rg s 0x2000 1

/-- The time since reset in ps: a cycle lasts 80,000 / N ps (R420). -/
def timePs (s : State) : Rat := s.edgePs + (s.cyc : Rat) * 80000 / (coreN s : Rat)

/-- HOLDOVER_US counts the time in HOLDOVER, in whole ps (R450). -/
def countHold (s : State) : State :=
  if timingState s ≠ 4 then s
  else
    let n := (timePs s - s.holdPs).floor.toNat
    bumpUnits { s with holdPs := s.holdPs + (n : Rat) } 0x2008 3 6 2 1000000 n

/-- TIMING_STATE changes; HOLDOVER begins or ends now. -/
def setTiming (s : State) (v : Nat) : State := let t := countHold s; wr { t with holdPs := timePs t } 0x2000 13 v

/-- The links that carry BEATSYNC and announcements away from the root: UP, native, of the timing partition, not TIMING_ACTIVE. -/
def timingLinks (s : State) : List Nat :=
  (partLinks s (timingPart s)).filter (fun l => linkState s l == 3 && isNative s l && l != timingActive s)

/-- A plan of any partition is LOADING, LOADED, RUNNING or FROZEN. -/
def anyPlan (s : State) : Bool := (partitions s).any (fun p => decide (1 ≤ planState s p ∧ planState s p ≤ 4))

/-- D of a link, in ps (R429). -/
def linkDelay (s : State) (l : Nat) : Nat := (linkAt s l).rttPs / 2

/-- Take a link as TIMING_ACTIVE. -/
def takeActive (s : State) (l : Nat) : State := { wr (wr s 0x2000 14 l) 0x2000 15 (linkDelay s l) with marks := [] }

/-- Beats of `n` BEATSYNC periods. -/
def syncPeriods (s : State) (n : Nat) : Nat := n * 2 ^ rg s 0x2000 17

/-- The package runs on its own REFCLK: no link is in use, and the parent of the timing partition is CANOPY_PARENT again (R423, R437,
log entry 10). -/
def freerun (s : State) : State :=
  let p := timingPart s
  { wr (wr (wr (setTiming s 0) 0x2000 14 255) 0x2000 15 0) (0x2210 + p) 6 (rg s (0x2210 + p) 2) with
      phaseLeft := 0, phaseBad := false, marks := [] }

/-- A link leaves UP: TIMING_ACTIVE lost while LOCKED or ALIGNED is HOLDOVER (R424). -/
def timingLinkLost (s : State) (l : Nat) : State :=
  if timingActive s = l ∧ (timingState s = 2 ∨ timingState s = 3) ∧ !timingRoot s then
    bump (setTiming s 4) 0x2008 2 6 1 1
  else s

/-! ### Timing entries (R423, R424) -/

/-- The RANGE cases of R423. -/
def timingBad (s : State) (sub v : Nat) : Bool :=
  match sub with
  | 10 => decide (v < 64) && (decide (linksOf s.variant ≤ v) || rg s (0x3000 + 16 * v) 2 == 1 || partLow s (v / 16) != timingPart s ||
      v == rg s 0x2000 11)
  | 11 => decide (v < 64) && (decide (linksOf s.variant ≤ v) || rg s (0x3000 + 16 * v) 2 == 1 || partLow s (v / 16) != timingPart s ||
      v == rg s 0x2000 10)
  | 12 => !(partitions s).contains v
  | _ => false

/-- An accepted write: FREERUN, and ALIGNED at a new root. -/
def doTimingWrite (s : State) (sub v : Nat) : State :=
  let t := freerun (wr (freerun s) 0x2000 sub v)
  if sub = 9 ∧ v = 1 then setTiming t 3 else t

def timingWrite (s : State) (ses sub : Nat) (val : List Byte) : State :=
  setting s ses 0x2000 sub (fun s x => setStatus s x 0x2000 sub val (anyPlan s) (timingBad s sub (leNat val)) false false)
    (fun s _ => doTimingWrite s sub (leNat val))

def execTimingConfigWrite (ses sub : Nat) (val : List Byte) (s : State) : Host.Outcome State Fault Refusal :=
  done s (if 9 ≤ sub ∧ sub ≤ 12 then timingWrite s ses sub val else s)

/-- LOCKING (R424). -/
def execLocking (s : State) : Host.Outcome State Fault Refusal :=
  let l := rg s 0x2000 10
  done s (if !timingRoot s ∧ timingState s = 0 ∧ l < 64 ∧ linkState s l = 3 ∧ isNative s l then takeActive (setTiming s 1) l else s)

/-- PLL_LOCK (R424): within 1 ms of LOCKING. -/
def execPllLock (us : Nat) (s : State) : Host.Outcome State Fault Refusal :=
  done s (if timingState s = 1 ∧ us ≤ 1000 then setTiming s 2 else s)

/-- TIMING_LOST (R437): the third row, at the edge of a beat. -/
def execTimingLost (us : Nat) (s : State) : Host.Outcome State Fault Refusal :=
  done s (if timingState s = 4 ∧ 10000 ≤ us ∧ s.cyc = 0 then raise (freerun s) (pkgRec s 4 0x0702 []) else s)

/-- REFCLK_LOSS (R659). -/
def execRefclkLoss (ns : Nat) (s : State) : Host.Outcome State Fault Refusal :=
  done s (if 1000 ≤ ns ∧ !s.refLost then
      let t := { s with refLost := true }
      if timingRoot t ∨ timingState t = 0 then raise t (pkgRec t 4 0x0702 []) else t
    else s)

/-- REFCLK_RETURN (R659). -/
def execRefclkReturn (s : State) : Host.Outcome State Fault Refusal := done s { s with refLost := false }

/-! ### TIME_PPS (R449, R660) -/

/-- PPS_LAST. -/
def ppsBytes (b c f sec : Nat) (valid : Bool) : List Byte :=
  leBytes 6 b ++ leBytes 2 c ++ leBytes 2 f ++ leBytes 1 (if valid then 1 else 0) ++ leBytes 1 0 ++ leBytes 8 sec ++ leBytes 4 0

/-- TIME_PPS: an edge `ms` after the previous one. -/
def execTimePps (c frac ms : Nat) (s : State) : Host.Outcome State Fault Refusal :=
  let t := tick s c
  done s (if timingRoot t ∧ (!t.ppsSeen ∨ 900 ≤ ms) then
      { wr (wb t 0x2000 19 (ppsBytes t.beat t.cyc frac (rg t 0x2000 18) true)) 0x2000 18 ((rg t 0x2000 18 + 1) % 2 ^ 64) with ppsSeen := true }
    else t)

/-- PPS_TIMEOUT. -/
def execPpsTimeout (ms : Nat) (s : State) : Host.Outcome State Fault Refusal :=
  done s (if 1500 ≤ ms then wb s 0x2000 19 (patch (rb s 0x2000 19) 10 [0]) else s)

/-! ### BEATSYNC (R430 to R434) -/

/-- The pending step: AT, N, valid. -/
def pendingStep (s : State) : Option (Nat × Nat) :=
  let b := rb s 0x2000 5
  if bit (leAt b 7 1) 0 then some (leAt b 0 6, leAt b 6 1) else none

def setStep (s : State) (o : Option (Nat × Nat)) : State :=
  wb s 0x2000 5 (match o with
    | some x => leBytes 6 x.1 ++ leBytes 1 x.2 ++ leBytes 1 1
    | none => leBytes 8 0)

/-- Half a cycle is 2^15 units, one is 2^16. -/
def unitsOf (s : State) (b u : Nat) : Int := (b * beatLen s * 65536 + u : Nat)

/-- A ring lasts 128 ns, in GL-L 256 ns (R344). -/
def ringPs (s : State) (l : Nat) : Nat := if glL s l then 256000 else 128000

/-- The latest marker that a link has sent: how many rings after its first one, which left at a free time with a free ring number, and how
long ago in ps (R344; log entry 6). -/
def lastMarker (s : State) (l : Nat) : Nat × Rat :=
  let d := timePs s - ((Config.ringStart l (linkAt s l).era).1 % ringPs s l : Nat)
  let n := (d / (ringPs s l : Rat)).floor.toNat
  (n, d - (n * ringPs s l : Nat))

/-- RING of that marker, incremented by 1 per ring modulo 2^32 (R344). -/
def ringNow (s : State) (l : Nat) : Nat := ((Config.ringStart l (linkAt s l).era).2 + (lastMarker s l).1) % 2 ^ 32

/-- The count at which that marker left: beat, cycle and fraction. A marker that left in the beat before is counted back with that beat's
clock and length (R431). -/
def markerCount (s : State) (l : Nat) : Nat × Nat × Nat :=
  let ago := (lastMarker s l).2
  let here := timePs s - s.edgePs
  let parts := fun (b : Nat) (v : Rat) => (b, v.floor.toNat / 65536, v.floor.toNat % 65536)
  if ago ≤ here then parts s.beat ((here - ago) * (coreN s : Rat) * 65536 / 80000)
  else parts ((s.beat + 2 ^ 48 - 1) % 2 ^ 48) ((s.lastLen : Rat) * 65536 - (ago - here) * (s.lastN : Rat) * 65536 / 80000)

/-- A canopy message as it leaves on a link: all but an ALARM carry the beat and cycle of the sending, a BEATSYNC the link's latest marker
then (R287, R430, R431). -/
def stampMsg (s : State) (l : Nat) (k : Packet) : Packet :=
  let ty := leAt k.payload 0 1
  if k.cls ≠ .canopy ∨ ty = 5 then k
  else
    let b := patch k.payload 8 (leBytes 2 s.cyc ++ leBytes 6 s.beat)
    let m := markerCount s l
    { k with payload := if ty = 1 then patch b 16 (leBytes 4 (ringNow s l) ++ leBytes 6 m.1 ++ leBytes 2 m.2.1 ++ leBytes 2 m.2.2) else b }

/-- Send BEATSYNC on a link (R430, R431); what names the marker is written when it leaves. -/
def sendSync (s : State) (origin hops : Nat) (l : Nat) : State :=
  let m := markerCount s l
  let b := rb s 0x2000 19
  let valid := bit (leAt b 10 1) 0
  let st := pendingStep s
  sendMsg s l 1 [origin, s.beat, s.cyc, hops, ringNow s l, m.1, m.2.1, m.2.2, rg s 0x2100 1, coreN s,
    (if valid then 1 else 0) + (if st.isSome then 2 else 0), (st.map (fun x => x.2)).getD 0, (st.map (fun x => x.1)).getD 0,
    leAt b 0 6, leAt b 6 2, leAt b 8 2, leAt b 12 8]

def sendSyncs (s : State) (origin hops : Nat) : State := (timingLinks s).foldl (fun t l => sendSync t origin hops l) s

/-- The timing root sends BEATSYNC on each link once in the beat. -/
def rootSyncs (s : State) : State :=
  ((timingLinks s).filter (fun l => (linkAt s l).synced != some s.beat)).foldl (fun t l =>
    let t := sendSync t (ownRank t (timingPart t)) 1 l
    setLink t l { linkAt t l with synced := some t.beat }) s

/-- BEATSYNC_SEND (R430). -/
def execBeatsyncSend (c : Nat) (s : State) : Host.Outcome State Fault Refusal :=
  let t := tick s c
  done s (if timingRoot t ∧ t.railsUp ∧ t.beat % syncPeriods t 1 = 0 then rootSyncs t else t)

/-- SUBTREE_CEIL (R439). -/
def subtreeCeil (s : State) : Nat :=
  ((s.ceilReq.filter (fun r => decide (beatDiff s.beat r.2.2 ≤ syncPeriods s 4))).map (fun r => r.2.1)).foldl min (rg s 0x5008 4)

/-- Send a request towards the root. -/
def sendRequest (s : State) : State :=
  if timingRoot s ∨ timingActive s ∉ partLinks s (timingPart s) then s
  else sendMsg s (timingActive s) 4 [ownRank s (timingPart s), s.beat, s.cyc, 1, 1, rg s 0x2000 6, 0, 0]

/-- SUBTREE_CEIL follows, and a change is requested. -/
def updateCeil (s : State) : State :=
  let s := { s with ceilReq := s.ceilReq.filter (fun r => decide (beatDiff s.beat r.2.2 ≤ syncPeriods s 4)) }
  if subtreeCeil s = rg s 0x2000 6 then s else sendRequest (wr s 0x2000 6 (subtreeCeil s))

/-- FSTEP_REQUEST_RX (R439). -/
def execFstepRequestRx (l n : Nat) (s : State) : Host.Outcome State Fault Refusal :=
  onLink s l (if partLow s (l / 16) = timingPart s then updateCeil { s with ceilReq := kset s.ceilReq l (n, s.beat) } else s)

/-- Leave ALIGNED for LOCKED until no partition runs (R434). -/
def leaveAligned (s : State) : State := { setTiming s 2 with phaseBad := true, phaseLeft := 0 }

/-- A failed check: PLAN_FAULT, and an ALIGNED package returns to LOCKED (R434, R441). -/
def syncFault (s : State) (code : Nat) : State :=
  let t := raise s (pkgRec s 4 code [])
  if timingState s = 3 then leaveAligned t else t

/-- A step becomes known (R441): pending, or late. -/
def learnStep (s : State) (n at_ : Nat) : State :=
  if pendingStep s = some (at_, n) ∨ s.fstepSeen = [at_, n] then s
  else
    let s := { s with fstepSeen := [at_, n] }
    if beatDiff at_ s.beat < 2 then syncFault (setStep s (some ((s.beat + 1) % 2 ^ 48, n))) 0x020B
    else setStep s (some (at_, n))

/-- FSTEP_ANNOUNCE_RX (R287, R426, R441). `fstepSeq` is one more than the last SEQ received. -/
def fstepAnnounceRx (s : State) (l n at_ : Nat) (m : StepSeq) : State :=
  if timingActive s ≠ l ∨ s.fstepSeq = m.seq + 1 then s
  else
    let s := { s with fstepSeq := m.seq + 1 }
    learnStep ((timingLinks s).foldl (fun t k => sendMsg t k 4 [m.origin, t.beat, t.cyc, m.hops + 1, 2, n, at_, m.seq]) s) n at_

def execFstepAnnounceRx (l n atBeat : Nat) (seq : StepSeq) (s : State) : Host.Outcome State Fault Refusal :=
  onLink s l (fstepAnnounceRx s l n atBeat seq)

/-- D of TIMING_ACTIVE in units of 1/65,536 cyc, at 80,000/N ps a cycle. -/
def delayUnits (s : State) : Nat := rg s 0x2000 15 * coreN s * 65536 / 80000

/-- A signed difference modulo 2^48 beats. -/
def wrapErr (s : State) (x : Int) : Int :=
  let m : Int := 2 ^ 48 * (beatLen s * 65536 : Nat)
  let r := x % m
  if r < m / 2 then r else r - m

/-- RING numbers `a` lies fewer than 256 rings before `b`, modulo 2^32. -/
def ringRecent (a b : Nat) : Bool := decide ((b + 2 ^ 32 - a) % 2 ^ 32 < 256)

/-- The arrival of a marker on TIMING_ACTIVE is kept with those of the 255 rings before it (R432). No command is a marker: a BEATSYNC whose
reference marker lies among the last 256 brings its arrival along. -/
def keepMarker (s : State) (m : BeatSync) : State :=
  if m.known then { s with marks := (s.marks.filter (fun k => k.1 != m.ring && ringRecent k.1 m.ring)) ++ [(m.ring, m.arrBeat, m.arrUnits)] } else s

/-- The arrival of the marker with this RING, in beats and units, if it lies among the last 256 (R432). -/
def markerOf (s : State) (ring : Nat) : Option (Nat × Nat) := (s.marks.find? (fun k => k.1 == ring)).map (fun k => k.2)

/-- The phase error e of a BEATSYNC whose reference marker arrived at `a` (R432). -/
def phaseErr (s : State) (m : BeatSync) (a : Nat × Nat) : Int :=
  wrapErr s (unitsOf s a.1 a.2 - (unitsOf s m.sbeat (m.scyc * 65536 + m.sfrac) + (delayUnits s : Int)))

/-- Write PHASE_ERR; an error that the entry cannot hold leaves a free value (log entry 6). -/
def notePhase (s : State) (e : Int) : State :=
  if -(2 ^ 31) ≤ e ∧ e < 2 ^ 31 then wr s 0x2000 16 (e % 2 ^ 32).toNat
  else let r := draw s; wr r.2 0x2000 16 (r.1.toNat % 2 ^ 32)

/-- A beat number that was noted `n` beats ago keeps that age when the count moves to beat `b`. -/
def rebase (s : State) (b v : Nat) : Nat := (v + 2 ^ 48 + b - s.beat % 2 ^ 48) % 2 ^ 48

/-- The sender's count now, in units of 1/65,536 cyc of its clock, for a reference marker that arrived at `a`: its stamp, D, and the time since
the arrival (R433). -/
def senderNow (s : State) (m : BeatSync) (a : Nat × Nat) : Int :=
  let since : Int := (unitsOf s s.beat (s.cyc * 65536) - unitsOf s a.1 a.2) % (2 ^ 48 * (beatLen s * 65536 : Nat))
  unitsOf s m.sbeat (m.scyc * 65536 + m.sfrac) + ((rg s 0x2000 15 * m.n * 65536 / 80000 : Nat) : Int) + since * m.n / coreN s

/-- Adopt the sender's time, `now` in units of 1/65,536 cyc, in one step: beat number, cycle and phase, with its N; a start beat that it passes or lands on is disarmed, since the edge that
starts that beat does not come (R187 says "past"; DESIGN CHOICE, log entry 47); what is counted in periods since
a beat keeps its age (R187, R433, R437, R439). -/
def adopt (s : State) (now : Int) (n : Nat) : State :=
  let total : Int := now % (2 ^ 48 * (beatLen s * 65536 : Nat))
  let b := total.toNat / (beatLen s * 65536)
  let c := total.toNat / 65536 % beatLen s
  let old := s.beat
  let s := (partitions s).foldl (fun t p =>
    let v := rg t (0x2120 + p) 5
    if bit v 63 ∧ 0 < beatDiff (v % 2 ^ 48) old ∧ beatDiff (v % 2 ^ 48) b ≤ 0 then wr t (0x2120 + p) 5 0 else t) s
  let t := setTiming s 3
  { wr t 0x2000 1 n with beat := b, cyc := c, edge := absNow s - c, phaseLeft := 0, phaseBad := false,
                         edgePs := timePs t - ((total.toNat % (beatLen s * 65536) : Nat) : Rat) * 80000 / (65536 * (n : Rat)),
                         lastN := n, ceilUp := t.ceilUp.map (rebase t b), ceilDown := t.ceilDown.map (rebase t b), bsyncAt := t.bsyncAt.map (fun e => (e.1, rebase t b e.2)),
                         ceilReq := t.ceilReq.map (fun e => (e.1, e.2.1, rebase t b e.2.2)), marks := [] }

/-- The checks of an ALIGNED package in their order; `e` is none when RING is too old. -/
def syncCheck (s : State) (m : BeatSync) (e : Option Int) : State :=
  let above : Nat → Bool := fun lim => match e with | some x => decide ((lim : Int) < x.natAbs) | none => false
  if m.k ≠ rg s 0x2100 1 ∨ above (beatLen s * 32768 - 1) then syncFault s 0x0203
  else if m.n ≠ coreN s then syncFault s 0x0209
  else if above 131072 then syncFault s 0x020A
  else match e with
    | some x => { s with phaseLeft := x }
    | none => s

/-- What a package in LOCKED does (R433). -/
def syncLocked (s : State) (m : BeatSync) (now : Option Int) : State :=
  if m.k ≠ rg s 0x2100 1 then raise s (pkgRec s 4 0x0203 [])
  else if s.phaseBad ∧ (partitions s).any (fun p => planState s p == 3) then s
  else match now with
    | some x => adopt s x m.n
    | none => s

/-- BEATSYNC_RX. A message on another link than TIMING_ACTIVE is discarded; that one came is noted for the alternate (R437). -/
def beatsyncRx (s : State) (l : Nat) (m : BeatSync) : State :=
  let s := { s with bsyncAt := kset s.bsyncAt l s.beat }
  if timingActive s ≠ l ∨ !isNative s l then s
  else
    let s := keepMarker s m
    let a := if m.known then markerOf s m.ring else none
    let e := a.map (phaseErr s m)
    let s := match e with | some x => notePhase s x | none => s
    let s := wb s 0x2000 19 (ppsBytes m.ppsBeat m.ppsCyc m.ppsFrac m.ppsSec (bit m.flags 0))
    let s := match timingState s with
      | 2 => syncLocked s m (a.map (senderNow s m))
      | 3 => syncCheck s m e
      | _ => s
    let s := if bit m.flags 1 then learnStep s m.stepN m.stepAt else s
    sendRequest (sendSyncs s m.origin (m.hops + 1))

def execBeatsyncRx (l : Nat) (m : BeatSync) (s : State) : Host.Outcome State Fault Refusal := onLink s l (beatsyncRx s l m)

/-! ### Frequency steps (R440, R441, R443) -/

/-- The root's target T. -/
def stepTarget (s : State) : Nat := min (rg s 0x2000 2) (rg s 0x2000 6)

/-- The FREQ_CHANGE handles that wait for the step complete with the frequency reached (R443). -/
def endFreqChange (s : State) (n : Nat) : State :=
  s.freqHandle.foldl (fun t h => finishHandle t h .ok 0 (leBytes 1 n)) { s with freqHandle := [] }

/-- Handles that waited for a later step wait for the next one. -/
def joinFreqChange (s : State) : State := { s with freqHandle := s.freqHandle ++ s.freqLater, freqLater := [] }

/-- The root announces a step at a beat edge; with no step to make, nothing waits for one. -/
def announce (s : State) : State :=
  if !timingRoot s ∨ (pendingStep s).isSome then s
  else if stepTarget s = coreN s then endFreqChange (joinFreqChange s) (coreN s)
  else
    let s := joinFreqChange s
    let at_ := (s.beat + rg s 0x2000 4) % 2 ^ 48
    let n := stepTarget s
    let seq := (s.fstepSeq + 1) % 2 ^ 16
    (timingLinks s).foldl (fun t k =>
      sendMsg t k 4 [ownRank t (timingPart t), t.beat, t.cyc, 1, 2, n, at_, seq]) { setStep s (some (at_, n)) with fstepSeq := seq }

/-- FSTEP_APPLY (R441, R443, R528): at the edge of AT, whose beat is throttled for the new clock, or at the next one of a package whose count has passed it (R433). -/
def fstepApply (s : State) : State :=
  match pendingStep s with
  | none => s
  | some x =>
    if 0 < beatDiff x.1 s.beat ∨ s.cyc ≠ 0 then s
    else setThrottle (endFreqChange (bump (wr (setStep s none) 0x2000 1 x.2) 0x2008 5 6 4 1) x.2)

def execFstepApply (s : State) : Host.Outcome State Fault Refusal := done s (fstepApply s)

/-- FREQ_CHANGE (R443): it waits for the step that it causes, which one that is pending to another N is not. -/
def doFreqChange (s : State) (h : Nat) : State :=
  if !timingRoot s then finishHandle s h .state 0 []
  else if stepTarget s = coreN s then finishHandle s h .ok 0 (leBytes 1 (coreN s))
  else if (pendingStep s).any (fun p => p.2 != stepTarget s) then { s with freqLater := s.freqLater ++ [h] }
  else { s with freqHandle := s.freqHandle ++ [h] }

def freqChangeInv (s : State) (ses : Nat) (arg : List Byte) : State :=
  invoking s ses 0x2000 3 0x0E false (fun s x => invStatus s x 0x2000 3 arg 0 false false false) (fun s _ h => doFreqChange s h)

def execFreqChange (ses : Nat) (s : State) : Host.Outcome State Fault Refusal := done s (freqChangeInv s ses [])

/-! ### Stretching and crossings (R231, R446 to R449) -/

/-- STRETCH_MAX for a fraction. -/
def stretchMax (s : State) (f : Nat) : Nat := f * beatLen s / 65536

/-- A STRETCH_MAX that exceeds the RESERVE of a LOADED, RUNNING or FROZEN plan. -/
def stretchBad (s : State) (n : Nat) : Bool :=
  (partitions s).any (fun p => decide (2 ≤ planState s p ∧ planState s p ≤ 4 ∧ (partAt s p).reserve < n))

/-- STRETCH_FRAC. -/
def stretchFracSet (s : State) (ses : Nat) (val : List Byte) : State :=
  setting s ses 0x2000 7
    (fun s x => setStatus s x 0x2000 7 val false false (stretchBad s (stretchMax s (leNat val))) false)
    (fun s _ => wr (wr s 0x2000 7 (leNat val)) 0x2000 8 (stretchMax s (leNat val)))

def execStretchFrac (ses : Nat) (val : List Byte) (s : State) : Host.Outcome State Fault Refusal := done s (stretchFracSet s ses val)

/-- Every core of a region stands still in this cycle. -/
def stretchCores (s : State) (g : Nat) : State :=
  (List.range 48).foldl (fun t i =>
    let u := 48 * g + i
    match kget t.cores u with
    | none => t
    | some _ =>
      let still := stillNow t u
      let t := settle (meetThrottle t u) u (absNow t - 1)
      if still then t else setCore t u (shiftCore (coreAt t u) (absNow t))) s

/-- The clock regions that a post crosses: those of its ends and, between two, the ones of the canopy nodes of their dies and of the
package (R273, R444, log entry 45). -/
def postRegions (u v : Nat) : List Nat :=
  [regionOf u, regionOf v] ++ (if regionOf u = regionOf v then [] else [4 * dieOf u, 4 * dieOf v]) ++
    (if dieOf u = dieOf v then [] else [0])

/-- Posts on their way through a region, releases in it, and its HBM channels are one cycle later (R236, R273). -/
def shiftPosts (s : State) (g : Nat) : State :=
  { s with cores := s.cores.map (fun x => (x.1, { x.2 with canQ := x.2.canQ.map (fun (r : PortInc) =>
             if (if r.release then [regionOf x.1] else postRegions r.key x.1).contains g then
               { r with ready := later (absNow s) r.ready } else r) })),
           chReady := s.chReady.map (fun x => if x.1 / 16 = g then (x.1, delayed (absNow s) x.2) else x) }

/-- What canopy nodes and the serving unit have in progress in a region is one cycle later (R236, R444). -/
def shiftUnits (s : State) (g : Nat) : State :=
  { s with parts := s.parts.map (fun e => (e.1, { e.2 with
      insts := e.2.insts.map (fun i => if nodeRegion i = g then { i with relAt := i.relAt.map (later (absNow s)) } else i),
      arrs := e.2.arrs.map (fun r => if nodeRegion (coreArrival s r) = g then { r with cyc := later (absNow s) r.cyc } else r),
      step := e.2.step.map (fun (r : StepRun) => if g = 0 then { r with fin := later (absNow s) r.fin } else r) })) }

/-- STRETCHED_CYCLE (R446). -/
def stretchedCycle (s : State) (d r : Nat) : State :=
  let g := 4 * d + r
  let old := (kget s.stretchNow g).getD []
  if absNow s ∈ old then s
  else
    let s := { shiftUnits (shiftPosts (stretchCores s g) g) g with stretchNow := kset s.stretchNow g (old ++ [absNow s]) }
    let n := old.length + 1
    let s := bump s (0x7858 + d) 6 8 5 1
    let s := wtab s (0x2010 + d) 4 2 r (max n (rtab s (0x2010 + d) 4 2 r))
    if rg s 0x2000 8 < n ∧ g ∉ s.stretchHit then
      capture { s with stretchHit := s.stretchHit ++ [g] }
        (mkRec s 3 0x0501 (d * 256) (leBytes 1 d ++ leBytes 1 r ++ leBytes 2 (rg s 0x2000 8)) (2 ^ d))
    else s

def execStretchedCycle (d r c : Nat) (s : State) : Host.Outcome State Fault Refusal :=
  if 4 ≤ r then .fault .absentUnit else onDie s d (stretchedCycle (tick s c) d r)

/-- Regions of a die that share an edge: r with r xor 1 and with r xor 2 (R444). -/
def edgeAdjacent (a b : Nat) : Bool := b == a ^^^ 1 || b == a ^^^ 2

/-- Between which regions of a die a crossing leads: 0→1, 1→0, 0→2, 2→0, 1→3, 3→1, 2→3, 3→2 (R445). -/
def crossing (x : Nat) : Nat × Nat :=
  let p : Nat × Nat := match x / 2 with | 0 => (0, 1) | 1 => (0, 2) | 2 => (1, 3) | _ => (2, 3)
  if x % 2 = 0 then p else (p.2, p.1)

/-- The other die of a die-to-die crossing of die `d`, number 8 and up, and whether it leads there (R445). -/
def dieCrossing (d x : Nat) : Nat × Bool := (if (x - 8) / 2 < d then (x - 8) / 2 else (x - 8) / 2 + 1, x % 2 == 0)

/-- The occupancy of a crossing FIFO of 8 entries: 4 since start-up, or as last seen; above 4 the read side takes two entries per cycle (R445). -/
def fifoNow (s : State) (d x : Nat) : Nat :=
  match kget s.fifos (16 * d + x) with
  | none => 4
  | some k => if k.1 ≤ 4 then k.1 else max 4 (k.1 - (absNow s - k.2))

/-- FIFO_RANGE (R445, R448): the occupancy of a crossing, with OCC_MIN and OCC_MAX. -/
def fifoRange (s : State) (d x occ : Nat) : State :=
  let s := { s with fifos := kset s.fifos (16 * d + x) (occ, absNow s) }
  let s := wtab s (0x2010 + d) 2 1 x (min occ (rtab s (0x2010 + d) 2 1 x))
  let s := wtab s (0x2010 + d) 3 1 x (max occ (rtab s (0x2010 + d) 3 1 x))
  if occ = 0 ∨ 8 ≤ occ then
    capture s (mkRec s 3 0x0502 (d * 256) (leBytes 1 d ++ leBytes 1 x ++ leBytes 1 occ) (2 ^ d))
  else s

def execFifoRange (d x occ c : Nat) (s : State) : Host.Outcome State Fault Refusal :=
  if 6 + 2 * dies s.variant ≤ x then .fault .absentUnit else onDie s d (fifoRange (tick s c) d x occ)

/-! ### The beat length (R226) -/

/-- BEAT_K_AT. -/
def beatKAtSet (s : State) (ses : Nat) (val : List Byte) : State :=
  setting s ses 0x2100 3 (fun s x => setStatus s x 0x2100 3 val (anyPlan s) (armBad s (leNat val)) false false)
    (fun s _ => wr s 0x2100 3 (leNat val))

def execBeatKAt (ses : Nat) (val : List Byte) (s : State) : Host.Outcome State Fault Refusal := done s (beatKAtSet s ses val)

end Sys2Proof.Machine
end

