-- ==== Sys2Proof/Machine/Fabric.lean ====
section
/-! DEFINITION. Packets at the ends of the fabric: delivery (R382 to R385, R403 to R406), refusals (R393, R404), and the hand-off of a
packet to its link (R401, R402). -/

namespace Sys2Proof.Machine

/-- The physical die bound to a logical die, if one is (R217, R384). -/
def boundDie (s : State) (p ld : Nat) : Option Nat :=
  ((partAt s p).dieMap[ld]?).filter (fun d => (partDies s p).contains d)

/-- The core that EP names on a physical die (R382). -/
def epCore (pd ep : Nat) : Nat := (pd * 12 + ep / 16) * 16 + ep % 16

/-- A packet's address after translation, in its space (R384). -/
def packetAddr (s : State) (p : Nat) (k : Packet) : Option Nat :=
  match k.space with
  | 0 => some k.addr
  | 2 => (boundDie s p (bits k.addr 28 2)).map (fun d => k.addr - bits k.addr 28 2 * 2 ^ 28 + d * 2 ^ 28)
  | 3 => (boundDie s p (k.addr / dieHbm)).map (fun d => (partAt s p).hbmBase.getD d 0 + k.addr % dieHbm)
  | _ => none

/-- DIE names a die bound in the partition. Where no plan binds any, a packet that is not PLAN may name every logical die that the
partition could bind: R403 does not say what "bound" means there (DESIGN CHOICE, log entry 46). -/
def dieNamed (s : State) (p : Nat) (k : Packet) : Bool :=
  if k.cls != .plan && (partAt s p).dieMap.isEmpty then decide (k.die < (partDies s p).length) else (boundDie s p k.die).isSome

/-- EP or PTYPE is none of the packet's class (R382, R383). -/
def endpointBad (s : State) (k : Packet) : Bool :=
  match k.cls with
  | .plan => decide (0xC0 ≤ k.ep) || !(k.ptype == 1 || k.ptype == 2)
  | .canopy => k.ep != 0xF0 || k.ptype != 0x11
  | .serve => k.ep != 0xF1 || k.ptype != 0x21 || !hasServe s.variant
  | .mgmt => k.ep != 0xF2 || k.ptype != 0x31

/-- A PLAN packet's extent does not lie in one writable region of its core, or not in CM or KM for an XACC. -/
def extentBad (s : State) (p : Nat) (k : Packet) : Bool :=
  match boundDie s p k.die, packetAddr s p k with
  | some pd, some a => !inRegion (coreAt s (epCore pd k.ep)).regions k.space a (64 * k.len) false true ||
      (k.ptype == 2 && !(k.space == 0 || k.space == 2))
  | some _, none => true
  | none, _ => true

/-- The first refusal reason of R403, 0 when the packet is accepted. -/
def refusal (s : State) (p : Nat) (k : Packet) : Nat :=
  if k.cls = .plan ∧ planState s p ≠ 3 then 1
  else if !dieNamed s p k then 2
  else if endpointBad s k then 3
  else if k.cls = .plan ∧ extentBad s p k then 4
  else if k.cv ∧ (56 ≤ k.ctr ∨ k.inc = 0) then 5
  else 0

/-- A refused packet: counted, and logged for reasons 2 to 5 (R404). `d` is the die of the arrival link, or of the issuing
core. -/
def refuse (s : State) (p d l reason : Nat) (k : Packet) : State :=
  let s := bump s (0x3420 + p) 4 6 3 1
  if reason = 1 then s
  else capture s (mkRec s 3 0x0208 (d * 256)
    (leBytes 1 reason ++ leBytes 3 k.dest ++ leBytes 1 k.ep ++ leBytes 1 k.die ++ leBytes 5 k.addr ++ leBytes 1 l) (2 ^ d))

/-- Cycles from acceptance to the last byte written (R405). -/
def deliverW (space pd d : Nat) (xacc : Bool) : Nat :=
  (if space = 3 then (if pd = d then 72 else 120) else (if pd = d then 16 else 64)) + (if xacc then 8 else 0)

/-- The write of a PLAN packet accepted now by core `u`, at byte store address `f`: it commits W cycles later, which are counted to the die
that holds its bytes; lines of HBM ask their channels 64 cycles before (R306, R405). -/
def packetWrite (s : State) (p d l : Nat) (k : Packet) (ures ush f : Nat) : Landing :=
  let t := absNow s + deliverW k.space (dieAt f) d (k.ptype == 2)
  { due := if k.space = 3 then t - 64 else t, addr := f, bytes := k.payload, acc := k.ptype == 2, cnt := 0, tag := 0,
    pkt := some { part := p, link := l, era := (linkAt s l).era, ures := ures, ush := ush, cv := k.cv, ctr := k.ctr, inc := k.inc, ask := k.space == 3,
                  wrote := false } }

/-- A PLAN packet is accepted or refused in this cycle, with the units of the receive pool that it holds: those of an accepted one are
released when it has been written, those of a refused one at once (R366, R403 to R405). -/
def deliverPacket (s : State) (p d l : Nat) (k : Packet) (ures ush : Nat) : State :=
  if refusal s p k ≠ 0 then release (refuse s p d l (refusal s p k) k) l .plan ures ush
  else match boundDie s p k.die, packetAddr s p k with
    | some pd, some a =>
      let u := epCore pd k.ep
      let x := coreAt s u
      setCore s u { x with lands := x.lands ++ [packetWrite s p d l k ures ush (flatAddr u k.space a)] }
    | some _, none => s
    | none, _ => s

/-- NO_ROUTE: the packet is discarded and a LINK_FAULT logged (R393). -/
def noRoute (s : State) (p d l : Nat) (k : Packet) : State :=
  let s := bump s (0x3420 + p) 5 6 4 1
  capture s (mkRec s 3 0x0402 (d * 256)
    (leBytes 3 k.dest ++ leBytes 1 (match k.cls with | .plan => 0 | .canopy => 1 | .serve => 2 | .mgmt => 3) ++ leBytes 1 l) (2 ^ d))

/-- The payload of a packet crosses from its core's die to another one (R334). -/
def packetCrossing (s : State) (u die : Nat) (k : Packet) : State :=
  if die = dieOf u then s else countAct s (dieOf u) 52 256 k.payload.length

/-- Hand a packet of core `u` to its link, or deliver it to the own rank; none while its link's queue of 64 frames is full (R391, R392,
R400 to R402). -/
def handOff (s : State) (u : Nat) (k : Packet) (start : Nat) : Option State :=
  let p := partOf s u
  match route s p k.dest start .plan with
  | none => some (noRoute (bump s (0x3420 + p) 1 6 0 1) p (dieOf u) 0xFF k)
  | some none => some (deliverPacket (packetCrossing (bump s (0x3420 + p) 1 6 0 1) u ((boundDie s p k.die).getD (dieOf u)) k) p (dieOf u) 0xFF k 0 0)
  | some (some l) =>
    let x := linkAt s l
    if 64 ≤ x.planQ.length then none
    else some (packetCrossing (bump (setLink s l { x with planQ := x.planQ ++ [k] }) (0x3420 + p) 1 6 0 1) u (l / 16) k)

end Sys2Proof.Machine
end

