-- ==== Sys2Proof/Machine/Link.lean ====
section
/-! DEFINITION. The link layer: frames, packets and their trailers (R344 to R351), slots (R352, R353), sequence, replay and credits
(R359 to R366), timers and states (R367 to R375), round-trip measurement (R427, R428), and the fabric entries (R379 to R390, R409,
R415). A frame is sent, and received, whole (log entry 14). -/

namespace Sys2Proof.Machine

/-! ### Frames (R346 to R350) -/

def classOf (n : Nat) : TClass := match n with | 0 => .plan | 1 => .canopy | 2 => .serve | _ => .mgmt

/-- The packet header as a number (R347). -/
def packetHead (k : Packet) : Nat :=
  k.addr % 2 ^ 40 * 2 ^ 88 + k.space % 16 * 2 ^ 84 + k.inc % 2 ^ 16 * 2 ^ 68 + k.ctr % 64 * 2 ^ 62 + (if k.cv then 2 ^ 61 else 0) +
    k.len % 256 * 2 ^ 53 + k.ep % 256 * 2 ^ 45 + k.die % 4 * 2 ^ 43 + k.dest % 2 ^ 24 * 2 ^ 19 + classNum k.cls * 2 ^ 17 + k.ptype % 256

/-- The packet that a header and a payload spell. -/
def packetOf (h : Nat) (payload : List Byte) : Packet :=
  { addr := bits h 88 40, space := bits h 84 4, inc := bits h 68 16, ctr := bits h 62 6, cv := bit h 61, len := bits h 53 8,
    ep := bits h 45 8, die := bits h 43 2, dest := bits h 19 24, cls := classOf (bits h 17 2), ptype := bits h 0 8, payload := payload }

/-- Pieces of a frame (R346); GL-L rounds up to an even number. -/
def pieces (glL : Bool) (len : Nat) : Nat :=
  let n := ceilDiv (48 + 64 * len) 320
  if glL then ceilDiv n 2 * 2 else n

/-- One bit of the CRC. -/
def crcBit (c : BitVec 32) : BitVec 32 := if c.getLsbD 0 then (c >>> 1) ^^^ 0xEDB88320 else c >>> 1

/-- One byte of the CRC. -/
def crcByte (c : BitVec 32) (b : Byte) : BitVec 32 :=
  crcBit (crcBit (crcBit (crcBit (crcBit (crcBit (crcBit (crcBit (c ^^^ b.zeroExtend 32))))))))

/-- CRC-32 of IEEE 802.3, each byte least significant bit first (R348). -/
def crc32 (l : List Byte) : Nat := (~~~(l.foldl crcByte 0xFFFFFFFF)).toNat

def isSv2 (s : State) (l : Nat) : Bool := rg s (0x3000 + 16 * l) 2 == 1

/-- RX_BASE − 1. -/
def ackOf (x : LinkSt) : Nat := (x.rxBase + 4095) % 4096

/-- The five cumulative credit counts, and their start values (R365). -/
def creditsOf (x : LinkSt) : List Nat := (List.range 5).map (fun i => x.crSent.getD i 0)
def poolUnits : List Nat := [2048, 128, 512, 128, 3328]

/-- The bytes of a data frame with its trailer (R346, R348). -/
def frameBytes (s : State) (l : Nat) (k : Packet) (seq ures ush : Nat) : List Byte :=
  let x := linkAt s l
  let cr := creditsOf x
  let tr := seq + (if isSv2 s l then 0 else ackOf x) * 2 ^ 12 + ures * 2 ^ 48 + ush * 2 ^ 56 + cr.getD 0 0 * 2 ^ 144 + cr.getD 1 0 * 2 ^ 160 +
    cr.getD 2 0 * 2 ^ 176 + cr.getD 3 0 * 2 ^ 192 + cr.getD 4 0 * 2 ^ 208
  let b := padTo (320 * pieces (glL s l) k.len - 32) (leBytes 16 (packetHead k) ++ k.payload) ++ leBytes 28 tr
  b ++ leBytes 4 (crc32 b)

/-- The bytes of a frame that is closed with ABORT = 1: no sequence number and no units (R350, R358). -/
def abortBytes (s : State) (l : Nat) (k : Packet) : List Byte :=
  let f := frameBytes s l k 0 0 0
  let b := f.take (f.length - 32) ++ leBytes 28 (leAt f (f.length - 32) 28 + 2 ^ 25)
  b ++ leBytes 4 (crc32 b)

/-- Send a data frame: its acknowledgement and credits go with it. -/
def sendFrame (s : State) (l : Nat) (str : Stream) (k : Packet) (seq ures ush : Nat) : State :=
  emit (setLink s l { linkAt s l with unsent := false }) (.frame l str (frameBytes s l k seq ures ush))

/-- Send a link frame: its body, then its acknowledgement and credits (R349). -/
def sendLink (s : State) (l ltype : Nat) (body : List Nat) : State :=
  let x := linkAt s l
  emit (setLink s l { x with unsent := false }) (.linkFrame l ltype (body ++ [ackOf x] ++ creditsOf x))

/-- KEEPALIVE. -/
def sendKeepalive (s : State) (l : Nat) : State :=
  let x := linkAt s l
  sendLink s l 1 [if x.numbered then (x.txNext + 4095) % 4096 else 2 ^ 15]

/-- IDENT. -/
def sendIdent (s : State) (l : Nat) : State :=
  sendLink s l 3 ([l, (if rg s (0x3000 + 16 * l) 1 = 2 then 1 else 0) + (if isSv2 s l then 2 else 0) + (if glL s l then 4 else 0), myCoord s] ++
    (rb s 0x1000 4).map BitVec.toNat)

/-- Take `n` of what is left of a bound. -/
def takeUpTo : Nat → List Nat → List Nat
  | _, [] => []
  | b, n :: r => min n b :: takeUpTo (b - min n b) r

/-- The decoder of a link corrects symbols in `n` codewords that arrive, at most 6 or 15 in each (R341). How many on each lane no command
says: free values (R377, log entry 6). -/
def heard (s : State) (l n : Nat) : State :=
  if linkState s l = 0 ∨ 5 ≤ linkState s l then s
  else
    let c := takeUpTo (n * (if glL s l then 15 else 6)) ((List.range 4).map (Config.fecSymbols s.fresh))
    let t := { s with fresh := s.fresh + 1 }
    let t := (List.range 4).foldl (fun t i => bumpLane t l i (c.getD i 0)) t
    bump t (0x3002 + 16 * l) 1 15 0 c.sum

/-! ### Numbers, acknowledgements, credits (R359, R360, R366) -/

/-- `a` is after `b`. -/
def seqAfter (a b : Nat) : Bool :=
  let d := (a + 4096 - b % 4096) % 4096
  decide (1 ≤ d ∧ d ≤ 2047)

/-- An ACK frees frames. -/
def takeAck (s : State) (l a : Nat) : State :=
  let x := linkAt s l
  let n := (a + 1) % 4096
  if seqAfter n x.txBase ∧ !seqAfter n x.txNext then
    let gone := fun (q : Nat) => !seqAfter q a && q != n
    setLink s l { x with txBase := n, held := x.held.filter (fun h => !gone h.seq), replayQ := x.replayQ.filter (fun q => !gone q) }
  else s

/-- Credits returned. -/
def takeCredits (s : State) (l : Nat) (c : List Nat) : State :=
  let x := linkAt s l
  let i5 := List.range 5
  setLink s l { x with res := i5.map (fun i => x.res.getD i 0 + (c.getD i 0 + 2 ^ 16 - x.crSeen.getD i 0) % 2 ^ 16),
                       crSeen := i5.map (fun i => c.getD i 0 % 2 ^ 16) }

/-- The trailer of a link frame. -/
def takeTrailer (s : State) (l : Nat) (t : Trailer) : State := takeCredits (takeAck s l t.ack) l t.credits

/-! ### Losing a link (R368 to R371) -/

/-- Its queues, replay buffer and partly received frames are discarded, credits and sequence state cleared. -/
def clearLink (s : State) (l : Nat) : State :=
  let x := linkAt s l
  let s := x.fwdQ.foldl (fun t f => release t f.src f.pkt.cls f.ures f.ush) s
  let s := { s with links := s.links.map (fun e => (e.1, { e.2 with fwdQ := e.2.fwdQ.map (fun f => if f.src = l then { f with src := 0xFF } else f) })) }
  setLink s l { peer := x.peer, rttPs := x.rttPs, rttWins := x.rttWins, tries := x.tries, retrain := x.retrain, test := x.test,
                testMode := x.testMode, testMs := x.testMs, era := x.era + 1 }

def setLinkState (s : State) (l v : Nat) : State := wr s (0x3001 + 16 * l) 1 v

/-- Leave UP, HOLD or any other state for one without traffic. -/
def leaveFor (s : State) (l v : Nat) : State :=
  let up := linkState s l = 3
  let t := setLinkState (clearLink s l) l v
  if up then timingLinkLost t l else t

/-- Enter TRAINING at step 1 of R374: the IDENT goes out at step 4, once the markers are locked. -/
def startTraining (s : State) (l : Nat) : State :=
  let t := leaveFor s l 1
  setLink t l { linkAt t l with tries := 0, rttWins := 0 }

/-- The link fails (R371). -/
def failLink (s : State) (l cause : Nat) : State :=
  let ser := padTo 16 (((linkAt s l).peer.map Ident.serial).getD [])
  let s := wr (leaveFor s l 5) (0x3001 + 16 * l) 2 cause
  capture s (mkRec s 3 0x0401 (l / 16 * 256) (leBytes 1 cause ++ leBytes 1 l ++ ser) (2 ^ (l / 16)))

/-- Into HOLD (R368). -/
def goDown (s : State) (l : Nat) : State :=
  if linkState s l ≠ 3 then s
  else
    let s := timingLinkLost (setLinkState s l 4) l
    bump (setLink s l { linkAt s l with trained := false, identRx := false, resumed := none }) (0x3002 + 16 * l) 10 15 9 1

def execDown (l ns : Nat) (s : State) : Host.Outcome State Fault Refusal := onLink s l (if 8000 ≤ ns then goDown s l else s)

/-- ALIGNMENT_LOST (R344): `n` consecutive markers missing or undecodable. -/
def execAlignmentLost (l n : Nat) (s : State) : Host.Outcome State Fault Refusal := onLink s l (if 4 ≤ n then goDown s l else s)

def execLaneSignalLoss (l lane : Nat) (s : State) : Host.Outcome State Fault Refusal := onLink s l (if lane < 4 then goDown s l else s)

/-- HOLD_EXPIRED. -/
def execHoldExpired (l ns : Nat) (s : State) : Host.Outcome State Fault Refusal :=
  onLink s l (if linkState s l = 4 ∧ 50000 ≤ ns then failLink s l 1 else s)

/-! ### Training, PROBING, UP (R369, R374, R427, R428) -/

/-- Windows that must end before UP. -/
def rttNeeded (s : State) (l : Nat) : Nat := if isSv2 s l then 1 else 2

/-- SV2_WINDOW (R373). -/
def sv2Window (rttPs : Nat) : Nat := min 262144 (ceilDiv (ceilDiv ((rttPs + 1000000) * 4875) 100000) 4096 * 4096)

/-- Fresh sequence state and credits. -/
def freshLink (x : LinkSt) : LinkSt :=
  { x with txNext := 0, txBase := 0, rxBase := 0, rxHigh := 0xFFF, numbered := false, rxSet := [], lost := [], held := [], replayQ := [],
           res := poolUnits, crSent := [0, 0, 0, 0, 0], crSeen := [0, 0, 0, 0, 0], unsent := false, sv2Acc := 0, waiting := [], poolUsed := 0 }

/-- PROBING to UP when both ends are ON and RTT is measured. -/
def tryUp (s : State) (l : Nat) : State :=
  let x := linkAt s l
  let on : Bool := match x.peer with | some q => bit q.flags 0 | none => false
  if linkState s l = 2 ∧ rg s (0x3000 + 16 * l) 1 = 2 ∧ on ∧ rttNeeded s l ≤ x.rttWins then
    let t := setLinkState (setLink s l (freshLink x)) l 3
    if isSv2 s l then wr t (0x3001 + 16 * l) 8 (sv2Window x.rttPs) else t
  else s

/-- TRAINING to PROBING. -/
def enterProbing (s : State) (l : Nat) : State :=
  let h := (linkAt s l).retrain
  let s := setLinkState (setLink s l { freshLink (linkAt s l) with rttWins := 0, retrain := [], tries := 0 }) l 2
  finishAll s l h .ok

/-- TRAINING_DONE: lanes trained and aligned, so the IDENT goes out (R374); once both ends have exchanged it the link probes. -/
def execTrainingDone (l : Nat) (s : State) : Host.Outcome State Fault Refusal :=
  onLink s l (if linkState s l = 1 then
      let t := sendIdent (setLink s l { linkAt s l with trained := true }) l
      if (linkAt t l).identRx then enterProbing t l else t
    else s)

/-- TRAIN_ATTEMPT (R367, R376). -/
def trainAttempt (s : State) (l : Nat) : State :=
  let x := linkAt s l
  let s := bump (setLink s l { x with trained := false, identRx := false, tries := x.tries + 1 }) (0x3002 + 16 * l) 12 15 11 1
  if 4 ≤ x.tries + 1 then finishAll (setLink s l { linkAt s l with retrain := [] }) l x.retrain .state else s

def execTrainAttempt (l ms : Nat) (s : State) : Host.Outcome State Fault Refusal :=
  onLink s l (if linkState s l = 1 ∧ 1000 ≤ ms then trainAttempt s l else s)

/-- PEER entries. -/
def notePeer (s : State) (l : Nat) (m : Ident) : State :=
  let i := 0x3001 + 16 * l
  wr (wr (wr (wb s i 3 (m.serial.take 16)) i 4 m.link) i 5 (m.coord % 2 ^ 24 + (if m.valid then 2 ^ 31 else 0))) i 6 m.flags

/-- RESUME: RX_BASE and TX_NEXT (R349, R370). -/
def sendResume (s : State) (l : Nat) : State := sendLink s l 4 [(linkAt s l).rxBase, (linkAt s l).txNext]

/-- Queue replays of held frames. -/
def queueReplays (x : LinkSt) (test : HeldFrame → Bool) : LinkSt :=
  let l := x.held.filter (fun h => test h && !h.queued)
  { x with replayQ := x.replayQ ++ l.map HeldFrame.seq, held := x.held.map (fun h => if test h then { h with queued := true } else h) }

/-- No replay is queued any more. -/
def unqueued (x : LinkSt) : LinkSt := { x with replayQ := [], held := x.held.map (fun h => { h with queued := false }) }

/-- HOLD ends once the lanes are retrained, the IDENT has come unchanged and the RESUMEs have been exchanged, in whatever order they came:
what lies after the peer's RX_BASE − 1 is replayed in ascending SEQ (R369, R370). -/
def tryResume (s : State) (l : Nat) : State :=
  let x := linkAt s l
  match x.resumed with
  | none => s
  | some b =>
    if linkState s l = 4 ∧ x.trained ∧ x.identRx then
      let s := setLinkState (setLink s l { x with resumed := none }) l 3
      bump (setLink s l (queueReplays (unqueued (linkAt s l)) (fun h => h.seq == b || seqAfter h.seq b))) (0x3002 + 16 * l) 11 15 10 1
    else s

/-- IDENT (R369). In HOLD an IDENT that differs fails the link; the same one, with the lanes retrained, is answered with the RESUME. -/
def identRx (s : State) (l : Nat) (m : Ident) : State :=
  let x := linkAt s l
  match linkState s l with
  | 1 =>
    let t := notePeer (setLink s l { x with peer := some m, identRx := true }) l m
    if x.trained then enterProbing t l else t
  | 2 => tryUp (notePeer (setLink s l { x with peer := some m }) l m) l
  | 3 => notePeer (setLink s l { x with peer := some m }) l m
  | 4 =>
    if x.peer = some m then
      let t := setLink s l { x with identRx := true }
      if x.trained then tryResume (sendResume t l) l else t
    else failLink s l 4
  | _ => s

/-- An IDENT link frame: its acknowledgement and credits count while the link carries frames. -/
def identFrame (s : State) (l : Nat) (m : Ident) (t : Trailer) : State :=
  identRx (if linkState s l = 3 ∨ linkState s l = 2 then takeTrailer s l t else s) l m

def execIdent (l : Nat) (m : Ident) (t : Trailer) (s : State) : Host.Outcome State Fault Refusal :=
  onLink s l (identFrame (heard s l 1) l m t)

/-- Insert into a rising list. -/
def insNat : List Nat → Nat → List Nat
  | [], a => [a]
  | b :: r, a => if a < b then a :: b :: r else b :: insNat r a

/-- The median of measurements in ps: the mean of the middle two of an even number. -/
def median (l : List Nat) : Nat :=
  let q := l.foldl insNat []
  (q.getD ((l.length - 1) / 2) 0 + q.getD (l.length / 2) 0) / 2

/-- A list of bytes comes before another, byte by byte. -/
def bytesBefore : List Byte → List Byte → Bool
  | [], l => !l.isEmpty
  | _ :: _, [] => false
  | a :: r, b :: l => decide (a.toNat < b.toNat) || (a == b && bytesBefore r l)

/-- This end is the echo end of a link's window 1, numbered 0, or window 2: in window 1 the end with the greater serial is, or with the greater
link number where they are equal; on a link in SV2 mode the SV2 module is (R427, R428). -/
def echoes (s : State) (l win : Nat) : Bool :=
  match (linkAt s l).peer with
  | none => false
  | some q =>
    let first := bytesBefore q.serial (rb s 0x1000 4) || (q.serial == rb s 0x1000 4 && decide (q.link < l))
    !isSv2 s l && (if win = 0 then first else !first)

/-- ECHO_LAT and T_cw in ps (R341, R427). -/
def echoLat : Nat := 100000
def codewordPs (s : State) (l : Nat) : Nat := if glL s l then 6400 else 3200

/-- RTT in ps: the median of the first 128 measurements m = t2 − t1 − ECHO_LAT − T_cw, from the times t2 − t1 (R427). -/
def rttOf (s : State) (l : Nat) (times : List Nat) : Nat := median ((times.take 128).map (fun t => t - (echoLat + codewordPs s l)))

/-- RTT_WINDOW_END (R427, R428): the times t2 − t1 that the measuring end took of its markers, in ps; the echo end takes none. -/
def rttWindowEnd (s : State) (l : Nat) (meas : List Nat) : State :=
  let x := linkAt s l
  let none_ := meas.isEmpty || echoes s l x.rttWins
  let s := setLink s l { x with rttWins := x.rttWins + 1, rttPs := if none_ then x.rttPs else rttOf s l meas }
  tryUp (if none_ then s else wr s (0x3001 + 16 * l) 7 ((rttOf s l meas + 500) / 1000)) l

def execRttWindowEnd (l : Nat) (meas : List Nat) (s : State) : Host.Outcome State Fault Refusal :=
  onLink s l (if linkState s l = 2 then rttWindowEnd s l meas else s)

/-- HOLD_RETRAIN_DONE (R352, R369, R370, R374): the lanes are retrained and realigned, so the IDENT goes out; where the peer's has come, the
RESUME is ready at the same time and goes first. -/
def execHoldRetrainDone (l : Nat) (s : State) : Host.Outcome State Fault Refusal :=
  onLink s l (if linkState s l = 4 then
      let t := setLink s l { linkAt s l with trained := true }
      tryResume (sendIdent (if (linkAt t l).identRx then sendResume t l else t) l) l
    else s)

/-- RESUME (R369, R370). -/
def resumeRx (s : State) (l rxBase txNext : Nat) (t : Trailer) : State :=
  if linkState s l = 4 ∧ (linkAt s l).trained ∧ txNext < 4096 then
    let s := takeTrailer s l t
    tryResume (setLink s l { linkAt s l with resumed := some rxBase }) l
  else s

def execResume (l rxBase txNext : Nat) (t : Trailer) (s : State) : Host.Outcome State Fault Refusal :=
  onLink s l (resumeRx (heard s l 1) l rxBase txNext t)

/-! ### Sending (R351 to R353, R360, R364, R365) -/

/-- Whether the present slot of a link is a PLAN slot (R353). -/
def planSlot (s : State) (l : Nat) : Bool :=
  let p := partLow s (l / 16)
  planState s p != 0 && match kget (partAt s p).slots l with
    | some m => bit m (s.cyc / 32)
    | none => false

/-- A frame's waiting time, in cycles, becomes TX_STALL or CREDIT_WAIT in ns; `key` is the frame's place, `new` what it waits for from now. -/
def endWait (s : State) (l key : Nat) (new : Option Bool) : State :=
  let x := linkAt s l
  let t := setLink s l { x with waiting := match new with | some b => kset x.waiting key (absNow s, b) | none => kdel x.waiting key }
  match kget x.waiting key with
  | none => t
  | some w =>
    let ps := (absNow s - w.1) * 80000 / coreN s
    if w.2 then bumpUnits t (0x3002 + 16 * l) 14 15 13 1000 ps else bumpUnits t (0x3002 + 16 * l) 13 15 12 1000 ps

/-- What holds a new frame of a class back: `false` the window or the replay buffer, `true` credits. -/
def frameBlock (s : State) (l : Nat) (k : Packet) : Option Bool :=
  let x := linkAt s l
  let used := (x.held.map HeldFrame.pieces).sum
  let room := if isSv2 s l then min 262144 (rg s (0x3001 + 16 * l) 8) else 262144
  if 2048 ≤ x.held.length ∨ room < 320 * (used + pieces (glL s l) k.len) then some false
  else if x.res.getD (classNum k.cls) 0 + x.res.getD 4 0 < 1 + k.len then some true
  else none

/-- Send a new frame: it is numbered, takes its credits, and stays in the replay buffer. -/
def startFrame (s : State) (l : Nat) (str : Stream) (k : Packet) : State :=
  let k := stampMsg s l k
  let x := linkAt s l
  let own := x.res.getD (classNum k.cls) 0
  let ures := min (1 + k.len) own
  let ush := 1 + k.len - ures
  let h : HeldFrame := { seq := x.txNext, pkt := k, ures := ures, ush := ush, pieces := pieces (glL s l) k.len, replays := 0, queued := false }
  let res := (List.range 5).map (fun i => x.res.getD i 0 - (if i = classNum k.cls then ures else 0) - (if i = 4 then ush else 0))
  sendFrame (setLink s l { x with held := x.held ++ [h], res := res, txNext := (x.txNext + 1) % 4096, numbered := true }) l str k x.txNext ures ush

/-- Try to send the frame at place `key`; a frame that must wait begins or goes on waiting. -/
def trySend (s : State) (l key : Nat) (str : Stream) (k : Packet) (taken : State → State) : State :=
  match frameBlock s l k with
  | some b => endWait s l key (some b)
  | none => taken (startFrame (endWait s l key none) l str k)

/-- The order of canopy messages that wait (R288). -/
def canopyRank (k : Packet) : Nat := match leAt k.payload 0 1 with | 5 => 0 | 3 => 1 | 2 => 2 | 1 => 3 | _ => 4

/-- The next packet of a class on a link. -/
def nextOf (x : LinkSt) (c : TClass) : Option Packet :=
  match c with
  | .plan => x.planQ.head?
  | .canopy =>
    let l := x.unsQ.filter (fun k => k.cls == .canopy)
    (List.range 5).findSome? (fun r => l.find? (fun k => canopyRank k == r))
  | .serve => x.unsQ.find? (fun k => k.cls == .serve)
  | .mgmt => x.unsQ.find? (fun k => k.cls == .mgmt)

/-- A link that may start a data frame of a class: UP, or PROBING for MGMT (R369), and not draining for a scrub (R552); no CANOPY frame in SV2
mode (R373). -/
def mayStart (s : State) (l : Nat) (c : TClass) : Bool :=
  (linkState s l == 3 || (linkState s l == 2 && c == .mgmt)) && !(linkAt s l).draining && !(isSv2 s l && c == .canopy)

/-- A packet that could start now. -/
def canStart (s : State) (l : Nat) (k : Packet) : Bool := mayStart s l k.cls && (frameBlock s l k).isNone

/-- An item that comes before a class in an unscheduled slot is ready: a replay, or a frame of an earlier class, from here or
forwarded (R352). -/
def classAhead (s : State) (l : Nat) (c : TClass) : Bool :=
  let x := linkAt s l
  !x.replayQ.isEmpty || x.unsQ.any (fun k => decide (classNum k.cls < classNum c) && canStart s l k) ||
    x.fwdQ.any (fun f => f.str == .unsched && decide (classNum f.pkt.cls < classNum c) && canStart s l f.pkt)

/-- A forwarded frame of a class that came before the link's own packets of it (R352: first come first within a class). -/
def fwdFirst (x : LinkSt) (c : TClass) : Bool := x.fwdQ.any (fun f => f.str == .unsched && f.pkt.cls == c && f.ahead == 0)

/-- An own packet of a class has gone: the forwarded frames of it are one place nearer. -/
def ownGone (x : LinkSt) (k : Packet) : LinkSt :=
  { x with unsQ := x.unsQ.erase k, fwdQ := x.fwdQ.map (fun f => if f.pkt.cls = k.cls then { f with ahead := f.ahead - 1 } else f) }

/-- FRAME_START; a link does nothing in a stretched cycle of its region (R236). -/
def frameStart (s : State) (l : Nat) (c : TClass) : State :=
  let x := linkAt s l
  if !mayStart s l c ∨ regionStill s (linkRegion l) then s
  else match nextOf x c with
    | none => s
    | some k =>
      if c = .plan then
        if planSlot s l then trySend s l 0 .plan k (fun t => setLink t l { linkAt t l with planQ := (linkAt t l).planQ.drop 1 }) else s
      else if planSlot s l ∨ classAhead s l c ∨ fwdFirst x c then s
      else trySend s l (classNum c) .unsched k (fun t => setLink t l (ownGone (linkAt t l) k))

def execFrameStart (l : Nat) (cls : TClass) (c : Nat) (s : State) : Host.Outcome State Fault Refusal :=
  onLink s l (frameStart (tick s c) l cls)

/-- REPLAY_SEND. -/
def replaySend (s : State) (l : Nat) : State :=
  let x := linkAt s l
  if (linkState s l ≠ 3 ∧ linkState s l ≠ 2) ∨ planSlot s l ∨ regionStill s (linkRegion l) then s
  else match x.replayQ with
    | [] => s
    | q :: r =>
      match x.held.find? (fun h => h.seq == q) with
      | none => setLink s l { x with replayQ := r }
      | some h =>
        let y := { x with replayQ := r,
                          held := x.held.map (fun g => if g.seq = q then { g with replays := g.replays + 1, queued := false } else g) }
        sendFrame (bump (setLink s l y) (0x3002 + 16 * l) 5 15 4 1) l .unsched h.pkt q h.ures h.ush

def execReplaySend (l c : Nat) (s : State) : Host.Outcome State Fault Refusal := onLink s l (replaySend (tick s c) l)

/-- The waiting frame that is next on a stream: by class in the UNSCHED stream (R352), first come first otherwise. -/
def nextFwd (x : LinkSt) (want : Stream) : Option Fwd :=
  match want with
  | .unsched => (List.range 4).findSome? (fun c => x.fwdQ.find? (fun f => f.str == .unsched && classNum f.pkt.cls == c))
  | w => x.fwdQ.find? (fun f => f.str == w)

/-- FRAME_FORWARD (R358): the next waiting frame whose stream the slot permits goes out of link `l`. -/
def frameForward (s : State) (l : Nat) : State :=
  let x := linkAt s l
  let want : Stream := if planSlot s l then .plan else .unsched
  if linkState s l ≠ 3 ∨ x.draining ∨ regionStill s (linkRegion l) then s
  else match nextFwd x want with
    | none => s
    | some f =>
      if want = .unsched ∧ (classAhead s l f.pkt.cls ∨ (f.ahead ≠ 0 ∧ x.unsQ.any (fun k => k.cls == f.pkt.cls && canStart s l k))) then s
      else trySend s l (if want = .plan then 8 else 4 + classNum f.pkt.cls) want f.pkt (fun t =>
        let t := setLink t l { linkAt t l with fwdQ := (linkAt t l).fwdQ.erase f }
        bump (release t f.src f.pkt.cls f.ures f.ush) (0x3420 + partLow t (l / 16)) 3 6 2 1)

def execFrameForward (l c : Nat) (s : State) : Host.Outcome State Fault Refusal := onLink s l (frameForward (tick s c) l)

/-! ### Replays (R360, R362) -/

/-- A frame is lost once more; after 16 replays the link fails. -/
def lostAgain (s : State) (l : Nat) (test : HeldFrame → Bool) : State :=
  let x := linkAt s l
  if x.held.any (fun h => test h && decide (16 ≤ h.replays) && !h.queued) then failLink s l 3 else setLink s l (queueReplays x test)

/-- NAK. -/
def nakRx (s : State) (l base miss : Nat) (t : Trailer) : State :=
  if (linkState s l ≠ 3 ∧ linkState s l ≠ 2) ∨ isSv2 s l then s
  else
    let s := bump (takeTrailer s l t) (0x3002 + 16 * l) 7 15 6 1
    lostAgain s l (fun h => let d := (h.seq + 4096 - base % 4096) % 4096; decide (d < 64) && bit miss d)

def execNak (l base miss : Nat) (t : Trailer) (s : State) : Host.Outcome State Fault Refusal :=
  onLink s l (nakRx (heard s l 1) l base miss t)

/-- Every held frame is replayed in ascending SEQ from TX_BASE, whatever was queued before (R373). -/
def replayAll (x : LinkSt) : LinkSt := queueReplays (unqueued x) (fun _ => true)

/-- REPLAY_TIMER; in SV2 mode every unacknowledged frame is replayed (R373). -/
def execReplayTimer (l seq ns : Nat) (s : State) : Host.Outcome State Fault Refusal :=
  onLink s l (if (linkState s l = 3 ∨ linkState s l = 2) ∧ 1000 * rg s (0x3000 + 16 * l) 5 ≤ ns ∧ (linkAt s l).held.any (fun h => h.seq == seq && !h.queued) then
      if !isSv2 s l then lostAgain s l (fun h => h.seq == seq)
      else if (linkAt s l).held.any (fun h => decide (16 ≤ h.replays) && !h.queued) then failLink s l 3
      else setLink s l (replayAll (linkAt s l))
    else s)

/-- CREDIT_TIMEOUT. -/
def execCreditTimeout (l ns : Nat) (s : State) : Host.Outcome State Fault Refusal :=
  onLink s l (if linkState s l = 3 ∧ 20000 ≤ ns ∧ (linkAt s l).waiting.any (fun w => w.2.2) then failLink s l 2 else s)

/-! ### Receiving (R350, R361, R385, R391 to R394) -/

/-- Send a NAK for the lost sequences from RX_BASE to RX_BASE + 63. -/
def sendNak (s : State) (l : Nat) : State :=
  let x := linkAt s l
  let miss := (List.range 64).foldl (fun m i => if x.lost.contains ((x.rxBase + i) % 4096) then m + 2 ^ i else m) 0
  bump (sendLink s l 2 [x.rxBase, miss]) (0x3002 + 16 * l) 6 15 5 1

/-- The sequences after RX_HIGH and before `q` that are not set. -/
def newLost (x : LinkSt) (q : Nat) : List Nat :=
  ((List.range ((q + 4095 - x.rxHigh) % 4096)).map (fun i => (x.rxHigh + 1 + i) % 4096)).filter (fun k => !x.rxSet.contains k)

/-- Advance RX_BASE past every set bit. -/
def advanceBase (x : LinkSt) : Nat → LinkSt
  | 0 => x
  | n + 1 => if x.rxSet.contains x.rxBase then
      advanceBase { x with rxSet := x.rxSet.filter (fun q => q != x.rxBase), rxBase := (x.rxBase + 1) % 4096 } n else x

/-- Mark what is lost before `q` as RX_HIGH moves to it, and send the NAK. -/
def markLost (s : State) (l q : Nat) (incl : Bool) : State :=
  let x := linkAt s l
  if !seqAfter q x.rxHigh then s
  else
    let new := newLost x q ++ (if incl ∧ !x.rxSet.contains q then [q] else [])
    let s := setLink s l { x with rxHigh := q, lost := x.lost ++ new }
    if new.isEmpty then s else sendNak s l

/-- KEEPALIVE (R361). -/
def keepaliveRx (s : State) (l : Nat) (txLast : Option Nat) (t : Trailer) : State :=
  if linkState s l = 2 ∨ linkState s l = 3 then
    let s := takeTrailer s l t
    match txLast with
    | some n => if isSv2 s l then s else markLost s l (n % 4096) true
    | none => s
  else s

def execKeepalive (l : Nat) (txLast : Option Nat) (t : Trailer) (s : State) : Host.Outcome State Fault Refusal :=
  onLink s l (keepaliveRx (heard s l 1) l txLast t)

/-- ACK (R373). -/
def ackRx (s : State) (l : Nat) (t : Trailer) : State :=
  if (linkState s l = 3 ∨ linkState s l = 2) ∧ isSv2 s l then takeTrailer s l t else s

def execAck (l : Nat) (t : Trailer) (s : State) : Host.Outcome State Fault Refusal := onLink s l (ackRx (heard s l 1) l t)

/-- NAK_REPEAT. -/
def execNakRepeat (l ns : Nat) (s : State) : Host.Outcome State Fault Refusal :=
  onLink s l (if (linkState s l = 3 ∨ linkState s l = 2) ∧ 2000 ≤ ns ∧ !(linkAt s l).lost.isEmpty then sendNak s l else s)

/-- SV2_ACK_TIMER (R373). -/
def sendAck (s : State) (l : Nat) : State := sendLink (setLink s l { linkAt s l with sv2Acc := 0 }) l 5 []

def execSv2AckTimer (l ns : Nat) (s : State) : Host.Outcome State Fault Refusal :=
  onLink s l (if (linkState s l = 3 ∨ linkState s l = 2) ∧ isSv2 s l ∧ 500 ≤ ns ∧ (linkAt s l).sv2Acc ≠ 0 then sendAck s l else s)

/-- KEEPALIVE_IDLE. -/
def execKeepaliveIdle (l ns : Nat) (s : State) : Host.Outcome State Fault Refusal :=
  onLink s l (if (linkState s l = 2 ∨ linkState s l = 3) ∧ 1000 ≤ ns then sendKeepalive s l else s)

/-- ACK_REFRESH. -/
def execAckRefresh (l ns : Nat) (s : State) : Host.Outcome State Fault Refusal :=
  onLink s l (if (linkState s l = 2 ∨ linkState s l = 3) ∧ 256 ≤ ns ∧ (linkAt s l).unsent then sendKeepalive s l else s)

/-- The partition has frozen, and a frame whose first piece came `age` cycles ago came at or after the freeze edge (R358, R395). -/
def afterFreeze (s : State) (p age : Nat) : Bool :=
  let edge : Int := (s.edge : Int) - beatDiff s.beat (rg s (0x7010 + p) 3) * (beatLen s : Int)
  planState s p == 4 && decide (edge ≤ (absNow s : Int) - age)

/-- Deliver, forward or refuse an accepted packet, whose first piece came `age` cycles ago; its pool units are released when it stays here. -/
def takePacket (s : State) (l : Nat) (str : Stream) (k : Packet) (ures ush age : Nat) : State :=
  let p := partLow s (l / 16)
  let free := fun (t : State) => release t l k.cls ures ush
  let no := refusal s p k
  if k.cls = .canopy then
    if no ≠ 0 ∨ isSv2 s l then free (refuse s p (l / 16) l (if no = 0 then 3 else no) k)
    else if leAt k.payload 0 1 ∈ [1, 2, 3, 4, 5] then free s
    else free (bump s (0x2210 + p) 13 14 4 1)
  else
    let start := ((List.range 8).findSome? (fun d => (bundleLinks s p d).idxOf? l)).getD 0
    let via := route s p k.dest start k.cls
    if k.cls = .plan ∧ afterFreeze s p age ∧ via ≠ some none then free s
    else match via with
    | none => free (noRoute s p (l / 16) l k)
    | some none =>
      match k.cls with
      | .plan => deliverPacket s p (l / 16) l k ures ush
      | .serve => free (if no ≠ 0 then refuse s p (l / 16) l no k else servePacket s p k.payload)
      | .mgmt => free (if no ≠ 0 then refuse s p (l / 16) l no k else s)
      | .canopy => free s
    | some (some o) =>
      let y := linkAt s o
      setLink s o { y with fwdQ := y.fwdQ ++ [{ src := l, ures := ures, ush := ush, str := str, pkt := k,
                                                ahead := (y.unsQ.filter (fun q => q.cls == k.cls)).length }] }

/-- The code of a stream (R345). -/
def streamCode (str : Stream) : Nat := match str with | .plan => 1 | .unsched => 2 | .link => 3

/-- The header of a data codeword (R345). -/
def cwHead (str : Stream) (sof eof : Bool) (cwi : Nat) : Nat :=
  streamCode str * 2 ^ 18 + (if sof then 2 ^ 17 else 0) + (if eof then 2 ^ 16 else 0) + cwi % 64 * 2 ^ 10

/-- Body bytes of a codeword (R342). -/
def bodyBytes (glL : Bool) : Nat := if glL then 640 else 320

/-- A framing error of a frame's codeword headers: a reserved bit, SOF or CWI out of order, an EOF that is missing or early, or a header that
is not of the stream (R345, R350). -/
def headsBad (glL : Bool) (str : Stream) (heads : List Nat) (bytes : Nat) : Bool :=
  heads.length * bodyBytes glL != bytes ||
    heads != (List.range heads.length).map (fun i => cwHead str (i == 0) (i + 1 == heads.length) i)

/-- A framing error of R350. -/
def framingBad (s : State) (l : Nat) (str : Stream) (fr : List Byte) : Bool :=
  let h := leAt fr 0 16
  let n := bits h 53 8
  let tr := leAt fr (fr.length - 32) 32
  decide (fr.length < 320) || bits h 8 9 != 0 || n == 0 || decide (128 < n) || fr.length != 320 * pieces (glL s l) n ||
    ((fr.drop (16 + 64 * n)).take (fr.length - 48 - 64 * n)).any (fun b => b != 0) || bits tr 64 80 != 0 || bits tr 26 22 != 0 || bit tr 24 ||
    (str == .plan && bits h 17 2 != 0) || (bit tr 25 && (bits tr 0 12 != 0 || bits tr 48 16 != 0))

/-- A data frame of this SEQ is not accepted: in SV2 mode any but that of RX_BASE, else a duplicate (R361, R373). -/
def seqBad (s : State) (l seq : Nat) : Bool :=
  let x := linkAt s l
  if isSv2 s l then seq != x.rxBase else decide (2048 ≤ (seq + 4096 - x.rxBase) % 4096) || x.rxSet.contains seq

/-- A valid data frame that is accepted (R361, R373). -/
def takeFrame (s : State) (l : Nat) (str : Stream) (k : Packet) (seq ures ush age : Nat) : State :=
  let x := linkAt s l
  if isSv2 s l then
    let y := { x with rxBase := (x.rxBase + 1) % 4096, sv2Acc := x.sv2Acc + 1, unsent := true, poolUsed := x.poolUsed + ures + ush }
    let s := takePacket (setLink s l y) l str k ures ush age
    if 4 ≤ (linkAt s l).sv2Acc then sendAck s l else s
  else
    let s := markLost s l seq false
    let x := linkAt s l
    let y := advanceBase { x with rxSet := x.rxSet ++ [seq], lost := x.lost.filter (fun q => q != seq) } (x.rxSet.length + 1)
    takePacket (setLink s l { y with unsent := true, poolUsed := y.poolUsed + ures + ush }) l str k ures ush age

/-! ### Link frames, and frames that are discarded after forwarding has begun (R349, R350, R358) -/

/-- The CRC of a frame does not match (R348). -/
def crcBad (fr : List Byte) : Bool := crc32 (fr.take (fr.length - 4)) != leAt fr (fr.length - 4) 4

/-- A framing error of a frame in the LINK stream: its length, its LTYPE, a byte that its body does not list, a reserved bit or a number
in its trailer. -/
def linkFramingBad (s : State) (l : Nat) (fr : List Byte) : Bool :=
  let tr := leAt fr (fr.length - 32) 32
  let ty := leAt fr 0 1
  let listed : Nat := match ty with | 1 => 3 | 2 => 16 | 3 => 24 | 4 => 5 | _ => 1
  fr.length != (if glL s l then 640 else 320) || ty == 0 || decide (5 < ty) ||
    ((fr.drop listed).take (fr.length - 32 - listed)).any (fun b => b != 0) || (ty == 2 && leAt fr 3 5 != 0) || (ty == 3 && leAt fr 3 1 != 0) ||
    bits tr 0 12 != 0 || bits tr 24 120 != 0

/-- A good link frame acts as its LTYPE says (R349). -/
def takeLinkFrame (s : State) (l : Nat) (fr : List Byte) : State :=
  let tr := leAt fr (fr.length - 32) 32
  let t : Trailer := { ack := bits tr 12 12, credits := (List.range 5).map (fun i => bits tr (144 + 16 * i) 16) }
  match leAt fr 0 1 with
  | 1 => keepaliveRx s l (if bit (leAt fr 1 2) 15 then none else some (leAt fr 1 2 % 4096)) t
  | 2 => nakRx s l (leAt fr 1 2) (leAt fr 8 8) t
  | 3 => identFrame s l { link := leAt fr 1 1, flags := leAt fr 2 1, coord := leAt fr 4 4 % 2 ^ 24, valid := bit (leAt fr 4 4) 31,
                          serial := (fr.drop 8).take 16 } t
  | 4 => resumeRx s l (leAt fr 1 2) (leAt fr 3 2) t
  | _ => ackRx s l t

/-- Whether a link could pass a frame through at once: its stream is free, the slot permits it, and its credits are there (R358). -/
def passesAt (s : State) (o : Nat) (str : Stream) (k : Packet) : Bool :=
  let y := linkAt s o
  linkState s o == 3 && !y.draining && !regionStill s (linkRegion o) && (planSlot s o == (str == .plan)) && (frameBlock s o k).isNone &&
    !y.fwdQ.any (fun f => f.str == str) && (if str == .plan then y.planQ.isEmpty else y.unsQ.isEmpty && y.replayQ.isEmpty)

/-- A frame is discarded: where its first piece, which came `age` cycles ago, chose a link that was passing it through, that link closes it
with ABORT = 1 and the credits return at once (R358, R365). -/
def abortForward (s : State) (l : Nat) (str : Stream) (age : Nat) (fr : List Byte) : State :=
  let h := leAt fr 0 16
  let n := bits h 53 8
  let p := partLow s (l / 16)
  let k := packetOf h (padTo (64 * n) ((fr.drop 16).take (64 * n)))
  let start := ((List.range 8).findSome? (fun d => (bundleLinks s p d).idxOf? l)).getD 0
  if fr.length < 320 ∨ bits h 8 9 ≠ 0 ∨ n = 0 ∨ 128 < n ∨ str = .link ∨ (str = .plan ∧ k.cls ≠ .plan) ∨ k.cls = .canopy ∨
      (k.cls = .plan ∧ afterFreeze s p age) then s
  else match route s p k.dest start k.cls with
    | some (some o) =>
      if passesAt s o str k then emit (setLink s o { linkAt s o with unsent := false }) (.frame o str (abortBytes s o k)) else s
    | some none => s
    | none => s

/-- CODEWORD_DECODE_FAILURE (R350, R358, R377): every frame in progress on the link is discarded. -/
def codewordLost (s : State) (m : LostWord) : State :=
  if linkState s m.link = 0 ∨ 5 ≤ linkState s m.link then s
  else m.begun.foldl (fun t f => abortForward t m.link f.1 0 f.2) (bump s (0x3002 + 16 * m.link) 2 15 1 1)

def execCodewordDecodeFailure (l : LostWord) (s : State) : Host.Outcome State Fault Refusal := onLink s l.link (codewordLost s l)

/-- DATA_FRAME_RX, with the headers of its codewords and the age of its first piece. -/
def dataFrameRx (s : State) (l : Nat) (str : Stream) (m : FrameHeads) (fr : List Byte) : State :=
  let lost := fun (t : State) => abortForward t l str m.sofAge fr
  let order := !headsBad (glL s l) str m.heads fr.length
  if str = .link then
    if linkState s l = 0 ∨ 5 ≤ linkState s l then s
    else if !order ∨ linkFramingBad s l fr then bump s (0x3002 + 16 * l) 4 15 3 1
    else if crcBad fr then bump s (0x3002 + 16 * l) 3 15 2 1
    else takeLinkFrame s l fr
  else if linkState s l ≠ 3 ∧ linkState s l ≠ 2 then s
  else if !order ∨ framingBad s l str fr then lost (bump s (0x3002 + 16 * l) 4 15 3 1)
  else if crcBad fr then lost (bump s (0x3002 + 16 * l) 3 15 2 1)
  else
    let h := leAt fr 0 16
    let tr := leAt fr (fr.length - 32) 32
    let k := packetOf h ((fr.drop 16).take (64 * bits h 53 8))
    let s := takeCredits (if isSv2 s l then s else takeAck s l (bits tr 12 12)) l ((List.range 5).map (fun i => bits tr (144 + 16 * i) 16))
    if bit tr 25 then lost (bump s (0x3002 + 16 * l) 9 15 8 1)
    else if linkState s l = 2 ∧ k.cls ≠ .mgmt then s
    else if seqBad s l (bits tr 0 12) then lost (if isSv2 s l then s else bump s (0x3002 + 16 * l) 8 15 7 1)
    else takeFrame s l str k (bits tr 0 12) (bits tr 48 8) (bits tr 56 8) m.sofAge

def execDataFrameRx (l c : Nat) (str : Stream) (order : FrameHeads) (fr : List Byte) (s : State) : Host.Outcome State Fault Refusal :=
  let t := tick s c
  onLink s l (dataFrameRx (heard t l (ceilDiv fr.length (if glL t l then 640 else 320))) l str order fr)

/-! ### Link entries (R369, R375, R376) -/

/-- A link that LINKSLOTS names while its partition runs. -/
def slotLink (s : State) (l : Nat) : Bool :=
  planState s (partLow s (l / 16)) == 3 && (kget (partAt s (partLow s (l / 16))).slots l).isSome

/-- A retired link: every write of its LINK_ADMIN returns STATE (R641). -/
def linkRetired (s : State) (l : Nat) : Bool := bit (rg s 0x7008 9) l

/-- The STATE conditions of LINK_ADMIN on a value, and of LINK_RETRAIN with 1. -/
def adminBad (s : State) (l v : Nat) : Bool :=
  (v == 2 && linkState s l == 5) || (v == 0 && slotLink s l) || (v == 1 && slotLink s l && (linkState s l == 3 || linkState s l == 4))

/-- An accepted LINK_ADMIN. -/
def doAdmin (s : State) (l v : Nat) : State :=
  let t := wr s (0x3000 + 16 * l) 1 v
  match v with
  | 0 =>
    let h := (linkAt t l).retrain
    finishAll (leaveFor (setLink t l { linkAt t l with retrain := [] }) l 0) l h .state
  | 1 => startTraining t l
  | _ =>
    if linkState t l = 0 then startTraining t l
    else if linkState t l = 2 then tryUp (sendIdent t l) l
    else if linkState t l = 1 ∧ (linkAt t l).trained then sendIdent t l
    else t

def linkAdmin (s : State) (ses l : Nat) (val : List Byte) : State :=
  setting s ses (0x3000 + 16 * l) 1
    (fun s x => setStatus s x (0x3000 + 16 * l) 1 val (linkRetired s l) false (linkState s l != 6 && adminBad s l (leNat val)) (linkState s l == 6))
    (fun s _ => doAdmin s l (leNat val))

def execLinkAdmin (ses l : Nat) (val : List Byte) (s : State) : Host.Outcome State Fault Refusal := done s (linkAdmin s ses l val)

/-- LINK_RETRAIN. -/
def linkRetrain (s : State) (ses l : Nat) (arg : List Byte) : State :=
  invoking s ses (0x3000 + 16 * l) 6 0x0D false
    (fun s x => invStatus s x (0x3000 + 16 * l) 6 arg 0 (linkRetired s l || (linkState s l != 6 && adminBad s l 1)) false (linkState s l == 6))
    (fun s _ h => let t := doAdmin s l 1; setLink t l { linkAt t l with retrain := (linkAt t l).retrain ++ [h] })

def execLinkRetrain (ses l : Nat) (s : State) : Host.Outcome State Fault Refusal := done s (linkRetrain s ses l [])

/-- LINK_SELFTEST: the test runs for TEST_MS in the mode TEST_MODE, as they are when it starts (R375). -/
def linkSelftest (s : State) (ses l : Nat) (arg : List Byte) : State :=
  invoking s ses (0x3000 + 16 * l) 7 0x0B false
    (fun s x => invStatus s x (0x3000 + 16 * l) 7 arg 0
      ((linkState s l != 0 && linkState s l != 5) || partState s (partLow s (l / 16)) != 1) false false)
    (fun s _ h => setLinkState (setLink s l { linkAt s l with test := some h, testMode := rg s (0x3000 + 16 * l) 8,
                                                              testMs := rg s (0x3000 + 16 * l) 9 }) l 6)

def execLinkSelftest (ses l : Nat) (s : State) : Host.Outcome State Fault Refusal := done s (linkSelftest s ses l [])

/-- LINK_SELFTEST_END: the test has run for TEST_MS (R375). -/
def execLinkSelftestEnd (l : Nat) (res : LinkTest) (s : State) : Host.Outcome State Fault Refusal :=
  onLink s l (if linkState s l = 6 ∧ (linkAt s l).testMs ≤ res.ms then
      let h := (linkAt s l).test
      let t := setLinkState (setLink s l { linkAt s l with test := none, testMode := 0, testMs := 0 }) l 0
      finishAll (wb t (0x3001 + 16 * l) 9 ((padTo 64 res.result).take 64)) l h.toList .ok
    else s)

/-- SCRUB_LINK_DRAIN (R552). -/
def execScrubLinkDrain (l us : Nat) (s : State) : Host.Outcome State Fault Refusal :=
  let x := linkAt s l
  onLink s l (if x.draining ∧ 100 ≤ us ∧ !(x.held.isEmpty && x.poolUsed == 0) then leaveFor s l 0 else s)

/-! ### Fabric entries (R380, R381, R386, R389, R409, R415) -/

/-- A component of MY_COORD at or beyond its extent. -/
def coordBad (coord extent : Nat) : Bool := (List.range 4).any (fun d => decide (bits extent (6 * d) 6 < bits coord (6 * d) 6))

def coordHeld (s : State) : Bool := anyPlan s || (List.range (linksOf s.variant)).any (fun l => linkState s l == 4)

/-- MY_COORD. -/
def doMyCoord (s : State) (v : Nat) : State :=
  let t := (List.range 4).foldl (fun t p => (List.range 4).foldl (fun t i => toDefault t (0x3410 + p) (2 + i)) t) (wr s 0x3400 1 v)
  (List.range (linksOf t.variant)).foldl (fun t l => if linkState t l = 2 ∨ linkState t l = 3 then sendIdent t l else t) t

def myCoordSet (s : State) (ses : Nat) (val : List Byte) : State :=
  setting s ses 0x3400 1 (fun s x => setStatus s x 0x3400 1 val (coordHeld s) (coordBad (leNat val) (rg s 0x3400 2)) false false)
    (fun s _ => doMyCoord s (leNat val))

def execMyCoord (ses : Nat) (val : List Byte) (s : State) : Host.Outcome State Fault Refusal := done s (myCoordSet s ses val)

/-- A write that R409 refuses with STATE. -/
def fabricHeld (s : State) (p : Nat) : Bool := planState s p ∈ [1, 3, 4]

/-- The RANGE cases of R386. -/
def bundlesBad (s : State) (p : Nat) (val : List Byte) : Bool :=
  let own := (partLinks s p).foldl (fun m l => m + 2 ^ l) 0
  let b := (List.range 8).map (fun i => leAt val (8 * i) 8)
  b.any (fun m => m &&& own != m || decide (16 < ((List.range 64).filter (bit m)).length)) ||
    (List.range 8).any (fun i => (List.range i).any (fun j => b.getD i 0 &&& b.getD j 0 != 0))

def bundlesSet (s : State) (ses p : Nat) (val : List Byte) : State :=
  setting s ses (0x3410 + p) 1 (fun s x => setStatus s x (0x3410 + p) 1 val (fabricHeld s p) (bundlesBad s p val) false false)
    (fun s _ => dropPlan (wb s (0x3410 + p) 1 val) p)

def execBundles (ses p : Nat) (val : List Byte) (s : State) : Host.Outcome State Fault Refusal := done s (bundlesSet s ses p val)

/-- The RANGE cases of R389. -/
def routeBad (s : State) (dim : Nat) (val : List Byte) : Bool :=
  let me := bits (myCoord s) (6 * dim) 6
  let ext := bits (rg s 0x3400 2) (6 * dim) 6 + 1
  (List.range 64).any (fun i =>
    let v := leAt val i 1
    decide (3 < v) || (i == me) != (v == 0) || (decide (ext ≤ i) && v != 3))

def routeSet (s : State) (ses p dim : Nat) (val : List Byte) : State :=
  setting s ses (0x3410 + p) (2 + dim)
    (fun s x => setStatus s x (0x3410 + p) (2 + dim) val (fabricHeld s p || !bit (myCoord s) 31) (routeBad s dim val) false false)
    (fun s _ => dropPlan (wb s (0x3410 + p) (2 + dim) val) p)

def execRouteTableWrite (ses p dim : Nat) (val : List Byte) (s : State) : Host.Outcome State Fault Refusal :=
  done s (if dim < 4 then routeSet s ses p dim val else s)

/-- The RANGE cases of R409 for a rank window. -/
def windowBad (s : State) (p base len : Nat) : Bool :=
  decide (32768 < base + len) || (partitions s).any (fun q => q != p && overlaps base len (rg s (0x3410 + q) 6) (rg s (0x3410 + q) 7) &&
    len != 0 && rg s (0x3410 + q) 7 != 0)

def windowSet (s : State) (ses p : Nat) (len : Bool) (val : List Byte) : State :=
  let sub := if len then 7 else 6
  setting s ses (0x3410 + p) sub
    (fun s x => setStatus s x (0x3410 + p) sub val (fabricHeld s p)
      (if len then windowBad s p (rg s (0x3410 + p) 6) (leNat val) else windowBad s p (leNat val) (rg s (0x3410 + p) 7)) false false)
    (fun s _ => dropPlan (wr s (0x3410 + p) sub (leNat val)) p)

def execRankWindowWrite (ses p : Nat) (len : Bool) (val : List Byte) (s : State) : Host.Outcome State Fault Refusal :=
  done s (windowSet s ses p len val)

/-- Partitions whose window meets a page of the rank table. -/
def pageParts (s : State) (q : Nat) : List Nat :=
  (partitions s).filter (fun p => rg s (0x3410 + p) 7 != 0 && overlaps (rg s (0x3410 + p) 6) (rg s (0x3410 + p) 7) (256 * q) 256)

def rankTableSet (s : State) (ses q : Nat) (val : List Byte) : State :=
  setting s ses (0x3800 + q) 1
    (fun s x => setStatus s x (0x3800 + q) 1 val ((pageParts s q).any (fabricHeld s))
      ((List.range 256).any (fun i => bits (leAt val (4 * i) 4) 24 7 != 0)) false false)
    (fun s _ => (pageParts s q).foldl dropPlan (wb s (0x3800 + q) 1 val))

def execRankTableWrite (ses q : Nat) (val : List Byte) (s : State) : Host.Outcome State Fault Refusal :=
  done s (if q < 128 then rankTableSet s ses q val else s)

end Sys2Proof.Machine
end

