-- ==== Sys2Proof/Machine/Beat.lean ====
section
/-! DEFINITION. Beat edges (R183 to R186, R225, R239 to R245), the start and the end of a plan (R186, R187), freezes (R23, R119, R171,
R243, R283, R329, R372, R634, R635), changes of the beat length (R226), and fault records and alarms (R289, R630 to R634). -/

namespace Sys2Proof.Machine

/-! ### Fault records (R22, R630, R632) -/

/-- The order in which the package fault controller takes records: by beat and cycle, then die, cluster, core and engine. -/
def recKey (s : State) (r : LogRec) : Nat :=
  let age := (s.beat + 2 ^ 48 - r.beat % 2 ^ 48) % 2 ^ 48
  ((2 ^ 48 - age) * 2 ^ 16 + r.cycle) * 2 ^ 16 + bits r.unit 8 2 * 2 ^ 14 + bits r.unit 4 4 * 2 ^ 10 + bits r.unit 0 4 * 2 ^ 6 + bits r.unit 10 6

/-- The first record of a list in that order. -/
def firstRec (s : State) : List LogRec → Option LogRec
  | [] => none
  | r :: l => match firstRec s l with
    | none => some r
    | some q => if recKey s q < recKey s r then some q else some r

/-- FAULT_RECORD: one record reaches the package fault controller. -/
def faultRecord (s : State) : State :=
  match firstRec s s.faultq with
  | none => s
  | some r => raise { s with faultq := s.faultq.erase r } r

def execFaultRecord (s : State) : Host.Outcome State Fault Refusal := done s (faultRecord s)

/-- ALARM_RX (R289). -/
def alarmRx (s : State) (p l : Nat) (m : CanopyMsg) : State :=
  if l ∉ canopyLinks s p ∨ (m.origin, m.beat) ∈ (partAt s p).seen then s
  else
    let s := setPart s p { partAt s p with seen := (partAt s p).seen ++ [(m.origin, m.beat)] }
    let r := partRec s p 0x0701 (leBytes 1 m.cls ++ leBytes 2 m.code ++ leBytes 1 m.level ++ leBytes 2 m.unit ++ leBytes 2 m.origin ++
      leBytes 6 m.beat ++ leBytes 2 m.cycle ++ leBytes 1 m.hops ++ leBytes 1 p)
    let s := logRec s r
    let s := ((canopyLinks s p).filter (fun k => k != l)).foldl (fun t k =>
      sendMsg t k 5 [m.origin, m.beat, m.cycle, m.hops + 1, m.cls, m.code, m.level, m.unit]) s
    if planState s p = 3 ∧ !(partAt s p).alarm then setPart s p { partAt s p with alarm := true, cause := LogRec.bytes r } else s

def execAlarmRx (l : Nat) (m : CanopyMsg) (s : State) : Host.Outcome State Fault Refusal :=
  onLink s l (alarmRx s (partLow s (l / 16)) l m)

/-! ### Freezes -/

/-- A core at the freeze: its engines stop, and what waits for it is discarded; writes that are on their way complete (R329). -/
def freezeCore (x : CoreSt) : CoreSt :=
  { x with mq := [], vq := [], dq := [], yq := [], mrun := [], vrun := [], drun := [], yrun := [], srun := [], held := none, pq := [],
           fetch := [], packets := [], arrQ := [], canQ := [], addNow := [], addCarry := [], waitBid := [], calls := [], stretch := 0 }

/-- The partition freezes (R634, R635). -/
def freeze (s : State) (p : Nat) : State :=
  let q := partAt s p
  let s := (partCores s p).foldl (fun t u => if (kget t.cores u).isSome then countPhase t u else t) s
  let s := mapCores (setPlanState s p 4) p (fun _ x => freezeCore x)
  let s := (partLinks s p).foldl (fun t l =>
    if (linkAt t l).planQ.isEmpty then t else let r := endWait t l 0 none; setLink r l { linkAt r l with planQ := [] }) s
  let s := setPart s p { q with insts := [], reach := [], arrs := [], alarm := false, planFault := false, firstPF := [] }
  let s := wb (wr (bump s (0x7010 + p) 2 6 0 1) (0x7010 + p) 3 s.beat) (0x7010 + p) 4 q.cause
  let s := planEnds s p
  if q.relPending then becomeDirty s p
  else if rg s 0x6020 1 = 0 then setPart s p { partAt s p with resetting := true }
  else s

/-! ### The check of R207 and R240 -/

/-- The detail of a core whose check fails (R241). -/
def overrunDetail (x : CoreSt) : List Byte :=
  let low := x.outst.foldl (fun (m : Option OutRec) o => match m with
    | none => some o
    | some q => if o.cnt < q.cnt then some o else some q) none
  let stage := if !x.outst.isEmpty then 0 else if x.sliceIdx < x.sliceEnd then 1 else 2
  let who : Nat × Nat × Nat := match low, x.lastTaken with
    | some o, _ => (o.cnt, o.tag, o.opc)
    | none, some o => (o.cnt, o.tag, o.opc)
    | none, none => (x.dcount, 0, 0)
  leBytes 6 who.1 ++ leBytes 2 who.2.1 ++ leBytes 1 who.2.2 ++ leBytes 1 stage ++ leBytes 1 x.frames.length ++
    leBytes 2 (min x.outst.length 0xFFFF)

/-- The check fails. -/
def overran (x : CoreSt) : Bool := !x.outst.isEmpty || decide (x.sliceIdx < x.sliceEnd) || !x.frames.isEmpty

/-- Log the overruns of a partition; each such core dispatches nothing more (R241, R242). -/
def logOverruns (s : State) (p : Nat) : State :=
  (partCores s p).foldl (fun t u =>
    let x := coreAt t u
    if x.stopped ∨ !overran x then t
    else capture (setCore t u { x with stopped := true }) (coreRec t u 0 0x0202 (overrunDetail x))) s

/-- The partition's finish cycle (R239). -/
def finishCycle (s : State) (p : Nat) : Int :=
  (partCores s p).foldl (fun m u => match (coreAt s u).finish with | some f => max m (f : Int) | none => m) (-1)

/-- The entries of a beat that passed its check, numbered `b` (R239, R245, R254, R631). -/
def beatPassed (s : State) (p b : Nat) : State :=
  let q := partAt s p
  let fin := finishCycle s p
  let margin := ((beatLen s : Int) - 1 - fin).toNat
  let use := (fin - ((beatLen s : Int) - (q.reserve : Int) - 1)).toNat
  let i := 0x2130 + p
  let s := wr s (0x2120 + p) 6 (rg s (0x2120 + p) 6 + 1)
  let s := wr s i 2 (fin % 2 ^ 32).toNat
  let s := if margin < rg s i 3 then wr (wr s i 3 margin) i 4 b else s
  let s := if 0 < use then bump s i 5 9 0 1 else s
  if q.reserve < 2 * use ∧ !q.halfLogged then
    logRec (setPart s p { q with halfLogged := true }) (partRec s p 0x0101 (leBytes 6 b ++ leBytes 2 use ++ leBytes 1 p))
  else s

/-! ### Slices (R183 to R186) -/

/-- A word of a core's beat table. -/
def tableWord (s : State) (u i : Nat) : Nat := leNat (peek s (tableAddr s u + 4 * i) 4)

/-- A core begins the slice of the present beat; `seg` when a segment begins, `rep` when a repeat begins. The stream unit reads its entry
when the segment begins, and meets the errors of what it reads (R332). -/
def beginSlice (s : State) (u : Nat) (seg rep : Bool) : State :=
  let x := coreAt s u
  let n := listLen s u
  let s := if seg then readErrors s u 5 (segEntryAddr s u) 8 0 0 0 else s
  let x := { x with finish := none, lastTaken := none, stretch := 0 }
  let x := if seg then { x with pq := [], fetch := if n = 0 then [] else [{ lm := false, rep := 0, next := 0, stop := n }],
                                nextFetch := s.edge + (if listInKM s u then 22 else 15), sliceRep := 0 }
    else if rep then { x with sliceRep := x.sliceRep + 1 } else x
  if x.stopped ∨ n = 0 then setCore s u { x with sliceIdx := 0, sliceEnd := 0 }
  else
    let shape := segShape s (partOf s u)
    let b := (partAt s (partOf s u)).segBeat
    let a := tableWord s u b
    let e := if b + 1 < shape.1 then tableWord s u (b + 1) else n
    let s := readErrors s u 5 (tableAddr s u + 4 * b) (if b + 1 < shape.1 then 8 else 4) 0 0 0
    if e < a ∨ n < e ∨ (b = 0 ∧ a ≠ 0) then
      capture (setCore s u { x with sliceIdx := 0, sliceEnd := 0, stopped := true })
        (coreRec s u 0 0x0201 (illegalDetail x.dcount 0 0 0x15 x.frames.length))
    else setCore s u { x with sliceIdx := a, sliceEnd := e }

/-- Every core of a partition begins a slice. -/
def beginBeat (s : State) (p : Nat) (seg rep : Bool) : State := (partCores s p).foldl (fun t u => beginSlice t u seg rep) s

/-- The next beat of the plan (R181, R186). -/
def nextBeat (s : State) (p : Nat) : State :=
  let q := partAt s p
  let sh := segShape s p
  if q.segBeat + 1 < sh.1 then beginBeat (setPart s p { q with segBeat := q.segBeat + 1 }) p false false
  else if rg s (0x2120 + p) 8 + 1 < sh.2 then
    beginBeat (wr (setPart s p { q with segBeat := 0 }) (0x2120 + p) 8 (rg s (0x2120 + p) 8 + 1)) p false true
  else if rg s (0x2120 + p) 7 + 1 < q.segs.length then
    beginBeat (wr (wr (setPart s p { q with segBeat := 0 }) (0x2120 + p) 8 0) (0x2120 + p) 7 (rg s (0x2120 + p) 7 + 1)) p true false
  else
    mapCores (setPart s p { q with ended := true }) p (fun _ x =>
      { x with sliceIdx := 0, sliceEnd := 0, finish := none, lastTaken := none, stretch := 0 })

/-! ### The edge -/

/-- The entry that a PLAN_FAULT alarm of a partition names (R634). -/
def planFaultRec (s : State) (p : Nat) : LogRec :=
  let b := (partAt s p).firstPF
  if b.isEmpty then
    (firstRec s (s.faultq.filter (fun r => r.cls == 2 && decide (r.level ≤ 3) && partLow s (r.unit / 256 % 4) == p))).getD
      (partRec s p 0x0202 [])
  else
    { beat := leAt b 0 6, cycle := leAt b 6 2, level := leAt b 8 1, cls := leAt b 9 1, code := leAt b 10 2, unit := leAt b 12 2,
      detail := b.drop 14, dies := 0, ent := none, num := 0 }

/-- A PLAN_FAULT raises its alarm at the edge. -/
def edgeAlarm (s : State) (p : Nat) : State :=
  if (partAt s p).planFault then
    let t := raiseAlarm s (planFaultRec s p) p
    setPart t p { partAt t p with planFault := false, firstPF := [] }
  else s

/-- A RUNNING partition at the edge that ends beat `b`. -/
def edgePart (b : Nat) (s : State) (p : Nat) : State :=
  if (partAt s p).alarm then freeze s p
  else if (partAt s p).ended then edgeAlarm s p
  else
    let t := logOverruns s p
    let t := if (partCores t p).any (fun u => (coreAt t u).stopped) then t else beatPassed t p b
    nextBeat (edgeAlarm t p) p

/-- The core clock phase moves towards e = 0 by at most 1,024 units of 1/65,536 cyc in a beat: with a positive e the count is ahead, and the
edge comes later (R432). -/
def movePhase (s : State) : State :=
  if timingState s ≠ 3 then s
  else
    let n := if 0 ≤ s.phaseLeft then max 0 (s.phaseLeft - 1024) else min 0 (s.phaseLeft + 1024)
    { s with phaseLeft := n, edgePs := s.edgePs + ((s.phaseLeft - n : Int) : Rat) * 80000 / (65536 * (coreN s : Rat)) }

/-- HOLDOVER at an edge (R286, R437). -/
def holdover (s : State) : State :=
  let l := timingActive s
  let alt := rg s 0x2000 11
  let p := timingPart s
  if timingState s ≠ 4 then s
  else if l < 64 ∧ linkState s l = 3 ∧ isNative s l then logRec (takeActive (setTiming s 3) l) (pkgRec s 4 6 [])
  else if l = rg s 0x2000 10 ∧ alt < 64 ∧ linkState s alt = 3 ∧ isNative s alt ∧
      (kget s.bsyncAt alt).any (fun b => decide (beatDiff s.beat b ≤ syncPeriods s 2)) then
    logRec (wr (takeActive (setTiming s 3) alt) (0x2210 + p) 6 (rg s (0x2210 + p) 3)) (pkgRec s 4 7 [])
  else s

/-- The beat number and the cycle count move on; what is counted by beat starts again (R225, R446, R630). -/
def advanceBeat (s : State) : State :=
  { s with beat := (s.beat + 1) % 2 ^ 48, edge := s.edge + beatLen s, cyc := 0, capSeen := [], stretchNow := [], stretchHit := [],
           edgePs := s.edgePs + (beatLen s : Rat) * 80000 / (coreN s : Rat), lastN := coreN s, lastLen := beatLen s }

/-- Everything that was due in the ending beat, whose last cycle has passed: its signals are in, and the adders have closed that cycle
(R207, R263). -/
def settlePart (s : State) (p : Nat) : State :=
  (partCores s p).foldl (fun t u => if (kget t.cores u).isSome then
    let r := settle (meetThrottle t u) u (absNow t - 1)
    adderTo r u (absNow r) else t) s

/-- BEAT_EDGE. Without a core clock there is no edge. -/
def beatEdge (s : State) : State :=
  if !s.railsUp then s
  else
    let run := (partitions s).filter (fun p => planState s p == 3)
    let b := s.beat
    let s := advanceBeat (capMiss (run.foldl settlePart (elapse s (beatLen s - s.cyc))))
    let s := run.foldl (edgePart b) s
    announce (setThrottle (updateCeil (capPredict (holdover (movePhase (countHold s))))))

def execBeatEdge (s : State) : Host.Outcome State Fault Refusal := done s (beatEdge s)

/-! ### At the same edge: the start and the end of a plan, the beat length -/

/-- PLAN_START (R187). -/
def planStart (s : State) (p : Nat) : State :=
  let s := setPart (wr (wr (setPlanState s p 3) (0x2120 + p) 7 0) (0x2120 + p) 8 0) p { partAt s p with segBeat := 0, ended := false }
  let s := mapCores s p (fun _ x => { x with phase := 0, phaseFrom := absNow s, addCyc := absNow s })
  setThrottle (beginBeat s p true false)

/-- The edge is that of the armed start beat. -/
def startDue (s : State) (p : Nat) : Bool :=
  let v := rg s (0x2120 + p) 5
  s.railsUp && planState s p == 2 && bit v 63 && v % 2 ^ 48 == s.beat && s.cyc == 0

def execPlanStart (p : Nat) (s : State) : Host.Outcome State Fault Refusal := onPart s p (if startDue s p then planStart s p else s)

/-- PLAN_COMPLETE (R186, R244). -/
def planComplete (s : State) (p : Nat) : State :=
  let s := (partCores s p).foldl (fun t u => if (kget t.cores u).isSome then countPhase t u else t) s
  setThrottle (planEnds (setPlanState s p 5) p)

def execPlanComplete (p : Nat) (s : State) : Host.Outcome State Fault Refusal :=
  onPart s p (if planState s p = 3 ∧ (partAt s p).ended ∧ !(partAt s p).alarm ∧ s.cyc = 0 then planComplete s p else s)

/-- BEAT_K_CHANGE (R226). -/
def kChangeDue (s : State) : Bool := bit (rg s 0x2100 3) 63 && rg s 0x2100 3 % 2 ^ 48 == s.beat && s.cyc == 0

def beatKChange (s : State) : State :=
  let t := wr (wr s 0x2100 1 (rg s 0x2100 2)) 0x2100 3 0
  wr t 0x2000 8 (stretchMax t (rg t 0x2000 7))

def execBeatKChange (s : State) : Host.Outcome State Fault Refusal := done s (if kChangeDue s then beatKChange s else s)

end Sys2Proof.Machine
end

