-- ==== Sys2Proof/Machine/Spdm.lean ====
section
/-! DEFINITION. Keys and roles (R537, R538), the SPDM responder and its sessions (R537 to R540, R561), and attestation (R562, R563).
What an SPDM response carries is flattened; its codes and their payload order are those of DSP0274 (log entry 32). -/

namespace Sys2Proof.Machine

/-! ### Keys -/

/-- All zero means empty. -/
def keyEmpty (k : List Byte) : Bool := leNat k == 0

/-- A key entry may hold this: a point, or nothing. -/
def keyOk (k : List Byte) : Bool := keyEmpty k || onCurve k

/-- Slot `i` of a key table. -/
def keySlot (t : List Byte) (i : Nat) : List Byte := (t.drop (97 * i)).take 97

/-- The keys that a table holds. -/
def keysOf (t : List Byte) : List (List Byte) := ((List.range 8).map (keySlot t)).filter (fun k => !keyEmpty k)

/-- The tenant keys. -/
def tenantKeys (s : State) : List (List Byte) :=
  ((List.range 4).map (fun p => rb s (0x6040 + p) 3)).filter (fun k => !keyEmpty k)

def noDup : List (List Byte) → Bool
  | [] => true
  | a :: r => !r.contains a && noDup r

/-- A write of OWNER_KEY, OPERATOR_KEYS or PART_TENANT_KEY that registers a key in two roles or two slots (R538). -/
def ownerKeyBad (s : State) (k : List Byte) : Bool :=
  !keyOk k || (!keyEmpty k && (keysOf (rb s 0x6010 2) ++ tenantKeys s).contains k)

def operatorKeysBad (s : State) (t : List Byte) : Bool :=
  !((List.range 8).all (fun i => keyOk (keySlot t i))) || !noDup (keysOf t) ||
    (keysOf t).any (fun k => k == rb s 0x6010 1 || (tenantKeys s).contains k)

def tenantKeyBad (s : State) (k : List Byte) : Bool :=
  !keyOk k || (!keyEmpty k && (k == rb s 0x6010 1 || (keysOf (rb s 0x6010 2)).contains k))

/-! ### Roles and sessions -/

/-- LIFECYCLE: 0 MANUFACTURE, 1 PROVISIONED, 2 OWNED, 3 RMA (R541). -/
def lifecycle (s : State) : Nat := rg s 0x6000 1

/-- The role of a requester (R537). -/
def roleOf (s : State) (key : List Byte) (vendor : Bool) : Option Role :=
  if vendor ∧ lifecycle s ≠ 2 then some .vd
  else if lifecycle s = 2 then
    if key = rb s 0x6010 1 then some .ow
    else if (keysOf (rb s 0x6010 2)).contains key then some .op
    else if (partitions s).any (fun p => partState s p == 4 && rb s (0x6040 + p) 3 == key) then some .tn
    else none
  else if lifecycle s = 1 then some .restricted
  else none

/-- An SPDM message of the module: message type, version 1.3, code and what follows (R561, R586). -/
def spdmMsg (code : Nat) (val : List Byte) : List Byte := [0x05, 0x13] ++ leBytes 1 code ++ val

/-- Send an SPDM response to the requester of a binding. -/
def spdmOut (s : State) (b code : Nat) (val : List Byte) : State :=
  carry (emit s (.spdm b code val)) b ((kget s.mctpFrom b).getD {}) (spdmMsg code val)

/-- Send an SPDM response inside a session. -/
def spdmIn (s : State) (x : Session) (code : Nat) (val : List Byte) : State := sendSecured s x (.spdm x.transport code val) (spdmMsg code val)

/-- An SPDM ERROR response. -/
def spdmErr (s : State) (b err : Nat) : State := spdmOut s b 0x7F (leBytes 1 err)

/-- Bindings 0 mailbox, 1 PCIe VDM, 2 I3C, 3 MGMT packets; all but the mailbox pass through the MC (R586, R597, R598). -/
def spdmDeaf (s : State) (b : Nat) : Bool := b != 0 && s.mcDown

/-- How far the negotiation of a binding has come: 1 version, 2 capabilities, 3 algorithms. -/
def spdmAt (s : State) (b : Nat) : Nat := (kget s.spdm b).getD 0

/-- A request of the negotiation: it needs the step before it. -/
def negotiate (s : State) (b need next code : Nat) (val : List Byte) : State :=
  if spdmDeaf s b then s
  else if spdmAt s b < need then spdmErr s b 4
  else spdmOut { s with spdm := kset s.spdm b next } b code val

/-- A request that needs the whole negotiation. -/
def negotiated (s : State) (b : Nat) (f : State → State) : State :=
  if spdmDeaf s b then s else if spdmAt s b < 3 then spdmErr s b 4 else f s

/-- GET_VERSION: 1.3. -/
def execGetVersion (b : Nat) (s : State) : Host.Outcome State Fault Refusal :=
  done s (negotiate s b 0 1 0x04 (leBytes 1 0x13))

/-- The capability flags of R561 as DSP0274 places them: certificates, challenges, signed measurements, encryption, message authentication,
mutual authentication, key exchange, encapsulated requests, heartbeat and key update; no chunking, no pre-shared keys, no certificate
requests. -/
def spdmFlags : Nat := [1, 2, 4, 6, 7, 8, 9, 12, 13, 14].foldl (fun n b => n + 2 ^ b) 0

/-- The algorithms of R561 by their bits in DSP0274: DMTF measurements, SHA-384 for them, ECDSA P-384, SHA-384, ECDHE secp384r1, AES-256-GCM, the
requester's ECDSA P-384, and the SPDM key schedule. -/
def spdmAlgorithms : List Byte :=
  leBytes 1 1 ++ leBytes 4 4 ++ leBytes 4 0x80 ++ leBytes 4 2 ++ leBytes 2 0x10 ++ leBytes 2 2 ++ leBytes 2 0x80 ++ leBytes 2 1

/-- GET_CAPABILITIES. -/
def execGetCapabilities (b : Nat) (s : State) : Host.Outcome State Fault Refusal := done s (negotiate s b 1 2 0x61 (leBytes 4 spdmFlags))

/-- NEGOTIATE_ALGORITHMS: one of each kind is supported. -/
def execNegotiateAlgorithms (b : Nat) (s : State) : Host.Outcome State Fault Refusal := done s (negotiate s b 2 3 0x63 spdmAlgorithms)

/-! ### Measurements (R562, R563) -/

/-- A measurement block in the DMTF format: its index, the specification DMTF, its size, and the measurement: a value type, whose bit 7 marks a
raw bit stream, its value's size and its value. The kinds 0 to 3 are DSP0274's: immutable ROM, firmware, hardware and firmware configuration
(PRESUMED, log entry 32). -/
def mblock (idx kind form : Nat) (val : List Byte) : List Byte :=
  leBytes 1 idx ++ leBytes 1 1 ++ leBytes 2 (3 + val.length) ++ leBytes 1 (kind + 128 * form) ++ leBytes 2 val.length ++ val

/-- A firmware digest: as made, or as updated. -/
def fwDigest (s : State) (k : Nat) : List Byte := padTo 48 (((kget s.fwRun k).getD (Config.factory k)).take 48)

/-- Blocks 1 and 2, and blocks 3 to 5, which the certificate of AK carries (R559). -/
def romBlocks (s : State) : List Byte :=
  mblock 1 0 0 (fwDigest s 1) ++
  mblock 2 1 0 (sha384 (fwDigest s 2 ++ leBytes 1 (rtab s 0x6000 9 1 0)))

def fwTcb (s : State) : List Byte :=
  mblock 3 1 0 (rb s 0x2128 1) ++
  mblock 4 1 0 (fwDigest s 4) ++
  mblock 5 2 1 (leBytes 1 (lifecycle s) ++ rb s 0x6000 9 ++ leBytes 1 (rg s 0x6020 3) ++ leBytes 1 (rg s 0x6020 1) ++
    leBytes 1 (rg s 0x6020 2) ++ (padTo 1 (Config.factory 3)).take 1)

/-- Blocks 1 to 6. -/
def baseBlocks (s : State) : List Byte :=
  romBlocks s ++ fwTcb s ++
  mblock 6 3 1 (leBytes 1 (rg s 0x6000 3) ++ ((partitions s).map (fun p =>
    leBytes 1 (partState s p) ++ sha384 (rb s (0x6040 + p) 3))).flatten)

/-! ### Derived keys and the certificate chain (R557 to R559) -/

/-- The DeviceID's private key. -/
def deviceKey (s : State) : Nat := ecPrivate (derive384 0 s.fuseUds [])

/-- A per-message number of a signature: a free value below the group order, not 0 (log entry 6). -/
def signNumber (s : State) : Nat × State := let r := draw s; (r.1.toNat % (p384n - 1) + 1, r.2)

/-- Certificate `link` of a public key, signed by its issuer. -/
def issueCert (s : State) (link issuer : Nat) (key meas : List Byte) : List Byte × State :=
  let b := Config.certBody link key meas
  let r := signNumber s
  (b ++ ecSign issuer r.1 (sha384 b), r.2)

/-- AK is derived again: CDI_2 from CDI_1, LIB_DIGEST, the MC firmware's digest and DEBUG_POLICY, and AK from that and DEBUG_LEVEL_PEAK, with a new
certificate by the layer 1 alias key that carries measurements 3 to 5 (R558, R559). While the key engine blocks the CDIs nothing is derived
(R573). -/
def deriveAk (s : State) : State :=
  if s.keysBlocked then s
  else
    let c := derive384 3 s.dice.cdi1 (rb s 0x2128 1 ++ fwDigest s 4 ++ leBytes 1 (rg s 0x6020 3))
    let k := ecPrivate (derive384 4 c (leBytes 1 (rg s 0x6020 2)))
    let r := issueCert s 5 s.dice.alias1 (ecPublic k) (fwTcb s)
    { r.2 with akGen := s.akGen + 1, dice := { s.dice with cdi2 := c, ak := k, akCert := r.1 } }

/-- The boot ROM derives CDI_1 from the UDS, the digest and SVN of the package firmware and the lifecycle state, and locks the UDS at its
hand-off; the package firmware derives the layer 1 alias key, whose certificate the DeviceID key signs (R557 to R559). -/
def bootDerive (s : State) : State :=
  let c := derive384 1 s.fuseUds (fwDigest s 2 ++ leBytes 1 (rtab s 0x6000 9 1 0) ++ leBytes 1 (lifecycle s))
  let k := ecPrivate (derive384 2 c [])
  let r := issueCert s 4 (deviceKey s) (ecPublic k) (fwDigest s 2)
  { r.2 with dice := { r.2.dice with locked := true, cdi1 := c, alias1 := k, aliasCert := r.1 } }

/-- The chain in slot 0: the Vendor root, the Vendor intermediate and the DeviceID certificate, as they were installed, then those of the layer 1
alias key and of AK (R559, log entry 48). -/
def certChain (s : State) : List Byte := (rb s 0x6030 1 ++ s.dice.aliasCert ++ s.dice.akCert).take 8192

/-- GET_DIGESTS: slot 0. -/
def execGetDigests (b : Nat) (s : State) : Host.Outcome State Fault Refusal :=
  done s (negotiated s b (fun s => spdmOut s b 0x01 (leBytes 1 1 ++ sha384 (certChain s))))

/-- GET_CERTIFICATE (R559): a portion of the chain and what is left after it. -/
def execGetCertificate (b slot off len : Nat) (s : State) : Host.Outcome State Fault Refusal :=
  done s (negotiated s b (fun s =>
    let c := certChain s
    if slot ≠ 0 ∨ c.length ≤ off then spdmErr s b 1
    else
      let part := (c.drop off).take len
      spdmOut s b 0x02 (leBytes 2 part.length ++ leBytes 2 (c.length - off - part.length) ++ part)))

/-- A body with its signature by AK (R562). -/
def akSign (s : State) (body : List Byte) : List Byte × State :=
  let r := signNumber s
  (body ++ ecSign s.dice.ak r.1 (sha384 body), r.2)

/-- CHALLENGE (R562). -/
def execChallenge (b : Nat) (nonce : List Byte) (s : State) : Host.Outcome State Fault Refusal :=
  done s (negotiated s b (fun s =>
    let r := akSign s (sha384 (certChain s) ++ nonce)
    spdmOut r.2 b 0x03 r.1))

/-- Blocks 0x10 + d and 0x20 + d of a partition. -/
def partBlocks (s : State) (p : Nat) : List Byte :=
  mblock (0x10 + p) 1 0 (rb s (0x2120 + p) 4) ++
  mblock (0x20 + p) 3 1 (((graftedIn s p).map (fun c =>
    leBytes 1 c ++ ((manifest s c).drop 32).take 48 ++ ((manifest s c).drop 80).take 16)).flatten)

/-- The partitions whose blocks a requester receives. -/
def measuredParts (s : State) (x : Option Session) : List Nat :=
  match x with
  | none => []
  | some y => match y.role with
    | .tn => tenantParts s y
    | .ow => partitions s
    | .op => partitions s
    | .vd => []
    | .restricted => []

/-- A signed MEASUREMENTS response. -/
def measurements (s : State) (x : Option Session) (nonce : List Byte) : List Byte × State :=
  akSign s (baseBlocks s ++ ((measuredParts s x).map (partBlocks s)).flatten ++ nonce)

/-- Renew the lease, and act in an open session on its binding; a message of any other session or binding is answered InvalidSession, since a
session stays on the binding that opened it (R561). -/
def inSession (s : State) (b ses : Nat) (f : State → Session → State) : State :=
  match (sesAt s ses).filter (fun (x : Session) => x.transport == b) with
  | none => spdmErr s b 2
  | some x => if x.up ∧ !spdmDeaf s x.transport then f (touch s ses) x else s

/-- GET_MEASUREMENTS, outside or inside a session. -/
def execGetMeasurements (b : Nat) (ses : Option Nat) (nonce : List Byte) (s : State) : Host.Outcome State Fault Refusal :=
  done s (negotiated s b (fun s =>
    match ses with
    | none => let r := measurements s none nonce; spdmOut r.2 b 0x60 r.1
    | some i => inSession s b i (fun s x => let r := measurements s (some x) nonce; spdmIn r.2 x 0x60 r.1)))

/-- ATTEST (R610): the same, as the result of a handle. -/
def execAttest (ses : Nat) (nonce : List Byte) (s : State) : Host.Outcome State Fault Refusal :=
  done s (invoking s ses 0x1008 1 0x10 false (fun s x => invStatus s x 0x1008 1 nonce 32 false false false)
    (fun s x h => let r := measurements s (some x) nonce; finishHandle r.2 h .ok 0 r.1))

/-! ### Sessions -/

/-- A session ID that is neither 0 nor in use: drawn, then the next that is free (log entry 6). -/
def newSession (s : State) : Nat × State :=
  let r := draw s
  let base := r.1.toNat % 2 ^ 32
  ((((List.range 40).map (fun i => (base + i) % 2 ^ 32)).find? (fun i => i != 0 && (sesAt r.2 i).isNone)).getD 1, r.2)

/-- The lowest ring register slot that is free. -/
def freeSlot (s : State) : Nat :=
  ((List.range 16).find? (fun i => !(s.sessions.any (fun x => x.slot == i)))).getD 0

/-- KEY_EXCHANGE (R537, R540): refused, or the handshake of a session begins. There is none before HEARTWOOD has ended, also in HALTED (R626). -/
def keyExchange (s : State) (b : Nat) (key : List Byte) (vendor mutualOk : Bool) : State :=
  if rg s 0x7008 1 < 3 ∨ s.dice.cdi1.isEmpty then s
  else if !mutualOk then spdmErr s b 1
  else match roleOf s key vendor with
    | none => spdmErr (secFree s 0x10 0xFF 0xFF 0) b 5
    | some r =>
      if 16 ≤ s.sessions.length then spdmErr s b 0x0A
      else
        let n := newSession s
        let x : Session := { id := n.1, role := r, slot := freeSlot s, transport := b, key := key, peer := (kget s.mctpFrom b).getD {} }
        spdmOut { n.2 with sessions := n.2.sessions ++ [x] } b 0x64 (leBytes 4 n.1)

def execKeyExchange (b : Nat) (key : List Byte) (vendor mutualOk : Bool) (s : State) : Host.Outcome State Fault Refusal :=
  done s (negotiated s b (fun s => keyExchange s b key vendor mutualOk))

/-- The data keys and IVs of the two directions, the requests' first, which the SPDM key schedule gives; the spec does not restate it, so
that they are free values (R565, log entry 6). -/
def newKeys (s : State) (x : Session) : Session × State :=
  let r := drawBytes 2 s
  ({ x with dirKeys := (r.1.take 32, (r.1.drop 32).take 32), dirIvs := ((r.1.drop 64).take 12, (r.1.drop 76).take 12) }, r.2)

/-- FINISH: the session opens, or its handshake ends. -/
def finishSession (s : State) (b ses : Nat) (ok : Bool) : State :=
  match (sesAt s ses).filter (fun (x : Session) => x.transport == b) with
  | none => spdmErr s b 2
  | some x =>
    if x.up then spdmErr s b 4
    else if ok then let r := newKeys s x; spdmOut (setSes r.2 { r.1 with up := true }) b 0x65 []
    else spdmErr (closeSession s ses) b 6

def execFinish (b ses : Nat) (ok : Bool) (s : State) : Host.Outcome State Fault Refusal :=
  done s (if spdmDeaf s b then s else finishSession s b ses ok)

/-- An SPDM request inside a session, on the session's binding. -/
def ownRequest (s : State) (ses : Nat) (f : State → Session → State) : State :=
  match sesAt s ses with
  | none => s
  | some x => inSession s x.transport ses f

/-- KEY_UPDATE (R566): new data keys have carried nothing; SEQ runs on. -/
def execKeyUpdate (ses : Nat) (s : State) : Host.Outcome State Fault Refusal :=
  done s (ownRequest s ses (fun s x =>
    let r := newKeys s x
    spdmIn (setSes r.2 { r.1 with recsIn := 0 }) x 0x69 []))

/-- HEARTBEAT. -/
def execHeartbeat (ses : Nat) (s : State) : Host.Outcome State Fault Refusal :=
  done s (ownRequest s ses (fun s x => spdmIn s x 0x68 []))

/-- END_SESSION (R609, R621). -/
def execEndSession (ses : Nat) (s : State) : Host.Outcome State Fault Refusal :=
  done s (ownRequest s ses (fun s x => spdmIn (closeSession s ses) x 0x6C []))

end Sys2Proof.Machine
end

