-- ==== Sys2Proof/Machine/Security.lean ====
section
/-! DEFINITION. Protection changes: lifecycle and claim (R541 to R545), partition layout (R546), two-party changes (R568, R569), debug
access (R570 to R574) and firmware updates (R575). -/

namespace Sys2Proof.Machine

/-! ### Lifecycle -/

/-- Enter a lifecycle state. -/
def setLifecycle (s : State) (v role ses : Nat) : State := secFree (wr s 0x6000 1 v) 0x0C role 0xFF ses

/-- The package serial as 16 bytes. -/
def serial16 (s : State) : List Byte := (padTo 16 (rb s 0x1000 4)).take 16

/-- OWNER_CLAIM verifies (R543): CLAIM_HASH is the digest of the claim secret, the MAC is that of both keys and the serial under it, and the
Owner key is that of the session. -/
def claimOk (s : State) (x : Session) (val secret : List Byte) : Bool :=
  secret.length == 32 && sha384 secret == rb s 0x6000 5 && hmac384 secret (val.take 194 ++ serial16 s) == val.drop 194 && val.take 97 == x.key

/-- Keys that a claim may not register (R538 and the key entries). -/
def claimBad (val : List Byte) : Bool :=
  let a := val.take 97
  let b := (val.drop 97).take 97
  !onCurve a || !onCurve b || a == b

/-- OWNER_CLAIM. -/
def execOwnerClaim (ses : Nat) (val secret : List Byte) (s : State) : Host.Outcome State Fault Refusal :=
  done s (settingElse s ses 0x6000 4
    (fun s x => alsoDenied (setStatus s x 0x6000 4 val (lifecycle s != 1) (claimBad val) false false)
      (val.length == 242 && !claimOk s x val secret))
    (fun s x => setLifecycle (wb (wb s 0x6010 1 (val.take 97)) 0x6010 2 (padTo 776 ((val.drop 97).take 97))) 2 (Role.code x.role) x.id)
    (fun s x st =>
      if st = .denied ∧ preStatus s x 2 0x6000 4 ≠ .denied then secFree s 0x0F (Role.code x.role) 0xFF x.id else s))

/-- LIFECYCLE_NEXT by the Vendor (R541, R542). -/
def execLifecycleNext (ses : Nat) (val : List Byte) (s : State) : Host.Outcome State Fault Refusal :=
  done s (setting s ses 0x6000 2
    (fun s x =>
      let l := lifecycle s
      let written := (kget s.blobs (rkey 0x6000 5)).isSome
      alsoDenied (setStatus s x 0x6000 2 val
        ((l != 0 && l != 3) || !written || (l == 0 && (rb s 0x6030 1).isEmpty) || (l == 3 && decide (8 ≤ rg s 0x6000 10)))
        (leNat val != 1) false false) (x.role != .vd))
    (fun s x =>
      let s := if lifecycle s = 3 then wr s 0x6000 10 (rg s 0x6000 10 + 1) else s
      setLifecycle s 1 (Role.code x.role) x.id))

/-- Every context is EMPTY under a new epoch (R544, R545, R471); an install in progress ends as by R461. -/
def newEpoch (s : State) : State :=
  let s := wr s 0x6010 6 ((rg s 0x6010 6 + 1) % 2 ^ 32)
  let s := (s.grafts ++ s.graftRun.toList).foldl (fun t g => failGraft t g 1 .state 3) { s with grafts := [], graftRun := none }
  (List.range 64).foldl (fun t c =>
    if ctxState t c = 0 then t
    else if ctxState t c = 1 then failInstall t c 1 .state
    else wr (eraseCtx t c) (0x4440 + c) 10 0) s

/-- The scrub of a whole partition as the command sees it, at its end (R544, R556). Its links start no new frame; those that still hold frames
or pool units then go to DISABLED, since the scrub lasts longer than the 100 µs of R552. -/
def scrubWhole (s : State) (p : Nat) : State :=
  let s := startScrub s p
  let s := (partLinks s p).foldl (fun t l =>
    let x := linkAt t l
    if x.draining ∧ !(x.held.isEmpty && x.poolUsed == 0) then leaveFor t l 0 else t) s
  let s := scrubHandles (scrubClear s p) p .ok
  let s := { s with stateStore := s.stateStore.filter (fun r => r.1 != p) }
  wr (setPartState (wr s (0x6040 + p) 8 0) p 0) (0x6040 + p) 2 0

/-- Entry to RMA (R544). -/
def enterRma (s : State) (role ses : Nat) : State :=
  let s := newEpoch s
  let s := ((s.sessions.filter (fun x => x.role != .vd)).map Session.id).foldl closeSession s
  let s := (partitions s).foldl scrubWhole s
  let s := [(0x6010, 1), (0x6010, 2), (0x6010, 3), (0x6010, 5), (0x6040, 3), (0x6041, 3), (0x6042, 3), (0x6043, 3), (0x6020, 3),
            (0x6000, 3), (0x6000, 5)].foldl (fun t k => toDefault t k.1 k.2) s
  setLifecycle (deriveAk s) 3 role ses

/-- PART_LAYOUT takes effect (R546): a partition whose dies change holds no plan (log entry 33), and its PEEK_IDX is the lowest entry again
(R481). Its serving commands that still wait are answered by what the layout leaves of it. -/
def setLayout (s : State) (v : Nat) : State :=
  let gone := (partitions s).filter (fun p => partDies s p != partDies (wr s 0x6000 3 v) p)
  let t := wr (gone.foldl (fun t p => planGone (setPlanState t p 0) p) s) 0x6000 3 v
  let t := gone.foldl (fun t p =>
    let w := (partAt t p).cmdQ
    let t := setPart (toDefault (toDefault t (0x2120 + p) 5) (0x4810 + p) 13) p {}
    let k := if p ∈ partitions t then p else 0
    setPart t k { partAt t k with cmdQ := (partAt t k).cmdQ ++ w }) t
  (partitions t).foldl (fun t p =>
    let used := (partDies t p).any (fun d => rg s (0x6040 + partLow s d) 2 == 1)
    if partDies s p = partDies t p then t else wr (setPartState t p 0) (0x6040 + p) 2 (if used then 1 else 0)) t

/-! ### Two-party changes -/

/-- CHANGE_NONCE. -/
def changeNonce (s : State) : List Byte := rb s 0x6000 6

/-- Draw a new CHANGE_NONCE (log entry 6). -/
def newNonce (s : State) : State :=
  let r := draw s
  wb r.2 0x6000 6 (leBytes 32 r.1.toNat)

/-- A pending change is discarded: 0 its window ended, 1 its preconditions fail, 2 a reset (R569, R578). -/
def discardChange (s : State) (cause role ses : Nat) : State :=
  match s.change with
  | none => s
  | some _ => newNonce (secLog { s with change := none } 8 role 0xFF ses (leBytes 1 cause))

/-- The RW2P entries. -/
def rw2pEntries : List (Nat × Nat) :=
  [(0x6000, 2), (0x6000, 3), (0x6010, 1), (0x6010, 2), (0x6010, 3), (0x6010, 4), (0x6010, 5), (0x6020, 3)]

/-- A value that the entry refuses (R538, R541, R546, R579). -/
def changeBad (s : State) (idx sub : Nat) (val : List Byte) : Bool :=
  match idx, sub with
  | 0x6000, 2 => leNat val != 3
  | 0x6000, 3 => s.variant == .h && leNat val == 1
  | 0x6010, 1 => ownerKeyBad s val
  | 0x6010, 2 => operatorKeysBad s val
  | 0x6010, 3 => !((List.range 8).all (fun i => keyOk (keySlot val i)))
  | 0x6010, 5 => !keyOk val
  | _, _ => false

/-- What must hold when the second signature arrives (R541, R546). -/
def changeReady (s : State) (idx sub : Nat) : Bool :=
  match idx, sub with
  | 0x6000, 2 => (partitions s).all (fun p => partState s p != 3)
  | 0x6000, 3 => (partitions s).all (fun p => partState s p == 0)
  | _, _ => true

/-- The write repeats the pending change. -/
def sameChange (k : Change) (idx sub : Nat) (val : List Byte) : Bool := k.idx == idx && k.sub == sub && k.value == val

/-- The change record of an RW2P write (R568). -/
def changeRecord (s : State) (idx sub : Nat) (val nonce : List Byte) : List Byte :=
  leBytes 4 0x47325043 ++ leBytes 2 idx ++ leBytes 1 sub ++ leBytes 1 0 ++ sha384 val ++ serial16 s ++ (padTo 32 nonce).take 32 ++ leBytes 24 0

/-- The signature of an RW2P write verifies under the key of the session. -/
def changeSigned (s : State) (x : Session) (idx sub : Nat) (val nonce sig : List Byte) : Bool :=
  ecVerify x.key (sha384 (changeRecord s idx sub val nonce)) sig

/-- The status of an RW2P write (R17, R569). -/
def changeStatus (s : State) (x : Session) (idx sub : Nat) (val nonce sig : List Byte) : Status :=
  let two := rw2pEntries.contains (idx, sub) && (x.role == .ow || x.role == .op)
  let busy := match s.change with
    | none => false
    | some k => !sameChange k idx sub val
  let unready := match s.change with
    | none => false
    | some k => sameChange k idx sub val && k.first != x.role && !changeReady s idx sub
  if !two then (match preStatus s x 2 idx sub with | .ok => .type | st => st)
  else match alsoDenied (setStatus s x idx sub val (idx == 0x6000 && sub == 2 && lifecycle s != 2) (changeBad s idx sub val) unready busy)
      (nonce != changeNonce s || !changeSigned s x idx sub val nonce sig) with
    | .ok => match s.change with
      | none => .needsSecond
      | some k => if k.first = x.role then .needsSecond else .ok
    | st => st

/-- The change is made. A TABLE is written whole (R600), so that a write of INSTALLER_KEYS writes every slot and clears every bit of
INSTALLER_REVOKED (R579). -/
def applyChange (s : State) (x : Session) (idx sub : Nat) (val : List Byte) : State :=
  match idx, sub with
  | 0x6000, 2 => enterRma s (Role.code x.role) x.id
  | 0x6000, 3 => setLayout s (leNat val)
  | 0x6010, 1 => newEpoch (wb s 0x6010 1 val)
  | 0x6010, 3 => wb (wr s 0x6010 4 0) 0x6010 3 val
  | 0x6010, 4 => wr s 0x6010 4 (leNat val)
  | 0x6020, 3 => deriveAk (wr s 0x6020 3 (leNat val))
  | _, _ => wb s idx sub val

/-- RW2P_WRITE. -/
def execRw2pWrite (ses idx sub : Nat) (val nonce sig : List Byte) (s : State) : Host.Outcome State Fault Refusal :=
  done s (settingElse s ses idx sub
    (fun s x => changeStatus s x idx sub val nonce sig)
    (fun s x => newNonce (secFree (applyChange { s with change := none } x idx sub val) 7 (Role.code x.role) 0xFF x.id))
    (fun s x st =>
      match s.change with
      | none => if st = .needsSecond then
          secFree { s with change := some { idx := idx, sub := sub, value := val, first := x.role } } 6 (Role.code x.role) 0xFF x.id
        else s
      | some k => if st = .state ∧ sameChange k idx sub val ∧ k.first ≠ x.role ∧ !changeReady s idx sub then
          discardChange s 1 (Role.code x.role) x.id
        else s))

/-- CHANGE_WINDOW_EXPIRY: 60 s after the first signature. -/
def execChangeWindowExpiry (sec : Nat) (s : State) : Host.Outcome State Fault Refusal :=
  done s (if 60 ≤ sec then discardChange s 0 0xFF 0 else s)

/-- CHANGE_PENDING; what is left of the window is a measured time (log entry 6). -/
def changePending (s : State) : List Byte :=
  match s.change with
  | none => List.replicate 56 0
  | some k => leBytes 2 k.idx ++ leBytes 1 k.sub ++ leBytes 1 (Role.code k.first) ++
      leBytes 4 (Config.measured (rkey 0x6000 7) s.fresh % 60001) ++ sha384 k.value

/-! ### Debug access -/

/-- The challenge of a level (R571). -/
def debugChallenge (s : State) (level : Nat) : List Byte × State :=
  let r := draw s
  (leBytes 32 r.1.toNat ++ padTo 8 ((sha384 (rb s 0x1000 4)).take 8) ++ leBytes 1 level ++ leBytes 1 (lifecycle s) ++
    leBytes 6 s.beat, r.2)

/-- DEBUG_REQ (R571); DEBUG_POLICY bounds the level where an Owner can set it (log entry 34). -/
def execDebugReq (ses : Nat) (val : List Byte) (s : State) : Host.Outcome State Fault Refusal :=
  done s (setting s ses 0x6020 4
    (fun s x => setStatus s x 0x6020 4 val
      ((partitions s).any (fun p => partState s p == 4) && !bit (rg s 0x6020 3) 2)
      (lifecycle s == 2 && decide (rg s 0x6020 3 % 4 < leNat val)) false false)
    (fun s _ =>
      let r := debugChallenge s (leNat val)
      { wb r.2 0x6020 5 r.1 with debugReq := some (leNat val) }))

/-- The IDCODE register of the IEEE 1149.1 port (R661): the stepping, the part number and Nordopor's manufacturer identity. -/
def idcode (s : State) : Nat := rg s 0x1000 5 % 16 * 2 ^ 28 + 0x5304 * 2 ^ 12 + 0x4D9 * 2 + 1

/-- A signature of the challenge by OWNER_DEBUG_KEY, and one by the Vendor key, which must have the digest of the Vendor root key in the fuses: R572
names no other Vendor key that the module could know (DEDUCED, log entry 34). -/
def ownerSigned (s : State) (key sig : List Byte) : Bool :=
  key == rb s 0x6010 5 && ecVerify key (sha384 ((padTo 48 (rb s 0x6020 5)).take 48)) sig

def vendorSigned (s : State) (key sig : List Byte) : Bool :=
  sha384 key == s.fuseRoot && ecVerify key (sha384 ((padTo 48 (rb s 0x6020 5)).take 48)) sig

/-- A response verifies at a level (R570, R572). -/
def debugVerifies (s : State) (n : Nat) (val ownerKey vendorKey : List Byte) : Bool :=
  match lifecycle s with
  | 0 => true
  | 2 => ownerSigned s ownerKey (val.take 96) &&
      (if n = 3 then val.length == 192 && vendorSigned s vendorKey (val.drop 96) else val.length == 96)
  | _ => val.length == 96 && vendorSigned s vendorKey val

/-- The level opens: AK is derived again, and level 3 then blocks the UDS, the CDIs and KWK (R572, R573). -/
def openDebug (s : State) (n : Nat) : State :=
  let s := deriveAk (wr (wr s 0x6020 1 n) 0x6020 2 (max (rg s 0x6020 2) n))
  { s with debugReq := none, keysBlocked := s.keysBlocked || n == 3 }

/-- DEBUG_RESPONSE. -/
def execDebugResponse (ses : Nat) (val ownerKey vendorKey : List Byte) (s : State) : Host.Outcome State Fault Refusal :=
  done s (settingElse s ses 0x6020 6
    (fun s x => alsoDenied (setStatus s x 0x6020 6 val false false false false)
      ((val.length == 96 || val.length == 192) && !(s.debugReq.any (fun n => debugVerifies s n val ownerKey vendorKey))))
    (fun s x => secFree (openDebug s (s.debugReq.getD 0)) 9 (Role.code x.role) 0xFF x.id)
    (fun s x st =>
      if st = .denied ∧ preStatus s x 2 0x6020 6 ≠ .denied then
        secFree { s with debugReq := none } 0x0A (Role.code x.role) 0xFF x.id
      else s))

/-- DEBUG_CHALLENGE_EXPIRY: 60 s after the issue. -/
def execDebugChallengeExpiry (sec : Nat) (s : State) : Host.Outcome State Fault Refusal :=
  done s (if 60 ≤ sec then { s with debugReq := none } else s)

/-- DEBUG_CLOSE (R574). -/
def execDebugClose (ses : Nat) (val : List Byte) (s : State) : Host.Outcome State Fault Refusal :=
  done s (setting s ses 0x6020 7 (fun s x => setStatus s x 0x6020 7 val false false false false)
    (fun s x => secFree (wr s 0x6020 1 0) 0x0B (Role.code x.role) 0xFF x.id))

/-! ### Firmware updates (R575) -/

/-- A range of host memory lies wholly in one of a session's bounce ranges (R567, R588). -/
def inBounce (x : Session) (a n : Nat) : Bool :=
  (List.range 4).any (fun i =>
    let b := leAt x.bounce (16 * i) 8
    let l := leAt x.bounce (16 * i + 8) 8
    decide (0 < l ∧ b ≤ a ∧ a + n ≤ b + l))

/-- The library is accepted: every valid routine lies in the bodies area and ends in RET (R212). -/
def libraryOk (lib : List Byte) : Bool :=
  (List.range 1024).all (fun r =>
    let e := leAt lib (0x40 + 8 * r) 8
    let start := bits e 0 14
    let n := bits e 14 14
    !bit e 28 || (decide (0x2040 ≤ 64 * start ∧ 1 ≤ n ∧ 64 * (start + n) ≤ 2 ^ 20) && leAt lib (64 * (start + n - 1)) 1 == 2))

/-- LM of every cluster holds a library. -/
def loadLibrary (s : State) (lib : List Byte) : State :=
  let s := (List.range (12 * dies s.variant)).foldl (fun t c => poke t (lmAddr c 0) lib) s
  wr (wr (wb s 0x2128 1 (sha384 lib)) 0x2128 2 (leAt lib 0 2)) 0x2128 3 (leAt lib 2 2)

/-- The signature of an image verifies on its copy, under the Vendor firmware key. -/
def imageSigned (s : State) (img : FwImage) : Bool := sha384 img.key == s.fuseFw && ecVerify img.key (sha384 img.bytes) img.sig

/-- The outcome of an update on the copy of its image. -/
def fwStatus (s : State) (ty : Nat) (img : FwImage) (lib : List Byte) : Status :=
  if !imageSigned s img then .denied
  else if ty = 1 ∧ (partitions s).any (fun p => decide (1 ≤ planState s p ∧ planState s p ≤ 4)) then .state
  else if 64 < img.svn ∨ (ty = 1 ∧ !libraryOk lib) then .range
  else if img.svn < rtab s 0x6000 9 1 ty then .state
  else .ok

/-- Store an image that passed; an LM update also takes effect (R212, R558, log entry 35). -/
def storeImage (s : State) (ty : Nat) (img : FwImage) (lib : List Byte) : State :=
  let s := { s with fwNext := s.fwNext.filter (fun f => f.1 != ty) ++ [(ty, img.svn, sha384 img.bytes)] }
  if ty = 1 then deriveAk { loadLibrary s lib with lmNext := some lib } else s

/-- FW_UPDATE once it has its handle. -/
def doUpdate (s : State) (x : Session) (h : Nat) (arg : List Byte) (img : FwImage) : State :=
  let ty := leAt arg 0 1
  let lib := padTo (2 ^ 20) ((Config.libBytes img.bytes).take (2 ^ 20))
  if !inBounce x (leAt arg 8 8) (leAt arg 16 4) then
    finishHandle (secFree s 4 (Role.code x.role) 0xFF x.id) h .state 0 []
  else
    let st := fwStatus s ty img lib
    let s := if st = .denied then secFree s 5 (Role.code x.role) 0xFF x.id else s
    finishHandle (if st = .ok then storeImage s ty img lib else s) h st 0 []

/-- FW_UPDATE. -/
def execFwUpdate (ses : Nat) (arg : List Byte) (img : FwImage) (s : State) : Host.Outcome State Fault Refusal :=
  done s (invoking s ses 0x6000 8 0x0F false
    (fun s x => invStatus s x 0x6000 8 arg 20 false
      (decide (2 < leAt arg 0 1) || leAt arg 1 7 != 0 || decide (2 ^ 23 < leAt arg 16 4)) false)
    (fun s x h => doUpdate s x h arg img))

end Sys2Proof.Machine
end

