-- ==== Sys2Proof/Machine/Host.lean ====
section
/-! DEFINITION. The host interface: handles (R611 to R613), the session lock (R607 to R609), the log reader (R646), the mailbox (R584 to
R587), the rings and bulk records (R564 to R567, R588 to R596), PERST_N (R583) and MCTP (R597 to R599). -/

namespace Sys2Proof.Machine

/-! ### Handles -/

/-- Run a message that names no entry in its session, as `inSes` does for those that do. -/
def bareMessage (s : State) (ses op : Nat) (val : List Byte) (len : Nat) (f : State → Session → State) : State :=
  inSes s ses op 0 0 (fun s x => if valueLen s ses val ≠ len then answerIn s x op 0 0 .type [] else f s x)

/-- POLL (R611, R613): the handle is its VALUE. -/
def execPoll (ses h : Nat) (s : State) : Host.Outcome State Fault Refusal :=
  done s (bareMessage s ses 4 (leBytes 4 h) 4 (fun s x =>
    match (handleAt s h).filter (fun (k : Handle) => k.ses == ses || x.role == .ow || x.role == .op) with
    | some k => answerIn s x 4 0 0 .ok (Handle.bytes k ++ k.result)
    | none => answerIn s x 4 0 0 .noHandle []))

/-- HANDLE_EXPIRY (R612): a DONE handle 60 s after it completed. -/
def execHandleExpiry (h sec : Nat) (s : State) : Host.Outcome State Fault Refusal :=
  done s (match handleAt s h with
    | some k => if k.st = 2 ∧ 60 ≤ sec then { s with handles := s.handles.filter (fun g => g.h != h) } else s
    | none => s)

/-! ### The session lock -/

/-- Tell a session that it lost the lock: 0 lease, 1 taken over, 2 MC restart (R615). -/
def lockLost (s : State) (ses cause : Nat) : State := eventAll s (fun x => x.id == ses) 4 (leBytes 1 cause)

/-- The lock is free. -/
def freeLock (s : State) : State := { s with lockBy := none, lockLeft := 0 }

/-- Take the lock. -/
def takeLock (s : State) (ses : Nat) : State := { s with lockBy := some ses, lockLeft := 2000 }

/-- Whether a session may take the lock over from its holder (R607). -/
def mayTake (s : State) (x : Session) (holder : Nat) : Bool :=
  (x.role == .ow || x.role == .op) && (sesAt s holder).any (fun y => y.role == .tn)

/-- LOCK in a session. -/
def doLock (s : State) (x : Session) : State :=
  let yes := fun (t : State) => answerIn t x 5 0 0 .ok (leBytes 2 2000)
  match s.lockBy with
  | none => yes (takeLock s x.id)
  | some h =>
    if h = x.id then yes (takeLock s x.id)
    else if mayTake s x h then yes (takeLock (lockLost s h 1) x.id)
    else answerIn s x 5 0 0 .locked []

/-- UNLOCK in a session. -/
def doUnlock (s : State) (x : Session) : State :=
  if s.lockBy = some x.id then answerIn (freeLock s) x 6 0 0 .ok [] else answerIn s x 6 0 0 .locked []

/-- LOCK (R607). -/
def execLock (ses : Nat) (s : State) : Host.Outcome State Fault Refusal := done s (bareMessage s ses 5 [] 0 doLock)

/-- UNLOCK (R609). -/
def execUnlock (ses : Nat) (s : State) : Host.Outcome State Fault Refusal := done s (bareMessage s ses 6 [] 0 doUnlock)

/-- LOCK_LEASE_EXPIRY (R609): 2 s after the holder's last message. -/
def execLockLeaseExpiry (ms : Nat) (s : State) : Host.Outcome State Fault Refusal :=
  done s (match s.lockBy with
    | some h => if 2000 ≤ ms then lockLost (freeLock s) h 0 else s
    | none => s)

/-! ### The log reader -/

/-- Examine entries in order until `n` were returned: their bytes, and the number of the last one examined. -/
def scanLog (s : State) (x : Session) : Nat → Option Nat → List LogRec → List Byte × Option Nat
  | _, last, [] => ([], last)
  | 0, last, _ => ([], last)
  | n + 1, _, r :: rs =>
    if sees s x r then
      let t := scanLog s x n (some r.num) rs
      (LogRec.bytes r ++ t.1, t.2)
    else scanLog s x (n + 1) (some r.num) rs

/-- LOG_READ by a session: the bytes, and the state after it. -/
def readLog (s : State) (x : Session) : List Byte × State :=
  let r := scanLog s x 256 none (s.log.filter (fun e => decide (x.logSeek ≤ e.num)))
  match r.2 with
  | none => ([], s)
  | some n => (r.1, setSes s { x with logSeek := n + 1 })

/-- LOG_READ (R646). -/
def execLogRead (ses : Nat) (s : State) : Host.Outcome State Fault Refusal :=
  done s (inSes s ses 1 0x7000 3 (fun s x =>
    match getStatus s x 0x7000 3 with
    | .ok => let r := readLog s x; answerIn r.2 x 1 0x7000 3 .ok r.1
    | st => answerIn s x 1 0x7000 3 st []))

/-! ### The mailbox -/

/-- MB_STATUS after a transport status, with DONE and OVERRUN as they were and BUSY as given. -/
def mbWith (s : State) (xfer : Nat) (busy : Bool) : Nat :=
  s.mbStatus % 2 + (if busy then 2 else 0) + (if bit s.mbStatus 3 then 8 else 0) + 16 * xfer

/-- The host writes words of the MSI-X table; a vector that it unmasks while pending is signalled (R584, log entry 30). -/
def msixWrite (s : State) (l : List (Nat × Nat)) : State :=
  let t := { s with msixTab := l.foldl (fun m w => m.set w.1 (if w.1 % 4 = 3 then w.2 % 2 else w.2 % 2 ^ 32)) s.msixTab }
  (List.range 18).foldl (fun u v =>
    if bit u.msixPba v ∧ u.msixTab.getD (4 * v + 3) 1 % 2 = 0 then emit { u with msixPba := u.msixPba - 2 ^ v } (.msix v) else u) t

/-- What the host has written into BAR0: the bits of MB_STATUS that it cleared, the event slots that it has read, MB_REQ_LEN, the request
buffer and the MSI-X table (R584, R585). -/
def mbHostWrites (s : State) (len : Nat) (req : List Byte) (w : MbWrites) (ev : Nat) : State :=
  msixWrite { s with mbStatus := s.mbStatus - (s.mbStatus &&& w.clr &&& 9), evHead := min s.evTail (s.evHead + ev), mbReqLen := len,
                     mbReq := req } w.msix

/-- GO (R585, R586): the message of an accepted GO is processed as its own command, whose response completes it. -/
def mbGo (s : State) (len : Nat) (req : List Byte) (dict : Bool) : State :=
  if bit s.mbStatus 1 then { s with mbStatus := s.mbStatus ||| 8 }
  else
    let fail := fun (x : Nat) => emit { s with mbStatus := mbWith s x false, mbRspLen := 0 } (.mailbox x 0)
    if 16384 < len then fail 2
    else if ¬(leAt req 0 1 = 5 ∨ leAt req 0 1 = 6) then fail 3
    else if leAt req 0 1 = 6 ∧ dict ∧ s.mcDown then fail 1
    else { s with mbStatus := mbWith s 0 true }

/-- MB_GO: the host's writes into BAR0, and the submission where bit 0 of MB_CTL is written 1. -/
def execMbGo (len : Nat) (req : List Byte) (dict : Bool) (clr : MbWrites) (ev : Nat) (s : State) : Host.Outcome State Fault Refusal :=
  let t := mbHostWrites s len req clr ev
  done s (if clr.ctl % 2 = 1 then mbGo t len req dict else t)

/-- The registers of a session's rings, by their offset (R590). RING_ERR shows the error of the H2M ring before that of the M2H ring, where both
have one (DESIGN CHOICE, log entry 47). -/
def ringRead (x : Session) (off : Nat) : Nat :=
  match off with
  | 0x00 => x.h2mTail
  | 0x04 => x.h2mHead
  | 0x08 => x.m2hTail
  | 0x0C => x.m2hHead
  | 0x10 => if x.errH ≠ 0 then x.errH else x.errM
  | _ => 0

/-- A 32-bit word of BAR0 by its offset; any other offset reads 0 (R584, R590). EV_HEAD and EV_TAIL run freely modulo 2^32 as the ring indices
do, event slot i mod 32 (DESIGN CHOICE, log entry 47). -/
def barRead (s : State) (off : Nat) : Nat :=
  if off = 0x0000 then 0x46494853
  else if off = 0x0004 then 1
  else if off = 0x0008 then (if s.mcDown then 1 else 0)
  else if off = 0x1004 then s.mbStatus
  else if off = 0x1008 then s.mbReqLen
  else if off = 0x100C then s.mbRspLen
  else if off = 0x1010 then s.evHead % 2 ^ 32
  else if off = 0x1014 then s.evTail % 2 ^ 32
  else if 0x10000 ≤ off ∧ off < 0x14000 then leAt s.mbReq (off - 0x10000) 4
  else if 0x14000 ≤ off ∧ off < 0x18000 then leAt s.mbRsp (off - 0x14000) 4
  else if 0x18000 ≤ off ∧ off < 0x1C000 then leAt ((kget s.evFifo ((off - 0x18000) / 512)).getD []) (off % 512) 4
  else if 0x20000 ≤ off ∧ off < 0x21000 then
    ((s.sessions.find? (fun x => x.slot == (off - 0x20000) / 256 && x.up)).map (fun x => ringRead x (off % 256))).getD 0
  else if 0x30000 ≤ off ∧ off < 0x30120 then s.msixTab.getD ((off - 0x30000) / 4) 0
  else if off = 0x31000 then s.msixPba
  else 0

/-- A read access of BAR0: other widths than 32 bits read 0 (R584). -/
def barAccess (s : State) (off width : Nat) : Nat := if width = 4 ∧ off % 4 = 0 then barRead s off else 0

/-- What the PCIe function shows of itself: vendor, device, revision and class code (R582). -/
def pciIdentity (s : State) : List Nat := [rg s 0x1000 6, rg s 0x1000 7, rg s 0x1000 5 % 256, 0x120000]

/-- The configuration space of the PCIe function (R582): identity, header type, BAR0's size and kind, the other BARs, the MSI-X capability with
the places of its table and pending bits, the largest payload and read request, tag bits, error reporting, and the capabilities that it
does not have: MSI, INTx, SR-IOV, ATS, PRI, PASID, TPH and PCIe IDE. -/
structure PciFunction where
  identity   : List Nat
  headerType : Nat := 0
  barBytes   : List Nat := [2 ^ 20, 0, 0, 0, 0, 0]
  bar64      : Bool := true
  prefetch   : Bool := false
  msixCount  : Nat := 18
  msixTable  : Nat := 0x30000
  msixPba    : Nat := 0x31000
  maxPayload : Nat := 512
  maxRead    : Nat := 4096
  tagBits    : Nat := 14
  aer        : Bool := true
  lacks      : List String := ["MSI", "INTx", "SR-IOV", "ATS", "PRI", "PASID", "TPH", "IDE"]
  deriving DecidableEq, Repr

/-- A configuration request is answered, or with Request Retry Status before READY (R582, R625, R626). -/
def pciConfig (s : State) : Option PciFunction := if rg s 0x7008 1 = 5 then some { identity := pciIdentity s } else none

/-! ### Rings -/

/-- Entries of a ring, 0 when it is disabled. -/
def ringLen (r : List Byte) : Nat := leAt r 8 4

/-- Deliver what waits for buffers, in order (R591, R592, R596); a line with an uncorrectable error reaches the host as free bytes
(R332, log entry 6). -/
def readHost (s : State) (a n : Nat) : List Byte × State :=
  let es := eccIn s a n
  let t := bareErrors s a n
  (es.filter (fun e => e.2 == 2)).foldl (fun r e =>
    let d := draw r.2
    ((r.1.zipIdx.map (fun b => if eccWord (a + b.2) = e.1 then BitVec.ofNat 8 (d.1.toNat / 256 ^ ((a + b.2) % 64)) else b.1)), d.2))
    (mread s.mem a n, t)

/-- Deliver while a buffer is free. -/
def flushWaiting : Nat → State → Nat → State
  | 0, s, _ => s
  | k + 1, s, id =>
    match sesAt s id with
    | none => s
    | some x =>
      match x.waiting with
      | [] => flushRecords s
      | w :: ws =>
        if !m2hReady { x with waiting := [] } then s
        else match w with
          | .ack v => flushWaiting k (sendRec s { x with waiting := ws } 1 0 v) id
          | .data a left =>
            let n := min left (min (2 ^ 20) ((takeBuf x).1 - 48))
            if bgHeld s a n then s
            else
              let r := readHost (useBg s a n) a n
              flushWaiting k (sendRec r.2 { x with waiting := if n < left then .data (a + n) (left - n) :: ws else ws } 2 a r.1) id

/-- Let a session's waiting records out as far as buffers allow. -/
def flushSession (s : State) (id : Nat) : State :=
  match sesAt s id with
  | none => s
  | some x => flushWaiting (x.m2hBufs.length + 1) s id

/-- Queue something for a session's M2H ring. -/
def putWaiting (s : State) (id : Nat) (w : List Waiting) : State :=
  match sesAt s id with
  | none => s
  | some x => flushSession (setSes s { x with waiting := x.waiting ++ w }) id

/-- An acknowledgement (R591, R592). -/
def hostAck (seq kind : Nat) (st : Status) : Waiting := .ack (leBytes 8 seq ++ leBytes 1 st.ctorIdx ++ leBytes 1 kind ++ leBytes 6 0)

/-- The session of a ring register slot. -/
def slotSes (s : State) (slot : Nat) : Option Session := s.sessions.find? (fun x => x.slot == slot && x.up)

/-- A ring that lies outside the bounce ranges stops with RING_ERR 3 (R567, R590); each ring has an error of its own. -/
def ringOutside (x : Session) (ring : List Byte) : Bool := !inBounce x (leAt ring 0 8) (16 * ringLen ring)

/-- ADDR and BYTES of a ring entry (R589). -/
def entryAddr (e : List Byte) : Nat := leAt e 8 8
def entryLen (e : List Byte) : Nat := leAt e 4 4

/-- A ring entry has the form of R589: an address of whole lines, and its reserved bits are 0. -/
def entryForm (e : List Byte) : Bool := entryAddr e % 64 == 0 && leAt e 0 4 == 0

/-- H2M_TAIL: more entries are posted. -/
def h2mTail (s : State) (x : Session) (tail : Nat) (ents : List (List Byte)) : State :=
  let n := (tail + 2 ^ 32 - x.h2mTail % 2 ^ 32) % 2 ^ 32
  let y := { x with h2mTail := tail % 2 ^ 32 }
  if ringLen x.ringH = 0 ∨ x.errH ≠ 0 then setSes s y
  else if ringOutside x x.ringH then secFree (setSes s { y with errH := 3 }) 4 (Role.code x.role) 0xFF x.id
  else if ringLen x.ringH < x.h2mEnts.length + n then setSes s { y with errH := 1 }
  else setSes s { y with h2mEnts := x.h2mEnts ++ (List.range n).map (fun i => ents.getD i []) }

def execH2mTail (slot tail : Nat) (ents : List (List Byte)) (s : State) : Host.Outcome State Fault Refusal :=
  done s (match slotSes s slot with
    | some x => h2mTail s x tail ents
    | none => s)

/-- A posted buffer that the module may fill; any other is passed over (R567, R589; log entry 47). -/
def bufOk (x : Session) (e : List Byte) : Bool := entryForm e && decide (4096 ≤ entryLen e) && inBounce x (entryAddr e) (entryLen e)

/-- M2H_TAIL: more buffers are posted; what waits goes out. -/
def m2hTail (s : State) (x : Session) (tail : Nat) (ents : List (List Byte)) : State :=
  let n := (tail + 2 ^ 32 - x.m2hTail % 2 ^ 32) % 2 ^ 32
  let new := (List.range n).map (fun i => ents.getD i [])
  let y := { x with m2hTail := tail % 2 ^ 32 }
  if ringLen x.ringM = 0 ∨ x.errM ≠ 0 then setSes s y
  else if ringOutside x x.ringM then secFree (setSes s { y with errM := 3 }) 4 (Role.code x.role) 0xFF x.id
  else if ringLen x.ringM < x.m2hBufs.length + n then setSes s { y with errM := 2 }
  else
    let s := setSes s { y with m2hBufs := x.m2hBufs ++ new.map (fun e => if bufOk x e then (entryAddr e, entryLen e) else (0, 0)) }
    let s := (new.filter (fun e => !inBounce x (entryAddr e) (entryLen e))).foldl (fun t _ => secFree t 4 (Role.code x.role) 0xFF x.id) s
    resumeUnit (flushSession s x.id)

def execM2hTail (slot tail : Nat) (ents : List (List Byte)) (s : State) : Host.Outcome State Fault Refusal :=
  done s (match slotSes s slot with
    | some x => m2hTail s x tail ents
    | none => s)

/-- RING_H2M or RING_M2H that R620 refuses. -/
def ringBad (val : List Byte) : Bool :=
  let e := ringLen val
  leAt val 12 4 != 0 || !(e ∈ [0, 64, 128, 256, 512, 1024, 2048, 4096])

/-- A ring is set: its indices are 0 and its error is gone (R590). -/
def setRing (s : State) (x : Session) (m2h : Bool) (val : List Byte) : State :=
  if m2h then flushRecords (setSes s { x with ringM := val, m2hTail := 0, m2hHead := 0, m2hBufs := [], errM := 0 })
  else setSes s { x with ringH := val, h2mTail := 0, h2mHead := 0, h2mEnts := [], errH := 0 }

/-- RING_WRITE (R588, R590, R620). -/
def execRingWrite (ses : Nat) (m2h : Bool) (val : List Byte) (s : State) : Host.Outcome State Fault Refusal :=
  let sub := if m2h then 7 else 6
  done s (setting s ses 0x9010 sub
    (fun s x => setStatus s x 0x9010 sub val (decide (2 ≤ x.transport)) (ringBad val) false false)
    (fun s x => setRing s x m2h val))

/-! ### Bulk records -/

/-- The header of a bulk record (R564). -/
def recSeq (h : List Byte) : Nat := leAt h 8 8
def recTarget (h : List Byte) : Nat := leAt h 16 8
def recLen (h : List Byte) : Nat := leAt h 24 4

/-- A record's header, ring entry and ciphertext agree with R564 and R589, for the session and the kind that its command names. A record where
they do not is acknowledged with RANGE, as one that breaks the table of R591 (DESIGN CHOICE, log entry 47). -/
def recForm (x : Session) (kind : Nat) (e h : List Byte) (r : HostRec) : Bool :=
  leAt h 0 4 == x.id && leAt h 4 1 == 0 && leAt h 5 1 == kind && leAt h 6 2 == 0 && leAt h 28 4 == 0 && recLen h == r.cipher.length &&
    decide (16 ≤ recLen h ∧ recLen h ≤ 2 ^ 20) && entryForm e && entryLen e == 48 + recLen h

/-- The plaintext of a DIR 0 record whose tag verifies under the session's request-direction key and its IV (R564 to R566). -/
def recPlain (x : Session) (h : List Byte) (r : HostRec) : Option (List Byte) :=
  Gcm.opens x.dirKeys.1 (recordIv x.dirIvs.1 (recSeq h)) h r.cipher r.tag

/-- A slot whose ring can be served: it has an entry, and its answers have room (R590, R594, R596). -/
def ringReady (x : Session) : Bool := !x.h2mEnts.isEmpty && x.errH == 0 && m2hReady x

/-- It is a slot's turn: of the slots that can be served it is the next in ascending order, round-robin (R594). -/
def slotTurn (s : State) (slot : Nat) : Bool :=
  ((List.range 16).map (fun i => (s.rrSlot + i) % 16)).find? (fun k => (slotSes s k).any ringReady) == some slot

/-- A record is taken from the front of its slot's H2M ring in the slot's turn and checked in the order of R566: `form` is R591, `out` the STATE
and `busy` the BUSY conditions on its plaintext; `act` is its effect. A record outside the bounce ranges is not followed (R567); while no
buffer is free for an answer the ring waits (R596). -/
def takeRecord (s : State) (slot kind : Nat) (h : List Byte) (hr : HostRec) (form : List Byte → Bool) (held : State → Session → List Byte → Bool)
    (out busy : State → Session → List Byte → Bool) (act : State → Session → List Byte → State) : State :=
  match slotSes s slot with
  | none => s
  | some x =>
    match x.h2mEnts with
    | [] => s
    | e :: es =>
      let plain := recPlain x h hr
      if !m2hReady x then flushSession s x.id
      else if x.errH ≠ 0 ∨ !slotTurn s slot ∨ plain.any (held s x) then s
      else
        let y := { x with h2mEnts := es, h2mHead := (x.h2mHead + 1) % 2 ^ 32 }
        let s := { setSes s y with rrSlot := (slot + 1) % 16 }
        let kind' := leAt h 5 1
        if !inBounce x (entryAddr e) (max (entryLen e) (48 + recLen h)) then
          putWaiting (secFree s 4 (Role.code x.role) 0xFF x.id) x.id [hostAck x.seqIn kind' .state]
        else if 2 ^ 32 ≤ x.recsIn then secFree s 3 (Role.code x.role) 0xFF x.id
        else match plain with
          | none => secFree (closeSession s x.id) 1 (Role.code x.role) 0xFF x.id
          | some l =>
            if recSeq h ≠ x.seqIn then secFree s 2 (Role.code x.role) 0xFF x.id
            else
              let y := { y with seqIn := x.seqIn + 1, recsIn := x.recsIn + 1 }
              let s := setSes s y
              if !(recForm x kind e h hr && form l) then putWaiting s x.id [hostAck (recSeq h) kind' .range]
              else if out s y l then putWaiting s x.id [hostAck (recSeq h) kind' .state]
              else if busy s y l then putWaiting s x.id [hostAck (recSeq h) kind' .busy]
              else act s y l

/-- A session's partitions for bulk traffic (R593). -/
def bulkParts (s : State) (x : Session) : List Nat :=
  match x.role with
  | .tn => tenantParts s x
  | .op => (partitions s).filter (fun p => decide (partState s p ≤ 1))
  | .ow => []
  | .vd => []
  | .restricted => []

/-- The partitions that an HBM range meets. -/
def rangeParts (s : State) (a n : Nat) : List Nat :=
  (partitions s).filter (fun p => (partDies s p).any (fun d => overlaps a n (d * dieHbm) dieHbm))

/-- A range lies outside the session's partitions. -/
def outsideParts (s : State) (x : Session) (a n : Nat) : Bool :=
  decide (dies s.variant * dieHbm < a + n) || !((rangeParts s a n).all (fun p => (bulkParts s x).contains p))

/-- HBM self-test on a die of the range (R336). -/
def underTest (s : State) (a n : Nat) : Bool :=
  match s.hbmTest with
  | some t => (List.range 4).any (fun d => bit t.2 d && overlaps a n (d * dieHbm) dieHbm)
  | none => false

/-- A range lies wholly inside pages of QUEUED entries of a partition (R251, R504). -/
def inQueuedPages (s : State) (p a n : Nat) : Bool :=
  let base := rg s (0x4810 + p) 1
  let pages := (((partEnts s p).filter (fun e => e.2.st == 1)).map (fun e => e.2.pages)).flatten
  decide (base ≤ a) && (List.range ((a + n - 1) / 65536 - a / 65536 + 1)).all (fun i =>
    pages.contains ((a - base) / 65536 + i))

/-- A write that R251, R504, R577 or R636 forbids in a partition. -/
def writeBarred (s : State) (p a n : Nat) : Bool :=
  let pool := rg s (0x4810 + p) 2 * 65536
  let free := inQueuedPages s p a n
  (decide (pool ≠ 0) && overlaps a n (rg s (0x4810 + p) 1) pool && !free) ||
    (planState s p == 3 && meetsAny a n (regionHbm s p) && !free) || meetsAny a n (guardedHbm s p)

/-- A host transfer makes a partition used (R548). -/
def useParts (s : State) (l : List Nat) : State := l.foldl (fun t p => wr t (0x6040 + p) 2 1) s

/-- HOST_WRITE of 64 bytes to 1 MiB (R303, R564, R591, R592). -/
def execHostWrite (slot : Nat) (hdr : List Byte) (hr : HostRec) (s : State) : Host.Outcome State Fault Refusal :=
  let a := recTarget hdr
  done s (takeRecord s slot 1 hdr hr
    (fun l => a % 64 == 0 && l.length % 64 == 0)
    (fun s _ l => bgHeld s a l.length)
    (fun s x l => outsideParts s x a l.length || (rangeParts s a l.length).any (fun p => writeBarred s p a l.length))
    (fun s _ l => underTest s a l.length)
    (fun s x l => putWaiting (useParts (poke (useBg s a l.length) a l) (rangeParts s a l.length)) x.id [hostAck (recSeq hdr) 1 .ok]))

/-- The length that a read request asks for. -/
def readLen (l : List Byte) : Nat := leAt l 0 8

/-- HOST_READ_REQUEST (R411, R591). -/
def execHostReadRequest (slot : Nat) (hdr : List Byte) (hr : HostRec) (s : State) : Host.Outcome State Fault Refusal :=
  let a := recTarget hdr
  done s (takeRecord s slot 2 hdr hr
    (fun l => a % 64 == 0 && l.length == 16 && readLen l % 64 == 0 && decide (64 ≤ readLen l ∧ readLen l ≤ 2 ^ 32) && leAt l 8 8 == 0)
    (fun s _ l => bgHeld s a (readLen l))
    (fun s x l => outsideParts s x a (readLen l))
    (fun s _ l => underTest s a (readLen l))
    (fun s x l => putWaiting (useParts s (rangeParts s a (readLen l))) x.id [.data a (readLen l), hostAck (recSeq hdr) 2 .ok]))

/-- The commands of a serving record, in order. -/
def serveCommands : Nat → List Byte → List (List Byte)
  | 0, _ => []
  | n + 1, l => l.take 64 :: serveCommands n (l.drop 64)

/-- SERVE_COMMAND_RECORD (R490, R591): a command that is refused is answered as such and is no failure of the record. While the store has no
room or commands wait for room, the record waits in its ring (R492). -/
def execServeCommandRecord (slot : Nat) (hdr : List Byte) (hr : HostRec) (s : State) : Host.Outcome State Fault Refusal :=
  done s (takeRecord s slot 3 hdr hr
    (fun l => recTarget hdr == 0 && l.length % 64 == 0 && decide (64 ≤ l.length ∧ l.length ≤ 65536))
    (fun s _ _ => recordRoom s == 0 || (partitions s).any (unitWaits s))
    (fun _ _ _ => false) (fun _ _ _ => false)
    (fun s x l => (serveCommands (l.length / 64) l).foldl (fun t c => serveCommand t (some x.id) c) s))

/-- INSTALL_CHUNK (R460, R462, R592, R593). -/
def execInstallChunk (slot : Nat) (hdr : List Byte) (hr : HostRec) (s : State) : Host.Outcome State Fault Refusal :=
  let a := recTarget hdr
  let c := a % 256
  done s (takeRecord s slot 4 hdr hr
    (fun l => bits a 8 24 == 0 && decide (c < 64) && l.length == 2 ^ 20)
    (fun _ _ _ => false)
    (fun s x _ => x.role != .op || ctxState s c != 1)
    (fun s _ _ => s.mcDown)
    (fun s x l => let r := takeChunk s c (a / 2 ^ 32) l; putWaiting r.1 x.id [hostAck (recSeq hdr) 4 r.2]))

/-! ### PERST_N (R583) -/

/-- PERST_N: mailbox and VDM sessions end; the function's registers return to reset. -/
def execPerstN (s : State) : Host.Outcome State Fault Refusal :=
  let t := ((s.sessions.filter (fun x => decide (x.transport ≤ 1))).map Session.id).foldl closeSession s
  done s { t with mbStatus := 0, mbRspLen := 0, mbReqLen := 0, mbReq := [], mbRsp := [], evHead := 0, evTail := 0, evFifo := [],
                  evLost := false, msixTab := State.reset.msixTab, msixPba := 0, rrSlot := 0 }

/-! ### MCTP (R597 to R599) -/

/-- An MCTP control response on a binding: through the MC, and never on the mailbox, which takes SPDM and secured messages only. It goes to the
requester with the instance ID of its request. -/
def control (s : State) (b : Nat) (val : State → List Byte) (eff : State → State) : State :=
  let p := (kget s.mctpFrom b).getD {}
  if b = 0 ∨ 3 < b ∨ s.mcDown then s else wire (emit (eff s) (.mctp b (val s))) b p false (leBytes 1 0 ++ leBytes 1 (p.inst % 32) ++ val s)

/-- SET_ENDPOINT_ID; 0 and 255 are no endpoint IDs. -/
def execSetEndpointId (b eid : Nat) (s : State) : Host.Outcome State Fault Refusal :=
  let good := decide (0 < eid ∧ eid < 255)
  done s (control s b (fun _ => if good then leBytes 1 1 ++ leBytes 1 0 ++ leBytes 1 0 ++ leBytes 1 eid ++ leBytes 1 0 else leBytes 1 1 ++ leBytes 1 2)
    (fun s => if good then { s with eids := kset s.eids b eid } else s))

/-- GET_ENDPOINT_ID. -/
def execGetEndpointId (b : Nat) (s : State) : Host.Outcome State Fault Refusal :=
  done s (control s b (fun s => leBytes 1 2 ++ leBytes 1 0 ++ leBytes 1 (eidOf s b) ++ leBytes 2 0) id)

/-- GET_MCTP_VERSION_SUPPORT: the version is not stated (log entry 5). -/
def execGetMctpVersionSupport (b : Nat) (s : State) : Host.Outcome State Fault Refusal :=
  done s (control s b (fun _ => leBytes 1 4 ++ leBytes 1 0 ++ leBytes 1 1 ++ (padTo 4 (Config.factory 5)).take 4) id)

/-- GET_MESSAGE_TYPE_SUPPORT: the types of R598. -/
def execGetMessageTypeSupport (b : Nat) (s : State) : Host.Outcome State Fault Refusal :=
  done s (control s b (fun _ => leBytes 1 5 ++ leBytes 1 0 ++ leBytes 1 4 ++ [0x00, 0x05, 0x06, 0x7F]) id)

/-- GET_VENDOR_DEFINED_MSG_SUPPORT: Nordopor's enterprise number, most significant byte first (R603). -/
def execGetVendorDefinedMsgSupport (b : Nat) (s : State) : Host.Outcome State Fault Refusal :=
  done s (control s b (fun s => leBytes 1 6 ++ leBytes 1 0 ++ leBytes 1 0xFF ++ leBytes 1 1 ++ (leBytes 4 (rg s 0x1000 8)).reverse) id)

/-- The coordinate that MGMT_PEERS gives an endpoint ID. -/
def peerOf (s : State) (eid : Nat) : Option Nat :=
  (((List.range 32).map (rtab s 0x9000 3 4)).find? (fun v => eid != 0 && v / 2 ^ 24 == eid)).map (fun v => v % 2 ^ 24)

/-- The MGMT packet that carries an MCTP packet to a package (R599). -/
def mgmtPacket (s : State) (dest : Nat) (mctp : List Byte) : Packet :=
  let pay := leBytes 3 (myCoord s) ++ leBytes 1 0 ++ leBytes 2 mctp.length ++ leBytes 10 0 ++ mctp
  let n := ceilDiv pay.length 64
  { addr := 0, space := 0, inc := 0, ctr := 0, cv := false, len := n, ep := 0xF2, die := 0, dest := dest, cls := .mgmt, ptype := 0x31,
    payload := padTo (64 * n) pay }

/-- Send it on the route of the timing partition (R391, R599). -/
def sendMgmt (s : State) (dest : Nat) (mctp : List Byte) : State :=
  let p := rg s 0x2000 12
  let k := mgmtPacket s dest mctp
  match route s p dest 0 .mgmt with
  | none => noRoute s p p 0xFF k
  | some none => s
  | some (some l) => setLink s l { linkAt s l with unsQ := (linkAt s l).unsQ ++ [k] }

/-- The binding of an MCTP packet, its bytes, and the coordinate that it comes from. -/
def arrival (l : MctpFrom) (pk : Packet) : Nat × List Byte × Nat :=
  match l with
  | .link _ => (3, (pk.payload.drop 16).take (leAt pk.payload 4 2), leAt pk.payload 0 3)
  | .vdm => (1, pk.payload, 0)
  | .i3c => (2, pk.payload, 0)
  | .own => (3, [], 0)

/-- An MCTP packet of a binding (R598, R599): the requester of one for the module itself is noted, and its message is a command of its own; one
for a peer is bridged; any other is discarded. Bytes 1 and 2 of an MCTP packet are its endpoint IDs, byte 3 ends in its tag. -/
def mctpArrives (s : State) (l : MctpFrom) (pk : Packet) : State :=
  let (b, mctp, coord) := arrival l pk
  let eid := leAt mctp 1 1
  if s.mcDown then s
  else if eid = eidOf s b then
    { s with mctpFrom := kset s.mctpFrom b { coord := coord, eid := leAt mctp 2 1, tag := leAt mctp 3 1 % 8, inst := leAt mctp 5 1 } }
  else match peerOf s eid with
    | some dest => sendMgmt s dest mctp
    | none => s

/-- The module's next own packet to a peer is sent to the coordinate that its message is for (R599). -/
def mctpLeaves (s : State) : State :=
  match s.mgmtOut with
  | [] => s
  | k :: ks => sendMgmt { s with mgmtOut := ks } k.1 k.2

/-- MGMT_PACKET_RX (R598, R599). -/
def execMgmtPacketRx (l : MctpFrom) (pk : Packet) (s : State) : Host.Outcome State Fault Refusal :=
  match l with
  | .own => done s (mctpLeaves s)
  | .link k => onLink s k (mctpArrives s (.link k) pk)
  | .vdm => done s (mctpArrives s .vdm pk)
  | .i3c => done s (mctpArrives s .i3c pk)

/-- ENTDAA (R597): an MC that is not running does not acknowledge (R598). -/
def execEntdaa (addr : Nat) (s : State) : Host.Outcome State Fault Refusal :=
  done s (if s.mcDown then s else { s with i3cAddr := some (addr % 128) })

end Sys2Proof.Machine
end

