-- ==== Sys2Proof/Machine/Reset.lean ====
section
/-! DEFINITION. Start-up, reset and failure of the MC: cold start and its stages (R622 to R627), warm reset (R623, R624, R644), the MC
(R638, R639), retirement (R640 to R643), and power fail (R475, R657, R658). -/

namespace Sys2Proof.Machine

/-! ### Retirement -/

/-- The value of SLOT_RETIRE (R641). -/
def rtKind (v : Nat) : Nat := bits v 24 8
def rtUnit (v : Nat) : Nat := bits v 16 8
def rtCluster (v : Nat) : Nat := bits v 12 4
def rtDie (v : Nat) : Nat := bits v 10 2

/-- The value does not name a fitted unit. -/
def retireBad (s : State) (v : Nat) : Bool :=
  bits v 0 10 != 0 ||
  match rtKind v with
  | 0 => decide (16 < rtUnit v ∨ 12 ≤ rtCluster v ∨ dies s.variant ≤ rtDie v)
  | 1 => rtUnit v != 0 || decide (12 ≤ rtCluster v ∨ dies s.variant ≤ rtDie v)
  | 2 => bits v 10 6 != 0 || decide (linksOf s.variant ≤ rtUnit v)
  | _ => true

/-- The unit is already retired. -/
def retiredNow (s : State) (v : Nat) : Bool :=
  match rtKind v with
  | 0 => !bit (usable s (12 * rtDie v + rtCluster v)) (rtUnit v)
  | 1 => usable s (12 * rtDie v + rtCluster v) == 0
  | _ => bit (rg s 0x7008 9) (rtUnit v)

/-- The die of the unit. -/
def retireDie (v : Nat) : Nat := if rtKind v = 2 then rtUnit v / 16 else rtDie v

/-- The partition's plan binds a retired slot, or names a retired link in LINKSLOTS or a bundle (R640). -/
def planUses (s : State) (p v : Nat) : Bool :=
  let q := partAt s p
  match rtKind v with
  | 0 => ((kget q.slotMap (12 * rtDie v + rtCluster v)).getD []).contains (rtUnit v)
  | 1 => (kget q.slotMap (12 * rtDie v + rtCluster v)).isSome
  | _ => (kget q.slots (rtUnit v)).isSome || (List.range 8).any (fun b => (bundleLinks s p b).contains (rtUnit v))

/-- CORES_ACTIVE and CAPACITY_SEQ after a change of SLOTS_USABLE (R642). -/
def recount (old s : State) : State :=
  let n := ((List.range 4).map (activeCores s)).sum
  let s := wr s 0x1100 2 n
  if rb old 0x1100 5 = rb s 0x1100 5 ∧ rg old 0x1100 2 = n then s else wr s 0x1100 6 ((rg s 0x1100 6 + 1) % 2 ^ 32)

/-- Mark the unit retired: SLOTS_USABLE or LINKS_RETIRED; a link goes to DISABLED and OFF. -/
def markRetired (s : State) (v : Nat) : State :=
  let cl := 12 * rtDie v + rtCluster v
  match rtKind v with
  | 0 => wtab s 0x1100 5 4 cl (usable s cl - (usable s cl &&& 2 ^ rtUnit v))
  | 1 => wtab s 0x1100 5 4 cl 0
  | _ => doAdmin (wr s 0x7008 9 (rg s 0x7008 9 ||| 2 ^ rtUnit v)) (rtUnit v) 0

/-- Retire a unit with its record, 0 by the Operator or 1 by the start-up test (R640, R642, R643). -/
def retire (s : State) (v cause : Nat) : State :=
  let r := padTo 16 (leBytes 6 s.beat ++ leBytes 1 (rtKind v) ++ leBytes 1 (rtDie v) ++ leBytes 1 (rtCluster v) ++ leBytes 1 (rtUnit v) ++
    leBytes 1 cause)
  let t := recount s (markRetired s v)
  let l := (match kget t.blobs (rkey 0x7008 8) with | some l => l | none => []) ++ r
  let t := wb t 0x7008 8 (l.drop (l.length - 1024))
  let t := logRec t (pkgRec t 4 9 r)
  let p := partLow t (retireDie v)
  if planState t p ≠ 0 ∧ planUses t p v then unloadPlan t p else t

/-- SLOT_RETIRE (R640). -/
def execSlotRetire (ses : Nat) (val : List Byte) (s : State) : Host.Outcome State Fault Refusal :=
  let v := leNat val
  done s (setting s ses 0x7008 7
    (fun s x => setStatus s x 0x7008 7 val false (retireBad s v)
      (retiredNow s v || decide (planState s (partLow s (retireDie v)) = 1 ∨ planState s (partLow s (retireDie v)) = 3))
      (rtKind v == 2 && linkState s (rtUnit v) == 6))
    (fun s _ => retire s v 0))

/-- RETIRE_CLEAR (R640, R646). -/
def execRetireClear (ses : Nat) (val : List Byte) (s : State) : Host.Outcome State Fault Refusal :=
  done s (setting s ses 0x7008 10 (fun s x => setStatus s x 0x7008 10 val (lifecycle s != 3) false false false)
    (fun s _ => recount s (wr (toDefault s 0x1100 5) 0x7008 9 0)))

/-! ### The MC -/

/-- Send the events that waited for the MC. -/
def flushEvents (s : State) : State :=
  s.sessions.foldl (fun t x => match sesAt t x.id with
    | some y => y.events.foldl (fun t e => match sesAt t x.id with
        | some z => sendEvent t z (leAt e 0 4) (e.drop 4)
        | none => t) (setSes t { y with events := [] })
    | none => t) s

/-- The MC runs again: kept entries are logged, events go out, and operations that finished meanwhile complete (R614, R638); AK is
derived again (R558). -/
def mcReturn (s : State) : State :=
  let s := s.kept.foldl logNow { s with mcDown := false, kept := [] }
  let s := if s.dice.cdi1.isEmpty then s else deriveAk s
  let s := flushEvents s
  (s.handles.filter (fun h => h.due)).foldl (fun t h => finishHandle t h.h h.status h.reason h.result) s

/-- What an MC restart and a warm reset discard (R581, R624). -/
def dropSecurity (s : State) (role ses : Nat) : State :=
  let s := discardChange s 2 role ses
  newNonce { toDefault (wr s 0x6020 1 0) 0x6020 5 with debugReq := none }

/-- The restart before has failed, if it has not reached MC_STATE 0 or this one comes within 10 s of that (R639). Of the failed ones those of
the last 60 s are kept. -/
def countFail (s : State) : State :=
  let now := timePs s
  let failed := s.mcDown || s.mcUpAt.any (fun t => decide (now - t ≤ 10 * 10 ^ 12))
  { s with mcFails := s.mcFails.filter (fun t => decide (now - t ≤ 60 * 10 ^ 12)) ++ (if failed then [now] else []), mcUpAt := none }

/-- The MC restarts: 1 lockstep, 2 watchdog, 3 request (R609, R638). -/
def mcRestart (s : State) (cause : Nat) : State :=
  if s.mcDead then s
  else
    let s := { countFail s with mcDown := true, asks := [] }
    let s := logRec s (pkgRec s 5 8 (leBytes 1 cause))
    let s := wr (bump s 0x7008 5 11 0 1) 0x7008 6 cause
    let s := match s.lockBy with
      | some h => lockLost (freeLock s) h 2
      | none => s
    dropSecurity s 0xFF 0

/-- MC_RESET. -/
def execMcReset (ses : Nat) (val : List Byte) (s : State) : Host.Outcome State Fault Refusal :=
  done s (setting s ses 0x7008 4 (fun s x => setStatus s x 0x7008 4 val false false false false) (fun s _ => mcRestart s 3))

/-- MC_LOCKSTEP_MISMATCH. -/
def execMcLockstepMismatch (s : State) : Host.Outcome State Fault Refusal := done s (mcRestart s 1)

/-- MC_WATCHDOG: 250 ms. -/
def execMcWatchdog (ms : Nat) (s : State) : Host.Outcome State Fault Refusal := done s (if 250 ≤ ms then mcRestart s 2 else s)

/-- MC_RESTART_DONE: MC_STATE is 0 again, `ms` after the restart; later than 1 s the restart has failed, and the MC stays down until it
restarts again (R639, which does not say what a late MC does: DESIGN CHOICE, log entry 47). -/
def execMcRestartDone (ms : Nat) (s : State) : Host.Outcome State Fault Refusal :=
  done s (if !s.mcDown ∨ s.mcDead ∨ 1000 < ms then s
    else let t := mcReturn s; { t with mcUpAt := some (timePs t) })

/-- MC_FAILED (R639): the third failed restart, `ms` after the first of them; the one in progress, when the MC is not running, is among them. -/
def execMcFailed (ms : Nat) (s : State) : Host.Outcome State Fault Refusal :=
  done s (if s.mcDead ∨ 60000 < ms ∨ s.mcFails.length + (if s.mcDown then 1 else 0) < 3 then s
    else
      let t := { s with mcDown := true, mcDead := true, faultN := true, asks := [] }
      raise t (pkgRec t 5 0x0706 (leBytes 1 (rg t 0x7008 6))))

/-! ### Cold start -/

/-- Whether a dictionary value survives a cold start: persistent entries, TRIP_CAUSE at the first cold start after a trip (R536, R602), and
SEC_EVENTS with SEC_OVF, which count what the persistent log records and which only the Operator clears (R581). -/
def survives (s : State) (k : Nat) : Bool :=
  (match entry? (k / 256) (k % 256) with
    | some e => e.persist
    | none => false) || (k == rkey 0x5018 2 && s.tripKept == 2) ||
    k == rkey 0x6050 1 || k == rkey 0x6050 3

/-- A cold start begins (R556, R622, R624): everything is as after reset but for what persists, and every partition is SCRUBBING until the SCRUB
stage has scrubbed it. -/
def coldStart (s : State) : State :=
  let s := discardChange s 2 0xFF 0
  let busy := (s.grafts ++ s.graftRun.toList).map (fun g => g.ctx)
  let s := resetContexts s
  let t : State := { pending := s.pending, variant := s.variant, regs := s.regs.filter (fun e => survives s e.1),
                     blobs := s.blobs.filter (fun e => survives s e.1), ctxs := s.ctxs, stateStore := s.stateStore, akGen := s.akGen,
                     fuseUds := s.fuseUds, fuseRoot := s.fuseRoot, fuseFw := s.fuseFw,
                     tripAt := s.tripAt, tripKept := s.tripKept - 1, moduleRst := s.moduleRst, refLost := s.refLost, fwNext := s.fwNext,
                     lmNext := s.lmNext, fwRun := s.fwRun, fresh := s.fresh, out := s.out }
  let t := (List.range 64).foldl (fun t c => if ctxState t c = 4 then ungraft t c else t) (showTripIn t)
  let t := busy.foldl (fun t c => wr t (0x4440 + c) 9 15) t
  let t := wr t 0x2000 8 (stretchMax t (rg t 0x2000 7))
  let t := (partitions t).foldl (fun t p => setPartState t p 3) t
  newNonce (t.stateStore.foldl (fun t r => wr t (0x6040 + r.1) 8 r.2.2) t)

/-- COLD_START: PWR_EN is high and VIN has lain from 40 to 60 V for `ms` (R622, R655). -/
def execColdStart (mv ms : Nat) (pwrEn : Bool) (s : State) : Host.Outcome State Fault Refusal :=
  doneAny s (if pwrEn ∧ 40000 ≤ mv ∧ mv ≤ 60000 ∧ 10 ≤ ms ∧ !s.holdup then coldStart s else s)

/-- BOOT_STAGE. -/
def setStage (s : State) (n : Nat) : State := wr s 0x7008 1 n

/-- HALTED: the compute rails are off, FAULT_N is asserted (R625, R653). -/
def haltWith (s : State) (codes : List Nat) : State :=
  let s := codes.foldl (fun t c => logRec t (pkgRec t 5 c [])) s
  { setStage (if s.railsUp then railsOff s else s) 6 with faultN := true }

/-- The firmware copy of a type runs from now on (R575); the new FW_VERSION is not stated (log entry 6). -/
def runImage (s : State) (ty : Nat) : State :=
  match s.fwNext.find? (fun f => f.1 == ty) with
  | none => s
  | some f =>
    let s := { s with fwNext := s.fwNext.filter (fun g => g.1 != ty) }
    let s := wtab s 0x6000 9 1 ty (max (rtab s 0x6000 9 1 ty) f.2.1)
    if ty = 1 then s
    else
      let r := draw s
      let s := { r.2 with fwRun := kset r.2.fwRun (if ty = 0 then 2 else 4) f.2.2 }
      wtab s 0x1000 9 4 (ty / 2) r.1.toNat

/-- Whether a partition is recorded as DIRTY in the state store. -/
def recorded (s : State) (p : Nat) : Bool := s.stateStore.any (fun r => r.1 == p)

/-- The SCRUB stage (R553, R555, R556): every partition at a cold start, the recorded ones after a warm reset; `bad` is a die and a
channel that failed. How long a rerun took is a measured time (log entry 6). -/
def scrubStage (s : State) (bad : Option (Nat × Nat)) : State :=
  let cold := !s.warmBoot
  ((partitions s).filter (fun p => cold || recorded s p)).foldl (fun t p =>
    let us := Config.measured (rkey 0x6040 9) t.fresh % 40001
    let t := { t with fresh := t.fresh + 1 }
    match bad.filter (fun f => partLow t f.1 == p) with
    | some f => scrubComplete (setPartState (if recorded t p then t else storeRecord t p) p 3) p us (some f)
    | none =>
      let t := if recorded t p then scrubComplete (setPartState t p 3) p us none else scrubClear t p
      if cold then wr (setPartState t p 0) (0x6040 + p) 2 0 else t) s

/-- READY: links train as LINK_ADMIN directs. -/
def enterReady (s : State) : State :=
  (List.range (linksOf s.variant)).foldl (fun t l =>
    if rg t (0x3000 + 16 * l) 1 ≠ 0 ∧ linkState t l = 0 then startTraining t l else t) (setStage s 5)

/-- A failing slot of the start-up test: (die × 12 + cluster) × 17 + slot. -/
def retireSlot (s : State) (n : Nat) : State :=
  let v := n % 17 * 2 ^ 16 + n / 17 % 12 * 2 ^ 12 + n / 204 * 2 ^ 10
  if retireBad s v ∨ retiredNow s v then s else retire s v 1

/-- START_UP_STAGE (R625, R627, R656): the stage in progress ends well or fails. `slots` are the failing slots at BRINGUP, and at SCRUB
the die and channel that failed. -/
def startUpStage (s : State) (ok : Bool) (slots : List Nat) : State :=
  if s.holdup ∨ s.tripped then s
  else match rg s 0x7008 1 with
    | 0 =>
      if s.moduleRst ∧ s.warmBoot then s
      else if !ok then haltWith { s with mcDown := true, mcDead := true } []
      else if s.warmBoot then setStage s 2
      else setStage (runImage s 2) 1
    | 1 =>
      if tripIn s false ∨ tripIn s true then s
      else if !ok then haltWith s [0x0810]
      else { setStage s 2 with railsUp := true, pwrGood := true }
    | 2 =>
      if s.moduleRst then s
      else if !ok then haltWith s [0x0811]
      else setStage (deriveAk (if s.warmBoot then s else bootDerive (runImage s 0))) 3
    | 3 =>
      if !ok then haltWith s [0x0812]
      else
        let t := if s.warmBoot then s
          else match s.lmNext with
            | some lib => deriveAk (loadLibrary (runImage s 1) lib)
            | none => s
        setStage (slots.foldl retireSlot t) 4
    | 4 => enterReady (scrubStage s (match ok, slots with
        | false, [d, ch] => some (d, ch)
        | _, _ => none))
    | _ => s

def execStartUpStage (ok : Bool) (slots : List Nat) (s : State) : Host.Outcome State Fault Refusal := done s (startUpStage s ok slots)

/-! ### Warm reset -/

/-- The results of running self-tests read not run (R644). -/
def dropTests (s : State) : State :=
  let s := match s.hbmTest with
    | some t => (List.range 4).foldl (fun r d => if bit t.2 d then wb r 0x4008 3 (patch (rb r 0x4008 3) (16 * d) (List.replicate 16 0)) else r) s
    | none => s
  let s := match s.flashTest with
    | some t => (List.range 4).foldl (fun r i => if bit t.2 i then wb r 0x4400 8 (patch (rb r 0x4400 8) (16 * i) (List.replicate 16 0)) else r) s
    | none => s
  let s := if s.serveTest.isSome then toDefault s 0x4800 5 else s
  let s := (List.range (linksOf s.variant)).foldl (fun r l => if (linkAt r l).test.isSome then toDefault r (0x3001 + 16 * l) 9 else r) s
  { s with hbmTest := none, flashTest := none, serveTest := none }

/-- A partition under a warm reset (R624): no plan, on-chip memories zero, MAINTENANCE ends, a recorded partition reads SCRUBBING. -/
def warmPart (s : State) (p : Nat) : State :=
  let s := endServing (unloadPlan (zeroOnChip s p) p) p
  let s := { s with parts := kdel s.parts p }
  match partState s p with
  | 1 => wr (wr (setPartState s p 0) (0x6040 + p) 2 1) (0x6040 + p) 6 0
  | 2 => setPartState s p 3
  | _ => s

/-- Reset of the package, host interface and MC (R623, R624, R644); `cause` is RESET_CAUSE. The links drop, and the timing state is kept all the
same (R624). While the compute rails are off no start-up follows. -/
def warmReset (s : State) (cause : Nat) : State :=
  let s := (s.sessions.map Session.id).foldl closeSession s
  let s := dropSecurity s 0xFF 0
  let s := resetContexts (dropTests { s with handles := [], freqHandle := [], freqLater := [], bankUse := [] })
  let s := (partitions s).foldl warmPart s
  let s := (List.range (linksOf s.variant)).foldl (fun t l =>
    if linkState t l = 0 then t else let u := setLinkState (clearLink t l) l 0; setLink u l { linkAt u l with retrain := [], test := none }) s
  let s := { s with cores := [], hints := [], mbStatus := 0, mbRspLen := 0, mbReqLen := 0, mbReq := [], mbRsp := [], evHead := 0, evTail := 0,
                    evFifo := [], evLost := false, spdm := [], chReady := [], msgSeq := [], mctpFrom := [], mgmtOut := [],
                    msixTab := State.reset.msixTab, msixPba := 0, rrSlot := 0 }
  let s := if s.mcDead then s else mcReturn s
  if s.railsUp then { wr (setStage s 0) 0x7008 2 cause with warmBoot := true } else s

/-- MODULE_RST_N goes low (`level` false) for `ns`, or rises (R623, R656); before PWR_GOOD it only holds start-up back. -/
def execModuleRstN (level : Bool) (ns : Nat) (s : State) : Host.Outcome State Fault Refusal :=
  done s (if level then { s with moduleRst := false }
    else if ns < 1000 ∨ s.moduleRst then s
    else if s.pwrGood ∨ s.tripped then { warmReset s 1 with moduleRst := true }
    else { s with moduleRst := true })

/-- WARM_RESET (R623): answered first, then the reset. -/
def execWarmReset (ses : Nat) (val : List Byte) (s : State) : Host.Outcome State Fault Refusal :=
  done s (inSes s ses 2 0x7008 3 (fun s x =>
    let st := setStatus s x 0x7008 3 val false false false false
    let t := answerIn s x 2 0x7008 3 st []
    if st = .ok then warmReset t 2 else t))

/-! ### Power fail -/

/-- POWER_FAIL (R475, R657): VIN at `mv` or PWR_EN low for `us`. -/
def powerFail (s : State) : State :=
  let t := railsOff s
  { (List.range 64).foldl (fun t c => if ctxState t c = 1 then setCtxState t c 2 else t) t with holdup := true }

def execPowerFail (mv us : Nat) (pwrEn : Bool) (s : State) : Host.Outcome State Fault Refusal :=
  done s (if 20 ≤ us ∧ (mv < 38000 ∨ 62000 < mv ∨ !pwrEn) ∧ !s.holdup then powerFail s else s)

/-- HOLDUP_END (R475, R658): the module powers down, then cold starts if it may. -/
def execHoldupEnd (mv : Nat) (pwrEn : Bool) (s : State) : Host.Outcome State Fault Refusal :=
  done s (if !s.holdup then s
    else
      if pwrEn ∧ 40000 ≤ mv ∧ mv ≤ 60000 then coldStart s
      else { s with powered := false, holdup := false, sessions := [], asks := [], lockBy := none, handles := [] })

end Sys2Proof.Machine
end

