-- ==== Sys2Proof/Machine/Access.lean ====
section
/-! DEFINITION. The two general dictionary messages: GET (R604) and SET (R601), over every entry of the dictionary. -/

namespace Sys2Proof.Machine

/-! ### Reading -/

/-- BIDs with an open barrier instance in a partition (R291). -/
def barrierOpen (s : State) (p : Nat) : Nat := (partAt s p).insts.foldl (fun m b => m ||| 2 ^ b.bid) 0

/-- Entries of a partition in one of the listed states (R507). -/
def entriesIn (s : State) (p : Nat) (st : List Nat) : Nat :=
  (s.serve.filter (fun e => partLow s (e.1 / 2048) == p && st.contains e.2.st)).length

/-- Handles that a session may poll (R613). -/
def pollable (s : State) (x : Session) : List Nat :=
  (s.handles.filter (fun h => h.ses == x.id || x.role == .ow || x.role == .op)).map (fun h => h.h)

/-- LANE_SNR: a measured value of each lane while the link receives, zero otherwise (R377, log entry 6). -/
def laneSnr (s : State) (l : Nat) : List Byte :=
  if linkState s l = 0 ∨ 5 ≤ linkState s l then List.replicate 8 0
  else ((List.range 4).map (fun i => leBytes 2 (Config.measured (rkey (0x3003 + 16 * l) 1 + 2 ^ 24 * i) s.fresh))).flatten

/-- An entry whose value follows from the rest of the state, and is stored nowhere else. -/
def derived (s : State) (x : Session) (idx sub : Nat) : Option (List Byte) :=
  let (base, _, p) := locate idx
  match base * 256 + sub with
  | 0x210004 => some (leBytes 8 s.beat)
  | 0x221008 => some (leBytes 2 (barrierOpen s p))
  | 0x300301 => some (laneSnr s p)
  | 0x440009 => some (leBytes 1 (s.grafts.length))
  | 0x480006 => some (leBytes 2 (min s.records.length 16384))
  | 0x481005 => some (leBytes 4 (freeCount s p))
  | 0x481006 => some (leBytes 2 (entriesIn s p [1]))
  | 0x481007 => some (leBytes 2 (entriesIn s p [2, 3]))
  | 0x48100E => some (padTo 32 (ServeEnt.bytes (servAt s (rg s idx 13))))
  | 0x600007 => some (changePending s)
  | 0x603001 => some (certChain s)
  | 0x603002 => some (leBytes 1 s.sessions.length)
  | 0x700002 => some (leBytes 8 x.logSeek)
  | 0x700004 => some (leBytes 8 (match s.log with | [] => 0 | r :: _ => r.num))
  | 0x800002 => some (leBytes 2 s.handles.length)
  | 0x800003 => some (padTo 1024 (((pollable s x).foldl insNat []).map (leBytes 4)).flatten)
  | 0x900001 => some (leBytes 4 (s.lockBy.getD 0))
  | 0x900002 => some (leBytes 2 (if s.lockBy.isSome then Config.measured (rkey 0x9000 2) s.fresh % (s.lockLeft + 1) else 0))
  | 0x901001 => some (leBytes 4 x.id)
  | 0x901002 => some (leBytes 1 (Role.code x.role))
  | 0x901003 => some (leBytes 1 x.transport)
  | 0x901004 => some (leBytes 1 x.slot)
  | 0x901005 => some x.bounce
  | 0x901006 => some x.ringH
  | 0x901007 => some x.ringM
  | 0x901008 => some (leBytes 1 x.mask)
  | 0x901009 => some (leBytes 1 x.sink)
  | _ => none

/-- A value that holds a measured time: the next read measures again (log entry 6). -/
def measures (idx sub : Nat) : Bool := (idx == 0x6000 && sub == 7) || (idx == 0x9000 && sub == 2) || ((locate idx).1 == 0x3003 && sub == 1)

/-- The bytes of an entry as a session reads them (R600). -/
def entryBytes (s : State) (x : Session) (idx sub : Nat) (e : Entry) : List Byte :=
  match derived s x idx sub with
  | some b => b
  | none => match e.ty with
    | .num n => leBytes n (rg s idx sub)
    | .i32 => leBytes 4 (rg s idx sub)
    | .f32 => leBytes 4 (rg s idx sub)
    | .bool => leBytes 1 (rg s idx sub)
    | .enum => leBytes 1 (rg s idx sub)
    | .str _ => rb s idx sub
    | .blob _ => rb s idx sub
    | .table n => padTo n (rb s idx sub)
    | .inv => []

/-- A GET in a session. -/
def dictRead (s : State) (x : Session) (idx sub : Nat) : State :=
  match getStatus s x idx sub with
  | .ok => match entry? idx sub with
    | some e =>
      if idx = 0x7000 ∧ sub = 3 then let r := readLog s x; answerIn r.2 x 1 idx sub .ok r.1
      else answerIn (if measures idx sub then { s with fresh := s.fresh + 1 } else s) x 1 idx sub .ok (entryBytes s x idx sub e)
    | none => answerIn s x 1 idx sub .noSub []
  | st => answerIn s x 1 idx sub st []

/-- DICT_GET (R604). -/
def execDictGet (ses idx sub : Nat) (s : State) : Host.Outcome State Fault Refusal :=
  done s (inSes s ses 1 idx sub (fun s x => dictRead s x idx sub))

/-! ### Writing: the conditions of entries without a command of their own -/

/-- First HBM byte of a partition and its HBM bytes. -/
def partHbm (s : State) (p : Nat) : Nat × Nat := (p * dieHbm, (partDies s p).length * dieHbm)

/-- A range lies in the HBM of a partition. -/
def inPartHbm (s : State) (p a n : Nat) : Bool :=
  decide ((partHbm s p).1 ≤ a ∧ a + n ≤ (partHbm s p).1 + (partHbm s p).2)

/-- Bytes of a partition's page-list area (R485). -/
def listArea (s : State) (p : Nat) : Nat := 16384 * 2048 * (partDies s p).length

/-- What R485 refuses of a pool at `base` of `pages` pages. -/
def poolBad (s : State) (p base pages : Nat) : Bool :=
  base % 65536 != 0 || decide (dies s.variant * dieHbm ≤ base) || decide (1572864 * (partDies s p).length < pages) ||
    (pages != 0 && (!inPartHbm s p base (65536 * pages) || overlaps base (65536 * pages) (rg s (0x4810 + p) 4) (listArea s p)))

/-- What R485 refuses of a page-list area at `base`. -/
def listBad (s : State) (p base : Nat) : Bool :=
  base % 65536 != 0 || !inPartHbm s p base (listArea s p) ||
    (rg s (0x4810 + p) 2 != 0 && overlaps base (listArea s p) (rg s (0x4810 + p) 1) (65536 * rg s (0x4810 + p) 2))

/-- A link that R291 lets no canopy entry name. -/
def canopyLinkBad (s : State) (p l : Nat) : Bool := !(partLinks s p).contains l || rg s (0x3000 + 16 * l) 2 == 1

/-- What R291 refuses. -/
def canopyBad (s : State) (p sub v : Nat) : Bool :=
  let kids := rg s (0x2210 + p) 4
  if sub = 2 ∨ sub = 3 then v != 255 && (canopyLinkBad s p v || bit kids v)
  else if sub = 4 then (List.range 64).any (fun l => bit v l &&
    (canopyLinkBad s p l || rg s (0x2210 + p) 2 == l || rg s (0x2210 + p) 3 == l))
  else false

/-- BRK_CORE names no core (R224). -/
def brkCoreBad (s : State) (v : Nat) : Bool :=
  v != 0xFFFF && (bits v 10 6 != 0 || decide (12 ≤ bits v 4 4 ∨ dies s.variant ≤ bits v 8 2))

/-- What R620 refuses of BOUNCE: ranges that are no multiples of 4,096 or overlap. -/
def bounceBad (val : List Byte) : Bool :=
  let b := fun i => leAt val (16 * i) 8
  let n := fun i => leAt val (16 * i + 8) 8
  (List.range 4).any (fun i => b i % 4096 != 0 || n i % 4096 != 0 ||
    (List.range i).any (fun j => n i != 0 && n j != 0 && overlaps (b i) (n i) (b j) (n j)))

/-- Partitions whose serving sink a session may be (R595, R620). -/
def sinkBad (s : State) (x : Session) (v : Nat) : Bool :=
  (List.range 4).any (fun d => bit v d && !((partitions s).contains d && (bulkParts s x).contains d))

/-- Another session holds a sink that is named. -/
def sinkHeld (s : State) (x : Session) (v : Nat) : Bool :=
  s.sessions.any (fun y => y.id != x.id && (List.range 4).any (fun d => bit v d && bit y.sink d))

/-- The STATE condition of an entry that does not depend on the value. -/
def heldAt (s : State) (x : Session) (idx sub : Nat) : Bool :=
  let (base, _, n) := locate idx
  match base * 256 + sub with
  | 0x210002 => anyPlan s
  | 0x212003 => planState s n == 1 || planState s n == 3
  | 0x221001 => decide (1 ≤ planState s n ∧ planState s n ≤ 4)
  | 0x221002 => decide (1 ≤ planState s n ∧ planState s n ≤ 4)
  | 0x221003 => decide (1 ≤ planState s n ∧ planState s n ≤ 4)
  | 0x221004 => decide (1 ≤ planState s n ∧ planState s n ≤ 4)
  | 0x221005 => decide (1 ≤ planState s n ∧ planState s n ≤ 4)
  | 0x300002 => linkState s n != 0
  | 0x300003 => linkState s n != 0
  | 0x300004 => linkState s n != 0
  | 0x340002 => coordHeld s
  | 0x444002 => ctxState s n != 0 && ctxState s n != 2
  | 0x481001 => decide (1 ≤ planState s n ∧ planState s n ≤ 4) || entriesIn s n [1, 2, 3, 4, 5] != 0
  | 0x481002 => decide (1 ≤ planState s n ∧ planState s n ≤ 4) || entriesIn s n [1, 2, 3, 4, 5] != 0
  | 0x481003 => decide (1 ≤ planState s n ∧ planState s n ≤ 4) || entriesIn s n [1, 2, 3, 4, 5] != 0
  | 0x481004 => decide (1 ≤ planState s n ∧ planState s n ≤ 4) || entriesIn s n [1, 2, 3, 4, 5] != 0
  | 0x604003 => partState s n != 0
  | 0x781002 => rg s 0x6020 1 == 0
  | 0x781003 => rg s 0x6020 1 == 0
  | 0x781004 => rg s 0x6020 1 == 0
  | 0x781005 => rg s 0x6020 1 == 0
  | 0x901005 => !x.h2mEnts.isEmpty || !x.m2hBufs.isEmpty
  | _ => false

/-- The RANGE condition of an entry beside its Range column; a manifest's reserved bytes must be 0 (R10, R458). -/
def badAt (s : State) (x : Session) (idx sub : Nat) (val : List Byte) : Bool :=
  let (base, _, n) := locate idx
  let v := leNat val
  match base * 256 + sub with
  | 0x221002 => canopyBad s n sub v
  | 0x221003 => canopyBad s n sub v
  | 0x221004 => canopyBad s n sub v
  | 0x300002 => v == 1 && rg s idx 3 == 0
  | 0x300003 => v == 0 && (rg s idx 2 == 1 || rg s idx 4 == 2)
  | 0x300004 => v == 2 && rg s idx 3 == 0
  | 0x340002 => coordBad (myCoord s) v
  | 0x444002 => leAt val 7 1 != 0 || leAt val 20 12 != 0 || leAt val 104 56 != 0
  | 0x444004 => decide (dies s.variant * dieHbm ≤ v)
  | 0x481001 => poolBad s n v (rg s idx 2)
  | 0x481002 => poolBad s n (rg s idx 1) v
  | 0x481004 => listBad s n v
  | 0x48100D => decide (v < 2048 * n ∨ 2048 * (n + (partDies s n).length) ≤ v)
  | 0x500002 => decide (v < 1500 ∨ rg s 0x5000 1 < v)
  | 0x604003 => tenantKeyBad s val
  | 0x781002 => brkCoreBad s v
  | 0x901005 => bounceBad val
  | 0x901009 => sinkBad s x v
  | _ => false

/-- A unit under test answers BUSY (R645). -/
def testBusy (s : State) (idx : Nat) : Bool :=
  let (base, k, n) := locate idx
  (k == .link && linkState s n == 6) || (base == 0x4008 && s.hbmTest.isSome)

/-- The status of a SET of an entry without a command of its own (R17). -/
def plainStatus (s : State) (x : Session) (idx sub : Nat) (val : List Byte) : Status :=
  setStatus s x idx sub val (heldAt s x idx sub) (badAt s x idx sub val)
    (idx == 0x9010 && sub == 9 && sinkHeld s x (leNat val)) (testBusy s idx)

/-- An entry is of the W1C kind. -/
def isW1c (e : Entry) : Bool := e.acc.any (fun a => a.1 == .w1c)

/-- The write itself: W1C clears the bits written 1 (R13), the session's own entries go to the session, and CANOPY_PARENT is the
parent in use (R286). -/
def plainWrite (s : State) (x : Session) (idx sub : Nat) (val : List Byte) : State :=
  let v := leNat val
  let base := (locate idx).1
  if idx = 0x9010 then
    match sub with
    | 5 => setSes s { x with bounce := val }
    | 8 => setSes s { x with mask := v }
    | 9 => resumeUnit (flushRecords (setSes s { x with sink := v }))
    | _ => s
  else if idx = 0x7000 ∧ sub = 2 then setSes s { x with logSeek := v }
  else match entry? idx sub with
    | none => s
    | some e =>
      if isW1c e then wr s idx sub (rg s idx sub - (rg s idx sub &&& v))
      else if base = 0x2210 ∧ sub = 2 then wr (wr s idx 2 v) idx 6 v
      else match e.ty with
        | .str _ => wb s idx sub val
        | .blob _ => wb s idx sub val
        | .table _ => wb s idx sub val
        | .num _ => wr s idx sub v
        | .i32 => wr s idx sub v
        | .f32 => wr s idx sub v
        | .bool => wr s idx sub v
        | .enum => wr s idx sub v
        | .inv => s

/-- A SET of an entry without a command of its own. -/
def plainSet (s : State) (ses idx sub : Nat) (val : List Byte) : State :=
  setting s ses idx sub (fun s x => plainStatus s x idx sub val) (fun s x => plainWrite s x idx sub val)

/-! ### Writing: entries with a command of their own -/

/-- The state that a command's outcome holds. -/
def stateOf (s : State) (o : Host.Outcome State Fault Refusal) : State :=
  match o with
  | .next t => t
  | .fault _ => s
  | .refused _ => s

/-- An RW2P write: the value, then a 96-byte signature under the present CHANGE_NONCE (R568, R604). -/
def twoParty (ses idx sub : Nat) (val : List Byte) (s : State) : Host.Outcome State Fault Refusal :=
  execRw2pWrite ses idx sub (val.take (val.length - 96)) (changeNonce s) (if val.length < 96 then [] else val.drop (val.length - 96)) s

/-- LIFECYCLE_NEXT: one write of the Vendor, two of Owner and Operator (R541). -/
def lifecycleWrite (ses : Nat) (val : List Byte) (s : State) : Host.Outcome State Fault Refusal :=
  match sesAt s ses with
  | some x => if x.role = .ow ∨ x.role = .op then twoParty ses 0x6000 2 val s else execLifecycleNext ses val s
  | none => execLifecycleNext ses val s

/-- The effect of a SET on an entry that has a command of its own: that command's. -/
def ownWrite (ses idx sub : Nat) (val : List Byte) (s : State) : Option (Host.Outcome State Fault Refusal) :=
  let (base, _, n) := locate idx
  match base * 256 + sub with
  | 0x200007 => some (execStretchFrac ses val s)
  | 0x200009 => some (execTimingConfigWrite ses 9 val s)
  | 0x20000A => some (execTimingConfigWrite ses 10 val s)
  | 0x20000B => some (execTimingConfigWrite ses 11 val s)
  | 0x20000C => some (execTimingConfigWrite ses 12 val s)
  | 0x210003 => some (execBeatKAt ses val s)
  | 0x212005 => some (execPlanStartBeat ses n val s)
  | 0x300001 => some (execLinkAdmin ses n val s)
  | 0x340001 => some (execMyCoord ses val s)
  | 0x341001 => some (execBundles ses n val s)
  | 0x341002 => some (execRouteTableWrite ses n 0 val s)
  | 0x341003 => some (execRouteTableWrite ses n 1 val s)
  | 0x341004 => some (execRouteTableWrite ses n 2 val s)
  | 0x341005 => some (execRouteTableWrite ses n 3 val s)
  | 0x341006 => some (execRankWindowWrite ses n false val s)
  | 0x341007 => some (execRankWindowWrite ses n true val s)
  | 0x380001 => some (execRankTableWrite ses n val s)
  | 0x440006 => some (execFlashMaint ses val s)
  | 0x480003 => some (execServeMaint ses val s)
  | 0x501005 => some (execSenseState ses val s)
  | 0x600002 => some (lifecycleWrite ses val s)
  | 0x600003 => some (twoParty ses idx sub val s)
  | 0x600004 => some (execOwnerClaim ses val (Config.claimSecret (rb s 0x6000 5)) s)
  | 0x601001 => some (twoParty ses idx sub val s)
  | 0x601002 => some (twoParty ses idx sub val s)
  | 0x601003 => some (twoParty ses idx sub val s)
  | 0x601004 => some (twoParty ses idx sub val s)
  | 0x601005 => some (twoParty ses idx sub val s)
  | 0x602003 => some (twoParty ses idx sub val s)
  | 0x602004 => some (execDebugReq ses val s)
  | 0x602006 => some (execDebugResponse ses val (rb s 0x6010 5) Config.vendorKey s)
  | 0x602007 => some (execDebugClose ses val s)
  | 0x604006 => some (execPartMaint ses n val s)
  | 0x604008 => some (execPartEraseCtx ses n val s)
  | 0x700803 => some (execWarmReset ses val s)
  | 0x700804 => some (execMcReset ses val s)
  | 0x700807 => some (execSlotRetire ses val s)
  | 0x70080A => some (execRetireClear ses val s)
  | 0x701001 => some (execPlanReset ses n val s)
  | 0x781001 => some (execBrkCtl ses val s)
  | 0x901006 => some (execRingWrite ses false val s)
  | 0x901007 => some (execRingWrite ses true val s)
  | _ => none

/-! ### INVOKE by index (R604, R610) -/

/-- The operation that an INVOKE of an entry starts: that of the entry's command. -/
def ownInvoke (ses idx sub : Nat) (arg : List Byte) (s : State) : Option (Host.Outcome State Fault Refusal) :=
  let (base, _, n) := locate idx
  let image := fun k => Config.hostImage k arg
  match base * 256 + sub with
  | 0x100801 => some (execAttest ses arg s)
  | 0x200003 => some (execFreqChange ses s)
  | 0x212002 => some (execPlanLoad ses n arg s)
  | 0x300006 => some (execLinkRetrain ses n s)
  | 0x300007 => some (execLinkSelftest ses n s)
  | 0x400802 => some (execHbmSelftest ses s)
  | 0x440007 => some (execFlashSelftest ses s)
  | 0x444003 => some (execCtxInstall ses n arg s)
  | 0x444005 => some (execCtxGraft ses n s)
  | 0x444006 => some (execCtxRelease ses n s)
  | 0x444007 => some (execCtxErase ses n s)
  | 0x480004 => some (execServeSelftest ses s)
  | 0x600008 => some (execFwUpdate ses arg { bytes := image 0, svn := leNat (image 3), key := image 1, sig := image 2 } s)
  | 0x604004 => some (execPartAssign ses n s)
  | 0x604005 => some (execPartRelease ses n s)
  | 0x604007 => some (execPartScrub ses n s)
  | _ => none

/-- An INVOKE of an entry that starts nothing: NO_INDEX, NO_SUB, ABSENT or DENIED (R13, R17). -/
def plainInvoke (s : State) (ses idx sub : Nat) (arg : List Byte) : State :=
  inSes s ses 3 idx sub (fun s x => answerIn s x 3 idx sub (alsoDenied (invStatus s x idx sub arg 0 false false false) true) [])

/-- DICT_SET (R601), and an INVOKE where the message's header names that operation (R604). -/
def execDictSet (ses idx sub : Nat) (val : List Byte) (s : State) : Host.Outcome State Fault Refusal :=
  done s (if (headOf s ses).any (fun h => h.op == 3) then
      match ownInvoke ses idx sub val s with
      | some o => stateOf s o
      | none => plainInvoke s ses idx sub val
    else match ownWrite ses idx sub val s with
      | some o => stateOf s o
      | none => plainSet s ses idx sub val)

end Sys2Proof.Machine
end

