-- ==== Sys2Proof/Machine/Mxe.lean ====
section
/-! DEFINITION. The matrix engine: MM and its completion (R81 to R121). -/

namespace Sys2Proof.Machine

/-- Start an MM: what it does cycle by cycle is that of its run (R104, R108, R112). -/
def mmStartNow (s : State) (u : Nat) (q : QDesc) : State :=
  let s := countSlip s u q 2
  let x := coreAt s u
  setCore s u { x with mq := x.mq.drop 1, lastMStart := absNow s + 1, mrun := x.mrun ++ [mmBegin q] }

/-- MM (R104, R111). -/
def execMm (u c : Nat) (s : State) : Host.Outcome State Fault Refusal :=
  let t := coreTick s u c
  onCore s u (match mmReady t u with
    | some q => mmStartNow t u q
    | none => t)

/-! ### Completion (R108, R116, R120, R58, R77) -/

/-- Log the single XA_RANGE entry of an operation and count its kinds. The counts rise whether or not the record finds room in the capture
buffer (R630): R77 says "operations that logged" (DESIGN CHOICE). -/
def xaRange (s : State) (u eng : Nat) (q : QDesc) (kind row col : Nat) : State :=
  if kind = 0 then s
  else
    let s := capture s (coreRec s u eng 0x0001 (leBytes 1 kind ++ leBytes 3 row ++ leBytes 3 col ++ leBytes 2 (dTag q.raw)))
    let d := 0x7020 + dieOf u
    let s := if bit kind 0 then bump s d 1 4 0 1 else s
    let s := if bit kind 1 then bump s d 2 4 1 1 else s
    if bit kind 2 then bump s d 3 4 2 1 else s

/-- Index of the first cell with an XA event, in row-major order; 0 where there is none. -/
def firstEvent (l : List Nat) : Nat := (l.findIdx? (fun k => k != 0)).getD 0

/-- Complete the first MM whose signal cycle has come. -/
def mmCompleteNow (s : State) (u : Nat) : State :=
  let x := coreAt s u
  match x.mrun.find? mmDone with
  | none => s
  | some r =>
    let s := setCore s u { x with mrun := x.mrun.filter (fun k => k.d.cnt != r.d.cnt) }
    let s := if r.noop then bump s (0x7840 + dieOf u) 2 6 1 1 else bump s (0x7840 + dieOf u) 1 6 0 1
    let i := firstEvent r.kinds
    xaRange (signalDone s u 5 r.d) u 1 r.d (r.kinds.foldl (· ||| ·) 0) (i / dN r.d.raw) (i % dN r.d.raw)

/-- MM_COMPLETE (R108, R116). -/
def execMmComplete (u c : Nat) (s : State) : Host.Outcome State Fault Refusal :=
  let t := coreTick s u c
  onCore s u (if coreWorks t u then mmCompleteNow t u else t)

end Sys2Proof.Machine
end

