-- ==== Sys2Proof/Machine/Mover.lean ====
section
/-! DEFINITION. The mover: MOV, GATHER, SCATTER, SEND and SENDX, the issue of their units, hand-off, and completion (R313 to R329,
R396 to R402). -/

namespace Sys2Proof.Machine

/-! ### Starting (R314, R325, R401) -/

/-- The head of the mover queue, with this opcode, may start now (R325). -/
def moveReady (s : State) (u opc : Nat) : Option QDesc :=
  match (coreAt s u).dq with
  | [] => none
  | q :: _ => if dOpc q.raw = opc ∧ coreWorks s u ∧ issueOk s q ∧ moveHeld s u q = .free then some q else none

/-- The index list as it stands (R315). -/
def listNow (s : State) (u : Nat) (d : BitVec 512) : List Nat :=
  if dOpc d = 0x30 ∨ isSend d ∨ isNoop d then [] else (List.range (dM d)).map (moveIndex s u d)

/-- Start a mover descriptor; a no-op signals 4 cyc later (R314, R397). -/
def moveStart (s : State) (u opc : Nat) : State :=
  match moveReady s u opc with
  | none => s
  | some q =>
    let c := absNow s
    let s := countSlip s u q 1
    let no := isNoop q.raw
    let m : MoveRun := { d := q, start := c, row := if no then dM q.raw else 0, unit := 0, lastQ := 0, lastWr := if no then c + 3 else 0,
                         logged := false, idx := listNow s u q.raw, handed := if no then dM q.raw else 0 }
    let x := coreAt s u
    setCore s u { x with dq := x.dq.drop 1, drun := x.drun ++ [m], lastD := c + 1 }

/-- MOV (R315, R325). -/
def execMov (u c : Nat) (s : State) : Host.Outcome State Fault Refusal := onCore s u (moveStart (coreTick s u c) u 0x30)

/-- GATHER (R315, R325). -/
def execGather (u c : Nat) (s : State) : Host.Outcome State Fault Refusal := onCore s u (moveStart (coreTick s u c) u 0x31)

/-- SCATTER (R315, R325). -/
def execScatter (u c : Nat) (s : State) : Host.Outcome State Fault Refusal := onCore s u (moveStart (coreTick s u c) u 0x32)

/-- SEND (R397, R401). -/
def execSend (u c : Nat) (s : State) : Host.Outcome State Fault Refusal := onCore s u (moveStart (coreTick s u c) u 0x33)

/-- SENDX (R397, R401). -/
def execSendx (u c : Nat) (s : State) : Host.Outcome State Fault Refusal := onCore s u (moveStart (coreTick s u c) u 0x34)

/-! ### Units (R317, R325, R326) -/

/-- The index of the row in progress, fixed at its first unit: what the list held when the descriptor started, unless it was written
since; whether it was read before that write or after is open, and a free value chooses (R668, log entry 6). -/
def readIndex (s : State) (u : Nat) (m : MoveRun) : Nat × State :=
  let i := m.idx.getD m.row 0
  let j := moveIndex s u m.d.raw m.row
  if m.unit ≠ 0 ∨ j = i then (i, s)
  else
    let r := draw s
    (if r.1.getLsbD 0 then j else i, r.2)

/-- The first unit of the lowest row whose index a line of the list holds: the line's errors are met (R332, R668). -/
def indexLine (s : State) (u : Nat) (m : MoveRun) : State :=
  let d := m.d.raw
  let a := (moveIdx d).2.1 + 4 * m.row
  if m.unit = 0 ∧ dOpc d ≠ 0x30 ∧ !isSend d ∧ (m.row = 0 ∨ a % 64 = 0) then
    readErrors s u 3 (flatAddr u (moveIdx d).1 (a / 64 * 64)) 64 m.d.cnt (dTag d) 0
  else s

/-- Log and count an out-of-range index at the first unit of its row (R317). -/
def indexFault (s : State) (u : Nat) (m : MoveRun) (i : Nat) : State :=
  let s := bump s (0x4010 + dieOf u) 10 12 9 1
  if m.logged then s
  else capture s (coreRec s u 0 0x0207 (leBytes 6 m.d.cnt ++ leBytes 2 (dTag m.d.raw) ++ leBytes 3 m.row ++ leBytes 4 i))

/-- The packet that packet index `p` of a SEND forms of the bytes that its units read (R397). -/
def formPacket (s : State) (u : Nat) (d : BitVec 512) (p : Nat) (b : List Byte) : Packet :=
  { addr := (fld d 300 40 + p * fld d 368 24) % 2 ^ 40, space := fld d 340 4, inc := fld d 425 16, ctr := fld d 418 6,
    cv := fld d 424 1 == 1, len := dN d, ep := fld d 410 8, die := fld d 408 2,
    dest := sendEntry s u d % 2 ^ 24, cls := .plan, ptype := if dOpc d = 0x33 then 1 else 2,
    payload := b }

/-- Read the bytes of one unit, and send those of its destination lines on their way: they are written after the unit's latency (R316, R326). -/
def moveUnit (s : State) (u : Nat) (m : MoveRun) (i : Nat) (empty : Bool) : State :=
  let d := m.d.raw
  let n := rowUnits d m.row i empty
  let a := rowDst d m.row i empty
  let sp := unitSpan (rowSrc d m.row i empty) (srcBytes d) n m.unit
  let dp := unitSpan a (dstBytes d) n m.unit
  let row := rowBytes s u m.d m.row i empty
  let t := if empty ∧ dOpc d = 0x31 then s
    else readErrors s u 3 (flatAddr u (mSSP d) sp.1) (sp.2 - sp.1) m.d.cnt (dTag d) 0
  if empty ∧ dOpc d = 0x32 then t
  else
    let x := coreAt t u
    setCore t u { x with lands := x.lands ++ [{ due := absNow s + unitLat u d, addr := flatAddr u (mDSP d) dp.1, bytes := (row.drop (dp.1 - a)).take (dp.2 - dp.1),
                                                acc := fld d 424 1 == 1, cnt := m.d.cnt, tag := dTag d, pkt := none }] }

/-- Read the bytes of one unit of a SEND; with the last unit of a packet the packet is formed, to be handed off Ls + 4 cycles later (R401). -/
def sendUnit (s : State) (u : Nat) (m : MoveRun) (last : Bool) : State × List Byte :=
  let d := m.d.raw
  let a := flatAddr u (mSSP d) (fld d 256 40 + m.row * fld d 344 24 + 512 * m.unit)
  let n := min 512 (64 * dN d - 512 * m.unit)
  let b := m.buf ++ peek s a n
  let t := readErrors s u 3 a n m.d.cnt (dTag d) 0
  if last then
    let x := coreAt t u
    (setCore t u { x with packets := x.packets ++
      [(absNow s + latRead u (mSSP d) (fld d 256 40) + 4, formPacket s u d m.row b, m.d.cnt, fld d 441 4 + m.row)] }, [])
  else (t, b)

/-- A unit whose transfer between dies has failed its CRC on `n` retries: at 8 D2D_FAIL is logged with the two dies (R631). What reaches the
destination then is not stated: the bytes are taken as read (DESIGN CHOICE, log entry 47). -/
def d2dFail (s : State) (u n : Nat) (ranges : List (Nat × Nat)) : State :=
  match ranges.find? (fun k => dieAt k.1 != dieOf u) with
  | some k => if 8 ≤ n then raise s (pkgRec s 4 0x0705 (leBytes 1 (dieOf u) ++ leBytes 1 (dieAt k.1))) else s
  | none => s

/-- Issue the next unit of the descriptor in progress; `n` are the retries of a transfer between dies. -/
def issueUnit (s : State) (u n : Nat) (m : MoveRun) : State :=
  let d := m.d.raw
  let ri := readIndex s u m
  let i := ri.1
  let e := rowEmpty (coreAt s u) d i
  let ch := unitChannels d m i e.1
  let ac := unitAccesses u d m i e.1
  let c := absNow s
  if c < unitEarliest m ∨ unitHeldUp s u m i then s
  else
    let s := d2dFail (useBanks (useChannels ri.2 ch) ac) u n (unitRanges u d m i e.1)
    let s := [(48, ac.length), (49, 1), (50, ch.length), (52, unitCrossing u d m i e.1)].foldl (fun t k => countAct t (dieOf u) k.1 (dPhase d) k.2) s
    let s := bumpUnits s (0x4010 + dieOf u) 9 12 8 1024 1
    let s := indexLine s u m
    let s := if m.unit = 0 ∧ e.2 then indexFault s u m i else s
    let endRow := m.unit + 1 = rowUnits d m.row i e.1
    let r := if isSend d then sendUnit s u m (decide endRow) else (moveUnit s u m i e.1, [])
    let s := r.1
    let m' : MoveRun := { m with row := if endRow then m.row + 1 else m.row, unit := if endRow then 0 else m.unit + 1, lastQ := c,
                                 lastWr := if isSend d then m.lastWr else c + unitLat u d, logged := m.logged || e.2, idx := m.idx.set m.row i,
                                 buf := r.2 }
    let x := coreAt s u
    setCore s u { x with drun := x.drun.map (fun k => if k.d.cnt = m.d.cnt then m' else k), lastD := c + 1 }

/-- MOVER_UNIT_ISSUE (R325). -/
def execMoverUnitIssue (u : Nat) (c : UnitTick) (s : State) : Host.Outcome State Fault Refusal :=
  let t := coreTick s u c.cyc
  onCore s u (if coreWorks t u then
    match (coreAt t u).drun.find? (fun m => !allIssued m) with
    | some m => issueUnit t u c.retries m
    | none => t
    else t)

/-! ### Hand-off and completion (R326, R401) -/

/-- Hand off the first packet whose read is over and whose link takes it; the cycles that a packet waits for its link are counted as they
pass (R401, R402). -/
def handFirst (s : State) (u : Nat) (before : List (Nat × Packet × Nat × Nat)) : List (Nat × Packet × Nat × Nat) → State
  | [] => s
  | x :: r =>
    if absNow s < x.1 then handFirst s u (before ++ [x]) r
    else match handOff s u x.2.1 x.2.2.2 with
      | none => handFirst s u (before ++ [x]) r
      | some t =>
        let y := coreAt t u
        let ds := y.drun.map (fun m => if m.d.cnt = x.2.2.1 then { m with handed := m.handed + 1, lastWr := absNow t } else m)
        setCore t u { y with packets := before ++ r, drun := ds }

/-- PACKET_HANDOFF (R401, R402). -/
def execPacketHandoff (u c : Nat) (s : State) : Host.Outcome State Fault Refusal :=
  let t := coreTick s u c
  onCore s u (if coreWorks t u then handFirst t u [] (coreAt t u).packets else t)

/-- Complete the first mover descriptor of a kind whose last write or hand-off lies before this cycle. -/
def moveCompleteNow (s : State) (u : Nat) (send : Bool) : State :=
  let x := coreAt s u
  match x.drun.find? (fun m => allIssued m && isSend m.d.raw == send && (!send || decide (dM m.d.raw ≤ m.handed)) &&
      decide (m.lastWr + 1 ≤ absNow s)) with
  | none => s
  | some m =>
    let s := setCore s u { x with drun := x.drun.filter (fun k => k.d.cnt != m.d.cnt) }
    signalDone s u 4 m.d

/-- MOVE_COMPLETE (R326). -/
def execMoveComplete (u c : Nat) (s : State) : Host.Outcome State Fault Refusal :=
  let t := coreTick s u c
  onCore s u (if coreWorks t u then moveCompleteNow t u false else t)

/-- SEND_COMPLETE (R401). -/
def execSendComplete (u c : Nat) (s : State) : Host.Outcome State Fault Refusal :=
  let t := coreTick s u c
  onCore s u (if coreWorks t u then moveCompleteNow t u true else t)

end Sys2Proof.Machine
end

