-- ==== Sys2Proof/Machine/Vxe.lean ====
section
/-! DEFINITION. The vector engine: the start of every VX operation and its completion (R122 to R173); what an operation does cycle by
cycle is in VxeUnit. -/

namespace Sys2Proof.Machine

/-! ### Starting (R137, R164) -/

/-- The head of the VXE queue, with this VOP, may start now (R137, R164). -/
def vxReady (s : State) (u vop : Nat) : Option QDesc :=
  match (coreAt s u).vq with
  | [] => none
  | q :: _ => if vOp q.raw = vop ∧ coreWorks s u ∧ issueOk s q ∧ vxHeld s u q = .free then some q else none

/-- Start the head of the VXE queue, if it has this operation and may start. -/
def vxStart (s : State) (u vop : Nat) : State :=
  match vxReady s u vop with
  | none => s
  | some q =>
    let s := countSlip s u q 3
    let x := coreAt s u
    setCore s u { x with vq := x.vq.drop 1, lastVStart := absNow s + 1, vrun := x.vrun ++ [vxBegin q] }

/-! ### The operations (R143 to R160) -/

/-- ADD (R143). -/
def execAdd (u c : Nat) (s : State) : Host.Outcome State Fault Refusal := onCore s u (vxStart (coreTick s u c) u 0)

/-- MUL (R143). -/
def execMul (u c : Nat) (s : State) : Host.Outcome State Fault Refusal := onCore s u (vxStart (coreTick s u c) u 1)

/-- FMA (R143). -/
def execFma (u c : Nat) (s : State) : Host.Outcome State Fault Refusal := onCore s u (vxStart (coreTick s u c) u 2)

/-- MIN (R145). -/
def execMin (u c : Nat) (s : State) : Host.Outcome State Fault Refusal := onCore s u (vxStart (coreTick s u c) u 3)

/-- MAX (R145). -/
def execMax (u c : Nat) (s : State) : Host.Outcome State Fault Refusal := onCore s u (vxStart (coreTick s u c) u 4)

/-- CMP (R146). -/
def execCmp (u c : Nat) (s : State) : Host.Outcome State Fault Refusal := onCore s u (vxStart (coreTick s u c) u 5)

/-- SEL (R147). -/
def execSel (u c : Nat) (s : State) : Host.Outcome State Fault Refusal := onCore s u (vxStart (coreTick s u c) u 6)

/-- CVT (R148). -/
def execCvt (u c : Nat) (s : State) : Host.Outcome State Fault Refusal := onCore s u (vxStart (coreTick s u c) u 7)

/-- LUT (R154 to R157). -/
def execLut (u c : Nat) (s : State) : Host.Outcome State Fault Refusal := onCore s u (vxStart (coreTick s u c) u 8)

/-- RSUM (R152). -/
def execRsum (u c : Nat) (s : State) : Host.Outcome State Fault Refusal := onCore s u (vxStart (coreTick s u c) u 9)

/-- RDOT (R152). -/
def execRdot (u c : Nat) (s : State) : Host.Outcome State Fault Refusal := onCore s u (vxStart (coreTick s u c) u 10)

/-- RMAX (R153). -/
def execRmax (u c : Nat) (s : State) : Host.Outcome State Fault Refusal := onCore s u (vxStart (coreTick s u c) u 11)

/-- RMIN (R153). -/
def execRmin (u c : Nat) (s : State) : Host.Outcome State Fault Refusal := onCore s u (vxStart (coreTick s u c) u 12)

/-- XADD (R149). -/
def execXadd (u c : Nat) (s : State) : Host.Outcome State Fault Refusal := onCore s u (vxStart (coreTick s u c) u 16)

/-- XSUM (R153). -/
def execXsum (u c : Nat) (s : State) : Host.Outcome State Fault Refusal := onCore s u (vxStart (coreTick s u c) u 17)

/-- QNT (R158). -/
def execQnt (u c : Nat) (s : State) : Host.Outcome State Fault Refusal := onCore s u (vxStart (coreTick s u c) u 24)

/-- DQS (R159). -/
def execDqs (u c : Nat) (s : State) : Host.Outcome State Fault Refusal := onCore s u (vxStart (coreTick s u c) u 25)

/-! ### Completion (R163, R170, R172) -/

/-- Complete the first VX descriptor whose signal cycle has come; the first affected element is named by its row and column. -/
def vxCompleteNow (s : State) (u : Nat) : State :=
  let x := coreAt s u
  match x.vrun.find? (vxDone s.variant) with
  | none => s
  | some r =>
    let s := setCore s u { x with vrun := x.vrun.filter (fun k => k.d.cnt != r.d.cnt) }
    let s := if r.noop then bump s (0x7848 + dieOf u) 2 6 1 1 else bump s (0x7848 + dieOf u) 1 6 0 1
    xaRange (signalDone s u 6 r.d) u 2 r.d r.kind (r.first / dN r.d.raw) (r.first % dN r.d.raw)

/-- VX_COMPLETE (R163). -/
def execVxComplete (u c : Nat) (s : State) : Host.Outcome State Fault Refusal :=
  let t := coreTick s u c
  onCore s u (if coreWorks t u then vxCompleteNow t u else t)

end Sys2Proof.Machine
end

