-- ==== Sys2Proof/Machine/Dispatch.lean ====
section
/-! DEFINITION. The dispatch: one arm per command, each a direct call of that command's meaning. -/

namespace Sys2Proof.Machine

def exec (i : Instr) (s : State) : Host.Outcome State Fault Refusal :=
  match i with
  | .descriptorFetch u c => Sys2Proof.Machine.execDescriptorFetch u c s
  | .descriptorDispatch u c => Sys2Proof.Machine.execDescriptorDispatch u c s
  | .call u c => Sys2Proof.Machine.execCall u c s
  | .ret u c => Sys2Proof.Machine.execRet u c s
  | .callSignal u c => Sys2Proof.Machine.execCallSignal u c s
  | .seed u c => Sys2Proof.Machine.execSeed u c s
  | .hint u c => Sys2Proof.Machine.execHint u c s
  | .mm u c => Sys2Proof.Machine.execMm u c s
  | .mmComplete u c => Sys2Proof.Machine.execMmComplete u c s
  | .add u c => Sys2Proof.Machine.execAdd u c s
  | .mul u c => Sys2Proof.Machine.execMul u c s
  | .fma u c => Sys2Proof.Machine.execFma u c s
  | .min u c => Sys2Proof.Machine.execMin u c s
  | .max u c => Sys2Proof.Machine.execMax u c s
  | .cmp u c => Sys2Proof.Machine.execCmp u c s
  | .sel u c => Sys2Proof.Machine.execSel u c s
  | .cvt u c => Sys2Proof.Machine.execCvt u c s
  | .lut u c => Sys2Proof.Machine.execLut u c s
  | .rsum u c => Sys2Proof.Machine.execRsum u c s
  | .rdot u c => Sys2Proof.Machine.execRdot u c s
  | .rmax u c => Sys2Proof.Machine.execRmax u c s
  | .rmin u c => Sys2Proof.Machine.execRmin u c s
  | .xadd u c => Sys2Proof.Machine.execXadd u c s
  | .xsum u c => Sys2Proof.Machine.execXsum u c s
  | .qnt u c => Sys2Proof.Machine.execQnt u c s
  | .dqs u c => Sys2Proof.Machine.execDqs u c s
  | .vxComplete u c => Sys2Proof.Machine.execVxComplete u c s
  | .mov u c => Sys2Proof.Machine.execMov u c s
  | .gather u c => Sys2Proof.Machine.execGather u c s
  | .scatter u c => Sys2Proof.Machine.execScatter u c s
  | .moverUnitIssue u c => Sys2Proof.Machine.execMoverUnitIssue u c s
  | .moveComplete u c => Sys2Proof.Machine.execMoveComplete u c s
  | .send u c => Sys2Proof.Machine.execSend u c s
  | .sendx u c => Sys2Proof.Machine.execSendx u c s
  | .packetHandoff u c => Sys2Proof.Machine.execPacketHandoff u c s
  | .sendComplete u c => Sys2Proof.Machine.execSendComplete u c s
  | .sync u c => Sys2Proof.Machine.execSync u c s
  | .syncPostApply u c => Sys2Proof.Machine.execSyncPostApply u c s
  | .arrivalApply u c => Sys2Proof.Machine.execArrivalApply u c s
  | .barrier u c => Sys2Proof.Machine.execBarrier u c s
  | .barrierArrive p c => Sys2Proof.Machine.execBarrierArrive p c s
  | .barrierRelease p bid scope node c => Sys2Proof.Machine.execBarrierRelease p bid scope node c s
  | .canopyTimeout p bid scope node => Sys2Proof.Machine.execCanopyTimeout p bid scope node s
  | .step u c => Sys2Proof.Machine.execStep u c s
  | .stepComplete p c => Sys2Proof.Machine.execStepComplete p c s
  | .beatEdge => Sys2Proof.Machine.execBeatEdge s
  | .planStart p => Sys2Proof.Machine.execPlanStart p s
  | .planComplete p => Sys2Proof.Machine.execPlanComplete p s
  | .beatKChange => Sys2Proof.Machine.execBeatKChange s
  | .fstepApply => Sys2Proof.Machine.execFstepApply s
  | .beatsyncSend c => Sys2Proof.Machine.execBeatsyncSend c s
  | .beatsyncRx l m => Sys2Proof.Machine.execBeatsyncRx l m s
  | .fstepRequestRx l n => Sys2Proof.Machine.execFstepRequestRx l n s
  | .fstepAnnounceRx l n atBeat seq => Sys2Proof.Machine.execFstepAnnounceRx l n atBeat seq s
  | .alarmRx l m => Sys2Proof.Machine.execAlarmRx l m s
  | .arriveRx l c a => Sys2Proof.Machine.execArriveRx l c a s
  | .releaseRx l bid c => Sys2Proof.Machine.execReleaseRx l bid c s
  | .faultRecord => Sys2Proof.Machine.execFaultRecord s
  | .hbmPatrol d ch c => Sys2Proof.Machine.execHbmPatrol d ch c s
  | .stretchedCycle d r c => Sys2Proof.Machine.execStretchedCycle d r c s
  | .fifoRange d x occ c => Sys2Proof.Machine.execFifoRange d x occ c s
  | .locking => Sys2Proof.Machine.execLocking s
  | .pllLock us => Sys2Proof.Machine.execPllLock us s
  | .timingLost us => Sys2Proof.Machine.execTimingLost us s
  | .refclkLoss ns => Sys2Proof.Machine.execRefclkLoss ns s
  | .timePps c frac ms => Sys2Proof.Machine.execTimePps c frac ms s
  | .ppsTimeout ms => Sys2Proof.Machine.execPpsTimeout ms s
  | .frameStart l cls c => Sys2Proof.Machine.execFrameStart l cls c s
  | .replaySend l c => Sys2Proof.Machine.execReplaySend l c s
  | .frameForward l c => Sys2Proof.Machine.execFrameForward l c s
  | .dataFrameRx l c str order fr => Sys2Proof.Machine.execDataFrameRx l c str order fr s
  | .keepalive l txLast t => Sys2Proof.Machine.execKeepalive l txLast t s
  | .nak l base miss t => Sys2Proof.Machine.execNak l base miss t s
  | .ident l m t => Sys2Proof.Machine.execIdent l m t s
  | .resume l rxBase txNext t => Sys2Proof.Machine.execResume l rxBase txNext t s
  | .ack l t => Sys2Proof.Machine.execAck l t s
  | .sv2AckTimer l ns => Sys2Proof.Machine.execSv2AckTimer l ns s
  | .keepaliveIdle l ns => Sys2Proof.Machine.execKeepaliveIdle l ns s
  | .ackRefresh l ns => Sys2Proof.Machine.execAckRefresh l ns s
  | .down l ns => Sys2Proof.Machine.execDown l ns s
  | .alignmentLost l n => Sys2Proof.Machine.execAlignmentLost l n s
  | .laneSignalLoss l lane => Sys2Proof.Machine.execLaneSignalLoss l lane s
  | .nakRepeat l ns => Sys2Proof.Machine.execNakRepeat l ns s
  | .replayTimer l seq ns => Sys2Proof.Machine.execReplayTimer l seq ns s
  | .creditTimeout l ns => Sys2Proof.Machine.execCreditTimeout l ns s
  | .holdExpired l ns => Sys2Proof.Machine.execHoldExpired l ns s
  | .trainAttempt l ms => Sys2Proof.Machine.execTrainAttempt l ms s
  | .trainingDone l => Sys2Proof.Machine.execTrainingDone l s
  | .holdRetrainDone l => Sys2Proof.Machine.execHoldRetrainDone l s
  | .rttWindowEnd l meas => Sys2Proof.Machine.execRttWindowEnd l meas s
  | .linkAdmin ses l val => Sys2Proof.Machine.execLinkAdmin ses l val s
  | .linkRetrain ses l => Sys2Proof.Machine.execLinkRetrain ses l s
  | .linkSelftest ses l => Sys2Proof.Machine.execLinkSelftest ses l s
  | .linkSelftestEnd l res => Sys2Proof.Machine.execLinkSelftestEnd l res s
  | .myCoord ses val => Sys2Proof.Machine.execMyCoord ses val s
  | .bundles ses p val => Sys2Proof.Machine.execBundles ses p val s
  | .routeTableWrite ses p dim val => Sys2Proof.Machine.execRouteTableWrite ses p dim val s
  | .rankWindowWrite ses p len val => Sys2Proof.Machine.execRankWindowWrite ses p len val s
  | .rankTableWrite ses q val => Sys2Proof.Machine.execRankTableWrite ses q val s
  | .timingConfigWrite ses sub val => Sys2Proof.Machine.execTimingConfigWrite ses sub val s
  | .stretchFrac ses val => Sys2Proof.Machine.execStretchFrac ses val s
  | .beatKAt ses val => Sys2Proof.Machine.execBeatKAt ses val s
  | .planStartBeat ses p val => Sys2Proof.Machine.execPlanStartBeat ses p val s
  | .brkCtl ses val => Sys2Proof.Machine.execBrkCtl ses val s
  | .planLoad ses p arg => Sys2Proof.Machine.execPlanLoad ses p arg s
  | .planLoadComplete p sigOk => Sys2Proof.Machine.execPlanLoadComplete p sigOk s
  | .planReset ses p val => Sys2Proof.Machine.execPlanReset ses p val s
  | .planResetComplete p us => Sys2Proof.Machine.execPlanResetComplete p us s
  | .dictGet ses idx sub => Sys2Proof.Machine.execDictGet ses idx sub s
  | .dictSet ses idx sub val => Sys2Proof.Machine.execDictSet ses idx sub val s
  | .poll ses h => Sys2Proof.Machine.execPoll ses h s
  | .lock ses => Sys2Proof.Machine.execLock ses s
  | .unlock ses => Sys2Proof.Machine.execUnlock ses s
  | .lockLeaseExpiry ms => Sys2Proof.Machine.execLockLeaseExpiry ms s
  | .handleExpiry h sec => Sys2Proof.Machine.execHandleExpiry h sec s
  | .logRead ses => Sys2Proof.Machine.execLogRead ses s
  | .mbGo len req dict clr ev => Sys2Proof.Machine.execMbGo len req dict clr ev s
  | .h2mTail slot tail ents => Sys2Proof.Machine.execH2mTail slot tail ents s
  | .m2hTail slot tail ents => Sys2Proof.Machine.execM2hTail slot tail ents s
  | .ringWrite ses m2h val => Sys2Proof.Machine.execRingWrite ses m2h val s
  | .hostWrite slot tagOk hr => Sys2Proof.Machine.execHostWrite slot tagOk hr s
  | .hostReadRequest slot tagOk hr => Sys2Proof.Machine.execHostReadRequest slot tagOk hr s
  | .serveCommandRecord slot tagOk hr => Sys2Proof.Machine.execServeCommandRecord slot tagOk hr s
  | .installChunk slot tagOk hr => Sys2Proof.Machine.execInstallChunk slot tagOk hr s
  | .perstN => Sys2Proof.Machine.execPerstN s
  | .mgmtPacketRx l pk => Sys2Proof.Machine.execMgmtPacketRx l pk s
  | .setEndpointId b eid => Sys2Proof.Machine.execSetEndpointId b eid s
  | .getEndpointId b => Sys2Proof.Machine.execGetEndpointId b s
  | .getMctpVersionSupport b => Sys2Proof.Machine.execGetMctpVersionSupport b s
  | .getMessageTypeSupport b => Sys2Proof.Machine.execGetMessageTypeSupport b s
  | .getVendorDefinedMsgSupport b => Sys2Proof.Machine.execGetVendorDefinedMsgSupport b s
  | .getVersion b => Sys2Proof.Machine.execGetVersion b s
  | .getCapabilities b => Sys2Proof.Machine.execGetCapabilities b s
  | .negotiateAlgorithms b => Sys2Proof.Machine.execNegotiateAlgorithms b s
  | .getDigests b => Sys2Proof.Machine.execGetDigests b s
  | .getCertificate b slot off len => Sys2Proof.Machine.execGetCertificate b slot off len s
  | .challenge b nonce => Sys2Proof.Machine.execChallenge b nonce s
  | .getMeasurements b ses nonce => Sys2Proof.Machine.execGetMeasurements b ses nonce s
  | .keyExchange b key vendor mutualOk => Sys2Proof.Machine.execKeyExchange b key vendor mutualOk s
  | .finish b ses ok => Sys2Proof.Machine.execFinish b ses ok s
  | .keyUpdate ses => Sys2Proof.Machine.execKeyUpdate ses s
  | .heartbeat ses => Sys2Proof.Machine.execHeartbeat ses s
  | .endSession ses => Sys2Proof.Machine.execEndSession ses s
  | .submit ses cmd => Sys2Proof.Machine.execSubmit ses cmd s
  | .cancel ses cmd => Sys2Proof.Machine.execCancel ses cmd s
  | .serveMaint ses val => Sys2Proof.Machine.execServeMaint ses val s
  | .serveSelftest ses => Sys2Proof.Machine.execServeSelftest ses s
  | .ctxInstall ses c sigOk => Sys2Proof.Machine.execCtxInstall ses c sigOk s
  | .hostIdle c ms => Sys2Proof.Machine.execHostIdle c ms s
  | .ctxGraft ses c => Sys2Proof.Machine.execCtxGraft ses c s
  | .graftStart sigOk => Sys2Proof.Machine.execGraftStart sigOk s
  | .graftComplete bad ue => Sys2Proof.Machine.execGraftComplete bad ue s
  | .ctxRelease ses c => Sys2Proof.Machine.execCtxRelease ses c s
  | .ctxErase ses c => Sys2Proof.Machine.execCtxErase ses c s
  | .flashMaint ses val => Sys2Proof.Machine.execFlashMaint ses val s
  | .flashSelftest ses => Sys2Proof.Machine.execFlashSelftest ses s
  | .flashSelftestEnd res => Sys2Proof.Machine.execFlashSelftestEnd res s
  | .hbmSelftest ses => Sys2Proof.Machine.execHbmSelftest ses s
  | .hbmSelftestEnd fail => Sys2Proof.Machine.execHbmSelftestEnd fail s
  | .powerFail mv us pwrEn => Sys2Proof.Machine.execPowerFail mv us pwrEn s
  | .holdupEnd mv pwrEn => Sys2Proof.Machine.execHoldupEnd mv pwrEn s
  | .sensorSample d raw hbm => Sys2Proof.Machine.execSensorSample d raw hbm s
  | .calibrationInterval r meas est agreesEst => Sys2Proof.Machine.execCalibrationInterval r meas est agreesEst s
  | .senseOpen r n => Sys2Proof.Machine.execSenseOpen r n s
  | .senseMismatch r n above agreesEst => Sys2Proof.Machine.execSenseMismatch r n above agreesEst s
  | .senseState ses val => Sys2Proof.Machine.execSenseState ses val s
  | .thermtrip b ns => Sys2Proof.Machine.execThermtrip b ns s
  | .tripDiscrepancy us => Sys2Proof.Machine.execTripDiscrepancy us s
  | .capMissTrip avgMw ms => Sys2Proof.Machine.execCapMissTrip avgMw ms s
  | .ownerClaim ses val macOk => Sys2Proof.Machine.execOwnerClaim ses val macOk s
  | .lifecycleNext ses val => Sys2Proof.Machine.execLifecycleNext ses val s
  | .rw2pWrite ses idx sub val nonce sigOk => Sys2Proof.Machine.execRw2pWrite ses idx sub val nonce sigOk s
  | .changeWindowExpiry sec => Sys2Proof.Machine.execChangeWindowExpiry sec s
  | .debugReq ses val => Sys2Proof.Machine.execDebugReq ses val s
  | .debugResponse ses val ownerOk vendorOk => Sys2Proof.Machine.execDebugResponse ses val ownerOk vendorOk s
  | .debugChallengeExpiry sec => Sys2Proof.Machine.execDebugChallengeExpiry sec s
  | .debugClose ses val => Sys2Proof.Machine.execDebugClose ses val s
  | .partAssign ses p => Sys2Proof.Machine.execPartAssign ses p s
  | .partRelease ses p => Sys2Proof.Machine.execPartRelease ses p s
  | .partMaint ses p val => Sys2Proof.Machine.execPartMaint ses p val s
  | .partEraseCtx ses p val => Sys2Proof.Machine.execPartEraseCtx ses p val s
  | .partScrub ses p => Sys2Proof.Machine.execPartScrub ses p s
  | .scrubLinkDrain l us => Sys2Proof.Machine.execScrubLinkDrain l us s
  | .scrubComplete p us bad => Sys2Proof.Machine.execScrubComplete p us bad s
  | .fwUpdate ses arg img => Sys2Proof.Machine.execFwUpdate ses arg img s
  | .attest ses nonce => Sys2Proof.Machine.execAttest ses nonce s
  | .freqChange ses => Sys2Proof.Machine.execFreqChange ses s
  | .slotRetire ses val => Sys2Proof.Machine.execSlotRetire ses val s
  | .retireClear ses val => Sys2Proof.Machine.execRetireClear ses val s
  | .coldStart mv ms pwrEn => Sys2Proof.Machine.execColdStart mv ms pwrEn s
  | .startUpStage ok slots => Sys2Proof.Machine.execStartUpStage ok slots s
  | .moduleRstN level ns => Sys2Proof.Machine.execModuleRstN level ns s
  | .warmReset ses val => Sys2Proof.Machine.execWarmReset ses val s
  | .mcReset ses val => Sys2Proof.Machine.execMcReset ses val s
  | .mcLockstepMismatch => Sys2Proof.Machine.execMcLockstepMismatch s
  | .mcWatchdog ms => Sys2Proof.Machine.execMcWatchdog ms s
  | .mcRestartDone ms => Sys2Proof.Machine.execMcRestartDone ms s
  | .mcFailed ms => Sys2Proof.Machine.execMcFailed ms s
  | .refclkReturn => Sys2Proof.Machine.execRefclkReturn s
  | .tripInputDeassert b us => Sys2Proof.Machine.execTripInputDeassert b us s
  | .envelopeLimit avgMw => Sys2Proof.Machine.execEnvelopeLimit avgMw s
  | .codewordDecodeFailure l => Sys2Proof.Machine.execCodewordDecodeFailure l s
  | .serveSelftestEnd pass => Sys2Proof.Machine.execServeSelftestEnd pass s
  | .flashBlockReturn c => Sys2Proof.Machine.execFlashBlockReturn c s
  | .entdaa addr => Sys2Proof.Machine.execEntdaa addr s

end Sys2Proof.Machine
end

