-- ==== Sys2Proof/Safety.lean ====
section
/-! DEFINITION. What a safe state is and what a command leaves alone, in the terms that the statements use: the invariants that every
command keeps, the fields of the state by name, and the frames over them. -/

namespace Sys2Proof

open Machine

/-- ALERT_N is asserted exactly while a bit of ALERT_STATUS is set (R534, R652). -/
def AlertInv (s : State) : Prop := s.alertN = decide (rg s 0x5008 9 ≠ 0)

/-- The fields of the state. -/
inductive Field where
  | pending | variant | regs | blobs | rems | scrubNum | mem | ecc | beat | cyc | edge | edgePs | holdPs | lastN | lastLen
  | cores | links | parts | chReady | patrol | patrolled | bankUse | faultq | log | logNum | kept | capSeen | sessions
  | asks | lockBy | lockLeft | handles | handleSeq | serve | records | ctxs | grafts | graftRun | flashTest | hbmTest
  | serveTest | change | debugReq | keysBlocked | stateStore | akGen | dice | fuseUds | fuseRoot | fuseFw | ceilReq
  | bsyncAt | fstepSeen | fstepSeq | freqHandle | freqLater | marks | phaseLeft | phaseBad | refLost | ppsSeen | stretchNow
  | stretchHit | fifos | hints | rails | avg1 | avg10 | badSens | ceilUp | ceilDown | sens | hbmTemp | coolant | board
  | act | coreCyc | attr | tripAt | tripped | tripKept | tripCauses | powered | holdup | pwrGood | moduleRst | alertN
  | faultN | railsUp | warmBoot | mcDown | mcDead | mcUpAt | mcFails | heads | msgSeq | mctpFrom | mgmtOut | msixTab
  | msixPba | rrSlot | mbStatus | mbRspLen | mbReqLen | mbReq | mbRsp | evHead | evTail | evFifo | evLost | eids | i3cAddr
  | spdm | fwNext | lmNext | fwRun | fresh | out
  deriving DecidableEq, Repr

/-- Two states agree in a field. -/
def Field.same (f : Field) (s t : State) : Prop :=
  match f with
  | .pending => t.pending = s.pending
  | .variant => t.variant = s.variant
  | .regs => t.regs = s.regs
  | .blobs => t.blobs = s.blobs
  | .rems => t.rems = s.rems
  | .scrubNum => t.scrubNum = s.scrubNum
  | .mem => t.mem = s.mem
  | .ecc => t.ecc = s.ecc
  | .beat => t.beat = s.beat
  | .cyc => t.cyc = s.cyc
  | .edge => t.edge = s.edge
  | .edgePs => t.edgePs = s.edgePs
  | .holdPs => t.holdPs = s.holdPs
  | .lastN => t.lastN = s.lastN
  | .lastLen => t.lastLen = s.lastLen
  | .cores => t.cores = s.cores
  | .links => t.links = s.links
  | .parts => t.parts = s.parts
  | .chReady => t.chReady = s.chReady
  | .patrol => t.patrol = s.patrol
  | .patrolled => t.patrolled = s.patrolled
  | .bankUse => t.bankUse = s.bankUse
  | .faultq => t.faultq = s.faultq
  | .log => t.log = s.log
  | .logNum => t.logNum = s.logNum
  | .kept => t.kept = s.kept
  | .capSeen => t.capSeen = s.capSeen
  | .sessions => t.sessions = s.sessions
  | .asks => t.asks = s.asks
  | .lockBy => t.lockBy = s.lockBy
  | .lockLeft => t.lockLeft = s.lockLeft
  | .handles => t.handles = s.handles
  | .handleSeq => t.handleSeq = s.handleSeq
  | .serve => t.serve = s.serve
  | .records => t.records = s.records
  | .ctxs => t.ctxs = s.ctxs
  | .grafts => t.grafts = s.grafts
  | .graftRun => t.graftRun = s.graftRun
  | .flashTest => t.flashTest = s.flashTest
  | .hbmTest => t.hbmTest = s.hbmTest
  | .serveTest => t.serveTest = s.serveTest
  | .change => t.change = s.change
  | .debugReq => t.debugReq = s.debugReq
  | .keysBlocked => t.keysBlocked = s.keysBlocked
  | .stateStore => t.stateStore = s.stateStore
  | .akGen => t.akGen = s.akGen
  | .dice => t.dice = s.dice
  | .fuseUds => t.fuseUds = s.fuseUds
  | .fuseRoot => t.fuseRoot = s.fuseRoot
  | .fuseFw => t.fuseFw = s.fuseFw
  | .ceilReq => t.ceilReq = s.ceilReq
  | .bsyncAt => t.bsyncAt = s.bsyncAt
  | .fstepSeen => t.fstepSeen = s.fstepSeen
  | .fstepSeq => t.fstepSeq = s.fstepSeq
  | .freqHandle => t.freqHandle = s.freqHandle
  | .freqLater => t.freqLater = s.freqLater
  | .marks => t.marks = s.marks
  | .phaseLeft => t.phaseLeft = s.phaseLeft
  | .phaseBad => t.phaseBad = s.phaseBad
  | .refLost => t.refLost = s.refLost
  | .ppsSeen => t.ppsSeen = s.ppsSeen
  | .stretchNow => t.stretchNow = s.stretchNow
  | .stretchHit => t.stretchHit = s.stretchHit
  | .fifos => t.fifos = s.fifos
  | .hints => t.hints = s.hints
  | .rails => t.rails = s.rails
  | .avg1 => t.avg1 = s.avg1
  | .avg10 => t.avg10 = s.avg10
  | .badSens => t.badSens = s.badSens
  | .ceilUp => t.ceilUp = s.ceilUp
  | .ceilDown => t.ceilDown = s.ceilDown
  | .sens => t.sens = s.sens
  | .hbmTemp => t.hbmTemp = s.hbmTemp
  | .coolant => t.coolant = s.coolant
  | .board => t.board = s.board
  | .act => t.act = s.act
  | .coreCyc => t.coreCyc = s.coreCyc
  | .attr => t.attr = s.attr
  | .tripAt => t.tripAt = s.tripAt
  | .tripped => t.tripped = s.tripped
  | .tripKept => t.tripKept = s.tripKept
  | .tripCauses => t.tripCauses = s.tripCauses
  | .powered => t.powered = s.powered
  | .holdup => t.holdup = s.holdup
  | .pwrGood => t.pwrGood = s.pwrGood
  | .moduleRst => t.moduleRst = s.moduleRst
  | .alertN => t.alertN = s.alertN
  | .faultN => t.faultN = s.faultN
  | .railsUp => t.railsUp = s.railsUp
  | .warmBoot => t.warmBoot = s.warmBoot
  | .mcDown => t.mcDown = s.mcDown
  | .mcDead => t.mcDead = s.mcDead
  | .mcUpAt => t.mcUpAt = s.mcUpAt
  | .mcFails => t.mcFails = s.mcFails
  | .heads => t.heads = s.heads
  | .msgSeq => t.msgSeq = s.msgSeq
  | .mctpFrom => t.mctpFrom = s.mctpFrom
  | .mgmtOut => t.mgmtOut = s.mgmtOut
  | .msixTab => t.msixTab = s.msixTab
  | .msixPba => t.msixPba = s.msixPba
  | .rrSlot => t.rrSlot = s.rrSlot
  | .mbStatus => t.mbStatus = s.mbStatus
  | .mbRspLen => t.mbRspLen = s.mbRspLen
  | .mbReqLen => t.mbReqLen = s.mbReqLen
  | .mbReq => t.mbReq = s.mbReq
  | .mbRsp => t.mbRsp = s.mbRsp
  | .evHead => t.evHead = s.evHead
  | .evTail => t.evTail = s.evTail
  | .evFifo => t.evFifo = s.evFifo
  | .evLost => t.evLost = s.evLost
  | .eids => t.eids = s.eids
  | .i3cAddr => t.i3cAddr = s.i3cAddr
  | .spdm => t.spdm = s.spdm
  | .fwNext => t.fwNext = s.fwNext
  | .lmNext => t.lmNext = s.lmNext
  | .fwRun => t.fwRun = s.fwRun
  | .fresh => t.fresh = s.fresh
  | .out => t.out = s.out

/-- The unit that a command names exists on the module: its core, link, die, partition or serving unit (R1, R19, R546). A command that names none
fits every module. -/
def Fits (s : State) (i : Instr) : Prop :=
  match i with
  | .descriptorFetch u _ | .descriptorDispatch u _ | .call u _ | .ret u _ | .callSignal u _ | .seed u _ | .hint u _ | .mm u _ | .mmComplete u _
  | .add u _ | .mul u _ | .fma u _ | .min u _ | .max u _ | .cmp u _ | .sel u _ | .cvt u _ | .lut u _ | .rsum u _ | .rdot u _ | .rmax u _
  | .rmin u _ | .xadd u _ | .xsum u _ | .qnt u _ | .dqs u _ | .vxComplete u _ | .mov u _ | .gather u _ | .scatter u _ | .moverUnitIssue u _
  | .moveComplete u _ | .send u _ | .sendx u _ | .packetHandoff u _ | .sendComplete u _ | .sync u _ | .syncPostApply u _ | .arrivalApply u _
  | .barrier u _ | .step u _ => u < coresOf s.variant
  | .beatsyncRx l _ | .fstepRequestRx l _ | .fstepAnnounceRx l _ _ _ | .alarmRx l _ | .arriveRx l _ _ | .releaseRx l _ _ | .frameStart l _ _
  | .replaySend l _ | .frameForward l _ | .dataFrameRx l _ _ _ _ | .keepalive l _ _ | .nak l _ _ _ | .ident l _ _ | .resume l _ _ _ | .ack l _
  | .sv2AckTimer l _ | .keepaliveIdle l _ | .ackRefresh l _ | .down l _ | .alignmentLost l _ | .laneSignalLoss l _ | .nakRepeat l _
  | .replayTimer l _ _ | .creditTimeout l _ | .holdExpired l _ | .trainAttempt l _ | .trainingDone l | .holdRetrainDone l | .rttWindowEnd l _
  | .linkSelftestEnd l _ | .mgmtPacketRx (.link l) _ | .scrubLinkDrain l _ => l < linksOf s.variant
  | .mgmtPacketRx .vdm _ | .mgmtPacketRx .i3c _ | .mgmtPacketRx .own _ => True
  | .codewordDecodeFailure m => m.link < linksOf s.variant
  | .barrierArrive p _ | .barrierRelease p _ _ _ _ | .canopyTimeout p _ _ _ | .stepComplete p _ | .planStart p | .planComplete p
  | .planLoadComplete p _ | .planResetComplete p _ | .scrubComplete p _ _ => p ∈ partitions s
  | .sensorSample d _ _ => d < dies s.variant
  | .stretchedCycle d r _ => r < 4 ∧ d < dies s.variant
  | .fifoRange d x _ _ => x < 6 + 2 * dies s.variant ∧ d < dies s.variant
  | .hbmPatrol d ch _ => ch < 64 ∧ d < dies s.variant
  | .serveSelftestEnd .. => hasServe s.variant = true
  | .beatEdge | .beatKChange | .fstepApply | .beatsyncSend .. | .faultRecord | .locking | .pllLock .. | .timingLost .. | .refclkLoss ..
  | .timePps .. | .ppsTimeout .. | .linkAdmin .. | .linkRetrain .. | .linkSelftest .. | .myCoord .. | .bundles .. | .routeTableWrite ..
  | .rankWindowWrite .. | .rankTableWrite .. | .timingConfigWrite .. | .stretchFrac .. | .beatKAt .. | .planStartBeat .. | .brkCtl ..
  | .planLoad .. | .planReset .. | .dictGet .. | .dictSet .. | .poll .. | .lock .. | .unlock .. | .lockLeaseExpiry .. | .handleExpiry ..
  | .logRead .. | .mbGo .. | .h2mTail .. | .m2hTail .. | .ringWrite .. | .hostWrite .. | .hostReadRequest .. | .serveCommandRecord ..
  | .installChunk .. | .perstN | .setEndpointId .. | .getEndpointId .. | .getMctpVersionSupport .. | .getMessageTypeSupport ..
  | .getVendorDefinedMsgSupport .. | .getVersion .. | .getCapabilities .. | .negotiateAlgorithms .. | .getDigests .. | .getCertificate ..
  | .challenge .. | .getMeasurements .. | .keyExchange .. | .finish .. | .keyUpdate .. | .heartbeat .. | .endSession .. | .submit ..
  | .cancel .. | .serveMaint .. | .serveSelftest .. | .ctxInstall .. | .hostIdle .. | .ctxGraft .. | .graftStart .. | .graftComplete ..
  | .ctxRelease .. | .ctxErase .. | .flashMaint .. | .flashSelftest .. | .flashSelftestEnd .. | .hbmSelftest .. | .hbmSelftestEnd ..
  | .powerFail .. | .holdupEnd .. | .calibrationInterval .. | .senseOpen .. | .senseMismatch .. | .senseState .. | .thermtrip ..
  | .tripDiscrepancy .. | .capMissTrip .. | .ownerClaim .. | .lifecycleNext .. | .rw2pWrite .. | .changeWindowExpiry .. | .debugReq ..
  | .debugResponse .. | .debugChallengeExpiry .. | .debugClose .. | .partAssign .. | .partRelease .. | .partMaint .. | .partEraseCtx ..
  | .partScrub .. | .fwUpdate .. | .attest .. | .freqChange .. | .slotRetire .. | .retireClear .. | .coldStart .. | .startUpStage ..
  | .moduleRstN .. | .warmReset .. | .mcReset .. | .mcLockstepMismatch | .mcWatchdog .. | .mcRestartDone .. | .mcFailed .. | .refclkReturn
  | .tripInputDeassert .. | .envelopeLimit .. | .flashBlockReturn .. | .entdaa .. => True

/-- Only the listed fields differ between a state and its next state: the frame of a command. A frame that lists neither `mem` nor
`ecc` leaves every byte of every memory as it was. -/
structure Touches (l : List Field) (s t : State) : Prop where
  same : ∀ f, f ∉ l → f.same s t

/-- Every numeric entry whose key a test does not admit is as it was. -/
def RegsKept (may : Nat → Bool) (s t : State) : Prop := ∀ k, may k = false → kget t.regs k = kget s.regs k

/-- Every STR, BLOB and TABLE entry whose key a test does not admit is as it was. -/
def BlobsKept (may : Nat → Bool) (s t : State) : Prop := ∀ k, may k = false → kget t.blobs k = kget s.blobs k

/-- Every core but one is as it was. -/
def OtherCores (u : Nat) (s t : State) : Prop := ∀ v, v ≠ u → coreAt t v = coreAt s v

/-- Every link but one is as it was. -/
def OtherLinks (l : Nat) (s t : State) : Prop := ∀ k, k ≠ l → linkAt t k = linkAt s k

/-- Every partition but one is as it was. -/
def OtherParts (p : Nat) (s t : State) : Prop := ∀ q, q ≠ p → partAt t q = partAt s q

/-- Every byte reads as it did, errors included, outside `n` bytes from an address. -/
def BytesKept (a n : Nat) (s t : State) : Prop := ∀ b, b < a ∨ a + n ≤ b → mget t.mem b = mget s.mem b

/-- The entries that hold counts of faults, storage errors, exact-arithmetic events, engine work and slips, and their overflow bits:
FAULT_LOG, MEM_ERR, XA events, MXE, VXE, STREAM, slips, SYNC and fabric counts (R77, R120, R172, R224, R235, R255, R337, R416, R648). -/
def countKey (k : Nat) : Bool :=
  k / 256 == 0x7000 || decide (0x4010 ≤ k / 256 ∧ k / 256 < 0x4014) || decide (0x7020 ≤ k / 256 ∧ k / 256 < 0x7024) ||
    decide (0x7840 ≤ k / 256 ∧ k / 256 < 0x7868) || decide (0x3420 ≤ k / 256 ∧ k / 256 < 0x3424)

/-- The fields that the passing of time within a beat may change: the cycle, the cores, memories that are written, and counts and records
(R225). -/
def timeFields : List Field :=
  [.cyc, .cores, .mem, .ecc, .act, .faultq, .capSeen, .regs, .rems, .blobs, .parts, .links, .chReady, .bankUse]

/-- Every storage error that is on record lies in a unit of one of the four dies. -/
def ErrsFitted (s : State) : Prop := ∀ e ∈ s.ecc, dieAt e.1 < 4

/-- The byte memories are in their canonical form, and storage errors lie in units that exist. -/
def MemInv (s : State) : Prop := Memory.wf s.mem ∧ ErrsFitted s

/-- The cores that hold state, the storage errors and the partitions of writes on their way exist. -/
def UnitsFitted (s : State) : Prop :=
  ErrsFitted s ∧ ∀ e ∈ s.cores, dieOf e.1 < 4 ∧ ∀ l ∈ e.2.lands, ∀ k, l.pkt = some k → k.part < 4

/-- What the passing of cycles within a beat may change. Of the cores only those change that have something in progress; memory changes only
where a write is on its way or the VXE writes; of the numeric entries only counts, of the partitions only the mark that a plan fault waits for the
edge, of the links only the receive units that written packets release; no storage error is made. -/
structure TimePassed (s t : State) : Prop where
  fields : Touches timeFields s t
  quiet  : ∀ u, u ∉ busyCores s → coreAt t u = coreAt s u
  memory : (∀ e ∈ s.cores, e.2.lands = [] ∧ e.2.vrun = []) → t.mem = s.mem
  errs   : ∀ e ∈ t.ecc, e ∈ s.ecc
  counts : UnitsFitted s → RegsKept countKey s t
  parts  : ∀ q, ∃ b, partAt t q = { partAt s q with planFault := b }
  links  : ∀ l, ∃ a b c, linkAt t l = { linkAt s l with crSent := a, unsent := b, poolUsed := c }

/-- The fields that a command of a core may change whatever it does: the core itself, counts and records of faults on their way. -/
def coreFields : List Field := [.cores, .faultq, .capSeen, .regs, .parts, .alertN]

/-- The frame of a command of core `u` over the state at its cycle: beside the listed fields only those of `coreFields` may change, of the cores only
`u`, of the numeric entries only counts (for a command that reads storage, where storage errors lie in units that exist), and of the partitions
only the mark that a plan fault waits for the beat edge; no storage error is made. -/
structure CoreFrame (u : Nat) (more : List Field) (s t : State) : Prop where
  fields : Touches (coreFields ++ more) s t
  others : OtherCores u s t
  errs   : ∀ e ∈ t.ecc, e ∈ s.ecc
  counts : (Field.blobs ∈ more → ErrsFitted s) → RegsKept countKey s t
  parts  : ∀ q, ∃ b, partAt t q = { partAt s q with planFault := b }

/-- A count after `n` more events: it stays at 2^48 − 1 once it is reached (R648). -/
def counted (v n : Nat) : Nat := if countMax ≤ v then v else min (v + n) countMax

/-- The entry that holds a slip category of a core: SLIP_QUEUE, SLIP_WAIT, SLIP_PIPE, VXE_HAZARD_SLIP, MXE_TILE_SLIP (R235). -/
def slipEntry (u cat : Nat) : Nat × Nat :=
  if cat = 3 then (0x7848 + dieOf u, 4) else if cat = 4 then (0x7840 + dieOf u, 4) else (0x7858 + dieOf u, cat + 1)

/-- The slip of a descriptor that starts has been counted in its categories, `pipe` being that of the pipeline or hazard conditions (R235). -/
def SlipCounted (u : Nat) (q : QDesc) (pipe : Nat) (s t : State) : Prop :=
  let has := fun (c k : Nat) => rg t (slipEntry u c).1 (slipEntry u c).2 = counted (rg s (slipEntry u c).1 (slipEntry u c).2) k
  has 0 q.lateQ ∧ has 1 (q.lateW + if pipe = 1 then q.lateP else 0) ∧ (pipe ≠ 1 → has pipe q.lateP) ∧ has 4 q.lateT

/-- A VX descriptor and the state after `p` cycles in which nothing else acts and no access waits: each cycle reads and computes, then writes
its results (R163). -/
def vxAt (s : State) (u : Nat) (q : QDesc) : Nat → State × VxRun
  | 0 => (s, vxBegin q)
  | p + 1 =>
    let a := vxAt s u q p
    let b := vxCycle a.1 u a.2
    (vxWrite b.1 u b.2, { b.2 with out := [], outSc := [] })

/-- An MM and the state after `p` cycles in which nothing else acts and no access waits (R108, R109). -/
def mmAt (s : State) (u : Nat) (q : QDesc) : Nat → State × MmRun
  | 0 => (s, mmBegin q)
  | p + 1 => mmCycle (mmAt s u q p).1 u (mmAt s u q p).2

/-- The product of K-step `k` of cell (i, j) of an MM: the elements of A and B, each times its block scale where it has one (R59, R60). -/
def mmTerm (s : State) (u : Nat) (d : BitVec 512) (i j k : Nat) : Val :=
  mulVal (scaledVal (fld d 384 4) (readPacked s (fld d 384 4) (sliceA u d k) i)
      (if fld d 400 1 = 1 then some (readPacked s 9 (scalesA u d (k / 32)) i) else none))
    (scaledVal (fld d 388 4) (readPacked s (fld d 388 4) (sliceB u d k) j)
      (if fld d 401 1 = 1 then some (readPacked s 9 (scalesB u d (k / 32)) j) else none))

/-- The exact sum of a cell under XB: all its products, from +0 or from the element that its tile holds (R55, R84, R85, R98, R99). -/
def mmExactSum (s : State) (u : Nat) (d : BitVec 512) (i j : Nat) : XEl :=
  (List.range (dK d)).foldl (fun e k => XEl.add e (XEl.enter (mmTerm s u d i j k) (sext 10 (fld d 406 10))).1)
    (if mmFresh d then ⟨0, 0⟩ else XEl.load (tileGet (coreAt s u) (mmTile d) (64 * i + j)))

/-- The FP32 sum of a cell: its products in ascending k, each addition rounded once (R88). -/
def mmFloatSum (s : State) (u : Nat) (d : BitVec 512) (i j : Nat) : Nat :=
  (List.range (dK d)).foldl (fun e k => toFormat 0 0 0 false (addVal (decodeVal 0 e) (mmTerm s u d i j k)))
    (if mmFresh d then 0 else tileGet (coreAt s u) (mmTile d) (64 * i + j) % 2 ^ 32)

/-- What a VX destination of m × n elements holds as element `e` (R95, R126, R132). -/
def destElem (s : State) (u o _m n e : Nat) : Nat :=
  let inMem := fun (a i : Nat) =>
    let r := elemSpan (oFmt o) (flatAddr u 0 (offOf (oAddr o) + a * oStride o)) i
    bits (leNat (mread s.mem r.1 r.2)) (i * fmtW (oFmt o) % 8) (fmtW (oFmt o))
  match oKind o with
  | 1 => tileGet (coreAt s u) (oAddr o) (64 * (e / n) + e % n)
  | 2 => vregGet (coreAt s u) (oAddr o + e / 128) (e % 128)
  | 5 => inMem (e / n) (e % n)
  | 6 => inMem (e % n) (e / n)
  | _ => 0

/-- How every VX command starts. Let `t` be the core at the command's cycle. When the head of the VXE queue has this operation and may start
(R164), it leaves the queue and is in progress, with its slip counted; nothing else of the core changes. When nothing may start, the core is
as the passing of time left it. -/
def VxStarts (i : Nat → Nat → Instr) (vop : Nat) : Prop :=
  ∀ (s : State) (u c : Nat), s.powered = true → u < coresOf s.variant →
    let t := coreTick s u c
    let x := coreAt t u
    (∀ q : QDesc, vxReady t u vop = some q →
      ∃ t', exec (i u c) s = .next t' ∧
        coreAt t' u = { x with vq := x.vq.drop 1, lastVStart := absNow t + 1, vrun := x.vrun ++ [vxBegin q] } ∧
        SlipCounted u q 3 t t' ∧ CoreFrame u [] t t') ∧
    (vxReady t u vop = none → ∃ t', exec (i u c) s = .next t' ∧ Touches [.alertN] t t')

/-- What a VX operation computes over its cycles. Each element is read in the streaming cycle of its group, `g` being what was read (R162,
R163); each result is ready D cycles after the last element that it depends on was read, with the code that the operation gives for these elements,
its lookup table and its own draw under stochastic rounding (R68, R140, R143). -/
def VxComputes (vop : Nat) (code : QDesc → List Byte → (Nat → VElem) → Nat → Nat) : Prop :=
  ∀ (s : State) (u : Nat) (q : QDesc), dOpc q.raw = 0x20 → isNoop q.raw = false → vOp q.raw = vop →
    let d := q.raw
    let table := peek s (flatAddr u (spaceOf (oAddr (vS2 d))) (offOf (oAddr (vS2 d)))) 2048
    ∃ g : Nat → VElem,
      (∀ p e, (vxReadGroup s.variant d p).1 ≤ e → e < (vxReadGroup s.variant d p).2 → g e = vxRead (vxAt s u q p).1 u d e) ∧
      ∀ p, (vxCycle (vxAt s u q p).1 u (vxAt s u q p).2).2.out = (vxOutputsAt s.variant d p).map (fun k => (k, code q table g k))

/-- The code of an element-wise result: its value rounded once to the destination's format (R140, R143). -/
def elementCode (f : BitVec 512 → VElem → Val) (q : QDesc) (_ : List Byte) (g : Nat → VElem) (k : Nat) : Nat :=
  toDest q.raw (drawOf q k) (f q.raw (g k))

/-- The value at the root of the fixed seven-level tree over the leaves of output `k` (R150, R151). -/
def treeRoot {α : Type} (d : BitVec 512) (g : Nat → VElem) (k : Nat) (leaf : VElem → α) (comb : α → α → α) (pass : α → α) (zero : α) : α :=
  (treeOf comb pass ((leavesOf d k).map (fun e => leaf (g e)))).headD zero

/-- The code of a reduction's result. -/
def treeCode (leaf : BitVec 512 → VElem → Val) (comb : Val → Val → Val) (pass : Val → Val) (q : QDesc) (_ : List Byte) (g : Nat → VElem) (k : Nat) :
    Nat :=
  toDest q.raw (drawOf q k) (treeRoot q.raw g k (leaf q.raw) comb pass (.fin false 0 0))

/-- A session whose messages are answered: the module is powered, the MC runs, and the session is open (R25, R539). -/
def UpSession (s : State) (ses : Nat) (x : Session) : Prop :=
  s.powered = true ∧ s.mcDown = false ∧ sesAt s ses = some x ∧ x.up = true

/-- A session whose request of an operation is executed: no four others awaited their response when it arrived (R606), and its header is in
order (R604). -/
def OpenSession (s : State) (ses op : Nat) (x : Session) : Prop := UpSession s ses x ∧ fifthAsk s ses = false ∧ headBad s ses op = false

/-- The fields that sending a message in a session may change: what is sent, the mailbox, pending vectors, the session's message number and the
packets that wait for peers (R584, R586, R599). -/
def sendFields : List Field := [.out, .mbStatus, .mbRsp, .mbRspLen, .msixPba, .msgSeq, .mgmtOut]

/-- The fields that answering a dictionary message may change: those of sending it, the lease of the lock, and the requests that wait, with their
headers (R603, R606, R609). -/
def replyFields : List Field := [.lockLeft, .asks, .heads, .alertN] ++ sendFields

/-- Every numeric entry but the listed ones, as index and sub-index, is as it was. -/
def OnlyRegs (l : List (Nat × Nat)) (s t : State) : Prop := ∀ i j, j < 256 → (i, j) ∉ l → rg t i j = rg s i j

/-- A command that carries a SET of an entry goes through: it is answered OK to its session, only the listed fields and those of
answering change, and the rest holds of the next state (R16, R17). -/
def SetTakes (s : State) (i : Instr) (ses idx sub : Nat) (more : List Field) (P : State → Prop) : Prop :=
  ∃ t, exec i s = .next t ∧ Out.msg ses (response s ses 2 idx sub .ok []) ∈ t.out ∧ Touches (more ++ replyFields) s t ∧ P t

/-- A command that carries an INVOKE of an entry goes through: a handle of the type is issued, listed and returned, only the listed
fields and those of issuing and answering change, and the rest holds of the next state and the handle (R610, R611). -/
def InvokeTakes (s : State) (i : Instr) (ses idx sub ty : Nat) (more : List Field) (P : State → Nat → Prop) : Prop :=
  let h := ty * 2 ^ 24 + s.handleSeq
  ∃ t, exec i s = .next t ∧ Out.msg ses (response s ses 3 idx sub .ok (leBytes 4 h)) ∈ t.out ∧ (∃ r ∈ t.handles, r.h = h ∧ ((∀ k ∈ s.handles, k.h ≠ h) → r.ses = ses)) ∧
    Touches (more ++ [.handles, .handleSeq, .regs, .faultq] ++ replyFields) s t ∧ P t h

/-- The fields that sending an event to a session may change (R587, R615). -/
def eventFields : List Field := [.sessions, .evFifo, .evHead, .evTail, .evLost, .out, .msixPba, .msgSeq, .mgmtOut]

/-- A unit of core `u` whose transfer between dies failed its CRC on 8 retries: D2D_FAIL is logged with the two dies while the MC runs, and the
fleet alarm of every RUNNING partition is raised (R631 to R633). -/
structure D2dFailed (u : Nat) (m : MoveRun) (i : Nat) (e : Bool) (s t : State) : Prop where
  fields : Touches (coreFields ++ [.blobs, .chReady, .rems, .fresh, .bankUse, .act, .log, .logNum, .kept, .links] ++ eventFields) s t
  others : OtherCores u s t
  logged : s.mcDown = false → ∃ r ∈ t.log, ∃ k ∈ unitRanges u m.d.raw m i e, dieAt k.1 ≠ dieOf u ∧ r.level = 4 ∧ r.code = 0x0705 ∧
    r.detail = leBytes 1 (dieOf u) ++ leBytes 1 (dieAt k.1)
  alarms : ∀ p ∈ partitions s, planState s p = 3 → (partAt t p).alarm = true

/-- A handle is DONE with a status, and carries a reason and a result (R611). -/
def HandleDone (t : State) (h : Nat) (st : Status) (reason : Nat) (result : List Byte) : Prop :=
  ∃ r ∈ t.handles, r.h = h ∧ r.st = 2 ∧ r.status = st ∧ r.reason = reason ∧ r.result = result

/-- The handle is in the table and the MC runs, so that it can complete. -/
def HandleWaits (s : State) (h : Nat) : Prop := s.mcDown = false ∧ (handleAt s h).isSome = true

/-- The fields that a security log entry may change (R578): its free detail, the log, its count, and what is sent. -/
def secFields : List Field := [.fresh, .blobs, .regs, .faultq] ++ eventFields

/-- The fields that the entry of a scrub may change: those of the partition, its contexts and links, and what the serving commands that waited
change when they are answered (R492, R550, R552, R553). -/
def scrubFields : List Field := [.parts, .stateStore, .grafts, .graftRun, .links, .regs, .handles, .serve, .records, .mem, .ecc, .faultq] ++ eventFields

/-- A trip of a cause has happened: the compute rails are off, FAULT_N is asserted, TRIP_CAUSE holds the cause, and HBM and on-chip
contents, plans and link states are lost (R530, R534, R653). -/
def HasTripped (s t : State) (cause : Nat) : Prop :=
  t.tripped = true ∧ t.railsUp = false ∧ t.pwrGood = false ∧ t.faultN = true ∧ t.tripKept = 2 ∧ rg t 0x5018 2 = cause ∧ t.mem = [] ∧
    t.cores = [] ∧ t.links = [] ∧ t.parts = [] ∧ (∀ p ∈ partitions s, planState t p = 0) ∧ ∀ l, l < linksOf s.variant → linkState t l = 0

/-- The front entry of a slot's H2M ring is due: the module is powered, the ring runs, it is the slot's turn, a buffer is free for the answer, the
record lies in the bounce ranges, and its key is not worn out (R566, R567, R590, R594, R596). -/
def RecordDue (s : State) (slot : Nat) (hdr e : List Byte) (x : Session) : Prop :=
  s.powered = true ∧ slotSes s slot = some x ∧ slotTurn s slot = true ∧ m2hReady x = true ∧ x.errH = 0 ∧ x.recsIn < 2 ^ 32 ∧
    x.h2mEnts.head? = some e ∧ inBounce x (entryAddr e) (max (entryLen e) (48 + recLen hdr)) = true

/-- A record that is due, whose tag verifies over the plaintext `l`, and whose SEQ is the next (R566). -/
def RecordNext (s : State) (slot : Nat) (hdr e : List Byte) (hr : HostRec) (x : Session) (l : List Byte) : Prop :=
  RecordDue s slot hdr e x ∧ recPlain x hdr hr = some l ∧ recSeq hdr = x.seqIn

/-- The command of a record that need not wait: background traffic may reach a write's or a read's range, and the record store has room for what a
serving record is answered with (R308, R309, R492). -/
def RecordGoes (s : State) (slot : Nat) (hdr : List Byte) (hr : HostRec) (l : List Byte) (i : Instr) : Prop :=
  (i = .hostWrite slot hdr hr ∧ bgHeld s (recTarget hdr) l.length = false) ∨
  (i = .hostReadRequest slot hdr hr ∧ bgHeld s (recTarget hdr) (readLen l) = false) ∨
  (i = .serveCommandRecord slot hdr hr ∧ recordRoom s ≠ 0 ∧ ∀ p ∈ partitions s, unitWaits s p = false) ∨
  i = .installChunk slot hdr hr

/-- The next record that a session's M2H ring gets with this content, header first and then the ciphertext and tag under the response direction's
key (R564, R565). -/
def sentRecord (x : Session) (kind target : Nat) (plain : List Byte) : List Byte :=
  let head := leBytes 4 x.id ++ leBytes 1 1 ++ leBytes 1 kind ++ leBytes 2 0 ++ leBytes 8 x.seqOut ++ leBytes 8 target ++
    leBytes 4 plain.length ++ leBytes 4 0
  head ++ Gcm.seal x.dirKeys.2 (recordIv x.dirIvs.2 x.seqOut) head plain

/-- The acknowledgement of a record goes out with a status (R591, R592). -/
def Acknowledged (x : Session) (seq kind : Nat) (st : Status) (t : State) : Prop :=
  Out.mcrec x.id 1 (sentRecord x 1 0 (leBytes 8 seq ++ leBytes 1 st.ctorIdx ++ leBytes 1 kind ++ leBytes 6 0)) ∈ t.out

/-- The fields that taking and acknowledging a record may change (R584, R591, R594 to R596). -/
def ackFields : List Field := [.sessions, .records, .out, .msixPba, .rrSlot, .alertN]

/-- The dictionary message that a command carries: its session, its operation (1 GET, 2 SET, 3 INVOKE), and the index and sub-index that
it names (R600, R601, R604, R610). -/
inductive Carries : Instr → Nat → Nat → Nat → Nat → Prop where
  | timingConfigWrite (ses : Nat) (sub : Nat) (val : List Byte) (hs : 9 ≤ sub ∧ sub ≤ 12) : Carries (.timingConfigWrite ses sub val) ses 2 0x2000 sub
  | stretchFrac (ses : Nat) (val : List Byte) : Carries (.stretchFrac ses val) ses 2 0x2000 7
  | freqChange (ses : Nat) : Carries (.freqChange ses) ses 3 0x2000 3
  | beatKAt (ses : Nat) (val : List Byte) : Carries (.beatKAt ses val) ses 2 0x2100 3
  | planStartBeat (ses : Nat) (p : Nat) (val : List Byte) : Carries (.planStartBeat ses p val) ses 2 (0x2120 + p) 5
  | planLoad (ses : Nat) (p : Nat) (val : List Byte) : Carries (.planLoad ses p val) ses 3 (0x2120 + p) 2
  | planReset (ses : Nat) (p : Nat) (val : List Byte) : Carries (.planReset ses p val) ses 2 (0x7010 + p) 1
  | brkCtl (ses : Nat) (val : List Byte) : Carries (.brkCtl ses val) ses 2 0x7810 1
  | linkAdmin (ses : Nat) (l : Nat) (val : List Byte) : Carries (.linkAdmin ses l val) ses 2 (0x3000 + 16 * l) 1
  | linkRetrain (ses : Nat) (l : Nat) : Carries (.linkRetrain ses l) ses 3 (0x3000 + 16 * l) 6
  | linkSelftest (ses : Nat) (l : Nat) : Carries (.linkSelftest ses l) ses 3 (0x3000 + 16 * l) 7
  | myCoord (ses : Nat) (val : List Byte) : Carries (.myCoord ses val) ses 2 0x3400 1
  | bundles (ses : Nat) (p : Nat) (val : List Byte) : Carries (.bundles ses p val) ses 2 (0x3410 + p) 1
  | routeTableWrite (ses : Nat) (p : Nat) (dim : Nat) (val : List Byte) (hd : dim < 4) : Carries (.routeTableWrite ses p dim val) ses 2 (0x3410 + p) (2 + dim)
  | rankWindowWrite (ses : Nat) (p : Nat) (len : Bool) (val : List Byte) : Carries (.rankWindowWrite ses p len val) ses 2 (0x3410 + p) (if len then 7 else 6)
  | rankTableWrite (ses : Nat) (q : Nat) (val : List Byte) (hq : q < 128) : Carries (.rankTableWrite ses q val) ses 2 (0x3800 + q) 1
  | dictGet (ses : Nat) (idx : Nat) (sub : Nat) : Carries (.dictGet ses idx sub) ses 1 idx sub
  | dictSet (ses : Nat) (idx : Nat) (sub : Nat) (val : List Byte) : Carries (.dictSet ses idx sub val) ses 2 idx sub
  | logRead (ses : Nat) : Carries (.logRead ses) ses 1 0x7000 3
  | ringWrite (ses : Nat) (len : Bool) (val : List Byte) : Carries (.ringWrite ses len val) ses 2 0x9010 (if len then 7 else 6)
  | serveMaint (ses : Nat) (val : List Byte) : Carries (.serveMaint ses val) ses 2 0x4800 3
  | serveSelftest (ses : Nat) : Carries (.serveSelftest ses) ses 3 0x4800 4
  | ctxInstall (ses : Nat) (p : Nat) (arg : List Byte) : Carries (.ctxInstall ses p arg) ses 3 (0x4440 + p) 3
  | ctxGraft (ses : Nat) (p : Nat) : Carries (.ctxGraft ses p) ses 3 (0x4440 + p) 5
  | ctxRelease (ses : Nat) (p : Nat) : Carries (.ctxRelease ses p) ses 3 (0x4440 + p) 6
  | ctxErase (ses : Nat) (p : Nat) : Carries (.ctxErase ses p) ses 3 (0x4440 + p) 7
  | flashMaint (ses : Nat) (val : List Byte) : Carries (.flashMaint ses val) ses 2 0x4400 6
  | flashSelftest (ses : Nat) : Carries (.flashSelftest ses) ses 3 0x4400 7
  | hbmSelftest (ses : Nat) : Carries (.hbmSelftest ses) ses 3 0x4008 2
  | senseState (ses : Nat) (val : List Byte) : Carries (.senseState ses val) ses 2 0x5010 5
  | ownerClaim (ses : Nat) (val secret : List Byte) : Carries (.ownerClaim ses val secret) ses 2 0x6000 4
  | lifecycleNext (ses : Nat) (val : List Byte) : Carries (.lifecycleNext ses val) ses 2 0x6000 2
  | rw2pWrite (ses : Nat) (idx : Nat) (sub : Nat) (val nonce sig : List Byte) : Carries (.rw2pWrite ses idx sub val nonce sig) ses 2 idx sub
  | debugReq (ses : Nat) (val : List Byte) : Carries (.debugReq ses val) ses 2 0x6020 4
  | debugResponse (ses : Nat) (val ownerKey vendorKey : List Byte) : Carries (.debugResponse ses val ownerKey vendorKey) ses 2 0x6020 6
  | debugClose (ses : Nat) (val : List Byte) : Carries (.debugClose ses val) ses 2 0x6020 7
  | partAssign (ses : Nat) (p : Nat) : Carries (.partAssign ses p) ses 3 (0x6040 + p) 4
  | partRelease (ses : Nat) (p : Nat) : Carries (.partRelease ses p) ses 3 (0x6040 + p) 5
  | partMaint (ses : Nat) (p : Nat) (val : List Byte) : Carries (.partMaint ses p val) ses 2 (0x6040 + p) 6
  | partEraseCtx (ses : Nat) (p : Nat) (val : List Byte) : Carries (.partEraseCtx ses p val) ses 2 (0x6040 + p) 8
  | partScrub (ses : Nat) (p : Nat) : Carries (.partScrub ses p) ses 3 (0x6040 + p) 7
  | fwUpdate (ses : Nat) (val : List Byte) (img : FwImage) : Carries (.fwUpdate ses val img) ses 3 0x6000 8
  | attest (ses : Nat) (val : List Byte) : Carries (.attest ses val) ses 3 0x1008 1
  | slotRetire (ses : Nat) (val : List Byte) : Carries (.slotRetire ses val) ses 2 0x7008 7
  | retireClear (ses : Nat) (val : List Byte) : Carries (.retireClear ses val) ses 2 0x7008 10
  | warmReset (ses : Nat) (val : List Byte) : Carries (.warmReset ses val) ses 2 0x7008 3
  | mcReset (ses : Nat) (val : List Byte) : Carries (.mcReset ses val) ses 2 0x7008 4

/-- The entries whose SET carries a signature or MAC, which is checked before the lock (R17, R543, R568, R572). -/
def signedEntries : List (Nat × Nat) := (0x6000, 4) :: (0x6020, 6) :: rw2pEntries

end Sys2Proof
end

