-- ==== Sys2Proof/Certificates/Slice0/Obligations.lean ====
section
/-! DEFINITION. The statements for the provers: what the commands of the module do, family by family, and what every step keeps. In
them `t` is a core's state at the command's cycle with everything settled that was due (coreTick), and a frame names the fields that
may change: what it does not name is as it was. -/

open Sys2Proof Sys2Proof.Machine

/-- The block takes commands first in, first out: one step runs exactly the command at the front of the queue, on the state with the
queue's rest, and a step on an empty queue changes nothing (log entry 2). -/
def Obligations.StepRunsFrontCommand : Prop :=
  (∀ (i : Instr) (s : State), step { s with pending := i :: s.pending } = exec i s) ∧
    (∀ s : State, s.pending = [] → step s = .next s)

/-- What reset leaves (R624, R625, and the default columns of R534, R546, R626): no session, no handle, an empty log, memory with
nothing listed, no plan, partitions IDLE, DEBUG_LEVEL 0, timing in FREERUN at beat 0, every link DISABLED, ALERT_N released. -/
def Obligations.ResetState : Prop :=
  let s := State.reset
  s.pending = [] ∧ s.sessions = [] ∧ s.lockBy = none ∧ s.handles = [] ∧ s.log = [] ∧ s.mem = [] ∧ s.beat = 0 ∧ s.alertN = false ∧
    (∀ p, p < 4 → planState s p = 0) ∧ rg s 0x6020 1 = 0 ∧ timingState s = 0 ∧ (∀ l, l < 64 → linkState s l = 0) ∧
    (∀ u, (coreAt s u).dcount = 0 ∧ (coreAt s u).frames = [] ∧ (coreAt s u).mq = [] ∧ ∀ i, scAt (coreAt s u) i = 0)

/-- Right after reset ALERT_N agrees with ALERT_STATUS (R534). -/
def Obligations.AlertHoldsAtReset : Prop := AlertInv State.reset

/-- ALERT_N is asserted exactly while a bit of ALERT_STATUS is set, from whatever state that holds in, over every step, idle or not
(R534, R652). -/
def Obligations.AlertKeptByEveryStep : Prop := ∀ s t : State, AlertInv s → step s = .next t → AlertInv t

/-- Over every step, idle or not, the byte memories keep their one canonical form (addresses strictly rising, no cell listed at the
value it would read as unlisted), and storage errors stay in units that exist. -/
def Obligations.MemoryFormKeptByEveryStep : Prop := ∀ s t : State, MemInv s → step s = .next t → MemInv t

/-- Every command completes, on every module that has the unit it names, whatever the state and its other operands: exec answers a next state, with
the ordering code (R1) and the commands that wait behind it as they were. A command that names a unit which the module does not have ends in
a fault. What each command does is what the other statements say. -/
def Obligations.CommandsKeepQueueAndVariant : Prop :=
  ∀ (i : Instr) (s : State),
    (Fits s i → ∃ t, exec i s = .next t ∧ t.variant = s.variant ∧ t.pending = s.pending) ∧
    (¬Fits s i → ∃ f, exec i s = .fault f)

/-- A module that has powered down entirely changes no state until a cold start (R658; that a command is taken without effect is the
model's choice, log entry 2). -/
def Obligations.PoweredDownNothingChanges : Prop :=
  ∀ (i : Instr) (s t : State), s.powered = false → (∀ mv ms en, i ≠ .coldStart mv ms en) → exec i s = .next t → t = s

/-- DESCRIPTOR_FETCH (R30, R183, R202, R332): a core that runs, whose prefetch queue has room, whose next fetch is due and whose bank has room
beside what began earlier and the engines' accesses of the cycle, appends the 64 bytes of its next descriptor, read from the routine in LM or from its list; the next
fetch comes 1 cycle later from CM and 2 from KM or LM; a legal CALL above depth 8 puts the routine's descriptors next. When one of the
conditions fails, nothing is fetched. -/
def Obligations.FetchReadsTheNextDescriptor : Prop :=
  ∀ (s : State) (u c : Nat), s.powered = true → u < coresOf s.variant →
    let t := coreTick s u c
    let at_ := fun (p : FetchPos) => if p.lm then lmAddr (clusterOf u) (64 * p.next) else listDesc t u p.next
    let ready := fun (p : FetchPos) => coreRuns t u = true ∧ (coreAt t u).pq.length < 256 ∧ (coreAt t u).nextFetch ≤ absNow t ∧
      fetchRoom t u (coreAt t u).nextFetch (accesses (at_ p) 64) = true
    (∀ (p : FetchPos) (r : List FetchPos), nextPos (segShape t (partOf t u)).2 (coreAt t u).fetch = some (p, r) → ready p →
      let raw := descOf (peek t (at_ p) 64)
      let bad := (eccIn t (at_ p) 64).any (fun e => e.2 == 2)
      let n := if p.lm || listInKM t u then 2 else 1
      ∃ t', exec (.descriptorFetch u c) s = .next t' ∧
        (coreAt t' u).pq = (coreAt t u).pq ++
          [{ raw := raw, lm := p.lm, rep := p.rep, idx := p.next, depth := r.length, ready := absNow t + n, bad := bad }] ∧
        (coreAt t' u).nextFetch = absNow t + n ∧
        (dOpc raw = 1 → bad = false → routineOk t u (fld raw 256 16) = true → r.length < 8 →
          let e := routineEntry t u (fld raw 256 16)
          (coreAt t' u).fetch.head? = some { lm := true, rep := 0, next := bits e 0 14, stop := bits e 0 14 + bits e 14 14 - 1 }) ∧
        (coreAt t' u).held = (coreAt t u).held ∧ (coreAt t' u).sc = (coreAt t u).sc ∧ (coreAt t' u).gen = (coreAt t u).gen ∧
        CoreFrame u [.blobs, .bankUse, .act] t t') ∧
    ((∀ (p : FetchPos) (r : List FetchPos), nextPos (segShape t (partOf t u)).2 (coreAt t u).fetch = some (p, r) → ¬ready p) →
      ∃ t', exec (.descriptorFetch u c) s = .next t' ∧ Touches [.alertN] t t')

/-- DESCRIPTOR_DISPATCH of a legal engine descriptor (R68, R208, R209, R235): taking it adds 1 to the descriptor counter, up to its limit, and
it enters its engine's queue of 32, in which the mover's descriptors keep their entry until the cycle after their last unit's issue (R325), or is
held while that is full, with its count, its expanded bits, the generator state before its draws and
its scheduled cycle; the generator then stands after them. DEBUG_LEVEL is 0, so that no break is armed. -/
def Obligations.DispatchCountsAndQueues : Prop :=
  ∀ (s : State) (u c : Nat) (i : PItem) (r : List PItem) (d : BitVec 512), s.powered = true → u < coresOf s.variant →
    rg s 0x6020 1 = 0 →
    let t := coreTick s u c
    let x := coreAt t u
    let n := min (x.dcount + 1) countMax
    let w := takeItem (countPhase t u) u i
    let w := setCore w u { coreAt w u with phase := dPhase i.raw }
    let q : QDesc := dispatched t u { raw := d, cnt := n, gen := x.gen, lm := i.lm, depth := x.frames.length, disp := absNow t }
    let e := engineOf (dOpc d)
    let moving := (x.drun.filter (fun m => !allIssued m || decide (absNow t ≤ m.lastQ))).length
    let put := fun (k n : Nat) (l : List QDesc) => if e = k ∧ l.length + n < 32 then l ++ [q] else l
    let full := e = 1 ∧ 32 ≤ x.mq.length ∨ e = 2 ∧ 32 ≤ x.vq.length ∨ e = 3 ∧ 32 ≤ x.dq.length + moving ∨ e = 4 ∧ 32 ≤ x.yq.length
    coreRuns t u = true → x.held = none → x.pq = i :: r → headOk t x i = true → i.bad = false →
    checkDesc w u i.lm i.raw = (d, none) → 1 ≤ e → e ≤ 4 →
      ∃ t', exec (.descriptorDispatch u c) s = .next t' ∧
        (coreAt t' u).dcount = n ∧ (coreAt t' u).pq = r ∧ (coreAt t' u).gen = genAfter x.gen (drawsOf d) ∧
        (coreAt t' u).dtag = dispatchTag x d ∧ (coreAt t' u).mq = put 1 0 x.mq ∧ (coreAt t' u).vq = put 2 0 x.vq ∧
        (coreAt t' u).dq = put 3 moving x.dq ∧ (coreAt t' u).yq = put 4 0 x.yq ∧ (full → (coreAt t' u).held = some q) ∧
        (¬full → (coreAt t' u).held = none) ∧ CoreFrame u [.coreCyc, .fresh] t t'

/-- A descriptor that is skipped (R209, R210, R216, R332), because it is illegal or its fetch met an uncorrectable error: it is counted; it enters
no queue, is not held, and changes no tag, frame or generator state. The ILLEGAL_DESC record of an illegal one, with the count, TAG, OPC, code
and depth, goes through the fault capture; a CALL at depth 8 also runs the overflow trap of 16 cycles. -/
def Obligations.IllegalDescriptorIsSkipped : Prop :=
  ∀ (s : State) (u c : Nat) (i : PItem) (r : List PItem), s.powered = true → u < coresOf s.variant →
    rg s 0x6020 1 = 0 →
    let t := coreTick s u c
    let x := coreAt t u
    let n := min (x.dcount + 1) countMax
    let w := takeItem (countPhase t u) u i
    let w := setCore w u { coreAt w u with phase := dPhase i.raw }
    let skipped := fun (t' : State) =>
      (coreAt t' u).dcount = n ∧ (coreAt t' u).mq = x.mq ∧ (coreAt t' u).vq = x.vq ∧ (coreAt t' u).dq = x.dq ∧
        (coreAt t' u).yq = x.yq ∧ (coreAt t' u).held = none ∧ (coreAt t' u).gen = x.gen ∧ (coreAt t' u).dtag = x.dtag ∧
        (coreAt t' u).tag = x.tag ∧ (coreAt t' u).frames = x.frames ∧ (coreAt t' u).outst = x.outst ∧ (coreAt t' u).sc = x.sc ∧
        CoreFrame u [.coreCyc, .fresh] t t'
    coreRuns t u = true → x.held = none → x.pq = i :: r → headOk t x i = true →
    (∀ d code, i.bad = false → checkDesc w u i.lm i.raw = (d, some code) →
      let v := capture w (coreRec w u 0 0x0201 (leBytes 6 n ++ leBytes 2 (dTag i.raw) ++ leBytes 1 (dOpc i.raw) ++
        leBytes 1 code ++ leBytes 1 x.frames.length))
      ∃ t', exec (.descriptorDispatch u c) s = .next t' ∧ skipped t' ∧
        (coreAt t' u).idleTill = absNow t + (if code = 0x14 then 16 else 1) ∧
        (code ≠ 0x14 → t'.faultq = v.faultq) ∧
        (code = 0x14 → rg t' (0x7858 + dieOf u) 5 = counted (rg v (0x7858 + dieOf u) 5) 16 ∧
          rg t' (0x7850 + dieOf u) 2 = counted (rg v (0x7850 + dieOf u) 2) 1)) ∧
    (i.bad = true → ∃ t', exec (.descriptorDispatch u c) s = .next t' ∧ skipped t' ∧ (coreAt t' u).idleTill = absNow t + 1 ∧
      t'.faultq = w.faultq)

/-- CALL and RET (R204, R212 to R214, R235). A CALL that may execute and that no SC56 to SC63 signal holds back opens one frame above those
that are open, with its bases, its six arguments, the eight snapshots as a wait would see them, and the routine's first and last
descriptor; PLAN's deepest call depth follows. A RET that may execute closes the innermost frame and owes its signal in the next
cycle. Each counts its slip; when it may not execute, nothing happens. -/
def Obligations.CallOpensAndRetClosesAFrame : Prop :=
  ∀ (s : State) (u c : Nat) (q : QDesc), s.powered = true → u < coresOf s.variant →
    let t := coreTick s u c
    let x := coreAt t u
    (readyHeld t u 1 = some q → callClear x q.cnt = true →
      ∃ t', exec (.call u c) s = .next t' ∧
        (∃ f : Frame, (coreAt t' u).frames = f :: x.frames ∧ f.cnt = q.cnt ∧
          f.issueBase = (if dIssue q.raw = 0xFFFF then t.cyc else dIssue q.raw) ∧
          f.baseCM = fld q.raw 272 24 ∧ f.baseOC = fld q.raw 296 24 ∧
          f.args = (List.range 6).map (fun i => fld q.raw (320 + 32 * i) 32) ∧
          f.snaps = (List.range 8).map (fun i => (scAt x (56 + i)).toNat) ∧
          f.next = bits (routineEntry t u (fld q.raw 256 16)) 0 14 ∧
          f.last = f.next + bits (routineEntry t u (fld q.raw 256 16)) 14 14 - 1) ∧
        (coreAt t' u).held = none ∧ (coreAt t' u).gen = x.gen ∧ (coreAt t' u).srun = x.srun ∧ (coreAt t' u).sc = x.sc ∧
        rg t' (0x2120 + partOf t u) 9 = max (rg t (0x2120 + partOf t u) 9) (x.frames.length + 1) ∧ SlipCounted u q 1 t t' ∧
        Touches coreFields t t' ∧ OtherCores u t t' ∧ RegsKept (fun k => countKey k || k == rkey (0x2120 + partOf t u) 9) t t') ∧
    (readyHeld t u 1 = none ∨ (readyHeld t u 1 = some q ∧ callClear x q.cnt = false) →
      ∃ t', exec (.call u c) s = .next t' ∧ Touches [.alertN] t t') ∧
    (∀ (f : Frame) (r : List Frame), readyHeld t u 2 = some q → x.frames = f :: r →
      ∃ t', exec (.ret u c) s = .next t' ∧ (coreAt t' u).frames = r ∧ (coreAt t' u).held = none ∧
        (coreAt t' u).srun = x.srun ++ [{ d := q, fin := absNow t + 1 }] ∧ (coreAt t' u).gen = x.gen ∧
        (coreAt t' u).calls = x.calls.map (fun k => if k.cnt = f.cnt then { k with closed := some (absNow t) } else k) ∧
        SlipCounted u q 1 t t' ∧ CoreFrame u [] t t') ∧
    (readyHeld t u 2 = none → ∃ t', exec (.ret u c) s = .next t' ∧ Touches [.alertN] t t')

/-- SEED and HINT (R200, R204, R235, R525). A SEED that may execute replaces the generator state of its core by its SEED field. A HINT that
may execute announces its phase for its die from LEADM1 + 1 beats on and replaces an earlier hint of that beat, but for one that a higher core of
the die executed in the same cycle, and no value that a
plan can see changes. Both leave the stream unit, owe their signal in the next cycle and count their slip; when they may not execute, nothing
happens. -/
def Obligations.SeedAndHintExecute : Prop :=
  ∀ (s : State) (u c : Nat) (q : QDesc), s.powered = true → u < coresOf s.variant →
    let t := coreTick s u c
    let x := coreAt t u
    let y := { x with held := none, idleTill := absNow t + 1, srun := x.srun ++ [{ d := q, fin := absNow t + 1 }] }
    (readyHeld t u 3 = some q →
      ∃ t', exec (.seed u c) s = .next t' ∧ coreAt t' u = { y with gen := q.raw.extractLsb' 256 64 } ∧ SlipCounted u q 1 t t' ∧
        CoreFrame u [] t t') ∧
    (readyHeld t u 3 = none → ∃ t', exec (.seed u c) s = .next t' ∧ Touches [.alertN] t t') ∧
    (readyHeld t u 4 = some q →
      ∃ t', exec (.hint u c) s = .next t' ∧ coreAt t' u = y ∧ SlipCounted u q 1 t t' ∧
        (let n : Hint := { beat := (s.beat + fld q.raw 264 12 + 1) % 2 ^ 48, phase := fld q.raw 256 8, cyc := absNow t, core := u }
         let l := (kget s.hints (dieOf u)).getD []
         ((∃ h ∈ l, h.beat = n.beat ∧ h.cyc = n.cyc ∧ u < h.core) → t'.hints = s.hints) ∧
         ((∀ h ∈ l, h.beat = n.beat → h.cyc = n.cyc → h.core ≤ u) →
           kget t'.hints (dieOf u) = some (l.filter (fun h => h.beat != n.beat) ++ [n]))) ∧
        (∀ d, d ≠ dieOf u → kget t'.hints d = kget s.hints d) ∧
        CoreFrame u [.hints] t t') ∧
    (readyHeld t u 4 = none → ∃ t', exec (.hint u c) s = .next t' ∧ Touches [.alertN] t t')

/-- CALL_SIGNAL (R213, R236). The signal of a closed CALL falls in the cycle after the later of its closing RET and the completion of the
frame's last descriptor, or after it when that cycle is stretched or throttled: it is given to the counter adder, the CALL is no longer outstanding, and its record is gone. Before that cycle
nothing happens. -/
def Obligations.CallSignalFollowsTheLaterEvent : Prop :=
  ∀ (s : State) (u c : Nat) (k : CallRec), s.powered = true → u < coresOf s.variant →
    let t := coreTick s u c
    let x := coreAt t u
    (x.calls.find? (callDue (absNow t)) = some k → stillNow t u = false →
      ∃ t', exec (.callSignal u c) s = .next t' ∧
        (∃ a b, k.closed = some a ∧ k.done = some b ∧ max a b + 1 ≤ absNow t) ∧
        (∀ o ∈ (coreAt t' u).outst, o.cnt ≠ k.cnt) ∧ (∀ g ∈ (coreAt t' u).calls, g.cnt ≠ k.cnt) ∧
        (coreAt t' u).addNow = (if k.sv then insAdd x.addNow { ctr := k.sid, src := 7, inc := k.sinc } else x.addNow) ∧
        CoreFrame u [] t t') ∧
    (stillNow t u = true ∨ (∀ g ∈ x.calls, callDue (absNow t) g = false) →
      ∃ t', exec (.callSignal u c) s = .next t' ∧ Touches [.alertN] t t')

/-- MM (R84, R85, R88, R98, R99, R104, R108 to R111, R235). When the head of the MXE queue may start, it leaves the queue and is in
progress, with its slip counted; else nothing happens. Over its 96 + P cycles an MM within the shape limits, with nothing else at work and no storage
error, gives every cell (i, j) of its tile its result: in XA128 the exact sum of the products under XB, in FP32 the sum rounded at each step in
ascending k. A fresh MM leaves 0 in every other slot and sets the tag; an accumulating one leaves other slots and the tag; other tiles, registers and
memory stay. Its signal cycle comes 96 + P cycles after the start and not before; that of a no-op 4 cycles after. -/
def Obligations.MmWritesItsCells : Prop :=
  (∀ (s : State) (u c : Nat), s.powered = true → u < coresOf s.variant →
    let t := coreTick s u c
    let x := coreAt t u
    (∀ q, mmReady t u = some q → ∃ t', exec (.mm u c) s = .next t' ∧
      coreAt t' u = { x with mq := x.mq.drop 1, lastMStart := absNow t + 1, mrun := x.mrun ++ [mmBegin q] } ∧
      SlipCounted u q 2 t t' ∧ CoreFrame u [] t t') ∧
    (mmReady t u = none → ∃ t', exec (.mm u c) s = .next t' ∧ Touches [.alertN] t t')) ∧
  (∀ (s : State) (u : Nat) (q : QDesc), dOpc q.raw = 0x10 → isNoop q.raw = false → dM q.raw ≤ 128 → dN q.raw ≤ 64 → s.ecc = [] →
    let d := q.raw
    let x := coreAt s u
    let tile := mmTile d
    let w := (mmAt s u q (96 + mmP d)).1
    (∀ i j, i < dM d → j < dN d → tileGet (coreAt w u) tile (64 * i + j) =
      (if mmExact d then XEl.held (mmExactSum s u d i j) else mmFloatSum s u d i j) % 2 ^ 128) ∧
    (∀ i j, i < 128 → j < 64 → ¬(i < dM d ∧ j < dN d) → tileGet (coreAt w u) tile (64 * i + j) =
      if mmFresh d then 0 else tileGet x tile (64 * i + j)) ∧
    (∀ k slot, k < 4 → k ≠ tile → slot < 8192 → tileGet (coreAt w u) k slot = tileGet x k slot) ∧
    tagOf (coreAt w u).tag tile = (if mmFresh d then mkTag (mmExact d) (fld d 406 10) else tagOf x.tag tile) ∧
    (coreAt w u).vreg = x.vreg ∧ (coreAt w u).sc = x.sc ∧ (∀ v, v ≠ u → coreAt w v = coreAt s v) ∧ w.mem = s.mem ∧
    (∀ p, p < 96 + mmP d → mmDone (mmAt s u q p).2 = false) ∧ mmDone (mmAt s u q (96 + mmP d)).2 = true) ∧
  (∀ (s : State) (u : Nat) (q : QDesc) (p : Nat), isNoop q.raw = true →
    (mmAt s u q p).1 = s ∧ (mmDone (mmAt s u q p).2 = true ↔ 4 ≤ p))

/-- The engines' cycle and MM_COMPLETE and VX_COMPLETE (R30, R77, R108, R120, R163, R172, R207, R295). An MM that is alone at work does its cycle where its
accesses find room in the banks; else it waits with those that found none, which count as SLIP_BANK. In a RUNNING partition, and in a cycle that is neither
stretched nor throttled (R236, R237), the first MM or VX whose signal cycle has come ends: it is in progress no more, its descriptor is outstanding no more, its signal goes to the counter adder, and it is counted as an
operation, or as a no-op, with the exact-arithmetic events of its elements. In any other cycle, and while none has come to its signal cycle, nothing
happens. -/
def Obligations.EnginesComplete : Prop :=
  (∀ (s : State) (u : Nat) (r : MmRun), dieOf u < 4 → (coreAt s u).mrun = [r] → (coreAt s u).vrun = [] → r.todo = [] → s.bankUse = [] →
    let left := (serve [] (mmAccesses u r)).2
    let a := mmCycle s u r
    (left = [] → coreAt (engineCycle s u) u = { coreAt a.1 u with mrun := [a.2], vrun := [] } ∧ (engineCycle s u).mem = s.mem) ∧
    (left ≠ [] → coreAt (engineCycle s u) u = { coreAt s u with mrun := [{ r with todo := left, began := absNow s }] } ∧
      rg (engineCycle s u) (0x7858 + dieOf u) 4 = counted (rg s (0x7858 + dieOf u) 4) left.length)) ∧
  (∀ (s : State) (u c : Nat), s.powered = true → u < coresOf s.variant →
    let t := coreTick s u c
    let x := coreAt t u
    let signal := fun (src : Nat) (d : QDesc) => if dSV d.raw then insAdd x.addNow { ctr := dSid d.raw, src := src, inc := dSinc d.raw }
      else x.addNow
    let ended := fun (t' : State) (i src kind : Nat) (d : QDesc) (no : Bool) =>
      (coreAt t' u).outst = x.outst.filter (fun o => o.cnt != d.cnt) ∧ (coreAt t' u).addNow = signal src d ∧
        rg t' (i + dieOf u) (if no then 2 else 1) = counted (rg t (i + dieOf u) (if no then 2 else 1)) 1 ∧
        (∀ k, k < 3 → rg t' (0x7020 + dieOf u) (k + 1) = counted (rg t (0x7020 + dieOf u) (k + 1)) (if bit kind k then 1 else 0)) ∧
        (coreAt t' u).tile = x.tile ∧ (coreAt t' u).vreg = x.vreg ∧ CoreFrame u [] t t'
    (∀ r, coreWorks t u = true → x.mrun.find? mmDone = some r →
      ∃ t', exec (.mmComplete u c) s = .next t' ∧ (coreAt t' u).mrun = x.mrun.filter (fun k => k.d.cnt != r.d.cnt) ∧
        (coreAt t' u).vrun = x.vrun ∧ ended t' 0x7840 5 (r.kinds.foldl (· ||| ·) 0) r.d r.noop) ∧
    (coreWorks t u = false ∨ x.mrun.find? mmDone = none → ∃ t', exec (.mmComplete u c) s = .next t' ∧ Touches [.alertN] t t') ∧
    (∀ r, coreWorks t u = true → x.vrun.find? (vxDone t.variant) = some r →
      ∃ t', exec (.vxComplete u c) s = .next t' ∧ (coreAt t' u).vrun = x.vrun.filter (fun k => k.d.cnt != r.d.cnt) ∧
        (coreAt t' u).mrun = x.mrun ∧ ended t' 0x7848 6 r.kind r.d r.noop) ∧
    (coreWorks t u = false ∨ x.vrun.find? (vxDone t.variant) = none → ∃ t', exec (.vxComplete u c) s = .next t' ∧ Touches [.alertN] t t'))

/-- The element-wise VX operations (R143 to R147, R162, R163): each starts from the head of its queue, and over its cycles computes every element from its sources
as read in the element's streaming cycle: ADD, MUL and FMA are exact with one rounding, MIN and MAX give NaN for a NaN source and order −0 below +0, CMP gives
1.0 or +0, and SEL takes S2 where S1 is neither zero nor NaN. -/
def Obligations.ElementwiseOperations : Prop :=
  let op := fun (i : Nat → Nat → Instr) (vop : Nat) (f : BitVec 512 → VElem → Val) => VxStarts i vop ∧ VxComputes vop (elementCode f)
  op .add 0 (fun d g => addVal (val1 d g) (val2 d g)) ∧ op .mul 1 (fun d g => mulVal (val1 d g) (val2 d g)) ∧
    op .fma 2 (fun d g => addVal (mulVal (val1 d g) (val2 d g)) (val3 d g)) ∧ op .min 3 (fun d g => minVal (val1 d g) (val2 d g)) ∧
    op .max 4 (fun d g => maxVal (val1 d g) (val2 d g)) ∧
    op .cmp 5 (fun d g => if condHolds (vCond d) (val1 d g) (val2 d g) then .fin false 1 0 else .fin false 0 0) ∧
    op .sel 6 (fun d g => if !isNaN (val1 d g) && !isZero (val1 d g) then val2 d g else val3 d g)

/-- The VX reductions (R150 to R153, R163): RSUM and RDOT by the fixed binary tree with FP32 rounding at each node, RDOT over exact products,
RMAX and RMIN over the same tree without rounding, XSUM exactly in XA128 with one rounding at the end; each starts from the head of its queue. -/
def Obligations.Reductions : Prop :=
  let op := fun (i : Nat → Nat → Instr) (vop : Nat) (code : QDesc → List Byte → (Nat → VElem) → Nat → Nat) => VxStarts i vop ∧ VxComputes vop code
  let sum := fun (a b : Val) => toF32 (addVal a b)
  op .rsum 9 (treeCode val1 sum toF32) ∧ op .rdot 10 (treeCode (fun d g => mulVal (val1 d g) (val2 d g)) sum toF32) ∧
    op .rmax 11 (treeCode val1 maxVal id) ∧ op .rmin 12 (treeCode val1 minVal id) ∧
    op .xsum 17 (fun q _ g k => xToDest q.raw (drawOf q k) (treeRoot q.raw g k (fun e => srcX (vS1 q.raw) e.c1) XEl.add id ⟨0, 0⟩))

/-- The VX conversions and exact sums (R48, R148, R149, R154 to R159, R163): CVT converts or copies each element, LUT applies the segment that the
element selects, XADD adds XA128 elements exactly, DQS multiplies by the block scale and rounds once, and QNT writes each block's scale with its
first element and the elements divided by it; each starts from the head of its queue. -/
def Obligations.ConversionsAndExactAdds : Prop :=
  let op := fun (i : Nat → Nat → Instr) (vop : Nat) (code : QDesc → List Byte → (Nat → VElem) → Nat → Nat) => VxStarts i vop ∧ VxComputes vop code
  let scale := fun (d : BitVec 512) (g : Nat → VElem) (k : Nat) => blockScale (oFmt (vD d)) ((blockOf d k).map (fun e => qntVal d (g e)))
  op .cvt 7 (fun q _ g k => (cvtCode q.raw (g k).c1 (drawOf q k)).1) ∧
    op .lut 8 (fun q table g k => toDest q.raw (drawOf q k) (lutVal q.raw table (val1 q.raw (g k)))) ∧
    op .xadd 16 (fun q _ g k => xToDest q.raw (drawOf q k) (XEl.add (srcX (vS1 q.raw) (g k).c1) (srcX (vS2 q.raw) (g k).c2))) ∧
    op .dqs 25 (elementCode dqsVal) ∧
    op .qnt 24 (fun q _ g k => if scale q.raw g k = 255 then 0
      else toFormat (oFmt (vD q.raw)) (dRnd q.raw) (drawOf q k) true (mulVal (qntVal q.raw (g k))
        (.fin false 1 (127 - (scale q.raw g k : Int) + (if oFmt (vD q.raw) = 8 then 6 else 0))))) ∧
    (∀ (s : State) (u : Nat) (q : QDesc), dOpc q.raw = 0x20 → isNoop q.raw = false → vOp q.raw = 24 →
      let d := q.raw
      ∃ g : Nat → VElem,
        (∀ p e, (vxReadGroup s.variant d p).1 ≤ e → e < (vxReadGroup s.variant d p).2 → g e = vxRead (vxAt s u q p).1 u d e) ∧
        ∀ p, (vxCycle (vxAt s u q p).1 u (vxAt s u q p).2).2.outSc = ((vxOutputsAt s.variant d p).filter (blockHead d)).map (fun e =>
          (scaleAddr u d (e / dN d) (e % dN d), scale d g e)))

/-- Where and when a VX destination takes its elements (R95, R98, R132, R140, R162, R163). Over the descriptor's time every element is read in exactly one
cycle, in ascending order, and every output is written in exactly one. Written elements take their codes: in a TILE at slot 64 i + j, in VREG at position e mod
128 of register ADDR + e div 128, in memory packed by rows or by columns; elements not written, other tiles, other registers and every byte outside the packed vectors
stay. With the last ones a tile takes its tag, and elements outside the shape are cleared when it had another. -/
def Obligations.DestinationsTakeTheirElements : Prop :=
  (∀ (v : Variant) (q : QDesc), dOpc q.raw = 0x20 → isNoop q.raw = false →
    let d := q.raw
    let along := fun (f : Nat → List Nat) => ((List.range (vxEnd v (vxBegin q))).map f).flatten
    along (fun p => (List.range ((vxReadGroup v d p).2 - (vxReadGroup v d p).1)).map (fun i => (vxReadGroup v d p).1 + i)) =
      List.range (dM d * dN d) ∧ (along (vxOutputsAt v d)).Perm (List.range (vOutputs d))) ∧
  (∀ (s : State) (u o m n : Nat) (l : List (Nat × Nat)), (l.map Prod.fst).Nodup → (∀ c ∈ l, c.1 < m * n) → oFmt o ≤ 10 →
    let w := l.foldl (fun t c => writeElem t u o m n c) s
    let x := coreAt s u
    let y := coreAt w u
    let width := if oKind o = 1 then 128 else if oKind o = 2 then 32 else fmtW (oFmt o)
    let fits := (oKind o = 1 ∧ m ≤ 128 ∧ n ≤ 64) ∨ oKind o = 2 ∨ (oKind o = 5 ∧ packSize (oFmt o) n ≤ oStride o) ∨
      (oKind o = 6 ∧ packSize (oFmt o) m ≤ oStride o)
    let row := fun (i : Nat) => flatAddr u 0 (offOf (oAddr o) + i * oStride o)
    fits →
      (∀ c ∈ l, destElem w u o m n c.1 = c.2 % 2 ^ width) ∧
      (∀ e, e < m * n → e ∉ l.map Prod.fst → destElem w u o m n e = destElem s u o m n e) ∧
      (oKind o = 1 → w.mem = s.mem ∧ y.vreg = x.vreg ∧ y.tag = x.tag ∧
        ∀ k slot, slot < 8192 → (k = oAddr o → ∀ c ∈ l, slot ≠ 64 * (c.1 / n) + c.1 % n) → tileGet y k slot = tileGet x k slot) ∧
      (oKind o = 2 → w.mem = s.mem ∧ y.tile = x.tile ∧ ∀ k, (∀ c ∈ l, k ≠ oAddr o * 128 + c.1) → kget y.vreg k = kget x.vreg k) ∧
      (oKind o = 5 → y = x ∧ ∀ a, (∀ i, i < m → a < row i ∨ row i + packSize (oFmt o) n ≤ a) → mget w.mem a = mget s.mem a) ∧
      (oKind o = 6 → y = x ∧ ∀ a, (∀ j, j < n → a < row j ∨ row j + packSize (oFmt o) m ≤ a) → mget w.mem a = mget s.mem a)) ∧
  (∀ (s : State) (u o xb m n : Nat), oKind o = 1 → m ≤ 128 → n ≤ 64 →
    let w := tagDest s u o xb m n
    let x := coreAt s u
    let old := tagOf x.tag (oAddr o)
    let new := mkTag (oFmt o == 10) xb
    tagOf (coreAt w u).tag (oAddr o) = new ∧ w.mem = s.mem ∧ (coreAt w u).vreg = x.vreg ∧
      (∀ k slot, slot < 8192 → k ≠ oAddr o → tileGet (coreAt w u) k slot = tileGet x k slot) ∧
      (∀ i j, i < 128 → j < 64 → tileGet (coreAt w u) (oAddr o) (64 * i + j) =
        if old = 0 ∨ old = new ∨ (i < m ∧ j < n) then tileGet x (oAddr o) (64 * i + j) else 0))

/-- Packed vectors (R42): in every format, element i of a packed vector of codes reads back as code i. -/
def Obligations.PackedVectorsReadBack : Prop :=
  ∀ (f : Nat) (l : List Nat) (i : Nat), f ≤ 10 → (∀ k ∈ l, k < 2 ^ fmtW f) → (h : i < l.length) → packGet f (packVec f l) i = l[i]

/-- MOV, GATHER, SCATTER, SEND and SENDX start (R195, R235, R314, R325, R397, R401): the head of the mover queue with this opcode, once it
may start, leaves the queue and is in progress with no row moved, with its slip counted; a no-op has no row to move and signals 4 cycles on.
No byte moves yet; what the index list holds is noted for R668. When none may start, nothing happens. -/
def Obligations.MoverDescriptorsStart : Prop :=
  ∀ (i : Nat → Nat → Instr) (opc : Nat),
    (i, opc) ∈ ([(.mov, 0x30), (.gather, 0x31), (.scatter, 0x32), (.send, 0x33), (.sendx, 0x34)] : List ((Nat → Nat → Instr) × Nat)) →
    ∀ (s : State) (u c : Nat), s.powered = true → u < coresOf s.variant →
      let t := coreTick s u c
      let x := coreAt t u
      (∀ q : QDesc, moveReady t u opc = some q →
        let rows := if isNoop q.raw then dM q.raw else 0
        ∃ t', exec (i u c) s = .next t' ∧
          coreAt t' u = { x with dq := x.dq.drop 1, lastD := absNow t + 1, drun := x.drun ++
            [{ d := q, start := absNow t, row := rows, unit := 0, lastQ := 0, lastWr := if isNoop q.raw then absNow t + 3 else 0,
               logged := false, idx := listNow t u q.raw, handed := rows }] } ∧
          SlipCounted u q 1 t t' ∧ CoreFrame u [] t t') ∧
      (moveReady t u opc = none → ∃ t', exec (i u c) s = .next t' ∧ Touches [.alertN] t t')

/-- MOVER_UNIT_ISSUE of a MOV, GATHER or SCATTER (R295, R303, R304, R306, R315 to R320, R325, R326). When the first descriptor with units left may
issue one, and its channels and banks are free for it behind what goes before (R30), the unit reads its lines of the row (zeros for an empty row of a GATHER) and sends those
of its destination lines on their way, to be written after its latency (nothing for an empty row of a SCATTER); the next unit is the row's
next or the next row's first. A channel accepts its next request 2 cycles on, for each line that the unit takes of it. Memory changes when a
write lands: in its cycle and not before, its bytes are written or added element by element, and every other byte stays. A unit whose transfer
between dies failed its CRC on 8 retries goes on all the same (the model's choice, log entry 47) and logs D2D_FAIL (R631). -/
def Obligations.MoverUnitMovesItsLines : Prop :=
  (∀ (s : State) (u : Nat) (c : UnitTick) (m : MoveRun), s.powered = true → u < coresOf s.variant →
    let t := coreTick s u c.cyc
    let x := coreAt t u
    let d := m.d.raw
    let i := (readIndex t u m).1
    let e := (rowEmpty x d i).1
    let n := rowUnits d m.row i e
    let a := rowDst d m.row i e
    let span := unitSpan a (dstBytes d) n m.unit
    let sent : Landing :=
      { due := absNow t + unitLat u d, addr := flatAddr u (mDSP d) span.1,
        bytes := ((rowBytes t u m.d m.row i e).drop (span.1 - a)).take (span.2 - span.1), acc := fld d 424 1 == 1, cnt := m.d.cnt,
        tag := dTag d, pkt := none }
    let ch := unitChannels d m i e
    let free := unitEarliest m ≤ absNow t ∧ unitHeldUp t u m i = false
    let fails := 8 ≤ c.retries ∧ ∃ k ∈ unitRanges u d m i e, dieAt k.1 ≠ dieOf u
    coreWorks t u = true → x.drun.find? (fun m => !allIssued m) = some m → isSend d = false →
    (free →
      ∃ t', exec (.moverUnitIssue u c) s = .next t' ∧
        (coreAt t' u).lands = x.lands ++ (if e = true ∧ dOpc d = 0x32 then [] else [sent]) ∧
        (∀ k, kget t'.chReady k = if k ∈ ch then some (max ((kget t.chReady k).getD 0) (absNow t) + 2 * ch.count k) else kget t.chReady k) ∧
        (∃ m' : MoveRun, (coreAt t' u).drun = x.drun.map (fun k => if k.d.cnt = m.d.cnt then m' else k) ∧ m'.d = m.d ∧
          (m'.row, m'.unit) = (if m.unit + 1 = n then (m.row + 1, 0) else (m.row, m.unit + 1)) ∧ m'.lastQ = absNow t ∧
          m'.lastWr = absNow t + unitLat u d) ∧
        (¬fails → CoreFrame u [.blobs, .chReady, .rems, .fresh, .bankUse, .act] t t') ∧
        (fails → D2dFailed u m i e t t')) ∧
    (¬free → ∃ t', exec (.moverUnitIssue u c) s = .next t' ∧ Touches [.alertN] t t')) ∧
  (∀ (s : State) (u : Nat) (l : Landing), l.pkt = none →
    let w := (landOne s u l).1
    let new := if l.acc then xaccBytes (peek s l.addr l.bytes.length) l.bytes else l.bytes
    (absNow s < l.due → landOne s u l = (s, some l)) ∧
    (l.due ≤ absNow s → (landOne s u l).2 = none ∧ (∀ k, (h : k < new.length) → mget w.mem (l.addr + k) = new[k]) ∧
      BytesKept l.addr new.length s w ∧ w.cores = s.cores ∧ w.links = s.links))

/-- MOVER_UNIT_ISSUE of a SEND or SENDX (R397, R401): each unit reads its bytes of the packet's source; the last one forms the packet, with the bytes
that its units read, its address, its destination coordinate from the rank table and its type, and it waits for hand-off after the
source's read latency and 4 cycles; the other units form none. No byte of memory changes. -/
def Obligations.SendUnitsFormPackets : Prop :=
  ∀ (s : State) (u : Nat) (c : UnitTick) (m : MoveRun), s.powered = true → u < coresOf s.variant →
    let t := coreTick s u c.cyc
    let x := coreAt t u
    let d := m.d.raw
    let i := (readIndex t u m).1
    let e := (rowEmpty x d i).1
    let read := m.buf ++ peek t (flatAddr u (mSSP d) (fld d 256 40 + m.row * fld d 344 24 + 512 * m.unit)) (min 512 (64 * dN d - 512 * m.unit))
    let last := m.unit + 1 = rowUnits d m.row i e
    let free := unitEarliest m ≤ absNow t ∧ unitHeldUp t u m i = false
    let fails := 8 ≤ c.retries ∧ ∃ k ∈ unitRanges u d m i e, dieAt k.1 ≠ dieOf u
    coreWorks t u = true → x.drun.find? (fun m => !allIssued m) = some m → isSend d = true →
    (free →
      ∃ t', exec (.moverUnitIssue u c) s = .next t' ∧
        (last →
          ∃ at' k v, (coreAt t' u).packets = x.packets ++ [(at', k, m.d.cnt, v)] ∧
            at' = absNow t + latRead u (mSSP d) (fld d 256 40) + 4 ∧ k.payload = read ∧
            k.addr = (fld d 300 40 + m.row * fld d 368 24) % 2 ^ 40 ∧ k.space = fld d 340 4 ∧ k.len = dN d ∧ k.cls = .plan ∧
            k.dest = sendEntry t u d % 2 ^ 24 ∧ k.ptype = (if dOpc d = 0x33 then 1 else 2) ∧ k.die = fld d 408 2 ∧ k.ep = fld d 410 8 ∧
            k.cv = (fld d 424 1 == 1) ∧ k.ctr = fld d 418 6 ∧ k.inc = fld d 425 16 ∧ v = fld d 441 4 + m.row) ∧
        (¬last → (coreAt t' u).packets = x.packets) ∧
        (∃ m' : MoveRun, (coreAt t' u).drun = x.drun.map (fun k => if k.d.cnt = m.d.cnt then m' else k) ∧ m'.d = m.d ∧ m'.lastQ = absNow t ∧
          (m'.row, m'.unit, m'.buf) = (if last then (m.row + 1, 0, []) else (m.row, m.unit + 1, read))) ∧
        (coreAt t' u).lands = x.lands ∧ (¬fails → CoreFrame u [.blobs, .chReady, .rems, .fresh, .bankUse, .act] t t') ∧
        (fails → D2dFailed u m i e t t')) ∧
    (¬free → ∃ t', exec (.moverUnitIssue u c) s = .next t' ∧ Touches [.alertN] t t')

/-- A packet at its destination (R303, R366, R382 to R385, R403 to R405). When a reason of R403 refuses it, it changes no memory and no core, and
PKT_REFUSED counts it. An accepted PLAN packet's write is on its way to its translated address on the core that EP names, and nothing else
changes. Lines of HBM wait for their channels, which counts as slip, and bytes of a bank for its port, which it takes when what began earlier and
the ports of R30 leave room (R30, R295). When W cycles have passed and it is served, the bytes are written (WRITE) or added exactly,
element by element, to what is there (XACC), and every other byte stays; then an increment enters the core's arrival queue, due one cycle
later, or is held while that queue of 64 is full. -/
def Obligations.PacketsAreDeliveredOrRefused : Prop :=
  (∀ (s : State) (p d l ures ush : Nat) (k : Packet), p < 4 →
    let w := deliverPacket s p d l k ures ush
    (∀ pd a, refusal s p k = 0 → boundDie s p k.die = some pd → packetAddr s p k = some a →
      let u := epCore pd k.ep
      let f := flatAddr u k.space a
      let hbm := k.space = 3
      coreAt w u = { coreAt s u with lands := (coreAt s u).lands ++
        [{ due := absNow s + deliverW k.space (dieAt f) d (k.ptype == 2) - (if hbm then 64 else 0), addr := f, bytes := k.payload,
           acc := k.ptype == 2, cnt := 0, tag := 0,
           pkt := some { part := p, link := l, era := (linkAt s l).era, ures := ures, ush := ush, cv := k.cv, ctr := k.ctr, inc := k.inc,
                         ask := k.space == 3, wrote := false } }] } ∧
        OtherCores u s w ∧ Touches [.cores] s w) ∧
    (refusal s p k ≠ 0 → w.mem = s.mem ∧ w.cores = s.cores ∧ rg w (0x3420 + p) 4 = counted (rg s (0x3420 + p) 4) 1)) ∧
  (∀ (s : State) (u : Nat) (l : Landing) (k : PktEnd), dieOf u < 4 → k.part < 4 → l.pkt = some k → l.due ≤ absNow s →
    let w := (landOne s u l).1
    let x := coreAt s u
    let new := if l.acc then xaccBytes (peek s l.addr l.bytes.length) l.bytes else l.bytes
    let ch := channelKeys 3 l.addr (l.addr + l.bytes.length)
    let wants := k.cv = true ∧ planState s (partOf s u) = 3
    let ac := accesses l.addr l.bytes.length
    let served := k.wrote = true ∨ k.port = true ∨ ac = []
    (k.ask = true → channelsReady s ch = true → channelsClear s l.due 4 ch = true →
      (landOne s u l).2 = some { l with due := absNow s + 64, pkt := some { k with ask := false } } ∧ Touches [.chReady] s w) ∧
    (k.ask = true → channelsReady s ch = false ∨ channelsClear s l.due 4 ch = false → (landOne s u l).2 = some l ∧
      rg w (0x7858 + dieOf u) 4 = counted (rg s (0x7858 + dieOf u) 4) 1 ∧ w.mem = s.mem ∧ w.cores = s.cores) ∧
    (k.ask = false → ¬served → landOne s u l = (s, some l)) ∧
    (k.ask = false → ac ≠ [] → k.port = false → k.wrote = false → l ∈ x.lands →
      let g := grantPacket u (fun _ => true) s l
      (bankRoom s u l.due 4 ac = true → { l with pkt := some { k with port := true } } ∈ (coreAt g u).lands ∧ OtherCores u s g ∧
        Touches [.cores, .act, .bankUse] s g) ∧ (bankRoom s u l.due 4 ac = false → g = s)) ∧
    (k.ask = false → k.wrote = false → served →
      (∀ j, (h : j < new.length) → mget w.mem (l.addr + j) = new[j]) ∧ BytesKept l.addr new.length s w ∧
        rg w (0x3420 + k.part) 2 = counted (rg s (0x3420 + k.part) 2) 1) ∧
    (k.ask = false → served → wants → x.arrQ.length < 64 → (landOne s u l).2 = none ∧ OtherCores u s w ∧
      coreAt w u = { x with arrQ := x.arrQ ++ [(⟨k.ctr, k.inc, absNow s + 1, false, 0, 0⟩ : PortInc)] }) ∧
    (k.ask = false → served → wants → 64 ≤ x.arrQ.length → (landOne s u l).2 = some { l with pkt := some { k with wrote := true } } ∧ w.cores = s.cores ∧
      w.links = s.links) ∧
    (k.ask = false → served → ¬wants → (landOne s u l).2 = none ∧ w.cores = s.cores))

/-- PACKET_HANDOFF (R391, R393, R400 to R402). The first packet whose read is over and whose link's PLAN transmit queue of 64 has room is handed to that
queue; a packet to the own rank is delivered here; one without a route is discarded and logged. It waits no more, and it counts as handed
off and as sent; others wait on. When every packet must wait, nothing happens. -/
def Obligations.PacketsAreHandedOff : Prop :=
  ∀ (s : State) (u c : Nat), s.powered = true → u < coresOf s.variant →
    let t := coreTick s u c
    let x := coreAt t u
    let p := partOf t u
    let waits := fun (e : Nat × Packet × Nat × Nat) => absNow t < e.1 ∨ packetWaits t u e = true
    coreWorks t u = true →
    (∀ (at' st : Nat) (k : Packet) (cnt : Nat) (a r : List (Nat × Packet × Nat × Nat)),
      x.packets = a ++ (at', k, cnt, st) :: r → (∀ e ∈ a, waits e) → at' ≤ absNow t →
      let gone := { x with packets := a ++ r, drun := x.drun.map (fun m =>
        if m.d.cnt = cnt then { m with handed := m.handed + 1, lastWr := absNow t } else m) }
      (∀ l, route t p k.dest st .plan = some (some l) → (linkAt t l).planQ.length < 64 →
        ∃ t', exec (.packetHandoff u c) s = .next t' ∧
          linkAt t' l = { linkAt t l with planQ := (linkAt t l).planQ ++ [k] } ∧ OtherLinks l t t' ∧
          coreAt t' u = gone ∧ rg t' (0x3420 + p) 1 = counted (rg t (0x3420 + p) 1) 1 ∧ CoreFrame u [.links, .act] t t') ∧
      (route t p k.dest st .plan = some none →
        ∃ t', exec (.packetHandoff u c) s = .next t' ∧ (coreAt t' u).packets = a ++ r ∧ (coreAt t' u).drun = gone.drun ∧
          (refusal t p k ≠ 0 → coreAt t' u = gone ∧ OtherCores u t t') ∧
          (∀ pd b, refusal t p k = 0 → boundDie t p k.die = some pd → packetAddr t p k = some b →
            let v := epCore pd k.ep
            (coreAt t' v).lands = (coreAt t v).lands ++ [packetWrite t p (dieOf u) 0xFF k 0 0 (flatAddr v k.space b)]) ∧
          rg t' (0x3420 + p) 1 = counted (rg t (0x3420 + p) 1) 1 ∧ Touches (.links :: .act :: coreFields) t t') ∧
      (route t p k.dest st .plan = none →
        ∃ t', exec (.packetHandoff u c) s = .next t' ∧ coreAt t' u = gone ∧ rg t' (0x3420 + p) 1 = counted (rg t (0x3420 + p) 1) 1 ∧
          rg t' (0x3420 + p) 5 = counted (rg t (0x3420 + p) 5) 1 ∧ CoreFrame u [] t t')) ∧
    ((∀ e ∈ x.packets, waits e) → ∃ t', exec (.packetHandoff u c) s = .next t' ∧ Touches [.alertN] t t')

/-- MOVE_COMPLETE and SEND_COMPLETE (R207, R236, R237, R326, R401). In a RUNNING partition, in a cycle that is neither stretched nor throttled, the first mover descriptor whose units have all issued and
whose last write lies before this cycle (for a SEND or SENDX, whose packets have all been handed off) ends: it is in progress no more,
outstanding no more, and its signal goes to the counter adder. When there is none, and in any other cycle, nothing happens. -/
def Obligations.MoverDescriptorsComplete : Prop :=
  ∀ (i : Nat → Nat → Instr) (send : Bool), (i, send) ∈ ([(.moveComplete, false), (.sendComplete, true)] :
      List ((Nat → Nat → Instr) × Bool)) →
    ∀ (s : State) (u c : Nat), s.powered = true → u < coresOf s.variant →
      let t := coreTick s u c
      let x := coreAt t u
      let ends := x.drun.find? (fun m => allIssued m && isSend m.d.raw == send && (!send || decide (dM m.d.raw ≤ m.handed)) &&
        decide (m.lastWr + 1 ≤ absNow t))
      (∀ m : MoveRun, coreWorks t u = true → ends = some m →
        ∃ t', exec (i u c) s = .next t' ∧
          (coreAt t' u).drun = x.drun.filter (fun k => k.d.cnt != m.d.cnt) ∧
          (coreAt t' u).outst = x.outst.filter (fun o => o.cnt != m.d.cnt) ∧
          (coreAt t' u).addNow =
            (if dSV m.d.raw then insAdd x.addNow { ctr := dSid m.d.raw, src := 4, inc := dSinc m.d.raw } else x.addNow) ∧
          CoreFrame u [] t t') ∧
      (coreWorks t u = false ∨ ends = none → ∃ t', exec (i u c) s = .next t' ∧ Touches [.alertN] t t')

/-- SYNC (R235, R269 to R272). The head of the sync engine's queue, once it may start, leaves the queue and posts its increment to every target
core of its mask, in the canopy port of each after the latency of R271; it signals in the next cycle. A no-op posts nothing and
signals 4 cycles on. No other core and no byte changes, and its slip is counted. When none may start, nothing happens. -/
def Obligations.SyncPostsToItsTargets : Prop :=
  ∀ (s : State) (u c : Nat), s.powered = true → u < coresOf s.variant →
    let t := coreTick s u c
    let x := coreAt t u
    (∀ q : QDesc, syncReady t u 0x40 = some q →
      let d := q.raw
      let hit := fun (v : Nat) => decide (v / 16 = fld d 260 2 * 12 + fld d 308 4) && bit (fld d 312 16) (v % 16) && !isNoop d
      let post := fun (v : Nat) => (if hit v then [(⟨fld d 268 6, fld d 280 16, absNow t + postLatency u v, false, u, 0⟩ : PortInc)]
        else [])
      ∃ t', exec (.sync u c) s = .next t' ∧
        coreAt t' u = { x with yq := x.yq.drop 1, lastY := absNow t + 1, canQ := x.canQ ++ post u,
                               yrun := x.yrun ++ [{ d := q, fin := absNow t + (if isNoop d then 4 else 1) }] } ∧
        (∀ v, v ≠ u → coreAt t' v = { coreAt t v with canQ := (coreAt t v).canQ ++ post v }) ∧
        SlipCounted u q 1 t t' ∧ Touches coreFields t t' ∧ RegsKept countKey t t') ∧
    (syncReady t u 0x40 = none → ∃ t', exec (.sync u c) s = .next t' ∧ Touches [.alertN] t t')

/-- SYNC_POST_APPLY and ARRIVAL_APPLY (R263, R265, R272). Of the increments whose cycle has come, the first in the port's order leaves the
port and goes to the counter adder, one in a cycle; a release of a barrier without multi-beat also completes its BARRIER, and a post
counts as applied. A port that has delivered in this cycle, or that has nothing due, does nothing. -/
def Obligations.PortsApplyOneIncrement : Prop :=
  ∀ (s : State) (u c : Nat), s.powered = true → u < coresOf s.variant →
    let t := coreTick s u c
    let x := coreAt t u
    let due := fun (l : List PortInc) => firstInc (l.filter (fun k => decide (k.ready ≤ absNow t)))
    coreWorks t u = true →
    (∀ r, due x.canQ = some r → sourceUsed x 2 = false →
      ∃ t', exec (.syncPostApply u c) s = .next t' ∧ (coreAt t' u).canQ = dropInc x.canQ r ∧
        (coreAt t' u).addNow = insAdd x.addNow { ctr := r.ctr, src := 2, inc := r.inc } ∧
        (coreAt t' u).outst = (if r.comp = 0 then x.outst else x.outst.filter (fun o => o.cnt != r.comp)) ∧
        rg t' (0x7860 + dieOf u) 1 = counted (rg t (0x7860 + dieOf u) 1) (if r.release then 0 else 1) ∧ CoreFrame u [] t t') ∧
    (∀ r, due x.arrQ = some r → sourceUsed x 1 = false →
      ∃ t', exec (.arrivalApply u c) s = .next t' ∧
        coreAt t' u = { x with arrQ := dropInc x.arrQ r, addNow := insAdd x.addNow { ctr := r.ctr, src := 1, inc := r.inc } } ∧
        CoreFrame u [] t t') ∧
    (due x.canQ = none ∨ sourceUsed x 2 = true → ∃ t', exec (.syncPostApply u c) s = .next t' ∧ Touches [.alertN] t t') ∧
    (due x.arrQ = none ∨ sourceUsed x 1 = true → ∃ t', exec (.arrivalApply u c) s = .next t' ∧ Touches [.alertN] t t')

/-- BARRIER, BARRIER_ARRIVE and ARRIVE_RX (R235, R278 to R280, R288). A BARRIER that may start sends its arrival towards the nodes, and with
multi-beat completes in the next cycle; a no-op sends none. The oldest arrival on its way reaches the nodes: it opens an instance where no
open one has its BID; it joins the one that has its BID and node and agrees with it (in a cycle that is stretched for the barrier's node nothing
happens, R236); where at a node that it reaches the first arrival of its
BID does not agree, every instance of either is spoilt. An ARRIVE of a canopy child opens an instance at the package node; one from another link
does nothing. -/
def Obligations.BarrierArrivalsOpenAndJoin : Prop :=
  let netFields := [Field.parts, .links, .out, .alertN]
  (∀ (s : State) (u c : Nat), s.powered = true → u < coresOf s.variant →
    let t := coreTick s u c
    let x := coreAt t u
    let p := partOf t u
    let next := fun (l : List Owed) => { x with yq := x.yq.drop 1, lastY := absNow t + 1, yrun := x.yrun ++ l }
    (∀ q, syncReady t u 0x41 = some q → isNoop q.raw = false →
      ∃ t', exec (.barrier u c) s = .next t' ∧
        (partAt t' p).arrs = (partAt t p).arrs ++ [{ u := u, d := q, cyc := absNow t }] ∧ OtherParts p t t' ∧
        coreAt t' u = next (if bMB q.raw then [{ d := q, fin := absNow t + 1 }] else []) ∧
        rg t' (0x7860 + dieOf u) 2 = counted (rg t (0x7860 + dieOf u) 2) 1 ∧ SlipCounted u q 1 t t' ∧
        Touches coreFields t t' ∧ OtherCores u t t' ∧ RegsKept countKey t t') ∧
    (∀ q, syncReady t u 0x41 = some q → isNoop q.raw = true →
      ∃ t', exec (.barrier u c) s = .next t' ∧ coreAt t' u = next [{ d := q, fin := absNow t + 4 }] ∧ SlipCounted u q 1 t t' ∧
        CoreFrame u [] t t') ∧
    (syncReady t u 0x41 = none → ∃ t', exec (.barrier u c) s = .next t' ∧ Touches [.alertN] t t')) ∧
  (∀ (s : State) (p c : Nat) (r : BArr) (rest : List BArr), s.powered = true → p ∈ partitions s →
    let t := tick s c
    let a := coreArrival t r
    let q := partAt t p
    planState t p = 3 → q.arrs = r :: rest →
    let still := regionStill t (nodeRegion a) = true
    (r.cyc ≤ absNow t → ¬still → (∀ i ∈ q.insts ++ q.reach, i.bid ≠ a.bid) →
      ∃ t', exec (.barrierArrive p c) s = .next t' ∧ (partAt t' p).arrs = rest ∧
        (∃ i, i ∈ (partAt t' p).insts ∧ sameInst i a = true ∧ i.cores = a.cores ∧ i.kids = [] ∧ i.bad = false) ∧
        OtherParts p t t' ∧ Touches netFields t t') ∧
    (∀ i, r.cyc ≤ absNow t → ¬still → q.insts = [i] → sameInst i a = true → (∀ k ∈ q.reach, k.bid = a.bid → sameMasks k a = true) →
      ∃ t' j, exec (.barrierArrive p c) s = .next t' ∧ (partAt t' p).arrs = rest ∧ (partAt t' p).insts = [j] ∧
        j.cores = i.cores ++ a.cores ∧ j.kids = i.kids ∧ j.bad = i.bad ∧ OtherParts p t t' ∧ Touches netFields t t') ∧
    (∀ k level, r.cyc ≤ absNow t → ¬still → level ∈ pathLevels a.scope → firstAt t p a.bid level r.u = some k → sameMasks k a = false →
      ∃ t', exec (.barrierArrive p c) s = .next t' ∧ (partAt t' p).arrs = rest ∧
        (∃ j ∈ (partAt t' p).insts, sameInst j a = true ∧ j.bad = true) ∧
        (∀ j ∈ (partAt t' p).insts, sameInst j k = true → j.bad = true) ∧ t'.cores = t.cores ∧ t'.mem = t.mem) ∧
    (absNow t < r.cyc ∨ still → ∃ t', exec (.barrierArrive p c) s = .next t' ∧ Touches [.alertN] t t')) ∧
  (∀ (s : State) (l c : Nat) (m : Arrive), s.powered = true → l < linksOf s.variant →
    let t := tick s c
    let p := partLow t (l / 16)
    planState t p = 3 →
    (l ∉ canopyKids t p → ∃ t', exec (.arriveRx l c m) s = .next t' ∧ Touches [.alertN] t t') ∧
    (l ∈ canopyKids t p → (∀ i ∈ (partAt t p).insts ++ (partAt t p).reach, i.bid ≠ m.bid) →
      ∃ t' i, exec (.arriveRx l c m) s = .next t' ∧ i ∈ (partAt t' p).insts ∧ i.bid = m.bid ∧ i.scope = m.scope ∧ i.mb = m.mb ∧
        i.cmask = m.cmask ∧ i.kmask = m.kmask ∧ i.dmask = m.dmask ∧ i.kids = [l] ∧ i.cores = [] ∧ i.bad = false ∧
        OtherParts p t t' ∧ Touches netFields t t'))

/-- BARRIER_RELEASE, CANOPY_TIMEOUT and RELEASE_RX (R279 to R282, R284, R287). A release whose cycle has come closes its instance, puts the
participants' increments into their canopy ports and frees their BID, and is counted; before that cycle, and in one that is stretched for the
node (R236), nothing happens. A multi-beat instance
open since 8 edges is closed with no increment at the package that holds the node at the top of its scope, and a fleet alarm is raised; at another
package nothing happens. A RELEASE from the canopy parent goes on to every child link that carries canopy messages, with its ORIGIN and one more
hop, and fixes the release of its BID's fleet instances 32 cycles on; from any other link it does nothing. -/
def Obligations.BarriersEnd : Prop :=
  (∀ (s : State) (p bid scope node c : Nat) (i : BInst) (a : Nat), s.powered = true → p ∈ partitions s →
    let t := tick s c
    let q := partAt t p
    planState t p = 3 → instAt t p bid scope node (fun i => !i.bad) = some i → i.relAt = some a →
    (a ≤ absNow t → regionStill t (nodeRegion i) = false → (i.cores.map (fun k => k.1)).Nodup →
      ∃ t', exec (.barrierRelease p bid scope node c) s = .next t' ∧
        partAt t' p = { q with insts := q.insts.filter (fun k => !sameInst k i), reach := q.reach.filter (fun k => !sameInst k i) } ∧
        OtherParts p t t' ∧
        (∀ k ∈ i.cores, coreAt t' k.1 = { coreAt t k.1 with
          canQ := (coreAt t k.1).canQ ++ [(⟨k.2.2.1, k.2.2.2, absNow t, true, bid, k.2.1⟩ : PortInc)],
          waitBid := (coreAt t k.1).waitBid.filter (fun b => b.1 != bid) }) ∧
        (∀ v, (∀ k ∈ i.cores, k.1 ≠ v) → coreAt t' v = coreAt t v) ∧
        rg t' (0x2210 + p) 7 = counted (rg t (0x2210 + p) 7) 1 ∧ Touches [.cores, .parts, .regs, .faultq, .alertN] t t') ∧
    (absNow t < a ∨ regionStill t (nodeRegion i) = true → ∃ t', exec (.barrierRelease p bid scope node c) s = .next t' ∧ Touches [.alertN] t t')) ∧
  (∀ (s : State) (p bid scope node : Nat) (i : BInst), s.powered = true → p ∈ partitions s → planState s p = 3 →
    instAt s p bid scope node (fun i => i.mb && decide (8 ≤ beatDiff s.beat i.beat)) = some i →
    (topHere s p scope = true →
      ∃ t', exec (.canopyTimeout p bid scope node) s = .next t' ∧
        (partAt t' p).insts = (partAt s p).insts.filter (fun k => !sameInst k i) ∧ (partAt t' p).alarm = true ∧ t'.cores = s.cores ∧
        t'.mem = s.mem) ∧
    (topHere s p scope = false → ∃ t', exec (.canopyTimeout p bid scope node) s = .next t' ∧ Touches [.alertN] s t')) ∧
  (∀ (s : State) (l c : Nat) (m : ReleaseMsg), s.powered = true → l < linksOf s.variant →
    let t := tick s c
    let p := partLow t (l / 16)
    planState t p = 3 →
    (canopyParent t p = some l → ∃ t', exec (.releaseRx l m c) s = .next t' ∧
      (partAt t' p).insts = (partAt t p).insts.map (fun i =>
        if i.bid == m.bid && i.scope == 3 && !i.bad then { i with relAt := some (nodeNow t + 32) } else i) ∧
      (∀ n ∈ canopyKids t p, (linkState t n = 3 ∨ linkState t n = 4) →
        Out.canopy n 3 [m.origin, t.beat, t.cyc, m.hops + 1, m.bid] ∈ t'.out) ∧
      OtherParts p t t' ∧ Touches [.parts, .links, .out, .alertN] t t') ∧
    (canopyParent t p ≠ some l → ∃ t', exec (.releaseRx l m c) s = .next t' ∧ Touches [.alertN] t t'))

/-- The passing of time and BEAT_EDGE (R225, R226, R446, R630). The cycles before a command's cycle change nothing but what is in progress at
the cores; where nothing is, they change only the cycle itself, and the count of throttled cycles. While the rails are up an edge moves the beat
number on by 1 modulo 2^48, the next beat starts at cycle 0 one beat length after the last, and the stretched cycles and the
first-of-class records of the beat start again; with no plan running and nothing in progress, no core, link buffer or byte changes. With the
rails off there is no edge. -/
def Obligations.BeatEdgeAdvancesTime : Prop :=
  (∀ (s : State) (c : Nat), TimePassed s (tick s c) ∧ (tick s c).cyc = max s.cyc (min c (beatLen s - 1)) ∧
    (busyCores s = [] → Touches [.cyc, .bankUse, .regs, .faultq] s (tick s c))) ∧
  ∀ s : State, s.powered = true →
    (s.railsUp = true → ∃ t, exec .beatEdge s = .next t ∧ t.beat = (s.beat + 1) % 2 ^ 48 ∧ t.edge = s.edge + beatLen s ∧ t.cyc = 0 ∧
      t.stretchNow = [] ∧ t.stretchHit = [] ∧
      ((∀ p ∈ partitions s, planState s p ≠ 3) → busyCores s = [] → t.cores = s.cores ∧ t.mem = s.mem ∧ t.ecc = s.ecc ∧ t.parts = s.parts)) ∧
    (s.railsUp = false → ∃ t, exec .beatEdge s = .next t ∧ Touches [.alertN] s t)

/-- What the edge that ends beat `b` does to a RUNNING partition (R23, R119, R241, R242, R329, R634, R635). With an alarm it freezes: PLAN_STATE
is FROZEN, its cores' queues, engines and ports are empty, tiles, registers, counters and frames stay, writes that are on their way complete, and
FREEZE_BEAT is the new beat (unless its release waits for the freeze). Without one, a core whose check fails dispatches nothing more. After
its last beat, with no plan fault, nothing changes. -/
def Obligations.EdgeFreezesAndChecksPartitions : Prop :=
  ∀ (s : State) (p b : Nat), p ∈ partitions s → planState s p = 3 →
    ((partAt s p).alarm = true → (partAt s p).relPending = false →
      let w := edgePart b s p
      planState w p = 4 ∧ rg w (0x7010 + p) 3 = s.beat ∧ (partAt w p).alarm = false ∧ (partAt w p).insts = [] ∧ (partAt w p).reach = [] ∧
        ∀ u ∈ partCores s p, (kget s.cores u).isSome = true →
          let x := coreAt s u
          let y := coreAt w u
          y.mq = [] ∧ y.vq = [] ∧ y.dq = [] ∧ y.yq = [] ∧ y.mrun = [] ∧ y.vrun = [] ∧ y.drun = [] ∧ y.pq = [] ∧ y.held = none ∧
            y.canQ = [] ∧ y.arrQ = [] ∧ y.packets = [] ∧ y.tile = x.tile ∧ y.tag = x.tag ∧ y.vreg = x.vreg ∧ y.frames = x.frames ∧
            y.sc = x.sc ∧ y.lands = x.lands) ∧
    ((partAt s p).alarm = false → (partAt s p).ended = false →
      ∀ u ∈ partCores s p, overran (coreAt s u) = true → (coreAt (edgePart b s p) u).stopped = true) ∧
    ((partAt s p).alarm = false → (partAt s p).ended = true → (partAt s p).planFault = false → edgePart b s p = s)

/-- PLAN_START, PLAN_COMPLETE, BEAT_K_CHANGE and FSTEP_APPLY (R186, R187, R226, R244, R441, R443). At the edge of the armed start beat a
LOADED partition is RUNNING at beat 0 of segment 0. A partition whose plan has ended with no alarm becomes COMPLETE at the edge: its
boundary in progress ends and the commands that it held back are applied, and of its cores only the account of their phase's cycles changes. At the pending target beat BEAT_K takes BEAT_K_NEXT and
BEAT_K_AT returns to 0. At the announced beat CORE_FREQ_N takes the announced N and the step is pending no more. Away from its edge each of
them does nothing. -/
def Obligations.EdgeEventsTakeEffect : Prop :=
  ∀ s : State, s.powered = true →
    (∀ p, p ∈ partitions s → startDue s p = true →
      ∃ t, exec (.planStart p) s = .next t ∧ planState t p = 3 ∧ rg t (0x2120 + p) 7 = 0 ∧ rg t (0x2120 + p) 8 = 0 ∧
        (partAt t p).segBeat = 0 ∧ (partAt t p).ended = false ∧ t.mem = s.mem ∧ (∀ u, partOf s u ≠ p → coreAt t u = coreAt s u) ∧
        Touches [.regs, .parts, .cores, .faultq, .capSeen, .blobs, .alertN] s t) ∧
    (∀ p, p ∈ partitions s → startDue s p = false → ∃ t, exec (.planStart p) s = .next t ∧ Touches [.alertN] s t) ∧
    (∀ p, p ∈ partitions s →
      let ends := planState s p = 3 ∧ (partAt s p).ended = true ∧ (partAt s p).alarm = false ∧ s.cyc = 0
      (ends → ∃ t, exec (.planComplete p) s = .next t ∧ planState t p = 5 ∧ (partAt t p).step = none ∧
        (∀ u, ∃ n, coreAt t u = { coreAt s u with phaseFrom := n }) ∧ (∀ u, partOf s u ≠ p → coreAt t u = coreAt s u) ∧
        ((partAt s p).cmdQ = [] → t.mem = s.mem) ∧
        Touches [.regs, .cores, .coreCyc, .parts, .serve, .records, .sessions, .out, .msixPba, .mem, .ecc, .faultq, .alertN] s t) ∧
      (¬ends → ∃ t, exec (.planComplete p) s = .next t ∧ Touches [.alertN] s t)) ∧
    (kChangeDue s = true → ∃ t, exec .beatKChange s = .next t ∧ rg t 0x2100 1 = rg s 0x2100 2 ∧ rg t 0x2100 3 = 0 ∧
      OnlyRegs [(0x2100, 1), (0x2100, 3), (0x2000, 8)] s t ∧ Touches [.regs, .alertN] s t) ∧
    (kChangeDue s = false → ∃ t, exec .beatKChange s = .next t ∧ Touches [.alertN] s t) ∧
    (∀ n, pendingStep s = some (s.beat, n) → s.cyc = 0 →
      ∃ t, exec .fstepApply s = .next t ∧ rg t 0x2000 1 = n ∧ pendingStep t = none ∧ t.freqHandle = [] ∧ t.freqLater = s.freqLater ∧
        rg t 0x2008 5 = counted (rg s 0x2008 5) 1 ∧ t.mem = s.mem ∧ t.cores = s.cores) ∧
    (pendingStep s = none → ∃ t, exec .fstepApply s = .next t ∧ Touches [.alertN] s t)

/-- The timing state and the time inputs (R424, R437, R449, R450, R659, R660). LOCKING takes TIMING_LINK, up and native (R373), as TIMING_ACTIVE with half its
round trip as delay; PLL_LOCK within 1 ms makes LOCKED; 10 ms of HOLDOVER end in FREERUN with a log entry and an alarm in every RUNNING
partition; REFCLK absent for 1 µs is remembered, and its return too; at the root, a TIME_PPS edge 900 ms or more after the last stamps
PPS_LAST and advances TIME_SEC; 1.5 s without an edge clear its valid bit. Out of its conditions each does nothing. -/
def Obligations.TimingStateAndInputs : Prop :=
  ∀ s : State, s.powered = true →
    let idle := fun (i : Instr) => ∃ t, exec i s = .next t ∧ Touches [.alertN] s t
    let lockable := timingRoot s = false ∧ timingState s = 0 ∧ rg s 0x2000 10 < 64 ∧ linkState s (rg s 0x2000 10) = 3 ∧
      isNative s (rg s 0x2000 10) = true
    (lockable → ∃ t, exec .locking s = .next t ∧ timingState t = 1 ∧ rg t 0x2000 14 = rg s 0x2000 10 ∧
      rg t 0x2000 15 = (linkAt s (rg s 0x2000 10)).rttPs / 2 ∧ OnlyRegs [(0x2000, 13), (0x2000, 14), (0x2000, 15)] s t ∧
      Touches [.regs, .holdPs, .marks, .alertN] s t) ∧
    (¬lockable → idle .locking) ∧
    (∀ us, timingState s = 1 → us ≤ 1000 → ∃ t, exec (.pllLock us) s = .next t ∧ timingState t = 2 ∧ OnlyRegs [(0x2000, 13)] s t ∧
      Touches [.regs, .holdPs, .alertN] s t) ∧
    (∀ us, ¬(timingState s = 1 ∧ us ≤ 1000) → idle (.pllLock us)) ∧
    (∀ us, timingState s = 4 → 10000 ≤ us → s.cyc = 0 → s.mcDown = false →
      ∃ t, exec (.timingLost us) s = .next t ∧ timingState t = 0 ∧ timingActive t = 255 ∧ t.logNum = s.logNum + 1 ∧
        (∀ p ∈ partitions s, planState s p = 3 → (partAt t p).alarm = true) ∧ t.mem = s.mem ∧ t.cores = s.cores) ∧
    (∀ us, ¬(timingState s = 4 ∧ 10000 ≤ us ∧ s.cyc = 0) → idle (.timingLost us)) ∧
    (∀ ns, 1000 ≤ ns → s.refLost = false → ∃ t, exec (.refclkLoss ns) s = .next t ∧ t.refLost = true ∧ t.mem = s.mem ∧
      t.cores = s.cores ∧ (timingRoot s = false → timingState s ≠ 0 → Touches [.refLost, .alertN] s t) ∧
      (timingRoot s = true → s.mcDown = false → t.logNum = s.logNum + 1)) ∧
    (∀ ns, ns < 1000 → idle (.refclkLoss ns)) ∧
    (∃ t, exec .refclkReturn s = .next t ∧ t.refLost = false ∧ Touches [.refLost, .alertN] s t) ∧
    (∀ c frac ms,
      let t0 := tick s c
      timingRoot t0 = true →
      ((t0.ppsSeen = false ∨ 900 ≤ ms) →
        ∃ t, exec (.timePps c frac ms) s = .next t ∧ rg t 0x2000 18 = (rg t0 0x2000 18 + 1) % 2 ^ 64 ∧
          rb t 0x2000 19 = ppsBytes t0.beat t0.cyc frac (rg t0 0x2000 18) true ∧ t.ppsSeen = true ∧ OnlyRegs [(0x2000, 18)] t0 t ∧
          Touches [.regs, .blobs, .ppsSeen, .alertN] t0 t) ∧
      (t0.ppsSeen = true → ms < 900 → ∃ t, exec (.timePps c frac ms) s = .next t ∧ Touches [.alertN] t0 t)) ∧
    (∀ ms, 1500 ≤ ms → ∃ t, exec (.ppsTimeout ms) s = .next t ∧ bit (leAt (rb t 0x2000 19) 10 1) 0 = false ∧
      Touches [.blobs, .alertN] s t)

/-- The fleet messages of the timing tree (R289, R430 to R434, R439, R441). The root sends BEATSYNC on every timing link at the
period's beats, once a beat. A request becomes known and SUBTREE_CEIL is the minimum of the fresh ones and N_CEIL. An announcement from
TIMING_ACTIVE, not seen before, is pending when its beat lies 2 or more ahead, and goes on to every timing link with its ORIGIN and one more hop; a
repeated one does nothing. The phase error of a BEATSYNC is that of
its reference marker's arrival, which is among the last 256. A package in LOCKED takes a known BEATSYNC's N and is ALIGNED; one that is ALIGNED under
another BEAT_K falls back to LOCKED; one on another link, or on one that is not native, is only noted. An ALARM from a canopy link, not seen before, marks its RUNNING
partition for the freeze at the edge. -/
def Obligations.FleetMessagesTakeEffect : Prop :=
  ∀ s : State, s.powered = true →
    (∀ c,
      let t0 := tick s c
      timingRoot t0 = true → t0.railsUp = true → t0.beat % syncPeriods t0 1 = 0 →
      ∃ t, exec (.beatsyncSend c) s = .next t ∧
        (∀ l ∈ timingLinks t0, (linkAt t0 l).synced ≠ some t0.beat →
          ∃ args, Out.canopy l 1 (ownRank t0 (timingPart t0) :: t0.beat :: t0.cyc :: 1 :: ringNow t0 l :: args) ∈ t.out ∧
            (linkAt t l).synced = some t0.beat) ∧
        ((∀ l ∈ timingLinks t0, (linkAt t0 l).synced = some t0.beat) → Touches [.alertN] t0 t) ∧
        Touches [.links, .out, .alertN] t0 t) ∧
    (∀ l n, l < linksOf s.variant → partLow s (l / 16) = timingPart s →
      ∃ t, exec (.fstepRequestRx l n) s = .next t ∧
        rg t 0x2000 6 = subtreeCeil { s with ceilReq := kset s.ceilReq l (n, s.beat) } ∧ OnlyRegs [(0x2000, 6)] s t ∧
        Touches [.ceilReq, .regs, .links, .out, .alertN] s t) ∧
    (∀ l n b (m : StepSeq), l < linksOf s.variant → timingActive s = l → s.fstepSeq ≠ m.seq + 1 → pendingStep s ≠ some (b, n) →
      s.fstepSeen ≠ [b, n] → 2 ≤ beatDiff b s.beat → b < 2 ^ 48 → n < 256 →
      ∃ t, exec (.fstepAnnounceRx l n b m) s = .next t ∧ pendingStep t = some (b, n) ∧ t.fstepSeq = m.seq + 1 ∧
        (∀ k ∈ timingLinks s, Out.canopy k 4 [m.origin, s.beat, s.cyc, m.hops + 1, 2, n, b, m.seq] ∈ t.out) ∧
        Touches [.blobs, .fstepSeen, .fstepSeq, .links, .out, .alertN] s t) ∧
    (∀ l n b (m : StepSeq), l < linksOf s.variant → (timingActive s ≠ l ∨ s.fstepSeq = m.seq + 1) →
      ∃ t, exec (.fstepAnnounceRx l n b m) s = .next t ∧ Touches [.alertN] s t) ∧
    (∀ l m, l < linksOf s.variant → timingActive s = l → isNative s l = true → m.known = true →
      let e := phaseErr s m (m.arrBeat, m.arrUnits)
      ∃ t, exec (.beatsyncRx l m) s = .next t ∧ (-(2 ^ 31) ≤ e → e < 2 ^ 31 → rg t 0x2000 16 = (e % 2 ^ 32).toNat) ∧
        rb t 0x2000 19 = ppsBytes m.ppsBeat m.ppsCyc m.ppsFrac m.ppsSec (bit m.flags 0) ∧ t.mem = s.mem ∧ t.cores = s.cores) ∧
    (∀ l m, l < linksOf s.variant → timingActive s = l → isNative s l = true → timingState s = 2 → m.k = rg s 0x2100 1 → m.known = true →
      s.phaseBad = false → bit m.flags 1 = false →
      ∃ t, exec (.beatsyncRx l m) s = .next t ∧ timingState t = 3 ∧ rg t 0x2000 1 = m.n ∧ t.phaseLeft = 0 ∧ t.mem = s.mem ∧
        t.cores = s.cores) ∧
    (∀ l m, l < linksOf s.variant → timingActive s = l → isNative s l = true → timingState s = 3 → m.k ≠ rg s 0x2100 1 → bit m.flags 1 = false →
      ∃ t, exec (.beatsyncRx l m) s = .next t ∧ timingState t = 2 ∧ t.phaseBad = true ∧ t.beat = s.beat ∧ t.mem = s.mem) ∧
    (∀ l m, l < linksOf s.variant → timingActive s ≠ l ∨ isNative s l = false →
      ∃ t, exec (.beatsyncRx l m) s = .next t ∧ kget t.bsyncAt l = some s.beat ∧ Touches [.bsyncAt, .alertN] s t) ∧
    (∀ l (m : CanopyMsg), l < linksOf s.variant → l ∈ canopyLinks s (partLow s (l / 16)) →
      (m.origin, m.beat) ∉ (partAt s (partLow s (l / 16))).seen →
      let p := partLow s (l / 16)
      ∃ t, exec (.alarmRx l m) s = .next t ∧ (m.origin, m.beat) ∈ (partAt t p).seen ∧
        (planState s p = 3 → (partAt t p).alarm = true) ∧ OtherParts p s t ∧ t.mem = s.mem ∧ t.cores = s.cores) ∧
    (∀ l (m : CanopyMsg), l < linksOf s.variant → (m.origin, m.beat) ∈ (partAt s (partLow s (l / 16))).seen →
      ∃ t, exec (.alarmRx l m) s = .next t ∧ Touches [.alertN] s t)

/-- Monitors and records (R305, R332, R445, R446, R448, R630 to R633, R646). A stretched cycle of a region, once per cycle, is remembered for its
cores. A crossing's occupancy widens OCC_MIN and OCC_MAX, and 0 or 8 sends a REGION_SLIP record on its way. A patrol, once in a refresh window,
takes the channel's next four lines and corrects a correctable error there. While the MC runs, the first record that is on its way gets the next log
number and stands last in the log, and a DATA_FAULT, LINK_FAULT or REGION_SLIP alarms every RUNNING partition that it concerns; while
the MC is down the record is kept. -/
def Obligations.MonitorsAndFaultRecords : Prop :=
  ∀ s : State, s.powered = true →
    (∀ d r c, d < dies s.variant → r < 4 →
      let t0 := tick s c
      (absNow t0 ∉ (kget t0.stretchNow (4 * d + r)).getD [] →
        ∃ t, exec (.stretchedCycle d r c) s = .next t ∧
          kget t.stretchNow (4 * d + r) = some ((kget t0.stretchNow (4 * d + r)).getD [] ++ [absNow t0]) ∧
          (∀ g, g ≠ 4 * d + r → kget t.stretchNow g = kget t0.stretchNow g) ∧
          rg t (0x7858 + d) 6 = counted (rg t0 (0x7858 + d) 6) 1 ∧
          Touches [.cores, .chReady, .faultq, .capSeen, .regs, .blobs, .parts, .stretchNow, .stretchHit, .alertN] t0 t) ∧
      (absNow t0 ∈ (kget t0.stretchNow (4 * d + r)).getD [] →
        ∃ t, exec (.stretchedCycle d r c) s = .next t ∧ Touches [.alertN] t0 t)) ∧
    (∀ d x occ c, d < dies s.variant → x < 6 + 2 * dies s.variant → occ < 256 →
      let t0 := tick s c
      ∃ t, exec (.fifoRange d x occ c) s = .next t ∧ rtab t (0x2010 + d) 2 1 x = min occ (rtab t0 (0x2010 + d) 2 1 x) ∧
        rtab t (0x2010 + d) 3 1 x = max occ (rtab t0 (0x2010 + d) 3 1 x) ∧ fifoNow t d x = occ ∧
        (0 < occ → occ < 8 → t.faultq = t0.faultq) ∧
        (occ = 0 ∨ 8 ≤ occ → t0.faultq.length < 64 → ∃ r : LogRec, t.faultq = t0.faultq ++ [r] ∧ r.code = 0x0502 ∧ r.level = 3 ∧
          r.detail = [BitVec.ofNat 8 d, BitVec.ofNat 8 x, BitVec.ofNat 8 occ]) ∧
        Touches [.fifos, .blobs, .faultq, .capSeen, .regs, .parts, .alertN] t0 t) ∧
    (∀ d ch c, d < dies s.variant → ch < 64 →
      let t0 := tick s c
      let i := (kget t0.patrol (64 * d + ch)).getD 0
      (patrols t0 d ch = true → i < dieHbm / 4096 →
        ∃ t, exec (.hbmPatrol d ch c) s = .next t ∧ kget t.patrolled (64 * d + ch) = refreshWindow t0 ∧
          (∀ k, k < 4 → kget t0.ecc (d * dieHbm + (i + k) % (dieHbm / 4096) * 4096 + ch * 64) = some 1 →
            kget t.ecc (d * dieHbm + (i + k) % (dieHbm / 4096) * 4096 + ch * 64) = none) ∧
          (kget t.patrol (64 * d + ch)).getD 0 = (i + 4) % (dieHbm / 4096) ∧
          Touches [.patrol, .patrolled, .ecc, .regs, .blobs, .faultq, .capSeen, .parts, .alertN] t0 t) ∧
      (patrols t0 d ch = false → ∃ t, exec (.hbmPatrol d ch c) s = .next t ∧ Touches [.alertN] t0 t)) ∧
    (∀ r, firstRec s s.faultq = some r → s.mcDown = false →
      ∃ t, exec .faultRecord s = .next t ∧ t.logNum = s.logNum + 1 ∧ t.log.getLast? = some { r with num := s.logNum + 1 } ∧
        (3 ≤ r.cls → r.cls ≤ 5 → ∀ p ∈ concerns s r, planState s p = 3 → (partAt t p).alarm = true) ∧ t.mem = s.mem ∧
        t.cores = s.cores) ∧
    (∀ r, firstRec s s.faultq = some r → s.mcDown = true → s.kept.length < 256 →
      ∃ t, exec .faultRecord s = .next t ∧ t.kept = s.kept ++ [r] ∧ t.log = s.log ∧ t.mem = s.mem ∧ t.cores = s.cores) ∧
    (s.faultq = [] → ∃ t, exec .faultRecord s = .next t ∧ Touches [.alertN] s t)

/-- A link goes down, fails, or counts an error (R344, R350, R368, R371, R424). 8 µs of silence, 4 lost markers or a lane without signal
take a link that is UP into HOLD, untrained, and count one LINK_DOWN; the timing link's loss makes HOLDOVER. HOLD ends after 50 µs, and a
wait for credits after 20 µs, in FAILED with its cause and nothing queued or held. A codeword that does not decode is counted, and the frames in
progress are discarded: a link that was passing one on closes it with ABORT = 1 (R358). -/
def Obligations.LinksGoDownAndFail : Prop :=
  ∀ (s : State) (l : Nat), s.powered = true → l < linksOf s.variant →
    let count := 0x3002 + 16 * l
    (∀ i, (∃ ns, 8000 ≤ ns ∧ i = .down l ns) ∨ (∃ n, 4 ≤ n ∧ i = .alignmentLost l n) ∨ (∃ k, k < 4 ∧ i = .laneSignalLoss l k) →
      (linkState s l = 3 → ∃ t, exec i s = .next t ∧ linkState t l = 4 ∧
        linkAt t l = { linkAt s l with trained := false, identRx := false, resumed := none } ∧ OtherLinks l s t ∧
        rg t count 10 = counted (rg s count 10) 1 ∧
        (timingActive s = l → timingRoot s = false → (timingState s = 2 ∨ timingState s = 3) → timingState t = 4) ∧
        (timingActive s ≠ l → timingState t = timingState s) ∧ Touches [.links, .regs, .faultq, .holdPs, .alertN] s t) ∧
      (linkState s l ≠ 3 → ∃ t, exec i s = .next t ∧ Touches [.alertN] s t)) ∧
    (∀ ns, linkState s l = 4 → 50000 ≤ ns → ∃ t, exec (.holdExpired l ns) s = .next t ∧ linkState t l = 5 ∧
      rg t (0x3001 + 16 * l) 2 = 1 ∧ (linkAt t l).planQ = [] ∧ (linkAt t l).held = [] ∧ (linkAt t l).fwdQ = [] ∧ t.mem = s.mem ∧
      t.cores = s.cores) ∧
    (∀ ns, linkState s l = 3 → 20000 ≤ ns → (linkAt s l).waiting.any (fun w => w.2.2) = true →
      ∃ t, exec (.creditTimeout l ns) s = .next t ∧ linkState t l = 5 ∧ rg t (0x3001 + 16 * l) 2 = 2 ∧ (linkAt t l).held = [] ∧
        t.mem = s.mem ∧ t.cores = s.cores) ∧
    (∀ begun, 1 ≤ linkState s l → linkState s l ≤ 4 → ∃ t, exec (.codewordDecodeFailure { link := l, begun := begun }) s = .next t ∧
      rg t count 2 = counted (rg s count 2) 1 ∧ (∀ j, { linkAt t j with unsent := (linkAt s j).unsent } = linkAt s j) ∧
      (∃ more, t.out = s.out ++ more ∧ ∀ e ∈ more, ∃ o str b, e = Out.frame o str b ∧ bit (leAt b (b.length - 32) 28) 25 = true) ∧
      (∀ str fr, begun = [(str, fr)] → t.out = (abortForward s l str 0 fr).out) ∧
      (begun = [] → t.links = s.links ∧ t.out = s.out) ∧ Touches [.links, .regs, .faultq, .out, .alertN] s t)

/-- Training (R367, R369, R370, R374, R427, R428, R552). An attempt counts and leaves the lanes untrained. A link whose lanes are trained
sends its IDENT, and probes once an IDENT has come, with fresh sequence state and credits. An IDENT fills the PEER entries; in HOLD one of another peer fails
the link, and of the same one is answered with the RESUME. The end of a round-trip window in PROBING counts it and, at the end that measures, sets RTT_NS to the
median of m = t2 − t1 − ECHO_LAT − T_cw; the link is UP when both ends are ON and enough windows ended. In HOLD, retrained lanes send the IDENT, after the RESUME where the same peer's IDENT has come, and once that and the peer's RESUME have come, in whatever
order, the link is UP and replays what the peer lacks.
A link test that has run for TEST_MS ends in DISABLED with its result; a link that has not drained 100 µs into a scrub is DISABLED. -/
def Obligations.LinksTrainAndResume : Prop :=
  ∀ (s : State) (l : Nat), s.powered = true → l < linksOf s.variant →
    let x := linkAt s l
    let count := 0x3002 + 16 * l
    (∀ ms, linkState s l = 1 → 1000 ≤ ms → x.retrain = [] → ∃ t, exec (.trainAttempt l ms) s = .next t ∧
      linkAt t l = { x with trained := false, identRx := false, tries := x.tries + 1 } ∧ OtherLinks l s t ∧
      rg t count 12 = counted (rg s count 12) 1 ∧ Touches [.links, .regs, .faultq, .alertN] s t) ∧
    (linkState s l = 1 → x.identRx = false → ∃ t, exec (.trainingDone l) s = .next t ∧ linkAt t l = { x with trained := true, unsent := false } ∧
      (∃ args, t.out = s.out ++ [Out.linkFrame l 3 (l :: args)]) ∧ OtherLinks l s t ∧ Touches [.links, .out, .alertN] s t) ∧
    (linkState s l = 1 → x.identRx = true → ∃ t, exec (.trainingDone l) s = .next t ∧ linkState t l = 2 ∧
      (let y := linkAt t l
       y.txNext = 0 ∧ y.txBase = 0 ∧ y.rxBase = 0 ∧ y.held = [] ∧ y.lost = [] ∧ y.res = poolUnits ∧ y.rttWins = 0 ∧ y.retrain = []) ∧
      OtherLinks l s t ∧ t.mem = s.mem ∧ t.cores = s.cores) ∧
    (∀ m tr, (linkState s l = 2 ∨ linkState s l = 3) → ∃ t, exec (.ident l m tr) s = .next t ∧ (linkAt t l).peer = some m ∧
      rb t (0x3001 + 16 * l) 3 = m.serial.take 16 ∧ rg t (0x3001 + 16 * l) 4 = m.link ∧
      rg t (0x3001 + 16 * l) 5 = m.coord % 2 ^ 24 + (if m.valid then 2 ^ 31 else 0) ∧ rg t (0x3001 + 16 * l) 6 = m.flags ∧
      OtherLinks l s t ∧ Touches [.links, .regs, .blobs, .faultq, .fresh, .alertN] s t) ∧
    (∀ m tr, linkState s l = 1 → x.trained = true → ∃ t, exec (.ident l m tr) s = .next t ∧ linkState t l = 2 ∧
      (linkAt t l).peer = some m ∧ (linkAt t l).held = [] ∧ (linkAt t l).res = poolUnits ∧ OtherLinks l s t ∧ t.mem = s.mem ∧ t.cores = s.cores) ∧
    (∀ m tr, linkState s l = 4 → x.peer ≠ some m → ∃ t, exec (.ident l m tr) s = .next t ∧ linkState t l = 5 ∧
      rg t (0x3001 + 16 * l) 2 = 4 ∧ t.mem = s.mem ∧ t.cores = s.cores) ∧
    (∀ m tr, linkState s l = 4 → x.peer = some m → x.trained = true → x.resumed = none → ∃ t, exec (.ident l m tr) s = .next t ∧
      linkAt t l = { x with identRx := true, unsent := false } ∧
      (∃ args, t.out = s.out ++ [Out.linkFrame l 4 (x.rxBase :: x.txNext :: args)]) ∧ OtherLinks l s t ∧
      Touches [.links, .regs, .blobs, .faultq, .fresh, .out, .alertN] s t) ∧
    (∀ m tr b, linkState s l = 4 → x.peer = some m → x.trained = true → x.resumed = some b → ∃ t, exec (.ident l m tr) s = .next t ∧
      linkState t l = 3 ∧ rg t count 11 = counted (rg s count 11) 1 ∧
      (∀ h ∈ x.held, (h.seq == b || seqAfter h.seq b) = true → h.seq ∈ (linkAt t l).replayQ) ∧ OtherLinks l s t ∧
      Touches [.links, .regs, .blobs, .faultq, .fresh, .out, .alertN] s t) ∧
    (∀ meas, linkState s l = 2 → ∃ t, exec (.rttWindowEnd l meas) s = .next t ∧ (linkAt t l).rttWins = x.rttWins + 1 ∧
      (meas ≠ [] → echoes s l x.rttWins = false →
        let times := (meas.take 128).map (fun m => m - (100000 + if glL s l then 6400 else 3200))
        rg t (0x3001 + 16 * l) 7 = (median times + 500) / 1000 ∧ (linkAt t l).rttPs = median times) ∧
      (echoes s l x.rttWins = true → rg t (0x3001 + 16 * l) 7 = rg s (0x3001 + 16 * l) 7 ∧ (linkAt t l).rttPs = x.rttPs) ∧
      linkState t l = (if rg s (0x3000 + 16 * l) 1 = 2 ∧ x.peer.any (fun q => bit q.flags 0) = true ∧
        rttNeeded s l ≤ x.rttWins + 1 then 3 else 2) ∧
      OtherLinks l s t ∧ Touches [.links, .regs, .alertN] s t) ∧
    (linkState s l = 4 → x.identRx = true → x.resumed = none → ∃ t, exec (.holdRetrainDone l) s = .next t ∧
      linkAt t l = { x with trained := true, unsent := false } ∧
      (∃ a b, t.out = s.out ++ [Out.linkFrame l 4 (x.rxBase :: x.txNext :: a), Out.linkFrame l 3 (l :: b)]) ∧ OtherLinks l s t ∧
      Touches [.links, .out, .alertN] s t) ∧
    (linkState s l = 4 → x.identRx = false → ∃ t, exec (.holdRetrainDone l) s = .next t ∧
      linkAt t l = { x with trained := true, unsent := false } ∧ (∃ args, t.out = s.out ++ [Out.linkFrame l 3 (l :: args)]) ∧
      OtherLinks l s t ∧ Touches [.links, .out, .alertN] s t) ∧
    (∀ rxBase txNext tr, linkState s l = 4 → x.trained = true → x.identRx = true → txNext < 4096 → ∃ t, exec (.resume l rxBase txNext tr) s = .next t ∧
      linkState t l = 3 ∧ (linkAt t l).resumed = none ∧ rg t count 11 = counted (rg s count 11) 1 ∧
      (∀ h ∈ (linkAt (takeTrailer s l tr) l).held, (h.seq == rxBase || seqAfter h.seq rxBase) = true →
        h.seq ∈ (linkAt t l).replayQ) ∧
      OtherLinks l s t ∧ Touches [.links, .regs, .blobs, .faultq, .fresh, .alertN] s t) ∧
    (∀ rxBase txNext tr, linkState s l = 4 → x.trained = true → x.identRx = false → txNext < 4096 → ∃ t, exec (.resume l rxBase txNext tr) s = .next t ∧
      linkState t l = 4 ∧ (linkAt t l).resumed = some rxBase ∧ OtherLinks l s t ∧ Touches [.links, .regs, .blobs, .faultq, .fresh, .alertN] s t) ∧
    (∀ res, linkState s l = 6 → res.ms < x.testMs → ∃ t, exec (.linkSelftestEnd l res) s = .next t ∧ Touches [.alertN] s t) ∧
    (∀ res, linkState s l = 6 → x.testMs ≤ res.ms → ∃ t, exec (.linkSelftestEnd l res) s = .next t ∧ linkState t l = 0 ∧ (linkAt t l).test = none ∧
      rb t (0x3001 + 16 * l) 9 = (padTo 64 res.result).take 64 ∧ OtherLinks l s t ∧ t.mem = s.mem ∧ t.cores = s.cores) ∧
    (∀ us, x.draining = true → 100 ≤ us → (x.held.isEmpty && x.poolUsed == 0) = false →
      ∃ t, exec (.scrubLinkDrain l us) s = .next t ∧ linkState t l = 0 ∧ (linkAt t l).held = [] ∧ t.mem = s.mem ∧ t.cores = s.cores)

/-- Sending (R346 to R349, R352, R353, R358, R360, R367, R373). A data frame of a class that may start, is next, fits its slot and is not
held back by window, replay buffer or credits goes out while its clock region is not stretched (R236), numbered with the next SEQ and ending in
its CRC, and is held for replay; a canopy message but an ALARM carries the beat and cycle in which it goes (R287, R431); a queued replay and a forwarded frame that came before the own frames of its class go out in their slot in the
same way, the replay under its old SEQ. An idle or refresh timer sends a KEEPALIVE, the SV2 timer an ACK, the NAK timer a NAK. -/
def Obligations.FramesAreSent : Prop :=
  ∀ (s : State) (l : Nat), s.powered = true → l < linksOf s.variant →
    let sent := fun (str : Stream) (k : Packet) (q : Nat) (t : State) => ∃ b : List Byte, Out.frame l str b ∈ t.out ∧
      leAt b 0 16 = packetHead k % 2 ^ 128 ∧ (b.drop 16).take k.payload.length = k.payload ∧ leAt b (b.length - 32) 4 % 2 ^ 12 = q % 2 ^ 12 ∧
      leAt b (b.length - 4) 4 = crc32 (b.take (b.length - 4))
    let sendFields := [Field.links, .regs, .rems, .faultq, .out, .alertN]
    (∀ c,
      let t0 := tick s c
      let x := linkAt t0 l
      regionStill t0 (linkRegion l) = false → x.txNext < 4096 →
      (∀ k, mayStart t0 l .plan = true → x.planQ.head? = some k → planSlot t0 l = true → frameBlock t0 l k = none →
        ∃ t, exec (.frameStart l .plan c) s = .next t ∧ sent .plan (stampMsg t0 l k) x.txNext t ∧ (linkAt t l).txNext = (x.txNext + 1) % 4096 ∧
          (linkAt t l).planQ = x.planQ.drop 1 ∧ (linkAt t l).unsQ = x.unsQ ∧
          (∃ h : HeldFrame, (linkAt t l).held = x.held ++ [h] ∧ h.seq = x.txNext ∧ h.pkt = stampMsg t0 l k ∧ h.ures + h.ush = 1 + k.len) ∧
          OtherLinks l t0 t ∧ Touches sendFields t0 t) ∧
      (∀ cls k, cls ≠ .plan → mayStart t0 l cls = true → nextOf x cls = some k → planSlot t0 l = false → classAhead t0 l cls = false →
        fwdFirst x cls = false → frameBlock t0 l k = none →
        ∃ t, exec (.frameStart l cls c) s = .next t ∧ sent .unsched (stampMsg t0 l k) x.txNext t ∧ (linkAt t l).txNext = (x.txNext + 1) % 4096 ∧
          (linkAt t l).unsQ = x.unsQ.erase k ∧ (linkAt t l).planQ = x.planQ ∧ OtherLinks l t0 t ∧ Touches sendFields t0 t) ∧
      (∀ cls, mayStart t0 l cls = false → ∃ t, exec (.frameStart l cls c) s = .next t ∧ Touches [.alertN] t0 t) ∧
      (∀ q r h, linkState t0 l = 3 → planSlot t0 l = false → x.replayQ = q :: r → x.held.find? (fun h => h.seq == q) = some h →
        ∃ t, exec (.replaySend l c) s = .next t ∧ sent .unsched h.pkt q t ∧ (linkAt t l).replayQ = r ∧ (linkAt t l).txNext = x.txNext ∧
          rg t (0x3002 + 16 * l) 5 = counted (rg t0 (0x3002 + 16 * l) 5) 1 ∧ OtherLinks l t0 t ∧
          Touches [.links, .regs, .faultq, .out, .alertN] t0 t) ∧
      (x.replayQ = [] → ∃ t, exec (.replaySend l c) s = .next t ∧ Touches [.alertN] t0 t) ∧
      (∀ f,
        let str := if planSlot t0 l then Stream.plan else Stream.unsched
        linkState t0 l = 3 → x.draining = false → nextFwd x str = some f → frameBlock t0 l f.pkt = none →
        (str = .unsched → classAhead t0 l f.pkt.cls = false ∧ f.ahead = 0) →
        ∃ t, exec (.frameForward l c) s = .next t ∧ sent str (stampMsg t0 l f.pkt) x.txNext t ∧ (linkAt t l).fwdQ = x.fwdQ.erase f ∧
          (linkAt t l).txNext = (x.txNext + 1) % 4096 ∧
          (∀ k, k ≠ l → k ≠ f.src → linkAt t k = linkAt t0 k) ∧ Touches sendFields t0 t) ∧
      (x.fwdQ = [] → ∃ t, exec (.frameForward l c) s = .next t ∧ Touches [.alertN] t0 t)) ∧
    let x := linkAt s l
    (∀ ns, (linkState s l = 2 ∨ linkState s l = 3) → 1000 ≤ ns → ∃ t, exec (.keepaliveIdle l ns) s = .next t ∧
      (∃ args, t.out = s.out ++ [Out.linkFrame l 1 ((if x.numbered then (x.txNext + 4095) % 4096 else 2 ^ 15) :: args)]) ∧
      linkAt t l = { x with unsent := false } ∧ OtherLinks l s t ∧ Touches [.links, .out, .alertN] s t) ∧
    (∀ ns, (linkState s l = 2 ∨ linkState s l = 3) → 256 ≤ ns → x.unsent = true → ∃ t, exec (.ackRefresh l ns) s = .next t ∧
      (∃ args, t.out = s.out ++ [Out.linkFrame l 1 args]) ∧ linkAt t l = { x with unsent := false } ∧ OtherLinks l s t ∧
      Touches [.links, .out, .alertN] s t) ∧
    (∀ ns, linkState s l = 3 → isSv2 s l = true → 500 ≤ ns → x.sv2Acc ≠ 0 → ∃ t, exec (.sv2AckTimer l ns) s = .next t ∧
      (∃ args, t.out = s.out ++ [Out.linkFrame l 5 (ackOf x :: args)]) ∧ linkAt t l = { x with unsent := false, sv2Acc := 0 } ∧
      OtherLinks l s t ∧ Touches [.links, .out, .alertN] s t) ∧
    (∀ ns, linkState s l = 3 → 2000 ≤ ns → x.lost ≠ [] → ∃ t, exec (.nakRepeat l ns) s = .next t ∧
      (∃ args, t.out = s.out ++ [Out.linkFrame l 2 (x.rxBase :: args)]) ∧
      rg t (0x3002 + 16 * l) 6 = counted (rg s (0x3002 + 16 * l) 6) 1 ∧ OtherLinks l s t ∧
      Touches [.links, .regs, .faultq, .out, .alertN] s t)

/-- Receiving (R345, R350, R360, R361, R366, R373). A frame with a framing error, in the headers of its codewords or in its bytes, one whose CRC fails, and
a duplicate are counted and discarded; the link that was passing it on closes it with ABORT = 1 (R358). A
valid frame under the expected SEQ moves RX_BASE on by one; a PLAN packet to the own rank is delivered, and one that goes on waits at its next
link, holding its receive units (R358), but for a PLAN frame whose first piece came at or after its partition's freeze edge (R395). A KEEPALIVE whose TX_LAST
lies beyond what came marks it lost and sends a NAK. A NAK queues the frames it names for replay. An ACK in its window frees. A replay
timer queues its frame, and a frame lost after 16 replays fails the link. -/
def Obligations.FramesAreReceived : Prop :=
  ∀ (s : State) (l : Nat), s.powered = true → l < linksOf s.variant →
    let x := linkAt s l
    let count := 0x3002 + 16 * l
    (∀ c str fr (m : FrameHeads),
      let t0 := tick s c
      let order := headsBad (glL t0 l) str m.heads fr.length
      let y := linkAt t0 l
      let p := partLow t0 (l / 16)
      let aborts := fun (t : State) =>
        t.out = t0.out ∨ ∃ o b, t.out = t0.out ++ [Out.frame o str b] ∧ bit (leAt b (b.length - 32) 28) 25 = true
      let onlyAborts := fun (t : State) =>
        (∀ j, { linkAt t j with unsent := (linkAt t0 j).unsent } = linkAt t0 j) ∧ aborts t ∧
        Touches [.links, .regs, .blobs, .faultq, .fresh, .out, .alertN] t0 t
      let counts := fun (k : Nat) (t : State) => rg t count k = counted (rg t0 count k) 1
      let carries := linkState t0 l = 3 ∨ linkState t0 l = 2
      (str ≠ .link → carries → (order = true ∨ framingBad t0 l str fr = true) →
        ∃ t, exec (.dataFrameRx l c str m fr) s = .next t ∧ counts 4 t ∧ onlyAborts t) ∧
      (str ≠ .link → carries → order = false → framingBad t0 l str fr = false → crcBad fr = true →
        ∃ t, exec (.dataFrameRx l c str m fr) s = .next t ∧ counts 3 t ∧ onlyAborts t) ∧
      (1 ≤ linkState t0 l → linkState t0 l ≤ 4 → str = .link → (order = true ∨ linkFramingBad t0 l fr = true ∨ crcBad fr = true) →
        ∃ t, exec (.dataFrameRx l c .link m fr) s = .next t ∧ t.links = t0.links ∧
          (order = true ∨ linkFramingBad t0 l fr = true → counts 4 t) ∧ (order = false → linkFramingBad t0 l fr = false → counts 3 t) ∧
          Touches [.regs, .blobs, .faultq, .fresh, .alertN] t0 t) ∧
      (let h := leAt fr 0 16
       let tr := leAt fr (fr.length - 32) 32
       let k := packetOf h ((fr.drop 16).take (64 * bits h 53 8))
       let via := route t0 p k.dest (((List.range 8).findSome? (fun d => (bundleLinks t0 p d).idxOf? l)).getD 0) k.cls
       str ≠ .link → linkState t0 l = 3 → order = false → framingBad t0 l str fr = false → crcBad fr = false → bit tr 25 = false →
       (seqBad t0 l (bits tr 0 12) = true → ∃ t, exec (.dataFrameRx l c str m fr) s = .next t ∧ (isSv2 t0 l = false → counts 8 t) ∧ aborts t ∧
         (linkAt t l).rxBase = y.rxBase ∧ (linkAt t l).rxSet = y.rxSet ∧ (∀ j, (linkAt t j).fwdQ = (linkAt t0 j).fwdQ) ∧
         Touches [.links, .regs, .blobs, .faultq, .fresh, .out, .alertN] t0 t) ∧
       (isSv2 t0 l = false → bits tr 0 12 = y.rxBase → y.rxSet = [] → y.rxHigh = (y.rxBase + 4095) % 4096 →
       ∃ t, exec (.dataFrameRx l c str m fr) s = .next t ∧ (linkAt t l).rxBase = (y.rxBase + 1) % 4096 ∧ t.mem = t0.mem ∧
         (k.cls = .plan → via = some none → ∀ pd a, refusal t0 p k = 0 → boundDie t0 p k.die = some pd → packetAddr t0 p k = some a →
           let u := epCore pd k.ep
           (coreAt t u).lands = (coreAt t0 u).lands ++
             [packetWrite t0 p (l / 16) l k (bits tr 48 8) (bits tr 56 8) (flatAddr u k.space a)]) ∧
         (∀ o, k.cls ≠ .canopy → (k.cls = .plan → afterFreeze t0 p m.sofAge = false) → via = some (some o) → ∃ f : Fwd,
           (linkAt t o).fwdQ = (linkAt t0 o).fwdQ ++ [f] ∧ f.src = l ∧ f.str = str ∧ f.pkt = k ∧ f.ures = bits tr 48 8 ∧
             f.ush = bits tr 56 8) ∧
         (k.cls = .plan → afterFreeze t0 p m.sofAge = true → via ≠ some none → ∀ j, (linkAt t j).fwdQ = (linkAt t0 j).fwdQ)))) ∧
    (∀ n tr, linkState s l = 3 → isSv2 s l = false → seqAfter (n % 4096) x.rxHigh = true → n % 4096 ∉ x.rxSet →
      ∃ t, exec (.keepalive l (some n) tr) s = .next t ∧ n % 4096 ∈ (linkAt t l).lost ∧ (linkAt t l).rxHigh = n % 4096 ∧
        (∃ args, t.out = s.out ++ [Out.linkFrame l 2 args]) ∧ OtherLinks l s t ∧
        Touches [.links, .regs, .blobs, .faultq, .fresh, .out, .alertN] s t) ∧
    (∀ base miss tr, let y := linkAt (takeTrailer s l tr) l
      let named := fun (h : HeldFrame) => let d := (h.seq + 4096 - base % 4096) % 4096; decide (d < 64) && bit miss d
      linkState s l = 3 → isSv2 s l = false → (∀ h ∈ y.held, named h = true → h.replays < 16) →
      ∃ t, exec (.nak l base miss tr) s = .next t ∧ rg t count 7 = counted (rg s count 7) 1 ∧
        (∀ h ∈ y.held, named h = true → h.queued = false → h.seq ∈ (linkAt t l).replayQ) ∧ OtherLinks l s t ∧
        Touches [.links, .regs, .blobs, .faultq, .fresh, .alertN] s t) ∧
    (∀ tr : Trailer, let n := (tr.ack + 1) % 4096
      linkState s l = 3 → isSv2 s l = true → seqAfter n x.txBase = true → seqAfter n x.txNext = false →
      ∃ t, exec (.ack l tr) s = .next t ∧ (linkAt t l).txBase = n ∧
        (∀ h ∈ (linkAt t l).held, h ∈ x.held ∧ (seqAfter h.seq tr.ack = true ∨ h.seq = n)) ∧ OtherLinks l s t ∧
        Touches [.links, .regs, .blobs, .faultq, .fresh, .alertN] s t) ∧
    (∀ seq ns, linkState s l = 3 → isSv2 s l = false → 1000 * rg s (0x3000 + 16 * l) 5 ≤ ns →
      x.held.any (fun h => h.seq == seq && !h.queued) = true →
      ((∀ h ∈ x.held, h.seq = seq → h.replays < 16) → ∃ t, exec (.replayTimer l seq ns) s = .next t ∧ seq ∈ (linkAt t l).replayQ ∧
        linkState t l = 3 ∧ OtherLinks l s t ∧ Touches [.links, .alertN] s t) ∧
      (x.held.any (fun h => h.seq == seq && decide (16 ≤ h.replays) && !h.queued) = true →
        ∃ t, exec (.replayTimer l seq ns) s = .next t ∧ linkState t l = 5 ∧ rg t (0x3001 + 16 * l) 2 = 3))

/-- SETs of the entries of the time base and of a plan's start (R222, R224, R226, R228, R423, R424, R446). In an open session that may
write it, each takes its value: a timing write also leaves FREERUN (ALIGNED at a new root) with no link in use, STRETCH_FRAC also sets
STRETCH_MAX, and BRK_CTL clears BRK_HIT. Nothing else changes. -/
def Obligations.TimeEntriesTakeTheirValues : Prop :=
  ∀ (s : State) (ses : Nat) (x : Session) (val : List Byte), OpenSession s ses 2 x →
    let v := leNat val
    (∀ sub, 9 ≤ sub → sub ≤ 12 → setStatus s x 0x2000 sub val (anyPlan s) (timingBad s sub v) false false = .ok →
      SetTakes s (.timingConfigWrite ses sub val) ses 0x2000 sub [.regs, .rems, .faultq, .phaseLeft, .phaseBad, .holdPs, .marks]
        (fun t => rg t 0x2000 sub = v ∧
        timingState t = (if sub = 9 ∧ v = 1 then 3 else 0) ∧ timingActive t = 255)) ∧
    (setStatus s x 0x2000 7 val false false (stretchBad s (stretchMax s v)) false = .ok →
      SetTakes s (.stretchFrac ses val) ses 0x2000 7 [.regs] (fun t => rg t 0x2000 7 = v ∧ rg t 0x2000 8 = v * beatLen s / 65536 ∧
        OnlyRegs [(0x2000, 7), (0x2000, 8)] s t)) ∧
    (setStatus s x 0x2100 3 val (anyPlan s) (armBad s v) false false = .ok →
      SetTakes s (.beatKAt ses val) ses 0x2100 3 [.regs] (fun t => rg t 0x2100 3 = v ∧ OnlyRegs [(0x2100, 3)] s t)) ∧
    (∀ p, p < 4 → setStatus s x (0x2120 + p) 5 val (planState s p != 2) (armBad s v) false false = .ok →
      SetTakes s (.planStartBeat ses p val) ses (0x2120 + p) 5 [.regs] (fun t => rg t (0x2120 + p) 5 = v ∧
        OnlyRegs [(0x2120 + p, 5)] s t)) ∧
    (setStatus s x 0x7810 1 val (rg s 0x6020 1 == 0) false false false = .ok →
      SetTakes s (.brkCtl ses val) ses 0x7810 1 [.regs, .blobs] (fun t => rg t 0x7810 1 = v ∧ kget t.blobs (rkey 0x7810 6) = none ∧
        OnlyRegs [(0x7810, 1)] s t ∧ BlobsKept (fun k => k == rkey 0x7810 6) s t))

/-- LINK_ADMIN, LINK_RETRAIN and LINK_SELFTEST (R369, R374 to R376). OFF leads to DISABLED with nothing queued or held, TRAIN to TRAINING at its first
step, ON from DISABLED to TRAINING too, and with trained lanes ON is told to the peer by an IDENT; LINK_RETRAIN trains too, its handle waiting; a test
makes the state TEST, with the mode and time that its entries hold. No memory and no core changes. -/
def Obligations.LinkEntriesAct : Prop :=
  ∀ (s : State) (ses l : Nat) (x : Session) (val : List Byte), l < linksOf s.variant →
    let v := leNat val
    let events : List Field := [.links, .regs, .faultq, .handles, .holdPs] ++ eventFields
    (OpenSession s ses 2 x → setStatus s x (0x3000 + 16 * l) 1 val (linkRetired s l) false (linkState s l != 6 && adminBad s l v) (linkState s l == 6) = .ok →
      SetTakes s (.linkAdmin ses l val) ses (0x3000 + 16 * l) 1 events (fun t => rg t (0x3000 + 16 * l) 1 = v ∧
        (v = 0 → linkState t l = 0 ∧ (linkAt t l).held = [] ∧ (linkAt t l).planQ = [] ∧ (linkAt t l).retrain = []) ∧
        (v = 1 → linkState t l = 1 ∧ (linkAt t l).tries = 0 ∧ (linkAt t l).held = [] ∧ (linkAt t l).trained = false) ∧
        (v = 2 → linkState s l = 0 → linkState t l = 1 ∧ (linkAt t l).tries = 0) ∧
        (v = 2 → linkState s l = 2 ∨ (linkState s l = 1 ∧ (linkAt s l).trained = true) → ∃ a, Out.linkFrame l 3 a ∈ t.out) ∧
        (v = 2 → 3 ≤ linkState s l → linkState t l = linkState s l ∧ linkAt t l = linkAt s l))) ∧
    (OpenSession s ses 3 x → invStatus s x (0x3000 + 16 * l) 6 [] 0 (linkRetired s l || (linkState s l != 6 && adminBad s l 1)) false (linkState s l == 6) = .ok →
      InvokeTakes s (.linkRetrain ses l) ses (0x3000 + 16 * l) 6 0x0D events (fun t h => rg t (0x3000 + 16 * l) 1 = 1 ∧
        linkState t l = 1 ∧ h ∈ (linkAt t l).retrain ∧ (linkAt t l).held = [] ∧ (linkAt t l).trained = false)) ∧
    (OpenSession s ses 3 x → invStatus s x (0x3000 + 16 * l) 7 [] 0 ((linkState s l != 0 && linkState s l != 5) || partState s (partLow s (l / 16)) != 1)
        false false = .ok →
      InvokeTakes s (.linkSelftest ses l) ses (0x3000 + 16 * l) 7 0x0B [.links] (fun t h => linkState t l = 6 ∧
        linkAt t l = { linkAt s l with test := some h, testMode := rg s (0x3000 + 16 * l) 8, testMs := rg s (0x3000 + 16 * l) 9 } ∧
        OtherLinks l s t))

/-- SETs of the fabric entries (R380, R381, R386, R389, R409, R415). MY_COORD takes its value, the route tables of every partition go
back to their defaults, and an IDENT is sent on every link in PROBING or UP. Bundles, route tables, rank windows and rank table pages take
their values, and a LOADED or COMPLETE plan that was checked against them becomes NONE, a plan in another state staying as it was. -/
def Obligations.FabricEntriesTakeTheirValues : Prop :=
  ∀ (s : State) (ses : Nat) (x : Session) (val : List Byte), OpenSession s ses 2 x →
    let v := leNat val
    let dropped (p : Nat) (t : State) := planState t p = (if planState s p = 2 ∨ planState s p = 5 then 0 else planState s p)
    (setStatus s x 0x3400 1 val (coordHeld s) (coordBad v (rg s 0x3400 2)) false false = .ok →
      SetTakes s (.myCoord ses val) ses 0x3400 1 [.regs, .blobs, .rems, .links] (fun t => rg t 0x3400 1 = v ∧
        (∀ p i, p < 4 → i < 4 → kget t.blobs (rkey (0x3410 + p) (2 + i)) = none) ∧
        (∀ l, l < linksOf s.variant → linkState s l = 2 ∨ linkState s l = 3 → ∃ a, Out.linkFrame l 3 a ∈ t.out))) ∧
    (∀ p, p < 4 →
      (setStatus s x (0x3410 + p) 1 val (fabricHeld s p) (bundlesBad s p val) false false = .ok →
        SetTakes s (.bundles ses p val) ses (0x3410 + p) 1 [.blobs, .regs, .parts] (fun t => rb t (0x3410 + p) 1 = val ∧ dropped p t ∧
          OnlyRegs [(0x2120 + p, 1), (0x2120 + p, 5)] s t)) ∧
      (∀ dim, dim < 4 → setStatus s x (0x3410 + p) (2 + dim) val (fabricHeld s p || !bit (myCoord s) 31) (routeBad s dim val) false
          false = .ok →
        SetTakes s (.routeTableWrite ses p dim val) ses (0x3410 + p) (2 + dim) [.blobs, .regs, .parts] (fun t =>
          rb t (0x3410 + p) (2 + dim) = val ∧ dropped p t ∧ OnlyRegs [(0x2120 + p, 1), (0x2120 + p, 5)] s t)) ∧
      (setStatus s x (0x3410 + p) 6 val (fabricHeld s p) (windowBad s p v (rg s (0x3410 + p) 7)) false false = .ok →
        SetTakes s (.rankWindowWrite ses p false val) ses (0x3410 + p) 6 [.regs, .parts] (fun t => rg t (0x3410 + p) 6 = v ∧
          dropped p t ∧ OnlyRegs [(0x3410 + p, 6), (0x2120 + p, 1), (0x2120 + p, 5)] s t)) ∧
      (setStatus s x (0x3410 + p) 7 val (fabricHeld s p) (windowBad s p (rg s (0x3410 + p) 6) v) false false = .ok →
        SetTakes s (.rankWindowWrite ses p true val) ses (0x3410 + p) 7 [.regs, .parts] (fun t => rg t (0x3410 + p) 7 = v ∧
          dropped p t ∧ OnlyRegs [(0x3410 + p, 7), (0x2120 + p, 1), (0x2120 + p, 5)] s t))) ∧
    (∀ q, q < 128 → setStatus s x (0x3800 + q) 1 val ((pageParts s q).any (fabricHeld s))
        ((List.range 256).any (fun i => bits (leAt val (4 * i) 4) 24 7 != 0)) false false = .ok →
      SetTakes s (.rankTableWrite ses q val) ses (0x3800 + q) 1 [.blobs, .regs, .parts] (fun t => rb t (0x3800 + q) 1 = val ∧
        (∀ p ∈ pageParts s q, dropped p t) ∧ (∀ p, p < 4 → p ∉ pageParts s q → planState t p = planState s p)))

/-- Every dictionary message passes the gate (R16, R17, R25, R539, R603, R604, R606, R608). In a module that is powered: while the MC does not run, no message
is answered and nothing changes; a message outside an open session is DENIED; a fifth request while four await their response is BUSY; one whose header R604 refuses is RANGE; in an open session a message that names no entry, an absent
unit, or an entry closed to the role is answered with exactly that status; and one that needs the lock, from a session that does not hold
it, is answered LOCKED, or DENIED by a condition of its own (the entries whose write carries a signature apart, which is checked first).
Whatever is refused changes nothing but what answering changes. -/
def Obligations.DictionaryMessagesAreGated : Prop :=
  ∀ (s : State) (i : Instr) (ses op idx sub : Nat), Carries i ses op idx sub → s.powered = true →
    (s.mcDown = true → ∃ t, exec i s = .next t ∧ t.out = s.out ∧ Touches [.heads, .alertN] s t) ∧
    (s.mcDown = false → (∀ x, sesAt s ses = some x → x.up = false) →
      ∃ t, exec i s = .next t ∧ Out.msg ses (response s ses op idx sub .denied []) ∈ t.out ∧ Touches replyFields s t) ∧
    (∀ x, UpSession s ses x → fifthAsk s ses = true →
      ∃ t, exec i s = .next t ∧ Out.msg ses (response s ses op idx sub .busy []) ∈ t.out ∧ Touches replyFields s t) ∧
    (∀ x, UpSession s ses x → fifthAsk s ses = false → headBad s ses op = true → (∀ h, headOf s ses = some h → h.op = op ∨ h.op ≠ 3) →
      ∃ t, exec i s = .next t ∧ Out.msg ses (response s ses op idx sub .range []) ∈ t.out ∧ Touches replyFields s t) ∧
    (∀ x, OpenSession s ses op x → preStatus s x op idx sub ∈ [Status.noIndex, .noSub, .absent, .denied] →
      ∃ t, exec i s = .next t ∧ Out.msg ses (response s ses op idx sub (preStatus s x op idx sub) []) ∈ t.out ∧ Touches replyFields s t) ∧
    (∀ x, OpenSession s ses op x → preStatus s x op idx sub = .locked → (idx, sub) ∉ signedEntries →
      ∃ t st, exec i s = .next t ∧ (st = Status.locked ∨ st = .denied) ∧ Out.msg ses (response s ses op idx sub st []) ∈ t.out ∧ Touches replyFields s t)

/-- Reads (R600, R604, R646). A GET that is OK answers the entry's bytes as the session sees them, and changes nothing but what answering
changes and the count of measured values; one that is not OK answers its status. LOG_READ answers up to 256 entries that the session sees
from its LOG_SEEK on, and LOG_SEEK moves behind the last one examined. -/
def Obligations.ReadsAnswerTheEntry : Prop :=
  ∀ (s : State) (ses idx sub : Nat) (x : Session), OpenSession s ses 1 x →
    (∀ e, getStatus s x idx sub = .ok → entry? idx sub = some e → ¬(idx = 0x7000 ∧ sub = 3) →
      ∃ t, exec (.dictGet ses idx sub) s = .next t ∧ Out.msg ses (response s ses 1 idx sub .ok (entryBytes (touch s ses) x idx sub e)) ∈ t.out ∧
        Touches (.fresh :: replyFields) s t) ∧
    (getStatus s x idx sub ≠ .ok → ∃ t, exec (.dictGet ses idx sub) s = .next t ∧
      Out.msg ses (response s ses 1 idx sub (getStatus s x idx sub) []) ∈ t.out ∧ Touches replyFields s t) ∧
    (getStatus s x 0x7000 3 = .ok → exec (.dictGet ses 0x7000 3) s = exec (.logRead ses) s ∧
      (let r := scanLog s x 256 none (s.log.filter (fun e => decide (x.logSeek ≤ e.num)))
       ∃ t, exec (.logRead ses) s = .next t ∧ Out.msg ses (response s ses 1 0x7000 3 .ok r.1) ∈ t.out ∧
        sesAt t ses = some { x with logSeek := match r.2 with | some n => n + 1 | none => x.logSeek } ∧
        Touches (.sessions :: replyFields) s t))

/-- Writes of entries without a command of their own (R13, R16, R286, R601, R620): an accepted SET stores its value (a write-one-to-clear
entry loses the bits that are written 1, and CANOPY_PARENT is also the parent in use), and nothing else changes; entries of the session
itself go to the session. -/
def Obligations.WritesStoreTheValue : Prop :=
  ∀ (s : State) (ses idx sub : Nat) (x : Session) (val : List Byte) (e : Entry), OpenSession s ses 2 x →
    ownWrite ses idx sub val s = none → plainStatus s x idx sub val = .ok → entry? idx sub = some e →
    (idx ≠ 0x9010 → ¬(idx = 0x7000 ∧ sub = 2) →
      SetTakes s (.dictSet ses idx sub val) ses idx sub [.regs, .blobs] (fun t =>
        (isW1c e = true → rg t idx sub = rg s idx sub - (rg s idx sub &&& leNat val) ∧ OnlyRegs [(idx, sub)] s t) ∧
        (isW1c e = false → (∀ n, e.ty ≠ .str n ∧ e.ty ≠ .blob n ∧ e.ty ≠ .table n) → e.ty ≠ .inv →
          rg t idx sub = leNat val ∧ OnlyRegs [(idx, sub), (idx, 6)] s t ∧
          (¬((locate idx).1 = 0x2210 ∧ sub = 2) → OnlyRegs [(idx, sub)] s t)) ∧
        (isW1c e = false → ¬((locate idx).1 = 0x2210 ∧ sub = 2) → (∃ n, e.ty = .str n ∨ e.ty = .blob n ∨ e.ty = .table n) →
          rb t idx sub = val ∧ OnlyRegs [] s t ∧ BlobsKept (fun k => k == rkey idx sub) s t))) ∧
    (idx = 0x9010 → sub = 5 → SetTakes s (.dictSet ses idx sub val) ses idx sub [.sessions] (fun t =>
      sesAt t ses = some { x with bounce := val })) ∧
    (idx = 0x9010 → sub = 8 → SetTakes s (.dictSet ses idx sub val) ses idx sub [.sessions] (fun t =>
      sesAt t ses = some { x with mask := leNat val })) ∧
    (idx = 0x7000 → sub = 2 → SetTakes s (.dictSet ses idx sub val) ses idx sub [.sessions] (fun t =>
      sesAt t ses = some { x with logSeek := leNat val }))

/-- A SET of an entry that has a command of its own does what that command does (R16, R601), and so does a message whose header names INVOKE
of an entry that starts an operation (R604, R610). -/
def Obligations.WritesOfCommandEntriesAreTheCommand : Prop :=
  ∀ (s : State) (ses : Nat) (val : List Byte),
    ((∀ h, headOf s ses = some h → h.op ≠ 3) →
      (∀ l, l < 64 → exec (.dictSet ses (0x3000 + 16 * l) 1 val) s = exec (.linkAdmin ses l val) s) ∧
      (∀ p, p < 4 → exec (.dictSet ses (0x2120 + p) 5 val) s = exec (.planStartBeat ses p val) s ∧
        exec (.dictSet ses (0x6040 + p) 6 val) s = exec (.partMaint ses p val) s ∧
        exec (.dictSet ses (0x7010 + p) 1 val) s = exec (.planReset ses p val) s ∧
        exec (.dictSet ses (0x3410 + p) 1 val) s = exec (.bundles ses p val) s ∧
        (∀ d, d < 4 → exec (.dictSet ses (0x3410 + p) (2 + d) val) s = exec (.routeTableWrite ses p d val) s)) ∧
      (∀ q, q < 128 → exec (.dictSet ses (0x3800 + q) 1 val) s = exec (.rankTableWrite ses q val) s) ∧
      exec (.dictSet ses 0x9010 6 val) s = exec (.ringWrite ses false val) s ∧
      exec (.dictSet ses 0x7008 3 val) s = exec (.warmReset ses val) s ∧
      exec (.dictSet ses 0x6010 1 val) s = exec (.rw2pWrite ses 0x6010 1 (val.take (val.length - 96)) (changeNonce s)
        (if val.length < 96 then [] else val.drop (val.length - 96))) s) ∧
    (∀ h, headOf s ses = some h → h.op = 3 →
      exec (.dictSet ses 0x1008 1 val) s = exec (.attest ses val) s ∧
      (∀ p, p < 4 → exec (.dictSet ses (0x2120 + p) 2 val) s = exec (.planLoad ses p val) s ∧
        exec (.dictSet ses (0x6040 + p) 4 val) s = exec (.partAssign ses p) s ∧
        exec (.dictSet ses (0x6040 + p) 5 val) s = exec (.partRelease ses p) s) ∧
      (∀ l, l < 64 → exec (.dictSet ses (0x3000 + 16 * l) 6 val) s = exec (.linkRetrain ses l) s) ∧
      (∀ c, c < 64 → exec (.dictSet ses (0x4440 + c) 5 val) s = exec (.ctxGraft ses c) s))

/-- The lock and handles (R604, R606, R607, R609, R611 to R613). LOCK takes a lock that is free or its own; an Owner or Operator takes it from a
Tenant, whose session receives LOCK_LOST if it asked for the event; any other answer is LOCKED. UNLOCK frees the holder's lock, and 2 s of
silence do. POLL answers a handle's record and result to the session that owns it and to Owner and Operator, NO_HANDLE otherwise. A VALUE of another size than the
operation's is TYPE. Outside an open session all three are DENIED, and as a fifth request BUSY. A handle that has
been DONE for 60 s is gone. -/
def Obligations.LockAndHandles : Prop :=
  ∀ (s : State) (ses : Nat), s.powered = true →
    (∀ x, OpenSession s ses 5 x → valueLen s ses [] = 0 →
      let ans := fun (st : Status) (v : List Byte) => Out.msg ses (response s ses 5 0 0 st v)
      ((s.lockBy = none ∨ s.lockBy = some ses) → ∃ t, exec (.lock ses) s = .next t ∧ t.lockBy = some ses ∧ t.lockLeft = 2000 ∧
        ans .ok (leBytes 2 2000) ∈ t.out ∧ Touches (.lockBy :: replyFields) s t) ∧
      (∀ h, s.lockBy = some h → h ≠ ses → mayTake s x h = true → ∃ t, exec (.lock ses) s = .next t ∧ t.lockBy = some ses ∧
        t.lockLeft = 2000 ∧ ans .ok (leBytes 2 2000) ∈ t.out ∧
        (∀ y, sesAt s h = some y → y.up = true → bit y.mask 3 = true → ∃ v, Out.event h v ∈ t.out ∧ leAt v 20 1 = 4 ∧ leAt v 24 1 = 1) ∧
        Touches ([Field.lockBy] ++ eventFields ++ replyFields) s t) ∧
      (∀ h, s.lockBy = some h → h ≠ ses → mayTake s x h = false → ∃ t, exec (.lock ses) s = .next t ∧ ans .locked [] ∈ t.out ∧
        t.lockLeft = s.lockLeft ∧ Touches replyFields s t)) ∧
    (∀ x, OpenSession s ses 6 x → valueLen s ses [] = 0 →
      (s.lockBy = some ses → ∃ t, exec (.unlock ses) s = .next t ∧ t.lockBy = none ∧ t.lockLeft = 0 ∧
        Out.msg ses (response s ses 6 0 0 .ok []) ∈ t.out ∧ Touches (.lockBy :: replyFields) s t) ∧
      (s.lockBy ≠ some ses → ∃ t, exec (.unlock ses) s = .next t ∧ Out.msg ses (response s ses 6 0 0 .locked []) ∈ t.out ∧
        Touches replyFields s t)) ∧
    (∀ x h, OpenSession s ses 4 x → valueLen s ses (leBytes 4 h) = 4 →
      (∀ k, handleAt s h = some k → (k.ses = ses ∨ x.role = .ow ∨ x.role = .op) → ∃ t, exec (.poll ses h) s = .next t ∧
        Out.msg ses (response s ses 4 0 0 .ok (Handle.bytes k ++ k.result)) ∈ t.out ∧ Touches replyFields s t) ∧
      ((∀ k, handleAt s h = some k → k.ses ≠ ses ∧ x.role ≠ .ow ∧ x.role ≠ .op) → ∃ t, exec (.poll ses h) s = .next t ∧
        Out.msg ses (response s ses 4 0 0 .noHandle []) ∈ t.out ∧ Touches replyFields s t)) ∧
    (∀ i op n, (i = .lock ses ∧ op = 5 ∧ n = 0 ∨ i = .unlock ses ∧ op = 6 ∧ n = 0 ∨ (∃ h, i = .poll ses h) ∧ op = 4 ∧ n = 4) →
      (∀ x, OpenSession s ses op x → (∀ v, valueLen s ses v ≠ n) → ∃ t, exec i s = .next t ∧
        Out.msg ses (response s ses op 0 0 .type []) ∈ t.out ∧ t.lockBy = s.lockBy ∧ Touches replyFields s t) ∧
      (∀ x, UpSession s ses x → fifthAsk s ses = true → ∃ t, exec i s = .next t ∧
        Out.msg ses (response s ses op 0 0 .busy []) ∈ t.out ∧ t.lockBy = s.lockBy ∧ Touches replyFields s t) ∧
      (s.mcDown = false → (∀ x, sesAt s ses = some x → x.up = false) → ∃ t, exec i s = .next t ∧
        Out.msg ses (response s ses op 0 0 .denied []) ∈ t.out ∧ Touches [.out, .heads, .alertN] s t)) ∧
    (∀ h ms, s.lockBy = some h → 2000 ≤ ms → ∃ t, exec (.lockLeaseExpiry ms) s = .next t ∧ t.lockBy = none ∧ t.lockLeft = 0 ∧
      (∀ y, s.mcDown = false → sesAt s h = some y → y.up = true → bit y.mask 3 = true →
        ∃ v, Out.event h v ∈ t.out ∧ leAt v 20 1 = 4 ∧ leAt v 24 1 = 0) ∧
      Touches ([Field.lockBy, .lockLeft, .alertN] ++ eventFields) s t) ∧
    (∀ h k sec, handleAt s h = some k → k.st = 2 → 60 ≤ sec → ∃ t, exec (.handleExpiry h sec) s = .next t ∧
      t.handles = s.handles.filter (fun g => g.h != h) ∧ Touches [.handles, .alertN] s t)

/-- Loading and resetting plans (R179, R299, R548, R611, R635 to R637, R647). PLAN_LOAD of a partition in MAINTENANCE, DIRTY or SCRUBBING
completes BUSY, of a LOADING or RUNNING plan STATE; otherwise the plan is LOADING and the partition used. The end of the load leaves the
plan LOADED from the relocated image, every core with its seed, its regions and nothing else, or as it was before, with the status of its
first failed check. PLAN_RESET waits for its end, which leaves the plan LOADED, every core at its seed, every count of progress 0; or the plan
NONE when the restore image holds an uncorrectable error. -/
def Obligations.PlansLoadAndReset : Prop :=
  ∀ (s : State) (p : Nat), s.powered = true → p ∈ partitions s →
    let before := partAt s p
    (∀ ses x arg, OpenSession s ses 3 x → invStatus s x (0x2120 + p) 2 arg 16 false (leAt arg 0 8 % 4096 != 0) false = .ok →
      InvokeTakes s (.planLoad ses p arg) ses (0x2120 + p) 2 1 (.parts :: eventFields) (fun t h =>
        ((1 ≤ partState s p ∧ partState s p ≤ 3) → HandleDone t h .busy 0 [] ∧ planState t p = planState s p ∧ partAt t p = before) ∧
        (¬(1 ≤ partState s p ∧ partState s p ≤ 3) → planState s p = 1 ∨ planState s p = 3 →
          HandleDone t h .state 0 [] ∧ planState t p = planState s p ∧ partAt t p = before) ∧
        (¬(1 ≤ partState s p ∧ partState s p ≤ 3) → planState s p ≠ 1 → planState s p ≠ 3 →
          planState t p = 1 ∧ rg t (0x6040 + p) 2 = 1 ∧ OtherParts p s t ∧
          partAt t p = { before with loading := some { handle := h, addr := leAt arg 0 8, len := leAt arg 8 8, prev := planState s p } }))) ∧
    (∀ r, before.loading = some r →
      let w := setPlanState (setPart s p { before with loading := none }) p r.prev
      let st := loadStatus w p r (peek s r.addr r.len)
      (st.1 ≠ .ok → ∃ t, exec (.planLoadComplete p ()) s = .next t ∧ planState t p = r.prev ∧ (partAt t p).loading = none ∧
        (HandleWaits s r.handle → HandleDone t r.handle st.1 0 []) ∧
        Touches ([Field.regs, .blobs, .faultq, .capSeen, .parts, .handles, .alertN] ++ eventFields) s t) ∧
      (st.1 = .ok → ∃ t, exec (.planLoadComplete p ()) s = .next t ∧ planState t p = 2 ∧ rg t (0x2120 + p) 5 = 0 ∧
        rb t (0x2120 + p) 4 = sha384 (digestMsg (peek s r.addr r.len)) ∧ (partAt t p).guarded = true ∧
        (partAt t p).stage = r.addr ∧ (partAt t p).dieMap = bindDies (bindOf w p) (capDies st.2) ∧
        (∀ u, partOf s u = p → dieOf u < dies s.variant → coreAt t u = loadedCore st.2 (bindDies (bindOf w p) (capDies st.2)) u) ∧
        (∀ u, partOf s u ≠ p → coreAt t u = coreAt s u) ∧ OtherParts p s t ∧
        (HandleWaits s r.handle → HandleDone t r.handle .ok 0 []))) ∧
    (before.loading = none → ∃ t, exec (.planLoadComplete p ()) s = .next t ∧ Touches [.alertN] s t) ∧
    (∀ ses x val, OpenSession s ses 2 x →
      setStatus s x (0x7010 + p) 1 val (planState s p != 4 && planState s p != 5) false false before.resetting = .ok →
      SetTakes s (.planReset ses p val) ses (0x7010 + p) 1 [.parts] (fun t => partAt t p = { before with resetting := true } ∧
        OtherParts p s t)) ∧
    (∀ us, before.resetting = false → ∃ t, exec (.planResetComplete p us) s = .next t ∧ Touches [.alertN] s t) ∧
    (∀ us, before.resetting = true → planState s p = 4 ∨ planState s p = 5 →
      (restoreError (zeroOnChip (clearRun s p) p) p = none → ErrsFitted s → ∃ t, exec (.planResetComplete p us) s = .next t ∧ planState t p = 2 ∧
        (∀ i, 5 ≤ i → i ≤ 8 → rg t (0x2120 + p) i = 0) ∧ rg t (0x7010 + p) 5 = us ∧ (partAt t p).resetting = false ∧
        (partAt t p).alarm = false ∧ (partAt t p).step = none ∧
        (∀ u, partOf s u = p → dieOf u < dies s.variant → coreAt t u =
          { gen := (coreAt s u).seed, seed := (coreAt s u).seed, dcount := (coreAt s u).dcount, regions := (coreAt s u).regions }) ∧
        (∀ u, partOf s u ≠ p → coreAt t u = coreAt s u)) ∧
      (restoreError (zeroOnChip (clearRun s p) p) p ≠ none → ∃ t, exec (.planResetComplete p us) s = .next t ∧ planState t p = 0 ∧
        rg t (0x2120 + p) 5 = 0 ∧ rg t (0x7010 + p) 5 = us ∧ (partAt t p).guarded = false))

/-- The serving unit (R482, R483, R485, R488 to R495, R498, R503). A command waits in its partition's queue while a STEP runs or is dispatched in its cycle, others wait,
or its records do not fit. Otherwise it is refused with the first code that applies and one record, or a SUBMIT takes the lowest free entry
and the lowest free pages with its page list (model's choice, log entry 47), and a CANCEL ends a QUEUED entry (DROPPED, or FREE at once while the plan does not run) or marks an ACTIVE one.
A STEP starts its boundary at its cycle, with its slip counted, and lasts 256 + 2 SLOTS cycles; when its records are in the store and that time has
passed, it counts, with the cycles that it waited and those beyond, and signals. When none may start or none is in progress, nothing happens. -/
def Obligations.ServingRuns : Prop :=
  ∀ (s : State), s.powered = true →
    (∀ ses cmd i, (i = Instr.submit ses cmd ∨ i = .cancel ses cmd) →
      let p := leAt cmd 3 1
      let q := if p ∈ partitions s then p else 0
      let dest := answerDest s ses (if ses = none then q else p)
      ((partAt s q).step.isSome = true ∨ stepDue s q = true ∨ (partAt s q).cmdQ ≠ [] ∨ recordRoom s < recordNeed s q ses cmd → ∃ t, exec i s = .next t ∧
        partAt t q = { partAt s q with cmdQ := (partAt s q).cmdQ ++ [(match ses with | none => 0 | some k => k + 1, cmd)] } ∧
        OtherParts q s t ∧ Touches [.parts, .alertN] s t) ∧
      ((partAt s q).step = none → stepDue s q = false → (partAt s q).cmdQ = [] → recordNeed s q ses cmd ≤ recordRoom s →
        (codeAt s q ses cmd ≠ 0 → ∃ t, exec i s = .next t ∧
          (let w := putRecord s dest (recBytes 2 (codeAt s q ses cmd) 0 (leAt cmd 4 4) s.beat (leAt cmd 0 1) 0 [])
           t.records = w.records ∧ t.out = w.out) ∧ Touches [.records, .sessions, .out, .msixPba, .alertN] s t) ∧
        (codeAt s q ses cmd = 0 → leAt cmd 0 1 = 1 → ∃ t, exec i s = .next t ∧
          servAt t (lowFree s p) =
            { tag := leAt cmd 4 4, deadline := leAt cmd 8 6, listPtr := listPtr s p (lowFree s p), maxNew := leAt cmd 20 4, gen := 0,
              length := leAt cmd 16 4, pages := lowPages s p (leAt cmd 14 2), slot := 0, slv := false, ctx := leAt cmd 2 1,
              prio := leAt cmd 1 1, reason := 0, st := 1 } ∧
          t.mem = (poke s (listPtr s p (lowFree s p)) ((lowPages s p (leAt cmd 14 2)).map (leBytes 4)).flatten).mem ∧
          (∀ k, k ≠ lowFree s p → servAt t k = servAt s k) ∧ Touches [.serve, .records, .sessions, .out, .msixPba, .mem, .ecc, .alertN] s t) ∧
        (codeAt s q ses cmd = 0 → leAt cmd 0 1 ≠ 1 →
          let e := leAt cmd 24 2
          let x := servAt s e
          ∃ t, exec i s = .next t ∧
            (x.st = 1 → planState s p = 3 → servAt t e = { x with pages := [], slv := false, st := 5, reason := 5 } ∧
              ∀ k, k ≠ e → servAt t k = servAt s k) ∧
            (x.st = 1 → planState s p ≠ 3 → servAt t e = {}) ∧
            (x.st = 1 → rg t (0x4810 + p) 10 = counted (rg s (0x4810 + p) 10) 1) ∧
            (x.st ≠ 1 → servAt t e = { x with st := 3 } ∧ ∀ k, k ≠ e → servAt t k = servAt s k) ∧
            Touches [.serve, .records, .sessions, .out, .msixPba, .regs, .faultq, .alertN] s t))) ∧
    (∀ u c, u < coresOf s.variant →
      let t := coreTick s u c
      let x := coreAt t u
      let p := partOf t u
      (∀ q, readyHeld t u 0x50 = some q → (partAt t p).step = none →
        let w := heldSlip t u q
        let next := { x with held := none, idleTill := absNow t + 1, calls := followCalls x q.cnt }
        let b := boundary (setCore w u next) u p q
        let k := stepWait b.1 p q.raw
        ∃ t', exec (.step u c) s = .next t' ∧ t'.mem = b.1.mem ∧ t'.serve = b.1.serve ∧ coreAt t' u = next ∧ OtherCores u t t' ∧
          partAt t' p = { partAt b.1 p with
            step := some { u := u, d := q, start := absNow t, fin := absNow t + 256 + 2 * fld q.raw 256 11 + k, wait := k, recs := b.2 },
            stepCfg := some (fld q.raw 256 11, fld q.raw 276 4) } ∧ OtherParts p b.1 t' ∧ SlipCounted u q 1 t t' ∧
          Touches [.cores, .parts, .serve, .mem, .ecc, .regs, .blobs, .faultq, .capSeen, .fresh, .alertN] t t') ∧
      (readyHeld t u 0x50 = none ∨ (partAt t p).step.isSome = true →
        ∃ t', exec (.step u c) s = .next t' ∧ Touches [.alertN] t t')) ∧
    (∀ p c, p ∈ partitions s →
      let t0 := tick s c
      planState t0 p = 3 →
      (∀ r, (partAt t0 p).step = some r → r.recs.length ≤ recordRoom t0 →
        let now := absNow t0
        (r.fin ≤ now →
          let x := coreAt (settle t0 r.u now) r.u
          ∃ t, exec (.stepComplete p c) s = .next t ∧ (partAt t p).step = none ∧
            (coreAt t r.u).outst = x.outst.filter (fun o => o.cnt != r.d.cnt) ∧
            (coreAt t r.u).addNow = (if dSV r.d.raw then insAdd x.addNow { ctr := dSid r.d.raw, src := 7, inc := dSinc r.d.raw } else x.addNow) ∧
            rg t (0x4810 + p) 8 = counted (rg t0 (0x4810 + p) 8) 1 ∧ rg t (0x4810 + p) 12 = counted (rg t0 (0x4810 + p) 12) (now - r.fin + r.wait) ∧
            OtherCores r.u t0 t ∧
            Touches [.cores, .parts, .capSeen, .faultq, .regs, .serve, .mem, .ecc, .records, .sessions, .out, .msixPba, .alertN] t0 t) ∧
        (now < r.fin → ∃ t, exec (.stepComplete p c) s = .next t ∧ (partAt t p).step = some { r with recs := [] } ∧
          Touches [.records, .sessions, .out, .msixPba, .parts, .alertN] t0 t)) ∧
      ((partAt t0 p).step = none → ∃ t, exec (.stepComplete p c) s = .next t ∧ Touches [.alertN] t0 t)) ∧
    (∀ ses x val, OpenSession s ses 2 x →
      setStatus s x 0x4800 3 val false false (leNat val == 1 && !s.serve.isEmpty) false = .ok →
      SetTakes s (.serveMaint ses val) ses 0x4800 3 [.regs] (fun t => rg t 0x4800 3 = leNat val ∧ OnlyRegs [(0x4800, 3)] s t)) ∧
    (∀ ses x, OpenSession s ses 3 x → invStatus s x 0x4800 4 [] 0 (rg s 0x4800 3 != 1) false s.serveTest.isSome = .ok →
      InvokeTakes s (.serveSelftest ses) ses 0x4800 4 12 [.serveTest] (fun t h => t.serveTest = some h)) ∧
    (∀ pass h, hasServe s.variant = true → s.serveTest = some h → ∃ t, exec (.serveSelftestEnd pass) s = .next t ∧ t.serveTest = none ∧
      t.serve = [] ∧ t.records = [] ∧ leAt (rb t 0x4800 5) 0 1 = (if pass then 1 else 2) ∧ (HandleWaits s h → HandleDone t h .ok 0 []) ∧
      Touches ([Field.serveTest, .serve, .records, .blobs, .handles, .alertN] ++ eventFields) s t)

/-- Contexts (R455 to R463, R470, R471, R573, R592). CTX_INSTALL of a manifest whose signature verifies under its installer key makes the context INSTALLING under a new key with its
space reserved and its BEGIN in the journal; it is refused without one, or while the keys are blocked (reason 1: log entry 31). The next chunk in order is stored with its leaf; the last one makes
the context READY when the tree's root is the manifest's, else it is EMPTY and erased; a chunk out of order and 10 s without one end the
install. Erasing makes a context EMPTY without its key, releasing a GRAFTED one READY, and returned blocks are free again. -/
def Obligations.ContextsInstallAndEnd : Prop :=
  ∀ (s : State) (c : Nat), s.powered = true → c < 64 →
    let y := ctxAt s c
    let idx := 0x4440 + c
    (∀ ses x arg, OpenSession s ses 3 x →
      invStatus s x idx 3 arg 0 (ctxState s c != 0 && ctxState s c != 2)
        (manifestBad (manifest s c) || decide (rg s 0x4400 3 < ctxSpace (manifest s c))) (flashBusy s) = .ok →
      InvokeTakes s (.ctxInstall ses c arg) ses idx 3 2 (.ctxs :: .fresh :: eventFields) (fun t h => rg t idx 8 = 0 ∧
        (s.keysBlocked = true → HandleDone t h .state 1 [] ∧ ctxState t c = ctxState s c ∧ t.ctxs = s.ctxs) ∧
        (s.keysBlocked = false → installerOk s (manifest s c) = false → HandleDone t h .denied 3 [] ∧
          ctxState t c = ctxState s c ∧ (ctxState s c = 2 → (ctxAt t c).key = none)) ∧
        (s.keysBlocked = false → installerOk s (manifest s c) = true → ctxState t c = 1 ∧ (ctxAt t c).begun = true ∧
          (ctxAt t c).handle = some h ∧ (ctxAt t c).key = some (keyWrap (kwkBytes s) (leBytes 64 (Config.randomDraw s.fresh).toNat)) ∧
          storedChunks (ctxAt t c) = 0 ∧ (ctxAt t c).leaves = [] ∧
          (ctxAt t c).reserved = ctxSpace (manifest s c) ∧ rg t 0x4400 3 = rg s 0x4400 3 - ctxSpace (manifest s c)))) ∧
    (∀ slot hdr e hr x l, RecordNext s slot hdr e hr x l → recForm x 4 e hdr hr = true → recTarget hdr % 256 = c →
      bits (recTarget hdr) 8 24 = 0 → l.length = 2 ^ 20 → x.role = .op → ctxState s c = 1 → s.mcDown = false →
      let i := recTarget hdr / 2 ^ 32
      let z := { storeChunk (kwkBytes s) y l with leaves := y.leaves ++ [leafOf i l] }
      ∃ t, exec (.installChunk slot hdr hr) s = .next t ∧ Touches ([Field.ctxs, .regs, .handles, .fresh, .faultq] ++ eventFields ++ ackFields) s t ∧
        (i = storedChunks y → i + 1 < ctxChunks s c → ctxAt t c = z ∧ rg t idx 8 = i + 1 ∧ ctxState t c = 1) ∧
        (i = storedChunks y → i + 1 = ctxChunks s c → Config.flashUe s.fresh = false → merkleRoot z.leaves = ((manifest s c).drop 32).take 48 →
          ctxAt t c = { z with handle := none, begun := false } ∧ ctxState t c = 3 ∧
          ∀ h, y.handle = some h → rg t idx 9 = 0 ∧ (HandleWaits s h → HandleDone t h .ok 0 [])) ∧
        (i = storedChunks y → i + 1 = ctxChunks s c → Config.flashUe s.fresh = false → merkleRoot z.leaves ≠ ((manifest s c).drop 32).take 48 →
          (ctxAt t c).key = none ∧ ctxState t c = 0 ∧ rg t idx 9 = 7) ∧
        (i ≠ storedChunks y ∨ ctxChunks s c ≤ i → (ctxAt t c).key = none ∧ ctxState t c = 0 ∧ rg t idx 9 = 6) ∧
        (i = storedChunks y → i + 1 = ctxChunks s c → Config.flashUe s.fresh = true → (ctxAt t c).key = none ∧ ctxState t c = 0 ∧
          rg t idx 9 = 9)) ∧
    (∀ ms, ctxState s c = 1 → 10000 ≤ ms → ∃ t, exec (.hostIdle c ms) s = .next t ∧ ctxState t c = 0 ∧ rg t idx 9 = 5 ∧
      (ctxAt t c).key = none ∧ storedChunks (ctxAt t c) = 0 ∧ rg t 0x4400 3 = rg s 0x4400 3 + y.reserved ∧
      Touches ([Field.ctxs, .regs, .handles, .alertN] ++ eventFields) s t) ∧
    (∀ ses x, OpenSession s ses 3 x →
      invStatus s x idx 7 [] 0 (ctxState s c != 3 && ctxState s c != 2) false (flashBusy s) = .ok →
      InvokeTakes s (.ctxErase ses c) ses idx 7 5 (.ctxs :: eventFields) (fun t h => ctxState t c = 0 ∧ HandleDone t h .ok 0 [] ∧
        ctxAt t c = { y with key := none, leaves := [], flash := [], owed := y.owed + y.reserved, reserved := 0, begun := false })) ∧
    (∀ ses x, OpenSession s ses 3 x → invStatus s x idx 6 [] 0 (ctxState s c != 4 || ctxBound s c) false false = .ok →
      InvokeTakes s (.ctxRelease ses c) ses idx 6 4 eventFields (fun t h => ctxState t c = 3 ∧ rg t idx 10 = 0 ∧
        HandleDone t h .ok 0 [])) ∧
    (∀ ses x, OpenSession s ses 3 x → preStatus s x 3 idx 6 = .ok → ctxBound s c = true →
      ∃ t, exec (.ctxRelease ses c) s = .next t ∧ Out.msg ses (response s ses 3 idx 6 .state []) ∈ t.out ∧ Touches replyFields s t) ∧
    (∃ t, exec (.flashBlockReturn c) s = .next t ∧ rg t 0x4400 3 = rg s 0x4400 3 + y.owed ∧ (ctxAt t c).owed = 0 ∧
      OnlyRegs [(0x4400, 3)] s t ∧ Touches [.ctxs, .regs, .alertN] s t)

/-- Grafts, and the tests of flash and HBM (R309, R336, R463 to R468, R476, R477). CTX_GRAFT queues a graft, and its target partition is used; the first in the queue starts when
none runs, its checks deciding; it ends in a cycle in which background traffic may reach its target, not in another: the chunks stand at the target and the context is GRAFTED, or a chunk that differs from its leaf or
cannot be read leaves it INCOMPLETE. FLASH_MAINT takes its value, the tests run until they end, and a tested die's HBM is zero. -/
def Obligations.GraftsAndMemoryTests : Prop :=
  ∀ (s : State), s.powered = true →
    (∀ ses c x, OpenSession s ses 3 x → c < 64 →
      let a := rg s (0x4440 + c) 4
      invStatus s x (0x4440 + c) 5 [] 0 (ctxState s c != 3 || targetUse s c a (ctxLen s c)) (targetBad s a (ctxLen s c))
        (targetBusy s a (ctxLen s c) || decide (8 ≤ s.grafts.length)) = .ok →
      InvokeTakes s (.ctxGraft ses c) ses (0x4440 + c) 5 3 [.grafts] (fun t h =>
        rg t (0x6040 + hbmPart s a) 2 = 1 ∧ t.grafts = s.grafts ++ [{ ctx := c, handle := h, target := a, part := hbmPart s a }])) ∧
    (∀ ue g r, s.graftRun = none → s.grafts = g :: r → s.railsUp = true → s.flashTest = none → s.mcDown = false →
      trafficHeld s g.target (ctxLen s g.ctx) = false →
      ∃ t, exec (.graftStart ue) s = .next t ∧ t.grafts = r ∧ rg t (0x4440 + g.ctx) 8 = 0 ∧
        Touches ([Field.grafts, .graftRun, .regs, .handles, .alertN, .faultq] ++ eventFields) s t ∧
        (s.keysBlocked = true ∨ ctxState s g.ctx ≠ 3 → t.graftRun = none ∧ rg t (0x4440 + g.ctx) 9 = 1) ∧
        (s.keysBlocked = false → ctxState s g.ctx = 3 → ue = false → installerOk s (manifest s g.ctx) = false →
          t.graftRun = none ∧ ctxState t g.ctx = 3 ∧ rg t (0x4440 + g.ctx) 9 = 3) ∧
        (s.keysBlocked = false → ctxState s g.ctx = 3 → ue = false → installerOk s (manifest s g.ctx) = true →
          (merkleRoot (ctxAt s g.ctx).leaves ≠ ((manifest s g.ctx).drop 32).take 48 →
            t.graftRun = none ∧ ctxState t g.ctx = 2 ∧ rg t (0x4440 + g.ctx) 9 = 7) ∧
          (merkleRoot (ctxAt s g.ctx).leaves = ((manifest s g.ctx).drop 32).take 48 →
            t.graftRun = some g ∧ ctxState t g.ctx = 3)) ∧
        (s.keysBlocked = false → ctxState s g.ctx = 3 → ue = true → t.graftRun = none ∧
          ctxState t g.ctx = 2 ∧ rg t (0x4440 + g.ctx) 9 = 9 ∧ rg t 0x4400 10 = counted (rg s 0x4400 10) 1)) ∧
    (∀ ue, s.graftRun.isSome = true ∨ s.grafts = [] → ∃ t, exec (.graftStart ue) s = .next t ∧ Touches [.alertN] s t) ∧
    (∀ g, s.graftRun = some g → s.railsUp = true → ctxState s g.ctx = 3 →
      plansUse s g.target (ctxLen s g.ctx) = false → bgHeld s g.target (ctxLen s g.ctx) = false →
      let n := ctxChunks s g.ctx
      let graftFields := [Field.graftRun, .regs, .mem, .ecc, .chReady, .act, .handles, .fresh, .faultq, .alertN] ++ eventFields
      (∃ t, exec (.graftComplete none false) s = .next t ∧ t.graftRun = none ∧ t.mem = (landChunks s g n).mem ∧
        ctxState t g.ctx = 4 ∧ rg t (0x4440 + g.ctx) 10 = g.target + 2 ^ 63 ∧ rg t (0x4440 + g.ctx) 8 = n ∧ rg t (0x4440 + g.ctx) 9 = 0 ∧
        (HandleWaits s g.handle → HandleDone t g.handle .ok 0 []) ∧ Touches graftFields s t) ∧
      (∀ i, ∃ t, exec (.graftComplete (some i) false) s = .next t ∧ t.graftRun = none ∧ ctxState t g.ctx = 2 ∧
        rg t (0x4440 + g.ctx) 9 = 8 ∧ (HandleWaits s g.handle → HandleDone t g.handle .state 8 []) ∧ Touches graftFields s t) ∧
      (∀ bad, ∃ t, exec (.graftComplete bad true) s = .next t ∧ t.graftRun = none ∧ ctxState t g.ctx = 2 ∧
        rg t (0x4440 + g.ctx) 9 = 9 ∧ rg t 0x4400 10 = counted (rg s 0x4400 10) 1 ∧ Touches graftFields s t)) ∧
    (∀ g bad ue, s.graftRun = some g → bgHeld s g.target (ctxLen s g.ctx) = true →
      ∃ t, exec (.graftComplete bad ue) s = .next t ∧ Touches [.alertN] s t) ∧
    (∀ ses x val, OpenSession s ses 2 x → setStatus s x 0x4400 6 val false false
        ((List.range 4).any (fun i => bit (leNat val) i && !bit (rg s 0x4400 6) i) && (List.range 64).any (fun c => ctxState s c == 1))
        s.flashTest.isSome = .ok →
      SetTakes s (.flashMaint ses val) ses 0x4400 6 [.regs] (fun t => rg t 0x4400 6 = leNat val ∧ OnlyRegs [(0x4400, 6)] s t)) ∧
    (∀ ses x, OpenSession s ses 3 x → invStatus s x 0x4400 7 [] 0 (rg s 0x4400 6 == 0) false s.flashTest.isSome = .ok →
      InvokeTakes s (.flashSelftest ses) ses 0x4400 7 10 [.flashTest] (fun t h => t.flashTest = some (h, rg s 0x4400 6))) ∧
    (∀ res h m, s.flashTest = some (h, m) → ∃ t, exec (.flashSelftestEnd res) s = .next t ∧ t.flashTest = none ∧
      rg t 0x4400 10 = counted (rg s 0x4400 10)
        ((List.range 4).map (fun i => if bit m i then leAt res (16 * i + 8) 8 else 0)).sum ∧
      (∀ i, i < 4 → bit m i = true → leAt (rb t 0x4400 8) (16 * i) 1 = if leAt res (16 * i) 1 = 1 then 1 else 2) ∧
      (HandleWaits s h → HandleDone t h .ok 0 []) ∧
      Touches ([Field.flashTest, .regs, .blobs, .faultq, .handles, .alertN] ++ eventFields) s t) ∧
    (∀ ses x, OpenSession s ses 3 x →
      let m := rg s 0x4008 1
      invStatus s x 0x4008 2 [] 0 ((List.range (dies s.variant)).any (fun d => bit m d && partState s (partLow s d) != 1))
        (m == 0 || decide (2 ^ dies s.variant ≤ m)) s.hbmTest.isSome = .ok →
      InvokeTakes s (.hbmSelftest ses) ses 0x4008 2 9 [.hbmTest] (fun t h => t.hbmTest = some (h, m))) ∧
    (∀ fail h m, s.hbmTest = some (h, m) → ∃ t, exec (.hbmSelftestEnd fail) s = .next t ∧ t.hbmTest = none ∧
      (∀ d b, d < dies s.variant → bit m d = true → d * dieHbm ≤ b → b < d * dieHbm + dieHbm → mget t.mem b = 0) ∧
      (∀ b, (∀ d, d < dies s.variant → bit m d = true → b < d * dieHbm ∨ d * dieHbm + dieHbm ≤ b) → mget t.mem b = mget s.mem b) ∧
      (HandleWaits s h → HandleDone t h .ok 0 []) ∧
      Touches ([Field.hbmTest, .mem, .ecc, .blobs, .handles, .alertN] ++ eventFields) s t)

/-- Partitions (R548 to R555). An IDLE partition that was not used is ASSIGNED at once, a used one is scrubbed first; releasing a partition
whose plan does not run scrubs it, of a RUNNING one waits for the freeze; maintenance is entered and left as PART_MAINT says. A scrub that
passes leaves the partition IDLE, or ASSIGNED when it was asked for, unused, its HBM and on-chip memories zero and its cores at their reset
state; one that fails leaves it DIRTY; either way the contexts named when it was recorded are erased where they can be. A scrub does not end
while a link that drains holds frames or pool units. The handles that waited complete. -/
def Obligations.PartitionsChangeState : Prop :=
  ∀ (s : State) (p : Nat), s.powered = true → p ∈ partitions s →
    let idx := 0x6040 + p
    (∀ ses x, OpenSession s ses 3 x → invStatus s x idx 4 [] 0 (partState s p != 0 || leNat (rb s idx 3) == 0) false false = .ok →
      InvokeTakes s (.partAssign ses p) ses idx 4 6 scrubFields (fun t h =>
        (rg s idx 2 = 0 → partState t p = 4 ∧ HandleDone t h .ok 0 [] ∧ t.parts = s.parts) ∧
        (rg s idx 2 ≠ 0 → partState t p = 3 ∧ (partAt t p).asgHandle = some h ∧ planState t p = 0 ∧
          t.stateStore.getLast? = some (p, dieMask (partDies s p), (partAt s p).relCtx.getD (rg s idx 8)) ∧
          ((partAt s p).cmdQ = [] → t.mem = s.mem)))) ∧
    (∀ ses x, OpenSession s ses 3 x → invStatus s x idx 5 [] 0 (partState s p != 4 || (partAt s p).relPending) false false = .ok →
      ∃ t, exec (.partRelease ses p) s = .next t ∧ (partAt t p).relHandle = some (7 * 2 ^ 24 + s.handleSeq) ∧
        Out.msg ses (response s ses 3 idx 5 .ok (leBytes 4 (7 * 2 ^ 24 + s.handleSeq))) ∈ t.out ∧ t.cores = s.cores ∧
        (planState s p = 3 → (partAt t p).relPending = true ∧ (partAt t p).relCtx = some (rg s idx 8) ∧ partState t p = 4 ∧ planState t p = 3 ∧
          t.mem = s.mem) ∧
        (planState s p ≠ 3 → partState t p = 3 ∧ planState t p = 0 ∧ (partAt t p).relPending = false ∧ (partAt t p).relCtx = none ∧
          t.stateStore.getLast? = some (p, dieMask (partDies s p), rg s idx 8) ∧ ((partAt s p).cmdQ = [] → t.mem = s.mem))) ∧
    (∀ ses x val, OpenSession s ses 2 x → setStatus s x idx 6 val false false
        (leNat val == 1 && partState s p != 1 && !(partState s p == 0 && (planState s p == 0 || planState s p == 5)))
        (leNat val == 0 && partState s p == 1 && testRuns s p) = .ok →
      SetTakes s (.partMaint ses p val) ses idx 6 [.regs] (fun t => rg t idx 6 = leNat val ∧
        partState t p = (if leNat val = 1 then 1 else if partState s p = 1 then 0 else partState s p) ∧
        (leNat val ≠ 1 → partState s p = 1 → rg t idx 2 = 1) ∧ OnlyRegs [(idx, 1), (idx, 2), (idx, 6)] s t)) ∧
    (∀ ses x val, OpenSession s ses 2 x → setStatus s x idx 8 val false false
        ((List.range 64).any (fun c => bit (leNat val) c && (ctxState s c == 1 || (ctxState s c == 4 && !graftedInto s c p) ||
          (s.grafts ++ s.graftRun.toList).any (fun g => g.ctx == c && g.part != p)))) false = .ok →
      SetTakes s (.partEraseCtx ses p val) ses idx 8 [.regs] (fun t => rg t idx 8 = leNat val ∧ OnlyRegs [(idx, 8)] s t)) ∧
    (∀ ses x, OpenSession s ses 3 x → invStatus s x idx 7 [] 0 (partState s p != 2) false false = .ok →
      InvokeTakes s (.partScrub ses p) ses idx 7 8 scrubFields (fun t h => partState t p = 3 ∧ (partAt t p).scrHandle = some h ∧
        planState t p = 0)) ∧
    (∀ us r, partState s p ≠ 3 ∨ undrained s p = true → ∃ t, exec (.scrubComplete p us r) s = .next t ∧ Touches [.alertN] s t) ∧
    (∀ us r, partState s p = 3 → undrained s p = false → ∃ t, exec (.scrubComplete p us r) s = .next t ∧ rg t idx 8 = 0 ∧
      leAt (rb t idx 9) 14 8 = (eraseNamed s p).2 ∧
      ∀ c, c < 64 → ctxState t c = (if bit (namedCtx s p) c && erasable s p c then 0 else ctxState s c)) ∧
    (∀ us f, partState s p = 3 → undrained s p = false → ∃ t, exec (.scrubComplete p us (some f)) s = .next t ∧ partState t p = 2 ∧
      leAt (rb t idx 9) 0 1 = 2 ∧ (∀ r ∈ t.stateStore, r.1 = p → r.2.2 = 0) ∧
      (∀ h, ((partAt s p).relHandle = some h ∨ (partAt s p).asgHandle = some h ∨ (partAt s p).scrHandle = some h) → HandleWaits s h →
        HandleDone t h .state 0 []) ∧ Touches ([Field.parts, .regs, .blobs, .faultq, .handles, .fresh, .alertN, .ctxs, .stateStore] ++ eventFields) s t) ∧
    (∀ us, partState s p = 3 → undrained s p = false → ∃ t, exec (.scrubComplete p us none) s = .next t ∧ (∀ r ∈ t.stateStore, r.1 ≠ p) ∧
      partState t p = (if (partAt s p).asgHandle.isSome then 4 else 0) ∧ rg t idx 2 = 0 ∧ rg t idx 8 = 0 ∧ planState t p = 0 ∧
      leAt (rb t idx 9) 0 1 = 1 ∧
      (∀ u, partLow s (dieOf u) = p → coreAt t u = {}) ∧ (∀ u, partLow s (dieOf u) ≠ p → coreAt t u = coreAt s u) ∧
      (∀ d ∈ partDies s p, (∀ b, d * dieHbm ≤ b → b < d * dieHbm + dieHbm → mget t.mem b = 0) ∧
        (∀ u b, dieOf u = d → b < 2 ^ 22 → mget t.mem (cmAddr u b) = 0)) ∧
      (∀ h, ((partAt s p).relHandle = some h ∨ (partAt s p).asgHandle = some h ∨ (partAt s p).scrHandle = some h) → HandleWaits s h →
        HandleDone t h .ok 0 [] ∧ ∃ r ∈ t.handles, r.h = h ∧ r.progress = scrubMiB s p))

/-- Protection changes (R541 to R546, R562, R568 to R575). A claim registers the Owner and the first Operator; the Vendor's LIFECYCLE_NEXT
leads to PROVISIONED. The first signature of a two-party change leaves it pending, the second makes it and draws a new nonce, 60 s discard
it. Every signature is one over P-384, and the claim's MAC one under a secret whose digest is CLAIM_HASH. A debug request draws a challenge; a response that verifies opens its level, one that does not is DENIED and uses the challenge up; closing
makes the level 0. An update completes with the status of its image's checks (a library image also takes effect: log entry 35), ATTEST with the signed measurements, FREQ_CHANGE waits at the root
for the step that it causes. -/
def Obligations.ProtectionChanges : Prop :=
  ∀ (s : State) (ses : Nat) (x : Session), OpenSession s ses 2 x →
    (∀ val secret, setStatus s x 0x6000 4 val (lifecycle s != 1) (claimBad val) false false = .ok → val.length = 242 →
      (claimOk s x val secret = true → SetTakes s (.ownerClaim ses val secret) ses 0x6000 4 secFields (fun t => lifecycle t = 2 ∧
        rb t 0x6010 1 = val.take 97 ∧ rb t 0x6010 2 = padTo 776 ((val.drop 97).take 97))) ∧
      (claimOk s x val secret = false → ∃ t, exec (.ownerClaim ses val secret) s = .next t ∧
        Out.msg ses (response s ses 2 0x6000 4 .denied []) ∈ t.out ∧
        lifecycle t = lifecycle s ∧ rb t 0x6010 1 = rb s 0x6010 1 ∧ Touches (secFields ++ replyFields) s t)) ∧
    (∀ val, x.role = .vd → setStatus s x 0x6000 2 val
        ((lifecycle s != 0 && lifecycle s != 3) || !(kget s.blobs (rkey 0x6000 5)).isSome ||
          (lifecycle s == 0 && (rb s 0x6030 1).isEmpty) || (lifecycle s == 3 && decide (8 ≤ rg s 0x6000 10)))
        (leNat val != 1) false false = .ok →
      SetTakes s (.lifecycleNext ses val) ses 0x6000 2 secFields (fun t => lifecycle t = 1 ∧
        rg t 0x6000 10 = (if lifecycle s = 3 then rg s 0x6000 10 + 1 else rg s 0x6000 10))) ∧
    (∀ idx sub val nonce sig,
      (s.change = none → changeStatus s x idx sub val nonce sig = .needsSecond →
        ∃ t, exec (.rw2pWrite ses idx sub val nonce sig) s = .next t ∧ Out.msg ses (response s ses 2 idx sub .needsSecond []) ∈ t.out ∧
          t.change = some { idx := idx, sub := sub, value := val, first := x.role } ∧ Touches (.change :: secFields ++ replyFields) s t) ∧
      (changeStatus s x idx sub val nonce sig = .ok → ∃ t, exec (.rw2pWrite ses idx sub val nonce sig) s = .next t ∧
        Out.msg ses (response s ses 2 idx sub .ok []) ∈ t.out ∧ t.change = none ∧
        (∃ n, rb t 0x6000 6 = leBytes 32 (Config.randomDraw n).toNat) ∧
        ((idx = 0x6010 ∧ (sub = 1 ∨ sub = 2 ∨ sub = 3 ∨ sub = 5)) → rb t idx sub = val) ∧
        ((idx = 0x6010 ∧ sub = 4) ∨ (idx = 0x6020 ∧ sub = 3) ∨ (idx = 0x6000 ∧ sub = 3) → rg t idx sub = leNat val) ∧
        (idx = 0x6010 → sub = 3 → rg t 0x6010 4 = 0) ∧
        (idx = 0x6020 → sub = 3 → t.akGen = (if s.keysBlocked then s.akGen else s.akGen + 1)) ∧
        (idx = 0x6010 → sub = 1 → rg t 0x6010 6 = (rg s 0x6010 6 + 1) % 2 ^ 32 ∧ ∀ c, c < 64 → ctxState t c = 0 ∧ (ctxState s c ≠ 0 → (ctxAt t c).key = none)) ∧
        (idx = 0x6000 → sub = 2 → lifecycle t = 3 ∧ ∀ y ∈ t.sessions, y.role = .vd))) ∧
    (∀ sec k, 60 ≤ sec → s.change = some k → ∃ t, exec (.changeWindowExpiry sec) s = .next t ∧ t.change = none ∧
      Touches (.change :: .alertN :: secFields) s t) ∧
    (∀ val, setStatus s x 0x6020 4 val ((partitions s).any (fun p => partState s p == 4) && !bit (rg s 0x6020 3) 2)
        (lifecycle s == 2 && decide (rg s 0x6020 3 % 4 < leNat val)) false false = .ok →
      SetTakes s (.debugReq ses val) ses 0x6020 4 [.debugReq, .blobs, .fresh] (fun t => t.debugReq = some (leNat val) ∧
        rb t 0x6020 5 = (debugChallenge s (leNat val)).1)) ∧
    (∀ val o v, setStatus s x 0x6020 6 val false false false false = .ok → (val.length = 96 ∨ val.length = 192) →
      (∀ n, s.debugReq = some n → debugVerifies s n val o v = true →
        SetTakes s (.debugResponse ses val o v) ses 0x6020 6 ([Field.debugReq, .akGen, .dice, .keysBlocked] ++ secFields) (fun t =>
          rg t 0x6020 1 = n ∧ rg t 0x6020 2 = max (rg s 0x6020 2) n ∧ t.debugReq = none ∧
          t.akGen = (if s.keysBlocked then s.akGen else s.akGen + 1) ∧ t.keysBlocked = (s.keysBlocked || n == 3))) ∧
      (s.debugReq.any (fun n => debugVerifies s n val o v) = false → ∃ t, exec (.debugResponse ses val o v) s = .next t ∧
        Out.msg ses (response s ses 2 0x6020 6 .denied []) ∈ t.out ∧ t.debugReq = none ∧ rg t 0x6020 1 = rg s 0x6020 1 ∧
        Touches (.debugReq :: secFields ++ replyFields) s t)) ∧
    (∀ sec, 60 ≤ sec → ∃ t, exec (.debugChallengeExpiry sec) s = .next t ∧ t.debugReq = none ∧ Touches [.debugReq, .alertN] s t) ∧
    (∀ val, setStatus s x 0x6020 7 val false false false false = .ok →
      SetTakes s (.debugClose ses val) ses 0x6020 7 secFields (fun t => rg t 0x6020 1 = 0)) ∧
    (∀ arg img, invStatus s x 0x6000 8 arg 20 false (decide (2 < leAt arg 0 1) || leAt arg 1 7 != 0 || decide (2 ^ 23 < leAt arg 16 4))
        false = .ok →
      let ty := leAt arg 0 1
      let lib := padTo (2 ^ 20) ((Config.libBytes img.bytes).take (2 ^ 20))
      InvokeTakes s (.fwUpdate ses arg img) ses 0x6000 8 0x0F ([Field.fwNext, .lmNext, .akGen, .dice, .mem, .ecc] ++ secFields) (fun t h =>
        (inBounce x (leAt arg 8 8) (leAt arg 16 4) = false → HandleDone t h .state 0 [] ∧ t.fwNext = s.fwNext ∧ t.mem = s.mem) ∧
        (inBounce x (leAt arg 8 8) (leAt arg 16 4) = true → HandleDone t h (fwStatus s ty img lib) 0 [] ∧
          (fwStatus s ty img lib ≠ .ok → t.fwNext = s.fwNext ∧ t.mem = s.mem) ∧
          (fwStatus s ty img lib = .ok → (ty, img.svn, sha384 img.bytes) ∈ t.fwNext ∧
            (ty = 1 → t.lmNext = some lib ∧ rb t 0x2128 1 = sha384 lib ∧ t.akGen = (if s.keysBlocked then s.akGen else s.akGen + 1)) ∧ (ty ≠ 1 → t.mem = s.mem))))) ∧
    (∀ nonce, invStatus s x 0x1008 1 nonce 32 false false false = .ok →
      InvokeTakes s (.attest ses nonce) ses 0x1008 1 0x10 (.fresh :: eventFields) (fun t h =>
        HandleDone t h .ok 0 (measurements (issue (touch (asked s ses) ses) 0x10 ses false).2 (some x) nonce).1)) ∧
    (invStatus s x 0x2000 3 [] 0 false false false = .ok →
      InvokeTakes s (.freqChange ses) ses 0x2000 3 0x0E (.freqHandle :: .freqLater :: eventFields) (fun t h =>
        (timingRoot s = false → HandleDone t h .state 0 []) ∧
        (timingRoot s = true → stepTarget s = coreN s → HandleDone t h .ok 0 (leBytes 1 (coreN s))) ∧
        (timingRoot s = true → stepTarget s ≠ coreN s →
          ((∃ p, pendingStep s = some p ∧ p.2 ≠ stepTarget s) → t.freqLater = s.freqLater ++ [h] ∧ t.freqHandle = s.freqHandle) ∧
          ((∀ p, pendingStep s = some p → p.2 = stepTarget s) → t.freqHandle = s.freqHandle ++ [h] ∧ t.freqLater = s.freqLater))))

/-- Sensors, calibration and trips (R509 to R520, R523, R528, R530 to R536). A sample is stored; a junction at 115 °C or a stack at 105 °C
trips, and without a limit reached nothing is lost. The readings of a rail are stored, with its estimate formed from the counts of its die, and
two predictions of the thermal model. A rail whose sense is open or disagrees, as its intervals say, is marked in SENSE_STATE, and a write of SENSE_STATE releases it. A THERMTRIP input shows in TRIP_IN; both, one alone for 2 ms, the envelope and a cap
missed for long trip with their causes; a cause that arises during a trip is logged and changes nothing; an input that returns early raises
only an alert. -/
def Obligations.SensorsAndTrips : Prop :=
  ∀ (s : State), s.powered = true →
    (∀ d raw hbm, d < dies s.variant → ∃ t, exec (.sensorSample d raw hbm) s = .next t ∧ kget t.sens d = some (raw.take 96) ∧
      kget t.hbmTemp d = some (hbm.take 2) ∧
      (s.railsUp = true → s.tripped = false → (∃ v, hottest ((raw.take 96).filter tempOk) = some v ∧ 1840 ≤ v) → HasTripped s t 3) ∧
      (s.railsUp = true → s.tripped = false → (∀ v, hottest ((raw.take 96).filter tempOk) = some v → v < 1840) →
        (∃ v ∈ hbm.take 2, 1680 ≤ v) → HasTripped s t 4) ∧
      ((∀ v, hottest ((raw.take 96).filter tempOk) = some v → v < 1840) → (∀ v ∈ hbm.take 2, v < 1680) → (∀ v ∈ raw.take 96, tempOk v = true) →
        t.tripped = s.tripped ∧ t.railsUp = s.railsUp ∧ t.mem = s.mem ∧ t.cores = s.cores ∧ t.parts = s.parts ∧ t.links = s.links)) ∧
    (∀ r meas coolant board, r ≤ 18 → ∃ t, exec (.calibrationInterval r meas coolant board) s = .next t ∧ t.coolant = coolant ∧ t.board = board ∧
      (s.railsUp = false ∨ (r ≠ 0 ∧ r ≠ 18 ∧ estimated s r = false) → Touches [.coolant, .board, .alertN] s t) ∧
      (s.railsUp = true → (r = 0 ∨ r = 18 ∨ estimated s r = true) →
        (railAt t r).meas = meanPower meas ∧ (∀ q, q ≠ r → railAt t q = railAt s q) ∧
        (∀ p, meas.getLast? = some p → rtab t 0x5010 1 4 r = f32OfRat ((p.1 : Rat) / 1000) % 2 ^ 32 ∧
          rtab t 0x5010 2 4 r = f32OfRat ((p.2 : Rat) / 1000) % 2 ^ 32) ∧
        (r = 0 → t.avg1 = (meanPower meas).floor.toNat ∧ rg t 0x5008 1 = wattsOf t.avg1 ∧ rg t 0x5008 2 = wattsOf t.avg10) ∧
        (r = 18 → t.act = [] ∧ t.attr = [] ∧ t.coreCyc = []) ∧
        (r ≠ 0 → r ≠ 18 →
          let x := { railAt s r with meas := meanPower meas, est := rawEstimate s r }
          let y := predictRail { s with coolant := coolant } r x
          (railAt t r).est = rawEstimate s r ∧ (railAt t r).tEst = y.tEst ∧ (railAt t r).tMeas = y.tMeas ∧ (railAt t r).errs = y.errs ∧
          (railAt t r).bad = (if bigGap s r (meanPower meas) (rawEstimate s r) then (railAt s r).bad + 1 else 0)) ∧
        Touches [.rails, .fresh, .blobs, .regs, .rems, .faultq, .attr, .act, .coreCyc, .cores, .avg1, .avg10, .coolant, .board, .alertN] s t)) ∧
    (∀ r n, sensed s r = true → 10 ≤ n → (railAt s r).opn = false → ∃ t, exec (.senseOpen r n) s = .next t ∧
      railAt t r = { railAt s r with opn := true } ∧ rg t 0x5010 5 = rg s 0x5010 5 ||| 2 ^ r ∧ bit (rg t 0x5008 9) 0 = true ∧
      t.mem = s.mem ∧ t.cores = s.cores) ∧
    (∀ r n above agreesEst, ¬(estimated s r = true ∧ 5 ≤ n ∧ n ≤ (railAt s r).bad ∧ above = measuredAbove s r ∧ agreesEst = agrees (railAt s r).errs) →
      ∃ t, exec (.senseMismatch r n above agreesEst) s = .next t ∧ Touches [.alertN] s t) ∧
    (∀ r n, estimated s r = true → 5 ≤ n → n ≤ (railAt s r).bad →
      let above := measuredAbove s r
      let agreesEst := agrees (railAt s r).errs
      ∃ t, exec (.senseMismatch r n above agreesEst) s = .next t ∧
      (agreesEst = true → (railAt s r).frozen = false → railAt t r = { railAt s r with frozen := true } ∧
        rg t 0x5010 5 = rg s 0x5010 5 ||| 2 ^ r ∧ bit (rg t 0x5008 9) 0 = true) ∧
      (agreesEst = false → above = true → railAt t r = { railAt s r with bad := 0 }) ∧
      (agreesEst = false → above = false → railAt t r = { railAt s r with drift := true }) ∧ t.mem = s.mem ∧ t.cores = s.cores) ∧
    (∀ ses x val, OpenSession s ses 2 x → setStatus s x 0x5010 5 val false false false false = .ok →
      SetTakes s (.senseState ses val) ses 0x5010 5 [.rails, .regs] (fun t =>
        rg t 0x5010 5 = rg s 0x5010 5 - (rg s 0x5010 5 &&& leNat val) ∧ OnlyRegs [(0x5010, 5)] s t ∧
        (∀ r, r < 19 → bit (leNat val) r = true → railAt t r = { railAt s r with frozen := false, opn := false, bad := 0 }) ∧
        (∀ r, bit (leNat val) r = false → railAt t r = railAt s r))) ∧
    (∀ b ns, 10000 ≤ ns → tripIn s b = false → ∃ t, exec (.thermtrip b ns) s = .next t ∧ tripIn t b = true ∧
      rg t 0x5018 1 = (if tripIn s (!b) then 3 else if b then 2 else 1) ∧
      (s.pwrGood = true → tripIn s (!b) = true → s.railsUp = true → s.tripped = false → HasTripped s t 1) ∧
      (s.tripped = true → tripIn s (!b) = true → rg t 0x5018 2 = rg s 0x5018 2 ∧ t.mem = s.mem ∧ t.cores = s.cores ∧ t.parts = s.parts ∧
        (1 ∉ s.tripCauses → s.mcDown = false → ∃ r ∈ t.log, r.level = 5 ∧ r.code = 0x0801)) ∧
      ((s.pwrGood = false ∧ s.tripped = false) ∨ tripIn s (!b) = false → Touches [.tripAt, .regs, .alertN] s t)) ∧
    (∀ us, 2000 ≤ us → tripIn s false ≠ tripIn s true → ∃ t, exec (.tripDiscrepancy us) s = .next t ∧
      (s.pwrGood = true → s.railsUp = true → s.tripped = false → HasTripped s t 2) ∧
      (s.tripped = true → rg t 0x5018 2 = rg s 0x5018 2 ∧ t.mem = s.mem ∧ t.cores = s.cores ∧ t.parts = s.parts ∧
        (2 ∉ s.tripCauses → s.mcDown = false → ∃ r ∈ t.log, r.level = 5 ∧ r.code = 0x0802)) ∧
      (s.pwrGood = false → s.tripped = false → Touches [.alertN] s t)) ∧
    (∀ b us, tripIn s b = true → ∃ t, exec (.tripInputDeassert b us) s = .next t ∧ tripIn t b = false ∧
      rg t 0x5018 1 = (if tripIn s (!b) then (if b then 1 else 2) else 0) ∧ t.tripped = s.tripped ∧ t.mem = s.mem ∧
      (s.pwrGood = true → us < 2000 → tripIn s (!b) = false → bit (rg t 0x5008 9) 4 = true)) ∧
    (∀ w, (s.railsUp = true → s.tripped = false → rg s 0x5000 1 * 1050 < w →
        ∃ t, exec (.envelopeLimit w) s = .next t ∧ HasTripped s t 6 ∧ t.avg1 = w) ∧
      (w ≤ rg s 0x5000 1 * 1050 → ∃ t, exec (.envelopeLimit w) s = .next t ∧ t.avg1 = w ∧ rg t 0x5008 1 = wattsOf w ∧
        Touches [.avg1, .regs, .alertN] s t)) ∧
    (∀ w ms, s.railsUp = true → s.tripped = false → rg s 0x5000 2 * 1050 < w → rg s 0x5000 4 ≤ ms → budget s = some (rg s 0x5008 5) →
      ∃ t, exec (.capMissTrip w ms) s = .next t ∧ HasTripped s t 7 ∧ t.avg10 = w)

/-- Start-up and reset (R475, R556, R602, R622 to R627, R653, R655 to R658). A cold start clears every memory, core and session and keeps
what persists. A stage that ends well leads to the next, the last one to READY; one that fails halts the module with FAULT_N. A warm reset
ends sessions, handles, plans and cores, keeps HBM and starts up again. A power failure turns the compute rails off and leaves installs
INCOMPLETE; the end of the hold-up time powers the module down. -/
def Obligations.StartUpAndReset : Prop :=
  ∀ (s : State),
    (∀ mv ms, 40000 ≤ mv → mv ≤ 60000 → 10 ≤ ms → s.holdup = false → ∃ t, exec (.coldStart mv ms true) s = .next t ∧
      t.mem = [] ∧ t.ecc = [] ∧ t.cores = [] ∧ t.links = [] ∧ t.parts = [] ∧ t.sessions = [] ∧ t.handles = [] ∧ t.lockBy = none ∧
      t.powered = true ∧ t.tripped = false ∧ t.tripCauses = [] ∧ t.log = [] ∧ lifecycle t = lifecycle s ∧ rb t 0x6010 1 = rb s 0x6010 1 ∧
      t.keysBlocked = false ∧ t.dice = {} ∧ t.fuseUds = s.fuseUds ∧ (s.change = none → rg t 0x6050 1 = rg s 0x6050 1) ∧ (∀ p ∈ partitions s, partState t p = 3) ∧
      (s.stateStore = [] → rg t 0x7008 1 = 0)) ∧
    (s.powered = true →
      (∀ ok slots, s.holdup = false → s.tripped = false → ∃ t, exec (.startUpStage ok slots) s = .next t ∧
        let n := rg s 0x7008 1
        (ok = true → n = 0 → ¬(s.moduleRst = true ∧ s.warmBoot = true) → rg t 0x7008 1 = (if s.warmBoot then 2 else 1)) ∧
        (ok = true → n = 1 → tripIn s false = false → tripIn s true = false → rg t 0x7008 1 = 2 ∧ t.railsUp = true ∧ t.pwrGood = true) ∧
        (ok = true → n = 2 → s.moduleRst = false → rg t 0x7008 1 = 3 ∧ t.akGen = (if s.keysBlocked then s.akGen else s.akGen + 1) ∧
          (s.warmBoot = false → t.dice.locked = true)) ∧
        (ok = true → n = 3 → rg t 0x7008 1 = 4) ∧
        (n = 4 → rg t 0x7008 1 = 5) ∧
        (ok = false → (n = 0 ∧ ¬(s.moduleRst = true ∧ s.warmBoot = true) ∨
            n = 1 ∧ tripIn s false = false ∧ tripIn s true = false ∨ n = 2 ∧ s.moduleRst = false ∨ n = 3) →
          rg t 0x7008 1 = 6 ∧ t.faultN = true ∧ t.railsUp = false)) ∧
      (∃ t, (∀ ns, exec (.moduleRstN true ns) s = .next t) ∧ t.moduleRst = false ∧ Touches [.moduleRst, .alertN] s t) ∧
      (∀ ns, 1000 ≤ ns → s.moduleRst = false → s.railsUp = true → s.pwrGood = true → ∃ t, exec (.moduleRstN false ns) s = .next t ∧
        t.moduleRst = true ∧ t.sessions = [] ∧ t.handles = [] ∧ t.cores = [] ∧ t.warmBoot = true ∧ rg t 0x7008 1 = 0 ∧
        rg t 0x7008 2 = 1 ∧ (∀ p ∈ partitions s, planState t p = 0) ∧ (∀ b, b < 4 * dieHbm → mget t.mem b = mget s.mem b)) ∧
      (∀ ses x val, OpenSession s ses 2 x → setStatus s x 0x7008 3 val false false false false = .ok → s.railsUp = true →
        ∃ t, exec (.warmReset ses val) s = .next t ∧ Out.msg ses (response s ses 2 0x7008 3 .ok []) ∈ t.out ∧ t.sessions = [] ∧ t.handles = [] ∧
          t.cores = [] ∧ rg t 0x7008 1 = 0 ∧ rg t 0x7008 2 = 2 ∧ rg t 0x2000 13 = rg s 0x2000 13 ∧ (∀ p ∈ partitions s, planState t p = 0) ∧
          (∀ b, b < 4 * dieHbm → mget t.mem b = mget s.mem b)) ∧
      (∀ mv us en, 20 ≤ us → (mv < 38000 ∨ 62000 < mv ∨ en = false) → s.holdup = false → ∃ t, exec (.powerFail mv us en) s = .next t ∧
        t.holdup = true ∧ t.railsUp = false ∧ t.mem = [] ∧ t.cores = [] ∧
        (∀ c, c < 64 → ctxState t c = (if ctxState s c = 1 then 2 else ctxState s c))) ∧
      (∀ mv en, s.holdup = true → (en = false ∨ mv < 40000 ∨ 60000 < mv) → ∃ t, exec (.holdupEnd mv en) s = .next t ∧
        t.powered = false ∧ t.holdup = false ∧ t.sessions = [] ∧ t.lockBy = none ∧ t.handles = [] ∧
        Touches [.powered, .holdup, .sessions, .asks, .lockBy, .handles, .alertN] s t) ∧
      (∀ mv, s.holdup = true → 40000 ≤ mv → mv ≤ 60000 → ∃ t, exec (.holdupEnd mv true) s = .next t ∧ t.mem = [] ∧ t.sessions = [] ∧
        t.holdup = false ∧ t.powered = true))

/-- Retirement and the MC (R609, R614, R638 to R643). A retired unit is marked, CORES_ACTIVE counts what is usable, a link that is retired is
OFF and DISABLED, and a plan that uses the unit is dropped. RETIRE_CLEAR makes every unit usable. An MC restart is counted with its cause,
frees the lock, and drops pending changes and debug access; a restart soon after another, or while the MC is not running, counts that one as
failed. When the MC runs again within 1 s nothing it kept back remains. The third failure within 60 s leaves it down for good. -/
def Obligations.RetirementAndTheController : Prop :=
  ∀ (s : State), s.powered = true →
    (∀ ses x val, OpenSession s ses 2 x →
      let v := leNat val
      let p := partLow s (retireDie v)
      setStatus s x 0x7008 7 val false (retireBad s v) (retiredNow s v || decide (planState s p = 1 ∨ planState s p = 3))
        (rtKind v == 2 && linkState s (rtUnit v) == 6) = .ok →
      SetTakes s (.slotRetire ses val) ses 0x7008 7
        ([Field.regs, .blobs, .links, .parts, .log, .logNum, .faultq, .handles] ++ eventFields) (fun t =>
        retiredNow t v = true ∧ rg t 0x1100 2 = ((List.range 48).map (fun c => min 16 (bitCount (usable t c)))).sum ∧
        (rtKind v = 2 → linkState t (rtUnit v) = 0 ∧ rg t (0x3000 + 16 * rtUnit v) 1 = 0) ∧
        (planState s p ≠ 0 → planUses s p v = true → planState t p = 0))) ∧
    (∀ ses x val, OpenSession s ses 2 x → setStatus s x 0x7008 10 val (lifecycle s != 3) false false false = .ok →
      SetTakes s (.retireClear ses val) ses 0x7008 10 [.regs, .blobs, .rems] (fun t => rg t 0x7008 9 = 0 ∧
        kget t.blobs (rkey 0x1100 5) = none ∧ rg t 0x1100 2 = ((List.range 48).map (fun c => min 16 (bitCount (usable t c)))).sum)) ∧
    (∀ (i : Instr) (cause : Nat), s.mcDead = false →
      (i = .mcLockstepMismatch ∧ cause = 1 ∨ (∃ ms, 250 ≤ ms ∧ i = .mcWatchdog ms ∧ cause = 2) ∨
        (∃ ses x val, OpenSession s ses 2 x ∧ setStatus s x 0x7008 4 val false false false false = .ok ∧ i = .mcReset ses val ∧ cause = 3)) →
      ∃ t, exec i s = .next t ∧ t.mcDown = true ∧ t.mcDead = false ∧ rg t 0x7008 6 = cause ∧ rg t 0x7008 5 = counted (rg s 0x7008 5) 1 ∧
        t.mcFails = (countFail s).mcFails ∧ t.mcUpAt = none ∧
        t.lockBy = none ∧ t.change = none ∧ t.debugReq = none ∧ rg t 0x6020 1 = 0 ∧ t.mem = s.mem ∧ t.cores = s.cores ∧ t.links = s.links) ∧
    (∀ ms, s.mcDown = true → s.mcDead = false → ms ≤ 1000 → ∃ t, exec (.mcRestartDone ms) s = .next t ∧ t.mcDown = false ∧ t.kept = [] ∧
      t.akGen = (if s.dice.cdi1 = [] ∨ s.keysBlocked = true then s.akGen else s.akGen + 1) ∧ t.mcUpAt = some (timePs s) ∧
      (∀ k ∈ t.handles, k.due = false) ∧ t.mem = s.mem ∧ t.cores = s.cores) ∧
    (∀ ms, s.mcDown = false ∨ s.mcDead = true ∨ 1000 < ms → ∃ t, exec (.mcRestartDone ms) s = .next t ∧ Touches [.alertN] s t) ∧
    (∀ ms, s.mcDead = true ∨ 60000 < ms ∨ s.mcFails.length + (if s.mcDown then 1 else 0) < 3 →
      ∃ t, exec (.mcFailed ms) s = .next t ∧ Touches [.alertN] s t) ∧
    (∀ ms, s.mcDead = false → ms ≤ 60000 → 3 ≤ s.mcFails.length + (if s.mcDown then 1 else 0) → ∃ t, exec (.mcFailed ms) s = .next t ∧ t.mcDown = true ∧ t.mcDead = true ∧ t.faultN = true ∧
      t.mem = s.mem ∧ t.cores = s.cores)

/-- The host interface (R566, R567, R583 to R596). The host's writes into BAR0 are made; GO on a free mailbox takes the message, or ends with its
transport error; on a busy one it is an overrun. Posted ring entries are queued, more than fit stop that ring; a ring write restarts it. A
record is taken in its slot's turn, while a buffer is free for its answer; where it may not go on it waits. One that passes its checks acts: a
write lands in HBM and makes the partitions used, a read is answered with what HBM holds, commands reach the serving unit. One with a bad tag
ends its session, one out of sequence is dropped, one that is refused is acknowledged with its status and changes nothing else. PERST_N ends
the sessions of the host's transports. What MB_GO and the commands of the rings carry beside is the model's choice (log entry 30), and so is the
acknowledgement of a record that does not agree with its header or ring entry (log entry 47). -/
def Obligations.HostInterfaceWorks : Prop :=
  ∀ (s : State), s.powered = true →
    (∀ len req dict clr ev, ∃ t, exec (.mbGo len req dict clr ev) s = .next t ∧
      let w := mbHostWrites s len req clr ev
      t.mbReq = req ∧ t.mbReqLen = len ∧ t.evHead = min s.evTail (s.evHead + ev) ∧ t.msixTab = w.msixTab ∧
      (∀ v, v < 18 → bit s.msixPba v = true → t.msixTab.getD (4 * v + 3) 1 % 2 = 0 → Out.msix v ∈ t.out) ∧
      (clr.ctl % 2 ≠ 1 → t.mbStatus = s.mbStatus - (s.mbStatus &&& clr.clr &&& 9) ∧ t.mbRspLen = s.mbRspLen) ∧
      (clr.ctl % 2 = 1 → bit w.mbStatus 1 = true → t.mbStatus = w.mbStatus ||| 8 ∧ t.mbRspLen = s.mbRspLen) ∧
      (clr.ctl % 2 = 1 → bit w.mbStatus 1 = false →
        (len ≤ 16384 → (leAt req 0 1 = 5 ∨ leAt req 0 1 = 6 ∧ (dict = false ∨ s.mcDown = false)) → t.mbStatus = mbWith w 0 true) ∧
        (16384 < len → t.mbStatus = mbWith w 2 false ∧ Out.mailbox 2 0 ∈ t.out) ∧
        (len ≤ 16384 → leAt req 0 1 ≠ 5 → leAt req 0 1 ≠ 6 → t.mbStatus = mbWith w 3 false ∧ Out.mailbox 3 0 ∈ t.out) ∧
        (len ≤ 16384 → leAt req 0 1 = 6 → dict = true → s.mcDown = true → t.mbStatus = mbWith w 1 false ∧ Out.mailbox 1 0 ∈ t.out)) ∧
      Touches [.mbStatus, .evHead, .mbReq, .mbReqLen, .mbRspLen, .msixTab, .msixPba, .out, .alertN] s t) ∧
    (∀ slot tail ents x, slotSes s slot = some x → ∃ t y, exec (.h2mTail slot tail ents) s = .next t ∧ sesAt t x.id = some y ∧
      let n := (tail + 2 ^ 32 - x.h2mTail % 2 ^ 32) % 2 ^ 32
      y.h2mTail = tail % 2 ^ 32 ∧ y.errM = x.errM ∧
      (ringLen x.ringH = 0 ∨ x.errH ≠ 0 → y = { x with h2mTail := tail % 2 ^ 32 } ∧ Touches [.sessions, .alertN] s t) ∧
      (ringLen x.ringH ≠ 0 → x.errH = 0 → ringOutside x x.ringH = true → y.errH = 3 ∧ y.h2mEnts = x.h2mEnts ∧
        Touches (.alertN :: secFields) s t) ∧
      (ringLen x.ringH ≠ 0 → x.errH = 0 → ringOutside x x.ringH = false → Touches [.sessions, .alertN] s t ∧
        (x.h2mEnts.length + n ≤ ringLen x.ringH →
          y = { x with h2mTail := tail % 2 ^ 32, h2mEnts := x.h2mEnts ++ (List.range n).map (fun i => ents.getD i []) }) ∧
        (ringLen x.ringH < x.h2mEnts.length + n → y = { x with h2mTail := tail % 2 ^ 32, errH := 1 }))) ∧
    (∀ slot tail ents x, slotSes s slot = some x →
      let n := (tail + 2 ^ 32 - x.m2hTail % 2 ^ 32) % 2 ^ 32
      let new := (List.range n).map (fun i => ents.getD i [])
      ((ringLen x.ringM = 0 ∨ x.errM ≠ 0) → ∃ t, exec (.m2hTail slot tail ents) s = .next t ∧
        sesAt t x.id = some { x with m2hTail := tail % 2 ^ 32 } ∧ Touches [.sessions, .alertN] s t) ∧
      (ringLen x.ringM ≠ 0 → x.errM = 0 → ringOutside x x.ringM = true → ∃ t y, exec (.m2hTail slot tail ents) s = .next t ∧
        sesAt t x.id = some y ∧ y.errM = 3 ∧ y.errH = x.errH ∧ y.m2hBufs = x.m2hBufs ∧ Touches (.alertN :: secFields) s t) ∧
      (ringLen x.ringM ≠ 0 → x.errM = 0 → ringOutside x x.ringM = false → ringLen x.ringM < x.m2hBufs.length + n →
        ∃ t, exec (.m2hTail slot tail ents) s = .next t ∧ sesAt t x.id = some { x with m2hTail := tail % 2 ^ 32, errM := 2 } ∧
          Touches [.sessions, .alertN] s t) ∧
      (ringLen x.ringM ≠ 0 → x.errM = 0 → ringOutside x x.ringM = false → x.m2hBufs.length + n ≤ ringLen x.ringM → x.waiting = [] →
        s.records = [] → (∀ p ∈ partitions s, unitWaits s p = false) → (∀ e ∈ new, inBounce x (entryAddr e) (entryLen e) = true) →
        let bufs := x.m2hBufs ++ new.map (fun e => if bufOk x e then (entryAddr e, entryLen e) else (0, 0))
        ∃ t, exec (.m2hTail slot tail ents) s = .next t ∧ sesAt t x.id = some { x with m2hTail := tail % 2 ^ 32, m2hBufs := bufs } ∧
          Touches [.sessions, .alertN] s t)) ∧
    (∀ ses x m val, OpenSession s ses 2 x →
      setStatus s x 0x9010 (if m then 7 else 6) val (decide (2 ≤ x.transport)) (ringBad val) false false = .ok →
      SetTakes s (.ringWrite ses m val) ses 0x9010 (if m then 7 else 6) [.sessions, .records] (fun t => ∃ y, sesAt t ses = some y ∧
        (m = true → y.ringM = val ∧ y.m2hBufs = [] ∧ y.m2hTail = 0 ∧ y.m2hHead = 0 ∧ y.errM = 0 ∧ y.errH = x.errH) ∧
        (m = false → y.ringH = val ∧ y.h2mEnts = [] ∧ y.h2mTail = 0 ∧ y.h2mHead = 0 ∧ y.errH = 0 ∧ y.errM = x.errM))) ∧
    (∀ slot hdr hr i kind, ((i = .hostWrite slot hdr hr ∧ kind = 1) ∨ (i = .hostReadRequest slot hdr hr ∧ kind = 2) ∨
        (i = .serveCommandRecord slot hdr hr ∧ kind = 3) ∨ (i = .installChunk slot hdr hr ∧ kind = 4)) →
      (slotSes s slot = none ∨ (∃ x, slotSes s slot = some x ∧ (x.h2mEnts = [] ∨
          (m2hReady x = true ∧ (x.errH ≠ 0 ∨ slotTurn s slot = false)) ∨ (m2hReady x = false ∧ sesAt s x.id = some x ∧ x.waiting = [] ∧ s.records = []))) →
        ∃ t, exec i s = .next t ∧ Touches [.alertN] s t) ∧
      (∀ e x, RecordDue s slot hdr e x → recPlain x hdr hr = none →
        ∃ t, exec i s = .next t ∧ sesAt t x.id = none ∧
          Touches ([Field.records, .asks, .lockBy, .lockLeft, .rrSlot, .alertN] ++ secFields) s t) ∧
      (∀ e x l, RecordDue s slot hdr e x → recPlain x hdr hr = some l → recSeq hdr ≠ x.seqIn → RecordGoes s slot hdr hr l i →
        ∃ t y, exec i s = .next t ∧ sesAt t x.id = some y ∧ y.seqIn = x.seqIn ∧ y.h2mEnts = x.h2mEnts.drop 1 ∧
          Touches ([Field.rrSlot, .alertN] ++ secFields) s t) ∧
      (∀ e x l, RecordNext s slot hdr e hr x l → RecordGoes s slot hdr hr l i → recForm x kind e hdr hr = false →
        ∃ t y, exec i s = .next t ∧ sesAt t x.id = some y ∧ y.seqIn = x.seqIn + 1 ∧
          Acknowledged x (recSeq hdr) (leAt hdr 5 1) .range t ∧ Touches ackFields s t)) ∧
    (∀ slot hdr e hr x l, RecordDue s slot hdr e x → recPlain x hdr hr = some l →
      (bgHeld s (recTarget hdr) l.length = true → ∃ t, exec (.hostWrite slot hdr hr) s = .next t ∧ Touches [.alertN] s t) ∧
      (bgHeld s (recTarget hdr) (readLen l) = true → ∃ t, exec (.hostReadRequest slot hdr hr) s = .next t ∧ Touches [.alertN] s t) ∧
      (recordRoom s = 0 ∨ (∃ p ∈ partitions s, unitWaits s p = true) →
        ∃ t, exec (.serveCommandRecord slot hdr hr) s = .next t ∧ Touches [.alertN] s t)) ∧
    (∀ slot hdr e hr x l, RecordNext s slot hdr e hr x l → recForm x 1 e hdr hr = true → bgHeld s (recTarget hdr) l.length = false →
      let a := recTarget hdr
      let out := outsideParts s x a l.length = true ∨ ∃ p ∈ rangeParts s a l.length, writeBarred s p a l.length = true
      ∃ t y, exec (.hostWrite slot hdr hr) s = .next t ∧ sesAt t x.id = some y ∧ y.seqIn = x.seqIn + 1 ∧
        (a % 64 = 0 → l.length % 64 = 0 → ¬out → underTest s a l.length = false → Acknowledged x (recSeq hdr) 1 .ok t ∧
          t.mem = mwrite s.mem a l ∧ (∀ p ∈ rangeParts s a l.length, rg t (0x6040 + p) 2 = 1) ∧ BytesKept a l.length s t ∧
          Touches ([Field.mem, .ecc, .regs, .chReady, .act] ++ ackFields) s t) ∧
        (¬(a % 64 = 0 ∧ l.length % 64 = 0) → Acknowledged x (recSeq hdr) 1 .range t ∧ Touches ackFields s t) ∧
        (a % 64 = 0 → l.length % 64 = 0 → out → Acknowledged x (recSeq hdr) 1 .state t ∧ Touches ackFields s t) ∧
        (a % 64 = 0 → l.length % 64 = 0 → ¬out → underTest s a l.length = true →
          Acknowledged x (recSeq hdr) 1 .busy t ∧ Touches ackFields s t)) ∧
    (∀ slot hdr e hr x l, RecordNext s slot hdr e hr x l → recForm x 2 e hdr hr = true → bgHeld s (recTarget hdr) (readLen l) = false →
      recTarget hdr % 64 = 0 → l.length = 16 → readLen l % 64 = 0 → 64 ≤ readLen l → readLen l ≤ 2 ^ 32 → leAt l 8 8 = 0 →
      let a := recTarget hdr
      let n := min (readLen l) (min (2 ^ 20) ((takeBuf x).1 - 48))
      ∃ t y, exec (.hostReadRequest slot hdr hr) s = .next t ∧ sesAt t x.id = some y ∧ y.seqIn = x.seqIn + 1 ∧
        (outsideParts s x a (readLen l) = true → Acknowledged x (recSeq hdr) 2 .state t ∧ Touches ackFields s t) ∧
        (outsideParts s x a (readLen l) = false → underTest s a (readLen l) = true →
          Acknowledged x (recSeq hdr) 2 .busy t ∧ Touches ackFields s t) ∧
        (outsideParts s x a (readLen l) = false → underTest s a (readLen l) = false →
          (∀ p ∈ rangeParts s a (readLen l), rg t (0x6040 + p) 2 = 1) ∧ t.mem = s.mem ∧ t.cores = s.cores ∧
          (bgHeld s a n = false → eccIn s a n = [] → Out.mcrec x.id 2 (sentRecord x 2 a (mread s.mem a n)) ∈ t.out) ∧
          (eccIn s a (readLen l) = [] → Touches ([Field.regs, .chReady, .act] ++ ackFields) s t))) ∧
    (∀ slot hdr e hr x l, RecordNext s slot hdr e hr x l → recForm x 3 e hdr hr = true → recTarget hdr = 0 → l.length % 64 = 0 →
      64 ≤ l.length → l.length ≤ 65536 → recordRoom s ≠ 0 → (∀ p ∈ partitions s, unitWaits s p = false) →
      let w := { setSes s { x with h2mEnts := x.h2mEnts.drop 1, h2mHead := (x.h2mHead + 1) % 2 ^ 32, seqIn := x.seqIn + 1,
                                   recsIn := x.recsIn + 1 } with rrSlot := (slot + 1) % 16 }
      let r := (serveCommands (l.length / 64) l).foldl (fun t c => serveCommand t (some x.id) c) w
      ∃ t, exec (.serveCommandRecord slot hdr hr) s = .next t ∧ t.serve = r.serve ∧ t.records = r.records ∧ t.parts = r.parts ∧
        t.mem = r.mem ∧ t.out = r.out ∧ t.sessions = r.sessions ∧ t.cores = s.cores) ∧
    (∃ t, exec .perstN s = .next t ∧ (∀ y ∈ t.sessions, 1 < y.transport) ∧ t.mbStatus = 0 ∧ t.mbRspLen = 0 ∧ t.evHead = 0 ∧
      t.evTail = 0 ∧ t.evFifo = [] ∧ t.mbReq = [] ∧ t.mbRsp = [] ∧ t.msixTab = State.reset.msixTab ∧ t.msixPba = 0 ∧
      Touches [.sessions, .asks, .records, .lockBy, .lockLeft, .mbStatus, .mbRspLen, .mbReqLen, .mbReq, .mbRsp, .evHead, .evTail, .evFifo,
        .evLost, .msixTab, .msixPba, .rrSlot, .alertN] s t)

/-- MCTP and I3C (R597 to R599). On a binding but the mailbox, while the MC runs, a valid endpoint ID is taken and each control message is
answered to its requester, in packets of the binding. An MCTP packet of any binding that is for the module has its requester noted; one for
a peer goes out as a management packet on the route of the timing partition, as the module's own packets to a peer do; one for nobody changes
nothing. ENTDAA gives the I3C address. The layouts of the control responses are the model's (log entry 32). -/
def Obligations.ManagementTransportsAnswer : Prop :=
  ∀ (s : State), s.powered = true → s.mcDown = false →
    (∀ b, 1 ≤ b → b ≤ 3 →
      let peer := (kget s.mctpFrom b).getD {}
      let said := fun (s t : State) (val : List Byte) =>
        let w := wire (emit s (.mctp b val)) b peer false (leBytes 1 0 ++ leBytes 1 (peer.inst % 32) ++ val)
        Out.mctp b val ∈ t.out ∧ t.out = w.out ∧ t.mgmtOut = w.mgmtOut
      (∀ e, 0 < e → e < 255 → ∃ t, exec (.setEndpointId b e) s = .next t ∧ kget t.eids b = some e ∧
        said { s with eids := kset s.eids b e } t (leBytes 1 1 ++ leBytes 1 0 ++ leBytes 1 0 ++ leBytes 1 e ++ leBytes 1 0) ∧
        Touches [.eids, .out, .mgmtOut, .alertN] s t) ∧
      (∀ e, e = 0 ∨ 255 ≤ e → ∃ t, exec (.setEndpointId b e) s = .next t ∧ said s t (leBytes 1 1 ++ leBytes 1 2) ∧
        Touches [.out, .mgmtOut, .alertN] s t) ∧
      (∃ t, exec (.getEndpointId b) s = .next t ∧
        said s t (leBytes 1 2 ++ leBytes 1 0 ++ leBytes 1 ((kget s.eids b).getD 0) ++ leBytes 2 0) ∧ Touches [.out, .mgmtOut, .alertN] s t) ∧
      (∃ t v, exec (.getMctpVersionSupport b) s = .next t ∧ v.length = 4 ∧ said s t (leBytes 1 4 ++ leBytes 1 0 ++ leBytes 1 1 ++ v) ∧
        Touches [.out, .mgmtOut, .alertN] s t) ∧
      (∃ t, exec (.getMessageTypeSupport b) s = .next t ∧
        said s t (leBytes 1 5 ++ leBytes 1 0 ++ leBytes 1 4 ++ [0x00, 0x05, 0x06, 0x7F]) ∧ Touches [.out, .mgmtOut, .alertN] s t) ∧
      (∃ t, exec (.getVendorDefinedMsgSupport b) s = .next t ∧
        said s t (leBytes 1 6 ++ leBytes 1 0 ++ leBytes 1 0xFF ++ leBytes 1 1 ++ (leBytes 4 (rg s 0x1000 8)).reverse) ∧
        Touches [.out, .mgmtOut, .alertN] s t)) ∧
    (∀ l pk, l ≠ .own → (∀ k, l = .link k → k < linksOf s.variant) →
      let b := (arrival l pk).1
      let mctp := (arrival l pk).2.1
      let eid := leAt mctp 1 1
      (eid = eidOf s b → ∃ t, exec (.mgmtPacketRx l pk) s = .next t ∧ Touches [.mctpFrom, .alertN] s t ∧ kget t.mctpFrom b =
        some { coord := (arrival l pk).2.2, eid := leAt mctp 2 1, tag := leAt mctp 3 1 % 8, inst := leAt mctp 5 1 }) ∧
      (eid ≠ eidOf s b → peerOf s eid = none → ∃ t, exec (.mgmtPacketRx l pk) s = .next t ∧ Touches [.alertN] s t) ∧
      (∀ dest k, eid ≠ eidOf s b → peerOf s eid = some dest → route s (rg s 0x2000 12) dest 0 .mgmt = some (some k) →
        ∃ t, exec (.mgmtPacketRx l pk) s = .next t ∧
          linkAt t k = { linkAt s k with unsQ := (linkAt s k).unsQ ++ [mgmtPacket s dest mctp] } ∧ OtherLinks k s t ∧
          Touches [.links, .alertN] s t)) ∧
    (∀ pk, s.mgmtOut = [] → ∃ t, exec (.mgmtPacketRx .own pk) s = .next t ∧ Touches [.alertN] s t) ∧
    (∀ pk dest m ms k, s.mgmtOut = (dest, m) :: ms → route s (rg s 0x2000 12) dest 0 .mgmt = some (some k) →
      ∃ t, exec (.mgmtPacketRx .own pk) s = .next t ∧ t.mgmtOut = ms ∧
        linkAt t k = { linkAt s k with unsQ := (linkAt s k).unsQ ++ [mgmtPacket s dest m] } ∧ OtherLinks k s t ∧
        Touches [.links, .mgmtOut, .alertN] s t) ∧
    (∀ a, ∃ t, exec (.entdaa a) s = .next t ∧ t.i3cAddr = some (a % 128) ∧ Touches [.i3cAddr, .alertN] s t)

/-- The SPDM responder (R537 to R540, R559, R561, R562, R565, R566, R609, R621, R626). The three negotiation requests are answered in their order, any other
only after them. Digests, certificate portions, challenges and measurements carry what the module holds, with a signature by AK. KEY_EXCHANGE
gives a session to a requester that has a role, while fewer than 16 are open, FINISH opens it, and END_SESSION closes it with its lock; FINISH and
KEY_UPDATE give the two directions new data keys (R565), KEY_UPDATE starts the count of records anew, and HEARTBEAT is answered. A request for
a session on another binding than its own is refused. The codes of the responses and the order of what they carry are the model's (log
entry 32). -/
def Obligations.SpdmResponderAnswers : Prop :=
  ∀ (s : State) (b : Nat), s.powered = true → (b = 0 ∨ s.mcDown = false) →
    let at_ := (kget s.spdm b).getD 0
    let signed := fun (body : List Byte) => body ++ ecSign s.dice.ak (signNumber s).1 (sha384 body)
    (∃ t, exec (.getVersion b) s = .next t ∧ kget t.spdm b = some 1 ∧ Out.spdm b 0x04 (leBytes 1 0x13) ∈ t.out ∧
      Touches (.spdm :: replyFields) s t) ∧
    (1 ≤ at_ → ∃ t, exec (.getCapabilities b) s = .next t ∧ kget t.spdm b = some 2 ∧ Out.spdm b 0x61 (leBytes 4 spdmFlags) ∈ t.out ∧
      Touches (.spdm :: replyFields) s t) ∧
    (2 ≤ at_ → ∃ t, exec (.negotiateAlgorithms b) s = .next t ∧ kget t.spdm b = some 3 ∧ Out.spdm b 0x63 spdmAlgorithms ∈ t.out ∧
      Touches (.spdm :: replyFields) s t) ∧
    (∀ i, at_ < 3 → ((i = .negotiateAlgorithms b ∧ at_ < 2) ∨ (i = .getCapabilities b ∧ at_ < 1) ∨ i = .getDigests b ∨
        (∃ a o n, i = .getCertificate b a o n) ∨ (∃ n, i = .challenge b n) ∨ (∃ o n, i = .getMeasurements b o n) ∨
        ∃ k v m, i = .keyExchange b k v m) →
      ∃ t, exec i s = .next t ∧ Out.spdm b 0x7F (leBytes 1 4) ∈ t.out ∧ Touches replyFields s t) ∧
    (3 ≤ at_ →
      (∃ t, exec (.getDigests b) s = .next t ∧ Out.spdm b 0x01 (leBytes 1 1 ++ sha384 (certChain s)) ∈ t.out ∧
        Touches replyFields s t) ∧
      (∀ slot off len, slot ≠ 0 ∨ (certChain s).length ≤ off → ∃ t, exec (.getCertificate b slot off len) s = .next t ∧
        Out.spdm b 0x7F (leBytes 1 1) ∈ t.out ∧ Touches replyFields s t) ∧
      (∀ off len, off < (certChain s).length →
        let part := ((certChain s).drop off).take len
        ∃ t, exec (.getCertificate b 0 off len) s = .next t ∧
          Out.spdm b 0x02 (leBytes 2 part.length ++ leBytes 2 ((certChain s).length - off - part.length) ++ part) ∈ t.out ∧
          Touches replyFields s t) ∧
      (∀ nonce, ∃ t, exec (.challenge b nonce) s = .next t ∧ Out.spdm b 0x03 (signed (sha384 (certChain s) ++ nonce)) ∈ t.out ∧
        Touches (.fresh :: replyFields) s t) ∧
      (∀ nonce, ∃ t, exec (.getMeasurements b none nonce) s = .next t ∧ Out.spdm b 0x60 (signed (baseBlocks s ++ nonce)) ∈ t.out ∧
        Touches (.fresh :: replyFields) s t) ∧
      (∀ ses x nonce, UpSession s ses x →
        (x.transport = b → ∃ t, exec (.getMeasurements b (some ses) nonce) s = .next t ∧
          Out.spdm b 0x60 (signed (baseBlocks s ++ ((measuredParts s (some x)).map (partBlocks s)).flatten ++ nonce)) ∈ t.out ∧
          Touches (.fresh :: replyFields) s t) ∧
        (x.transport ≠ b → ∃ t, exec (.getMeasurements b (some ses) nonce) s = .next t ∧ Out.spdm b 0x7F (leBytes 1 2) ∈ t.out ∧
          Touches replyFields s t)) ∧
      (∀ key v m, rg s 0x7008 1 < 3 ∨ s.dice.cdi1 = [] → ∃ t, exec (.keyExchange b key v m) s = .next t ∧ Touches [.alertN] s t) ∧
      (3 ≤ rg s 0x7008 1 → s.dice.cdi1 ≠ [] →
        (∀ key v, ∃ t, exec (.keyExchange b key v false) s = .next t ∧ Out.spdm b 0x7F (leBytes 1 1) ∈ t.out ∧ Touches replyFields s t) ∧
        (∀ key v r, roleOf s key v = some r → s.sessions.length < 16 →
          ∃ t y, exec (.keyExchange b key v true) s = .next t ∧ t.sessions = s.sessions ++ [y] ∧ y.role = r ∧ y.key = key ∧ y.up = false ∧
            y.transport = b ∧ Out.spdm b 0x64 (leBytes 4 y.id) ∈ t.out ∧ Touches ([Field.sessions, .fresh] ++ replyFields) s t) ∧
        (∀ key v r, roleOf s key v = some r → 16 ≤ s.sessions.length → ∃ t, exec (.keyExchange b key v true) s = .next t ∧
          Out.spdm b 0x7F (leBytes 1 0x0A) ∈ t.out ∧ Touches replyFields s t) ∧
        (∀ key v, roleOf s key v = none → ∃ t, exec (.keyExchange b key v true) s = .next t ∧ Out.spdm b 0x7F (leBytes 1 5) ∈ t.out ∧
          t.sessions.length = s.sessions.length ∧ Touches (secFields ++ replyFields) s t))) ∧
    (∀ ses x, sesAt s ses = some x → x.transport ≠ b → ∀ ok, ∃ t, exec (.finish b ses ok) s = .next t ∧
      Out.spdm b 0x7F (leBytes 1 2) ∈ t.out ∧ Touches replyFields s t) ∧
    (∀ ses x, sesAt s ses = some x → x.up = false → x.transport = b →
      (∃ t keys ivs, exec (.finish b ses true) s = .next t ∧ sesAt t ses = some { x with up := true, dirKeys := keys, dirIvs := ivs } ∧
        keys.1.length = 32 ∧ keys.2.length = 32 ∧ ivs.1.length = 12 ∧ ivs.2.length = 12 ∧ Out.spdm b 0x65 [] ∈ t.out ∧
        Touches (.sessions :: .fresh :: replyFields) s t) ∧
      (∃ t, exec (.finish b ses false) s = .next t ∧ sesAt t ses = none ∧ Out.spdm b 0x7F (leBytes 1 6) ∈ t.out)) ∧
    (∀ ses x, UpSession s ses x →
      (∃ t keys ivs, exec (.keyUpdate ses) s = .next t ∧ sesAt t ses = some { x with recsIn := 0, dirKeys := keys, dirIvs := ivs } ∧
        keys.1.length = 32 ∧ keys.2.length = 32 ∧ ivs.1.length = 12 ∧ ivs.2.length = 12 ∧ Out.spdm x.transport 0x69 [] ∈ t.out ∧
        Touches (.sessions :: .fresh :: replyFields) s t) ∧
      (∃ t, exec (.heartbeat ses) s = .next t ∧ Out.spdm x.transport 0x68 [] ∈ t.out ∧ Touches replyFields s t) ∧
      (∃ t, exec (.endSession ses) s = .next t ∧ sesAt t ses = none ∧ t.lockBy ≠ some ses ∧ Out.spdm x.transport 0x6C [] ∈ t.out ∧
        Touches ([Field.sessions, .records, .lockBy] ++ replyFields) s t))
end

