-- ==== Sys2Proof/Machine/Codeword.lean ====
section
/-! DEFINITION. The codeword layer below the frames of a link (R341 to R346, R349): the two Reed-Solomon codes, the order of symbols
on the lanes, the scrambler, markers and codeword headers. It says how what is sent in `State.out` stands on the wire; no command
acts on a codeword but by its loss, so nothing here is read by a step (log entry 14). -/

namespace Sys2Proof.Machine

/-! ### The field GF(2^10) (R341) -/

/-- Times α, modulo x^10 + x^3 + 1. -/
def gfX (a : Nat) : Nat := if 512 ≤ a then (2 * a) ^^^ 0x409 else 2 * a

/-- The product of two field elements. -/
def gfMul (a b : Nat) : Nat := (List.range 10).foldr (fun i r => gfX r ^^^ (if b.testBit i then a else 0)) 0

/-- α^n. -/
def gfPow : Nat → Nat
  | 0 => 1
  | n + 1 => gfX (gfPow n)

/-! ### The codes (R341, R342): polynomials are lists of coefficients in descending degree -/

/-- Check symbols of a mode. -/
def checks (glL : Bool) : Nat := if glL then 30 else 12

/-- Data symbols of a mode. -/
def dataSyms (glL : Bool) : Nat := if glL then 514 else 260

/-- Header bits of a mode. -/
def headBits (glL : Bool) : Nat := if glL then 20 else 40

/-- (x − α^0)(x − α^1) … (x − α^(n−1)). -/
def rsGen : Nat → List Nat
  | 0 => [1]
  | n + 1 => List.zipWith (· ^^^ ·) (rsGen n ++ [0]) (0 :: (rsGen n).map (gfMul (gfPow n)))

/-- One step of the division by a monic generator, whose lower coefficients are `g`. -/
def rsStep (g rem : List Nat) (m : Nat) : List Nat :=
  List.zipWith (· ^^^ ·) (rem.drop 1 ++ [0]) (g.map (gfMul (m ^^^ rem.headD 0)))

/-- m(x) × x^n mod the generator with n check symbols. -/
def rsCheck (n : Nat) (m : List Nat) : List Nat := m.foldl (rsStep ((rsGen n).drop 1)) (List.replicate n 0)

/-- The codeword of data symbols, in the order in which it is sent. -/
def rsEncode (n : Nat) (m : List Nat) : List Nat := m ++ rsCheck n m

/-- The value of a polynomial at a field element. -/
def gfEval (p : List Nat) (x : Nat) : Nat := p.foldl (fun r c => gfMul r x ^^^ c) 0

/-- Whether symbols spell a codeword: every root of the generator is a root of them. -/
def isCodeword (n : Nat) (c : List Nat) : Bool := (List.range n).all (fun i => gfEval c (gfPow i) == 0)

/-- Symbols that a mode corrects in a codeword. -/
def corrects (glL : Bool) : Nat := if glL then 15 else 6

/-- Symbols in which two words differ. -/
def symbolErrors (a b : List Nat) : Nat := (List.zipWith (fun x y => if x = y then 0 else 1) a b).sum

/-- A received word is corrected to a codeword of its length that differs from it in at most 6 or 15 symbols, and it does not decode where
there is none (R341). -/
def correctsTo (glL : Bool) (r c : List Nat) : Bool :=
  isCodeword (checks glL) c && r.length == c.length && c.all (fun x => decide (x < 1024)) && decide (symbolErrors r c ≤ corrects glL)

/-- The lane of transmitted symbol `t`. -/
def symbolLane (t : Nat) : Nat := t % 4

/-- The two-bit values of a symbol in the order in which a lane sends them, before Gray mapping. -/
def symbolDibits (v : Nat) : List Nat := (List.range 5).map (fun i => bits v (2 * i) 2)

/-! ### Data bits (R342) and the scrambler (R343) -/

/-- The low `n` bits of a number, bit 0 first. -/
def bitsOf (n v : Nat) : List Bool := (List.range n).map (fun i => v.testBit i)

/-- The data bits of a codeword: the header bits, then the body bytes in ascending order. -/
def dataBits (glL : Bool) (head : Nat) (body : List Byte) : List Bool :=
  bitsOf (headBits glL) head ++ body.flatMap (fun b => bitsOf 8 b.toNat)

/-- The number whose bits, bit 0 first, are given. -/
def bitsNat (l : List Bool) : Nat := l.foldr (fun b r => b.toNat + 2 * r) 0

/-- The data symbols of data bits. -/
def symbolsOf (glL : Bool) (l : List Bool) : List Nat := (List.range (dataSyms glL)).map (fun i => bitsNat ((l.drop (10 * i)).take 10))

/-- The next output bit's feedback from the last 58 scrambled bits, the latest in bit 0. -/
def scramTap (st : BitVec 58) : Bool := xor (st.getLsbD 38) (st.getLsbD 57)

/-- The state after a scrambled bit. -/
def scramNext (st : BitVec 58) (b : Bool) : BitVec 58 := (st <<< 1) ||| (BitVec.ofBool b).zeroExtend 58

/-- Scramble with 1 + x^39 + x^58. -/
def scramble : List Bool → BitVec 58 → List Bool × BitVec 58
  | [], st => ([], st)
  | d :: r, st =>
    let b := xor d (scramTap st)
    let t := scramble r (scramNext st b)
    (b :: t.1, t.2)

/-- What the receiver makes of scrambled bits. -/
def descramble : List Bool → BitVec 58 → List Bool × BitVec 58
  | [], st => ([], st)
  | b :: r, st =>
    let t := descramble r (scramNext st b)
    (xor b (scramTap st) :: t.1, t.2)

/-! ### Markers (R344) -/

/-- The body of a marker. -/
def markerBody (glL sv2 : Bool) (ring link : Nat) : List Byte :=
  padTo (bodyBytes glL) ((List.range 128).flatMap (fun _ => leBytes 1 0x5A ++ leBytes 1 0xC3) ++ leBytes 4 ring ++ leBytes 1 link ++
    leBytes 1 ((if glL then 1 else 0) + (if sv2 then 2 else 0)))

/-- A marker as it is sent: it is never scrambled. -/
def marker (glL sv2 : Bool) (ring link : Nat) : List Nat :=
  rsEncode (checks glL) (symbolsOf glL (dataBits glL 0 (markerBody glL sv2 ring link)))

/-- Whether a codeword position holds a marker. -/
def isMarkerPos (n : Nat) : Bool := n % 40 == 0

/-! ### Data codewords (R345, R346, R349) -/

/-- A data codeword as it is sent, with the state of the scrambler after it. -/
def dataCodeword (glL : Bool) (head : Nat) (body : List Byte) (st : BitVec 58) : List Nat × BitVec 58 :=
  let r := scramble (dataBits glL head body) st
  (rsEncode (checks glL) (symbolsOf glL r.1), r.2)

/-- An IDLE codeword: its header and body are 0. -/
def idleCodeword (glL : Bool) (st : BitVec 58) : List Nat × BitVec 58 := dataCodeword glL 0 (padTo (bodyBytes glL) []) st

/-- The headers and bodies of the codewords of a frame, in order. -/
def frameCodewords (glL : Bool) (str : Stream) (fr : List Byte) : List (Nat × List Byte) :=
  let n := ceilDiv fr.length (bodyBytes glL)
  (List.range n).map (fun i => (cwHead str (i == 0) (i + 1 == n) i, (fr.drop (bodyBytes glL * i)).take (bodyBytes glL)))

/-- The body of a link frame from what `sendLink` reports. -/
def linkBody (ltype : Nat) (args : List Nat) : List Byte :=
  let a := fun (i : Nat) => args.getD i 0
  padTo 288 (leBytes 1 ltype ++ (match ltype with
    | 1 => leBytes 2 (a 0)
    | 2 => leBytes 2 (a 0) ++ leBytes 5 0 ++ leBytes 8 (a 1)
    | 3 => leBytes 1 (a 0) ++ leBytes 1 (a 1) ++ leBytes 1 0 ++ leBytes 4 (a 2) ++ ((args.drop 3).take 16).flatMap (leBytes 1)
    | 4 => leBytes 2 (a 0) ++ leBytes 2 (a 1)
    | _ => []))

/-- The bytes of a link frame: body, trailer with SEQ, URES and USH 0, and CRC. -/
def linkFrameBytes (glL : Bool) (ltype : Nat) (args : List Nat) : List Byte :=
  let t := args.drop (args.length - 6)
  let tr := t.getD 0 0 * 2 ^ 12 + t.getD 1 0 * 2 ^ 144 + t.getD 2 0 * 2 ^ 160 + t.getD 3 0 * 2 ^ 176 + t.getD 4 0 * 2 ^ 192 + t.getD 5 0 * 2 ^ 208
  let b := padTo (bodyBytes glL - 32) (linkBody ltype args) ++ leBytes 28 tr
  b ++ leBytes 4 (crc32 b)

/-- The codewords, as header and body, of what a link has sent. -/
def outCodewords (glL : Bool) : Out → List (Nat × List Byte)
  | .frame _ str fr => frameCodewords glL str fr
  | .linkFrame _ ltype args => frameCodewords glL .link (linkFrameBytes glL ltype args)
  | _ => []

end Sys2Proof.Machine
end

