-- ==== Sys2Proof/Laws/Codeword.lean ====
section
/-! SUPPORT. The codeword layer: what is scrambled is recovered, and the lengths of a codeword. -/

namespace Sys2Proof.Machine

/-- A receiver whose state agrees recovers the bits, and its state goes on to agree (R343). -/
theorem descramble_scramble (l : List Bool) (st : BitVec 58) : descramble (scramble l st).1 st = (l, (scramble l st).2) := by
  induction l generalizing st with
  | nil => rfl
  | cons d r ih => simp [scramble, descramble, ih]

@[simp] theorem scramble_length (l : List Bool) (st : BitVec 58) : (scramble l st).1.length = l.length := by
  induction l generalizing st with
  | nil => rfl
  | cons d r ih => simp [scramble, ih]

theorem rsGen_length (n : Nat) : (rsGen n).length = n + 1 := by
  induction n with
  | zero => rfl
  | succ n ih => simp [rsGen, ih]

theorem rsCheck_length (n : Nat) (m : List Nat) : (rsCheck n m).length = n := by
  have h : ∀ (m rem : List Nat), rem.length = n → (m.foldl (rsStep ((rsGen n).drop 1)) rem).length = n := by
    intro m
    induction m with
    | nil => intro rem h; exact h
    | cons a r ih => intro rem h; exact ih _ (by simp [rsStep, rsGen_length, h]; omega)
  exact h m _ (by simp)

/-- A codeword has its data symbols and its check symbols (R341). -/
theorem rsEncode_length (n : Nat) (m : List Nat) : (rsEncode n m).length = m.length + n := by simp [rsEncode, rsCheck_length]

theorem symbolErrors_self (c : List Nat) : symbolErrors c c = 0 := by
  induction c with
  | nil => rfl
  | cons a r ih => simp [symbolErrors]

/-- A codeword that arrives as it was sent is corrected to itself (R341). -/
theorem correctsTo_self (glL : Bool) (c : List Nat) (h : isCodeword (checks glL) c = true) (hs : ∀ x ∈ c, x < 1024) :
    correctsTo glL c c = true := by
  simp [correctsTo, h, symbolErrors_self]
  exact hs

theorem symbolsOf_length (glL : Bool) (l : List Bool) : (symbolsOf glL l).length = dataSyms glL := by simp [symbolsOf]

/-- A data codeword has 272 symbols in GL-S and 544 in GL-L. -/
theorem dataCodeword_length (glL : Bool) (h : Nat) (b : List Byte) (st : BitVec 58) :
    (dataCodeword glL h b st).1.length = if glL then 544 else 272 := by
  cases glL <;> simp [dataCodeword, rsEncode_length, symbolsOf_length, dataSyms, checks]

end Sys2Proof.Machine
end

