-- ==== Sys2Proof/Laws/State.lean ====
section
/-! SUPPORT. What each plain update of the state leaves as it was: one theorem for each update, a rewrite rule for each field, all
true by unfolding alone, so that no proof unfolds a record update. -/

namespace Sys2Proof.Machine

/-- Everything but regs stays. -/
@[simp] theorem wr_keeps (s : State) (i j v : Nat) :
    (wr s i j v).pending = s.pending ∧ (wr s i j v).variant = s.variant ∧ (wr s i j v).blobs = s.blobs ∧
    (wr s i j v).rems = s.rems ∧ (wr s i j v).scrubNum = s.scrubNum ∧ (wr s i j v).mem = s.mem ∧ (wr s i j v).ecc = s.ecc ∧
    (wr s i j v).beat = s.beat ∧ (wr s i j v).cyc = s.cyc ∧ (wr s i j v).edge = s.edge ∧ (wr s i j v).edgePs = s.edgePs ∧
    (wr s i j v).holdPs = s.holdPs ∧ (wr s i j v).lastN = s.lastN ∧ (wr s i j v).lastLen = s.lastLen ∧
    (wr s i j v).cores = s.cores ∧ (wr s i j v).links = s.links ∧ (wr s i j v).parts = s.parts ∧
    (wr s i j v).chReady = s.chReady ∧ (wr s i j v).patrol = s.patrol ∧ (wr s i j v).patrolled = s.patrolled ∧
    (wr s i j v).bankUse = s.bankUse ∧ (wr s i j v).faultq = s.faultq ∧ (wr s i j v).log = s.log ∧
    (wr s i j v).logNum = s.logNum ∧ (wr s i j v).kept = s.kept ∧ (wr s i j v).capSeen = s.capSeen ∧
    (wr s i j v).sessions = s.sessions ∧ (wr s i j v).asks = s.asks ∧ (wr s i j v).lockBy = s.lockBy ∧
    (wr s i j v).lockLeft = s.lockLeft ∧ (wr s i j v).handles = s.handles ∧ (wr s i j v).handleSeq = s.handleSeq ∧
    (wr s i j v).serve = s.serve ∧ (wr s i j v).records = s.records ∧ (wr s i j v).ctxs = s.ctxs ∧
    (wr s i j v).grafts = s.grafts ∧ (wr s i j v).graftRun = s.graftRun ∧ (wr s i j v).flashTest = s.flashTest ∧
    (wr s i j v).hbmTest = s.hbmTest ∧ (wr s i j v).serveTest = s.serveTest ∧ (wr s i j v).change = s.change ∧
    (wr s i j v).debugReq = s.debugReq ∧ (wr s i j v).keysBlocked = s.keysBlocked ∧ (wr s i j v).stateStore = s.stateStore ∧
    (wr s i j v).akGen = s.akGen ∧ (wr s i j v).dice = s.dice ∧ (wr s i j v).fuseUds = s.fuseUds ∧
    (wr s i j v).fuseRoot = s.fuseRoot ∧ (wr s i j v).fuseFw = s.fuseFw ∧ (wr s i j v).ceilReq = s.ceilReq ∧
    (wr s i j v).bsyncAt = s.bsyncAt ∧ (wr s i j v).fstepSeen = s.fstepSeen ∧ (wr s i j v).fstepSeq = s.fstepSeq ∧
    (wr s i j v).freqHandle = s.freqHandle ∧ (wr s i j v).freqLater = s.freqLater ∧ (wr s i j v).marks = s.marks ∧
    (wr s i j v).phaseLeft = s.phaseLeft ∧ (wr s i j v).phaseBad = s.phaseBad ∧ (wr s i j v).refLost = s.refLost ∧
    (wr s i j v).ppsSeen = s.ppsSeen ∧ (wr s i j v).stretchNow = s.stretchNow ∧ (wr s i j v).stretchHit = s.stretchHit ∧
    (wr s i j v).fifos = s.fifos ∧ (wr s i j v).hints = s.hints ∧ (wr s i j v).rails = s.rails ∧ (wr s i j v).avg1 = s.avg1 ∧
    (wr s i j v).avg10 = s.avg10 ∧ (wr s i j v).badSens = s.badSens ∧ (wr s i j v).ceilUp = s.ceilUp ∧
    (wr s i j v).ceilDown = s.ceilDown ∧ (wr s i j v).sens = s.sens ∧ (wr s i j v).hbmTemp = s.hbmTemp ∧
    (wr s i j v).coolant = s.coolant ∧ (wr s i j v).board = s.board ∧ (wr s i j v).act = s.act ∧
    (wr s i j v).coreCyc = s.coreCyc ∧ (wr s i j v).attr = s.attr ∧ (wr s i j v).tripAt = s.tripAt ∧
    (wr s i j v).tripped = s.tripped ∧ (wr s i j v).tripKept = s.tripKept ∧ (wr s i j v).tripCauses = s.tripCauses ∧
    (wr s i j v).powered = s.powered ∧ (wr s i j v).holdup = s.holdup ∧ (wr s i j v).pwrGood = s.pwrGood ∧
    (wr s i j v).moduleRst = s.moduleRst ∧ (wr s i j v).alertN = s.alertN ∧ (wr s i j v).faultN = s.faultN ∧
    (wr s i j v).railsUp = s.railsUp ∧ (wr s i j v).warmBoot = s.warmBoot ∧ (wr s i j v).mcDown = s.mcDown ∧
    (wr s i j v).mcDead = s.mcDead ∧ (wr s i j v).mcUpAt = s.mcUpAt ∧ (wr s i j v).mcFails = s.mcFails ∧
    (wr s i j v).heads = s.heads ∧ (wr s i j v).msgSeq = s.msgSeq ∧ (wr s i j v).mctpFrom = s.mctpFrom ∧
    (wr s i j v).mgmtOut = s.mgmtOut ∧ (wr s i j v).msixTab = s.msixTab ∧ (wr s i j v).msixPba = s.msixPba ∧
    (wr s i j v).rrSlot = s.rrSlot ∧ (wr s i j v).mbStatus = s.mbStatus ∧ (wr s i j v).mbRspLen = s.mbRspLen ∧
    (wr s i j v).mbReqLen = s.mbReqLen ∧ (wr s i j v).mbReq = s.mbReq ∧ (wr s i j v).mbRsp = s.mbRsp ∧
    (wr s i j v).evHead = s.evHead ∧ (wr s i j v).evTail = s.evTail ∧ (wr s i j v).evFifo = s.evFifo ∧
    (wr s i j v).evLost = s.evLost ∧ (wr s i j v).eids = s.eids ∧ (wr s i j v).i3cAddr = s.i3cAddr ∧
    (wr s i j v).spdm = s.spdm ∧ (wr s i j v).fwNext = s.fwNext ∧ (wr s i j v).lmNext = s.lmNext ∧
    (wr s i j v).fwRun = s.fwRun ∧ (wr s i j v).fresh = s.fresh ∧ (wr s i j v).out = s.out := by
  exact ⟨rfl, rfl, rfl, rfl, rfl, rfl, rfl, rfl, rfl, rfl, rfl, rfl, rfl, rfl, rfl, rfl, rfl, rfl, rfl, rfl, rfl, rfl, rfl,
    rfl, rfl, rfl, rfl, rfl, rfl, rfl, rfl, rfl, rfl, rfl, rfl, rfl, rfl, rfl, rfl, rfl, rfl, rfl, rfl, rfl, rfl, rfl, rfl,
    rfl, rfl, rfl, rfl, rfl, rfl, rfl, rfl, rfl, rfl, rfl, rfl, rfl, rfl, rfl, rfl, rfl, rfl, rfl, rfl, rfl, rfl, rfl, rfl,
    rfl, rfl, rfl, rfl, rfl, rfl, rfl, rfl, rfl, rfl, rfl, rfl, rfl, rfl, rfl, rfl, rfl, rfl, rfl, rfl, rfl, rfl, rfl, rfl,
    rfl, rfl, rfl, rfl, rfl, rfl, rfl, rfl, rfl, rfl, rfl, rfl, rfl, rfl, rfl, rfl, rfl, rfl, rfl, rfl, rfl, rfl⟩

/-- Everything but blobs stays. -/
@[simp] theorem wb_keeps (s : State) (i j : Nat) (b : List Byte) :
    (wb s i j b).pending = s.pending ∧ (wb s i j b).variant = s.variant ∧ (wb s i j b).regs = s.regs ∧
    (wb s i j b).rems = s.rems ∧ (wb s i j b).scrubNum = s.scrubNum ∧ (wb s i j b).mem = s.mem ∧ (wb s i j b).ecc = s.ecc ∧
    (wb s i j b).beat = s.beat ∧ (wb s i j b).cyc = s.cyc ∧ (wb s i j b).edge = s.edge ∧ (wb s i j b).edgePs = s.edgePs ∧
    (wb s i j b).holdPs = s.holdPs ∧ (wb s i j b).lastN = s.lastN ∧ (wb s i j b).lastLen = s.lastLen ∧
    (wb s i j b).cores = s.cores ∧ (wb s i j b).links = s.links ∧ (wb s i j b).parts = s.parts ∧
    (wb s i j b).chReady = s.chReady ∧ (wb s i j b).patrol = s.patrol ∧ (wb s i j b).patrolled = s.patrolled ∧
    (wb s i j b).bankUse = s.bankUse ∧ (wb s i j b).faultq = s.faultq ∧ (wb s i j b).log = s.log ∧
    (wb s i j b).logNum = s.logNum ∧ (wb s i j b).kept = s.kept ∧ (wb s i j b).capSeen = s.capSeen ∧
    (wb s i j b).sessions = s.sessions ∧ (wb s i j b).asks = s.asks ∧ (wb s i j b).lockBy = s.lockBy ∧
    (wb s i j b).lockLeft = s.lockLeft ∧ (wb s i j b).handles = s.handles ∧ (wb s i j b).handleSeq = s.handleSeq ∧
    (wb s i j b).serve = s.serve ∧ (wb s i j b).records = s.records ∧ (wb s i j b).ctxs = s.ctxs ∧
    (wb s i j b).grafts = s.grafts ∧ (wb s i j b).graftRun = s.graftRun ∧ (wb s i j b).flashTest = s.flashTest ∧
    (wb s i j b).hbmTest = s.hbmTest ∧ (wb s i j b).serveTest = s.serveTest ∧ (wb s i j b).change = s.change ∧
    (wb s i j b).debugReq = s.debugReq ∧ (wb s i j b).keysBlocked = s.keysBlocked ∧ (wb s i j b).stateStore = s.stateStore ∧
    (wb s i j b).akGen = s.akGen ∧ (wb s i j b).dice = s.dice ∧ (wb s i j b).fuseUds = s.fuseUds ∧
    (wb s i j b).fuseRoot = s.fuseRoot ∧ (wb s i j b).fuseFw = s.fuseFw ∧ (wb s i j b).ceilReq = s.ceilReq ∧
    (wb s i j b).bsyncAt = s.bsyncAt ∧ (wb s i j b).fstepSeen = s.fstepSeen ∧ (wb s i j b).fstepSeq = s.fstepSeq ∧
    (wb s i j b).freqHandle = s.freqHandle ∧ (wb s i j b).freqLater = s.freqLater ∧ (wb s i j b).marks = s.marks ∧
    (wb s i j b).phaseLeft = s.phaseLeft ∧ (wb s i j b).phaseBad = s.phaseBad ∧ (wb s i j b).refLost = s.refLost ∧
    (wb s i j b).ppsSeen = s.ppsSeen ∧ (wb s i j b).stretchNow = s.stretchNow ∧ (wb s i j b).stretchHit = s.stretchHit ∧
    (wb s i j b).fifos = s.fifos ∧ (wb s i j b).hints = s.hints ∧ (wb s i j b).rails = s.rails ∧ (wb s i j b).avg1 = s.avg1 ∧
    (wb s i j b).avg10 = s.avg10 ∧ (wb s i j b).badSens = s.badSens ∧ (wb s i j b).ceilUp = s.ceilUp ∧
    (wb s i j b).ceilDown = s.ceilDown ∧ (wb s i j b).sens = s.sens ∧ (wb s i j b).hbmTemp = s.hbmTemp ∧
    (wb s i j b).coolant = s.coolant ∧ (wb s i j b).board = s.board ∧ (wb s i j b).act = s.act ∧
    (wb s i j b).coreCyc = s.coreCyc ∧ (wb s i j b).attr = s.attr ∧ (wb s i j b).tripAt = s.tripAt ∧
    (wb s i j b).tripped = s.tripped ∧ (wb s i j b).tripKept = s.tripKept ∧ (wb s i j b).tripCauses = s.tripCauses ∧
    (wb s i j b).powered = s.powered ∧ (wb s i j b).holdup = s.holdup ∧ (wb s i j b).pwrGood = s.pwrGood ∧
    (wb s i j b).moduleRst = s.moduleRst ∧ (wb s i j b).alertN = s.alertN ∧ (wb s i j b).faultN = s.faultN ∧
    (wb s i j b).railsUp = s.railsUp ∧ (wb s i j b).warmBoot = s.warmBoot ∧ (wb s i j b).mcDown = s.mcDown ∧
    (wb s i j b).mcDead = s.mcDead ∧ (wb s i j b).mcUpAt = s.mcUpAt ∧ (wb s i j b).mcFails = s.mcFails ∧
    (wb s i j b).heads = s.heads ∧ (wb s i j b).msgSeq = s.msgSeq ∧ (wb s i j b).mctpFrom = s.mctpFrom ∧
    (wb s i j b).mgmtOut = s.mgmtOut ∧ (wb s i j b).msixTab = s.msixTab ∧ (wb s i j b).msixPba = s.msixPba ∧
    (wb s i j b).rrSlot = s.rrSlot ∧ (wb s i j b).mbStatus = s.mbStatus ∧ (wb s i j b).mbRspLen = s.mbRspLen ∧
    (wb s i j b).mbReqLen = s.mbReqLen ∧ (wb s i j b).mbReq = s.mbReq ∧ (wb s i j b).mbRsp = s.mbRsp ∧
    (wb s i j b).evHead = s.evHead ∧ (wb s i j b).evTail = s.evTail ∧ (wb s i j b).evFifo = s.evFifo ∧
    (wb s i j b).evLost = s.evLost ∧ (wb s i j b).eids = s.eids ∧ (wb s i j b).i3cAddr = s.i3cAddr ∧
    (wb s i j b).spdm = s.spdm ∧ (wb s i j b).fwNext = s.fwNext ∧ (wb s i j b).lmNext = s.lmNext ∧
    (wb s i j b).fwRun = s.fwRun ∧ (wb s i j b).fresh = s.fresh ∧ (wb s i j b).out = s.out := by
  exact ⟨rfl, rfl, rfl, rfl, rfl, rfl, rfl, rfl, rfl, rfl, rfl, rfl, rfl, rfl, rfl, rfl, rfl, rfl, rfl, rfl, rfl, rfl, rfl,
    rfl, rfl, rfl, rfl, rfl, rfl, rfl, rfl, rfl, rfl, rfl, rfl, rfl, rfl, rfl, rfl, rfl, rfl, rfl, rfl, rfl, rfl, rfl, rfl,
    rfl, rfl, rfl, rfl, rfl, rfl, rfl, rfl, rfl, rfl, rfl, rfl, rfl, rfl, rfl, rfl, rfl, rfl, rfl, rfl, rfl, rfl, rfl, rfl,
    rfl, rfl, rfl, rfl, rfl, rfl, rfl, rfl, rfl, rfl, rfl, rfl, rfl, rfl, rfl, rfl, rfl, rfl, rfl, rfl, rfl, rfl, rfl, rfl,
    rfl, rfl, rfl, rfl, rfl, rfl, rfl, rfl, rfl, rfl, rfl, rfl, rfl, rfl, rfl, rfl, rfl, rfl, rfl, rfl, rfl, rfl⟩

/-- Everything but regs, blobs and rems stays. -/
@[simp] theorem toDefault_keeps (s : State) (i j : Nat) :
    (toDefault s i j).pending = s.pending ∧ (toDefault s i j).variant = s.variant ∧ (toDefault s i j).scrubNum = s.scrubNum ∧
    (toDefault s i j).mem = s.mem ∧ (toDefault s i j).ecc = s.ecc ∧ (toDefault s i j).beat = s.beat ∧
    (toDefault s i j).cyc = s.cyc ∧ (toDefault s i j).edge = s.edge ∧ (toDefault s i j).edgePs = s.edgePs ∧
    (toDefault s i j).holdPs = s.holdPs ∧ (toDefault s i j).lastN = s.lastN ∧ (toDefault s i j).lastLen = s.lastLen ∧
    (toDefault s i j).cores = s.cores ∧ (toDefault s i j).links = s.links ∧ (toDefault s i j).parts = s.parts ∧
    (toDefault s i j).chReady = s.chReady ∧ (toDefault s i j).patrol = s.patrol ∧ (toDefault s i j).patrolled = s.patrolled ∧
    (toDefault s i j).bankUse = s.bankUse ∧ (toDefault s i j).faultq = s.faultq ∧ (toDefault s i j).log = s.log ∧
    (toDefault s i j).logNum = s.logNum ∧ (toDefault s i j).kept = s.kept ∧ (toDefault s i j).capSeen = s.capSeen ∧
    (toDefault s i j).sessions = s.sessions ∧ (toDefault s i j).asks = s.asks ∧ (toDefault s i j).lockBy = s.lockBy ∧
    (toDefault s i j).lockLeft = s.lockLeft ∧ (toDefault s i j).handles = s.handles ∧
    (toDefault s i j).handleSeq = s.handleSeq ∧ (toDefault s i j).serve = s.serve ∧ (toDefault s i j).records = s.records ∧
    (toDefault s i j).ctxs = s.ctxs ∧ (toDefault s i j).grafts = s.grafts ∧ (toDefault s i j).graftRun = s.graftRun ∧
    (toDefault s i j).flashTest = s.flashTest ∧ (toDefault s i j).hbmTest = s.hbmTest ∧
    (toDefault s i j).serveTest = s.serveTest ∧ (toDefault s i j).change = s.change ∧ (toDefault s i j).debugReq = s.debugReq ∧
    (toDefault s i j).keysBlocked = s.keysBlocked ∧ (toDefault s i j).stateStore = s.stateStore ∧
    (toDefault s i j).akGen = s.akGen ∧ (toDefault s i j).dice = s.dice ∧ (toDefault s i j).fuseUds = s.fuseUds ∧
    (toDefault s i j).fuseRoot = s.fuseRoot ∧ (toDefault s i j).fuseFw = s.fuseFw ∧ (toDefault s i j).ceilReq = s.ceilReq ∧
    (toDefault s i j).bsyncAt = s.bsyncAt ∧ (toDefault s i j).fstepSeen = s.fstepSeen ∧
    (toDefault s i j).fstepSeq = s.fstepSeq ∧ (toDefault s i j).freqHandle = s.freqHandle ∧
    (toDefault s i j).freqLater = s.freqLater ∧ (toDefault s i j).marks = s.marks ∧ (toDefault s i j).phaseLeft = s.phaseLeft ∧
    (toDefault s i j).phaseBad = s.phaseBad ∧ (toDefault s i j).refLost = s.refLost ∧ (toDefault s i j).ppsSeen = s.ppsSeen ∧
    (toDefault s i j).stretchNow = s.stretchNow ∧ (toDefault s i j).stretchHit = s.stretchHit ∧
    (toDefault s i j).fifos = s.fifos ∧ (toDefault s i j).hints = s.hints ∧ (toDefault s i j).rails = s.rails ∧
    (toDefault s i j).avg1 = s.avg1 ∧ (toDefault s i j).avg10 = s.avg10 ∧ (toDefault s i j).badSens = s.badSens ∧
    (toDefault s i j).ceilUp = s.ceilUp ∧ (toDefault s i j).ceilDown = s.ceilDown ∧ (toDefault s i j).sens = s.sens ∧
    (toDefault s i j).hbmTemp = s.hbmTemp ∧ (toDefault s i j).coolant = s.coolant ∧ (toDefault s i j).board = s.board ∧
    (toDefault s i j).act = s.act ∧ (toDefault s i j).coreCyc = s.coreCyc ∧ (toDefault s i j).attr = s.attr ∧
    (toDefault s i j).tripAt = s.tripAt ∧ (toDefault s i j).tripped = s.tripped ∧ (toDefault s i j).tripKept = s.tripKept ∧
    (toDefault s i j).tripCauses = s.tripCauses ∧ (toDefault s i j).powered = s.powered ∧ (toDefault s i j).holdup = s.holdup ∧
    (toDefault s i j).pwrGood = s.pwrGood ∧ (toDefault s i j).moduleRst = s.moduleRst ∧ (toDefault s i j).alertN = s.alertN ∧
    (toDefault s i j).faultN = s.faultN ∧ (toDefault s i j).railsUp = s.railsUp ∧ (toDefault s i j).warmBoot = s.warmBoot ∧
    (toDefault s i j).mcDown = s.mcDown ∧ (toDefault s i j).mcDead = s.mcDead ∧ (toDefault s i j).mcUpAt = s.mcUpAt ∧
    (toDefault s i j).mcFails = s.mcFails ∧ (toDefault s i j).heads = s.heads ∧ (toDefault s i j).msgSeq = s.msgSeq ∧
    (toDefault s i j).mctpFrom = s.mctpFrom ∧ (toDefault s i j).mgmtOut = s.mgmtOut ∧ (toDefault s i j).msixTab = s.msixTab ∧
    (toDefault s i j).msixPba = s.msixPba ∧ (toDefault s i j).rrSlot = s.rrSlot ∧ (toDefault s i j).mbStatus = s.mbStatus ∧
    (toDefault s i j).mbRspLen = s.mbRspLen ∧ (toDefault s i j).mbReqLen = s.mbReqLen ∧ (toDefault s i j).mbReq = s.mbReq ∧
    (toDefault s i j).mbRsp = s.mbRsp ∧ (toDefault s i j).evHead = s.evHead ∧ (toDefault s i j).evTail = s.evTail ∧
    (toDefault s i j).evFifo = s.evFifo ∧ (toDefault s i j).evLost = s.evLost ∧ (toDefault s i j).eids = s.eids ∧
    (toDefault s i j).i3cAddr = s.i3cAddr ∧ (toDefault s i j).spdm = s.spdm ∧ (toDefault s i j).fwNext = s.fwNext ∧
    (toDefault s i j).lmNext = s.lmNext ∧ (toDefault s i j).fwRun = s.fwRun ∧ (toDefault s i j).fresh = s.fresh ∧
    (toDefault s i j).out = s.out := by
  exact ⟨rfl, rfl, rfl, rfl, rfl, rfl, rfl, rfl, rfl, rfl, rfl, rfl, rfl, rfl, rfl, rfl, rfl, rfl, rfl, rfl, rfl, rfl, rfl,
    rfl, rfl, rfl, rfl, rfl, rfl, rfl, rfl, rfl, rfl, rfl, rfl, rfl, rfl, rfl, rfl, rfl, rfl, rfl, rfl, rfl, rfl, rfl, rfl,
    rfl, rfl, rfl, rfl, rfl, rfl, rfl, rfl, rfl, rfl, rfl, rfl, rfl, rfl, rfl, rfl, rfl, rfl, rfl, rfl, rfl, rfl, rfl, rfl,
    rfl, rfl, rfl, rfl, rfl, rfl, rfl, rfl, rfl, rfl, rfl, rfl, rfl, rfl, rfl, rfl, rfl, rfl, rfl, rfl, rfl, rfl, rfl, rfl,
    rfl, rfl, rfl, rfl, rfl, rfl, rfl, rfl, rfl, rfl, rfl, rfl, rfl, rfl, rfl, rfl, rfl, rfl, rfl, rfl⟩

/-- Everything but cores stays. -/
@[simp] theorem setCore_keeps (s : State) (u : Nat) (x : CoreSt) :
    (setCore s u x).pending = s.pending ∧ (setCore s u x).variant = s.variant ∧ (setCore s u x).regs = s.regs ∧
    (setCore s u x).blobs = s.blobs ∧ (setCore s u x).rems = s.rems ∧ (setCore s u x).scrubNum = s.scrubNum ∧
    (setCore s u x).mem = s.mem ∧ (setCore s u x).ecc = s.ecc ∧ (setCore s u x).beat = s.beat ∧ (setCore s u x).cyc = s.cyc ∧
    (setCore s u x).edge = s.edge ∧ (setCore s u x).edgePs = s.edgePs ∧ (setCore s u x).holdPs = s.holdPs ∧
    (setCore s u x).lastN = s.lastN ∧ (setCore s u x).lastLen = s.lastLen ∧ (setCore s u x).links = s.links ∧
    (setCore s u x).parts = s.parts ∧ (setCore s u x).chReady = s.chReady ∧ (setCore s u x).patrol = s.patrol ∧
    (setCore s u x).patrolled = s.patrolled ∧ (setCore s u x).bankUse = s.bankUse ∧ (setCore s u x).faultq = s.faultq ∧
    (setCore s u x).log = s.log ∧ (setCore s u x).logNum = s.logNum ∧ (setCore s u x).kept = s.kept ∧
    (setCore s u x).capSeen = s.capSeen ∧ (setCore s u x).sessions = s.sessions ∧ (setCore s u x).asks = s.asks ∧
    (setCore s u x).lockBy = s.lockBy ∧ (setCore s u x).lockLeft = s.lockLeft ∧ (setCore s u x).handles = s.handles ∧
    (setCore s u x).handleSeq = s.handleSeq ∧ (setCore s u x).serve = s.serve ∧ (setCore s u x).records = s.records ∧
    (setCore s u x).ctxs = s.ctxs ∧ (setCore s u x).grafts = s.grafts ∧ (setCore s u x).graftRun = s.graftRun ∧
    (setCore s u x).flashTest = s.flashTest ∧ (setCore s u x).hbmTest = s.hbmTest ∧ (setCore s u x).serveTest = s.serveTest ∧
    (setCore s u x).change = s.change ∧ (setCore s u x).debugReq = s.debugReq ∧ (setCore s u x).keysBlocked = s.keysBlocked ∧
    (setCore s u x).stateStore = s.stateStore ∧ (setCore s u x).akGen = s.akGen ∧ (setCore s u x).dice = s.dice ∧
    (setCore s u x).fuseUds = s.fuseUds ∧ (setCore s u x).fuseRoot = s.fuseRoot ∧ (setCore s u x).fuseFw = s.fuseFw ∧
    (setCore s u x).ceilReq = s.ceilReq ∧ (setCore s u x).bsyncAt = s.bsyncAt ∧ (setCore s u x).fstepSeen = s.fstepSeen ∧
    (setCore s u x).fstepSeq = s.fstepSeq ∧ (setCore s u x).freqHandle = s.freqHandle ∧
    (setCore s u x).freqLater = s.freqLater ∧ (setCore s u x).marks = s.marks ∧ (setCore s u x).phaseLeft = s.phaseLeft ∧
    (setCore s u x).phaseBad = s.phaseBad ∧ (setCore s u x).refLost = s.refLost ∧ (setCore s u x).ppsSeen = s.ppsSeen ∧
    (setCore s u x).stretchNow = s.stretchNow ∧ (setCore s u x).stretchHit = s.stretchHit ∧ (setCore s u x).fifos = s.fifos ∧
    (setCore s u x).hints = s.hints ∧ (setCore s u x).rails = s.rails ∧ (setCore s u x).avg1 = s.avg1 ∧
    (setCore s u x).avg10 = s.avg10 ∧ (setCore s u x).badSens = s.badSens ∧ (setCore s u x).ceilUp = s.ceilUp ∧
    (setCore s u x).ceilDown = s.ceilDown ∧ (setCore s u x).sens = s.sens ∧ (setCore s u x).hbmTemp = s.hbmTemp ∧
    (setCore s u x).coolant = s.coolant ∧ (setCore s u x).board = s.board ∧ (setCore s u x).act = s.act ∧
    (setCore s u x).coreCyc = s.coreCyc ∧ (setCore s u x).attr = s.attr ∧ (setCore s u x).tripAt = s.tripAt ∧
    (setCore s u x).tripped = s.tripped ∧ (setCore s u x).tripKept = s.tripKept ∧ (setCore s u x).tripCauses = s.tripCauses ∧
    (setCore s u x).powered = s.powered ∧ (setCore s u x).holdup = s.holdup ∧ (setCore s u x).pwrGood = s.pwrGood ∧
    (setCore s u x).moduleRst = s.moduleRst ∧ (setCore s u x).alertN = s.alertN ∧ (setCore s u x).faultN = s.faultN ∧
    (setCore s u x).railsUp = s.railsUp ∧ (setCore s u x).warmBoot = s.warmBoot ∧ (setCore s u x).mcDown = s.mcDown ∧
    (setCore s u x).mcDead = s.mcDead ∧ (setCore s u x).mcUpAt = s.mcUpAt ∧ (setCore s u x).mcFails = s.mcFails ∧
    (setCore s u x).heads = s.heads ∧ (setCore s u x).msgSeq = s.msgSeq ∧ (setCore s u x).mctpFrom = s.mctpFrom ∧
    (setCore s u x).mgmtOut = s.mgmtOut ∧ (setCore s u x).msixTab = s.msixTab ∧ (setCore s u x).msixPba = s.msixPba ∧
    (setCore s u x).rrSlot = s.rrSlot ∧ (setCore s u x).mbStatus = s.mbStatus ∧ (setCore s u x).mbRspLen = s.mbRspLen ∧
    (setCore s u x).mbReqLen = s.mbReqLen ∧ (setCore s u x).mbReq = s.mbReq ∧ (setCore s u x).mbRsp = s.mbRsp ∧
    (setCore s u x).evHead = s.evHead ∧ (setCore s u x).evTail = s.evTail ∧ (setCore s u x).evFifo = s.evFifo ∧
    (setCore s u x).evLost = s.evLost ∧ (setCore s u x).eids = s.eids ∧ (setCore s u x).i3cAddr = s.i3cAddr ∧
    (setCore s u x).spdm = s.spdm ∧ (setCore s u x).fwNext = s.fwNext ∧ (setCore s u x).lmNext = s.lmNext ∧
    (setCore s u x).fwRun = s.fwRun ∧ (setCore s u x).fresh = s.fresh ∧ (setCore s u x).out = s.out := by
  exact ⟨rfl, rfl, rfl, rfl, rfl, rfl, rfl, rfl, rfl, rfl, rfl, rfl, rfl, rfl, rfl, rfl, rfl, rfl, rfl, rfl, rfl, rfl, rfl,
    rfl, rfl, rfl, rfl, rfl, rfl, rfl, rfl, rfl, rfl, rfl, rfl, rfl, rfl, rfl, rfl, rfl, rfl, rfl, rfl, rfl, rfl, rfl, rfl,
    rfl, rfl, rfl, rfl, rfl, rfl, rfl, rfl, rfl, rfl, rfl, rfl, rfl, rfl, rfl, rfl, rfl, rfl, rfl, rfl, rfl, rfl, rfl, rfl,
    rfl, rfl, rfl, rfl, rfl, rfl, rfl, rfl, rfl, rfl, rfl, rfl, rfl, rfl, rfl, rfl, rfl, rfl, rfl, rfl, rfl, rfl, rfl, rfl,
    rfl, rfl, rfl, rfl, rfl, rfl, rfl, rfl, rfl, rfl, rfl, rfl, rfl, rfl, rfl, rfl, rfl, rfl, rfl, rfl, rfl, rfl⟩

/-- Everything but links stays. -/
@[simp] theorem setLink_keeps (s : State) (l : Nat) (x : LinkSt) :
    (setLink s l x).pending = s.pending ∧ (setLink s l x).variant = s.variant ∧ (setLink s l x).regs = s.regs ∧
    (setLink s l x).blobs = s.blobs ∧ (setLink s l x).rems = s.rems ∧ (setLink s l x).scrubNum = s.scrubNum ∧
    (setLink s l x).mem = s.mem ∧ (setLink s l x).ecc = s.ecc ∧ (setLink s l x).beat = s.beat ∧ (setLink s l x).cyc = s.cyc ∧
    (setLink s l x).edge = s.edge ∧ (setLink s l x).edgePs = s.edgePs ∧ (setLink s l x).holdPs = s.holdPs ∧
    (setLink s l x).lastN = s.lastN ∧ (setLink s l x).lastLen = s.lastLen ∧ (setLink s l x).cores = s.cores ∧
    (setLink s l x).parts = s.parts ∧ (setLink s l x).chReady = s.chReady ∧ (setLink s l x).patrol = s.patrol ∧
    (setLink s l x).patrolled = s.patrolled ∧ (setLink s l x).bankUse = s.bankUse ∧ (setLink s l x).faultq = s.faultq ∧
    (setLink s l x).log = s.log ∧ (setLink s l x).logNum = s.logNum ∧ (setLink s l x).kept = s.kept ∧
    (setLink s l x).capSeen = s.capSeen ∧ (setLink s l x).sessions = s.sessions ∧ (setLink s l x).asks = s.asks ∧
    (setLink s l x).lockBy = s.lockBy ∧ (setLink s l x).lockLeft = s.lockLeft ∧ (setLink s l x).handles = s.handles ∧
    (setLink s l x).handleSeq = s.handleSeq ∧ (setLink s l x).serve = s.serve ∧ (setLink s l x).records = s.records ∧
    (setLink s l x).ctxs = s.ctxs ∧ (setLink s l x).grafts = s.grafts ∧ (setLink s l x).graftRun = s.graftRun ∧
    (setLink s l x).flashTest = s.flashTest ∧ (setLink s l x).hbmTest = s.hbmTest ∧ (setLink s l x).serveTest = s.serveTest ∧
    (setLink s l x).change = s.change ∧ (setLink s l x).debugReq = s.debugReq ∧ (setLink s l x).keysBlocked = s.keysBlocked ∧
    (setLink s l x).stateStore = s.stateStore ∧ (setLink s l x).akGen = s.akGen ∧ (setLink s l x).dice = s.dice ∧
    (setLink s l x).fuseUds = s.fuseUds ∧ (setLink s l x).fuseRoot = s.fuseRoot ∧ (setLink s l x).fuseFw = s.fuseFw ∧
    (setLink s l x).ceilReq = s.ceilReq ∧ (setLink s l x).bsyncAt = s.bsyncAt ∧ (setLink s l x).fstepSeen = s.fstepSeen ∧
    (setLink s l x).fstepSeq = s.fstepSeq ∧ (setLink s l x).freqHandle = s.freqHandle ∧
    (setLink s l x).freqLater = s.freqLater ∧ (setLink s l x).marks = s.marks ∧ (setLink s l x).phaseLeft = s.phaseLeft ∧
    (setLink s l x).phaseBad = s.phaseBad ∧ (setLink s l x).refLost = s.refLost ∧ (setLink s l x).ppsSeen = s.ppsSeen ∧
    (setLink s l x).stretchNow = s.stretchNow ∧ (setLink s l x).stretchHit = s.stretchHit ∧ (setLink s l x).fifos = s.fifos ∧
    (setLink s l x).hints = s.hints ∧ (setLink s l x).rails = s.rails ∧ (setLink s l x).avg1 = s.avg1 ∧
    (setLink s l x).avg10 = s.avg10 ∧ (setLink s l x).badSens = s.badSens ∧ (setLink s l x).ceilUp = s.ceilUp ∧
    (setLink s l x).ceilDown = s.ceilDown ∧ (setLink s l x).sens = s.sens ∧ (setLink s l x).hbmTemp = s.hbmTemp ∧
    (setLink s l x).coolant = s.coolant ∧ (setLink s l x).board = s.board ∧ (setLink s l x).act = s.act ∧
    (setLink s l x).coreCyc = s.coreCyc ∧ (setLink s l x).attr = s.attr ∧ (setLink s l x).tripAt = s.tripAt ∧
    (setLink s l x).tripped = s.tripped ∧ (setLink s l x).tripKept = s.tripKept ∧ (setLink s l x).tripCauses = s.tripCauses ∧
    (setLink s l x).powered = s.powered ∧ (setLink s l x).holdup = s.holdup ∧ (setLink s l x).pwrGood = s.pwrGood ∧
    (setLink s l x).moduleRst = s.moduleRst ∧ (setLink s l x).alertN = s.alertN ∧ (setLink s l x).faultN = s.faultN ∧
    (setLink s l x).railsUp = s.railsUp ∧ (setLink s l x).warmBoot = s.warmBoot ∧ (setLink s l x).mcDown = s.mcDown ∧
    (setLink s l x).mcDead = s.mcDead ∧ (setLink s l x).mcUpAt = s.mcUpAt ∧ (setLink s l x).mcFails = s.mcFails ∧
    (setLink s l x).heads = s.heads ∧ (setLink s l x).msgSeq = s.msgSeq ∧ (setLink s l x).mctpFrom = s.mctpFrom ∧
    (setLink s l x).mgmtOut = s.mgmtOut ∧ (setLink s l x).msixTab = s.msixTab ∧ (setLink s l x).msixPba = s.msixPba ∧
    (setLink s l x).rrSlot = s.rrSlot ∧ (setLink s l x).mbStatus = s.mbStatus ∧ (setLink s l x).mbRspLen = s.mbRspLen ∧
    (setLink s l x).mbReqLen = s.mbReqLen ∧ (setLink s l x).mbReq = s.mbReq ∧ (setLink s l x).mbRsp = s.mbRsp ∧
    (setLink s l x).evHead = s.evHead ∧ (setLink s l x).evTail = s.evTail ∧ (setLink s l x).evFifo = s.evFifo ∧
    (setLink s l x).evLost = s.evLost ∧ (setLink s l x).eids = s.eids ∧ (setLink s l x).i3cAddr = s.i3cAddr ∧
    (setLink s l x).spdm = s.spdm ∧ (setLink s l x).fwNext = s.fwNext ∧ (setLink s l x).lmNext = s.lmNext ∧
    (setLink s l x).fwRun = s.fwRun ∧ (setLink s l x).fresh = s.fresh ∧ (setLink s l x).out = s.out := by
  exact ⟨rfl, rfl, rfl, rfl, rfl, rfl, rfl, rfl, rfl, rfl, rfl, rfl, rfl, rfl, rfl, rfl, rfl, rfl, rfl, rfl, rfl, rfl, rfl,
    rfl, rfl, rfl, rfl, rfl, rfl, rfl, rfl, rfl, rfl, rfl, rfl, rfl, rfl, rfl, rfl, rfl, rfl, rfl, rfl, rfl, rfl, rfl, rfl,
    rfl, rfl, rfl, rfl, rfl, rfl, rfl, rfl, rfl, rfl, rfl, rfl, rfl, rfl, rfl, rfl, rfl, rfl, rfl, rfl, rfl, rfl, rfl, rfl,
    rfl, rfl, rfl, rfl, rfl, rfl, rfl, rfl, rfl, rfl, rfl, rfl, rfl, rfl, rfl, rfl, rfl, rfl, rfl, rfl, rfl, rfl, rfl, rfl,
    rfl, rfl, rfl, rfl, rfl, rfl, rfl, rfl, rfl, rfl, rfl, rfl, rfl, rfl, rfl, rfl, rfl, rfl, rfl, rfl, rfl, rfl⟩

/-- Everything but parts stays. -/
@[simp] theorem setPart_keeps (s : State) (p : Nat) (x : PartSt) :
    (setPart s p x).pending = s.pending ∧ (setPart s p x).variant = s.variant ∧ (setPart s p x).regs = s.regs ∧
    (setPart s p x).blobs = s.blobs ∧ (setPart s p x).rems = s.rems ∧ (setPart s p x).scrubNum = s.scrubNum ∧
    (setPart s p x).mem = s.mem ∧ (setPart s p x).ecc = s.ecc ∧ (setPart s p x).beat = s.beat ∧ (setPart s p x).cyc = s.cyc ∧
    (setPart s p x).edge = s.edge ∧ (setPart s p x).edgePs = s.edgePs ∧ (setPart s p x).holdPs = s.holdPs ∧
    (setPart s p x).lastN = s.lastN ∧ (setPart s p x).lastLen = s.lastLen ∧ (setPart s p x).cores = s.cores ∧
    (setPart s p x).links = s.links ∧ (setPart s p x).chReady = s.chReady ∧ (setPart s p x).patrol = s.patrol ∧
    (setPart s p x).patrolled = s.patrolled ∧ (setPart s p x).bankUse = s.bankUse ∧ (setPart s p x).faultq = s.faultq ∧
    (setPart s p x).log = s.log ∧ (setPart s p x).logNum = s.logNum ∧ (setPart s p x).kept = s.kept ∧
    (setPart s p x).capSeen = s.capSeen ∧ (setPart s p x).sessions = s.sessions ∧ (setPart s p x).asks = s.asks ∧
    (setPart s p x).lockBy = s.lockBy ∧ (setPart s p x).lockLeft = s.lockLeft ∧ (setPart s p x).handles = s.handles ∧
    (setPart s p x).handleSeq = s.handleSeq ∧ (setPart s p x).serve = s.serve ∧ (setPart s p x).records = s.records ∧
    (setPart s p x).ctxs = s.ctxs ∧ (setPart s p x).grafts = s.grafts ∧ (setPart s p x).graftRun = s.graftRun ∧
    (setPart s p x).flashTest = s.flashTest ∧ (setPart s p x).hbmTest = s.hbmTest ∧ (setPart s p x).serveTest = s.serveTest ∧
    (setPart s p x).change = s.change ∧ (setPart s p x).debugReq = s.debugReq ∧ (setPart s p x).keysBlocked = s.keysBlocked ∧
    (setPart s p x).stateStore = s.stateStore ∧ (setPart s p x).akGen = s.akGen ∧ (setPart s p x).dice = s.dice ∧
    (setPart s p x).fuseUds = s.fuseUds ∧ (setPart s p x).fuseRoot = s.fuseRoot ∧ (setPart s p x).fuseFw = s.fuseFw ∧
    (setPart s p x).ceilReq = s.ceilReq ∧ (setPart s p x).bsyncAt = s.bsyncAt ∧ (setPart s p x).fstepSeen = s.fstepSeen ∧
    (setPart s p x).fstepSeq = s.fstepSeq ∧ (setPart s p x).freqHandle = s.freqHandle ∧
    (setPart s p x).freqLater = s.freqLater ∧ (setPart s p x).marks = s.marks ∧ (setPart s p x).phaseLeft = s.phaseLeft ∧
    (setPart s p x).phaseBad = s.phaseBad ∧ (setPart s p x).refLost = s.refLost ∧ (setPart s p x).ppsSeen = s.ppsSeen ∧
    (setPart s p x).stretchNow = s.stretchNow ∧ (setPart s p x).stretchHit = s.stretchHit ∧ (setPart s p x).fifos = s.fifos ∧
    (setPart s p x).hints = s.hints ∧ (setPart s p x).rails = s.rails ∧ (setPart s p x).avg1 = s.avg1 ∧
    (setPart s p x).avg10 = s.avg10 ∧ (setPart s p x).badSens = s.badSens ∧ (setPart s p x).ceilUp = s.ceilUp ∧
    (setPart s p x).ceilDown = s.ceilDown ∧ (setPart s p x).sens = s.sens ∧ (setPart s p x).hbmTemp = s.hbmTemp ∧
    (setPart s p x).coolant = s.coolant ∧ (setPart s p x).board = s.board ∧ (setPart s p x).act = s.act ∧
    (setPart s p x).coreCyc = s.coreCyc ∧ (setPart s p x).attr = s.attr ∧ (setPart s p x).tripAt = s.tripAt ∧
    (setPart s p x).tripped = s.tripped ∧ (setPart s p x).tripKept = s.tripKept ∧ (setPart s p x).tripCauses = s.tripCauses ∧
    (setPart s p x).powered = s.powered ∧ (setPart s p x).holdup = s.holdup ∧ (setPart s p x).pwrGood = s.pwrGood ∧
    (setPart s p x).moduleRst = s.moduleRst ∧ (setPart s p x).alertN = s.alertN ∧ (setPart s p x).faultN = s.faultN ∧
    (setPart s p x).railsUp = s.railsUp ∧ (setPart s p x).warmBoot = s.warmBoot ∧ (setPart s p x).mcDown = s.mcDown ∧
    (setPart s p x).mcDead = s.mcDead ∧ (setPart s p x).mcUpAt = s.mcUpAt ∧ (setPart s p x).mcFails = s.mcFails ∧
    (setPart s p x).heads = s.heads ∧ (setPart s p x).msgSeq = s.msgSeq ∧ (setPart s p x).mctpFrom = s.mctpFrom ∧
    (setPart s p x).mgmtOut = s.mgmtOut ∧ (setPart s p x).msixTab = s.msixTab ∧ (setPart s p x).msixPba = s.msixPba ∧
    (setPart s p x).rrSlot = s.rrSlot ∧ (setPart s p x).mbStatus = s.mbStatus ∧ (setPart s p x).mbRspLen = s.mbRspLen ∧
    (setPart s p x).mbReqLen = s.mbReqLen ∧ (setPart s p x).mbReq = s.mbReq ∧ (setPart s p x).mbRsp = s.mbRsp ∧
    (setPart s p x).evHead = s.evHead ∧ (setPart s p x).evTail = s.evTail ∧ (setPart s p x).evFifo = s.evFifo ∧
    (setPart s p x).evLost = s.evLost ∧ (setPart s p x).eids = s.eids ∧ (setPart s p x).i3cAddr = s.i3cAddr ∧
    (setPart s p x).spdm = s.spdm ∧ (setPart s p x).fwNext = s.fwNext ∧ (setPart s p x).lmNext = s.lmNext ∧
    (setPart s p x).fwRun = s.fwRun ∧ (setPart s p x).fresh = s.fresh ∧ (setPart s p x).out = s.out := by
  exact ⟨rfl, rfl, rfl, rfl, rfl, rfl, rfl, rfl, rfl, rfl, rfl, rfl, rfl, rfl, rfl, rfl, rfl, rfl, rfl, rfl, rfl, rfl, rfl,
    rfl, rfl, rfl, rfl, rfl, rfl, rfl, rfl, rfl, rfl, rfl, rfl, rfl, rfl, rfl, rfl, rfl, rfl, rfl, rfl, rfl, rfl, rfl, rfl,
    rfl, rfl, rfl, rfl, rfl, rfl, rfl, rfl, rfl, rfl, rfl, rfl, rfl, rfl, rfl, rfl, rfl, rfl, rfl, rfl, rfl, rfl, rfl, rfl,
    rfl, rfl, rfl, rfl, rfl, rfl, rfl, rfl, rfl, rfl, rfl, rfl, rfl, rfl, rfl, rfl, rfl, rfl, rfl, rfl, rfl, rfl, rfl, rfl,
    rfl, rfl, rfl, rfl, rfl, rfl, rfl, rfl, rfl, rfl, rfl, rfl, rfl, rfl, rfl, rfl, rfl, rfl, rfl, rfl, rfl, rfl⟩

/-- Everything but ctxs stays. -/
@[simp] theorem setCtx_keeps (s : State) (c : Nat) (x : CtxSt) :
    (setCtx s c x).pending = s.pending ∧ (setCtx s c x).variant = s.variant ∧ (setCtx s c x).regs = s.regs ∧
    (setCtx s c x).blobs = s.blobs ∧ (setCtx s c x).rems = s.rems ∧ (setCtx s c x).scrubNum = s.scrubNum ∧
    (setCtx s c x).mem = s.mem ∧ (setCtx s c x).ecc = s.ecc ∧ (setCtx s c x).beat = s.beat ∧ (setCtx s c x).cyc = s.cyc ∧
    (setCtx s c x).edge = s.edge ∧ (setCtx s c x).edgePs = s.edgePs ∧ (setCtx s c x).holdPs = s.holdPs ∧
    (setCtx s c x).lastN = s.lastN ∧ (setCtx s c x).lastLen = s.lastLen ∧ (setCtx s c x).cores = s.cores ∧
    (setCtx s c x).links = s.links ∧ (setCtx s c x).parts = s.parts ∧ (setCtx s c x).chReady = s.chReady ∧
    (setCtx s c x).patrol = s.patrol ∧ (setCtx s c x).patrolled = s.patrolled ∧ (setCtx s c x).bankUse = s.bankUse ∧
    (setCtx s c x).faultq = s.faultq ∧ (setCtx s c x).log = s.log ∧ (setCtx s c x).logNum = s.logNum ∧
    (setCtx s c x).kept = s.kept ∧ (setCtx s c x).capSeen = s.capSeen ∧ (setCtx s c x).sessions = s.sessions ∧
    (setCtx s c x).asks = s.asks ∧ (setCtx s c x).lockBy = s.lockBy ∧ (setCtx s c x).lockLeft = s.lockLeft ∧
    (setCtx s c x).handles = s.handles ∧ (setCtx s c x).handleSeq = s.handleSeq ∧ (setCtx s c x).serve = s.serve ∧
    (setCtx s c x).records = s.records ∧ (setCtx s c x).grafts = s.grafts ∧ (setCtx s c x).graftRun = s.graftRun ∧
    (setCtx s c x).flashTest = s.flashTest ∧ (setCtx s c x).hbmTest = s.hbmTest ∧ (setCtx s c x).serveTest = s.serveTest ∧
    (setCtx s c x).change = s.change ∧ (setCtx s c x).debugReq = s.debugReq ∧ (setCtx s c x).keysBlocked = s.keysBlocked ∧
    (setCtx s c x).stateStore = s.stateStore ∧ (setCtx s c x).akGen = s.akGen ∧ (setCtx s c x).dice = s.dice ∧
    (setCtx s c x).fuseUds = s.fuseUds ∧ (setCtx s c x).fuseRoot = s.fuseRoot ∧ (setCtx s c x).fuseFw = s.fuseFw ∧
    (setCtx s c x).ceilReq = s.ceilReq ∧ (setCtx s c x).bsyncAt = s.bsyncAt ∧ (setCtx s c x).fstepSeen = s.fstepSeen ∧
    (setCtx s c x).fstepSeq = s.fstepSeq ∧ (setCtx s c x).freqHandle = s.freqHandle ∧ (setCtx s c x).freqLater = s.freqLater ∧
    (setCtx s c x).marks = s.marks ∧ (setCtx s c x).phaseLeft = s.phaseLeft ∧ (setCtx s c x).phaseBad = s.phaseBad ∧
    (setCtx s c x).refLost = s.refLost ∧ (setCtx s c x).ppsSeen = s.ppsSeen ∧ (setCtx s c x).stretchNow = s.stretchNow ∧
    (setCtx s c x).stretchHit = s.stretchHit ∧ (setCtx s c x).fifos = s.fifos ∧ (setCtx s c x).hints = s.hints ∧
    (setCtx s c x).rails = s.rails ∧ (setCtx s c x).avg1 = s.avg1 ∧ (setCtx s c x).avg10 = s.avg10 ∧
    (setCtx s c x).badSens = s.badSens ∧ (setCtx s c x).ceilUp = s.ceilUp ∧ (setCtx s c x).ceilDown = s.ceilDown ∧
    (setCtx s c x).sens = s.sens ∧ (setCtx s c x).hbmTemp = s.hbmTemp ∧ (setCtx s c x).coolant = s.coolant ∧
    (setCtx s c x).board = s.board ∧ (setCtx s c x).act = s.act ∧ (setCtx s c x).coreCyc = s.coreCyc ∧
    (setCtx s c x).attr = s.attr ∧ (setCtx s c x).tripAt = s.tripAt ∧ (setCtx s c x).tripped = s.tripped ∧
    (setCtx s c x).tripKept = s.tripKept ∧ (setCtx s c x).tripCauses = s.tripCauses ∧ (setCtx s c x).powered = s.powered ∧
    (setCtx s c x).holdup = s.holdup ∧ (setCtx s c x).pwrGood = s.pwrGood ∧ (setCtx s c x).moduleRst = s.moduleRst ∧
    (setCtx s c x).alertN = s.alertN ∧ (setCtx s c x).faultN = s.faultN ∧ (setCtx s c x).railsUp = s.railsUp ∧
    (setCtx s c x).warmBoot = s.warmBoot ∧ (setCtx s c x).mcDown = s.mcDown ∧ (setCtx s c x).mcDead = s.mcDead ∧
    (setCtx s c x).mcUpAt = s.mcUpAt ∧ (setCtx s c x).mcFails = s.mcFails ∧ (setCtx s c x).heads = s.heads ∧
    (setCtx s c x).msgSeq = s.msgSeq ∧ (setCtx s c x).mctpFrom = s.mctpFrom ∧ (setCtx s c x).mgmtOut = s.mgmtOut ∧
    (setCtx s c x).msixTab = s.msixTab ∧ (setCtx s c x).msixPba = s.msixPba ∧ (setCtx s c x).rrSlot = s.rrSlot ∧
    (setCtx s c x).mbStatus = s.mbStatus ∧ (setCtx s c x).mbRspLen = s.mbRspLen ∧ (setCtx s c x).mbReqLen = s.mbReqLen ∧
    (setCtx s c x).mbReq = s.mbReq ∧ (setCtx s c x).mbRsp = s.mbRsp ∧ (setCtx s c x).evHead = s.evHead ∧
    (setCtx s c x).evTail = s.evTail ∧ (setCtx s c x).evFifo = s.evFifo ∧ (setCtx s c x).evLost = s.evLost ∧
    (setCtx s c x).eids = s.eids ∧ (setCtx s c x).i3cAddr = s.i3cAddr ∧ (setCtx s c x).spdm = s.spdm ∧
    (setCtx s c x).fwNext = s.fwNext ∧ (setCtx s c x).lmNext = s.lmNext ∧ (setCtx s c x).fwRun = s.fwRun ∧
    (setCtx s c x).fresh = s.fresh ∧ (setCtx s c x).out = s.out := by
  exact ⟨rfl, rfl, rfl, rfl, rfl, rfl, rfl, rfl, rfl, rfl, rfl, rfl, rfl, rfl, rfl, rfl, rfl, rfl, rfl, rfl, rfl, rfl, rfl,
    rfl, rfl, rfl, rfl, rfl, rfl, rfl, rfl, rfl, rfl, rfl, rfl, rfl, rfl, rfl, rfl, rfl, rfl, rfl, rfl, rfl, rfl, rfl, rfl,
    rfl, rfl, rfl, rfl, rfl, rfl, rfl, rfl, rfl, rfl, rfl, rfl, rfl, rfl, rfl, rfl, rfl, rfl, rfl, rfl, rfl, rfl, rfl, rfl,
    rfl, rfl, rfl, rfl, rfl, rfl, rfl, rfl, rfl, rfl, rfl, rfl, rfl, rfl, rfl, rfl, rfl, rfl, rfl, rfl, rfl, rfl, rfl, rfl,
    rfl, rfl, rfl, rfl, rfl, rfl, rfl, rfl, rfl, rfl, rfl, rfl, rfl, rfl, rfl, rfl, rfl, rfl, rfl, rfl, rfl, rfl⟩

/-- Everything but serve stays. -/
@[simp] theorem setServ_keeps (s : State) (e : Nat) (x : ServeEnt) :
    (setServ s e x).pending = s.pending ∧ (setServ s e x).variant = s.variant ∧ (setServ s e x).regs = s.regs ∧
    (setServ s e x).blobs = s.blobs ∧ (setServ s e x).rems = s.rems ∧ (setServ s e x).scrubNum = s.scrubNum ∧
    (setServ s e x).mem = s.mem ∧ (setServ s e x).ecc = s.ecc ∧ (setServ s e x).beat = s.beat ∧ (setServ s e x).cyc = s.cyc ∧
    (setServ s e x).edge = s.edge ∧ (setServ s e x).edgePs = s.edgePs ∧ (setServ s e x).holdPs = s.holdPs ∧
    (setServ s e x).lastN = s.lastN ∧ (setServ s e x).lastLen = s.lastLen ∧ (setServ s e x).cores = s.cores ∧
    (setServ s e x).links = s.links ∧ (setServ s e x).parts = s.parts ∧ (setServ s e x).chReady = s.chReady ∧
    (setServ s e x).patrol = s.patrol ∧ (setServ s e x).patrolled = s.patrolled ∧ (setServ s e x).bankUse = s.bankUse ∧
    (setServ s e x).faultq = s.faultq ∧ (setServ s e x).log = s.log ∧ (setServ s e x).logNum = s.logNum ∧
    (setServ s e x).kept = s.kept ∧ (setServ s e x).capSeen = s.capSeen ∧ (setServ s e x).sessions = s.sessions ∧
    (setServ s e x).asks = s.asks ∧ (setServ s e x).lockBy = s.lockBy ∧ (setServ s e x).lockLeft = s.lockLeft ∧
    (setServ s e x).handles = s.handles ∧ (setServ s e x).handleSeq = s.handleSeq ∧ (setServ s e x).records = s.records ∧
    (setServ s e x).ctxs = s.ctxs ∧ (setServ s e x).grafts = s.grafts ∧ (setServ s e x).graftRun = s.graftRun ∧
    (setServ s e x).flashTest = s.flashTest ∧ (setServ s e x).hbmTest = s.hbmTest ∧ (setServ s e x).serveTest = s.serveTest ∧
    (setServ s e x).change = s.change ∧ (setServ s e x).debugReq = s.debugReq ∧ (setServ s e x).keysBlocked = s.keysBlocked ∧
    (setServ s e x).stateStore = s.stateStore ∧ (setServ s e x).akGen = s.akGen ∧ (setServ s e x).dice = s.dice ∧
    (setServ s e x).fuseUds = s.fuseUds ∧ (setServ s e x).fuseRoot = s.fuseRoot ∧ (setServ s e x).fuseFw = s.fuseFw ∧
    (setServ s e x).ceilReq = s.ceilReq ∧ (setServ s e x).bsyncAt = s.bsyncAt ∧ (setServ s e x).fstepSeen = s.fstepSeen ∧
    (setServ s e x).fstepSeq = s.fstepSeq ∧ (setServ s e x).freqHandle = s.freqHandle ∧
    (setServ s e x).freqLater = s.freqLater ∧ (setServ s e x).marks = s.marks ∧ (setServ s e x).phaseLeft = s.phaseLeft ∧
    (setServ s e x).phaseBad = s.phaseBad ∧ (setServ s e x).refLost = s.refLost ∧ (setServ s e x).ppsSeen = s.ppsSeen ∧
    (setServ s e x).stretchNow = s.stretchNow ∧ (setServ s e x).stretchHit = s.stretchHit ∧ (setServ s e x).fifos = s.fifos ∧
    (setServ s e x).hints = s.hints ∧ (setServ s e x).rails = s.rails ∧ (setServ s e x).avg1 = s.avg1 ∧
    (setServ s e x).avg10 = s.avg10 ∧ (setServ s e x).badSens = s.badSens ∧ (setServ s e x).ceilUp = s.ceilUp ∧
    (setServ s e x).ceilDown = s.ceilDown ∧ (setServ s e x).sens = s.sens ∧ (setServ s e x).hbmTemp = s.hbmTemp ∧
    (setServ s e x).coolant = s.coolant ∧ (setServ s e x).board = s.board ∧ (setServ s e x).act = s.act ∧
    (setServ s e x).coreCyc = s.coreCyc ∧ (setServ s e x).attr = s.attr ∧ (setServ s e x).tripAt = s.tripAt ∧
    (setServ s e x).tripped = s.tripped ∧ (setServ s e x).tripKept = s.tripKept ∧ (setServ s e x).tripCauses = s.tripCauses ∧
    (setServ s e x).powered = s.powered ∧ (setServ s e x).holdup = s.holdup ∧ (setServ s e x).pwrGood = s.pwrGood ∧
    (setServ s e x).moduleRst = s.moduleRst ∧ (setServ s e x).alertN = s.alertN ∧ (setServ s e x).faultN = s.faultN ∧
    (setServ s e x).railsUp = s.railsUp ∧ (setServ s e x).warmBoot = s.warmBoot ∧ (setServ s e x).mcDown = s.mcDown ∧
    (setServ s e x).mcDead = s.mcDead ∧ (setServ s e x).mcUpAt = s.mcUpAt ∧ (setServ s e x).mcFails = s.mcFails ∧
    (setServ s e x).heads = s.heads ∧ (setServ s e x).msgSeq = s.msgSeq ∧ (setServ s e x).mctpFrom = s.mctpFrom ∧
    (setServ s e x).mgmtOut = s.mgmtOut ∧ (setServ s e x).msixTab = s.msixTab ∧ (setServ s e x).msixPba = s.msixPba ∧
    (setServ s e x).rrSlot = s.rrSlot ∧ (setServ s e x).mbStatus = s.mbStatus ∧ (setServ s e x).mbRspLen = s.mbRspLen ∧
    (setServ s e x).mbReqLen = s.mbReqLen ∧ (setServ s e x).mbReq = s.mbReq ∧ (setServ s e x).mbRsp = s.mbRsp ∧
    (setServ s e x).evHead = s.evHead ∧ (setServ s e x).evTail = s.evTail ∧ (setServ s e x).evFifo = s.evFifo ∧
    (setServ s e x).evLost = s.evLost ∧ (setServ s e x).eids = s.eids ∧ (setServ s e x).i3cAddr = s.i3cAddr ∧
    (setServ s e x).spdm = s.spdm ∧ (setServ s e x).fwNext = s.fwNext ∧ (setServ s e x).lmNext = s.lmNext ∧
    (setServ s e x).fwRun = s.fwRun ∧ (setServ s e x).fresh = s.fresh ∧ (setServ s e x).out = s.out := by
  exact ⟨rfl, rfl, rfl, rfl, rfl, rfl, rfl, rfl, rfl, rfl, rfl, rfl, rfl, rfl, rfl, rfl, rfl, rfl, rfl, rfl, rfl, rfl, rfl,
    rfl, rfl, rfl, rfl, rfl, rfl, rfl, rfl, rfl, rfl, rfl, rfl, rfl, rfl, rfl, rfl, rfl, rfl, rfl, rfl, rfl, rfl, rfl, rfl,
    rfl, rfl, rfl, rfl, rfl, rfl, rfl, rfl, rfl, rfl, rfl, rfl, rfl, rfl, rfl, rfl, rfl, rfl, rfl, rfl, rfl, rfl, rfl, rfl,
    rfl, rfl, rfl, rfl, rfl, rfl, rfl, rfl, rfl, rfl, rfl, rfl, rfl, rfl, rfl, rfl, rfl, rfl, rfl, rfl, rfl, rfl, rfl, rfl,
    rfl, rfl, rfl, rfl, rfl, rfl, rfl, rfl, rfl, rfl, rfl, rfl, rfl, rfl, rfl, rfl, rfl, rfl, rfl, rfl, rfl, rfl⟩

/-- Everything but sessions stays. -/
@[simp] theorem setSes_keeps (s : State) (x : Session) :
    (setSes s x).pending = s.pending ∧ (setSes s x).variant = s.variant ∧ (setSes s x).regs = s.regs ∧
    (setSes s x).blobs = s.blobs ∧ (setSes s x).rems = s.rems ∧ (setSes s x).scrubNum = s.scrubNum ∧ (setSes s x).mem = s.mem ∧
    (setSes s x).ecc = s.ecc ∧ (setSes s x).beat = s.beat ∧ (setSes s x).cyc = s.cyc ∧ (setSes s x).edge = s.edge ∧
    (setSes s x).edgePs = s.edgePs ∧ (setSes s x).holdPs = s.holdPs ∧ (setSes s x).lastN = s.lastN ∧
    (setSes s x).lastLen = s.lastLen ∧ (setSes s x).cores = s.cores ∧ (setSes s x).links = s.links ∧
    (setSes s x).parts = s.parts ∧ (setSes s x).chReady = s.chReady ∧ (setSes s x).patrol = s.patrol ∧
    (setSes s x).patrolled = s.patrolled ∧ (setSes s x).bankUse = s.bankUse ∧ (setSes s x).faultq = s.faultq ∧
    (setSes s x).log = s.log ∧ (setSes s x).logNum = s.logNum ∧ (setSes s x).kept = s.kept ∧ (setSes s x).capSeen = s.capSeen ∧
    (setSes s x).asks = s.asks ∧ (setSes s x).lockBy = s.lockBy ∧ (setSes s x).lockLeft = s.lockLeft ∧
    (setSes s x).handles = s.handles ∧ (setSes s x).handleSeq = s.handleSeq ∧ (setSes s x).serve = s.serve ∧
    (setSes s x).records = s.records ∧ (setSes s x).ctxs = s.ctxs ∧ (setSes s x).grafts = s.grafts ∧
    (setSes s x).graftRun = s.graftRun ∧ (setSes s x).flashTest = s.flashTest ∧ (setSes s x).hbmTest = s.hbmTest ∧
    (setSes s x).serveTest = s.serveTest ∧ (setSes s x).change = s.change ∧ (setSes s x).debugReq = s.debugReq ∧
    (setSes s x).keysBlocked = s.keysBlocked ∧ (setSes s x).stateStore = s.stateStore ∧ (setSes s x).akGen = s.akGen ∧
    (setSes s x).dice = s.dice ∧ (setSes s x).fuseUds = s.fuseUds ∧ (setSes s x).fuseRoot = s.fuseRoot ∧
    (setSes s x).fuseFw = s.fuseFw ∧ (setSes s x).ceilReq = s.ceilReq ∧ (setSes s x).bsyncAt = s.bsyncAt ∧
    (setSes s x).fstepSeen = s.fstepSeen ∧ (setSes s x).fstepSeq = s.fstepSeq ∧ (setSes s x).freqHandle = s.freqHandle ∧
    (setSes s x).freqLater = s.freqLater ∧ (setSes s x).marks = s.marks ∧ (setSes s x).phaseLeft = s.phaseLeft ∧
    (setSes s x).phaseBad = s.phaseBad ∧ (setSes s x).refLost = s.refLost ∧ (setSes s x).ppsSeen = s.ppsSeen ∧
    (setSes s x).stretchNow = s.stretchNow ∧ (setSes s x).stretchHit = s.stretchHit ∧ (setSes s x).fifos = s.fifos ∧
    (setSes s x).hints = s.hints ∧ (setSes s x).rails = s.rails ∧ (setSes s x).avg1 = s.avg1 ∧ (setSes s x).avg10 = s.avg10 ∧
    (setSes s x).badSens = s.badSens ∧ (setSes s x).ceilUp = s.ceilUp ∧ (setSes s x).ceilDown = s.ceilDown ∧
    (setSes s x).sens = s.sens ∧ (setSes s x).hbmTemp = s.hbmTemp ∧ (setSes s x).coolant = s.coolant ∧
    (setSes s x).board = s.board ∧ (setSes s x).act = s.act ∧ (setSes s x).coreCyc = s.coreCyc ∧ (setSes s x).attr = s.attr ∧
    (setSes s x).tripAt = s.tripAt ∧ (setSes s x).tripped = s.tripped ∧ (setSes s x).tripKept = s.tripKept ∧
    (setSes s x).tripCauses = s.tripCauses ∧ (setSes s x).powered = s.powered ∧ (setSes s x).holdup = s.holdup ∧
    (setSes s x).pwrGood = s.pwrGood ∧ (setSes s x).moduleRst = s.moduleRst ∧ (setSes s x).alertN = s.alertN ∧
    (setSes s x).faultN = s.faultN ∧ (setSes s x).railsUp = s.railsUp ∧ (setSes s x).warmBoot = s.warmBoot ∧
    (setSes s x).mcDown = s.mcDown ∧ (setSes s x).mcDead = s.mcDead ∧ (setSes s x).mcUpAt = s.mcUpAt ∧
    (setSes s x).mcFails = s.mcFails ∧ (setSes s x).heads = s.heads ∧ (setSes s x).msgSeq = s.msgSeq ∧
    (setSes s x).mctpFrom = s.mctpFrom ∧ (setSes s x).mgmtOut = s.mgmtOut ∧ (setSes s x).msixTab = s.msixTab ∧
    (setSes s x).msixPba = s.msixPba ∧ (setSes s x).rrSlot = s.rrSlot ∧ (setSes s x).mbStatus = s.mbStatus ∧
    (setSes s x).mbRspLen = s.mbRspLen ∧ (setSes s x).mbReqLen = s.mbReqLen ∧ (setSes s x).mbReq = s.mbReq ∧
    (setSes s x).mbRsp = s.mbRsp ∧ (setSes s x).evHead = s.evHead ∧ (setSes s x).evTail = s.evTail ∧
    (setSes s x).evFifo = s.evFifo ∧ (setSes s x).evLost = s.evLost ∧ (setSes s x).eids = s.eids ∧
    (setSes s x).i3cAddr = s.i3cAddr ∧ (setSes s x).spdm = s.spdm ∧ (setSes s x).fwNext = s.fwNext ∧
    (setSes s x).lmNext = s.lmNext ∧ (setSes s x).fwRun = s.fwRun ∧ (setSes s x).fresh = s.fresh ∧
    (setSes s x).out = s.out := by
  exact ⟨rfl, rfl, rfl, rfl, rfl, rfl, rfl, rfl, rfl, rfl, rfl, rfl, rfl, rfl, rfl, rfl, rfl, rfl, rfl, rfl, rfl, rfl, rfl,
    rfl, rfl, rfl, rfl, rfl, rfl, rfl, rfl, rfl, rfl, rfl, rfl, rfl, rfl, rfl, rfl, rfl, rfl, rfl, rfl, rfl, rfl, rfl, rfl,
    rfl, rfl, rfl, rfl, rfl, rfl, rfl, rfl, rfl, rfl, rfl, rfl, rfl, rfl, rfl, rfl, rfl, rfl, rfl, rfl, rfl, rfl, rfl, rfl,
    rfl, rfl, rfl, rfl, rfl, rfl, rfl, rfl, rfl, rfl, rfl, rfl, rfl, rfl, rfl, rfl, rfl, rfl, rfl, rfl, rfl, rfl, rfl, rfl,
    rfl, rfl, rfl, rfl, rfl, rfl, rfl, rfl, rfl, rfl, rfl, rfl, rfl, rfl, rfl, rfl, rfl, rfl, rfl, rfl, rfl, rfl⟩

/-- Everything but handles stays. -/
@[simp] theorem setHandle_keeps (s : State) (x : Handle) :
    (setHandle s x).pending = s.pending ∧ (setHandle s x).variant = s.variant ∧ (setHandle s x).regs = s.regs ∧
    (setHandle s x).blobs = s.blobs ∧ (setHandle s x).rems = s.rems ∧ (setHandle s x).scrubNum = s.scrubNum ∧
    (setHandle s x).mem = s.mem ∧ (setHandle s x).ecc = s.ecc ∧ (setHandle s x).beat = s.beat ∧ (setHandle s x).cyc = s.cyc ∧
    (setHandle s x).edge = s.edge ∧ (setHandle s x).edgePs = s.edgePs ∧ (setHandle s x).holdPs = s.holdPs ∧
    (setHandle s x).lastN = s.lastN ∧ (setHandle s x).lastLen = s.lastLen ∧ (setHandle s x).cores = s.cores ∧
    (setHandle s x).links = s.links ∧ (setHandle s x).parts = s.parts ∧ (setHandle s x).chReady = s.chReady ∧
    (setHandle s x).patrol = s.patrol ∧ (setHandle s x).patrolled = s.patrolled ∧ (setHandle s x).bankUse = s.bankUse ∧
    (setHandle s x).faultq = s.faultq ∧ (setHandle s x).log = s.log ∧ (setHandle s x).logNum = s.logNum ∧
    (setHandle s x).kept = s.kept ∧ (setHandle s x).capSeen = s.capSeen ∧ (setHandle s x).sessions = s.sessions ∧
    (setHandle s x).asks = s.asks ∧ (setHandle s x).lockBy = s.lockBy ∧ (setHandle s x).lockLeft = s.lockLeft ∧
    (setHandle s x).handleSeq = s.handleSeq ∧ (setHandle s x).serve = s.serve ∧ (setHandle s x).records = s.records ∧
    (setHandle s x).ctxs = s.ctxs ∧ (setHandle s x).grafts = s.grafts ∧ (setHandle s x).graftRun = s.graftRun ∧
    (setHandle s x).flashTest = s.flashTest ∧ (setHandle s x).hbmTest = s.hbmTest ∧ (setHandle s x).serveTest = s.serveTest ∧
    (setHandle s x).change = s.change ∧ (setHandle s x).debugReq = s.debugReq ∧ (setHandle s x).keysBlocked = s.keysBlocked ∧
    (setHandle s x).stateStore = s.stateStore ∧ (setHandle s x).akGen = s.akGen ∧ (setHandle s x).dice = s.dice ∧
    (setHandle s x).fuseUds = s.fuseUds ∧ (setHandle s x).fuseRoot = s.fuseRoot ∧ (setHandle s x).fuseFw = s.fuseFw ∧
    (setHandle s x).ceilReq = s.ceilReq ∧ (setHandle s x).bsyncAt = s.bsyncAt ∧ (setHandle s x).fstepSeen = s.fstepSeen ∧
    (setHandle s x).fstepSeq = s.fstepSeq ∧ (setHandle s x).freqHandle = s.freqHandle ∧
    (setHandle s x).freqLater = s.freqLater ∧ (setHandle s x).marks = s.marks ∧ (setHandle s x).phaseLeft = s.phaseLeft ∧
    (setHandle s x).phaseBad = s.phaseBad ∧ (setHandle s x).refLost = s.refLost ∧ (setHandle s x).ppsSeen = s.ppsSeen ∧
    (setHandle s x).stretchNow = s.stretchNow ∧ (setHandle s x).stretchHit = s.stretchHit ∧ (setHandle s x).fifos = s.fifos ∧
    (setHandle s x).hints = s.hints ∧ (setHandle s x).rails = s.rails ∧ (setHandle s x).avg1 = s.avg1 ∧
    (setHandle s x).avg10 = s.avg10 ∧ (setHandle s x).badSens = s.badSens ∧ (setHandle s x).ceilUp = s.ceilUp ∧
    (setHandle s x).ceilDown = s.ceilDown ∧ (setHandle s x).sens = s.sens ∧ (setHandle s x).hbmTemp = s.hbmTemp ∧
    (setHandle s x).coolant = s.coolant ∧ (setHandle s x).board = s.board ∧ (setHandle s x).act = s.act ∧
    (setHandle s x).coreCyc = s.coreCyc ∧ (setHandle s x).attr = s.attr ∧ (setHandle s x).tripAt = s.tripAt ∧
    (setHandle s x).tripped = s.tripped ∧ (setHandle s x).tripKept = s.tripKept ∧ (setHandle s x).tripCauses = s.tripCauses ∧
    (setHandle s x).powered = s.powered ∧ (setHandle s x).holdup = s.holdup ∧ (setHandle s x).pwrGood = s.pwrGood ∧
    (setHandle s x).moduleRst = s.moduleRst ∧ (setHandle s x).alertN = s.alertN ∧ (setHandle s x).faultN = s.faultN ∧
    (setHandle s x).railsUp = s.railsUp ∧ (setHandle s x).warmBoot = s.warmBoot ∧ (setHandle s x).mcDown = s.mcDown ∧
    (setHandle s x).mcDead = s.mcDead ∧ (setHandle s x).mcUpAt = s.mcUpAt ∧ (setHandle s x).mcFails = s.mcFails ∧
    (setHandle s x).heads = s.heads ∧ (setHandle s x).msgSeq = s.msgSeq ∧ (setHandle s x).mctpFrom = s.mctpFrom ∧
    (setHandle s x).mgmtOut = s.mgmtOut ∧ (setHandle s x).msixTab = s.msixTab ∧ (setHandle s x).msixPba = s.msixPba ∧
    (setHandle s x).rrSlot = s.rrSlot ∧ (setHandle s x).mbStatus = s.mbStatus ∧ (setHandle s x).mbRspLen = s.mbRspLen ∧
    (setHandle s x).mbReqLen = s.mbReqLen ∧ (setHandle s x).mbReq = s.mbReq ∧ (setHandle s x).mbRsp = s.mbRsp ∧
    (setHandle s x).evHead = s.evHead ∧ (setHandle s x).evTail = s.evTail ∧ (setHandle s x).evFifo = s.evFifo ∧
    (setHandle s x).evLost = s.evLost ∧ (setHandle s x).eids = s.eids ∧ (setHandle s x).i3cAddr = s.i3cAddr ∧
    (setHandle s x).spdm = s.spdm ∧ (setHandle s x).fwNext = s.fwNext ∧ (setHandle s x).lmNext = s.lmNext ∧
    (setHandle s x).fwRun = s.fwRun ∧ (setHandle s x).fresh = s.fresh ∧ (setHandle s x).out = s.out := by
  exact ⟨rfl, rfl, rfl, rfl, rfl, rfl, rfl, rfl, rfl, rfl, rfl, rfl, rfl, rfl, rfl, rfl, rfl, rfl, rfl, rfl, rfl, rfl, rfl,
    rfl, rfl, rfl, rfl, rfl, rfl, rfl, rfl, rfl, rfl, rfl, rfl, rfl, rfl, rfl, rfl, rfl, rfl, rfl, rfl, rfl, rfl, rfl, rfl,
    rfl, rfl, rfl, rfl, rfl, rfl, rfl, rfl, rfl, rfl, rfl, rfl, rfl, rfl, rfl, rfl, rfl, rfl, rfl, rfl, rfl, rfl, rfl, rfl,
    rfl, rfl, rfl, rfl, rfl, rfl, rfl, rfl, rfl, rfl, rfl, rfl, rfl, rfl, rfl, rfl, rfl, rfl, rfl, rfl, rfl, rfl, rfl, rfl,
    rfl, rfl, rfl, rfl, rfl, rfl, rfl, rfl, rfl, rfl, rfl, rfl, rfl, rfl, rfl, rfl, rfl, rfl, rfl, rfl, rfl, rfl⟩

/-- Everything but out stays. -/
@[simp] theorem emit_keeps (s : State) (o : Out) :
    (emit s o).pending = s.pending ∧ (emit s o).variant = s.variant ∧ (emit s o).regs = s.regs ∧ (emit s o).blobs = s.blobs ∧
    (emit s o).rems = s.rems ∧ (emit s o).scrubNum = s.scrubNum ∧ (emit s o).mem = s.mem ∧ (emit s o).ecc = s.ecc ∧
    (emit s o).beat = s.beat ∧ (emit s o).cyc = s.cyc ∧ (emit s o).edge = s.edge ∧ (emit s o).edgePs = s.edgePs ∧
    (emit s o).holdPs = s.holdPs ∧ (emit s o).lastN = s.lastN ∧ (emit s o).lastLen = s.lastLen ∧ (emit s o).cores = s.cores ∧
    (emit s o).links = s.links ∧ (emit s o).parts = s.parts ∧ (emit s o).chReady = s.chReady ∧ (emit s o).patrol = s.patrol ∧
    (emit s o).patrolled = s.patrolled ∧ (emit s o).bankUse = s.bankUse ∧ (emit s o).faultq = s.faultq ∧
    (emit s o).log = s.log ∧ (emit s o).logNum = s.logNum ∧ (emit s o).kept = s.kept ∧ (emit s o).capSeen = s.capSeen ∧
    (emit s o).sessions = s.sessions ∧ (emit s o).asks = s.asks ∧ (emit s o).lockBy = s.lockBy ∧
    (emit s o).lockLeft = s.lockLeft ∧ (emit s o).handles = s.handles ∧ (emit s o).handleSeq = s.handleSeq ∧
    (emit s o).serve = s.serve ∧ (emit s o).records = s.records ∧ (emit s o).ctxs = s.ctxs ∧ (emit s o).grafts = s.grafts ∧
    (emit s o).graftRun = s.graftRun ∧ (emit s o).flashTest = s.flashTest ∧ (emit s o).hbmTest = s.hbmTest ∧
    (emit s o).serveTest = s.serveTest ∧ (emit s o).change = s.change ∧ (emit s o).debugReq = s.debugReq ∧
    (emit s o).keysBlocked = s.keysBlocked ∧ (emit s o).stateStore = s.stateStore ∧ (emit s o).akGen = s.akGen ∧
    (emit s o).dice = s.dice ∧ (emit s o).fuseUds = s.fuseUds ∧ (emit s o).fuseRoot = s.fuseRoot ∧
    (emit s o).fuseFw = s.fuseFw ∧ (emit s o).ceilReq = s.ceilReq ∧ (emit s o).bsyncAt = s.bsyncAt ∧
    (emit s o).fstepSeen = s.fstepSeen ∧ (emit s o).fstepSeq = s.fstepSeq ∧ (emit s o).freqHandle = s.freqHandle ∧
    (emit s o).freqLater = s.freqLater ∧ (emit s o).marks = s.marks ∧ (emit s o).phaseLeft = s.phaseLeft ∧
    (emit s o).phaseBad = s.phaseBad ∧ (emit s o).refLost = s.refLost ∧ (emit s o).ppsSeen = s.ppsSeen ∧
    (emit s o).stretchNow = s.stretchNow ∧ (emit s o).stretchHit = s.stretchHit ∧ (emit s o).fifos = s.fifos ∧
    (emit s o).hints = s.hints ∧ (emit s o).rails = s.rails ∧ (emit s o).avg1 = s.avg1 ∧ (emit s o).avg10 = s.avg10 ∧
    (emit s o).badSens = s.badSens ∧ (emit s o).ceilUp = s.ceilUp ∧ (emit s o).ceilDown = s.ceilDown ∧
    (emit s o).sens = s.sens ∧ (emit s o).hbmTemp = s.hbmTemp ∧ (emit s o).coolant = s.coolant ∧ (emit s o).board = s.board ∧
    (emit s o).act = s.act ∧ (emit s o).coreCyc = s.coreCyc ∧ (emit s o).attr = s.attr ∧ (emit s o).tripAt = s.tripAt ∧
    (emit s o).tripped = s.tripped ∧ (emit s o).tripKept = s.tripKept ∧ (emit s o).tripCauses = s.tripCauses ∧
    (emit s o).powered = s.powered ∧ (emit s o).holdup = s.holdup ∧ (emit s o).pwrGood = s.pwrGood ∧
    (emit s o).moduleRst = s.moduleRst ∧ (emit s o).alertN = s.alertN ∧ (emit s o).faultN = s.faultN ∧
    (emit s o).railsUp = s.railsUp ∧ (emit s o).warmBoot = s.warmBoot ∧ (emit s o).mcDown = s.mcDown ∧
    (emit s o).mcDead = s.mcDead ∧ (emit s o).mcUpAt = s.mcUpAt ∧ (emit s o).mcFails = s.mcFails ∧ (emit s o).heads = s.heads ∧
    (emit s o).msgSeq = s.msgSeq ∧ (emit s o).mctpFrom = s.mctpFrom ∧ (emit s o).mgmtOut = s.mgmtOut ∧
    (emit s o).msixTab = s.msixTab ∧ (emit s o).msixPba = s.msixPba ∧ (emit s o).rrSlot = s.rrSlot ∧
    (emit s o).mbStatus = s.mbStatus ∧ (emit s o).mbRspLen = s.mbRspLen ∧ (emit s o).mbReqLen = s.mbReqLen ∧
    (emit s o).mbReq = s.mbReq ∧ (emit s o).mbRsp = s.mbRsp ∧ (emit s o).evHead = s.evHead ∧ (emit s o).evTail = s.evTail ∧
    (emit s o).evFifo = s.evFifo ∧ (emit s o).evLost = s.evLost ∧ (emit s o).eids = s.eids ∧ (emit s o).i3cAddr = s.i3cAddr ∧
    (emit s o).spdm = s.spdm ∧ (emit s o).fwNext = s.fwNext ∧ (emit s o).lmNext = s.lmNext ∧ (emit s o).fwRun = s.fwRun ∧
    (emit s o).fresh = s.fresh := by
  exact ⟨rfl, rfl, rfl, rfl, rfl, rfl, rfl, rfl, rfl, rfl, rfl, rfl, rfl, rfl, rfl, rfl, rfl, rfl, rfl, rfl, rfl, rfl, rfl,
    rfl, rfl, rfl, rfl, rfl, rfl, rfl, rfl, rfl, rfl, rfl, rfl, rfl, rfl, rfl, rfl, rfl, rfl, rfl, rfl, rfl, rfl, rfl, rfl,
    rfl, rfl, rfl, rfl, rfl, rfl, rfl, rfl, rfl, rfl, rfl, rfl, rfl, rfl, rfl, rfl, rfl, rfl, rfl, rfl, rfl, rfl, rfl, rfl,
    rfl, rfl, rfl, rfl, rfl, rfl, rfl, rfl, rfl, rfl, rfl, rfl, rfl, rfl, rfl, rfl, rfl, rfl, rfl, rfl, rfl, rfl, rfl, rfl,
    rfl, rfl, rfl, rfl, rfl, rfl, rfl, rfl, rfl, rfl, rfl, rfl, rfl, rfl, rfl, rfl, rfl, rfl, rfl, rfl, rfl, rfl⟩

/-- Everything but faultq stays. -/
@[simp] theorem pushRec_keeps (s : State) (r : LogRec) :
    (pushRec s r).pending = s.pending ∧ (pushRec s r).variant = s.variant ∧ (pushRec s r).regs = s.regs ∧
    (pushRec s r).blobs = s.blobs ∧ (pushRec s r).rems = s.rems ∧ (pushRec s r).scrubNum = s.scrubNum ∧
    (pushRec s r).mem = s.mem ∧ (pushRec s r).ecc = s.ecc ∧ (pushRec s r).beat = s.beat ∧ (pushRec s r).cyc = s.cyc ∧
    (pushRec s r).edge = s.edge ∧ (pushRec s r).edgePs = s.edgePs ∧ (pushRec s r).holdPs = s.holdPs ∧
    (pushRec s r).lastN = s.lastN ∧ (pushRec s r).lastLen = s.lastLen ∧ (pushRec s r).cores = s.cores ∧
    (pushRec s r).links = s.links ∧ (pushRec s r).parts = s.parts ∧ (pushRec s r).chReady = s.chReady ∧
    (pushRec s r).patrol = s.patrol ∧ (pushRec s r).patrolled = s.patrolled ∧ (pushRec s r).bankUse = s.bankUse ∧
    (pushRec s r).log = s.log ∧ (pushRec s r).logNum = s.logNum ∧ (pushRec s r).kept = s.kept ∧
    (pushRec s r).capSeen = s.capSeen ∧ (pushRec s r).sessions = s.sessions ∧ (pushRec s r).asks = s.asks ∧
    (pushRec s r).lockBy = s.lockBy ∧ (pushRec s r).lockLeft = s.lockLeft ∧ (pushRec s r).handles = s.handles ∧
    (pushRec s r).handleSeq = s.handleSeq ∧ (pushRec s r).serve = s.serve ∧ (pushRec s r).records = s.records ∧
    (pushRec s r).ctxs = s.ctxs ∧ (pushRec s r).grafts = s.grafts ∧ (pushRec s r).graftRun = s.graftRun ∧
    (pushRec s r).flashTest = s.flashTest ∧ (pushRec s r).hbmTest = s.hbmTest ∧ (pushRec s r).serveTest = s.serveTest ∧
    (pushRec s r).change = s.change ∧ (pushRec s r).debugReq = s.debugReq ∧ (pushRec s r).keysBlocked = s.keysBlocked ∧
    (pushRec s r).stateStore = s.stateStore ∧ (pushRec s r).akGen = s.akGen ∧ (pushRec s r).dice = s.dice ∧
    (pushRec s r).fuseUds = s.fuseUds ∧ (pushRec s r).fuseRoot = s.fuseRoot ∧ (pushRec s r).fuseFw = s.fuseFw ∧
    (pushRec s r).ceilReq = s.ceilReq ∧ (pushRec s r).bsyncAt = s.bsyncAt ∧ (pushRec s r).fstepSeen = s.fstepSeen ∧
    (pushRec s r).fstepSeq = s.fstepSeq ∧ (pushRec s r).freqHandle = s.freqHandle ∧ (pushRec s r).freqLater = s.freqLater ∧
    (pushRec s r).marks = s.marks ∧ (pushRec s r).phaseLeft = s.phaseLeft ∧ (pushRec s r).phaseBad = s.phaseBad ∧
    (pushRec s r).refLost = s.refLost ∧ (pushRec s r).ppsSeen = s.ppsSeen ∧ (pushRec s r).stretchNow = s.stretchNow ∧
    (pushRec s r).stretchHit = s.stretchHit ∧ (pushRec s r).fifos = s.fifos ∧ (pushRec s r).hints = s.hints ∧
    (pushRec s r).rails = s.rails ∧ (pushRec s r).avg1 = s.avg1 ∧ (pushRec s r).avg10 = s.avg10 ∧
    (pushRec s r).badSens = s.badSens ∧ (pushRec s r).ceilUp = s.ceilUp ∧ (pushRec s r).ceilDown = s.ceilDown ∧
    (pushRec s r).sens = s.sens ∧ (pushRec s r).hbmTemp = s.hbmTemp ∧ (pushRec s r).coolant = s.coolant ∧
    (pushRec s r).board = s.board ∧ (pushRec s r).act = s.act ∧ (pushRec s r).coreCyc = s.coreCyc ∧
    (pushRec s r).attr = s.attr ∧ (pushRec s r).tripAt = s.tripAt ∧ (pushRec s r).tripped = s.tripped ∧
    (pushRec s r).tripKept = s.tripKept ∧ (pushRec s r).tripCauses = s.tripCauses ∧ (pushRec s r).powered = s.powered ∧
    (pushRec s r).holdup = s.holdup ∧ (pushRec s r).pwrGood = s.pwrGood ∧ (pushRec s r).moduleRst = s.moduleRst ∧
    (pushRec s r).alertN = s.alertN ∧ (pushRec s r).faultN = s.faultN ∧ (pushRec s r).railsUp = s.railsUp ∧
    (pushRec s r).warmBoot = s.warmBoot ∧ (pushRec s r).mcDown = s.mcDown ∧ (pushRec s r).mcDead = s.mcDead ∧
    (pushRec s r).mcUpAt = s.mcUpAt ∧ (pushRec s r).mcFails = s.mcFails ∧ (pushRec s r).heads = s.heads ∧
    (pushRec s r).msgSeq = s.msgSeq ∧ (pushRec s r).mctpFrom = s.mctpFrom ∧ (pushRec s r).mgmtOut = s.mgmtOut ∧
    (pushRec s r).msixTab = s.msixTab ∧ (pushRec s r).msixPba = s.msixPba ∧ (pushRec s r).rrSlot = s.rrSlot ∧
    (pushRec s r).mbStatus = s.mbStatus ∧ (pushRec s r).mbRspLen = s.mbRspLen ∧ (pushRec s r).mbReqLen = s.mbReqLen ∧
    (pushRec s r).mbReq = s.mbReq ∧ (pushRec s r).mbRsp = s.mbRsp ∧ (pushRec s r).evHead = s.evHead ∧
    (pushRec s r).evTail = s.evTail ∧ (pushRec s r).evFifo = s.evFifo ∧ (pushRec s r).evLost = s.evLost ∧
    (pushRec s r).eids = s.eids ∧ (pushRec s r).i3cAddr = s.i3cAddr ∧ (pushRec s r).spdm = s.spdm ∧
    (pushRec s r).fwNext = s.fwNext ∧ (pushRec s r).lmNext = s.lmNext ∧ (pushRec s r).fwRun = s.fwRun ∧
    (pushRec s r).fresh = s.fresh ∧ (pushRec s r).out = s.out := by
  exact ⟨rfl, rfl, rfl, rfl, rfl, rfl, rfl, rfl, rfl, rfl, rfl, rfl, rfl, rfl, rfl, rfl, rfl, rfl, rfl, rfl, rfl, rfl, rfl,
    rfl, rfl, rfl, rfl, rfl, rfl, rfl, rfl, rfl, rfl, rfl, rfl, rfl, rfl, rfl, rfl, rfl, rfl, rfl, rfl, rfl, rfl, rfl, rfl,
    rfl, rfl, rfl, rfl, rfl, rfl, rfl, rfl, rfl, rfl, rfl, rfl, rfl, rfl, rfl, rfl, rfl, rfl, rfl, rfl, rfl, rfl, rfl, rfl,
    rfl, rfl, rfl, rfl, rfl, rfl, rfl, rfl, rfl, rfl, rfl, rfl, rfl, rfl, rfl, rfl, rfl, rfl, rfl, rfl, rfl, rfl, rfl, rfl,
    rfl, rfl, rfl, rfl, rfl, rfl, rfl, rfl, rfl, rfl, rfl, rfl, rfl, rfl, rfl, rfl, rfl, rfl, rfl, rfl, rfl, rfl⟩

/-- Everything but mem and ecc stays. -/
@[simp] theorem poke_keeps (s : State) (a : Nat) (b : List Byte) :
    (poke s a b).pending = s.pending ∧ (poke s a b).variant = s.variant ∧ (poke s a b).regs = s.regs ∧
    (poke s a b).blobs = s.blobs ∧ (poke s a b).rems = s.rems ∧ (poke s a b).scrubNum = s.scrubNum ∧
    (poke s a b).beat = s.beat ∧ (poke s a b).cyc = s.cyc ∧ (poke s a b).edge = s.edge ∧ (poke s a b).edgePs = s.edgePs ∧
    (poke s a b).holdPs = s.holdPs ∧ (poke s a b).lastN = s.lastN ∧ (poke s a b).lastLen = s.lastLen ∧
    (poke s a b).cores = s.cores ∧ (poke s a b).links = s.links ∧ (poke s a b).parts = s.parts ∧
    (poke s a b).chReady = s.chReady ∧ (poke s a b).patrol = s.patrol ∧ (poke s a b).patrolled = s.patrolled ∧
    (poke s a b).bankUse = s.bankUse ∧ (poke s a b).faultq = s.faultq ∧ (poke s a b).log = s.log ∧
    (poke s a b).logNum = s.logNum ∧ (poke s a b).kept = s.kept ∧ (poke s a b).capSeen = s.capSeen ∧
    (poke s a b).sessions = s.sessions ∧ (poke s a b).asks = s.asks ∧ (poke s a b).lockBy = s.lockBy ∧
    (poke s a b).lockLeft = s.lockLeft ∧ (poke s a b).handles = s.handles ∧ (poke s a b).handleSeq = s.handleSeq ∧
    (poke s a b).serve = s.serve ∧ (poke s a b).records = s.records ∧ (poke s a b).ctxs = s.ctxs ∧
    (poke s a b).grafts = s.grafts ∧ (poke s a b).graftRun = s.graftRun ∧ (poke s a b).flashTest = s.flashTest ∧
    (poke s a b).hbmTest = s.hbmTest ∧ (poke s a b).serveTest = s.serveTest ∧ (poke s a b).change = s.change ∧
    (poke s a b).debugReq = s.debugReq ∧ (poke s a b).keysBlocked = s.keysBlocked ∧ (poke s a b).stateStore = s.stateStore ∧
    (poke s a b).akGen = s.akGen ∧ (poke s a b).dice = s.dice ∧ (poke s a b).fuseUds = s.fuseUds ∧
    (poke s a b).fuseRoot = s.fuseRoot ∧ (poke s a b).fuseFw = s.fuseFw ∧ (poke s a b).ceilReq = s.ceilReq ∧
    (poke s a b).bsyncAt = s.bsyncAt ∧ (poke s a b).fstepSeen = s.fstepSeen ∧ (poke s a b).fstepSeq = s.fstepSeq ∧
    (poke s a b).freqHandle = s.freqHandle ∧ (poke s a b).freqLater = s.freqLater ∧ (poke s a b).marks = s.marks ∧
    (poke s a b).phaseLeft = s.phaseLeft ∧ (poke s a b).phaseBad = s.phaseBad ∧ (poke s a b).refLost = s.refLost ∧
    (poke s a b).ppsSeen = s.ppsSeen ∧ (poke s a b).stretchNow = s.stretchNow ∧ (poke s a b).stretchHit = s.stretchHit ∧
    (poke s a b).fifos = s.fifos ∧ (poke s a b).hints = s.hints ∧ (poke s a b).rails = s.rails ∧ (poke s a b).avg1 = s.avg1 ∧
    (poke s a b).avg10 = s.avg10 ∧ (poke s a b).badSens = s.badSens ∧ (poke s a b).ceilUp = s.ceilUp ∧
    (poke s a b).ceilDown = s.ceilDown ∧ (poke s a b).sens = s.sens ∧ (poke s a b).hbmTemp = s.hbmTemp ∧
    (poke s a b).coolant = s.coolant ∧ (poke s a b).board = s.board ∧ (poke s a b).act = s.act ∧
    (poke s a b).coreCyc = s.coreCyc ∧ (poke s a b).attr = s.attr ∧ (poke s a b).tripAt = s.tripAt ∧
    (poke s a b).tripped = s.tripped ∧ (poke s a b).tripKept = s.tripKept ∧ (poke s a b).tripCauses = s.tripCauses ∧
    (poke s a b).powered = s.powered ∧ (poke s a b).holdup = s.holdup ∧ (poke s a b).pwrGood = s.pwrGood ∧
    (poke s a b).moduleRst = s.moduleRst ∧ (poke s a b).alertN = s.alertN ∧ (poke s a b).faultN = s.faultN ∧
    (poke s a b).railsUp = s.railsUp ∧ (poke s a b).warmBoot = s.warmBoot ∧ (poke s a b).mcDown = s.mcDown ∧
    (poke s a b).mcDead = s.mcDead ∧ (poke s a b).mcUpAt = s.mcUpAt ∧ (poke s a b).mcFails = s.mcFails ∧
    (poke s a b).heads = s.heads ∧ (poke s a b).msgSeq = s.msgSeq ∧ (poke s a b).mctpFrom = s.mctpFrom ∧
    (poke s a b).mgmtOut = s.mgmtOut ∧ (poke s a b).msixTab = s.msixTab ∧ (poke s a b).msixPba = s.msixPba ∧
    (poke s a b).rrSlot = s.rrSlot ∧ (poke s a b).mbStatus = s.mbStatus ∧ (poke s a b).mbRspLen = s.mbRspLen ∧
    (poke s a b).mbReqLen = s.mbReqLen ∧ (poke s a b).mbReq = s.mbReq ∧ (poke s a b).mbRsp = s.mbRsp ∧
    (poke s a b).evHead = s.evHead ∧ (poke s a b).evTail = s.evTail ∧ (poke s a b).evFifo = s.evFifo ∧
    (poke s a b).evLost = s.evLost ∧ (poke s a b).eids = s.eids ∧ (poke s a b).i3cAddr = s.i3cAddr ∧
    (poke s a b).spdm = s.spdm ∧ (poke s a b).fwNext = s.fwNext ∧ (poke s a b).lmNext = s.lmNext ∧
    (poke s a b).fwRun = s.fwRun ∧ (poke s a b).fresh = s.fresh ∧ (poke s a b).out = s.out := by
  exact ⟨rfl, rfl, rfl, rfl, rfl, rfl, rfl, rfl, rfl, rfl, rfl, rfl, rfl, rfl, rfl, rfl, rfl, rfl, rfl, rfl, rfl, rfl, rfl,
    rfl, rfl, rfl, rfl, rfl, rfl, rfl, rfl, rfl, rfl, rfl, rfl, rfl, rfl, rfl, rfl, rfl, rfl, rfl, rfl, rfl, rfl, rfl, rfl,
    rfl, rfl, rfl, rfl, rfl, rfl, rfl, rfl, rfl, rfl, rfl, rfl, rfl, rfl, rfl, rfl, rfl, rfl, rfl, rfl, rfl, rfl, rfl, rfl,
    rfl, rfl, rfl, rfl, rfl, rfl, rfl, rfl, rfl, rfl, rfl, rfl, rfl, rfl, rfl, rfl, rfl, rfl, rfl, rfl, rfl, rfl, rfl, rfl,
    rfl, rfl, rfl, rfl, rfl, rfl, rfl, rfl, rfl, rfl, rfl, rfl, rfl, rfl, rfl, rfl, rfl, rfl, rfl, rfl, rfl⟩

/-- Everything but mem and ecc stays. -/
@[simp] theorem mzero_keeps (s : State) (a n : Nat) :
    (mzero s a n).pending = s.pending ∧ (mzero s a n).variant = s.variant ∧ (mzero s a n).regs = s.regs ∧
    (mzero s a n).blobs = s.blobs ∧ (mzero s a n).rems = s.rems ∧ (mzero s a n).scrubNum = s.scrubNum ∧
    (mzero s a n).beat = s.beat ∧ (mzero s a n).cyc = s.cyc ∧ (mzero s a n).edge = s.edge ∧ (mzero s a n).edgePs = s.edgePs ∧
    (mzero s a n).holdPs = s.holdPs ∧ (mzero s a n).lastN = s.lastN ∧ (mzero s a n).lastLen = s.lastLen ∧
    (mzero s a n).cores = s.cores ∧ (mzero s a n).links = s.links ∧ (mzero s a n).parts = s.parts ∧
    (mzero s a n).chReady = s.chReady ∧ (mzero s a n).patrol = s.patrol ∧ (mzero s a n).patrolled = s.patrolled ∧
    (mzero s a n).bankUse = s.bankUse ∧ (mzero s a n).faultq = s.faultq ∧ (mzero s a n).log = s.log ∧
    (mzero s a n).logNum = s.logNum ∧ (mzero s a n).kept = s.kept ∧ (mzero s a n).capSeen = s.capSeen ∧
    (mzero s a n).sessions = s.sessions ∧ (mzero s a n).asks = s.asks ∧ (mzero s a n).lockBy = s.lockBy ∧
    (mzero s a n).lockLeft = s.lockLeft ∧ (mzero s a n).handles = s.handles ∧ (mzero s a n).handleSeq = s.handleSeq ∧
    (mzero s a n).serve = s.serve ∧ (mzero s a n).records = s.records ∧ (mzero s a n).ctxs = s.ctxs ∧
    (mzero s a n).grafts = s.grafts ∧ (mzero s a n).graftRun = s.graftRun ∧ (mzero s a n).flashTest = s.flashTest ∧
    (mzero s a n).hbmTest = s.hbmTest ∧ (mzero s a n).serveTest = s.serveTest ∧ (mzero s a n).change = s.change ∧
    (mzero s a n).debugReq = s.debugReq ∧ (mzero s a n).keysBlocked = s.keysBlocked ∧ (mzero s a n).stateStore = s.stateStore ∧
    (mzero s a n).akGen = s.akGen ∧ (mzero s a n).dice = s.dice ∧ (mzero s a n).fuseUds = s.fuseUds ∧
    (mzero s a n).fuseRoot = s.fuseRoot ∧ (mzero s a n).fuseFw = s.fuseFw ∧ (mzero s a n).ceilReq = s.ceilReq ∧
    (mzero s a n).bsyncAt = s.bsyncAt ∧ (mzero s a n).fstepSeen = s.fstepSeen ∧ (mzero s a n).fstepSeq = s.fstepSeq ∧
    (mzero s a n).freqHandle = s.freqHandle ∧ (mzero s a n).freqLater = s.freqLater ∧ (mzero s a n).marks = s.marks ∧
    (mzero s a n).phaseLeft = s.phaseLeft ∧ (mzero s a n).phaseBad = s.phaseBad ∧ (mzero s a n).refLost = s.refLost ∧
    (mzero s a n).ppsSeen = s.ppsSeen ∧ (mzero s a n).stretchNow = s.stretchNow ∧ (mzero s a n).stretchHit = s.stretchHit ∧
    (mzero s a n).fifos = s.fifos ∧ (mzero s a n).hints = s.hints ∧ (mzero s a n).rails = s.rails ∧
    (mzero s a n).avg1 = s.avg1 ∧ (mzero s a n).avg10 = s.avg10 ∧ (mzero s a n).badSens = s.badSens ∧
    (mzero s a n).ceilUp = s.ceilUp ∧ (mzero s a n).ceilDown = s.ceilDown ∧ (mzero s a n).sens = s.sens ∧
    (mzero s a n).hbmTemp = s.hbmTemp ∧ (mzero s a n).coolant = s.coolant ∧ (mzero s a n).board = s.board ∧
    (mzero s a n).act = s.act ∧ (mzero s a n).coreCyc = s.coreCyc ∧ (mzero s a n).attr = s.attr ∧
    (mzero s a n).tripAt = s.tripAt ∧ (mzero s a n).tripped = s.tripped ∧ (mzero s a n).tripKept = s.tripKept ∧
    (mzero s a n).tripCauses = s.tripCauses ∧ (mzero s a n).powered = s.powered ∧ (mzero s a n).holdup = s.holdup ∧
    (mzero s a n).pwrGood = s.pwrGood ∧ (mzero s a n).moduleRst = s.moduleRst ∧ (mzero s a n).alertN = s.alertN ∧
    (mzero s a n).faultN = s.faultN ∧ (mzero s a n).railsUp = s.railsUp ∧ (mzero s a n).warmBoot = s.warmBoot ∧
    (mzero s a n).mcDown = s.mcDown ∧ (mzero s a n).mcDead = s.mcDead ∧ (mzero s a n).mcUpAt = s.mcUpAt ∧
    (mzero s a n).mcFails = s.mcFails ∧ (mzero s a n).heads = s.heads ∧ (mzero s a n).msgSeq = s.msgSeq ∧
    (mzero s a n).mctpFrom = s.mctpFrom ∧ (mzero s a n).mgmtOut = s.mgmtOut ∧ (mzero s a n).msixTab = s.msixTab ∧
    (mzero s a n).msixPba = s.msixPba ∧ (mzero s a n).rrSlot = s.rrSlot ∧ (mzero s a n).mbStatus = s.mbStatus ∧
    (mzero s a n).mbRspLen = s.mbRspLen ∧ (mzero s a n).mbReqLen = s.mbReqLen ∧ (mzero s a n).mbReq = s.mbReq ∧
    (mzero s a n).mbRsp = s.mbRsp ∧ (mzero s a n).evHead = s.evHead ∧ (mzero s a n).evTail = s.evTail ∧
    (mzero s a n).evFifo = s.evFifo ∧ (mzero s a n).evLost = s.evLost ∧ (mzero s a n).eids = s.eids ∧
    (mzero s a n).i3cAddr = s.i3cAddr ∧ (mzero s a n).spdm = s.spdm ∧ (mzero s a n).fwNext = s.fwNext ∧
    (mzero s a n).lmNext = s.lmNext ∧ (mzero s a n).fwRun = s.fwRun ∧ (mzero s a n).fresh = s.fresh ∧
    (mzero s a n).out = s.out := by
  exact ⟨rfl, rfl, rfl, rfl, rfl, rfl, rfl, rfl, rfl, rfl, rfl, rfl, rfl, rfl, rfl, rfl, rfl, rfl, rfl, rfl, rfl, rfl, rfl,
    rfl, rfl, rfl, rfl, rfl, rfl, rfl, rfl, rfl, rfl, rfl, rfl, rfl, rfl, rfl, rfl, rfl, rfl, rfl, rfl, rfl, rfl, rfl, rfl,
    rfl, rfl, rfl, rfl, rfl, rfl, rfl, rfl, rfl, rfl, rfl, rfl, rfl, rfl, rfl, rfl, rfl, rfl, rfl, rfl, rfl, rfl, rfl, rfl,
    rfl, rfl, rfl, rfl, rfl, rfl, rfl, rfl, rfl, rfl, rfl, rfl, rfl, rfl, rfl, rfl, rfl, rfl, rfl, rfl, rfl, rfl, rfl, rfl,
    rfl, rfl, rfl, rfl, rfl, rfl, rfl, rfl, rfl, rfl, rfl, rfl, rfl, rfl, rfl, rfl, rfl, rfl, rfl, rfl, rfl⟩

end Sys2Proof.Machine
end

