-- ==== Sys2Proof/Laws/Ops.lean ====
section
/-! SUPPORT. What the shared operations can do, once for each: the keyed stores, memory and its canonical form, and the frames of the
operations of Ops.lean. -/

namespace Sys2Proof.Machine

/-! ### Keyed stores -/

theorem kget_kset {α : Type} (m : KMap α) (n : Nat) (v : α) (j : Nat) :
    kget (kset m n v) j = if j = n then some v else kget m j := by
  induction m with
  | nil => simp only [kset, kget]; split <;> simp_all [eq_comm]
  | cons p r ih =>
    obtain ⟨k, w⟩ := p
    simp only [kset]
    split
    · simp only [kget]; split <;> simp_all [eq_comm]
    · split
      · simp only [kget]; grind
      · simp only [kget, ih]; grind

@[simp] theorem kget_kset_same {α : Type} (m : KMap α) (n : Nat) (v : α) : kget (kset m n v) n = some v := by
  rw [kget_kset, if_pos rfl]

theorem kget_kset_other {α : Type} (m : KMap α) (n : Nat) (v : α) (j : Nat) (h : j ≠ n) :
    kget (kset m n v) j = kget m j := by rw [kget_kset, if_neg h]

theorem kget_kdel {α : Type} (m : KMap α) (n j : Nat) : kget (kdel m n) j = if j = n then none else kget m j := by
  induction m with
  | nil => simp [kdel, kget]
  | cons p r ih =>
    obtain ⟨k, w⟩ := p
    simp only [kdel]
    split
    · simp only [ih, kget]; grind
    · simp only [kget, ih]; grind

theorem kget_kput {α : Type} [DecidableEq α] (d : α) (m : KMap α) (n : Nat) (v : α) (j : Nat) :
    (kget (kput d m n v) j).getD d = if j = n then v else (kget m j).getD d := by
  unfold kput
  split
  · rw [kget_kdel]; grind
  · rw [kget_kset]; grind

/-! ### Units -/

@[simp] theorem coreAt_setCore (s : State) (u : Nat) (x : CoreSt) : coreAt (setCore s u x) u = x := by
  simp [coreAt, setCore]

theorem coreAt_setCore_other (s : State) (u v : Nat) (x : CoreSt) (h : v ≠ u) : coreAt (setCore s u x) v = coreAt s v := by
  simp [coreAt, setCore, kget_kset_other _ _ _ _ h]

@[simp] theorem linkAt_setLink (s : State) (l : Nat) (x : LinkSt) : linkAt (setLink s l x) l = x := by
  simp [linkAt, setLink]

theorem linkAt_setLink_other (s : State) (l k : Nat) (x : LinkSt) (h : k ≠ l) : linkAt (setLink s l x) k = linkAt s k := by
  simp [linkAt, setLink, kget_kset_other _ _ _ _ h]

@[simp] theorem partAt_setPart (s : State) (p : Nat) (x : PartSt) : partAt (setPart s p x) p = x := by
  simp [partAt, setPart]

theorem partAt_setPart_other (s : State) (p q : Nat) (x : PartSt) (h : q ≠ p) : partAt (setPart s p x) q = partAt s q := by
  simp [partAt, setPart, kget_kset_other _ _ _ _ h]

@[simp] theorem ctxAt_setCtx (s : State) (c : Nat) (x : CtxSt) : ctxAt (setCtx s c x) c = x := by
  simp [ctxAt, setCtx]

@[simp] theorem servAt_setServ (s : State) (e : Nat) (x : ServeEnt) : servAt (setServ s e x) e = x := by
  simp [servAt, setServ]

/-! ### Dictionary registers -/

theorem rg_wr (s : State) (i j v a b : Nat) : rg (wr s i j v) a b = if rkey a b = rkey i j then v else rg s a b := by
  simp only [rg, wr, kget_kset]
  by_cases h : rkey a b = rkey i j <;> simp [h]

@[simp] theorem rg_wr_same (s : State) (i j v : Nat) : rg (wr s i j v) i j = v := by rw [rg_wr, if_pos rfl]

theorem rg_wr_other (s : State) (i j v a b : Nat) (h : rkey a b ≠ rkey i j) : rg (wr s i j v) a b = rg s a b := by
  rw [rg_wr, if_neg h]

/-! ### Memory -/

theorem mget_mset (m : List Host.Cell) (a : Nat) (b : Byte) (c : Nat) :
    mget (mset m a b) c = if c = a then b else mget m c := by
  have h := kget_kput (memDefault a) m a b c
  unfold mget mset
  by_cases hc : c = a
  · subst hc; simpa using h
  · rw [if_neg hc]
    congr 1
    unfold kput
    split
    · rw [kget_kdel, if_neg hc]
    · rw [kget_kset, if_neg hc]

theorem mget_mwrite_out (b : List Byte) : ∀ (m : List Host.Cell) (a c : Nat), c < a ∨ a + b.length ≤ c →
    mget (mwrite m a b) c = mget m c := by
  induction b with
  | nil => intros; rfl
  | cons x r ih =>
    intro m a c h
    simp only [List.length_cons] at h
    simp only [mwrite]
    rw [ih _ _ _ (by omega), mget_mset, if_neg (by omega)]

theorem mget_mwrite_in (b : List Byte) : ∀ (m : List Host.Cell) (a i : Nat) (h : i < b.length),
    mget (mwrite m a b) (a + i) = b[i] := by
  induction b with
  | nil => intro m a i h; simp at h
  | cons x r ih =>
    intro m a i h
    simp only [mwrite]
    cases i with
    | zero => rw [mget_mwrite_out _ _ _ _ (by omega), mget_mset, if_pos (by omega)]; rfl
    | succ i =>
      have := ih (mset m a x) (a + 1) i (by simpa using h)
      rw [show a + (i + 1) = a + 1 + i by omega, this]; rfl

theorem mem_kset {α : Type} (m : KMap α) (n : Nat) (v : α) (c : Nat × α) (h : c ∈ kset m n v) : c = (n, v) ∨ c ∈ m := by
  induction m with
  | nil => simp [kset] at h; exact .inl h
  | cons p r ih =>
    obtain ⟨k, w⟩ := p
    simp only [kset] at h
    split at h
    · simpa using h
    · split at h
      · simp only [List.mem_cons] at h ⊢; tauto
      · simp only [List.mem_cons] at h ⊢; rcases h with h | h
        · tauto
        · rcases ih h with h | h <;> tauto

theorem kset_sorted {α : Type} (m : KMap α) (n : Nat) (v : α) (h : m.Pairwise (fun x y => x.1 < y.1)) :
    (kset m n v).Pairwise (fun x y => x.1 < y.1) := by
  induction m with
  | nil => simp [kset]
  | cons p r ih =>
    obtain ⟨k, w⟩ := p
    obtain ⟨h1, h2⟩ := List.pairwise_cons.1 h
    simp only [kset]
    split
    · refine List.pairwise_cons.2 ⟨?_, h⟩
      intro c hc
      rcases List.mem_cons.1 hc with hc | hc
      · simp_all
      · have := h1 c hc; simp at this ⊢; omega
    · split
      · refine List.pairwise_cons.2 ⟨?_, h2⟩
        intro c hc; have := h1 c hc; simp at this ⊢; omega
      · refine List.pairwise_cons.2 ⟨?_, ih h2⟩
        intro c hc
        rcases mem_kset r n v c hc with hc | hc
        · subst hc; simp; omega
        · exact h1 c hc

theorem kdel_sublist {α : Type} (m : KMap α) (n : Nat) : (kdel m n).Sublist m := by
  induction m with
  | nil => exact .slnil
  | cons p r ih =>
    obtain ⟨k, w⟩ := p
    simp only [kdel]
    split
    · exact ih.cons _
    · exact ih.cons_cons _

theorem Memory.wf_sublist {m m' : List Host.Cell} (h : Memory.wf m) (hs : m'.Sublist m) : Memory.wf m' :=
  ⟨h.1.sublist hs, fun c hc => h.2 c (hs.subset hc)⟩

theorem mset_wf {m : List Host.Cell} (a : Nat) (b : Byte) (h : Memory.wf m) : Memory.wf (mset m a b) := by
  unfold mset kput
  split
  · exact Memory.wf_sublist h (kdel_sublist m a)
  · refine ⟨kset_sorted m a b h.1, fun c hc => ?_⟩
    rcases mem_kset m a b c hc with hc | hc
    · subst hc; assumption
    · exact h.2 c hc

theorem mwrite_wf (b : List Byte) : ∀ {m : List Host.Cell} (a : Nat), Memory.wf m → Memory.wf (mwrite m a b) := by
  induction b with
  | nil => intro m a h; exact h
  | cons x r ih => intro m a h; exact ih _ (mset_wf a x h)

theorem poke_wf {s : State} (a : Nat) (b : List Byte) (h : Memory.wf s.mem) : Memory.wf (poke s a b).mem := mwrite_wf b a h

theorem mzero_wf {s : State} (a n : Nat) (h : Memory.wf s.mem) : Memory.wf (mzero s a n).mem :=
  Memory.wf_sublist h List.filter_sublist

theorem mcopy_wf {s : State} (src dst n : Nat) (h : Memory.wf s.mem) : Memory.wf (mcopy s src dst n).mem := by
  unfold mcopy
  suffices hs : ∀ (l : List Host.Cell) (t : State), Memory.wf t.mem → Memory.wf
      (l.foldl (fun t c => ({ t with mem := mset t.mem (dst + (c.1 - src)) c.2 } : State)) t).mem from hs _ _ (mzero_wf dst n h)
  intro l
  induction l with
  | nil => intro t ht; exact ht
  | cons c r ih => intro t ht; exact ih _ (mset_wf _ _ ht)

theorem reset_mem_wf : Memory.wf State.reset.mem := by simp [State.reset, Memory.wf]

end Sys2Proof.Machine

namespace Sys2Proof

open Machine

/-! ### Frames -/

theorem Touches.refl {l : List Field} {s : State} : Touches l s s := by
  exact ⟨fun f _ => by cases f <;> rfl⟩

theorem Touches.trans {l : List Field} {s t r : State} (h : Touches l s t) (g : Touches l t r) : Touches l s r := by
  refine ⟨fun f hf => ?_⟩
  have a := h.same f hf
  have b := g.same f hf
  cases f <;> exact Eq.trans b a

theorem Touches.mono {l l' : List Field} {s t : State} (h : Touches l s t)
    (hl : l.all (fun f => decide (f ∈ l')) = true) : Touches l' s t := by
  refine ⟨fun f hf => h.same f (fun hm => hf ?_)⟩
  simpa using List.all_eq_true.1 hl f hm

/-- One more plain update inside a frame. -/
theorem Touches.more {l : List Field} {s x t : State} (k : List Field) (h : Touches l s x) (g : Touches k x t)
    (hk : k.all (fun f => decide (f ∈ l)) = true) : Touches l s t := h.trans (g.mono hk)

theorem touches_wr (x : State) (i j v : Nat) : Touches [.regs] x (wr x i j v) := by
  exact ⟨fun f hf => by cases f <;> first | rfl | simp at hf⟩

theorem touches_wb (x : State) (i j : Nat) (b : List Byte) : Touches [.blobs] x (wb x i j b) := by
  exact ⟨fun f hf => by cases f <;> first | rfl | simp at hf⟩

theorem touches_setCore (x : State) (u : Nat) (y : CoreSt) : Touches [.cores] x (setCore x u y) := by
  exact ⟨fun f hf => by cases f <;> first | rfl | simp at hf⟩

theorem touches_setLink (x : State) (n : Nat) (y : LinkSt) : Touches [.links] x (setLink x n y) := by
  exact ⟨fun f hf => by cases f <;> first | rfl | simp at hf⟩

theorem touches_setPart (x : State) (p : Nat) (y : PartSt) : Touches [.parts] x (setPart x p y) := by
  exact ⟨fun f hf => by cases f <;> first | rfl | simp at hf⟩

theorem touches_setCtx (x : State) (c : Nat) (y : CtxSt) : Touches [.ctxs] x (setCtx x c y) := by
  exact ⟨fun f hf => by cases f <;> first | rfl | simp at hf⟩

theorem touches_setServ (x : State) (e : Nat) (y : ServeEnt) : Touches [.serve] x (setServ x e y) := by
  exact ⟨fun f hf => by cases f <;> first | rfl | simp at hf⟩

theorem touches_setSes (x : State) (y : Session) : Touches [.sessions] x (setSes x y) := by
  exact ⟨fun f hf => by cases f <;> first | rfl | simp at hf⟩

theorem touches_setHandle (x : State) (y : Handle) : Touches [.handles] x (setHandle x y) := by
  exact ⟨fun f hf => by cases f <;> first | rfl | simp at hf⟩

theorem touches_emit (x : State) (o : Out) : Touches [.out] x (emit x o) := by
  exact ⟨fun f hf => by cases f <;> first | rfl | simp at hf⟩

theorem touches_pushRec (x : State) (r : LogRec) : Touches [.faultq] x (pushRec x r) := by
  exact ⟨fun f hf => by cases f <;> first | rfl | simp at hf⟩

theorem touches_poke (x : State) (a : Nat) (b : List Byte) : Touches [.mem, .ecc] x (poke x a b) := by
  exact ⟨fun f hf => by cases f <;> first | rfl | simp at hf⟩

theorem touches_mzero (x : State) (a n : Nat) : Touches [.mem, .ecc] x (mzero x a n) := by
  exact ⟨fun f hf => by cases f <;> first | rfl | simp at hf⟩

theorem touches_toDefault (x : State) (i j : Nat) : Touches [.regs, .blobs, .rems] x (toDefault x i j) := by
  exact ⟨fun f hf => by cases f <;> first | rfl | simp at hf⟩


theorem Touches.ite {l : List Field} {s a b : State} {c : Prop} [Decidable c] (ha : Touches l s a) (hb : Touches l s b) :
    Touches l s (if c then a else b) := by split <;> assumption

theorem Touches.foldl {α : Type} {l : List Field} (f : State → α → State) (h : ∀ t a, Touches l t (f t a)) (as : List α) (s : State) :
    Touches l s (as.foldl f s) := by
  induction as generalizing s with
  | nil => exact .refl
  | cons a r ih => exact (h s a).trans (ih _)

theorem touches_noteDropped (x : State) : Touches [.regs, .faultq] x (noteDropped x) := by
  unfold noteDropped
  refine .ite .refl (.ite ((touches_wr ..).mono rfl) ?_)
  exact ((touches_wr ..).mono rfl).trans (((touches_wr ..).mono rfl).trans ((touches_pushRec ..).mono rfl))

theorem touches_pushSat (x : State) (r : LogRec) : Touches [.regs, .faultq] x (pushSat x r) := by
  unfold pushSat
  exact .ite (touches_noteDropped x) ((touches_pushRec ..).mono rfl)

theorem touches_bumpAt (x : State) (i j oi oj b n : Nat) : Touches [.regs, .faultq] x (bumpAt x i j oi oj b n) := by
  unfold bumpAt
  refine .ite .refl (.ite ((touches_wr ..).mono rfl) ?_)
  exact ((touches_wr ..).mono rfl).trans (((touches_wr ..).mono rfl).trans (touches_pushSat ..))

theorem touches_bump (x : State) (i j oj b n : Nat) : Touches [.regs, .faultq] x (bump x i j oj b n) := touches_bumpAt ..

theorem touches_bumpUnits (x : State) (i j oj b k n : Nat) : Touches [.regs, .faultq, .rems] x (bumpUnits x i j oj b k n) := by
  unfold bumpUnits
  refine Touches.trans (t := { x with rems := _ }) ?_ ((touches_bump ..).mono rfl)
  exact ⟨fun f hf => by cases f <;> first | rfl | simp at hf⟩

theorem touches_wtab (x : State) (i j n k v : Nat) : Touches [.blobs] x (wtab x i j n k v) := touches_wb ..

theorem touches_bumpTab (x : State) (i j k oj b n : Nat) : Touches [.regs, .blobs, .faultq] x (bumpTab x i j k oj b n) := by
  unfold bumpTab
  refine .ite .refl (.ite ((touches_wtab ..).mono rfl) ?_)
  exact ((touches_wtab ..).mono rfl).trans (((touches_wr ..).mono rfl).trans ((touches_pushSat ..).mono rfl))

theorem touches_notePlanFault (x : State) (r : LogRec) : Touches [.parts] x (notePlanFault x r) := by
  unfold notePlanFault
  exact .ite (touches_setPart ..) .refl

theorem touches_capture (x : State) (r : LogRec) : Touches [.parts, .capSeen, .faultq, .regs] x (capture x r) := by
  unfold capture
  refine .ite ?_ (((touches_notePlanFault x r).mono rfl).trans ((touches_noteDropped ..).mono rfl))
  refine ((touches_notePlanFault x r).mono rfl).trans (Touches.trans (t := { notePlanFault x r with capSeen := _ }) ?_
    ((touches_pushRec ..).mono rfl))
  exact ⟨fun f hf => by cases f <;> first | rfl | simp at hf⟩

end Sys2Proof
end

