-- ==== Sys2Proof/Laws/Core.lean ====
section
/-! SUPPORT. The frames of the operations that the commands of a core share. -/

namespace Sys2Proof

open Machine

theorem RegsKept.refl {m : Nat → Bool} {s : State} : RegsKept m s s := fun _ _ => rfl

theorem RegsKept.trans {m : Nat → Bool} {s t r : State} (h : RegsKept m s t) (g : RegsKept m t r) : RegsKept m s r :=
  fun k hk => (g k hk).trans (h k hk)

theorem RegsKept.of_eq {m : Nat → Bool} {s t : State} (h : t.regs = s.regs) : RegsKept m s t := fun k _ => by rw [h]

theorem regsKept_wr {m : Nat → Bool} (s : State) (i j v : Nat) (h : m (rkey i j) = true) : RegsKept m s (wr s i j v) := by
  intro k hk
  refine kget_kset_other _ _ _ _ (fun e => ?_)
  rw [e, h] at hk
  cases hk

theorem regsKept_noteDropped {m : Nat → Bool} (s : State) (h : m (rkey 0x7000 5) = true) (g : m (rkey 0x7000 6) = true) :
    RegsKept m s (noteDropped s) := by
  unfold noteDropped
  dsimp only
  split
  · exact .refl
  · split
    · exact regsKept_wr s _ _ _ h
    · exact (regsKept_wr s _ _ _ h).trans ((regsKept_wr _ _ _ _ g).trans (.of_eq rfl))

theorem regsKept_pushSat {m : Nat → Bool} (s : State) (r : LogRec) (h : m (rkey 0x7000 5) = true) (g : m (rkey 0x7000 6) = true) :
    RegsKept m s (pushSat s r) := by
  unfold pushSat
  split
  · exact regsKept_noteDropped s h g
  · exact .of_eq rfl

theorem regsKept_bumpAt {m : Nat → Bool} (s : State) (i j oi oj b n : Nat) (h : m (rkey i j) = true)
    (g : m (rkey oi oj) = true) (h' : m (rkey 0x7000 5) = true := by rfl) (g' : m (rkey 0x7000 6) = true := by rfl) : RegsKept m s (bumpAt s i j oi oj b n) := by
  unfold bumpAt
  dsimp only
  split
  · exact .refl
  · split
    · exact regsKept_wr s i j _ h
    · exact (regsKept_wr s i j _ h).trans ((regsKept_wr _ oi oj _ g).trans (regsKept_pushSat _ _ h' g'))

theorem regsKept_bump {m : Nat → Bool} (s : State) (i j oj b n : Nat) (h : m (rkey i j) = true)
    (g : m (rkey i oj) = true) (h' : m (rkey 0x7000 5) = true := by rfl) (g' : m (rkey 0x7000 6) = true := by rfl) :
    RegsKept m s (bump s i j oj b n) := regsKept_bumpAt s i j i oj b n h g h' g' 

/-- An agreement in `regs` between numeric entries carries over to reading them. -/
theorem RegsKept.rg {m : Nat → Bool} {s t : State} (h : RegsKept m s t) (hv : t.variant = s.variant) (i j : Nat)
    (hk : m (rkey i j) = false) : rg t i j = rg s i j := by
  simp only [Machine.rg, h _ hk, hv]

theorem countKey_of {i j : Nat} (hj : j < 256) (h : (i == 0x7000 || decide (0x4010 ≤ i ∧ i < 0x4014) ||
    decide (0x7020 ≤ i ∧ i < 0x7024) || decide (0x7840 ≤ i ∧ i < 0x7868) || decide (0x3420 ≤ i ∧ i < 0x3424)) = true) : countKey (rkey i j) = true := by
  unfold countKey rkey
  rw [show (i * 256 + j) / 256 = i by omega]
  exact h

/-! ### Frames of a core's commands -/

theorem CoreFrame.refl {u : Nat} {l : List Field} {s : State} : CoreFrame u l s s :=
  ⟨.refl, fun _ _ => rfl, fun _ h => h, fun _ => .refl, fun q => ⟨(partAt s q).planFault, rfl⟩⟩

theorem CoreFrame.trans {u : Nat} {l : List Field} {s t r : State} (h : CoreFrame u l s t) (g : CoreFrame u l t r) :
    CoreFrame u l s r :=
  ⟨h.fields.trans g.fields, fun v hv => (g.others v hv).trans (h.others v hv), fun e he => h.errs e (g.errs e he),
   fun hf => (h.counts hf).trans (g.counts fun hb e he => hf hb e (h.errs e he)), fun q => by
    obtain ⟨a, ha⟩ := h.parts q
    obtain ⟨b, hb⟩ := g.parts q
    exact ⟨b, by rw [hb, ha]⟩⟩

theorem CoreFrame.mono {u : Nat} {l l' : List Field} {s t : State} (h : CoreFrame u l s t)
    (hl : (coreFields ++ l).all (fun f => decide (f ∈ coreFields ++ l')) = true) : CoreFrame u l' s t :=
  ⟨h.fields.mono hl, h.others, h.errs, fun hf => h.counts fun hb => hf (by
    have := List.all_eq_true.1 hl .blobs (by simp [hb])
    simpa [coreFields] using this), h.parts⟩

/-- A frame that touches none of cores, regs and parts. -/
theorem CoreFrame.plain {u : Nat} {k l : List Field} {s t : State} (h : Touches k s t)
    (hk : k.all (fun f => decide (f ∈ coreFields ++ l)) = true) (hc : t.cores = s.cores) (hr : t.regs = s.regs)
    (hp : t.parts = s.parts) (he : ∀ e ∈ t.ecc, e ∈ s.ecc) : CoreFrame u l s t :=
  ⟨h.mono hk, fun v _ => by simp only [coreAt, hc], he, fun _ => .of_eq hr, fun q => ⟨(partAt s q).planFault, by simp only [partAt, hp]⟩⟩

theorem coreFrame_setCore {u : Nat} {l : List Field} (s : State) (x : CoreSt) : CoreFrame u l s (setCore s u x) :=
  ⟨(touches_setCore s u x).mono (by simp [coreFields]), fun v hv => coreAt_setCore_other s u v x hv, fun _ h => h,
    fun _ => .of_eq rfl,
    fun q => ⟨(partAt s q).planFault, rfl⟩⟩

theorem coreFrame_bumpAt {u : Nat} {l : List Field} (s : State) (i j oi oj b n : Nat) (h : countKey (rkey i j) = true)
    (g : countKey (rkey oi oj) = true) : CoreFrame u l s (bumpAt s i j oi oj b n) :=
  ⟨(touches_bumpAt s i j oi oj b n).mono (by simp [coreFields]),
   fun v _ => by
     have e : (bumpAt s i j oi oj b n).cores = s.cores := (touches_bumpAt s i j oi oj b n).same .cores (by simp)
     simp only [coreAt, e],
   fun e he => by rwa [(show (bumpAt s i j oi oj b n).ecc = s.ecc from (touches_bumpAt s i j oi oj b n).same .ecc (by simp))] at he,
   fun _ => regsKept_bumpAt s i j oi oj b n h g,
   fun q => ⟨(partAt s q).planFault, by
     have e : (bumpAt s i j oi oj b n).parts = s.parts := (touches_bumpAt s i j oi oj b n).same .parts (by simp)
     simp only [partAt, e]⟩⟩

theorem coreFrame_bump {u : Nat} {l : List Field} (s : State) (i j oj b n : Nat) (h : countKey (rkey i j) = true)
    (g : countKey (rkey i oj) = true) : CoreFrame u l s (bump s i j oj b n) := coreFrame_bumpAt s i j i oj b n h g

theorem coreFrame_notePlanFault {u : Nat} {l : List Field} (s : State) (r : LogRec) : CoreFrame u l s (notePlanFault s r) := by
  refine ⟨(touches_notePlanFault s r).mono (by simp [coreFields]), fun v _ => ?_, fun e he => ?_, fun _ => .of_eq ?_, fun q => ?_⟩
  · simp only [coreAt, (show (notePlanFault s r).cores = s.cores from (touches_notePlanFault s r).same .cores (by simp))]
  · rwa [(show (notePlanFault s r).ecc = s.ecc from (touches_notePlanFault s r).same .ecc (by simp))] at he
  · exact (touches_notePlanFault s r).same .regs (by simp)
  · unfold notePlanFault
    dsimp only
    split
    · by_cases hq : q = partLow s (r.unit / 256 % 4)
      · subst hq; exact ⟨true, by simp⟩
      · exact ⟨(partAt s q).planFault, by rw [partAt_setPart_other _ _ _ _ hq]⟩
    · exact ⟨(partAt s q).planFault, rfl⟩

theorem coreFrame_noteDropped {u : Nat} {l : List Field} (s : State) : CoreFrame u l s (noteDropped s) :=
  ⟨(touches_noteDropped s).mono (by simp [coreFields]), fun v _ => congrArg (fun m => (kget m v).getD _) ((touches_noteDropped s).same .cores (by simp)),
    fun e h => by rwa [(touches_noteDropped s).same .ecc (by simp)] at h, fun _ => regsKept_noteDropped s rfl rfl,
    fun q => ⟨(partAt s q).planFault, congrArg (fun m => (kget m q).getD _) ((touches_noteDropped s).same .parts (by simp))⟩⟩

theorem coreFrame_pushSat {u : Nat} {l : List Field} (s : State) (r : LogRec) : CoreFrame u l s (pushSat s r) := by
  unfold pushSat
  split
  · exact coreFrame_noteDropped s
  · refine CoreFrame.plain (k := [.faultq]) (touches_pushRec ..) (by simp [coreFields]) rfl rfl rfl (fun _ h => h)

theorem coreFrame_capture {u : Nat} {l : List Field} (s : State) (r : LogRec) : CoreFrame u l s (capture s r) := by
  unfold capture
  dsimp only
  split
  · refine (coreFrame_notePlanFault s r).trans ?_
    refine CoreFrame.plain (k := [.capSeen, .faultq]) ⟨fun f hf => ?_⟩ (by simp [coreFields]) rfl rfl rfl (fun _ h => h)
    cases f <;> first | rfl | simp at hf
  · exact (coreFrame_notePlanFault s r).trans (coreFrame_noteDropped _)

/-- A frame known by its list of fields alone. -/
theorem CoreFrame.fieldsOnly {u : Nat} {l k : List Field} {s t : State} (h : Touches k s t)
    (hk : k.all (fun f => decide (f ∈ coreFields ++ l)) = true)
    (hn : k.all (fun f => decide (f ≠ .cores ∧ f ≠ .regs ∧ f ≠ .parts ∧ f ≠ .ecc)) = true) : CoreFrame u l s t := by
  have hn' : ∀ f ∈ k, f ≠ .cores ∧ f ≠ .regs ∧ f ≠ .parts ∧ f ≠ .ecc := fun f hf => by simpa using List.all_eq_true.1 hn f hf
  have he : t.ecc = s.ecc := h.same .ecc fun hf => (hn' _ hf).2.2.2 rfl
  exact CoreFrame.plain h hk (h.same .cores fun hf => (hn' _ hf).1 rfl) (h.same .regs fun hf => (hn' _ hf).2.1 rfl)
    (h.same .parts fun hf => (hn' _ hf).2.2.1 rfl) (fun e hm => by rwa [he] at hm)

theorem coreFrame_wr {u : Nat} {l : List Field} (s : State) (i j v : Nat) (h : (Field.blobs ∈ l → ErrsFitted s) → countKey (rkey i j) = true) :
    CoreFrame u l s (wr s i j v) :=
  ⟨(touches_wr ..).mono (by simp [coreFields]), fun _ _ => rfl, fun _ h => h, fun hf => regsKept_wr _ _ _ _ (h hf),
    fun q => ⟨(partAt s q).planFault, rfl⟩⟩

theorem coreFrame_bumpTab {u : Nat} {l : List Field} (s : State) (i j k oj b n : Nat) (hl : Field.blobs ∈ l)
    (g : (Field.blobs ∈ l → ErrsFitted s) → countKey (rkey i oj) = true) : CoreFrame u l s (bumpTab s i j k oj b n) := by
  unfold bumpTab
  dsimp only
  have hb : ∀ t v, CoreFrame u l t (wtab t i j 8 k v) :=
    fun t v => .fieldsOnly (k := [.blobs]) (touches_wtab ..) (by simp [hl]) (by decide)
  split
  · exact .refl
  · split
    · exact hb _ _
    · exact (hb _ countMax).trans (CoreFrame.trans (coreFrame_wr (wtab s i j 8 k countMax) i oj _ g)
        (coreFrame_pushSat _ _))

theorem coreFrame_bumpCorr {u : Nat} {l : List Field} (s : State) (a : Nat) (hl : Field.blobs ∈ l)
    (ha : ErrsFitted s → dieAt a < 4) : CoreFrame u l s (bumpCorr s a) := by
  have hb : ∀ (i j oj b n : Nat), j < 256 → oj < 256 → i ∈ [0x4010, 0x7840, 0x7848] →
      CoreFrame u l s (bump s (i + dieAt a) j oj b n) := by
    intro i j oj b n hj ho hi
    have k : (Field.blobs ∈ l → ErrsFitted s) → ∀ j, j < 256 → countKey (rkey (i + dieAt a) j) = true := by
      intro hf j hj
      have := ha (hf hl)
      exact countKey_of hj (by simp at hi ⊢; omega)
    unfold bump bumpAt
    dsimp only
    split
    · exact .refl
    · split
      · exact coreFrame_wr _ _ _ _ (fun hf => k hf j hj)
      · exact (coreFrame_wr s _ _ _ (fun hf => k hf j hj)).trans ((coreFrame_wr (wr s _ _ _) _ _ _ (fun hf => k hf oj ho)).trans
          (coreFrame_pushSat _ _))
  unfold bumpCorr
  dsimp only
  split <;> first
    | exact hb _ _ _ _ _ (by omega) (by omega) (by simp)
    | refine (hb 0x4010 5 12 4 1 (by omega) (by omega) (by simp)).trans (coreFrame_bumpTab _ _ _ _ _ _ _ hl fun hf => ?_)
  have he : (bump s (0x4010 + dieAt a) 5 12 4 1).ecc = s.ecc := (touches_bump ..).same .ecc (by simp)
  have := ha (fun e hm => hf hl e (by rwa [he]))
  exact countKey_of (by omega) (by simp; omega)

theorem CoreFrame.foldl {α : Type} {u : Nat} {l : List Field} (f : State → α → State) (h : ∀ t a, CoreFrame u l t (f t a))
    (as : List α) (s : State) : CoreFrame u l s (as.foldl f s) := by
  induction as generalizing s with
  | nil => exact .refl
  | cons a r ih => exact (h s a).trans (ih _)

theorem coreFrame_portsFault {u : Nat} {l : List Field} (s : State) (c : Nat) (k : List AddInc) :
    CoreFrame u l s (portsFault s u c k) := by
  unfold portsFault
  refine CoreFrame.foldl _ (fun t a => ?_) _ _
  dsimp only
  split
  · exact .refl
  · exact coreFrame_capture _ _

theorem coreFrame_closeCycle {u : Nat} {l : List Field} (s : State) : CoreFrame u l s (closeCycle s u) := by
  unfold closeCycle
  dsimp only
  split
  · exact coreFrame_setCore _ _
  · exact (coreFrame_setCore _ _).trans (coreFrame_portsFault _ _ _)

theorem coreFrame_closeCycles {u : Nat} {l : List Field} (c n : Nat) : ∀ s : State, CoreFrame u l s (closeCycles s u c n) := by
  induction n with
  | zero => intro s; exact .refl
  | succ n ih =>
    intro s
    unfold closeCycles
    dsimp only
    split
    · exact (coreFrame_closeCycle s).trans (ih _)
    · exact .refl

theorem coreFrame_adderTo {u : Nat} {l : List Field} (s : State) (c : Nat) : CoreFrame u l s (adderTo s u c) := by
  unfold adderTo
  exact (coreFrame_closeCycles _ _ _).trans (coreFrame_setCore _ _)

theorem coreFrame_deliver {u : Nat} {l : List Field} (s : State) (a b c : Nat) : CoreFrame u l s (deliver s u a b c) :=
  coreFrame_setCore _ _

theorem coreFrame_completeAt {u : Nat} {l : List Field} (s : State) (a b : Nat) : CoreFrame u l s (completeAt s u a b) :=
  coreFrame_setCore _ _

theorem coreFrame_signalDone {u : Nat} {l : List Field} (s : State) (a : Nat) (d : QDesc) : CoreFrame u l s (signalDone s u a d) := by
  unfold signalDone
  refine CoreFrame.trans ?_ (coreFrame_completeAt _ _ _)
  split
  · exact coreFrame_deliver _ _ _ _
  · exact .refl

theorem coreFrame_settle {u : Nat} {l : List Field} (s : State) (c : Nat) : CoreFrame u l s (settle s u c) := by
  unfold settle
  refine (coreFrame_setCore _ _).trans (CoreFrame.trans (CoreFrame.foldl _ (fun t a => ?_) _ _) (coreFrame_adderTo _ _))
  exact (coreFrame_adderTo _ _).trans (coreFrame_signalDone _ _ _)

theorem coreFrame_meetThrottle {u : Nat} {l : List Field} (s : State) : CoreFrame u l s (meetThrottle s u) := by
  unfold meetThrottle
  split
  · exact .refl
  · exact coreFrame_setCore _ _

theorem coreFrame_bumpSlip {u : Nat} {l : List Field} (s : State) (cat n : Nat) (hu : dieOf u < 4) :
    CoreFrame u l s (bumpSlip s u cat n) := by
  unfold bumpSlip
  dsimp only
  split <;> exact coreFrame_bump _ _ _ _ _ _ (countKey_of (by omega) (by simp; omega)) (countKey_of (by omega) (by simp; omega))

theorem coreFrame_countSlip {u : Nat} {l : List Field} (s : State) (q : QDesc) (k : Nat) (hu : dieOf u < 4) :
    CoreFrame u l s (countSlip s u q k) := by
  unfold countSlip
  exact (coreFrame_bumpSlip _ _ _ hu).trans ((coreFrame_bumpSlip _ _ _ hu).trans
    ((coreFrame_bumpSlip _ _ _ hu).trans (coreFrame_bumpSlip _ _ _ hu)))

theorem touches_bumpSlip (t : State) (u k n : Nat) : Touches [.regs, .faultq] t (bumpSlip t u k n) := by
  unfold bumpSlip
  dsimp only
  split <;> exact touches_bump ..

/-- Counting slip changes counts and adds records, nothing else. -/
theorem touches_countSlip (s : State) (u : Nat) (q : QDesc) (k : Nat) : Touches [.regs, .faultq] s (countSlip s u q k) := by
  unfold countSlip
  exact (touches_bumpSlip ..).trans ((touches_bumpSlip ..).trans ((touches_bumpSlip ..).trans (touches_bumpSlip ..)))

theorem pushSat_eq (s : State) (r : LogRec) : ∃ g q, pushSat s r = { s with regs := g, faultq := q } := by
  unfold pushSat noteDropped
  dsimp only
  split
  · split
    · exact ⟨s.regs, s.faultq, rfl⟩
    · split
      · exact ⟨_, s.faultq, rfl⟩
      · exact ⟨_, _, rfl⟩
  · exact ⟨s.regs, _, rfl⟩

theorem bumpAt_eq (s : State) (i j oi oj b n : Nat) : ∃ g q, bumpAt s i j oi oj b n = { s with regs := g, faultq := q } := by
  unfold bumpAt
  dsimp only
  split
  · exact ⟨s.regs, s.faultq, rfl⟩
  · split
    · exact ⟨_, s.faultq, rfl⟩
    · obtain ⟨g, q, h⟩ := pushSat_eq (wr (wr s i j countMax) oi oj (rg (wr s i j countMax) oi oj ||| 2 ^ b)) (satRec s i j)
      exact ⟨g, q, h⟩

theorem bumpSlip_eq (s : State) (u k n : Nat) : ∃ g q, bumpSlip s u k n = { s with regs := g, faultq := q } := by
  unfold bumpSlip
  dsimp only
  split <;> exact bumpAt_eq ..

theorem touches_bumpCorr (s : State) (a : Nat) : Touches [.regs, .blobs, .faultq] s (bumpCorr s a) := by
  unfold bumpCorr
  dsimp only
  split <;> first
    | exact (touches_bump ..).mono rfl
    | exact ((touches_bump ..).mono rfl).trans (touches_bumpTab ..)

theorem touches_errorRec (s : State) (u e a c t x : Nat) :
    Touches [.parts, .capSeen, .faultq, .regs] s (errorRec s u e a c t x) := by
  unfold errorRec
  exact .ite (touches_capture ..) (touches_capture ..)

theorem touches_readErrors (s : State) (u e a n c t x : Nat) :
    Touches [.parts, .capSeen, .faultq, .regs, .blobs] s (readErrors s u e a n c t x) := by
  unfold readErrors
  exact Touches.foldl _ (fun t a => .ite ((touches_errorRec ..).mono rfl) ((touches_bumpCorr ..).mono rfl)) _ _

theorem coreFrame_errorRec {u : Nat} {l : List Field} (s : State) (e a c t x : Nat) :
    CoreFrame u l s (errorRec s u e a c t x) := by
  unfold errorRec
  split <;> exact coreFrame_capture _ _

/-- A list of error words, each counted or logged. -/
theorem coreFrame_errList {u : Nat} {l : List Field} (hl : Field.blobs ∈ l) (f : State → Nat × Nat → State)
    (hf : ∀ (t : State) (e : Nat × Nat), f t e = bumpCorr t e.1 ∨ ∃ a b c d, f t e = errorRec t u a e.1 b c d)
    (L : List (Nat × Nat)) (s : State) (hL : ∀ e ∈ L, e ∈ s.ecc) : CoreFrame u l s (L.foldl f s) := by
  induction L generalizing s with
  | nil => exact .refl
  | cons e r ih =>
    have he : (f s e).ecc = s.ecc ∧ CoreFrame u l s (f s e) := by
      rcases hf s e with h | ⟨a, b, c, d, h⟩
      · rw [h]
        exact ⟨(touches_bumpCorr ..).same .ecc (by simp), coreFrame_bumpCorr _ _ hl fun hf => hf e (hL e (by simp))⟩
      · rw [h]
        exact ⟨(touches_errorRec ..).same .ecc (by simp), coreFrame_errorRec _ _ _ _ _ _⟩
    exact he.2.trans (ih _ fun e' h' => by rw [he.1]; exact hL e' (by simp [h']))

theorem coreFrame_readErrors {u : Nat} {l : List Field} (s : State) (e a n c t x : Nat) (hl : Field.blobs ∈ l) :
    CoreFrame u l s (readErrors s u e a n c t x) := by
  unfold readErrors
  refine coreFrame_errList hl _ (fun y k => ?_) _ _ (fun e he => ?_)
  · by_cases h : k.2 = 2
    · exact .inr ⟨e, c, t, x, by simp [h]⟩
    · exact .inl (by simp [h])
  · unfold eccIn at he
    split at he
    · simp at he
    · exact List.mem_of_mem_filter he

/-- A core of the package lies on one of four dies. -/
theorem dieOf_lt {s : State} {u : Nat} (h : u < coresOf s.variant) : dieOf u < 4 := by
  have : coresOf s.variant ≤ 768 := by cases s.variant <;> decide
  unfold dieOf
  omega

/-- The outcome of a powered core's command. -/
theorem onCore_next {s t : State} {u : Nat} (hp : s.powered = true) (hu : u < coresOf s.variant) :
    onCore s u t = .next { t with pending := s.pending, variant := s.variant,
                                  alertN := decide (rg { t with variant := s.variant } 0x5008 9 ≠ 0) } := by
  simp [onCore, done, doneAny, hp, hu]

/-- Ending a command adds nothing to its frame. -/
theorem CoreFrame.ended {u : Nat} {l : List Field} {s t : State} (h : CoreFrame u l s t) (a : Bool)
    (hl : (coreFields ++ l).all (fun f => decide (f ≠ .pending ∧ f ≠ .variant)) = true) :
    CoreFrame u l s { t with pending := s.pending, variant := s.variant, alertN := a } := by
  have hv : ∀ f, f ∈ coreFields ++ l → f ≠ .pending ∧ f ≠ .variant := fun f hf => by simpa using List.all_eq_true.1 hl f hf
  refine ⟨⟨fun f hf => ?_⟩, h.others, h.errs, h.counts, h.parts⟩
  have g := h.fields.same f hf
  cases f <;> first | rfl | exact g | (exact absurd (by simp [coreFields]) hf)

end Sys2Proof
end

