-- ==== Sys2Proof/Laws/Crypto.lean ====
section
/-! SUPPORT. The lengths that digests and ciphers keep. -/

namespace Sys2Proof

theorem leBytes_length (n v : Nat) : (leBytes n v).length = n := by
  induction n generalizing v with
  | zero => rfl
  | succ n ih => simp [leBytes, ih]

@[simp] theorem beBytes_length (n v : Nat) : (beBytes n v).length = n := by simp [beBytes, leBytes_length]

/-- A round keeps eight working variables. -/
theorem Sha.round_length (v : List (BitVec 64)) (kw : BitVec 64) (h : v.length = 8) : (Sha.round v kw).length = 8 := by
  match v, h with
  | [_, _, _, _, _, _, _, _], _ => rfl

theorem Sha.rounds_length (l : List (BitVec 64 × BitVec 64)) (v : List (BitVec 64)) (h : v.length = 8) :
    (l.foldl (fun v x => Sha.round v (x.1 + x.2)) v).length = 8 := by
  induction l generalizing v with
  | nil => exact h
  | cons x r ih => exact ih _ (Sha.round_length v _ h)

theorem Sha.block_length (h : List (BitVec 64)) (l : List Byte) (hh : h.length = 8) : (Sha.block h l).length = 8 := by
  simp only [Sha.block, List.length_map, List.length_zip, Sha.rounds_length _ h hh, hh, Nat.min_self]

theorem Sha.blocks_length (n : Nat) (h : List (BitVec 64)) (l : List Byte) (hh : h.length = 8) : (Sha.blocks n h l).length = 8 := by
  induction n generalizing h l with
  | zero => exact hh
  | succ n ih => rw [Sha.blocks]; exact ih (Sha.block h (l.take 128)) (l.drop 128) (Sha.block_length h _ hh)

/-- A digest is 48 bytes long (R178, R459). -/
theorem sha384_length (l : List Byte) : (sha384 l).length = 48 := by
  have h := Sha.blocks_length ((Sha.pad l).length / 128) Sha.init (Sha.pad l) (by decide)
  have e : ∀ w : List (BitVec 64), ((w.map (fun (x : BitVec 64) => beBytes 8 x.toNat)).flatten).length = 8 * w.length := by
    intro w; induction w with
    | nil => rfl
    | cons x r ih => simp only [List.map_cons, List.flatten_cons, List.length_append, beBytes_length, ih, List.length_cons]; omega
  unfold sha384
  rw [e, List.length_take, h]
  norm_num

theorem xorBytes_length (a b : List Byte) : (xorBytes a b).length = min a.length b.length := by simp [xorBytes]

/-- A block stays a block under a whole key schedule. -/
theorem Aes.cipher_length (ks : List (List Byte)) (l : List Byte) (h : (ks.getD 14 []).length = 16) : (Aes.cipher ks l).length = 16 := by
  simp only [Aes.cipher, xorBytes_length, h, Aes.shiftRows, List.length_map, List.length_range, Nat.min_self]

/-- Counter mode keeps the length of a text (R564). -/
theorem Gcm.ctr_length (ks : List (List Byte)) (iv : List Byte) (h : (ks.getD 14 []).length = 16) (n c : Nat) (l : List Byte)
    (hl : l.length ≤ 16 * n) : (Gcm.ctr ks iv n c l).length = l.length := by
  induction n generalizing c l with
  | zero => simp [Gcm.ctr]; omega
  | succ n ih =>
    rw [Gcm.ctr, List.length_append, ih _ _ (by simp; omega), xorBytes_length, Aes.cipher_length _ _ h, List.length_take, List.length_drop]
    omega

theorem Gcm.crypt_length (key iv l : List Byte) (h : ((Aes.keys key).getD 14 []).length = 16) : (Gcm.crypt key iv l).length = l.length :=
  Gcm.ctr_length _ _ h _ _ _ (by omega)

end Sys2Proof
end

