-- ==== Sys2Proof/Laws/Sha.lean ====
section
/-! SUPPORT. SHA-384 over long runs of zeros, on numbers: the same blocks in a form that the kernel evaluates fast. -/

namespace Sys2Proof

/-- A rotation, in a number that repeats the word. -/
theorem Sha.rot_nat (x : BitVec 64) (r : Nat) (h : r < 64) : (x.rotateRight r).toNat = ((x.toNat * 18446744073709551617) >>> r) % 2 ^ 64 := by
  apply Nat.eq_of_testBit_eq
  intro i
  have hx := x.isLt
  have e : x.toNat * 18446744073709551617 = x.toNat <<< 64 ||| x.toNat := by
    rw [← Nat.shiftLeft_add_eq_or_of_lt hx, Nat.shiftLeft_eq]; omega
  have ht : ∀ j, x.toNat.testBit j = x.getLsbD j := fun _ => rfl
  rw [e]
  simp only [Nat.testBit_mod_two_pow, Nat.testBit_shiftRight, Nat.testBit_or, Nat.testBit_shiftLeft, ht]
  rw [show (x.rotateRight r).toNat.testBit i = (x.rotateRight r).getLsbD i from rfl, BitVec.getLsbD_rotateRight, Nat.mod_eq_of_lt h]
  by_cases hi : i < 64
  · by_cases hr : i < 64 - r
    · have : ¬ (r + i ≥ 64) := by omega
      simp [hi, hr, this]
    · have h1 : r + i ≥ 64 := by omega
      have h2 : r + i - 64 = i - (64 - r) := by omega
      simp [hi, hr, h1, h2]
  · have : ¬ i < 64 - r := by omega
    simp [hi, this]

/-- The choice of a round with three operations. -/
theorem Sha.ch_eq (e f g : BitVec 64) : (e &&& f) ^^^ (~~~e &&& g) = g ^^^ (e &&& (f ^^^ g)) := by
  ext i hi; simp; cases e[i] <;> cases f[i] <;> cases g[i] <;> rfl

/-- The majority of a round with four operations. -/
theorem Sha.maj_eq (x y z : BitVec 64) : (x &&& y) ^^^ (x &&& z) ^^^ (y &&& z) = (x &&& y) ||| (z &&& (x ||| y)) := by
  ext i hi; simp; cases x[i] <;> cases y[i] <;> cases z[i] <;> rfl

/-- A function of the value of a number, so that the kernel finds the value first. -/
def Sha.force (n : Nat) (f : Nat → Nat) : Nat := Nat.rec (f 0) (fun k _ => f (Nat.succ k)) n
theorem Sha.force_eq (n f) : Sha.force n f = f n := by cases n <;> rfl

/-- Word `i` of a packed state, the last word at 0. -/
def Sha.word (v i : Nat) : Nat := v / 18446744073709551616 ^ i % 18446744073709551616
/-- Eight words packed come apart again. -/
theorem Sha.pack_word (a b c d e f g h : Nat) (ha : a < 2^64) (hb : b < 2^64) (hc : c < 2^64) (hd : d < 2^64) (he : e < 2^64) (hf : f < 2^64) (hg : g < 2^64) (hh : h < 2^64) :
  let p := (((((((a * 18446744073709551616 + b) * 18446744073709551616 + c) * 18446744073709551616 + d) * 18446744073709551616 + e) * 18446744073709551616 + f) * 18446744073709551616 + g) * 18446744073709551616 + h)
  Sha.word p 0 = h ∧ Sha.word p 1 = g ∧ Sha.word p 2 = f ∧ Sha.word p 3 = e ∧ Sha.word p 4 = d ∧ Sha.word p 5 = c ∧ Sha.word p 6 = b ∧ Sha.word p 7 = a := by
  intro p
  simp only [Sha.word, p]
  norm_num only
  omega

/-- Rounds on eight words kept as numbers, packed at the end. -/
def Sha.natRounds : List Nat → Nat → Nat → Nat → Nat → Nat → Nat → Nat → Nat → Nat
  | [], a, b, c, d, e, f, g, h =>
    Nat.add (Nat.mul (Nat.add (Nat.mul (Nat.add (Nat.mul (Nat.add (Nat.mul (Nat.add (Nat.mul (Nat.add (Nat.mul (Nat.add (Nat.mul a
      18446744073709551616) b) 18446744073709551616) c) 18446744073709551616) d) 18446744073709551616) e) 18446744073709551616) f)
      18446744073709551616) g) 18446744073709551616) h
  | k :: r, a, b, c, d, e, f, g, h =>
    Sha.force (Nat.mul e 18446744073709551617) (fun e2 =>
    Sha.force (Nat.add (Nat.add h k) (Nat.add (Nat.xor g (Nat.land e (Nat.xor f g)))
      (Nat.mod (Nat.xor (Nat.xor (Nat.shiftRight e2 14) (Nat.shiftRight e2 18)) (Nat.shiftRight e2 41)) 18446744073709551616))) (fun t1 =>
    Sha.force (Nat.mul a 18446744073709551617) (fun a2 =>
    Sha.force (Nat.mod (Nat.add d t1) 18446744073709551616) (fun e' =>
    Sha.force (Nat.mod (Nat.add t1 (Nat.add (Nat.lor (Nat.land a b) (Nat.land c (Nat.lor a b)))
      (Nat.mod (Nat.xor (Nat.xor (Nat.shiftRight a2 28) (Nat.shiftRight a2 34)) (Nat.shiftRight a2 39)) 18446744073709551616))) 18446744073709551616) (fun a' =>
    Sha.natRounds r a' a b c e' e f g)))))

/-- Three rotations added bit by bit. -/
theorem Sha.sum_nat (x : BitVec 64) (i j k : Nat) (hi : i < 64) (hj : j < 64) (hk : k < 64) :
    (x.rotateRight i ^^^ x.rotateRight j ^^^ x.rotateRight k).toNat =
      Nat.mod (Nat.xor (Nat.xor (Nat.shiftRight (Nat.mul x.toNat 18446744073709551617) i) (Nat.shiftRight (Nat.mul x.toNat 18446744073709551617) j))
        (Nat.shiftRight (Nat.mul x.toNat 18446744073709551617) k)) 18446744073709551616 := by
  rw [BitVec.toNat_xor, BitVec.toNat_xor, Sha.rot_nat x i hi, Sha.rot_nat x j hj, Sha.rot_nat x k hk]
  exact ((Nat.xor_mod_two_pow (n := 64)).trans (congrArg (· ^^^ _) Nat.xor_mod_two_pow)).symm

/-- The eight words of a packed state. -/
def Sha.words (v : Nat) : List (BitVec 64) := [BitVec.ofNat 64 (Sha.word v 7), BitVec.ofNat 64 (Sha.word v 6), BitVec.ofNat 64 (Sha.word v 5), BitVec.ofNat 64 (Sha.word v 4),
  BitVec.ofNat 64 (Sha.word v 3), BitVec.ofNat 64 (Sha.word v 2), BitVec.ofNat 64 (Sha.word v 1), BitVec.ofNat 64 (Sha.word v 0)]

/-- One round, with those forms of its functions. -/
theorem Sha.round_eq (a b c d e f g h k : BitVec 64) : Sha.round [a, b, c, d, e, f, g, h] k =
    [h + (e.rotateRight 14 ^^^ e.rotateRight 18 ^^^ e.rotateRight 41) + (g ^^^ (e &&& (f ^^^ g))) + k +
      ((a.rotateRight 28 ^^^ a.rotateRight 34 ^^^ a.rotateRight 39) + ((a &&& b) ||| (c &&& (a ||| b)))), a, b, c,
     d + (h + (e.rotateRight 14 ^^^ e.rotateRight 18 ^^^ e.rotateRight 41) + (g ^^^ (e &&& (f ^^^ g))) + k), e, f, g] := by
  rw [← Sha.ch_eq, ← Sha.maj_eq]; rfl

/-- They are the rounds of the definition. -/
theorem Sha.natRounds_eq (ks : List (BitVec 64)) (a b c d e f g h : BitVec 64) :
    Sha.words (Sha.natRounds (ks.map BitVec.toNat) a.toNat b.toNat c.toNat d.toNat e.toNat f.toNat g.toNat h.toNat) =
      ks.foldl (fun v k => Sha.round v k) [a, b, c, d, e, f, g, h] := by
  induction ks generalizing a b c d e f g h with
  | nil =>
    have p := Sha.pack_word a.toNat b.toNat c.toNat d.toNat e.toNat f.toNat g.toNat h.toNat a.isLt b.isLt c.isLt d.isLt e.isLt f.isLt g.isLt h.isLt
    obtain ⟨p0, p1, p2, p3, p4, p5, p6, p7⟩ := p
    simp only [List.map_nil, Sha.natRounds, Sha.words, List.foldl_nil]
    simp only [Nat.add_eq, Nat.mul_eq] at *
    rw [p0, p1, p2, p3, p4, p5, p6, p7]
    simp only [BitVec.ofNat_toNat, BitVec.setWidth_eq]
  | cons k r ih =>
    simp only [List.map_cons, Sha.natRounds, Sha.force_eq, List.foldl_cons]
    rw [Sha.round_eq, ← ih]
    have s1 := Sha.sum_nat e 14 18 41 (by decide) (by decide) (by decide)
    have s0 := Sha.sum_nat a 28 34 39 (by decide) (by decide) (by decide)
    have hch : (g ^^^ (e &&& (f ^^^ g))).toNat = Nat.xor g.toNat (Nat.land e.toNat (Nat.xor f.toNat g.toNat)) := by
      simp only [BitVec.toNat_xor, BitVec.toNat_and]; rfl
    have hmaj : ((a &&& b) ||| (c &&& (a ||| b))).toNat = Nat.lor (Nat.land a.toNat b.toNat) (Nat.land c.toNat (Nat.lor a.toNat b.toNat)) := by
      simp only [BitVec.toNat_or, BitVec.toNat_and]; rfl
    rw [← s1, ← s0, ← hch, ← hmaj]
    generalize e.rotateRight 14 ^^^ e.rotateRight 18 ^^^ e.rotateRight 41 = S1
    generalize a.rotateRight 28 ^^^ a.rotateRight 34 ^^^ a.rotateRight 39 = S0
    generalize g ^^^ (e &&& (f ^^^ g)) = ch
    generalize (a &&& b) ||| (c &&& (a ||| b)) = mj
    congr 2
    · simp only [BitVec.toNat_add, Nat.add_eq]
      show (_ : Nat) % 18446744073709551616 = _
      omega
    · simp only [BitVec.toNat_add, Nat.add_eq]
      show (_ : Nat) % 18446744073709551616 = _
      omega

/-- Words added one by one. -/
def Sha.addWords (x y : Nat) : Nat :=
  ((((((((Sha.word x 7 + Sha.word y 7) % 18446744073709551616) * 18446744073709551616 + (Sha.word x 6 + Sha.word y 6) % 18446744073709551616) * 18446744073709551616 +
    (Sha.word x 5 + Sha.word y 5) % 18446744073709551616) * 18446744073709551616 + (Sha.word x 4 + Sha.word y 4) % 18446744073709551616) * 18446744073709551616 +
    (Sha.word x 3 + Sha.word y 3) % 18446744073709551616) * 18446744073709551616 + (Sha.word x 2 + Sha.word y 2) % 18446744073709551616) * 18446744073709551616 +
    (Sha.word x 1 + Sha.word y 1) % 18446744073709551616) * 18446744073709551616 + (Sha.word x 0 + Sha.word y 0) % 18446744073709551616

/-- Packed states add word by word. -/
theorem Sha.addWords_eq (x y : Nat) : Sha.words (Sha.addWords x y) = (List.zip (Sha.words x) (Sha.words y)).map (fun e => e.1 + e.2) := by
  have l : ∀ n, n % 18446744073709551616 < 2 ^ 64 := fun n => Nat.mod_lt n (by decide)
  obtain ⟨p0, p1, p2, p3, p4, p5, p6, p7⟩ := Sha.pack_word _ _ _ _ _ _ _ _ (l (Sha.word x 7 + Sha.word y 7)) (l (Sha.word x 6 + Sha.word y 6)) (l (Sha.word x 5 + Sha.word y 5)) (l (Sha.word x 4 + Sha.word y 4))
    (l (Sha.word x 3 + Sha.word y 3)) (l (Sha.word x 2 + Sha.word y 2)) (l (Sha.word x 1 + Sha.word y 1)) (l (Sha.word x 0 + Sha.word y 0))
  have q : ∀ a b : Nat, BitVec.ofNat 64 ((a + b) % 18446744073709551616) = BitVec.ofNat 64 a + BitVec.ofNat 64 b := fun a b => by
    apply BitVec.eq_of_toNat_eq; simp [BitVec.toNat_add]
  unfold Sha.addWords
  simp only [Sha.words, p0, p1, p2, p3, p4, p5, p6, p7, q, List.zip_cons_cons, List.map_cons, List.zip_nil_left, List.map_nil]

/-- The round constants as numbers. -/
def Sha.natK : List Nat := Sha.k.map BitVec.toNat

/-- Blocks of zeros. -/
def Sha.zeroBlocks : Nat → Nat → Nat
  | 0, v => v
  | n + 1, v => Sha.force (Sha.addWords v (Sha.natRounds Sha.natK (Sha.word v 7) (Sha.word v 6) (Sha.word v 5) (Sha.word v 4) (Sha.word v 3) (Sha.word v 2) (Sha.word v 1) (Sha.word v 0))) (fun u => Sha.zeroBlocks n u)

/-- Round constants beside a schedule of zeros. -/
theorem Sha.zip_zeros (n : Nat) (l : List (BitVec 64)) (h : l.length ≤ n) : List.zip l (List.replicate n (0#64)) = l.map (fun x => (x, 0#64)) := by
  apply List.ext_getElem
  · simp; omega
  · intro i h1 h2; simp

/-- The schedule of a block of zeros. -/
theorem Sha.zero_schedule : (Sha.schedule 64 ((List.range 16).map (fun i => BitVec.ofNat 64 (beNat (((List.replicate 128 (0 : Byte)).drop (8 * i)).take 8)))).reverse).reverse =
    List.replicate 80 (0#64) := by decide +kernel

/-- A block of zeros on a packed state. -/
theorem Sha.zero_block (v : Nat) : Sha.block (Sha.words v) (List.replicate 128 0) =
    Sha.words (Sha.addWords v (Sha.natRounds Sha.natK (Sha.word v 7) (Sha.word v 6) (Sha.word v 5) (Sha.word v 4) (Sha.word v 3) (Sha.word v 2) (Sha.word v 1) (Sha.word v 0))) := by
  have lw : ∀ i, (BitVec.ofNat 64 (Sha.word v i)).toNat = Sha.word v i := fun i => by
    rw [BitVec.toNat_ofNat]; exact Nat.mod_eq_of_lt (Nat.mod_lt _ (by decide))
  have z := Sha.natRounds_eq Sha.k (BitVec.ofNat 64 (Sha.word v 7)) (BitVec.ofNat 64 (Sha.word v 6)) (BitVec.ofNat 64 (Sha.word v 5)) (BitVec.ofNat 64 (Sha.word v 4))
    (BitVec.ofNat 64 (Sha.word v 3)) (BitVec.ofNat 64 (Sha.word v 2)) (BitVec.ofNat 64 (Sha.word v 1)) (BitVec.ofNat 64 (Sha.word v 0))
  simp only [lw] at z
  rw [Sha.addWords_eq, Sha.natK, z]
  simp only [Sha.block, Sha.zero_schedule]
  rw [Sha.zip_zeros 80 Sha.k (by decide), List.foldl_map]
  simp only [BitVec.add_zero]
  rfl

/-- Blocks of zeros at the start of a text. -/
theorem Sha.zeroBlocks_eq (n v : Nat) (l : List Byte) : Sha.blocks n (Sha.words v) (List.replicate (128 * n) 0 ++ l) = Sha.words (Sha.zeroBlocks n v) := by
  induction n generalizing v with
  | zero => rfl
  | succ n ih =>
    rw [Sha.zeroBlocks, Sha.force_eq, ← ih, Sha.blocks, show 128 * (n + 1) = 128 + 128 * n by omega, List.replicate_add, List.append_assoc,
      List.take_left' (by simp), List.drop_left' (by simp), Sha.zero_block]

/-- Blocks one after another. -/
theorem Sha.blocks_add (a b : Nat) (h : List (BitVec 64)) (x y : List Byte) (hx : x.length = 128 * a) :
    Sha.blocks (a + b) h (x ++ y) = Sha.blocks b (Sha.blocks a h x) y := by
  induction a generalizing h x with
  | zero => have : x = [] := by simpa using hx
            subst this; simp [Sha.blocks]
  | succ a ih =>
    have hl : 128 ≤ x.length := by omega
    rw [show a + 1 + b = (a + b) + 1 by omega, Sha.blocks, Sha.blocks, List.take_append_of_le_length hl, List.drop_append_of_le_length hl,
      ih _ _ (by rw [List.length_drop]; omega)]

end Sys2Proof
end

