-- ==== Sys2Proof/Laws/Time.lean ====
section
/-! SUPPORT. What the passing of cycles within a beat can do, operation by operation: the fields that it may change, and the form of the
memories, which it keeps. -/

namespace Sys2Proof

open Machine

/-! ### Fields -/

theorem touches_countAct (s : State) (d c ph n : Nat) : Touches [.act] s (countAct s d c ph n) := by
  exact ⟨fun f hf => by cases f <;> first | rfl | simp at hf⟩

theorem touches_useBanks (s : State) (l : List (Nat × Nat)) : Touches [.bankUse] s (useBanks s l) := by
  exact ⟨fun f hf => by cases f <;> first | rfl | simp at hf⟩

theorem touches_portsFault (s : State) (u c : Nat) (l : List AddInc) :
    Touches [.parts, .capSeen, .faultq, .regs] s (portsFault s u c l) := by
  unfold portsFault
  exact Touches.foldl _ (fun t k => .ite .refl (touches_capture ..)) _ _

theorem touches_closeCycle (s : State) (u : Nat) : Touches [.cores, .parts, .capSeen, .faultq, .regs] s (closeCycle s u) := by
  unfold closeCycle
  exact .ite ((touches_setCore ..).mono rfl) (((touches_setCore ..).mono rfl).trans ((touches_portsFault ..).mono rfl))

theorem touches_closeCycles (u c n : Nat) : ∀ s : State, Touches [.cores, .parts, .capSeen, .faultq, .regs] s (closeCycles s u c n) := by
  induction n with
  | zero => intro s; exact .refl
  | succ n ih =>
    intro s
    unfold closeCycles
    exact .ite ((touches_closeCycle s u).trans (ih _)) .refl

theorem touches_adderTo (s : State) (u c : Nat) : Touches [.cores, .parts, .capSeen, .faultq, .regs] s (adderTo s u c) := by
  unfold adderTo
  exact (touches_closeCycles ..).trans ((touches_setCore ..).mono rfl)

theorem touches_signalDone (s : State) (u a : Nat) (d : QDesc) : Touches [.cores] s (signalDone s u a d) := by
  unfold signalDone
  refine Touches.trans ?_ (touches_setCore ..)
  exact .ite ((touches_setCore ..).mono rfl) .refl

/-- The fields that settling a core may change. -/
def settleFields : List Field := [.cores, .parts, .capSeen, .faultq, .regs]

theorem touches_settle (s : State) (u c : Nat) : Touches settleFields s (settle s u c) := by
  unfold settle
  refine ((touches_setCore ..).mono rfl).trans (Touches.trans (Touches.foldl _ (fun t k => ?_) _ _) ((touches_adderTo ..).mono rfl))
  exact ((touches_adderTo ..).mono rfl).trans ((touches_signalDone ..).mono rfl)

theorem touches_meetThrottle (s : State) (u : Nat) : Touches [.cores] s (meetThrottle s u) := by
  unfold meetThrottle
  exact .ite .refl (touches_setCore ..)

theorem touches_bareErrors (s : State) (a n : Nat) : Touches [.parts, .capSeen, .faultq, .regs, .blobs] s (bareErrors s a n) := by
  unfold bareErrors
  exact Touches.foldl _ (fun t e => .ite ((touches_capture ..).mono rfl) ((touches_bumpCorr ..).mono rfl)) _ _

/-! ### The engines' cycle -/

theorem touches_setEcc (x : State) (e : KMap Nat) : Touches [.ecc] x { x with ecc := e } := by
  exact ⟨fun f hf => by cases f <;> first | rfl | simp at hf⟩

/-- The fields that an engine's cycle may change. -/
def engineFields : List Field := [.cores, .act, .ecc, .parts, .capSeen, .faultq, .regs, .blobs, .rems]

theorem touches_writeSlot (s : State) (u t k v : Nat) : Touches engineFields s (writeSlot s u t k v) := by
  unfold writeSlot
  exact ((touches_setCore ..).mono rfl).trans ((touches_setEcc ..).mono rfl)

theorem touches_foldCell (u : Nat) (f : Fold) (a : State × MmRun) (i j : Nat) : Touches engineFields a.1 (foldCell u f a i j).1 := by
  unfold foldCell
  dsimp only
  split
  · exact touches_writeSlot ..
  · split
    · exact touches_writeSlot ..
    · exact ((touches_readErrors ..).mono rfl).trans (touches_writeSlot ..)

/-- A fold that carries the state keeps within a frame when each of its steps does. -/
theorem Touches.foldPair {α β : Type} {l : List Field} (f : State × β → α → State × β) (h : ∀ a k, Touches l a.1 (f a k).1) (as : List α)
    (a : State × β) : Touches l a.1 (as.foldl f a).1 := by
  induction as generalizing a with
  | nil => exact .refl
  | cons k r ih => exact (h a k).trans (ih _)

theorem touches_foldRow (u : Nat) (f : Fold) (a : State × MmRun) (i : Nat) : Touches engineFields a.1 (foldRow u f a i).1 := by
  unfold foldRow
  dsimp only
  have h : ∀ b : State × MmRun, Touches engineFields a.1 b.1 → Touches engineFields a.1
      (if dM a.2.d.raw ≤ i then b else (List.range (dN a.2.d.raw)).foldl (fun a j => foldCell u f a i j) b).1 := by
    intro b hb
    split
    · exact hb
    · exact hb.trans (Touches.foldPair _ (fun a k => touches_foldCell ..) _ _)
  apply h
  split
  · exact ((touches_setCore ..).mono rfl).trans ((touches_setEcc ..).mono rfl)
  · exact .refl

theorem touches_foldCycle (u p : Nat) (a : State × MmRun) : Touches engineFields a.1 (foldCycle u p a).1 := by
  unfold foldCycle
  dsimp only
  refine Touches.foldPair _ (fun b k => ?_) _ _
  split
  · exact Touches.foldPair _ (fun a k => touches_foldRow ..) _ _
  · exact .refl

theorem touches_tileRead (u p : Nat) (a : State × MmRun) : Touches engineFields a.1 (tileRead u p a).1 := by
  unfold tileRead
  dsimp only
  split
  · exact .refl
  · refine Touches.foldPair _ (fun b k => ?_) _ _
    split
    · exact .refl
    · exact (touches_readErrors ..).mono rfl

theorem touches_mmTag (u p : Nat) (a : State × MmRun) : Touches engineFields a.1 (mmTag u p a).1 := by
  unfold mmTag
  dsimp only
  split
  · exact (touches_setCore ..).mono rfl
  · exact .refl

theorem touches_mmCycle (s : State) (u : Nat) (r : MmRun) : Touches engineFields s (mmCycle s u r).1 := by
  unfold mmCycle
  dsimp only
  split
  · exact .refl
  · refine Touches.trans ?_ ((touches_tileRead ..).trans ((touches_foldCycle ..).trans (touches_mmTag ..)))
    have h : ∀ L : List (Nat × Nat × Nat), Touches engineFields s
        (L.foldl (fun t k => readErrors t u 1 k.1 k.2.1 r.d.cnt (dTag r.d.raw) k.2.2) s) :=
      fun L => Touches.foldl _ (fun t k => (touches_readErrors ..).mono rfl) _ _
    have g : ∀ c ph n, Touches engineFields s (countAct (((mmRanges u r.d.raw r.pos).foldl
        (fun t k => readErrors t u 1 k.1 k.2.1 r.d.cnt (dTag r.d.raw) k.2.2) s)) (dieOf u) c ph n) :=
      fun c ph n => (h _).trans ((touches_countAct ..).mono rfl)
    exact .ite ((g ..).trans (((touches_countAct ..).mono rfl).trans ((touches_bumpUnits ..).mono rfl))) (g ..)

theorem touches_vxErrors (s : State) (u : Nat) (r : VxRun) : Touches engineFields s (vxErrors s u r).1 := by
  unfold vxErrors
  split
  · exact .refl
  · refine Touches.foldPair (a := (s, r)) _ (fun a k => ?_) _
    split
    · exact .refl
    · exact .ite ((touches_errorRec ..).mono rfl) ((touches_bumpCorr ..).mono rfl)

theorem touches_vxCycle (s : State) (u : Nat) (r : VxRun) : Touches engineFields s (vxCycle s u r).1 := by
  unfold vxCycle
  dsimp only
  split
  · exact .refl
  · exact ((touches_vxErrors ..).trans (.ite ((touches_bumpUnits ..).mono rfl) .refl)).trans
      (((touches_countAct ..).mono rfl).trans ((touches_countAct ..).mono rfl))

theorem touches_mmAll (u : Nat) : ∀ (l : List (MmRun × Bool × List (Nat × Nat))) (s : State) (use : KMap Nat) (done : List MmRun),
    Touches engineFields s (mmAll u s use done l).1
  | [], _, _, _ => .refl
  | (r, old, left) :: rest, s, use, done => by
    unfold mmAll
    split
    · exact touches_mmAll u rest ..
    · have h : ∀ w : KMap Nat × List (Nat × Nat), Touches engineFields s (if w.2.isEmpty then
          mmAll u (mmCycle s u { r with todo := [] }).1 w.1 (done ++ [(mmCycle s u { r with todo := [] }).2]) rest
        else mmAll u (bumpSlip s u 5 w.2.length) w.1 (done ++ [{ r with todo := w.2, began := if old then r.began else absNow s }])
          rest).1 := by
        intro w
        split
        · exact (touches_mmCycle ..).trans (touches_mmAll u rest ..)
        · exact ((touches_bumpSlip ..).mono rfl).trans (touches_mmAll u rest ..)
      exact h _

theorem touches_vxAll (u : Nat) : ∀ (l : List (VxRun × Bool × List (Nat × Nat))) (s : State) (use : KMap Nat) (done : List VxRun),
    Touches engineFields s (vxAll u s use done l).1
  | [], _, _, _ => .refl
  | (r, old, left) :: rest, s, use, done => by
    unfold vxAll
    split
    · exact touches_vxAll u rest ..
    · have h : ∀ w : KMap Nat × List (Nat × Nat), Touches engineFields s (if w.2.isEmpty then
          vxAll u (vxCycle s u { r with todo := [] }).1 w.1 (done ++ [(vxCycle s u { r with todo := [] }).2]) rest
        else vxAll u (bumpSlip s u 5 w.2.length) w.1 (done ++ [{ r with todo := w.2, began := if old then r.began else absNow s }])
          rest).1 := by
        intro w
        split
        · exact (touches_vxCycle ..).trans (touches_vxAll u rest ..)
        · exact ((touches_bumpSlip ..).mono rfl).trans (touches_vxAll u rest ..)
      exact h _

/-- The engines' cycle makes no access to the byte store beyond reading it. -/
theorem touches_engineServe (s : State) (u : Nat) : Touches engineFields s (engineServe s u).1 := by
  unfold engineServe
  exact (touches_mmAll ..).trans (((touches_setCore ..).mono rfl).trans ((touches_vxAll ..).trans ((touches_setCore ..).mono rfl)))

/-! ### Writes -/

theorem touches_writeElem (s : State) (u o m n : Nat) (c : Nat × Nat) : Touches [.cores, .mem, .ecc] s (writeElem s u o m n c) := by
  have h : ∀ (x : CoreSt) (e : KMap Nat), Touches [.cores, .mem, .ecc] s { setCore s u x with ecc := e } := fun x e =>
    ((touches_setCore ..).mono rfl).trans ((touches_setEcc ..).mono rfl)
  unfold writeElem
  dsimp only
  split
  · exact h ..
  · exact h ..
  · exact (touches_poke ..).mono rfl
  · exact (touches_poke ..).mono rfl
  · exact .refl

theorem touches_tagDest (s : State) (u o xb m n : Nat) : Touches [.cores, .mem, .ecc] s (tagDest s u o xb m n) := by
  unfold tagDest
  split
  · exact .refl
  · dsimp only
    split
    · exact (touches_setCore ..).mono rfl
    · exact ((touches_setCore ..).mono rfl).trans ((touches_setEcc ..).mono rfl)

theorem touches_vxWrite (s : State) (u : Nat) (r : VxRun) : Touches [.cores, .mem, .ecc] s (vxWrite s u r) := by
  have h : Touches [.cores, .mem, .ecc] s ((r.out).foldl
      (fun t c => writeElem t u (vD r.d.raw) (destShape r.d.raw).1 (destShape r.d.raw).2 c)
      (r.outSc.foldl (fun t k => poke t k.1 (leBytes 1 k.2)) s)) :=
    (Touches.foldl _ (fun t k => (touches_poke ..).mono rfl) _ _).trans (Touches.foldl _ (fun t k => touches_writeElem ..) _ _)
  unfold vxWrite
  dsimp only
  split
  · exact h.trans (touches_tagDest ..)
  · exact h

theorem touches_writeResults (s : State) (u : Nat) : Touches [.cores, .mem, .ecc] s (writeResults s u) := by
  unfold writeResults
  exact (Touches.foldl _ (fun t k => touches_vxWrite ..) _ _).trans ((touches_setCore ..).mono rfl)

theorem touches_commit (s : State) (u : Nat) (l : Landing) : Touches timeFields s (commit s u l) := by
  unfold commit
  split
  · exact Touches.trans (.ite ((touches_bareErrors ..).mono rfl) ((touches_readErrors ..).mono rfl)) ((touches_poke ..).mono rfl)
  · exact (touches_poke ..).mono rfl

theorem touches_release (s : State) (l : Nat) (c : TClass) (a b : Nat) : Touches [.links] s (release s l c a b) := by
  unfold release
  split
  · exact .refl
  · exact touches_setLink ..

theorem touches_landCount (s : State) (u : Nat) (l : Landing) (k : PktEnd) : Touches timeFields s (landCount s u l k).1 := by
  have h : ∀ t : State, Touches timeFields s t →
      Touches timeFields s (if (linkAt t k.link).era = k.era then release t k.link .plan k.ures k.ush else t) := by
    intro t ht
    split
    · exact ht.trans ((touches_release ..).mono rfl)
    · exact ht
  unfold landCount
  dsimp only
  split
  · exact h _ .refl
  · split
    · exact h _ ((touches_setCore ..).mono rfl)
    · exact .refl

theorem touches_useChannels (s : State) (l : List Nat) : Touches [.chReady] s (useChannels s l) := by
  exact ⟨fun f hf => by cases f <;> first | rfl | simp at hf⟩

theorem touches_landOne (s : State) (u : Nat) (l : Landing) : Touches timeFields s (landOne s u l).1 := by
  unfold landOne
  split
  · exact .refl
  · split
    · exact touches_commit ..
    · dsimp only
      split
      · split
        · exact ((touches_countAct ..).mono rfl).trans ((touches_useChannels ..).mono rfl)
        · exact (touches_bumpSlip s u 5 1).mono rfl
      · split
        · exact touches_landCount ..
        · split
          · exact .refl
          · exact (touches_commit ..).trans (((touches_bump ..).mono rfl).trans (touches_landCount ..))

theorem touches_landAll (s : State) (u : Nat) : Touches timeFields s (landAll s u) := by
  have h : ∀ L : List Landing, Touches timeFields s (L.foldl (fun t k =>
      setCore (landOne t u k).1 u { coreAt (landOne t u k).1 u with lands := (coreAt (landOne t u k).1 u).lands ++ (landOne t u k).2.toList })
      (setCore s u { coreAt s u with lands := [] })) := fun L =>
    Touches.trans ((touches_setCore ..).mono rfl)
      (Touches.foldl _ (fun t k => (touches_landOne ..).trans ((touches_setCore ..).mono rfl)) _ _)
  unfold landAll
  dsimp only
  split
  · exact (h _).trans ((touches_bump ..).mono rfl)
  · exact h _

theorem touches_grantPackets (s : State) (u : Nat) (f : Nat → Bool) : Touches timeFields s (grantPackets s u f) := by
  unfold grantPackets
  refine Touches.foldl _ (fun t l => ?_) _ _
  unfold grantPacket
  split
  · exact .refl
  · dsimp only
    split
    · exact .refl
    · exact Touches.trans ((touches_countAct ..).mono rfl) (Touches.trans ((touches_setCore ..).mono rfl) ((touches_useBanks ..).mono rfl))

/-! ### Cycles -/

theorem touches_coreCycle (s : State) (u : Nat) : Touches timeFields s (coreCycle s u) := by
  have h0 : Touches timeFields s (settle (meetThrottle s u) u (absNow (meetThrottle s u))) :=
    ((touches_meetThrottle s u).mono rfl).trans ((touches_settle ..).mono rfl)
  have h1 : ∀ t k, Touches timeFields t (bump t (0x7860 + dieOf u) 3 6 2 k) := fun t k => (touches_bump ..).mono rfl
  have hb : ∀ (t : State) (m : KMap Nat), Touches timeFields t { t with bankUse := m } :=
    fun t m => ⟨fun f hf => by cases f <;> first | rfl | simp [timeFields] at hf⟩
  have h2 : ∀ t, Touches timeFields t (engineCycle (lateCore t u) u) := fun t =>
    Touches.trans ((touches_setCore ..).mono rfl) (((touches_engineServe ..).mono rfl).trans (hb _ _))
  have h3 : ∀ t f g, Touches timeFields t
      (grantPackets (engineCycle (lateCore (grantPackets (bumpSlip t u 5 (moverSlip t u)) u f) u) u) u g) := fun t f g =>
    ((touches_bumpSlip t u 5 _).mono rfl).trans ((touches_grantPackets ..).trans ((h2 _).trans (touches_grantPackets ..)))
  unfold coreCycle
  dsimp only
  split
  · exact h0.trans (touches_grantPackets ..)
  · split
    · exact h0.trans (h1 ..)
    · exact h0.trans ((h1 ..).trans (h3 ..))

theorem touches_coreWrites (s : State) (u : Nat) : Touches timeFields s (coreWrites s u) := by
  unfold coreWrites
  exact Touches.trans (.ite ((touches_writeResults ..).mono rfl) .refl) (touches_landAll ..)

theorem touches_setCyc (x : State) (n : Nat) : Touches timeFields x { x with cyc := n, bankUse := [] } := by
  exact ⟨fun f hf => by cases f <;> first | rfl | simp [timeFields] at hf⟩

theorem touches_nextCycle (s : State) : Touches timeFields s (nextCycle s) := by
  have h : ∀ l : List Nat, Touches timeFields s (l.foldl coreWrites (l.foldl coreCycle s)) := fun l =>
    (Touches.foldl _ (fun t u => touches_coreCycle t u) _ _).trans (Touches.foldl _ (fun t u => touches_coreWrites t u) _ _)
  exact (h (busyCores s)).trans (touches_setCyc ..)

theorem touches_pass (n : Nat) : ∀ s : State, Touches timeFields s (Machine.pass n s) := by
  induction n with
  | zero => intro s; exact .refl
  | succ n ih =>
    intro s
    unfold Machine.pass
    split
    · exact touches_setCyc ..
    · exact (touches_nextCycle s).trans (ih _)

theorem touches_countThrottle (s : State) (a : Nat) : Touches timeFields s (countThrottle s a) := by
  unfold countThrottle
  exact .ite .refl (Touches.foldl _ (fun t k => .ite ((touches_bump ..).mono rfl) .refl) _ _)

/-- The passing of time within a beat changes the fields of `timeFields` alone. -/
theorem touches_tick (s : State) (c : Nat) : Touches timeFields s (tick s c) := by
  unfold tick elapse
  exact (touches_pass ..).trans (touches_countThrottle ..)

/-- The same for a core that is brought to its cycle. -/
theorem touches_coreTick (s : State) (u c : Nat) : Touches timeFields s (coreTick s u c) := by
  unfold coreTick
  exact (touches_tick s c).trans (((touches_meetThrottle ..).mono rfl).trans ((touches_settle ..).mono rfl))

/-! ### The form of the memories -/

/-- The canonical form of the byte memories is kept, and no storage error is made. -/
def FormKept (s t : State) : Prop := (Memory.wf s.mem → Memory.wf t.mem) ∧ ∀ e ∈ t.ecc, e ∈ s.ecc

theorem FormKept.refl {s : State} : FormKept s s := ⟨fun h => h, fun _ h => h⟩

theorem FormKept.trans {s t r : State} (h : FormKept s t) (g : FormKept t r) : FormKept s r :=
  ⟨fun m => g.1 (h.1 m), fun e he => h.2 e (g.2 e he)⟩

theorem FormKept.inv {s t : State} (h : FormKept s t) (m : MemInv s) : MemInv t := ⟨h.1 m.1, fun e he => m.2 e (h.2 e he)⟩

/-- What touches neither memory nor errors keeps their form. -/
theorem FormKept.of {l : List Field} {s t : State} (h : Touches l s t) (hm : Field.mem ∉ l) (he : Field.ecc ∉ l) : FormKept s t := by
  have a : t.mem = s.mem := h.same .mem hm
  have b : t.ecc = s.ecc := h.same .ecc he
  exact ⟨fun w => by rwa [a], fun e w => by rwa [b] at w⟩

theorem FormKept.foldl {α : Type} (f : State → α → State) (h : ∀ t a, FormKept t (f t a)) (as : List α) (s : State) :
    FormKept s (as.foldl f s) := by
  induction as generalizing s with
  | nil => exact .refl
  | cons a r ih => exact (h s a).trans (ih _)

theorem FormKept.foldPair {α β : Type} (f : State × β → α → State × β) (h : ∀ a k, FormKept a.1 (f a k).1) (as : List α)
    (a : State × β) : FormKept a.1 (as.foldl f a).1 := by
  induction as generalizing a with
  | nil => exact .refl
  | cons k r ih => exact (h a k).trans (ih _)

theorem FormKept.ite {s a b : State} {c : Prop} [Decidable c] (ha : FormKept s a) (hb : FormKept s b) :
    FormKept s (if c then a else b) := by split <;> assumption

theorem formKept_poke (s : State) (a : Nat) (b : List Byte) : FormKept s (poke s a b) :=
  ⟨fun h => poke_wf a b h, fun e he => by
    by_cases h : b.isEmpty = true
    · simpa [poke, h] using he
    · simp only [poke, h] at he
      exact List.mem_of_mem_filter he⟩

theorem formKept_setCore (s : State) (u : Nat) (x : CoreSt) : FormKept s (setCore s u x) :=
  .of (touches_setCore ..) (by simp) (by simp)

theorem formKept_errFilter (s : State) (p : Nat × Nat → Bool) : FormKept s { s with ecc := s.ecc.filter p } :=
  ⟨fun h => h, fun _ he => List.mem_of_mem_filter he⟩

theorem formKept_readErrors (s : State) (u e a n c t x : Nat) : FormKept s (readErrors s u e a n c t x) :=
  .of (touches_readErrors ..) (by simp) (by simp)

theorem formKept_bump (s : State) (i j oj b n : Nat) : FormKept s (bump s i j oj b n) := .of (touches_bump ..) (by simp) (by simp)

theorem formKept_bumpUnits (s : State) (i j oj b k n : Nat) : FormKept s (bumpUnits s i j oj b k n) :=
  .of (touches_bumpUnits ..) (by simp) (by simp)

theorem formKept_bumpSlip (s : State) (u k n : Nat) : FormKept s (bumpSlip s u k n) := .of (touches_bumpSlip ..) (by simp) (by simp)

theorem formKept_countAct (s : State) (d c ph n : Nat) : FormKept s (countAct s d c ph n) := .of (touches_countAct ..) (by simp) (by simp)

theorem formKept_writeSlot (s : State) (u t k v : Nat) : FormKept s (writeSlot s u t k v) :=
  (formKept_setCore ..).trans (formKept_errFilter ..)

theorem formKept_foldCell (u : Nat) (f : Fold) (a : State × MmRun) (i j : Nat) : FormKept a.1 (foldCell u f a i j).1 := by
  unfold foldCell
  dsimp only
  split
  · exact formKept_writeSlot ..
  · split
    · exact formKept_writeSlot ..
    · exact (formKept_readErrors ..).trans (formKept_writeSlot ..)

theorem formKept_foldRow (u : Nat) (f : Fold) (a : State × MmRun) (i : Nat) : FormKept a.1 (foldRow u f a i).1 := by
  unfold foldRow
  dsimp only
  have h : ∀ b : State × MmRun, FormKept a.1 b.1 → FormKept a.1
      (if dM a.2.d.raw ≤ i then b else (List.range (dN a.2.d.raw)).foldl (fun a j => foldCell u f a i j) b).1 := by
    intro b hb
    split
    · exact hb
    · exact hb.trans (FormKept.foldPair _ (fun a k => formKept_foldCell ..) _ _)
  apply h
  split
  · exact (formKept_setCore ..).trans (formKept_errFilter ..)
  · exact .refl

theorem formKept_mmCycle (s : State) (u : Nat) (r : MmRun) : FormKept s (mmCycle s u r).1 := by
  have h1 : ∀ a : State × MmRun, FormKept a.1 (tileRead u r.pos a).1 := by
    intro a
    unfold tileRead
    dsimp only
    split
    · exact .refl
    · refine FormKept.foldPair _ (fun b k => ?_) _ _
      split
      · exact .refl
      · exact formKept_readErrors ..
  have h2 : ∀ a : State × MmRun, FormKept a.1 (foldCycle u r.pos a).1 := by
    intro a
    unfold foldCycle
    dsimp only
    refine FormKept.foldPair _ (fun b k => ?_) _ _
    split
    · exact FormKept.foldPair _ (fun a k => formKept_foldRow ..) _ _
    · exact .refl
  have h3 : ∀ a : State × MmRun, FormKept a.1 (mmTag u r.pos a).1 := by
    intro a
    unfold mmTag
    dsimp only
    split
    · exact formKept_setCore ..
    · exact .refl
  have h4 : ∀ L : List (Nat × Nat × Nat), FormKept s
      (L.foldl (fun t k => readErrors t u 1 k.1 k.2.1 r.d.cnt (dTag r.d.raw) k.2.2) s) :=
    fun L => FormKept.foldl _ (fun t k => formKept_readErrors ..) _ _
  unfold mmCycle
  dsimp only
  split
  · exact .refl
  · refine FormKept.trans ?_ ((h1 _).trans ((h2 _).trans (h3 _)))
    have g : ∀ c ph n, FormKept s (countAct (((mmRanges u r.d.raw r.pos).foldl
        (fun t k => readErrors t u 1 k.1 k.2.1 r.d.cnt (dTag r.d.raw) k.2.2) s)) (dieOf u) c ph n) :=
      fun c ph n => (h4 _).trans (formKept_countAct ..)
    exact .ite ((g ..).trans ((formKept_countAct ..).trans (formKept_bumpUnits ..))) (g ..)

theorem formKept_vxCycle (s : State) (u : Nat) (r : VxRun) : FormKept s (vxCycle s u r).1 := by
  have h : FormKept s (vxErrors s u r).1 := by
    unfold vxErrors
    split
    · exact .refl
    · refine FormKept.foldPair (a := (s, r)) _ (fun a k => ?_) _
      split
      · exact .refl
      · exact .ite (.of (touches_errorRec ..) (by simp) (by simp)) (.of (touches_bumpCorr ..) (by simp) (by simp))
  unfold vxCycle
  dsimp only
  split
  · exact .refl
  · exact (h.trans (.ite (formKept_bumpUnits ..) .refl)).trans ((formKept_countAct ..).trans (formKept_countAct ..))

theorem formKept_mmAll (u : Nat) : ∀ (l : List (MmRun × Bool × List (Nat × Nat))) (s : State) (use : KMap Nat) (done : List MmRun),
    FormKept s (mmAll u s use done l).1
  | [], _, _, _ => .refl
  | (r, old, left) :: rest, s, use, done => by
    unfold mmAll
    split
    · exact formKept_mmAll u rest ..
    · have h : ∀ w : KMap Nat × List (Nat × Nat), FormKept s (if w.2.isEmpty then
          mmAll u (mmCycle s u { r with todo := [] }).1 w.1 (done ++ [(mmCycle s u { r with todo := [] }).2]) rest
        else mmAll u (bumpSlip s u 5 w.2.length) w.1 (done ++ [{ r with todo := w.2, began := if old then r.began else absNow s }])
          rest).1 := by
        intro w
        split
        · exact (formKept_mmCycle ..).trans (formKept_mmAll u rest ..)
        · exact (formKept_bumpSlip ..).trans (formKept_mmAll u rest ..)
      exact h _

theorem formKept_vxAll (u : Nat) : ∀ (l : List (VxRun × Bool × List (Nat × Nat))) (s : State) (use : KMap Nat) (done : List VxRun),
    FormKept s (vxAll u s use done l).1
  | [], _, _, _ => .refl
  | (r, old, left) :: rest, s, use, done => by
    unfold vxAll
    split
    · exact formKept_vxAll u rest ..
    · have h : ∀ w : KMap Nat × List (Nat × Nat), FormKept s (if w.2.isEmpty then
          vxAll u (vxCycle s u { r with todo := [] }).1 w.1 (done ++ [(vxCycle s u { r with todo := [] }).2]) rest
        else vxAll u (bumpSlip s u 5 w.2.length) w.1 (done ++ [{ r with todo := w.2, began := if old then r.began else absNow s }])
          rest).1 := by
        intro w
        split
        · exact (formKept_vxCycle ..).trans (formKept_vxAll u rest ..)
        · exact (formKept_bumpSlip ..).trans (formKept_vxAll u rest ..)
      exact h _

theorem formKept_engineServe (s : State) (u : Nat) : FormKept s (engineServe s u).1 := by
  unfold engineServe
  exact (formKept_mmAll ..).trans ((formKept_setCore ..).trans ((formKept_vxAll ..).trans (formKept_setCore ..)))

theorem formKept_vxWrite (s : State) (u : Nat) (r : VxRun) : FormKept s (vxWrite s u r) := by
  have hw : ∀ (t : State) (c : Nat × Nat), FormKept t (writeElem t u (vD r.d.raw) (destShape r.d.raw).1 (destShape r.d.raw).2 c) := by
    intro t c
    unfold writeElem
    dsimp only
    split
    · exact (formKept_setCore ..).trans (formKept_errFilter ..)
    · exact (formKept_setCore ..).trans (formKept_errFilter ..)
    · exact formKept_poke ..
    · exact formKept_poke ..
    · exact .refl
  have h : FormKept s ((r.out).foldl
      (fun t c => writeElem t u (vD r.d.raw) (destShape r.d.raw).1 (destShape r.d.raw).2 c)
      (r.outSc.foldl (fun t k => poke t k.1 (leBytes 1 k.2)) s)) :=
    (FormKept.foldl _ (fun t k => formKept_poke ..) _ _).trans (FormKept.foldl _ (fun t k => hw ..) _ _)
  unfold vxWrite
  dsimp only
  split
  · refine h.trans ?_
    unfold tagDest
    split
    · exact .refl
    · dsimp only
      split
      · exact formKept_setCore ..
      · exact (formKept_setCore ..).trans (formKept_errFilter ..)
  · exact h

theorem formKept_landOne (s : State) (u : Nat) (l : Landing) : FormKept s (landOne s u l).1 := by
  have hc : FormKept s (commit s u l) := by
    unfold commit
    split
    · exact FormKept.trans (.ite (.of (touches_bareErrors ..) (by simp) (by simp)) (formKept_readErrors ..)) (formKept_poke ..)
    · exact formKept_poke ..
  have hr : ∀ (t : State) (l c a b), FormKept t (release t l c a b) := fun t l c a b => .of (touches_release ..) (by simp) (by simp)
  have hl : ∀ (t : State) (k : PktEnd), FormKept t (landCount t u l k).1 := by
    intro t k
    unfold landCount
    dsimp only
    split
    · exact .ite (hr ..) .refl
    · split
      · exact .ite ((formKept_setCore ..).trans (hr ..)) (formKept_setCore ..)
      · exact .refl
  unfold landOne
  split
  · exact .refl
  · split
    · exact hc
    · dsimp only
      split
      · split
        · exact (formKept_countAct ..).trans (.of (touches_useChannels ..) (by simp) (by simp))
        · exact formKept_bumpSlip ..
      · split
        · exact hl ..
        · split
          · exact .refl
          · exact hc.trans ((formKept_bump ..).trans (hl ..))

theorem formKept_grantPackets (s : State) (u : Nat) (f : Nat → Bool) : FormKept s (grantPackets s u f) := by
  unfold grantPackets
  refine FormKept.foldl _ (fun t l => ?_) _ _
  unfold grantPacket
  split
  · exact .refl
  · dsimp only
    split
    · exact .refl
    · exact (formKept_countAct ..).trans ((formKept_setCore ..).trans (.of (touches_useBanks ..) (by simp) (by simp)))

theorem formKept_coreCycle (s : State) (u : Nat) : FormKept s (coreCycle s u) := by
  have h0 : FormKept s (settle (meetThrottle s u) u (absNow (meetThrottle s u))) :=
    FormKept.trans (.of (touches_meetThrottle s u) (by simp) (by simp)) (.of (touches_settle ..) (by simp [settleFields]) (by simp [settleFields]))
  have h2 : ∀ t, FormKept t (engineCycle (lateCore t u) u) := fun t =>
    (formKept_setCore ..).trans ((formKept_engineServe ..).trans ⟨fun h => h, fun _ h => h⟩)
  have h3 : ∀ t f g, FormKept t
      (grantPackets (engineCycle (lateCore (grantPackets (bumpSlip t u 5 (moverSlip t u)) u f) u) u) u g) := fun t f g =>
    (formKept_bumpSlip t u 5 _).trans ((formKept_grantPackets ..).trans ((h2 _).trans (formKept_grantPackets ..)))
  unfold coreCycle
  dsimp only
  split
  · exact h0.trans (formKept_grantPackets ..)
  · split
    · exact h0.trans (formKept_bump ..)
    · exact h0.trans ((formKept_bump ..).trans (h3 ..))

theorem formKept_landAll (s : State) (u : Nat) : FormKept s (landAll s u) := by
  have g : ∀ L : List Landing, FormKept s (L.foldl (fun t k =>
      setCore (landOne t u k).1 u { coreAt (landOne t u k).1 u with lands := (coreAt (landOne t u k).1 u).lands ++ (landOne t u k).2.toList })
      (setCore s u { coreAt s u with lands := [] })) := fun L =>
    (formKept_setCore ..).trans (FormKept.foldl _ (fun t k => (formKept_landOne ..).trans (formKept_setCore ..)) _ _)
  unfold landAll
  dsimp only
  split
  · exact (g _).trans (formKept_bump ..)
  · exact g _

theorem formKept_coreWrites (s : State) (u : Nat) : FormKept s (coreWrites s u) := by
  have h : FormKept s (writeResults s u) := by
    unfold writeResults
    exact (FormKept.foldl _ (fun t k => formKept_vxWrite ..) _ _).trans (formKept_setCore ..)
  have k : FormKept s (if planState s (partOf s u) = 3 then writeResults s u else s) := .ite h .refl
  exact k.trans (formKept_landAll ..)

theorem formKept_pass (n : Nat) : ∀ s : State, FormKept s (Machine.pass n s) := by
  induction n with
  | zero => intro s; exact .refl
  | succ n ih =>
    intro s
    have h : ∀ l : List Nat, FormKept s (l.foldl coreWrites (l.foldl coreCycle s)) := fun l =>
      (FormKept.foldl _ (fun t u => formKept_coreCycle t u) _ _).trans (FormKept.foldl _ (fun t u => formKept_coreWrites t u) _ _)
    unfold Machine.pass
    split
    · exact ⟨fun h => h, fun _ h => h⟩
    · exact (h (busyCores s)).trans (ih (nextCycle s))

/-- The passing of time keeps the canonical form of the memories and makes no storage error. -/
theorem formKept_tick (s : State) (c : Nat) : FormKept s (tick s c) := by
  have h : ∀ (t : State) (a : Nat), FormKept t (countThrottle t a) := by
    intro t a
    unfold countThrottle
    exact .ite .refl (FormKept.foldl _ (fun t k => .ite (formKept_bump ..) .refl) _ _)
  unfold tick elapse
  exact (formKept_pass ..).trans (h ..)

theorem formKept_coreTick (s : State) (u c : Nat) : FormKept s (coreTick s u c) := by
  unfold coreTick
  exact (formKept_tick s c).trans (FormKept.trans (.of (touches_meetThrottle ..) (by simp) (by simp))
    (.of (touches_settle ..) (by simp [settleFields]) (by simp [settleFields])))

end Sys2Proof
end

