-- ==== Sys2Proof/WellFormed.lean ====
section
/-! DEFINITION. When a command is well formed: its unit numbers lie in the widest package (R1, R19) and each dictionary value
or record has a length that a message can carry (R604). -/

namespace Sys2Proof

/-- A logical core of the widest package: 4 dies × 12 clusters × 16 cores (R19). -/
def coreOk (u : Nat) : Bool := u < 768

/-- A link number (R1). -/
def linkOk (l : Nat) : Bool := l < 64

/-- A die number (R1). -/
def dieOk (d : Nat) : Bool := d < 4

/-- A cycle of the longest beat (R225). -/
def cycOk (c : Nat) : Bool := c < 65536

/-- A dictionary value that a message can carry (R603, R604). -/
def valOk (v : List Byte) : Bool := v.length ≤ 8320

/-- A packet's payload has the length that LEN says (R347). -/
def packetOk (p : Packet) : Bool := p.payload.length == 64 * p.len && p.len ≤ 128

/-- A bulk record of R564. -/
def recOk (hdr : List Byte) (r : HostRec) : Bool := hdr.length == 32 && r.tag.length == 16 && r.cipher.length ≤ 2 ^ 20

/-- The well-formedness check, command by command. -/
def Instr.wf : Instr → Bool
  | .descriptorFetch u c => coreOk u && cycOk c
  | .descriptorDispatch u c => coreOk u && cycOk c
  | .call u c => coreOk u && cycOk c
  | .ret u c => coreOk u && cycOk c
  | .callSignal u c => coreOk u && cycOk c
  | .seed u c => coreOk u && cycOk c
  | .hint u c => coreOk u && cycOk c
  | .mm u c => coreOk u && cycOk c
  | .mmComplete u c => coreOk u && cycOk c
  | .add u c => coreOk u && cycOk c
  | .mul u c => coreOk u && cycOk c
  | .fma u c => coreOk u && cycOk c
  | .min u c => coreOk u && cycOk c
  | .max u c => coreOk u && cycOk c
  | .cmp u c => coreOk u && cycOk c
  | .sel u c => coreOk u && cycOk c
  | .cvt u c => coreOk u && cycOk c
  | .lut u c => coreOk u && cycOk c
  | .rsum u c => coreOk u && cycOk c
  | .rdot u c => coreOk u && cycOk c
  | .rmax u c => coreOk u && cycOk c
  | .rmin u c => coreOk u && cycOk c
  | .xadd u c => coreOk u && cycOk c
  | .xsum u c => coreOk u && cycOk c
  | .qnt u c => coreOk u && cycOk c
  | .dqs u c => coreOk u && cycOk c
  | .vxComplete u c => coreOk u && cycOk c
  | .mov u c => coreOk u && cycOk c
  | .gather u c => coreOk u && cycOk c
  | .scatter u c => coreOk u && cycOk c
  | .moverUnitIssue u c => coreOk u && cycOk c.cyc
  | .moveComplete u c => coreOk u && cycOk c
  | .send u c => coreOk u && cycOk c
  | .sendx u c => coreOk u && cycOk c
  | .packetHandoff u c => coreOk u && cycOk c
  | .sendComplete u c => coreOk u && cycOk c
  | .sync u c => coreOk u && cycOk c
  | .syncPostApply u c => coreOk u && cycOk c
  | .arrivalApply u c => coreOk u && cycOk c
  | .barrier u c => coreOk u && cycOk c
  | .barrierArrive p c => dieOk p && cycOk c
  | .barrierRelease p bid _ _ c => dieOk p && bid < 16 && cycOk c
  | .canopyTimeout p bid _ _ => dieOk p && bid < 16
  | .step u c => coreOk u && cycOk c
  | .stepComplete p c => dieOk p && cycOk c
  | .beatEdge => true
  | .planStart p => dieOk p
  | .planComplete p => dieOk p
  | .beatKChange => true
  | .fstepApply => true
  | .beatsyncSend c => cycOk c
  | .beatsyncRx l _ => linkOk l
  | .fstepRequestRx l _ => linkOk l
  | .fstepAnnounceRx l _ _ _ => linkOk l
  | .alarmRx l _ => linkOk l
  | .arriveRx l c _ => linkOk l && cycOk c
  | .releaseRx l m c => linkOk l && m.bid < 16 && cycOk c
  | .faultRecord => true
  | .hbmPatrol d _ c => dieOk d && cycOk c
  | .stretchedCycle d r c => dieOk d && r < 4 && cycOk c
  | .fifoRange d _ _ c => dieOk d && cycOk c
  | .locking => true
  | .pllLock _ => true
  | .timingLost _ => true
  | .refclkLoss _ => true
  | .timePps c _ _ => cycOk c
  | .ppsTimeout _ => true
  | .frameStart l _ c => linkOk l && cycOk c
  | .replaySend l c => linkOk l && cycOk c
  | .frameForward l c => linkOk l && cycOk c
  | .dataFrameRx l c _ _ _ => linkOk l && cycOk c
  | .keepalive l _ _ => linkOk l
  | .nak l _ _ _ => linkOk l
  | .ident l _ _ => linkOk l
  | .resume l _ _ _ => linkOk l
  | .ack l _ => linkOk l
  | .sv2AckTimer l _ => linkOk l
  | .keepaliveIdle l _ => linkOk l
  | .ackRefresh l _ => linkOk l
  | .down l _ => linkOk l
  | .alignmentLost l _ => linkOk l
  | .laneSignalLoss l _ => linkOk l
  | .nakRepeat l _ => linkOk l
  | .replayTimer l _ _ => linkOk l
  | .creditTimeout l _ => linkOk l
  | .holdExpired l _ => linkOk l
  | .trainAttempt l _ => linkOk l
  | .trainingDone l => linkOk l
  | .holdRetrainDone l => linkOk l
  | .rttWindowEnd l _ => linkOk l
  | .linkAdmin _ l val => linkOk l && valOk val
  | .linkRetrain _ l => linkOk l
  | .linkSelftest _ l => linkOk l
  | .linkSelftestEnd l _ => linkOk l
  | .myCoord _ val => valOk val
  | .bundles _ p val => dieOk p && valOk val
  | .routeTableWrite _ p dim val => dieOk p && dim < 4 && valOk val
  | .rankWindowWrite _ p _ val => dieOk p && valOk val
  | .rankTableWrite _ q val => q < 128 && valOk val
  | .timingConfigWrite _ _ val => valOk val
  | .stretchFrac _ val => valOk val
  | .beatKAt _ val => valOk val
  | .planStartBeat _ p val => dieOk p && valOk val
  | .brkCtl _ val => valOk val
  | .planLoad _ p arg => dieOk p && valOk arg
  | .planLoadComplete p _ => dieOk p
  | .planReset _ p val => dieOk p && valOk val
  | .planResetComplete p _ => dieOk p
  | .dictGet _ _ _ => true
  | .dictSet _ _ _ val => valOk val
  | .poll _ _ => true
  | .lock _ => true
  | .unlock _ => true
  | .lockLeaseExpiry _ => true
  | .handleExpiry _ _ => true
  | .logRead _ => true
  | .mbGo len req _ w _ => len < 2 ^ 32 && decide (req.length ≤ 16384) && w.msix.all (fun e => decide (e.1 < 72))
  | .h2mTail slot tail ents => slot < 16 && tail < 2 ^ 32 && decide (ents.length ≤ 4096) && ents.all (fun e => e.length == 16)
  | .m2hTail slot tail ents => slot < 16 && tail < 2 ^ 32 && decide (ents.length ≤ 4096) && ents.all (fun e => e.length == 16)
  | .ringWrite _ _ val => valOk val
  | .hostWrite slot hdr hr => slot < 16 && recOk hdr hr
  | .hostReadRequest slot hdr hr => slot < 16 && recOk hdr hr
  | .serveCommandRecord slot hdr hr => slot < 16 && recOk hdr hr
  | .installChunk slot hdr hr => slot < 16 && recOk hdr hr
  | .perstN => true
  | .mgmtPacketRx l pk => (match l with | .link k => linkOk k && packetOk pk | .vdm => true | .i3c => true | .own => true)
  | .setEndpointId b _ => b < 4
  | .getEndpointId b => b < 4
  | .getMctpVersionSupport b => b < 4
  | .getMessageTypeSupport b => b < 4
  | .getVendorDefinedMsgSupport b => b < 4
  | .getVersion b => b < 4
  | .getCapabilities b => b < 4
  | .negotiateAlgorithms b => b < 4
  | .getDigests b => b < 4
  | .getCertificate b _ _ _ => b < 4
  | .challenge b nonce => b < 4 && nonce.length == 32
  | .getMeasurements b _ nonce => b < 4 && nonce.length == 32
  | .keyExchange b _ _ _ => b < 4
  | .finish b _ _ => b < 4
  | .keyUpdate _ => true
  | .heartbeat _ => true
  | .endSession _ => true
  | .submit _ cmd => cmd.length == 64
  | .cancel _ cmd => cmd.length == 64
  | .serveMaint _ val => valOk val
  | .serveSelftest _ => true
  | .ctxInstall _ c _ => c < 64
  | .hostIdle c _ => c < 64
  | .ctxGraft _ c => c < 64
  | .graftStart _ => true
  | .graftComplete _ _ => true
  | .ctxRelease _ c => c < 64
  | .ctxErase _ c => c < 64
  | .flashMaint _ val => valOk val
  | .flashSelftest _ => true
  | .flashSelftestEnd _ => true
  | .hbmSelftest _ => true
  | .hbmSelftestEnd _ => true
  | .powerFail _ _ _ => true
  | .holdupEnd _ _ => true
  | .sensorSample d _ _ => dieOk d
  | .calibrationInterval r _ _ _ => r < 19
  | .senseOpen r _ => r < 19
  | .senseMismatch r _ _ _ => r < 19
  | .senseState _ val => valOk val
  | .thermtrip _ _ => true
  | .tripDiscrepancy _ => true
  | .capMissTrip _ _ => true
  | .ownerClaim _ val _ => valOk val
  | .lifecycleNext _ val => valOk val
  | .rw2pWrite _ _ _ val nonce _ => valOk val && nonce.length == 32
  | .changeWindowExpiry _ => true
  | .debugReq _ val => valOk val
  | .debugResponse _ val _ _ => valOk val
  | .debugChallengeExpiry _ => true
  | .debugClose _ val => valOk val
  | .partAssign _ p => dieOk p
  | .partRelease _ p => dieOk p
  | .partMaint _ p val => dieOk p && valOk val
  | .partEraseCtx _ p val => dieOk p && valOk val
  | .partScrub _ p => dieOk p
  | .scrubLinkDrain l _ => linkOk l
  | .scrubComplete p _ _ => dieOk p
  | .fwUpdate _ arg _ => valOk arg
  | .attest _ nonce => nonce.length == 32
  | .freqChange _ => true
  | .slotRetire _ val => valOk val
  | .retireClear _ val => valOk val
  | .coldStart _ _ _ => true
  | .startUpStage _ _ => true
  | .moduleRstN _ _ => true
  | .warmReset _ val => valOk val
  | .mcReset _ val => valOk val
  | .mcLockstepMismatch => true
  | .mcWatchdog _ => true
  | .mcRestartDone _ => true
  | .mcFailed _ => true
  | .refclkReturn => true
  | .tripInputDeassert _ _ => true
  | .envelopeLimit _ => true
  | .codewordDecodeFailure m => linkOk m.link
  | .serveSelftestEnd _ => true
  | .flashBlockReturn c => c < 64
  | .entdaa _ => true

end Sys2Proof
end

