-- ==== Sys2Proof/Tests/Slice0.lean ====
section
/-! SUPPORT. For every statement with hypotheses a state and operands that meet them, clause by clause (`wit_`), ill-formed commands, and
the worked examples of the spec (`test_`). -/

namespace Sys2Proof.Tests

set_option maxRecDepth 20000
set_option Elab.async false

open Machine

/-! ### States and descriptors to test with -/

/-- A descriptor from its fields: lowest bit and value. -/
def desc (l : List (Nat × Nat)) : BitVec 512 := BitVec.ofNat 512 (l.foldl (fun a f => a + f.2 * 2 ^ f.1) 0)

/-- The shape fields M, N, K and COUNT. -/
def shape (m n k : Nat) : List (Nat × Nat) := [(128, m), (152, n), (176, k), (200, 1)]

/-- ISSUE at any cycle. -/
def anyCycle : Nat × Nat := (32, 0xFFFF)

/-- READY with the rails up and the plan of partition 0 RUNNING in a segment of one beat; core 5 in a given state. -/
def run1 (x : CoreSt) : State :=
  { State.reset with regs := [(rkey 0x2120 1, 3), (rkey 0x7008 1, 5)], cores := [(5, x)], railsUp := true, pwrGood := true,
                     parts := [(0, { segs := [(1, 1)], dieMap := [0, 1, 2, 3] })] }

/-- A descriptor that waits in a queue. -/
def queued (d : BitVec 512) : QDesc := { raw := d, cnt := 1, gen := 7, lm := false, depth := 0, disp := 0 }

/-- An MM and a VX descriptor of whose time `n` cycles have passed. -/
def mmRuns (d : BitVec 512) (n : Nat) : MmRun := { mmBegin (queued d) with pos := n }
def vxRuns (d : BitVec 512) (n : Nat) : VxRun := { vxBegin (queued d) with pos := n }

/-- A prefetched descriptor at the list's first place. -/
def fetched (d : BitVec 512) : PItem := { raw := d, lm := false, rep := 0, idx := 0, depth := 0, ready := 0, bad := false }

/-- An open frame. -/
def aFrame : Frame := { cnt := 1, issueBase := 0, baseCM := 0, baseOC := 0, args := [], snaps := [], last := 0, next := 0 }

/-! ### Streams and frames -/

/-- A core whose list is one CALL of routine 0, which stands in LM from line 16 on and is two descriptors long. -/
def wFetch : State :=
  { run1 { fetch := [{ lm := false, rep := 0, next := 0, stop := 1 }] } with
      mem := (cmAddr 5 64, 1) :: (leBytes 8 (16 + 2 * 2 ^ 14 + 2 ^ 28)).zipIdx.map (fun b => (lmAddr 0 (0x40 + b.2), b.1)) }

theorem wit_FetchReadsTheNextDescriptor :
    (let t := coreTick wFetch 5 9
     let a := listDesc t 5 0
     let raw := descOf (peek t a 64)
     coreRuns t 5 = true ∧ (coreAt t 5).pq.length < 256 ∧ (coreAt t 5).nextFetch ≤ absNow t ∧
       nextPos (segShape t (partOf t 5)).2 (coreAt t 5).fetch = some ({ lm := false, rep := 0, next := 0, stop := 1 }, []) ∧
       fetchRoom t 5 (coreAt t 5).nextFetch (accesses a 64) = true ∧ dOpc raw = 1 ∧ (eccIn t a 64).any (fun e => e.2 == 2) = false ∧
       routineOk t 5 (fld raw 256 16) = true) ∧
    (let t := coreTick (run1 { nextFetch := 10, fetch := [{ lm := false, rep := 0, next := 0, stop := 1 }] }) 5 9
     nextPos (segShape t (partOf t 5)).2 (coreAt t 5).fetch = some ({ lm := false, rep := 0, next := 0, stop := 1 }, []) ∧
       ¬((coreAt t 5).nextFetch ≤ absNow t)) ∧
    (let t := coreTick { wFetch with bankUse := [(bankKey (cmAddr 5 0), 96)], cyc := 9 } 5 9
     fetchRoom t 5 (coreAt t 5).nextFetch (accesses (cmAddr 5 0) 64) = false) := by decide +kernel

/-- The first descriptor of a list is a no-op of an engine; `n` descriptors wait in the MXE queue. -/
def wDispatch (d : BitVec 512) (n : Nat) : State :=
  run1 { pq := [fetched d], sliceEnd := 1, mq := List.replicate n (queued 0) }

/-- A core whose list begins with a descriptor whose fetch met an uncorrectable error. -/
def badItem : PItem := { fetched (desc [(0, 0x10)]) with bad := true }

/-- The premises of the dispatch statements at core 5, cycle 9. -/
def dispatchable (s : State) (i : PItem) (code : Option Nat) : Bool :=
  let t := coreTick s 5 9
  let x := coreAt t 5
  let w := takeItem (countPhase t 5) 5 i
  let w := setCore w 5 { coreAt w 5 with phase := dPhase i.raw }
  s.powered && decide (5 < coresOf s.variant) && rg s 0x6020 1 == 0 && coreRuns t 5 && x.held.isNone && x.pq == [i] && headOk t x i &&
    !i.bad && checkDesc w 5 i.lm i.raw == (i.raw, code)

/-- An MM and a SYNC without work. -/
def noopMm : BitVec 512 := desc [(0, 0x10), anyCycle]
def noopSync : BitVec 512 := desc [(0, 0x40), anyCycle, (312, 1), (280, 1)]

theorem wit_DispatchCountsAndQueues :
    dispatchable (wDispatch noopMm 31) (fetched noopMm) none = true ∧ dispatchable (wDispatch noopMm 32) (fetched noopMm) none = true ∧
      dispatchable (wDispatch noopSync 0) (fetched noopSync) none = true ∧ engineOf (dOpc noopMm) = 1 ∧ engineOf (dOpc noopSync) = 4 := by
  decide +kernel

theorem wit_IllegalDescriptorIsSkipped :
    dispatchable (wDispatch (desc [(0, 0x7F)]) 0) (fetched (desc [(0, 0x7F)])) (some 0x01) = true ∧
      dispatchable (wDispatch (desc [(0, 2), anyCycle]) 0) (fetched (desc [(0, 2), anyCycle])) (some 0x13) = true ∧
      (let i := { fetched (desc [(0, 1), anyCycle]) with lm := true, depth := 8 }
       dispatchable { run1 { pq := [i], frames := List.replicate 8 aFrame } with mem := wFetch.mem } i (some 0x14) = true) ∧
      (let t := coreTick (run1 { pq := [badItem], sliceEnd := 1 }) 5 9
       coreRuns t 5 = true ∧ (coreAt t 5).held = none ∧ (coreAt t 5).pq = [badItem] ∧ headOk t (coreAt t 5) badItem = true) := by decide +kernel

/-- A core whose stream unit holds a descriptor. -/
def holds (d : BitVec 512) (l : List Frame) : State := run1 { held := some (queued d), frames := l }

theorem wit_CallOpensAndRetClosesAFrame :
    (let t := coreTick (holds (desc [(0, 1), anyCycle]) []) 5 9
     readyHeld t 5 1 = some (queued (desc [(0, 1), anyCycle])) ∧ callClear (coreAt t 5) 1 = true) ∧
    (let t := coreTick (holds (desc [(0, 1), (32, 9)]) (List.replicate 7 aFrame)) 5 9
     readyHeld t 5 1 = some (queued (desc [(0, 1), (32, 9)])) ∧ callClear (coreAt t 5) 1 = true) ∧
    (let t := coreTick (holds (desc [(0, 2), anyCycle]) [aFrame]) 5 9
     readyHeld t 5 2 = some (queued (desc [(0, 2), anyCycle])) ∧ (coreAt t 5).frames = [aFrame]) ∧
    (let x : CoreSt := { held := some (queued (desc [(0, 1), anyCycle])), outst := [{ cnt := 0, tag := 0, opc := 16, sig56 := true }] }
     let t := coreTick (run1 x) 5 9
     readyHeld t 5 1 = some (queued (desc [(0, 1), anyCycle])) ∧ callClear (coreAt t 5) 1 = false) ∧
    (let t := coreTick (run1 { held := some { queued (desc [(0, 1), (32, 10)]) with due := 10 } }) 5 9
     readyHeld t 5 1 = none ∧ readyHeld t 5 2 = none ∧ readyHeld t 5 3 = none ∧ readyHeld t 5 4 = none) := by decide +kernel

theorem wit_SeedAndHintExecute :
    readyHeld (coreTick (holds (desc [(0, 3), anyCycle, (256, 7)]) []) 5 9) 5 3 = some (queued (desc [(0, 3), anyCycle, (256, 7)])) ∧
      readyHeld (coreTick (holds (desc [(0, 4), (32, 9)]) []) 5 9) 5 4 = some (queued (desc [(0, 4), (32, 9)])) ∧
      (let s := { holds (desc [(0, 4), (32, 9)]) [] with hints := [(0, [{ beat := 1, phase := 2, cyc := 9, core := 6 }])] }
       readyHeld (coreTick s 5 9) 5 4 = some (queued (desc [(0, 4), (32, 9)])) ∧ absNow (coreTick s 5 9) = 9 ∧
       ∃ h ∈ (kget s.hints (dieOf 5)).getD [], h.beat = (s.beat + fld (queued (desc [(0, 4), (32, 9)])).raw 264 12 + 1) % 2 ^ 48 ∧
         h.cyc = 9 ∧ 5 < h.core) := by decide +kernel

/-- A CALL whose frame closed in cycle 3 and whose last descriptor completed in cycle 8. -/
def closedCall : CallRec := { cnt := 1, sv := true, sid := 2, sinc := 3, lastCnt := 2, closed := some 3, done := some 8 }

theorem wit_CallSignalFollowsTheLaterEvent :
    (coreAt (coreTick (run1 { calls := [closedCall] }) 5 9) 5).calls.find? (callDue 9) = some closedCall ∧
      absNow (coreTick (run1 { calls := [closedCall] }) 5 9) = 9 ∧
      stillNow (coreTick (run1 { calls := [closedCall] }) 5 9) 5 = false ∧
      stillNow (coreTick { run1 { calls := [closedCall] } with stretchNow := [(0, [9])] } 5 9) 5 = true ∧
      (∀ g ∈ (coreAt (coreTick (run1 { calls := [closedCall] }) 5 8) 5).calls, callDue 8 g = false) := by decide +kernel

/-! ### Engines -/

/-- An MM of one FP8 product into an XA128 tile, and one of one FP32 product. -/
def mmNarrow : BitVec 512 := desc ([(0, 0x10), anyCycle, (384, 4), (388, 4), (392, 10), (304, 32), (320, 32)] ++ shape 1 1 1)
def mmWide : BitVec 512 := desc ([(0, 0x10), anyCycle, (304, 512), (320, 256), (398, 1), (396, 3)] ++ shape 128 64 1)

/-- An MM of two FP4 K-steps whose four slices begin in one bank. -/
def mmMeets : BitVec 512 := desc ([(0, 0x10), anyCycle, (384, 7), (388, 7), (392, 10), (304, 512), (320, 512), (280, 1024)] ++ shape 128 64 2)

theorem wit_MmWritesItsCells :
    (let t := coreTick (run1 { mq := [queued mmNarrow] }) 5 9
     mmReady t 5 = some (queued mmNarrow) ∧ dOpc mmNarrow = 0x10 ∧ isNoop mmNarrow = false ∧ dM mmNarrow ≤ 128 ∧ dN mmNarrow ≤ 64) ∧
    (let t := coreTick (run1 { mq := [queued mmWide] }) 5 9
     mmReady t 5 = some (queued mmWide) ∧ isNoop mmWide = false ∧ dM mmWide = 128 ∧ dN mmWide = 64) ∧
    (mmReady (coreTick (run1 { mq := [queued noopMm] }) 5 9) 5 = some (queued noopMm) ∧ isNoop noopMm = true) ∧
    mmReady (coreTick (run1 {}) 5 9) 5 = none := by decide +kernel

theorem wit_EnginesComplete :
    ((serve [] (mmAccesses 5 (mmRuns mmNarrow 4))).2 = [] ∧ (serve [] (mmAccesses 5 (mmRuns mmMeets 4))).2.length = 1 ∧
      (mmRuns mmMeets 4).todo = [] ∧ (coreAt (run1 { mrun := [mmRuns mmMeets 4] }) 5).mrun = [mmRuns mmMeets 4]) ∧
    (let t := coreTick (run1 { mrun := [mmRuns mmNarrow 128] }) 5 0
     coreWorks t 5 = true ∧ (coreAt t 5).mrun.find? mmDone = some (mmRuns mmNarrow 128) ∧ mmDone (mmRuns mmNarrow 127) = false) ∧
    (let v := desc [(0, 0x20)]
     let t := coreTick (run1 { vrun := [vxRuns v 4] }) 5 0
     coreWorks t 5 = true ∧ coreWorks (coreTick State.reset 5 0) 5 = false ∧ (coreAt t 5).vrun.find? (vxDone t.variant) = some (vxRuns v 4) ∧ vxDone .x (vxRuns v 3) = false) ∧
    (coreAt (coreTick (run1 {}) 5 9) 5).mrun.find? mmDone = none ∧ (coreAt (coreTick (run1 {}) 5 9) 5).vrun.find? (vxDone .x) = none := by
  decide +kernel

/-- An operand specifier: kind, format, address, stride. -/
def spec (k f a st : Nat) : Nat := st + a * 2 ^ 16 + f * 2 ^ 41 + k * 2 ^ 45

/-- A VX of two elements on vector registers, with operation `v`. -/
def vx (v : Nat) : BitVec 512 :=
  desc ([(0, 0x20), anyCycle, (480, v), (256, spec 2 0 0 0), (304, spec 2 0 1 0), (352, if usesS2 v then spec 2 0 2 0 else 0),
    (400, if usesS3 v then spec 2 0 3 0 else 0)] ++ shape 1 2 1)

/-- A core with a VX at the head of its queue. -/
def wVx (v : Nat) : State := run1 { vq := [queued (vx v)] }

/-- Every operation can start, be a no-op, and find nothing to start. -/
theorem wit_VxRuns : ∀ v ∈ [0, 1, 2, 3, 4, 5, 6, 7, 8, 9, 10, 11, 12, 16, 17, 24, 25],
    (vxReady (coreTick (wVx v) 5 9) 5 v = some (queued (vx v)) ∧ isNoop (vx v) = false) ∧
      (let q := queued (desc [(0, 0x20), anyCycle, (480, v)])
       vxReady (coreTick (run1 { vq := [q] }) 5 9) 5 v = some q ∧ isNoop q.raw = true) ∧
      vxReady (coreTick (run1 {}) 5 9) 5 v = none := by decide +kernel

theorem wit_DestinationsTakeTheirElements :
    (dOpc (vx 9) = 0x20 ∧ isNoop (vx 9) = false) ∧
    (([(0, 1), (1, 2)] : List (Nat × Nat)).map Prod.fst).Nodup ∧ (∀ c ∈ ([(0, 1), (1, 2)] : List (Nat × Nat)), c.1 < 1 * 2) ∧
    (oKind (spec 2 0 31 0) = 2 ∧ oFmt (spec 2 0 31 0) ≤ 10) ∧ (oKind (spec 1 10 3 0) = 1 ∧ oFmt (spec 1 10 3 0) = 10 ∧ oAddr (spec 1 10 3 0) = 3) ∧
      (oKind (spec 5 4 64 32) = 5 ∧ packSize (oFmt (spec 5 4 64 32)) 32 ≤ oStride (spec 5 4 64 32)) ∧
      (oKind (spec 6 0 64 32) = 6 ∧ packSize (oFmt (spec 6 0 64 32)) 8 ≤ oStride (spec 6 0 64 32)) := by decide +kernel

theorem wit_PackedVectorsReadBack :
    (∀ k ∈ [3, 0, 15], k < 2 ^ fmtW 7) ∧ (∀ k ∈ [2 ^ 128 - 1], k < 2 ^ fmtW 10) ∧ packGet 7 (packVec 7 [3, 0, 15]) 2 = 15 := by
  decide +kernel

/-! ### The mover and packets -/

/-- A region that covers all of CM. -/
def allCm : Region := { space := 0, base := 0, size := 0x280000, rd := true, wr := true, str := false, segFirst := 0, segLast := 0 }

/-- A mover descriptor of 32-byte rows, from CM address 0x100 to CM address 0x1000, with the indices at 0x2000. -/
def moves (opc rows : Nat) : BitVec 512 :=
  desc ([(0, opc), anyCycle, (256, 0x100), (300, 0x1000), (344, 64), (368, 64), (392, 4), (396, 4)] ++
    (if opc = 0x30 then [] else [(400, 0x2000)]) ++ shape rows 32 1)

/-- A SEND of one packet of 64 bytes to CM of core 6 of the rank's logical die 0. -/
def sends (opc : Nat) : BitVec 512 := desc ([(0, opc), anyCycle, (256, 0x100), (300, 0x1000), (410, 6)] ++ shape 1 1 1)

theorem wit_MoverDescriptorsStart :
    (∀ opc ∈ [0x30, 0x31, 0x32], moveReady (coreTick (run1 { dq := [queued (moves opc 2)] }) 5 9) 5 opc = some (queued (moves opc 2)) ∧
      moveReady (coreTick (run1 { dq := [queued (moves opc 0)] }) 5 9) 5 opc = some (queued (moves opc 0))) ∧
      (∀ opc ∈ [0x33, 0x34], moveReady (coreTick (run1 { dq := [queued (sends opc)] }) 5 9) 5 opc = some (queued (sends opc))) := by
  decide +kernel

/-- A mover descriptor that started in cycle 0. -/
def moving (d : BitVec 512) : MoveRun :=
  { d := queued d, start := 0, row := 0, unit := 0, lastQ := 0, lastWr := 0, logged := false, idx := [], handed := 0 }

/-- The premises of a unit's issue, by default in cycle 4, the first in which it may issue. -/
def issuable (d : BitVec 512) (c : Nat := 4) : Bool :=
  let t := coreTick (run1 { drun := [moving d], regions := [allCm] }) 5 c
  let i := (readIndex t 5 (moving d)).1
  coreWorks t 5 && (coreAt t 5).drun.find? (fun m => !allIssued m) == some (moving d) && decide (unitEarliest (moving d) ≤ absNow t) &&
    !unitHeldUp t 5 (moving d) i

/-- A MOV to HBM of die 1, which crosses between dies. -/
def crosses : BitVec 512 := desc ([(0, 0x30), anyCycle, (256, 0x100), (300, dieHbm), (340, 3), (344, 64), (368, 64), (392, 4), (396, 4)] ++ shape 2 32 1)
def crossing : BitVec 512 := desc ([(0, 0x33), anyCycle, (256, dieHbm), (296, 3), (300, 0x1000), (410, 6)] ++ shape 1 1 1)

/-- A write that commits in cycle 9. -/
def landing (acc : Bool) (k : Option PktEnd) : Landing :=
  { due := 9, addr := cmAddr 5 0x1000, bytes := List.replicate 16 1, acc := acc, cnt := 1, tag := 0, pkt := k }

/-- The index 0xFFFFFFFF makes an empty row. -/
def emptyRow (opc : Nat) : State :=
  { run1 { drun := [{ moving (moves opc 2) with idx := [0xFFFFFFFF, 0] }], regions := [allCm] } with mem := (List.range 4).map (fun i => (cmAddr 5 (0x2000 + i), 0xFF)) }

theorem wit_MoverUnitMovesItsLines :
    (∀ opc ∈ [0x30, 0x31, 0x32], issuable (moves opc 2) = true ∧ isSend (moves opc 2) = false) ∧
      (∀ opc ∈ [0x31, 0x32], let t := coreTick (emptyRow opc) 5 4
        (rowEmpty (coreAt t 5) (moves opc 2) (readIndex t 5 { moving (moves opc 2) with idx := [0xFFFFFFFF, 0] }).1).1 = true) ∧
      (let t := coreTick (run1 { drun := [moving (moves 0x30 2)], regions := [allCm] }) 5 3
       coreWorks t 5 = true ∧ ¬(unitEarliest (moving (moves 0x30 2)) ≤ absNow t)) ∧
      (let t := coreTick { run1 { drun := [moving (moves 0x30 2)], regions := [allCm] } with cyc := 4, bankUse := [(bankKey (cmAddr 5 0x100), 96)] } 5 4
       unitHeldUp t 5 (moving (moves 0x30 2)) (readIndex t 5 (moving (moves 0x30 2))).1 = true) ∧
      (issuable crosses 200 = true ∧ ∃ k ∈ unitRanges 5 crosses (moving crosses) 0 false, dieAt k.1 ≠ dieOf 5) ∧
      (∀ acc ∈ [false, true], (landing acc none).pkt = none ∧ (landing acc none).due ≤ absNow { run1 {} with cyc := 9 } ∧
        absNow { run1 {} with cyc := 8 } < (landing acc none).due) := by decide +kernel

theorem wit_SendUnitsFormPackets :
    (issuable crossing 200 = true ∧ ∃ k ∈ unitRanges 5 crossing (moving crossing) 0 false, dieAt k.1 ≠ dieOf 5) ∧
    ∀ opc ∈ [0x33, 0x34], issuable (sends opc) = true ∧ isSend (sends opc) = true ∧ rowUnits (sends opc) 0 0 false = 1 ∧
      issuable (desc ([(0, opc), anyCycle, (256, 0x100), (300, 0x1000)] ++ shape 1 9 1)) = true ∧
      rowUnits (desc ([(0, opc), anyCycle, (256, 0x100), (300, 0x1000)] ++ shape 1 9 1)) 0 0 false = 2 := by decide +kernel

/-- A packet of 64 bytes to CM address 0x1000 of core 5. -/
def aPacket (ptype : Nat) : Packet :=
  { addr := 0x1000, space := 0, inc := 1, ctr := 55, cv := true, len := 1, ep := 5, die := 0, dest := 0, cls := .plan, ptype := ptype,
    payload := List.replicate 64 1 }

theorem wit_PacketsAreDeliveredOrRefused :
    (∀ pt ∈ [1, 2], let s := run1 { regions := [allCm] }
      refusal s 0 (aPacket pt) = 0 ∧ boundDie s 0 0 = some 0 ∧ packetAddr s 0 (aPacket pt) = some 0x1000) ∧
      (refusal (run1 { regions := [{ allCm with space := 2 }] }) 0 (aPacket 1) ≠ 0) ∧ refusal State.reset 0 (aPacket 1) = 1 ∧ refusal (run1 {}) 0 { aPacket 1 with die := 4 } = 2 ∧ refusal (run1 {}) 0 (aPacket 3) = 3 ∧
      refusal (run1 {}) 0 (aPacket 1) = 4 ∧ refusal (run1 { regions := [allCm] }) 0 { aPacket 1 with ctr := 56 } = 5 := by decide +kernel

/-- What the write of a packet with an increment leaves to do; `port`: its banks have served it. -/
def ending (ask port : Bool) : PktEnd :=
  { part := 0, link := 3, era := 0, ures := 1, ush := 0, cv := true, ctr := 55, inc := 1, ask := ask, wrote := false, port := port }

theorem wit_PacketWritesLand :
    (let s := { run1 { arrQ := [] } with cyc := 9 }
     ∀ acc ∈ [false, true], ∀ ask ∈ [false, true], ∀ port ∈ [false, true],
       (landing acc (some (ending ask port))).pkt = some (ending ask port) ∧ (landing acc (some (ending ask port))).due ≤ absNow s ∧
         dieOf 5 < 4 ∧ (ending ask port).part < 4 ∧ (ending ask port).cv = true ∧ accesses (cmAddr 5 0x1000) 16 ≠ [] ∧ planState s (partOf s 5) = 3 ∧ (coreAt s 5).arrQ.length < 64) ∧
    (let full := { run1 { arrQ := List.replicate 64 { ctr := 55, inc := 1, ready := 9, release := false, key := 0, comp := 0 } } with cyc := 9 }
     64 ≤ (coreAt full 5).arrQ.length ∧ planState full (partOf full 5) = 3 ∧ planState State.reset (partOf State.reset 5) ≠ 3) := by decide +kernel

theorem wit_PacketWritesWait :
    (let l := landing false (some (ending false false))
     let s := { run1 { lands := [l] } with cyc := 9 }
     let ac := accesses l.addr l.bytes.length
     l ∈ (coreAt s 5).lands ∧ bankRoom s 5 l.due 4 ac = true ∧
       bankRoom { s with bankUse := [(bankKey (cmAddr 5 0x1000), 96)] } 5 l.due 4 ac = false) ∧
    (let h := flatAddr 5 3 0
     let s := { run1 {} with cyc := 1000 }
     let ch := channelKeys 3 h (h + 64)
     ch = channelKeys 3 h (h + 16) ∧ channelsReady s ch = true ∧ channelsClear s 9 4 ch = true ∧
       channelsReady { s with chReady := ch.map (fun k => (k, 1001)) } ch = false) := by decide +kernel

/-- A core with one packet that waits since cycle 9, in a fabric in which the packets of dimension 0 leave in the positive direction on
link 3, which is UP. -/
def wHand (dir : Nat) (x : LinkSt) : State :=
  { run1 { packets := [(9, aPacket 1, 1, 0)] } with
      links := [(3, x)], blobs := [(rkey 0x3410 1, leBytes 8 8 ++ List.replicate 56 0), (rkey 0x3410 2, BitVec.ofNat 8 dir :: List.replicate 63 3)],
      regs := [(rkey 0x2120 1, 3), (rkey (0x3001 + 16 * 3) 1, 3), (rkey 0x7008 1, 5)] }

theorem wit_PacketsAreHandedOff :
    (∀ dir ∈ [0, 1, 3], let t := coreTick (wHand dir {}) 5 9
      coreWorks t 5 = true ∧ (coreAt t 5).packets = [(9, aPacket 1, 1, 0)] ∧ 9 ≤ absNow t) ∧
      route (coreTick (wHand 1 {}) 5 9) 0 0 0 .plan = some (some 3) ∧ route (coreTick (wHand 0 {}) 5 9) 0 0 0 .plan = some none ∧
      route (coreTick (wHand 3 {}) 5 9) 0 0 0 .plan = none ∧
      (let t := coreTick (wHand 1 { planQ := List.replicate 64 (aPacket 1) }) 5 9
       ∀ e ∈ (coreAt t 5).packets, packetWaits t 5 e = true) ∧
      (let t := coreTick (wHand 1 {}) 5 8
       ∀ e ∈ (coreAt t 5).packets, absNow t < e.1) := by decide +kernel

/-- A mover descriptor whose units have all issued and whose last write fell in cycle 8. -/
def moved (d : BitVec 512) (n : Nat) : MoveRun := { moving d with row := n, handed := n, lastWr := 8 }

theorem wit_MoverDescriptorsComplete :
    (let t := coreTick (run1 { drun := [moved (moves 0x30 2) 2] }) 5 9
     coreWorks t 5 = true ∧ (coreAt t 5).drun.find? (fun m => allIssued m && isSend m.d.raw == false &&
       (!false || decide (dM m.d.raw ≤ m.handed)) && decide (m.lastWr + 1 ≤ absNow t)) = some (moved (moves 0x30 2) 2)) ∧
    (let t := coreTick (run1 { drun := [moved (sends 0x33) 1] }) 5 9
     coreWorks t 5 = true ∧ (coreAt t 5).drun.find? (fun m => allIssued m && isSend m.d.raw == true &&
       (!true || decide (dM m.d.raw ≤ m.handed)) && decide (m.lastWr + 1 ≤ absNow t)) = some (moved (sends 0x33) 1)) := by
  decide +kernel

/-! ### Synchronisation -/

/-- A SYNC that adds 7 to counter 2 of cores 0 and 15 of cluster 0. -/
def aSync : BitVec 512 := desc ([(0, 0x40), anyCycle, (268, 2), (280, 7), (312, 0x8001)] ++ shape 1 1 1)

theorem wit_SyncPostsToItsTargets :
    syncReady (coreTick (run1 { yq := [queued aSync] }) 5 9) 5 0x40 = some (queued aSync) ∧ isNoop aSync = false ∧
      syncReady (coreTick (run1 { yq := [queued noopSync] }) 5 9) 5 0x40 = some (queued noopSync) ∧ isNoop noopSync = true := by
  decide +kernel

/-- An increment that is due in cycle 9, and one of a release. -/
def aPost : PortInc := { ctr := 2, inc := 7, ready := 9, release := false, key := 5, comp := 0 }
def aRelease : PortInc := { ctr := 2, inc := 7, ready := 9, release := true, key := 0, comp := 1 }

theorem wit_PortsApplyOneIncrement :
    (let t := coreTick (run1 { canQ := [aPost, aRelease], arrQ := [aPost] }) 5 9
     let x := coreAt t 5
     coreWorks t 5 = true ∧ firstInc (x.canQ.filter (fun k => decide (k.ready ≤ absNow t))) = some aRelease ∧ sourceUsed x 2 = false ∧
       firstInc (x.arrQ.filter (fun k => decide (k.ready ≤ absNow t))) = some aPost ∧ sourceUsed x 1 = false) ∧
    (let t := coreTick (run1 { canQ := [aPost], arrQ := [aPost] }) 5 8
     firstInc ((coreAt t 5).canQ.filter (fun k => decide (k.ready ≤ absNow t))) = none ∧
       firstInc ((coreAt t 5).arrQ.filter (fun k => decide (k.ready ≤ absNow t))) = none) ∧
    (let t := coreTick (run1 { addCyc := 9, addNow := [{ ctr := 1, src := 1, inc := 1 }, { ctr := 1, src := 2, inc := 1 }] }) 5 9
     coreWorks t 5 = true ∧ sourceUsed (coreAt t 5) 2 = true ∧ sourceUsed (coreAt t 5) 1 = true) := by decide +kernel

/-- A BARRIER of cores 5 and 6 of a cluster, with BID 1; `mb` is multi-beat. -/
def aBarrier (mb : Nat) : BitVec 512 := 
  desc ([(0, 0x41), anyCycle, (15, 1 - mb), (48, 1 - mb), (256, 1), (265, mb), (282, 0x60), (304, mb)] ++ shape 1 1 1)

/-- An arrival of a core, on its way since cycle 9. -/
def arrival (u : Nat) : BArr := { u := u, d := queued (aBarrier 0), cyc := 9 }

/-- The instance of BID 1 that core 6 has opened. -/
def openInst : BInst := coreArrival State.reset (arrival 6)

/-- The partition has an arrival of core 5, and these instances. -/
def wArrive (l : List BInst) : State :=
  { run1 {} with parts := [(0, { segs := [(1, 1)], dieMap := [0, 1, 2, 3], arrs := [arrival 5], insts := l, reach := l })],
                 regs := [(rkey 0x2120 1, 3), (rkey 0x2210 4, 2), (rkey 0x7008 1, 5)] }

theorem wit_BarrierArrivalsOpenAndJoin :
    (∀ mb ∈ [0, 1], syncReady (coreTick (run1 { yq := [queued (aBarrier mb)] }) 5 9) 5 0x41 = some (queued (aBarrier mb)) ∧
      isNoop (aBarrier mb) = false ∧ bMB (aBarrier mb) = (mb == 1)) ∧
    (let b := desc [(0, 0x41), anyCycle]
     syncReady (coreTick (run1 { yq := [queued b] }) 5 9) 5 0x41 = some (queued b) ∧ isNoop b = true) ∧
    syncReady (coreTick (run1 {}) 5 9) 5 0x41 = none ∧
    (0 ∈ partitions (wArrive []) ∧ planState (wArrive []) 0 = 3 ∧ (partAt (wArrive []) 0).arrs = [arrival 5] ∧
      (arrival 5).cyc ≤ absNow (tick (wArrive []) 9) ∧ absNow (tick (wArrive []) 8) < (arrival 5).cyc ∧
      (partAt (tick (wArrive []) 9) 0).insts ++ (partAt (tick (wArrive []) 9) 0).reach = []) ∧
    (let t := tick (wArrive [openInst]) 9
     let a := coreArrival t (arrival 5)
     regionStill t (nodeRegion a) = false ∧
       regionStill (tick { wArrive [] with stretchNow := (List.range 16).map (fun g => (g, [9])) } 9) (nodeRegion a) = true ∧
       (partAt t 0).insts = [openInst] ∧ sameInst openInst a = true ∧ ∀ k ∈ (partAt t 0).reach, sameMasks k a = true) ∧
    (let t := tick (wArrive [{ openInst with cmask := 1 }]) 9
     let a := coreArrival t (arrival 5)
     2 ∈ pathLevels a.scope ∧ firstAt t 0 a.bid 2 5 = some { openInst with cmask := 1 } ∧ sameMasks { openInst with cmask := 1 } a = false) ∧
    (let t := tick (wArrive []) 9
     1 ∈ canopyKids t 0 ∧ (linkState { t with regs := kset t.regs (rkey 0x3011 1) 3 } 1 = 3) ∧ 2 ∉ canopyKids t 0 ∧ planState t (partLow t (1 / 16)) = 3) := by
  decide +kernel

/-- A multi-beat instance open since beat 0, and one whose release is due in cycle 9. -/
def wEnd : State :=
  { run1 {} with beat := 8, parts := [(0, { segs := [(1, 1)], insts := [{ openInst with mb := true }, { openInst with bid := 2, relAt := some 9 },
                                                                       { openInst with bid := 3, scope := 3, mb := true }], grove := 2 })],
                 regs := [(rkey 0x2120 1, 3), (rkey 0x2210 6, 1), (rkey 0x7008 1, 5)] }

theorem wit_BarriersEnd :
    (0 ∈ partitions wEnd ∧ planState wEnd 0 = 3 ∧
      instAt (tick wEnd 9) 0 2 0 0 (fun i => !i.bad) = some { openInst with bid := 2, relAt := some 9 } ∧
      regionStill (tick wEnd 9) (nodeRegion openInst) = false ∧
      regionStill (tick { wEnd with stretchNow := (List.range 16).map (fun g => (g, [9])) } 9) (nodeRegion openInst) = true ∧
      9 ≤ absNow (tick wEnd 9) ∧ absNow (tick { wEnd with beat := 0 } 8) < 9 ∧ (openInst.cores.map (fun k => k.1)).Nodup) ∧
    (instAt wEnd 0 1 0 0 (fun i => i.mb && decide (8 ≤ beatDiff wEnd.beat i.beat)) = some { openInst with mb := true } ∧ topHere wEnd 0 0 = true) ∧
    (instAt wEnd 0 3 3 0 (fun i => i.mb && decide (8 ≤ beatDiff wEnd.beat i.beat)) = some { openInst with bid := 3, scope := 3, mb := true } ∧
      topHere wEnd 0 3 = false) ∧
    (let t := tick wEnd 9
     canopyParent t 0 = some 1 ∧ canopyParent t 0 ≠ some 2 ∧ planState t (partLow t (1 / 16)) = 3 ∧ planState t (partLow t (2 / 16)) = 3) := by
  decide +kernel

/-! ### Edges, time and faults -/

/-- Set numeric entries, given as index, sub-index and value. -/
def put (s : State) (l : List (Nat × Nat × Nat)) : State := l.foldl (fun t e => wr t e.1 e.2.1 e.2.2) s

/-- READY with the rails up and nothing loaded. -/
def ready : State := put { State.reset with railsUp := true, pwrGood := true } [(0x7008, 1, 5), (0x6040, 1, 0)]

theorem wit_BeatEdgeAdvancesTime :
    (ready.powered = true ∧ ready.railsUp = true) ∧ (State.reset.powered = true ∧ State.reset.railsUp = false) ∧
      busyCores ready = [] ∧ (∀ p ∈ partitions ready, planState ready p ≠ 3) ∧ busyCores (run1 { mq := [queued 0] }) = [5] := by decide +kernel

/-- A RUNNING partition with a part state of its own and a core that has a descriptor outstanding. -/
def wEdge (q : PartSt) : State := { run1 { outst := [{ cnt := 1, tag := 0, opc := 0x20, sig56 := false }] } with parts := [(0, q)] }

theorem wit_EdgeFreezesAndChecksPartitions :
    (let s := wEdge { alarm := true }
     0 ∈ partitions s ∧ planState s 0 = 3 ∧ (partAt s 0).alarm = true ∧ (partAt s 0).relPending = false ∧ 5 ∈ partCores s 0 ∧
       (kget s.cores 5).isSome = true) ∧
    (let s := wEdge { segs := [(1, 1)] }
     planState s 0 = 3 ∧ (partAt s 0).alarm = false ∧ (partAt s 0).ended = false ∧ 5 ∈ partCores s 0 ∧ overran (coreAt s 5) = true) ∧
    (let s := wEdge { ended := true }
     planState s 0 = 3 ∧ (partAt s 0).alarm = false ∧ (partAt s 0).ended = true ∧ (partAt s 0).planFault = false) := by decide +kernel

/-- A pending announcement of N = 24 at beat 0. -/
def stepBytes : List Byte := leBytes 6 0 ++ leBytes 1 24 ++ leBytes 1 1

theorem wit_EdgeEventsTakeEffect :
    (let s := put ready [(0x2120, 1, 2), (0x2120, 5, 2 ^ 63)]
     s.powered = true ∧ 0 ∈ partitions s ∧ startDue s 0 = true ∧ startDue ready 0 = false) ∧
    (let s := wEdge { ended := true }
     0 ∈ partitions s ∧ planState s 0 = 3 ∧ (partAt s 0).ended = true ∧ (partAt s 0).alarm = false ∧ s.cyc = 0 ∧ (partAt s 0).cmdQ = []) ∧
    (kChangeDue (put ready [(0x2100, 3, 2 ^ 63)]) = true ∧ kChangeDue ready = false) ∧
    (let s := wb ready 0x2000 5 stepBytes
     pendingStep s = some (s.beat, 24) ∧ s.cyc = 0 ∧ pendingStep ready = none) := by decide +kernel

theorem wit_TimingStateAndInputs :
    (let s := put ready [(0x2000, 10, 63), (0x3001 + 16 * 63, 1, 3)]
     timingRoot s = false ∧ timingState s = 0 ∧ rg s 0x2000 10 < 64 ∧ linkState s (rg s 0x2000 10) = 3 ∧ isNative s (rg s 0x2000 10) = true) ∧
    ¬(timingRoot ready = false ∧ timingState ready = 0 ∧ rg ready 0x2000 10 < 64 ∧ linkState ready (rg ready 0x2000 10) = 3) ∧
    (timingState (put ready [(0x2000, 13, 1)]) = 1 ∧ (1000 : Nat) ≤ 1000) ∧
    (let s := put ready [(0x2000, 13, 4)]
     timingState s = 4 ∧ s.cyc = 0 ∧ s.mcDown = false) ∧
    (ready.refLost = false ∧ timingRoot ready = false ∧ timingState (put ready [(0x2000, 13, 4)]) ≠ 0) ∧
    (let s := put ready [(0x2000, 9, 1)]
     timingRoot (tick s 9) = true ∧ (tick s 9).ppsSeen = false ∧ (tick { s with ppsSeen := true } 9).ppsSeen = true) := by decide +kernel

/-- Link 5 is TIMING_ACTIVE and UP, in a given timing state; links 1 and 5 are the canopy parent and a child. -/
def wFleet (st : Nat) : State :=
  put ready [(0x2000, 13, st), (0x2000, 14, 5), (0x3001 + 16 * 5, 1, 3), (0x2210, 6, 5), (0x2210, 4, 2), (0x2120, 1, 3)]

/-- A BEATSYNC with a known reference marker. -/
def aSyncMsg (k : Nat) : BeatSync :=
  { origin := 0, hops := 1, sbeat := 0, scyc := 0, sfrac := 0, k := k, n := 24, flags := 0, stepN := 0, stepAt := 0, ppsBeat := 0, ppsCyc := 0,
    ppsFrac := 0, ppsSec := 0, ring := 0, known := true, arrBeat := 0, arrUnits := 0 }

/-- An ALARM. -/
def anAlarm : CanopyMsg := { mtype := 5, origin := 3, beat := 7, cycle := 0, hops := 1, cls := 3, code := 0x0301, level := 0, unit := 0 }

theorem wit_FleetMessagesTakeEffect :
    (let s := put ready [(0x2000, 9, 1), (0x3001 + 16 * 5, 1, 3)]
     timingRoot (tick s 9) = true ∧ (tick s 9).railsUp = true ∧ (tick s 9).beat % syncPeriods (tick s 9) 1 = 0 ∧ timingLinks (tick s 9) = [5] ∧
       (linkAt (tick s 9) 5).synced ≠ some 0 ∧ (linkAt (setLink s 5 { synced := some 0 }) 5).synced = some s.beat) ∧
    (partLow (wFleet 2) (63 / 16) = timingPart (wFleet 2) ∧ 63 < linksOf (wFleet 2).variant) ∧
    (let s := wFleet 2
     timingActive s = 5 ∧ s.fstepSeq ≠ 3 + 1 ∧ pendingStep s ≠ some (2, 24) ∧ s.fstepSeen ≠ [2, 24] ∧ 2 ≤ beatDiff 2 s.beat ∧
       timingActive s ≠ 6 ∧ s.fstepSeq = 0) ∧
    (let s := wFleet 2
     timingActive s = 5 ∧ isNative s 5 = true ∧ isNative (put s [(0x3000 + 16 * 5, 2, 1)]) 5 = false ∧ (aSyncMsg 10).known = true ∧ timingState s = 2 ∧ rg s 0x2100 1 = (aSyncMsg (rg s 0x2100 1)).k ∧ s.phaseBad = false ∧ bit (aSyncMsg 10).flags 1 = false) ∧
    (let s := wFleet 3
     timingState s = 3 ∧ timingActive s = 5 ∧ isNative s 5 = true ∧ (aSyncMsg 255).k ≠ rg s 0x2100 1 ∧ bit (aSyncMsg 255).flags 1 = false ∧
       timingActive s ≠ 6) ∧
    (let s := wFleet 3
     5 ∈ canopyLinks s (partLow s (5 / 16)) ∧ 1 ∈ canopyLinks s (partLow s (1 / 16)) ∧
       (anAlarm.origin, anAlarm.beat) ∉ (partAt s 0).seen ∧ planState s 0 = 3) ∧
    (let s := setPart (wFleet 3) 0 { seen := [(3, 7)] }
     (anAlarm.origin, anAlarm.beat) ∈ (partAt s (partLow s (5 / 16))).seen) := by decide +kernel

/-- A record of a DATA_FAULT of core 5. -/
def aRec : LogRec := coreRec ready 5 3 0x0301 []

theorem wit_MonitorsAndFaultRecords :
    (3 < dies ready.variant ∧ absNow (tick ready 9) ∉ (kget (tick ready 9).stretchNow (4 * 3 + 3)).getD [] ∧
      absNow (tick { ready with stretchNow := [(15, [9])] } 9) ∈ (kget (tick { ready with stretchNow := [(15, [9])] } 9).stretchNow (4 * 3 + 3)).getD []) ∧
    (∀ occ ∈ [0, 1, 7, 8], occ < 256 ∧ ready.faultq.length < 64) ∧
    (∀ k ∈ [(10, 896), (11, 1920)], let s := { put ready [(0x2100, 1, k.1)] with ecc := [(2 * dieHbm + 63 * 64, 1)] }
      patrols (tick s k.2) 2 63 = true ∧ patrols (tick s (k.2 - 1)) 2 63 = false ∧ kget (tick s k.2).ecc (2 * dieHbm + 0 * 4096 + 63 * 64) = some 1 ∧
        (kget s.patrol (64 * 2 + 63)).getD 0 < dieHbm / 4096) ∧
    (let s := { run1 {} with faultq := [aRec] }
     firstRec s s.faultq = some aRec ∧ s.mcDown = false ∧ 3 ≤ aRec.cls ∧ aRec.cls ≤ 5 ∧ 0 ∈ concerns s aRec ∧ planState s 0 = 3) ∧
    (let s := { ready with faultq := [aRec], mcDown := true }
     firstRec s s.faultq = some aRec ∧ s.mcDown = true ∧ s.kept.length < 256) ∧ ready.faultq = [] := by decide +kernel

/-! ### Links -/

/-- READY, with link 63 in a state and with its state record. -/
def link (st : Nat) (x : LinkSt) : State := { put ready [(0x3001 + 16 * 63, 1, st)] with links := [(63, x)] }

/-- An IDENT of a peer that is ON. -/
def aPeer : Ident := { link := 1, flags := 1, coord := 2, valid := true, serial := List.replicate 16 0x41 }

/-- A trailer that acknowledges SEQ `a` and returns no credit. -/
def trail (a : Nat) : Trailer := { ack := a, credits := [0, 0, 0, 0, 0] }

theorem wit_LinksGoDownAndFail :
    (63 < linksOf ready.variant ∧ linkState (link 3 {}) 63 = 3 ∧ linkState (link 2 {}) 63 ≠ 3) ∧
    (let s := put (link 3 {}) [(0x2000, 14, 63), (0x2000, 13, 3)]
     linkState s 63 = 3 ∧ timingActive s = 63 ∧ timingRoot s = false ∧ timingState s = 3 ∧ timingActive (link 3 {}) ≠ 63) ∧
    linkState (link 4 {}) 63 = 4 ∧
    (let s := link 3 { waiting := [(2, (0, true))] }
     linkState s 63 = 3 ∧ (linkAt s 63).waiting.any (fun w => w.2.2) = true) ∧
    (∀ st ∈ [1, 4], 1 ≤ linkState (link st {}) 63 ∧ linkState (link st {}) 63 ≤ 4) := by decide +kernel

theorem wit_LinksTrainAndResume :
    (linkState (link 1 {}) 63 = 1 ∧ (linkAt (link 1 {}) 63).retrain = [] ∧ (linkAt (link 1 {}) 63).identRx = false) ∧
    (linkAt (link 1 { identRx := true }) 63).identRx = true ∧ linkState (link 1 { trained := true }) 63 = 1 ∧
    (let s := link 4 { peer := some aPeer, trained := true }
     linkState s 63 = 4 ∧ (linkAt s 63).peer = some aPeer ∧ (linkAt s 63).trained = true ∧ (linkAt s 63).resumed = none ∧
       (linkAt s 63).identRx = false ∧ (linkAt (setLink s 63 { linkAt s 63 with resumed := some 7 }) 63).resumed = some 7) ∧
    (∀ w ∈ [0, 1], let s := { link 2 { rttWins := w, peer := some aPeer } with blobs := [(rkey 0x1000 4, List.replicate 16 0x42)] }
     linkState s 63 = 2 ∧ (w = 0 → echoes s 63 w = true) ∧ (w = 1 → echoes s 63 w = false)) ∧
    (linkState (link 2 {}) 63 = 2 ∧ linkState (link 3 {}) 63 = 3) ∧
    (linkState (link 4 {}) 63 = 4 ∧ (linkAt (link 4 {}) 63).peer ≠ some aPeer ∧ (linkAt (link 4 {}) 63).identRx = false) ∧
    (let s := put (link 2 { peer := some aPeer, rttWins := 1 }) [(0x3000 + 16 * 63, 1, 2)]
     linkState s 63 = 2 ∧ rg s (0x3000 + 16 * 63) 1 = 2 ∧ (linkAt s 63).peer.any (fun q => bit q.flags 0) = true ∧ rttNeeded s 63 ≤ 2) ∧
    (let s := link 4 { identRx := true, trained := true, held := [{ seq := 7, pkt := aPacket 1, ures := 2, ush := 0, pieces := 1, replays := 0, queued := false }] }
     linkState s 63 = 4 ∧ (linkAt s 63).identRx = true ∧ (linkAt s 63).trained = true ∧ (linkAt s 63).identRx = true ∧ (4095 : Nat) < 4096 ∧
       (linkAt (takeTrailer s 63 (trail 0)) 63).held.map HeldFrame.seq = [7]) ∧
    (linkState (link 6 { testMs := 1000 }) 63 = 6 ∧ (999 : Nat) < (linkAt (link 6 { testMs := 1000 }) 63).testMs ∧
      (linkAt (link 6 { testMs := 1000 }) 63).testMs ≤ 1000) ∧
    (let s := link 3 { draining := true, poolUsed := 1 }
     (linkAt s 63).draining = true ∧ ((linkAt s 63).held.isEmpty && (linkAt s 63).poolUsed == 0) = false) := by decide +kernel

/-- A link that is UP with all its credits. -/
def upLink (x : LinkSt) : LinkSt := { x with res := poolUnits, crSent := [0, 0, 0, 0, 0], crSeen := [0, 0, 0, 0, 0] }

/-- A link whose slots 1 and 2 are PLAN slots. -/
def wSlots (x : LinkSt) : State :=
  { put ready [(0x3001, 1, 3), (0x2120, 1, 3)] with links := [(0, upLink x)], parts := [(0, { segs := [(1, 1)], slots := [(0, 6)] })] }

/-- A serving packet, and a held frame. -/
def aServe : Packet := { aPacket 1 with cls := .serve }
def aHeld (q n : Nat) : HeldFrame := { seq := q, pkt := aServe, ures := 2, ush := 0, pieces := 1, replays := n, queued := false }

theorem wit_FramesAreSent :
    (let s := wSlots { planQ := [aPacket 1], txNext := 4095 }
     mayStart s 0 .plan = true ∧ (linkAt s 0).planQ.head? = some (aPacket 1) ∧ planSlot (tick s 32) 0 = true ∧ planSlot (tick s 95) 0 = true ∧
       frameBlock s 0 (aPacket 1) = none ∧ (linkAt s 0).txNext < 4096 ∧
       ∀ c ∈ [32, 95], regionStill (tick s c) (linkRegion 0) = false) ∧
    (∀ cls ∈ [TClass.canopy, .serve, .mgmt], let k := { aPacket 1 with cls := cls }
     let s := wSlots { unsQ := [k] }
     mayStart s 0 cls = true ∧ nextOf (linkAt s 0) cls = some k ∧ planSlot (tick s 31) 0 = false ∧ planSlot (tick s 96) 0 = false ∧
       classAhead (tick s 31) 0 cls = false ∧ classAhead (tick s 96) 0 cls = false ∧ frameBlock s 0 k = none ∧
       fwdFirst (linkAt s 0) cls = false ∧ ∀ c ∈ [31, 96], regionStill (tick s c) (linkRegion 0) = false) ∧
    (let s := wSlots { replayQ := [7], held := [aHeld 7 0] }
     linkState s 0 = 3 ∧ planSlot (tick s 0) 0 = false ∧ (linkAt s 0).replayQ = [7] ∧
       (linkAt s 0).held.find? (fun h => h.seq == 7) = some (aHeld 7 0)) ∧
    (let f : Fwd := { src := 1, ures := 2, ush := 0, str := .unsched, pkt := aServe, ahead := 0 }
     let s := wSlots { fwdQ := [f] }
     planSlot (tick s 0) 0 = false ∧ (linkAt s 0).draining = false ∧ nextFwd (linkAt s 0) .unsched = some f ∧
       classAhead (tick s 0) 0 .serve = false ∧ frameBlock s 0 f.pkt = none ∧
       regionStill (tick s 0) (linkRegion 0) = false ∧ f.ahead = 0) ∧
    (linkState (link 2 {}) 63 = 2 ∧ (linkAt (link 3 { unsent := true }) 63).unsent = true ∧ linkState (link 3 {}) 63 = 3) ∧
    (let s := put (link 3 { sv2Acc := 1 }) [(0x3000 + 16 * 63, 2, 1)]
     isSv2 s 63 = true ∧ (linkAt s 63).sv2Acc ≠ 0) ∧
    (linkAt (link 3 { lost := [1] }) 63).lost ≠ [] := by decide +kernel

/-- The bytes of a frame that link 0 of another package sends under SEQ 5. -/
def aFrame0 : List Byte := frameBytes (wSlots {}) 0 (aPacket 1) 5 2 0

/-- The link that expects it, in a fabric whose first dimension ends here. -/
def wRx : State :=
  { wSlots { rxBase := 5, rxHigh := 4 } with blobs := [(rkey 0x3410 2, 0 :: List.replicate 63 3), (rkey 0x3410 3, 0 :: List.replicate 63 3),
      (rkey 0x3410 4, 0 :: List.replicate 63 3), (rkey 0x3410 5, 0 :: List.replicate 63 3)] }

/-- Its one codeword's header: stream PLAN, SOF and EOF. -/
def aHeads : FrameHeads := { heads := [2 ^ 18 + 2 ^ 17 + 2 ^ 16], sofAge := 3 }

/-- The same link where the packets of the first dimension go on over link 3; a plan that runs, or froze in this beat. -/
def wPass (st : Nat) : State :=
  { put wRx [(0x3001 + 16 * 3, 1, 3), (0x2120, 1, st)] with
      cyc := 9, blobs := [(rkey 0x3410 1, leBytes 8 8 ++ List.replicate 56 0), (rkey 0x3410 2, 1 :: List.replicate 63 3)] }

theorem wit_FramesAreReceived_frames :
    (headsBad (glL wRx 0) .plan aHeads.heads aFrame0.length = false ∧ headsBad (glL wRx 0) .unsched aHeads.heads aFrame0.length = true) ∧
    (∀ str ∈ [Stream.plan, .unsched], seqBad (wSlots { rxBase := 6, rxHigh := 5 }) 0 5 = true ∧ str ≠ .link) ∧
    (route (wPass 3) 0 0 0 .plan = some (some 3) ∧ afterFreeze (wPass 3) 0 3 = false ∧ afterFreeze (wPass 4) 0 3 = true ∧
      afterFreeze (wPass 4) 0 10 = false) ∧
    (linkState wRx 0 = 3 ∧ framingBad wRx 0 .plan [] = true ∧ linkState (link 2 {}) 63 = 2) ∧
    (framingBad wRx 0 .plan aFrame0 = false ∧ crcBad aFrame0 = false ∧ linkFramingBad wRx 0 [] = true) ∧
    (let fr := padTo 320 [(5 : Byte)]
     linkFramingBad wRx 0 fr = false ∧ crcBad fr = true) ∧
    (let fr := aFrame0.take 316 ++ [0, 0, 0, 0]
     framingBad wRx 0 .plan fr = false ∧ crcBad fr = true) ∧
    (let tr := leAt aFrame0 (aFrame0.length - 32) 32
     isSv2 wRx 0 = false ∧ bit tr 25 = false ∧ bits tr 0 12 = (linkAt wRx 0).rxBase ∧ (linkAt wRx 0).rxSet = [] ∧
       (linkAt wRx 0).rxHigh = ((linkAt wRx 0).rxBase + 4095) % 4096) ∧
    (let k := packetOf (leAt aFrame0 0 16) ((aFrame0.drop 16).take (64 * bits (leAt aFrame0 0 16) 53 8))
     k = aPacket 1 ∧ route wRx 0 k.dest (((List.range 8).findSome? (fun d => (bundleLinks wRx 0 d).idxOf? 0)).getD 0) k.cls = some none) := by
  decide +kernel

theorem wit_FramesAreReceived_linkFrames :
    (seqAfter (6 % 4096) (linkAt wRx 0).rxHigh = true ∧ 6 % 4096 ∉ (linkAt wRx 0).rxSet) ∧
    (let s := wSlots { held := [aHeld 7 15], txNext := 8, txBase := 7 }
     let y := linkAt (takeTrailer s 0 (trail 6)) 0
     (∀ h ∈ y.held, h.replays < 16) ∧ y.held = [aHeld 7 15] ∧ bit 1 ((7 + 4096 - 7 % 4096) % 4096) = true) ∧
    (let s := put (link 3 { held := [aHeld 7 0], txNext := 8, txBase := 7 }) [(0x3000 + 16 * 63, 2, 1)]
     let n := ((trail 7).ack + 1) % 4096
     linkState s 63 = 3 ∧ isSv2 s 63 = true ∧ seqAfter n (linkAt s 63).txBase = true ∧ seqAfter n (linkAt s 63).txNext = false) ∧
    (∀ n ∈ [15, 16], let s := link 3 { held := [aHeld 7 n] }
     isSv2 s 63 = false ∧ 1000 * rg s (0x3000 + 16 * 63) 5 ≤ 10 ^ 9 ∧
       (linkAt s 63).held.any (fun h => h.seq == 7 && !h.queued) = true ∧
       (n = 15 → ∀ h ∈ (linkAt s 63).held, h.seq = 7 → h.replays < 16) ∧
       (n = 16 → (linkAt s 63).held.any (fun h => h.seq == 7 && decide (16 ≤ h.replays) && !h.queued) = true)) := by decide +kernel

/-! ### Dictionary messages -/

/-- An open session of a role on the VDM transport. -/
def sesOf (r : Role) : Session := { id := 7, role := r, slot := 0, transport := 1, key := [1], up := true }

/-- The session is open and holds the lock. -/
def within (r : Role) (s : State) : State := { s with sessions := [sesOf r], lockBy := some 7, lockLeft := 2000 }

/-- `OpenSession`, as a test. -/
def opens (r : Role) (s : State) : Bool :=
  s.powered && !s.mcDown && sesAt s 7 == some (sesOf r) && (sesOf r).up && !fifthAsk s 7 && [1, 2, 3, 4, 5, 6].all (fun op => !headBad s 7 op)

/-- The header of the present message of session 7: an operation of a dictionary version with some bytes of VALUE. -/
def headed (s : State) (op dver n : Nat) : State :=
  { s with heads := [(7, [{ en := rg s 0x1000 8, op := op, dver := dver, tag := 9, length := n, got := n }])] }

/-- The present request of session 7 arrived as a fifth. -/
def fifth (s : State) : State := { s with pending := [.lock 7], asks := [(7, [false])] }

/-- READY in an Operator session. -/
def opReady : State := within .op ready

theorem wit_TimeEntriesTakeTheirValues :
    opens .op opReady = true ∧
    (∀ e ∈ [(9, [1]), (9, [0]), (10, [63]), (11, [255]), (12, [0])], let val : List Byte := e.2
      setStatus opReady (sesOf .op) 0x2000 e.1 val (anyPlan opReady) (timingBad opReady e.1 (leNat val)) false false = .ok) ∧
    setStatus opReady (sesOf .op) 0x2000 7 [0, 0] false false (stretchBad opReady (stretchMax opReady 0)) false = .ok ∧
    setStatus opReady (sesOf .op) 0x2100 3 (leBytes 8 (2 ^ 63 + 64)) (anyPlan opReady) (armBad opReady (2 ^ 63 + 64)) false false = .ok ∧
    (let s := put opReady [(0x2120, 1, 2)]
     setStatus s (sesOf .op) 0x2120 5 (leBytes 8 (2 ^ 63 + 64)) (planState s 0 != 2) (armBad s (2 ^ 63 + 64)) false false = .ok) ∧
    (let s := put opReady [(0x6020, 1, 1)]
     setStatus s (sesOf .op) 0x7810 1 [3] (rg s 0x6020 1 == 0) false false false = .ok) := by decide +kernel

theorem wit_LinkEntriesAct :
    (∀ v ∈ [0, 1, 2], ∀ st ∈ [0, 3], setStatus (within .op (link st {})) (sesOf .op) (0x3000 + 16 * 63) 1 (leBytes 1 v) (linkRetired (link st {}) 63) false
      (linkState (link st {}) 63 != 6 && adminBad (link st {}) 63 v) (linkState (link st {}) 63 == 6) = .ok) ∧
    (let s := within .op (link 3 {})
     invStatus s (sesOf .op) (0x3000 + 16 * 63) 6 [] 0 (linkRetired s 63 || (linkState s 63 != 6 && adminBad s 63 1)) false (linkState s 63 == 6) = .ok) ∧
    (∀ st ∈ [0, 5], let s := put (within .op (link st {})) [(0x6040, 1, 1)]
     invStatus s (sesOf .op) (0x3000 + 16 * 63) 7 [] 0 ((linkState s 63 != 0 && linkState s 63 != 5) || partState s (partLow s (63 / 16)) != 1)
       false false = .ok) := by decide +kernel

/-- Coordinate (0, 0, 0, 0), valid. -/
def atOrigin : State := put opReady [(0x3400, 1, 2 ^ 31)]

theorem wit_FabricEntriesTakeTheirValues :
    setStatus opReady (sesOf .op) 0x3400 1 (leBytes 4 (2 ^ 31)) (coordHeld opReady) (coordBad (2 ^ 31) (rg opReady 0x3400 2)) false false = .ok ∧
    (let s := put opReady [(0x2120, 1, 2)]
     setStatus s (sesOf .op) 0x3410 1 (List.replicate 64 0) (fabricHeld s 0) (bundlesBad s 0 (List.replicate 64 0)) false false = .ok) ∧
    (∀ dim ∈ [0, 3], setStatus atOrigin (sesOf .op) 0x3410 (2 + dim) (0 :: List.replicate 63 3) (fabricHeld atOrigin 0 || !bit (myCoord atOrigin) 31)
      (routeBad atOrigin dim (0 :: List.replicate 63 3)) false false = .ok) ∧
    setStatus opReady (sesOf .op) 0x3410 6 (leBytes 2 0) (fabricHeld opReady 0) (windowBad opReady 0 0 (rg opReady 0x3410 7)) false false = .ok ∧
    setStatus opReady (sesOf .op) 0x3410 7 (leBytes 2 32768) (fabricHeld opReady 0) (windowBad opReady 0 (rg opReady 0x3410 6) 32768) false false = .ok ∧
    (∀ q ∈ [0, 127], setStatus opReady (sesOf .op) (0x3800 + q) 1 (List.replicate 1024 0) ((pageParts opReady q).any (fabricHeld opReady))
      ((List.range 256).any (fun i => bits (leAt (List.replicate 1024 0) (4 * i) 4) 24 7 != 0)) false false = .ok) := by decide +kernel

theorem wit_DictionaryMessagesAreGated :
    Carries (.serveSelftest 7) 7 3 0x4800 4 ∧ Carries (.dictSet 7 0x4000 9 []) 7 2 0x4000 9 ∧
    ({ ready with mcDown := true }.powered = true ∧ { ready with mcDown := true }.mcDown = true) ∧
    (ready.mcDown = false ∧ sesAt ready 7 = none) ∧ fifthAsk (fifth opReady) 7 = true ∧ sesAt (fifth opReady) 7 = some (sesOf .op) ∧
    (∀ op ∈ [1, 2, 3], headBad (headed opReady op 1 0) 7 op = false ∧ headBad (headed opReady op 2 0) 7 op = true ∧
      headBad (headed opReady (op + 1) 1 0) 7 op = true ∧ fifthAsk (headed opReady op 2 0) 7 = false) ∧
    (preStatus opReady (sesOf .op) 1 0x0FFF 1 = .noIndex ∧ preStatus opReady (sesOf .op) 1 0x2000 99 = .noSub ∧
      preStatus { opReady with variant := .t } (sesOf .op) 3 0x4800 4 = .absent ∧ preStatus opReady (sesOf .op) 2 0x2000 1 = .denied) ∧
    (let s := { opReady with lockBy := none }
     opens .op s = true ∧ preStatus s (sesOf .op) 3 0x4800 4 = .locked ∧ (0x4800, 4) ∉ signedEntries) := by
  refine ⟨Carries.serveSelftest 7, Carries.dictSet 7 0x4000 9 [], ?_⟩; decide +kernel

theorem wit_WritesOfCommandEntriesAreTheCommand :
    headOf opReady 7 = none ∧ (headOf (headed opReady 2 1 0) 7).map MsgHead.op = some 2 ∧ (headOf (headed opReady 3 1 0) 7).map MsgHead.op = some 3 := by
  decide +kernel

theorem wit_ReadsAnswerTheEntry :
    (getStatus opReady (sesOf .op) 0x2000 1 = .ok ∧ (entry? 0x2000 1).isSome = true ∧ ¬(0x2000 = 0x7000 ∧ 1 = 3)) ∧
      getStatus opReady (sesOf .op) 0x2000 99 = .noSub ∧ getStatus opReady (sesOf .op) 0x7000 3 = .ok := by decide +kernel

theorem wit_WritesStoreTheValue :
    (∀ e ∈ [(0x2000, 2, [48]), (0x2000, 2, [112]), (0x2210, 2, [255]), (0x2000, 17, [10])], let val : List Byte := e.2.2
      plainStatus opReady (sesOf .op) e.1 e.2.1 val = .ok ∧ (entry? e.1 e.2.1).isSome = true) ∧
    ((ownWrite 7 0x2000 2 [48] opReady).isNone = true ∧ (ownWrite 7 0x2210 2 [255] opReady).isNone = true) ∧
    ((ownWrite 7 0x5008 9 [1, 0] opReady).isNone = true ∧ plainStatus opReady (sesOf .op) 0x5008 9 [1, 0] = .ok ∧
      ((entry? 0x5008 9).any isW1c) = true) ∧
    ((ownWrite 7 0x9010 5 (List.replicate 64 0) opReady).isNone = true ∧ plainStatus opReady (sesOf .op) 0x9010 5 (List.replicate 64 0) = .ok) ∧
    ((ownWrite 7 0x9010 8 [31] opReady).isNone = true ∧ plainStatus opReady (sesOf .op) 0x9010 8 [31] = .ok) ∧
    ((ownWrite 7 0x7000 2 (leBytes 8 1) opReady).isNone = true ∧ plainStatus opReady (sesOf .op) 0x7000 2 (leBytes 8 1) = .ok) := by decide +kernel

/-- A handle of another session, RUNNING or DONE. -/
def aHandle (st ses : Nat) : Handle := { h := 2 ^ 24 + 1, st := st, status := .ok, reason := 0, progress := 0, start := 0, fin := 0, result := [], ses := ses }

/-- The lock is with session 8 of a Tenant that asked for LOCK_LOST. -/
def wTaken (r : Role) : State :=
  { within r ready with sessions := [sesOf r, { sesOf .tn with id := 8, mask := 9 }], lockBy := some 8, handles := [aHandle 2 8] }

theorem wit_LockAndHandles :
    (opens .op { opReady with lockBy := none } = true ∧ opens .op opReady = true ∧ opReady.lockBy = some 7) ∧
    ((wTaken .op).lockBy = some 8 ∧ mayTake (wTaken .op) (sesOf .op) 8 = true ∧
      ∃ y, sesAt (wTaken .op) 8 = some y ∧ y.up = true ∧ bit y.mask 3 = true) ∧
    (fifthAsk (fifth opReady) 7 = true ∧ sesAt (fifth opReady) 7 = some (sesOf .op)) ∧
    (valueLen opReady 7 [] = 0 ∧ valueLen (wTaken .op) 7 (leBytes 4 (2 ^ 24 + 1)) = 4 ∧ headBad (headed opReady 5 1 8) 7 5 = false ∧
      headOf (headed opReady 5 1 8) 7 = some { en := rg opReady 0x1000 8, op := 5, tag := 9, length := 8, got := 8 }) ∧
    (opens .tn (wTaken .tn) = true ∧ mayTake (wTaken .tn) (sesOf .tn) 8 = false ∧ (wTaken .tn).lockBy ≠ some 7) ∧
    (handleAt (wTaken .op) (2 ^ 24 + 1) = some (aHandle 2 8) ∧ (sesOf .op).role = .op) ∧
    (∀ k, handleAt (wTaken .tn) (2 ^ 24 + 1) = some k → k.ses ≠ 7 ∧ (sesOf .tn).role ≠ .ow ∧ (sesOf .tn).role ≠ .op) ∧
    (∀ x, sesAt ready 7 = some x → x.up = false) := by
  refine ⟨by decide +kernel, ⟨by decide +kernel, by decide +kernel, ⟨_, rfl, by decide +kernel, by decide +kernel⟩⟩, by decide +kernel, by decide +kernel, by decide +kernel, by decide +kernel, ?_, ?_⟩
  · intro k hk
    have h : handleAt (wTaken .tn) (2 ^ 24 + 1) = some (aHandle 2 8) := by decide +kernel
    rw [h] at hk; cases hk; decide
  · intro x hx
    have h : sesAt ready 7 = none := by decide +kernel
    rw [h] at hx; cases hx

/-! ### Plans, serving -/

/-- PLAN_LOAD's argument: staging address 4096, length 64. -/
def loadArg : List Byte := leBytes 8 4096 ++ leBytes 8 64

/-- A load of 64 bytes in progress. -/
def aLoad : LoadReq := { handle := 2 ^ 24 + 1, addr := 4096, len := 64, prev := 0 }

/-- A plan in state `ps` whose reset is in progress. -/
def resets (ps : Nat) : State := setPart (put ready [(0x2120, 1, ps)]) 0 { resetting := true }

theorem wit_PlansLoadAndReset :
    (∀ ps ∈ [0, 1], invStatus (put opReady [(0x2120, 1, ps)]) (sesOf .op) 0x2120 2 loadArg 16 false (leAt loadArg 0 8 % 4096 != 0) false = .ok ∧
      partState (put opReady [(0x2120, 1, ps)]) 0 = 0 ∧ planState (put opReady [(0x2120, 1, ps)]) 0 = ps) ∧
    (let s := put opReady [(0x6040, 1, 3)]
     invStatus s (sesOf .op) 0x2120 2 loadArg 16 false (leAt loadArg 0 8 % 4096 != 0) false = .ok ∧ 1 ≤ partState s 0 ∧ partState s 0 ≤ 3) ∧
    (let s := { setPart (put ready [(0x2120, 1, 1)]) 0 { loading := some aLoad } with handles := [aHandle 1 7] }
     let w := setPlanState (setPart s 0 { partAt s 0 with loading := none }) 0 aLoad.prev
     (partAt s 0).loading = some aLoad ∧ (loadStatus w 0 aLoad (peek s aLoad.addr aLoad.len)).1 = .range ∧ s.mcDown = false ∧
       (handleAt s aLoad.handle).isSome = true ∧ (partAt ready 0).loading = none) ∧
    (∀ ps ∈ [4, 5], let s := put opReady [(0x2120, 1, ps)]
     setStatus s (sesOf .op) 0x7010 1 [1] (planState s 0 != 4 && planState s 0 != 5) false false (partAt s 0).resetting = .ok) ∧
    (partAt ready 0).resetting = false ∧
    (∀ ps ∈ [4, 5], planState (resets ps) 0 = ps ∧ (partAt (resets ps) 0).resetting = true ∧
      restoreError (zeroOnChip (clearRun (resets ps) 0) 0) 0 = none ∧ (resets ps).ecc = []) ∧
    (let s := { setPart (put ready [(0x2120, 1, 4)]) 0 { resetting := true, stage := 4096, imgLen := 64 } with ecc := [(8192, 2)] }
     restoreError (zeroOnChip (clearRun s 0) 0) 0 = some 8192) := by decide +kernel

/-- A SUBMIT of one page for context 3 of partition 0 under tag 9, and a CANCEL of an entry. -/
def aSubmit : List Byte := leBytes 1 1 ++ leBytes 1 0 ++ leBytes 1 3 ++ leBytes 1 0 ++ leBytes 4 9 ++ leBytes 6 0 ++ leBytes 2 1 ++ leBytes 4 1 ++
  leBytes 4 5 ++ leBytes 2 0 ++ List.replicate 38 0
def aCancel (e : Nat) : List Byte := leBytes 1 2 ++ List.replicate 23 0 ++ leBytes 2 e ++ List.replicate 38 0

/-- The serving unit with a pool of 8 pages, context 3 GRAFTED into partition 0, and two entries in given states. -/
def wServe (a b : Nat) : State :=
  { put opReady [(0x4810, 2, 8), (0x4810, 3, 16), (0x4443, 1, 4), (0x4443, 10, 2 ^ 63), (0x2120, 1, 3)] with
      serve := [(0, { tag := 1, st := a, pages := [0] }), (2, { tag := 2, st := b, pages := [1] })] }

/-- A STEP of 1024 slots. -/
def aStep : BitVec 512 := desc [(0, 0x50), anyCycle, (256, 1024)]

theorem wit_ServingRuns_commands :
    (codeAt (wServe 1 2) 0 (some 7) aSubmit = 0 ∧ leAt aSubmit 0 1 = 1 ∧ (partAt (wServe 1 2) 0).step = none ∧ (partAt (wServe 1 2) 0).cmdQ = [] ∧
      recordNeed (wServe 1 2) 0 (some 7) aSubmit ≤ recordRoom (wServe 1 2)) ∧
    recordNeed (wServe 1 2) 0 none (aCancel 0) = 2 ∧ 2 ≤ recordRoom (wServe 1 2) ∧
    codeAt (wServe 1 2) 0 none [] = 1 ∧ codeAt (wServe 1 2) 0 (some 8) aSubmit = 2 ∧ codeAt (wServe 1 2) 0 none (aCancel 1) = 8 ∧
    (∀ e ∈ [0, 2], codeAt (wServe 1 2) 0 none (aCancel e) = 0 ∧ leAt (aCancel e) 0 1 ≠ 1 ∧ leAt (aCancel e) 24 2 = e) ∧
    ((servAt (wServe 1 2) 0).st = 1 ∧ (servAt (wServe 1 2) 2).st ≠ 1 ∧ planState (wServe 1 2) 0 = 3) ∧
    (let s := put (wServe 1 2) [(0x2120, 1, 5)]
     codeAt s 0 none (aCancel 0) = 0 ∧ planState s 0 ≠ 3) ∧
    (stepDue (wServe 1 2) 0 = false ∧ stepDue (coreTick (holds aStep []) 5 9) 0 = true) ∧
    (let s := setPart (wServe 1 2) 0 { step := some { u := 5, d := queued aStep, start := 0, fin := 9, recs := [] } }
     (partAt s 0).step.isSome = true) ∧
    (let s := { wServe 1 2 with records := List.replicate 16383 (0, []) }
     recordRoom s < recordNeed s 0 none (aCancel 0)) := by decide +kernel

theorem wit_ServingRuns_steps :
    (let t := coreTick (holds aStep []) 5 9
     readyHeld t 5 0x50 = some (queued aStep) ∧ (partAt t (partOf t 5)).step = none) ∧
    readyHeld (coreTick (run1 {}) 5 9) 5 0x50 = none ∧
    (let r : StepRun := { u := 5, d := queued aStep, start := 0, fin := 9, recs := [[]] }
     let s := setPart (run1 {}) 0 { step := some r }
     0 ∈ partitions s ∧ planState s 0 = 3 ∧ (partAt s 0).step = some r ∧ r.recs.length ≤ recordRoom s ∧ r.fin ≤ absNow (tick s 9) ∧
       absNow (tick s 8) < r.fin) ∧
    (∀ v ∈ [0, 1], setStatus opReady (sesOf .op) 0x4800 3 [BitVec.ofNat 8 v] false false (leNat [BitVec.ofNat 8 v] == 1 && !opReady.serve.isEmpty)
      false = .ok) ∧
    (let s := put opReady [(0x4800, 3, 1)]
     invStatus s (sesOf .op) 0x4800 4 [] 0 (rg s 0x4800 3 != 1) false s.serveTest.isSome = .ok) ∧
    (hasServe ready.variant = true ∧ { ready with serveTest := some 1 }.serveTest = some 1) := by decide +kernel

/-! ### Contexts and grafts -/

/-- The signed part of a manifest of `n` chunks, installer key slot 0, with a root of 48 bytes. -/
def unsigned (n : Nat) (root : List Byte) : List Byte :=
  leBytes 4 0x4654584D ++ leBytes 2 1 ++ leBytes 2 0 ++ leBytes 8 (n * 2 ^ 20) ++ leBytes 4 n ++ List.replicate 12 0 ++ (root ++ List.replicate 80 0)

/-- A manifest and its signature. -/
def manifestOf (n : Nat) (root sig : List Byte) : List Byte := unsigned n root ++ sig

/-- 48 bytes. -/
def aLeaf : List Byte := List.replicate 48 0x5A

/-- The manifest of one chunk under the root `aLeaf`, signed with private key 5. -/
def aManifest : List Byte := manifestOf 1 aLeaf (ecSign 5 9 (sha384 (unsigned 1 aLeaf)))

/-- Context 63 in a state, its manifest set, the public key of 5 in installer slot 0, flash space free. -/
def wCtx (st : Nat) (m : List Byte) (y : CtxSt) : State :=
  { put opReady [(0x447F, 1, st), (0x4400, 3, 2 ^ 30)] with
      blobs := [(rkey 0x447F 2, m), (rkey 0x6010 3, padTo 776 (ecPublic 5))], ctxs := [(63, y)] }

/-- A manifest whose signature is not one. -/
def noSig : List Byte := manifestOf 1 aLeaf (List.replicate 96 0)

theorem wit_ContextsInstallAndEnd_signature :
    installerOk (wCtx 0 aManifest {}) (manifest (wCtx 0 aManifest {}) 63) = true ∧
    installerOk (wCtx 0 noSig {}) (manifest (wCtx 0 noSig {}) 63) = false := by decide +kernel

theorem wit_ContextsInstallAndEnd_invokes :
    (∀ st ∈ [0, 2], ∀ m ∈ [aManifest, noSig], ∀ kb ∈ [false, true], let s := { wCtx st m {} with keysBlocked := kb }
      invStatus s (sesOf .op) 0x447F 3 [] 0 (ctxState s 63 != 0 && ctxState s 63 != 2)
        (manifestBad (manifest s 63) || decide (rg s 0x4400 3 < ctxSpace (manifest s 63))) (flashBusy s) = .ok) ∧
    (∀ st ∈ [2, 3], let s := wCtx st noSig {}
      invStatus s (sesOf .op) 0x447F 7 [] 0 (ctxState s 63 != 3 && ctxState s 63 != 2) false (flashBusy s) = .ok) ∧
    (let s := wCtx 4 noSig {}
     invStatus s (sesOf .op) 0x447F 6 [] 0 (ctxState s 63 != 4 || ctxBound s 63) false false = .ok) ∧
    (let s := { wCtx 4 noSig {} with parts := [(0, { ctxMap := [63], guarded := true })], regs := [(rkey 0x2120 1, 2), (rkey 0x447F 1, 4), (rkey 0x7008 1, 5)] }
     preStatus s (sesOf .op) 3 0x447F 6 = .ok ∧ ctxBound s 63 = true) ∧
    ctxState (wCtx 1 noSig {}) 63 = 1 := by decide +kernel

/-- A session of a role whose H2M ring holds one entry and whose M2H ring a buffer. -/
def recSes (r : Role) (e : List Byte) : Session :=
  { sesOf r with bounce := leBytes 8 0 ++ leBytes 8 (2 ^ 22) ++ List.replicate 48 0, ringH := leBytes 8 0 ++ leBytes 4 64 ++ leBytes 4 0,
                 ringM := leBytes 8 4096 ++ leBytes 4 64 ++ leBytes 4 0, h2mEnts := [e], m2hBufs := [(0, 2 ^ 20)], slot := 3, seqIn := 11,
                 dirKeys := (List.replicate 32 1, List.replicate 32 2), dirIvs := (List.replicate 12 3, List.replicate 12 4) }

/-- The session that `recSes` describes is open. -/
def withRec (r : Role) (e : List Byte) (s : State) : State := { s with sessions := [recSes r e] }

/-- A header of a record with LENGTH `n`, and its ring entry. -/
def header (kind seq target n : Nat) : List Byte :=
  leBytes 4 7 ++ leBytes 1 0 ++ leBytes 1 kind ++ leBytes 2 0 ++ leBytes 8 seq ++ leBytes 8 target ++ leBytes 4 n ++ leBytes 4 0
def entryOf (n : Nat) : List Byte := leBytes 4 0 ++ leBytes 4 (48 + n) ++ leBytes 8 0

/-- A ciphertext with its tag under a header. -/
def sealedAs (hdr cipher : List Byte) : HostRec :=
  { cipher := cipher, tag := Gcm.tag (List.replicate 32 1) (recordIv (List.replicate 12 3) (recSeq hdr)) hdr cipher }
def plainOf (hdr cipher : List Byte) : List Byte := Gcm.crypt (List.replicate 32 1) (recordIv (List.replicate 12 3) (recSeq hdr)) cipher

theorem plainOf_length (hdr cipher : List Byte) : (plainOf hdr cipher).length = cipher.length := Gcm.crypt_length _ _ _ (by decide +kernel)

/-- A record under a header with the next SEQ is next, if its entry lies in the bounce range. -/
theorem recordNext (r : Role) (s : State) (hdr e cipher : List Byte) (h : s.powered = true) (hs : recSeq hdr = 11)
    (ht : slotTurn (withRec r e s) 3 = true) (hl : inBounce (recSes r e) (entryAddr e) (max (entryLen e) (48 + recLen hdr)) = true) :
    RecordNext (withRec r e s) 3 hdr e (sealedAs hdr cipher) (recSes r e) (plainOf hdr cipher) :=
  ⟨⟨h, by cases r <;> rfl, ht, by cases r <;> rfl, rfl, by cases r <;> exact (by decide : (0 : Nat) < 2 ^ 32), rfl, hl⟩,
    by simp only [recPlain, Gcm.opens, sealedAs, recSes, plainOf, if_true], hs⟩

/-- Chunk 0 for context 63, its header and its entry. -/
def chunkHead : List Byte := header 4 11 63 (2 ^ 20)
def chunkEntry : List Byte := entryOf (2 ^ 20)
def chunkCipher : List Byte := List.replicate (2 ^ 20) 0
def chunk : List Byte := plainOf chunkHead chunkCipher

/-- An install of context 63 that waits for its chunks. -/
def wChunk (m : List Byte) (y : CtxSt) : State := withRec .op chunkEntry (wCtx 1 m y)

theorem wit_ContextsInstallAndEnd_record : ∀ m y,
    RecordNext (wChunk m y) 3 chunkHead chunkEntry (sealedAs chunkHead chunkCipher) (recSes .op chunkEntry) chunk := fun m y =>
  recordNext .op (wCtx 1 m y) chunkHead chunkEntry chunkCipher rfl (by decide +kernel) (by rfl) (by decide +kernel)

theorem wit_ContextsInstallAndEnd_chunks :
    recForm (recSes .op chunkEntry) 4 chunkEntry chunkHead (sealedAs chunkHead chunkCipher) = true ∧ recTarget chunkHead % 256 = 63 ∧
    bits (recTarget chunkHead) 8 24 = 0 ∧ chunk.length = 2 ^ 20 ∧ (recSes .op chunkEntry).role = .op ∧
    ctxState (wChunk noSig {}) 63 = 1 ∧ (wChunk noSig {}).mcDown = false ∧
    (let s := wChunk (manifestOf 2 aLeaf []) {}
     recTarget chunkHead / 2 ^ 32 = storedChunks (ctxAt s 63) ∧ recTarget chunkHead / 2 ^ 32 + 1 < ctxChunks s 63) ∧
    (let s := wChunk noSig {}
     recTarget chunkHead / 2 ^ 32 = storedChunks (ctxAt s 63) ∧ recTarget chunkHead / 2 ^ 32 + 1 = ctxChunks s 63) ∧
    (let s := wChunk noSig { flash := [[[]], [], [], []] }
     recTarget chunkHead / 2 ^ 32 ≠ storedChunks (ctxAt s 63)) ∧
    (let s := wChunk (manifestOf 0 aLeaf []) {}
     ctxChunks s 63 ≤ recTarget chunkHead / 2 ^ 32) := by
  refine ⟨?_, by decide +kernel, by decide +kernel, (plainOf_length _ _).trans List.length_replicate, rfl, ?_⟩
  · have h : (sealedAs chunkHead chunkCipher).cipher.length = 2 ^ 20 := List.length_replicate
    simp only [recForm, h]; decide +kernel
  · decide +kernel

/-- The root in a manifest of one chunk that carries a root of 48 bytes. -/
theorem rootOf (l : List Byte) (h : l.length = 48) : ((manifest (wChunk (manifestOf 1 l []) {}) 63).drop 32).take 48 = l := by
  have e : (manifest (wChunk (manifestOf 1 l []) {}) 63).drop 32 =
      ((l ++ List.replicate 80 0) ++ []) ++ List.replicate (256 - (manifestOf 1 l []).length) 0 := rfl
  rw [e, List.append_nil, List.append_assoc, List.take_left' h]

/-- The last chunk makes the root of a manifest, or another (`Config.flashUe` is free: either of its clauses may be the one that applies). -/
theorem wit_ContextsInstallAndEnd_roots :
    (let s := wChunk (manifestOf 1 (leafOf 0 chunk) []) {}
     merkleRoot ((ctxAt s 63).leaves ++ [leafOf 0 chunk]) = ((manifest s 63).drop 32).take 48) ∧
    (∃ root ∈ [aLeaf, List.replicate 48 0], let s := wChunk (manifestOf 1 root []) {}
     merkleRoot ((ctxAt s 63).leaves ++ [leafOf 0 chunk]) ≠ ((manifest s 63).drop 32).take 48) := by
  have m : ∀ (m l : List Byte), merkleRoot ((ctxAt (wChunk m {}) 63).leaves ++ [l]) = l := fun _ _ => rfl
  refine ⟨?_, ?_⟩
  · simp only [m]; exact (rootOf _ (sha384_length _)).symm
  · by_cases h : leafOf 0 chunk = aLeaf
    · refine ⟨List.replicate 48 0, by simp, ?_⟩
      simp only [m, h]; rw [rootOf _ (by simp)]; decide
    · refine ⟨aLeaf, by simp, ?_⟩
      simp only [m]; rw [rootOf _ (by simp [aLeaf])]; exact h

/-- A graft of context 63 to the start of HBM. -/
def aGraft : Graft := { ctx := 63, handle := 3 * 2 ^ 24 + 1, target := 0, part := 0 }

theorem wit_GraftsAndMemoryTests_queue :
    (let s := wCtx 3 noSig {}
     invStatus s (sesOf .op) 0x447F 5 [] 0 (ctxState s 63 != 3 || targetUse s 63 (rg s 0x447F 4) (ctxLen s 63)) (targetBad s (rg s 0x447F 4) (ctxLen s 63))
         (targetBusy s (rg s 0x447F 4) (ctxLen s 63) || decide (8 ≤ s.grafts.length)) = .ok) ∧
    (∀ st ∈ [2, 3], ∀ kb ∈ [false, true], let s := { wCtx st noSig { leaves := [aLeaf] } with grafts := [aGraft], keysBlocked := kb }
     s.graftRun = none ∧ s.grafts = [aGraft] ∧ s.railsUp = true ∧ s.flashTest = none ∧ s.mcDown = false ∧
       trafficHeld s aGraft.target (ctxLen s 63) = false ∧ (s.keysBlocked = true ∨ ctxState s 63 ≠ 3 ↔ kb = true ∨ st = 2)) ∧
    (installerOk (wCtx 3 noSig { leaves := [aLeaf] }) (manifest (wCtx 3 noSig {}) 63) = false) ∧
    (∀ leaf ∈ [aLeaf, List.replicate 48 0], let s := wCtx 3 aManifest { leaves := [leaf] }
     installerOk s (manifest s 63) = true ∧ (merkleRoot (ctxAt s 63).leaves = ((manifest s 63).drop 32).take 48 ↔ leaf = aLeaf)) ∧
    ((wCtx 3 noSig {}).grafts = [] ∧ { wCtx 3 noSig {} with graftRun := some aGraft }.graftRun.isSome = true) := by decide +kernel

theorem wit_GraftsAndMemoryTests_ends :
    (let s := { wCtx 3 noSig { flash := [[[1]], [], [], []] } with graftRun := some aGraft }
     s.graftRun = some aGraft ∧ s.railsUp = true ∧ ctxState s 63 = 3 ∧ plansUse s aGraft.target (ctxLen s 63) = false ∧
       bgHeld s aGraft.target (ctxLen s 63) = false ∧ bgHeld (put { s with cyc := 896 } [(0x2100, 1, 10)]) aGraft.target (ctxLen s 63) = true) ∧
    (let s := { wCtx 3 noSig {} with parts := [(0, { dieMap := [0, 1, 2, 3], bgMask := [2, 0, 0, 0] })] }
     let s := put s [(0x2120, 1, 3)]
     bgHeld { s with cyc := 31 } 0 64 = true ∧ bgHeld { s with cyc := 32 } 0 64 = false) := by decide +kernel

theorem wit_GraftsAndMemoryTests_tests :
    (∀ v ∈ [0, 15], setStatus opReady (sesOf .op) 0x4400 6 [BitVec.ofNat 8 v] false false
      ((List.range 4).any (fun i => bit (leNat [BitVec.ofNat 8 v]) i && !bit (rg opReady 0x4400 6) i) &&
        (List.range 64).any (fun c => ctxState opReady c == 1)) opReady.flashTest.isSome = .ok) ∧
    (let s := put opReady [(0x4400, 6, 1)]
     invStatus s (sesOf .op) 0x4400 7 [] 0 (rg s 0x4400 6 == 0) false s.flashTest.isSome = .ok) ∧
    { opReady with flashTest := some (9, 1) }.flashTest = some (9, 1) ∧ { opReady with hbmTest := some (9, 1) }.hbmTest = some (9, 1) ∧
    (∀ m ∈ [1, 15], let s := put opReady [(0x4008, 1, m), (0x6040, 1, 1)]
     invStatus s (sesOf .op) 0x4008 2 [] 0 ((List.range (dies s.variant)).any (fun d => bit m d && partState s (partLow s d) != 1))
       (m == 0 || decide (2 ^ dies s.variant ≤ m)) s.hbmTest.isSome = .ok ∧ rg s 0x4008 1 = m) := by decide +kernel

/-! ### Partitions -/

/-- An IDLE partition with a Tenant key, used or not. -/
def wPart (st used : Nat) : State := wb (put opReady [(0x6040, 1, st), (0x6040, 2, used)]) 0x6040 3 [1]

theorem wit_PartitionsChangeState_invokes :
    (∀ used ∈ [0, 1], let s := wPart 0 used
     0 ∈ partitions s ∧ invStatus s (sesOf .op) 0x6040 4 [] 0 (partState s 0 != 0 || leNat (rb s 0x6040 3) == 0) false false = .ok ∧
       rg s 0x6040 2 = used ∧ (partAt s 0).cmdQ = []) ∧
    (∀ ps ∈ [0, 3], let s := put (wPart 4 1) [(0x2120, 1, ps)]
     invStatus s (sesOf .op) 0x6040 5 [] 0 (partState s 0 != 4 || (partAt s 0).relPending) false false = .ok ∧ planState s 0 = ps ∧
       (partAt s 0).cmdQ = []) ∧
    (∀ e ∈ [(0, 1), (1, 0)], let s := wPart e.1 0
     let val : List Byte := [BitVec.ofNat 8 e.2]
     setStatus s (sesOf .op) 0x6040 6 val false false
       (leNat val == 1 && partState s 0 != 1 && !(partState s 0 == 0 && (planState s 0 == 0 || planState s 0 == 5)))
       (leNat val == 0 && partState s 0 == 1 && testRuns s 0) = .ok) ∧
    setStatus opReady (sesOf .op) 0x6040 8 (leBytes 8 (2 ^ 63)) false false
      ((List.range 64).any (fun c => bit (2 ^ 63) c && (ctxState opReady c == 1 || (ctxState opReady c == 4 && !graftedInto opReady c 0) ||
        (opReady.grafts ++ opReady.graftRun.toList).any (fun g => g.ctx == c && g.part != 0)))) false = .ok ∧
    (let s := wPart 2 1
     invStatus s (sesOf .op) 0x6040 7 [] 0 (partState s 0 != 2) false false = .ok) := by decide +kernel

theorem wit_PartitionsChangeState_ends :
    partState (wPart 2 1) 0 ≠ 3 ∧ undrained (setLink (wPart 3 1) 63 { draining := true, poolUsed := 1 }) 0 = true ∧
    (let s := { setPart (wPart 3 1) 0 { relHandle := some (2 ^ 24 + 1) } with handles := [aHandle 1 7] }
     partState s 0 = 3 ∧ undrained s 0 = false ∧ (partAt s 0).relHandle = some (2 ^ 24 + 1) ∧ s.mcDown = false ∧
       (handleAt s (2 ^ 24 + 1)).isSome = true) ∧
    (let s := { wPart 3 1 with stateStore := [(0, 15, 2 ^ 63 + 1)] }
     bit (namedCtx s 0) 63 = true ∧ erasable s 0 63 = true ∧ bit (namedCtx s 0) 5 = false ∧ erasable (put s [(0x4440, 1, 4)]) 0 0 = false) := by decide +kernel

/-! ### Protection -/

/-- The generator of P-384 as an uncompressed point, and its opposite. -/
def keyOfPoint (y : Nat) : List Byte :=
  [4] ++ (leBytes 48 0xaa87ca22be8b05378eb1c71ef320ad746e1d3b628ba79b9859f741e082542a385502f25dbf55296c3a545e3872760ab7).reverse ++
    (leBytes 48 y).reverse
def keyG : List Byte := keyOfPoint 0x3617de4a96262c6f5d9e98bf9292dc29f8f41dbd289a147ce9da3113b5f0b8c00a60b1ce1d7e819d7a431d7c90ea0e5f
def keyH : List Byte := keyOfPoint (p384 - 0x3617de4a96262c6f5d9e98bf9292dc29f8f41dbd289a147ce9da3113b5f0b8c00a60b1ce1d7e819d7a431d7c90ea0e5f)

/-- R538: a registered key is a point of the curve. -/
theorem test_keys : onCurve keyG = true ∧ onCurve keyH = true ∧ onCurve (keyG.set 96 0) = false ∧ keyG.length = 97 := by decide +kernel

/-- READY with a serial number, which the factory fixes otherwise. -/
def withSerial (s : State) : State := wb s 0x1000 4 (List.replicate 16 7)

/-- A claim secret. -/
def aSecret : List Byte := List.replicate 32 0x61

/-- A session of the Owner with that key, in a lifecycle state, and the hash of the claim secret. -/
def wOwner (st : Nat) : State :=
  { wb (withSerial (put ready [(0x6000, 1, st)])) 0x6000 5 (sha384 aSecret) with sessions := [{ sesOf .ow with key := keyG }], lockBy := some 7, lockLeft := 2000 }

/-- Owner and first Operator key of a claim, and a MAC. -/
def aClaim (mac : List Byte) : List Byte := keyG ++ keyH ++ mac
def aMac : List Byte := hmac384 aSecret (keyG ++ keyH ++ serial16 (wOwner 1))

theorem wit_ProtectionChanges_claims :
    (let s := wOwner 1
     let x := { sesOf .ow with key := keyG }
     s.powered = true ∧ s.mcDown = false ∧ sesAt s 7 = some x ∧
       (∀ mac ∈ [aMac, List.replicate 48 0], setStatus s x 0x6000 4 (aClaim mac) (lifecycle s != 1) (claimBad (aClaim mac)) false false = .ok ∧
         (aClaim mac).length = 242) ∧
       claimOk s x (aClaim aMac) aSecret = true ∧ claimOk s x (aClaim (List.replicate 48 0)) aSecret = false ∧
       claimOk s x (aClaim aMac) (List.replicate 32 0) = false) ∧
    (∀ l ∈ [0, 3], let s := wb (wb (put (within .vd ready) [(0x6000, 1, l)]) 0x6000 5 []) 0x6030 1 [1]
     setStatus s (sesOf .vd) 0x6000 2 [1]
        ((lifecycle s != 0 && lifecycle s != 3) || !(kget s.blobs (rkey 0x6000 5)).isSome ||
          (lifecycle s == 0 && (rb s 0x6030 1).isEmpty) || (lifecycle s == 3 && decide (8 ≤ rg s 0x6000 10)))
        (leNat [1] != 1) false false = .ok) := by decide +kernel

/-- A change by the Operator, whose private key is 1, first or after the Owner's signature. -/
def wSign (r : Role) : Session := { sesOf r with key := keyG }
def wChange (f : Option Change) : State :=
  { wb (withSerial (put opReady [(0x6000, 1, 2)])) 0x6000 6 (List.replicate 32 5) with change := f, sessions := [wSign .op] }

/-- The changes of R579, each with the second half of its signature by private key 1 whose per-message number is 9. -/
def changes : List (Nat × Nat × List Byte × Nat) :=
  [
    (0x6000, 2, leBytes 1 3,
      0xdafb2929c73e34c8a16c799c300a417fe3e2f574c1e553f28f8c02a538fb301fe34cdcf5e03de4f6fe28c4b8199c1e17),
    (0x6000, 3, leBytes 1 0,
      0x626d000f6e702f37d484c99f2208cb619f16a2ebb259ee11defd87faf07682abb82d49bfe3252791c4e404954c48a184),
    (0x6010, 1, keyG,
      0x88217e23e24b0afbc8b49058b2dd4e5babbddab9372f153684ee8ba5b0b930a8adfb3772f8b1175460aaa0e2e6451e4f),
    (0x6010, 2, keyH ++ List.replicate 679 0,
      0x59758f5006040649dd6ec8df1a41912412c02113d61889f864c3170ca9a666b2381dd0f1628538a0b15b5073fbe03307),
    (0x6010, 3, List.replicate 776 0,
      0x0cd55762f9621a09eff7865d6c6661651c0f0a037efeac5386cba9093f91c3d19fbeb2faa18cb266c4538124ec539203),
    (0x6010, 4, leBytes 1 0xFF,
      0xd079d8acc03016e7df09b9f0034c76c6261be62fe62e536e1b09ae3968fb72c5ddb25b81b3c52bf006059a4a41c610d5),
    (0x6010, 5, keyG,
      0x500d6b41605dfb1348ee33e9809de747ad7cb0d0d7009a4f9590a32c862118bb511435b1bced13aad4b9f5a331602f43),
    (0x6020, 3, leBytes 1 7,
      0xc0350b1342b0729da4c6911d0222caa2f62f5b487b2959c310edbf562b5cf201272307e2c5e0badaae03671ca7c2b29c)]

/-- The signature, from its second half. -/
def changeSig (n : Nat) : List Byte :=
  beBytes 48 0x8f0a39a4049bcb3ef1bf29b8b025b78f2216f7291e6fd3bac6cb1ee285fb6e21c388528bfee2b9535c55e4461079118b ++ beBytes 48 n

theorem wit_ProtectionChanges_pairs :
    ∀ e ∈ changes,
      let k : Change := { idx := e.1, sub := e.2.1, value := e.2.2.1, first := .ow }
      changeStatus (wChange (some k)) (wSign .op) e.1 e.2.1 e.2.2.1 (changeNonce (wChange (some k))) (changeSig e.2.2.2) = .ok ∧
        (wChange (some k)).change = some k := by decide +kernel

theorem wit_ProtectionChanges_first :
    (wChange none).change = none ∧
    ∀ e ∈ changes.drop 7, changeStatus (wChange none) (wSign .op) e.1 e.2.1 e.2.2.1 (changeNonce (wChange none)) (changeSig e.2.2.2) = .needsSecond := by
  decide +kernel

/-- A challenge of level `n` stands; OWNER_DEBUG_KEY is the public key of 1, the Vendor root key that of 6. -/
def wDebug (r : Role) (n : Nat) : State :=
  { wb (wb (put (within r ready) [(0x6000, 1, if r = .vd then 1 else 2)]) 0x6010 5 keyG) 0x6020 5 (List.replicate 48 8) with
      debugReq := some n, fuseRoot := sha384 (ecPublic 6) }

/-- A signature of that challenge by a private key. -/
def debugSig (d : Nat) : List Byte := ecSign d 9 (sha384 (List.replicate 48 8))

theorem wit_ProtectionChanges_debug_vendor :
    ∀ n ∈ [1, 3], let s := wDebug .vd n
      setStatus s (sesOf .vd) 0x6020 4 (leBytes 1 n) ((partitions s).any (fun p => partState s p == 4) && !bit (rg s 0x6020 3) 2)
        (lifecycle s == 2 && decide (rg s 0x6020 3 % 4 < leNat (leBytes 1 n))) false false = .ok ∧
      (∀ d ∈ [1, 6], setStatus s (sesOf .vd) 0x6020 6 (debugSig d) false false false false = .ok ∧ (debugSig d).length = 96) ∧
      debugVerifies s n (debugSig 6) [] (ecPublic 6) = true ∧
      s.debugReq.any (fun n => debugVerifies s n (debugSig 1) [] (ecPublic 6)) = false := by decide +kernel

theorem wit_ProtectionChanges_debug_owner :
    (∀ n ∈ [1, 3], let s := wDebug .op n
      let val := if n = 3 then debugSig 1 ++ debugSig 6 else debugSig 1
      setStatus s (sesOf .op) 0x6020 6 val false false false false = .ok ∧ (val.length = 96 ∨ val.length = 192) ∧
        debugVerifies s n val keyG (ecPublic 6) = true) ∧
    setStatus (wDebug .op 1) (sesOf .op) 0x6020 7 [1] false false false false = .ok := by decide +kernel

/-- A firmware image in host memory, signed with private key 6, whose public key has the digest in the fuses, and its FW_UPDATE argument. -/
def anImage : FwImage := { bytes := [1, 2], svn := 64, key := ecPublic 6, sig := ecSign 6 9 (sha384 [1, 2]) }
def fwArg (ty a n : Nat) : List Byte := leBytes 1 ty ++ List.replicate 7 0 ++ leBytes 8 a ++ leBytes 4 n
def wFw : State := { wb ready 0x6000 9 [3, 2, 1] with fuseFw := sha384 (ecPublic 6) }

theorem wit_ProtectionChanges_updates :
    (∀ ty ∈ [0, 2], ∀ a ∈ [0, 2 ^ 22], let s := withRec .op [] wFw
      let arg := fwArg ty a 2
      let x := recSes .op []
      invStatus { s with lockBy := some 7 } x 0x6000 8 arg 20 false (decide (2 < leAt arg 0 1) || leAt arg 1 7 != 0 || decide (2 ^ 23 < leAt arg 16 4)) false = .ok ∧
      leAt arg 0 1 = ty ∧ (inBounce x (leAt arg 8 8) (leAt arg 16 4) = true ↔ a = 0)) ∧
    (∀ ty ∈ [0, 2], fwStatus wFw ty anImage [] = .ok ∧ fwStatus wFw ty { anImage with svn := 65 } [] = .range ∧
      fwStatus wFw ty { anImage with bytes := [1] } [] = .denied) ∧
    (let arg := fwArg 1 0 2
     leAt arg 0 1 = 1 ∧ fwStatus wFw 1 anImage (List.replicate 2 0) = .ok ∧
       invStatus opReady (sesOf .op) 0x6000 8 arg 20 false (decide (2 < leAt arg 0 1) || leAt arg 1 7 != 0 || decide (2 ^ 23 < leAt arg 16 4)) false = .ok) := by decide +kernel

theorem wit_ProtectionChanges_handles :
    invStatus opReady (sesOf .op) 0x1008 1 (List.replicate 32 0) 32 false false false = .ok ∧
    (∀ root ∈ [0, 1], let s := put opReady [(0x2000, 9, root)]
      invStatus s (sesOf .op) 0x2000 3 [] 0 false false false = .ok ∧ (timingRoot s = true ↔ root = 1) ∧ (root = 1 → stepTarget s = coreN s)) ∧
    stepTarget (put opReady [(0x2000, 2, 60)]) ≠ coreN (put opReady [(0x2000, 2, 60)]) ∧
    (let s := wb (put opReady [(0x2000, 2, 60)]) 0x2000 5 stepBytes
     pendingStep s = some (s.beat, 24) ∧ stepTarget s ≠ 24 ∧ pendingStep opReady = none) := by decide +kernel

/-! ### Power, trips and start-up -/

/-- Rails up, nothing tripped, partition 0 RUNNING. -/
def wPower : State := { put ready [(0x5000, 1, 100), (0x5000, 2, 100), (0x2120, 1, 3)] with parts := [(0, {})] }

/-- The rails off. -/
def wStill (s : State) : State := { s with railsUp := false }

theorem wit_SensorsAndTrips_samples :
    (wPower.powered = true ∧ wPower.railsUp = true ∧ wPower.tripped = false ∧ 3 < dies wPower.variant) ∧
    (∃ v, hottest (([1840, 9999] : List Int).filter tempOk) = some v ∧ 1840 ≤ v) ∧
    ((∀ v, hottest (([1839] : List Int).filter tempOk) = some v → v < 1840) ∧ (∃ v ∈ ([1680] : List Int).take 2, 1680 ≤ v) ∧
      (∀ v ∈ ([1679] : List Int).take 2, v < 1680) ∧ (∀ v ∈ ([1839] : List Int).take 96, tempOk v = true)) := by
  refine ⟨by decide +kernel, ⟨1840, by decide +kernel, by decide⟩, ?_, by decide, by decide, by decide⟩
  intro v hv
  have h : hottest (([1839] : List Int).filter tempOk) = some 1839 := by decide +kernel
  rw [h] at hv; cases hv; decide

/-- Rail 17 after `n` large discrepancies, measured at `m` mW, with the errors of the two temperatures over an interval. -/
def wRail (n : Nat) (m : Rat) (e : Rat × Rat) : State := { wPower with rails := [(17, { bad := n, meas := m, errs := [e] })] }

theorem wit_SensorsAndTrips_rails :
    (estimated wPower 16 = true ∧ estimated wPower 17 = true ∧ estimated wPower 18 = false ∧ (wStill wPower).railsUp = false) ∧
    (sensed wPower 18 = true ∧ (railAt wPower 17).opn = false) ∧
    (measuredAbove (wRail 5 1000 (1, 2)) 17 = true ∧ measuredAbove (wRail 5 (-1000) (1, 2)) 17 = false ∧
      agrees (railAt (wRail 5 1000 (1, 2)) 17).errs = true ∧ agrees (railAt (wRail 5 1000 (2, 1)) 17).errs = false ∧
      (railAt (wRail 5 1000 (1, 2)) 17).bad = 5 ∧ (railAt (wRail 5 1000 (1, 2)) 17).frozen = false ∧ (railAt (wRail 4 0 (1, 2)) 17).bad < 5) ∧
    setStatus (within .op wPower) (sesOf .op) 0x5010 5 (leBytes 4 (2 ^ 18)) false false false false = .ok := by decide +kernel

theorem wit_SensorsAndTrips_inputs :
    (tripIn wPower false = false ∧ tripIn { wPower with tripAt := [(1, 0)] } false = false ∧ tripIn { wPower with tripAt := [(1, 0)] } true = true) ∧
    wPower.pwrGood = true ∧
    (let s := { wPower with tripped := true, pwrGood := false, tripAt := [(1, 0)] }
     s.tripped = true ∧ tripIn s true = true ∧ tripIn s false ≠ tripIn s true ∧ s.tripCauses = [] ∧ s.mcDown = false) ∧
    (State.reset.pwrGood = false ∧ State.reset.tripped = false) ∧
    (rg wPower 0x5000 1 * 1050 < 105001 ∧ rg wPower 0x5000 2 * 1050 < 105001 ∧ rg wPower 0x5000 4 ≤ 2 ^ 32) ∧
    (let s := wPower
     budget s = some (rg s 0x5008 5)) := by decide +kernel

/-- A start-up stage. -/
def wStage (n : Nat) : State := put State.reset [(0x7008, 1, n)]

theorem wit_StartUpAndReset :
    (State.reset.holdup = false ∧ State.reset.stateStore = [] ∧ State.reset.change = none) ∧
    (∀ n ∈ [0, 1, 2, 3, 4], let s := wStage n
      s.powered = true ∧ s.holdup = false ∧ s.tripped = false ∧ rg s 0x7008 1 = n ∧ ¬(s.moduleRst = true ∧ s.warmBoot = true) ∧
        tripIn s false = false ∧ tripIn s true = false ∧ s.moduleRst = false) ∧
    (ready.moduleRst = false ∧ ready.railsUp = true ∧ ready.pwrGood = true) ∧
    (opens .op opReady = true ∧ setStatus opReady (sesOf .op) 0x7008 3 [1] false false false false = .ok ∧ opReady.railsUp = true) ∧
    (let s := { ready with holdup := true }
     s.powered = true ∧ s.holdup = true) := by decide +kernel

theorem wit_RetirementAndTheController :
    (∀ v ∈ [2 ^ 26 + 2 ^ 24 + 15 * 2 ^ 16, 2 ^ 25 + 63 * 2 ^ 16, 2 ^ 24 + 11 * 2 ^ 12 + 3 * 2 ^ 10, 16 * 2 ^ 16], ∀ ps ∈ [0, 2],
      let s := put opReady [(0x2120, 1, ps)]
      let val := leBytes 4 v
      v < 2 ^ 26 → setStatus s (sesOf .op) 0x7008 7 val false (retireBad s (leNat val))
        (retiredNow s (leNat val) || decide (planState s (partLow s (retireDie v)) = 1 ∨ planState s (partLow s (retireDie v)) = 3))
        (rtKind v == 2 && linkState s (rtUnit v) == 6) = .ok) ∧
    (let s := { put opReady [(0x2120, 1, 2)] with parts := [(0, { slotMap := [(0, [16])] })] }
     planState s 0 ≠ 0 ∧ planUses s 0 (16 * 2 ^ 16) = true) ∧
    (let s := put (within .vd ready) [(0x6000, 1, 3)]
     setStatus s (sesOf .vd) 0x7008 10 [1] (lifecycle s != 3) false false false = .ok) ∧
    (ready.mcDead = false ∧ setStatus opReady (sesOf .op) 0x7008 4 [1] false false false false = .ok) ∧
    (let s := { ready with mcDown := true }
     s.powered = true ∧ s.mcDown = true ∧ s.mcDead = false) ∧
    ({ ready with mcDead := true }.mcDead = true ∧ ready.mcFails.length + (if ready.mcDown then 1 else 0) < 3 ∧
      3 ≤ { ready with mcFails := [0, 1], mcDown := true }.mcFails.length + 1 ∧
      3 ≤ { ready with mcFails := [0, 1, 2] }.mcFails.length) := by decide +kernel

/-! ### Host interface -/

/-- A header of the kind 1, 2 or 3 with SEQ `q`, TARGET `a` and `n` bytes, and its plaintext as a ciphertext. -/
def sealedText (hdr l : List Byte) : List Byte := Gcm.crypt (List.replicate 32 1) (recordIv (List.replicate 12 3) (recSeq hdr)) l

/-- Plaintexts: a read request of 64 bytes, 64 bytes to write or of one command. -/
def readText : List Byte := leBytes 8 64 ++ leBytes 8 0
def text : List Byte := List.replicate 64 9

/-- The ciphertexts decrypt to these. -/
theorem test_records : plainOf (header 2 11 0 16) (sealedText (header 2 11 0 16) readText) = readText ∧
    plainOf (header 1 11 64 64) (sealedText (header 1 11 64 64) text) = text := by decide +kernel

/-- A session's record whose entry names it is next, whatever the kind and target. -/
theorem nextRecord (k a n : Nat) (cipher : List Byte) (h : recSeq (header k 11 a n) = 11)
    (hl : inBounce (recSes .op (entryOf n)) (entryAddr (entryOf n)) (max (entryLen (entryOf n)) (48 + recLen (header k 11 a n))) = true) :
    RecordNext (withRec .op (entryOf n) ready) 3 (header k 11 a n) (entryOf n) (sealedAs (header k 11 a n) cipher) (recSes .op (entryOf n))
      (plainOf (header k 11 a n) cipher) := recordNext .op ready _ _ cipher rfl h (by rfl) hl

theorem wit_HostInterfaceWorks_next :
    RecordNext (withRec .op (entryOf 16) ready) 3 (header 2 11 0 16) (entryOf 16) (sealedAs (header 2 11 0 16) (sealedText (header 2 11 0 16) readText))
      (recSes .op (entryOf 16)) readText ∧
    RecordNext (withRec .op (entryOf 64) ready) 3 (header 1 11 64 64) (entryOf 64) (sealedAs (header 1 11 64 64) (sealedText (header 1 11 64 64) text))
      (recSes .op (entryOf 64)) text ∧
    (∀ e ∈ [(1, 32), (1, 2 ^ 50), (1, 64), (3, 0)],
      recSeq (header e.1 11 e.2 64) = 11 ∧ inBounce (recSes .op (entryOf 64)) (entryAddr (entryOf 64)) (max (entryLen (entryOf 64)) (48 + recLen (header e.1 11 e.2 64))) = true) := by
  have a := nextRecord 2 0 16 (sealedText (header 2 11 0 16) readText) (by decide +kernel) (by decide +kernel)
  have b := nextRecord 1 64 64 (sealedText (header 1 11 64 64) text) (by decide +kernel) (by decide +kernel)
  rw [test_records.1] at a; rw [test_records.2] at b
  exact ⟨a, b, by decide +kernel⟩

theorem wit_HostInterfaceWorks_forms :
    (∀ e ∈ [(1, 64), (3, 0), (1, 32)], recForm (recSes .op (entryOf 64)) e.1 (entryOf 64) (header e.1 11 e.2 64) { cipher := text, tag := [] } = true) ∧
    recForm (recSes .op (entryOf 16)) 2 (entryOf 16) (header 2 11 0 16) { cipher := readText, tag := [] } = true ∧
    recForm (recSes .op (entryOf 64)) 2 (entryOf 64) (header 1 11 64 64) { cipher := text, tag := [] } = false ∧
    recPlain (recSes .op (entryOf 16)) (header 2 11 0 16) { cipher := readText, tag := [] } = none ∧
    recSeq (header 2 12 0 16) ≠ (recSes .op (entryOf 16)).seqIn := by decide +kernel

/-- Where records act: their ranges, free or under test or held; and where a ring waits. -/
theorem wit_HostInterfaceWorks_records :
    (let s := withRec .op (entryOf 64) ready
     let x := recSes .op (entryOf 64)
     (∀ a ∈ [0, 64], bgHeld s a 64 = false ∧ bgHeld (put { s with cyc := 896 } [(0x2100, 1, 10)]) a 64 = true ∧ outsideParts s x a 64 = false ∧
        underTest s a 64 = false ∧ underTest { s with hbmTest := some (9, 1) } a 64 = true) ∧
     (outsideParts s x (2 ^ 50) 64 = true ∧ bgHeld s (2 ^ 50) 64 = false) ∧
     (∀ p ∈ rangeParts s 64 64, writeBarred s p 64 64 = false) ∧
     (readText.length = 16 ∧ readLen readText = 64 ∧ leAt readText 8 8 = 0 ∧ text.length % 64 = 0 ∧ 64 ≤ text.length ∧ text.length ≤ 65536) ∧
     eccIn s 0 64 = [] ∧ bgHeld s 0 (min 64 (min (2 ^ 20) ((takeBuf x).1 - 48))) = false ∧
     recordRoom s ≠ 0 ∧ (∀ p ∈ partitions s, unitWaits s p = false) ∧ recordRoom { s with records := List.replicate 16384 (0, []) } = 0) ∧
    (let s := { withRec .op (entryOf 64) ready with parts := [(0, { cmdQ := [(0, [])] })] }
     ∃ p ∈ partitions s, unitWaits s p = true) := by decide +kernel

theorem wit_HostInterfaceWorks_waits :
    slotSes ready 3 = none ∧
    (∀ y ∈ [{ recSes .op [] with h2mEnts := [] }, { recSes .op [] with errH := 1 }, { recSes .op [] with m2hBufs := [] }],
      let s := { ready with sessions := [y] }
      slotSes s 3 = some y ∧ (y.h2mEnts = [] ∨ (m2hReady y = true ∧ (y.errH ≠ 0 ∨ slotTurn s 3 = false)) ∨
        (m2hReady y = false ∧ sesAt s y.id = some y ∧ y.waiting = [] ∧ s.records = []))) ∧
    (let s := { ready with sessions := [recSes .op [], { recSes .op [] with id := 8, slot := 2 }], rrSlot := 1 }
     slotSes s 3 = some (recSes .op []) ∧ m2hReady (recSes .op []) = true ∧ slotTurn s 3 = false) := by decide +kernel

theorem wit_HostInterfaceWorks_mailbox :
    (∀ busy ∈ [0, 2], ∀ go ∈ [0, 1], let w : MbWrites := { ctl := go, clr := 9, msix := [(4 * 17 + 3, 0)] }
      (bit (mbHostWrites { ready with mbStatus := busy } 1 [5] w 0).mbStatus 1 = true ↔ busy = 2) ∧ (w.ctl % 2 = 1 ↔ go = 1)) ∧
    bit { ready with msixPba := 2 ^ 17 }.msixPba 17 = true ∧
    (let w : MbWrites := { ctl := 1, clr := 0, msix := [(4 * 17 + 3, 0)] }
     (mbHostWrites { ready with msixPba := 2 ^ 17 } 1 [5] w 0).msixTab.getD (4 * 17 + 3) 1 % 2 = 0) ∧
    (leAt [5] 0 1 = 5 ∧ leAt [6] 0 1 = 6 ∧ leAt [7] 0 1 ≠ 5 ∧ leAt [7] 0 1 ≠ 6) := by decide +kernel

theorem wit_HostInterfaceWorks_rings :
    (let s := withRec .op (entryOf 16) ready
     let x := recSes .op (entryOf 16)
     slotSes s 3 = some x ∧ ringLen x.ringH ≠ 0 ∧ ringLen x.ringM ≠ 0 ∧ x.errH = 0 ∧ x.errM = 0 ∧ ringOutside x x.ringH = false ∧
       ringOutside x x.ringM = false ∧ ringOutside x (leBytes 8 (2 ^ 30) ++ leBytes 4 64 ++ leBytes 4 0) = true ∧
       x.h2mEnts.length + (1 + 2 ^ 32 - x.h2mTail % 2 ^ 32) % 2 ^ 32 ≤ ringLen x.ringH ∧
       ringLen x.ringH < x.h2mEnts.length + (64 + 2 ^ 32 - x.h2mTail % 2 ^ 32) % 2 ^ 32 ∧
       x.m2hBufs.length + (1 + 2 ^ 32 - x.m2hTail % 2 ^ 32) % 2 ^ 32 ≤ ringLen x.ringM ∧
       ringLen x.ringM < x.m2hBufs.length + (64 + 2 ^ 32 - x.m2hTail % 2 ^ 32) % 2 ^ 32 ∧ x.waiting = [] ∧ s.records = [] ∧
       inBounce x (entryAddr (entryOf 4048)) (entryLen (entryOf 4048)) = true ∧ bufOk x (entryOf 4048) = true ∧ bufOk x (entryOf 4047) = false ∧
       ∀ p ∈ partitions s, unitWaits s p = false) ∧
    (∀ m ∈ [false, true], let x := { sesOf .op with transport := 0 }
      let s := { opReady with sessions := [x] }
      let val := leBytes 8 0 ++ leBytes 4 4096 ++ leBytes 4 0
      sesAt s 7 = some x ∧ setStatus s x 0x9010 (if m then 7 else 6) val (decide (2 ≤ x.transport)) (ringBad val) false false = .ok) := by decide +kernel

/-- A packet that carries an MCTP packet to an endpoint. -/
def mctpTo (e : Nat) : List Byte := leBytes 1 1 ++ leBytes 1 e ++ List.replicate 4 0
def mgmtTo (l : MctpFrom) (e : Nat) : Packet :=
  { aPacket 0 with payload := if l = .link 63 then leBytes 4 0 ++ leBytes 2 6 ++ List.replicate 10 0 ++ mctpTo e ++ List.replicate 42 0 else mctpTo e }

theorem wit_ManagementTransportsAnswer :
    (ready.powered = true ∧ ready.mcDown = false ∧ 63 < linksOf ready.variant ∧ ready.mgmtOut = []) ∧
    (∀ l ∈ [MctpFrom.link 63, .vdm, .i3c], let s := { atOrigin with eids := [(1, 9), (2, 9), (3, 9)] }
     let eid := fun e => leAt (Machine.arrival l (mgmtTo l e)).2.1 1 1
     l ≠ .own ∧ eid 9 = eidOf s (Machine.arrival l (mgmtTo l 9)).1 ∧ eid 8 = 8 ∧ eid 8 ≠ eidOf s (Machine.arrival l (mgmtTo l 8)).1 ∧ peerOf s (eid 8) = none) ∧
    (let s := { wb (wHand 1 {}) 0x9000 3 (leBytes 4 (8 * 2 ^ 24)) with mgmtOut := [(0, mctpTo 8)] }
     s.powered = true ∧ s.mcDown = false ∧ 8 ≠ eidOf s 3 ∧ peerOf s 8 = some 0 ∧ route s (rg s 0x2000 12) 0 0 .mgmt = some (some 3) ∧
       s.mgmtOut = (0, mctpTo 8) :: []) := by
  decide +kernel

/-- One session before its FINISH. -/
def unfinished : Session := { sesOf .op with up := false }

theorem wit_SpdmResponderAnswers_chain : 0 < (certChain (wb ready 0x6030 1 [1, 2])).length := by
  have h : 0 < (rb (wb ready 0x6030 1 [1, 2]) 0x6030 1).length := by decide +kernel
  simp only [certChain, List.length_take, List.length_append]
  omega

theorem wit_SpdmResponderAnswers :
    (∀ n ∈ [0, 1, 2, 3], let s := { ready with spdm := [(2, n)] }
      s.powered = true ∧ s.mcDown = false ∧ (kget s.spdm 2).getD 0 = n) ∧
    (let s := { wb (put ready [(0x6000, 1, 2)]) 0x6010 1 keyG with dice := { cdi1 := [1] } }
     3 ≤ rg s 0x7008 1 ∧ s.dice.cdi1 ≠ [] ∧ roleOf s keyG true = some .ow ∧ s.sessions.length < 16 ∧ roleOf s keyH false = none ∧
       roleOf s keyH true = none) ∧
    (State.reset.dice.cdi1 = [] ∧ rg State.reset 0x7008 1 < 3 ∧ 16 ≤ (List.replicate 16 unfinished).length) ∧
    (let s := { ready with sessions := [unfinished] }
     sesAt s 7 = some unfinished ∧ unfinished.up = false ∧ unfinished.transport = 1) ∧
    opens .op opReady = true ∧ (sesOf .op).transport = 1 := by decide +kernel

/-- The premises of the invariants hold somewhere: at reset, where an idle step is next, and of a command. -/
theorem wit_Invariants : AlertInv State.reset ∧ MemInv State.reset ∧ step State.reset = .next State.reset ∧
    (∃ t, exec (.mcWatchdog 250) ready = .next t) ∧ (∃ t, exec (.mcWatchdog 250) { ready with powered := false } = .next t) := by
  refine ⟨by unfold AlertInv; decide +kernel, ⟨?_, fun e h => nomatch h⟩, rfl, ⟨_, rfl⟩, ⟨_, rfl⟩⟩
  unfold Memory.wf; decide +kernel

theorem wit_CommandsKeepQueueAndVariant : Fits ready (.mm 767 0) ∧ ¬Fits ready (.mm 768 0) ∧ Fits ready (.planStart 0) ∧ ¬Fits ready (.planStart 4) ∧
    Fits ready .perstN := by
  simp only [Fits]; decide +kernel

/-! ### A plan that loads -/

/-- Everything of a minimal plan image of one die but its REGIONS section: header, directory, CAPS, LIB, one segment of one beat and one
pass, an empty core segment table, seeds, and the signature by operator key 0. K is 16. -/
def imgHead (lib sig : List Byte) : List Byte :=
  leBytes 4 0x34495054 ++ leBytes 2 1 ++ leBytes 2 9 ++ leBytes 8 200320 ++ leBytes 2 16 ++ leBytes 2 8192 ++ leBytes 4 0 ++ leBytes 2 1 ++
  leBytes 2 1 ++ List.replicate 36 0 ++
  ([(1, 256, 64), (2, 320, 48), (3, 384, 16), (4, 448, 1584), (7, 2048, 1536), (5, 3584, 0), (8, 3584, 0), (12, 3584, 112),
    (6, 3712, 196608)].map (fun x => leBytes 4 x.1 ++ leBytes 4 x.2.2 ++ leBytes 8 x.2.1)).flatten ++ List.replicate 48 0 ++
  (List.replicate 8 0 ++ leBytes 1 1 ++ List.replicate 55 0) ++ (lib ++ List.replicate 16 0) ++
  (leBytes 4 1 ++ leBytes 4 1 ++ List.replicate 56 0) ++ List.replicate 1600 0 ++ List.replicate 1536 1 ++
  (leBytes 1 1 ++ List.replicate 15 0 ++ sig ++ List.replicate 16 0)

/-- A module that this plan suits, with one die per partition, and its image at address 0. -/
def wSuits : State :=
  { put ready [(0x6000, 3, 2), (0x2100, 1, 16), (0x2210, 1, 1), (0x3410, 7, 1), (0x3400, 1, 2 ^ 31)] with
    blobs := [(rkey 0x1000 10, List.replicate 8 0), (rkey 0x1100 5, List.replicate 192 0xFF), (rkey 0x2120 3, leBytes 2 0 ++ (List.replicate 48 (List.range 16)).flatten.map (BitVec.ofNat 8) ++ List.replicate 164 0),
              (rkey 0x2128 1, List.replicate 48 7), (rkey 0x3410 1, List.replicate 64 0), (rkey 0x3800 1, leBytes 4 (2 ^ 31)), (rkey 0x6010 2, keyG)] }

/-- Zeros at the end of a number's bytes add nothing. -/
theorem leNat_zeros (l : List Byte) (k : Nat) : leNat (l ++ List.replicate k 0) = leNat l := by
  have z : ∀ k, leNat (List.replicate k 0) = 0 := by
    intro k
    induction k with
    | zero => rfl
    | succ k ih => rw [List.replicate_succ]; show (0 : Byte).toNat + 256 * leNat (List.replicate k 0) = 0; rw [ih]; rfl
  induction l with
  | nil => exact z k
  | cons b r ih => rw [List.cons_append, leNat, leNat, ih]

theorem leAt_zeros (l : List Byte) (k a n : Nat) : leAt (l ++ List.replicate k 0) a n = leAt l a n := by
  unfold leAt
  rw [List.drop_append, List.take_append, List.drop_replicate, List.take_replicate, leNat_zeros]

theorem leAt_zero (k a n : Nat) : leAt (List.replicate k 0) a n = 0 := by
  have h := leAt_zeros [] k a n
  rw [List.nil_append] at h; rw [h]; cases a <;> cases n <;> rfl

/-- A section inside the head of an image reads the head alone. -/
theorem body_head (l : List Byte) (k ty : Nat) (x : Sect) (h : sect l ty = some x) (hx : x.2.1 + x.2.2 ≤ l.length) :
    body (l ++ List.replicate k 0) ty = body l ty := by
  have e : sect (l ++ List.replicate k 0) ty = sect l ty := by unfold sect sections; simp only [leAt_zeros]
  unfold body; rw [e, h]; dsimp only
  rw [List.drop_append, List.take_append, List.length_drop]
  have z : x.2.2 - (l.length - x.2.1) = 0 := by omega
  rw [z, List.take_zero, List.append_nil]

/-- What is written is read back, with what was never written behind it. -/
theorem mread_of (m : List Host.Cell) (l : List Byte) : ∀ a, (∀ i (h : i < l.length), mget m (a + i) = l[i]) → mread m a l.length = l := by
  induction l with
  | nil => intro a _; rfl
  | cons b r ih =>
    intro a h
    have h0 := h 0 (by simp)
    simp only [Nat.add_zero, List.getElem_cons_zero] at h0
    simp only [List.length_cons, mread, h0]
    congr 1
    refine ih (a + 1) (fun i hi => ?_)
    have := h (i + 1) (by simp only [List.length_cons]; omega)
    simp only [List.getElem_cons_succ] at this
    rw [← this]; congr 1; omega

/-- The signature of its digest by operator key 0, whose private key is 1, with the per-message number 9. -/
def planSig : List Byte :=
  beBytes 48 0x8f0a39a4049bcb3ef1bf29b8b025b78f2216f7291e6fd3bac6cb1ee285fb6e21c388528bfee2b9535c55e4461079118b ++
  beBytes 48 0x328a5856f3dbe37f0d4433c626ff3b4d4c22f4929a33aa0785fc24d1277ba70f8cefc415c97806c326c22c02e81920c0

/-- The head of the plan, as `wSuits` accepts it, and the bytes behind it. -/
def planHead : List Byte := imgHead (List.replicate 48 7) planSig
def planImage : List Byte := planHead ++ List.replicate 196608 0

theorem planHead_length : planHead.length = 3712 := by decide +kernel

theorem plan_bodies : body planHead 1 = List.replicate 8 0 ++ leBytes 1 1 ++ List.replicate 55 0 ∧ body planHead 2 = List.replicate 48 7 ∧
    body planHead 3 = leBytes 4 1 ++ leBytes 4 1 ++ List.replicate 8 0 ∧ body planHead 4 = List.replicate 1584 0 ∧ body planHead 5 = [] ∧
    body planHead 7 = List.replicate 1536 1 ∧ body planHead 8 = [] ∧ body planHead 12 = leBytes 1 1 ++ List.replicate 15 0 ++ planSig := by decide +kernel

theorem plan_sects : sect planHead 1 = some (1, 256, 64) ∧ sect planHead 2 = some (2, 320, 48) ∧ sect planHead 3 = some (3, 384, 16) ∧
    sect planHead 4 = some (4, 448, 1584) ∧ sect planHead 5 = some (5, 3584, 0) ∧ sect planHead 6 = some (6, 3712, 196608) ∧
    sect planHead 7 = some (7, 2048, 1536) ∧ sect planHead 8 = some (8, 3584, 0) ∧ sect planHead 9 = none ∧ sect planHead 10 = none ∧
    sect planHead 11 = none ∧ sect planHead 12 = some (12, 3584, 112) := by decide +kernel

theorem image_sect (ty : Nat) : sect planImage ty = sect planHead ty := by
  unfold planImage sect sections; simp only [leAt_zeros]

/-- The sections of the image. -/
theorem image_bodies : body planImage 1 = List.replicate 8 0 ++ leBytes 1 1 ++ List.replicate 55 0 ∧ body planImage 2 = List.replicate 48 7 ∧
    body planImage 3 = leBytes 4 1 ++ leBytes 4 1 ++ List.replicate 8 0 ∧ body planImage 4 = List.replicate 1584 0 ∧ body planImage 5 = [] ∧
    body planImage 6 = List.replicate 196608 0 ∧ body planImage 7 = List.replicate 1536 1 ∧ body planImage 8 = [] ∧
    body planImage 9 = [] ∧ body planImage 10 = [] ∧ body planImage 11 = [] ∧ body planImage 12 = leBytes 1 1 ++ List.replicate 15 0 ++ planSig := by
  obtain ⟨b1, b2, b3, b4, b5, b7, b8, b12⟩ := plan_bodies
  obtain ⟨s1, s2, s3, s4, s5, s6, s7, s8, s9, s10, s11, s12⟩ := plan_sects
  have L := planHead_length
  refine ⟨?_, ?_, ?_, ?_, ?_, ?_, ?_, ?_, ?_, ?_, ?_, ?_⟩
  · rw [← b1]; exact body_head _ _ _ _ s1 (by rw [L]; decide)
  · rw [← b2]; exact body_head _ _ _ _ s2 (by rw [L]; decide)
  · rw [← b3]; exact body_head _ _ _ _ s3 (by rw [L]; decide)
  · rw [← b4]; exact body_head _ _ _ _ s4 (by rw [L]; decide)
  · rw [← b5]; exact body_head _ _ _ _ s5 (by rw [L]; decide)
  · unfold body; rw [image_sect, s6]; dsimp only
    rw [planImage, List.drop_left' L, List.take_replicate, Nat.min_self]
  · rw [← b7]; exact body_head _ _ _ _ s7 (by rw [L]; decide)
  · rw [← b8]; exact body_head _ _ _ _ s8 (by rw [L]; decide)
  · unfold body; rw [image_sect, s9]
  · unfold body; rw [image_sect, s10]
  · unfold body; rw [image_sect, s11]
  · rw [← b12]; exact body_head _ _ _ _ s12 (by rw [L]; decide)

/-- The load that waits, and the module that it waits on. -/
def planReq : LoadReq := { handle := 2 ^ 24 + 1, addr := 0, len := 200320, prev := 0 }
def wLoads : State := { wSuits with mem := mwrite [] 0 planHead, parts := [(0, { loading := some planReq })], handles := [aHandle 1 7] }

theorem peek_clean (s : State) (a n : Nat) (h : s.ecc = []) : peek s a n = mread s.mem a n := by simp [peek, h]

theorem planImage_length : planImage.length = 200320 := by
  rw [planImage, List.length_append, planHead_length, List.length_replicate]

theorem plan_byte (i : Nat) (hi : i < planImage.length) : mget (mwrite [] 0 planHead) (0 + i) = planImage[i] := by
  simp only [planImage]
  by_cases h : i < planHead.length
  · simp only [mget_mwrite_in planHead [] 0 i h, List.getElem_append_left h]
  · have b : ¬(lmBase ≤ 0 + i) := by rw [planImage_length] at hi; unfold lmBase; omega
    have o := mget_mwrite_out planHead [] 0 (0 + i) (Or.inr (by omega))
    rw [o, List.getElem_append_right (Nat.le_of_not_lt h), List.getElem_replicate]
    show memDefault (0 + i) = 0
    rw [memDefault, if_neg (fun c => b c.1)]

theorem wLoads_ecc : wLoads.ecc = [] := by decide +kernel

theorem wLoads_mem : wLoads.mem = mwrite [] 0 planHead := by simp only [wLoads]

theorem plan_mread : mread (mwrite [] 0 planHead) 0 planImage.length = planImage := mread_of _ _ 0 plan_byte

theorem plan_read (n : Nat) (h : planImage.length = n) : peek wLoads 0 n = planImage := by
  rw [← h]
  have p := peek_clean wLoads 0 planImage.length wLoads_ecc
  rw [wLoads_mem] at p
  exact p.trans plan_mread

/-- The module when the load completes. -/
def wBound : State := setPlanState (setPart wLoads 0 { partAt wLoads 0 with loading := none }) 0 planReq.prev

theorem image_fields (a n : Nat) : leAt planImage a n = leAt planHead a n := leAt_zeros _ _ _ _

/-- What is signed: the head but for its signature, filled to whole blocks, 1,535 blocks of zeros, and one of 16 zeros and the length. -/
def signedHead : List Byte := planHead.take 3584 ++ planHead.drop 3696 ++ List.replicate 112 0

theorem plan_message : digestMsg planImage = signedHead ++ (List.replicate (128 * 1535) 0 ++ List.replicate 16 0) := by
  have L := planHead_length
  have s12 := plan_sects.2.2.2.2.2.2.2.2.2.2.2
  have z : List.replicate 196608 (0 : Byte) = List.replicate 112 0 ++ (List.replicate (128 * 1535) 0 ++ List.replicate 16 0) := by
    rw [← List.replicate_add, ← List.replicate_add]
  unfold digestMsg; rw [image_sect, s12]; dsimp only
  rw [planImage, List.take_append_of_le_length (by rw [L]; decide), List.drop_append_of_le_length (by rw [L]; decide), z, signedHead]
  simp only [List.append_assoc]

theorem signedHead_blocks : signedHead.length = 128 * 29 ∧ Sha.blocks 29 Sha.init signedHead =
    Sha.words 0x7541bc09e50485c3a69e968e0d28484d5bd1af5a5b94b4436878866e46221dfcfeed0910c9ceba84fa8594af4d2ef4e1fa99b0e9c33a67847adf1b34e6df9a40 := by
  decide +kernel

theorem zero_blocks :
    Sha.zeroBlocks 1535 0x7541bc09e50485c3a69e968e0d28484d5bd1af5a5b94b4436878866e46221dfcfeed0910c9ceba84fa8594af4d2ef4e1fa99b0e9c33a67847adf1b34e6df9a40 =
    0xf4c6e0d5d1bd9eb0b2b1199f49fb2cefb7aba5392e41bf788111d5dae4ed8dbe226592704206db1f03f93ab89d1d03d04a7a011af2ad1f3ed5c19f01cc4ec3af := by
  decide +kernel

/-- The digest of the plan. -/
theorem plan_digest : sha384 (digestMsg planImage) = beBytes 48 0x37d2e16a8e1f343885a6a83eaed35e288b23a1fe4d61268927aedef5e926438ad8cb8485cda4dc0e13918e694ba3ebc2 := by
  have t : Sha.pad (digestMsg planImage) = signedHead ++ (List.replicate (128 * 1535) 0 ++
      (List.replicate 16 0 ++ [0x80] ++ List.replicate 95 0 ++ beBytes 16 1601664)) := by
    have l : (digestMsg planImage).length = 200208 := by
      rw [plan_message, List.length_append, List.length_append, signedHead_blocks.1, List.length_replicate, List.length_replicate]
    rw [Sha.pad, l, plan_message]
    simp only [List.append_assoc]
  have n : (Sha.pad (digestMsg planImage)).length = 128 * (29 + (1535 + 1)) := by
    rw [t, List.length_append, List.length_append, signedHead_blocks.1, List.length_replicate]; rfl
  unfold sha384; dsimp only
  rw [n, Nat.mul_div_cancel_left _ (by decide), t, Sha.blocks_add _ _ _ _ _ signedHead_blocks.1, signedHead_blocks.2,
    Sha.blocks_add _ _ _ _ _ List.length_replicate]
  have z := Sha.zeroBlocks_eq 1535 0x7541bc09e50485c3a69e968e0d28484d5bd1af5a5b94b4436878866e46221dfcfeed0910c9ceba84fa8594af4d2ef4e1fa99b0e9c33a67847adf1b34e6df9a40 []
  rw [List.append_nil, zero_blocks] at z
  rw [z]; decide +kernel

theorem image_form : headerOk planImage 200320 = true ∧ directoryOk planImage 200320 = true := by
  have hs : sections planImage = sections planHead := by simp only [sections, image_fields]
  constructor
  · simp only [headerOk, imgK, imgReserve, imgFirst, imgLast, imgGrove, imgSegs, image_fields]; decide +kernel
  · simp only [directoryOk, hs, image_fields]; decide +kernel

theorem image_sizes : fixedOk planImage = true := by
  obtain ⟨b1, b2, b3, b4, b5, b6, b7, b8, b9, b10, b11, b12⟩ := image_bodies
  simp only [fixedOk, capDies, imgSegs, image_fields, b1, b2, b3, b4, b6, b7, b8, b12, List.length_replicate]
  decide +kernel

theorem image_rest : hbmOk planImage 200320 = true ∧ relocs planImage = [] ∧ linkSlots planImage = some [] ∧ capDies planImage = 1 ∧
    sigSectionOk wBound 0 planImage = true := by
  obtain ⟨b1, b2, b3, b4, b5, b6, b7, b8, b9, b10, b11, b12⟩ := image_bodies
  obtain ⟨s1, s2, s3, s4, s5, s6, s7, s8, s9, s10, s11, s12⟩ := plan_sects
  refine ⟨?_, ?_, ?_, ?_, ?_⟩
  · simp only [hbmOk, image_sect, s9]; rfl
  · simp only [relocs, b8]; rfl
  · simp only [linkSlots, image_sect, s10]; rfl
  · simp only [capDies, b1]; decide +kernel
  · simp only [sigSectionOk, b12, plan_digest]; decide +kernel

/-- Every region of the image is inactive. -/
theorem image_regions (i : Nat) : regionTable planImage i = (List.range 64).map (fun _ => regionOfBytes 0) := by
  obtain ⟨b1, b2, b3, b4, b5, b6, b7, b8, b9, b10, b11, b12⟩ := image_bodies
  simp only [regionTable, b6, List.drop_replicate, List.take_replicate, leAt_zero]

theorem image_places : placedOk wBound 0 planImage (bindDies (bindOf wBound 0) 1) (bindHbm (bindOf wBound 0))
    (imageHbm wBound 0 planReq) [] ((List.range 4).filter (fun d => bindDiesBad wBound 0 (bindDies (bindOf wBound 0) 1) || bindHbmBad (bindOf wBound 0) d)) =
    true := by
  obtain ⟨b1, b2, b3, b4, b5, b6, b7, b8, b9, b10, b11, b12⟩ := image_bodies
  have cap : capDies planImage = 1 := image_rest.2.2.2.1
  have tab : ∀ c, ∃ k, coresegTab planImage c = List.replicate k 0 := fun c => by
    refine ⟨min (128 * imgSegs planImage) (1584 - (48 * capDies planImage + 128 * imgSegs planImage * c)), ?_⟩
    simp only [coresegTab, b4, List.drop_replicate, List.take_replicate]
  have off : ∀ c, coresegOff planImage c = 0 := fun c => by simp only [coresegOff, b4, leAt_zero]
  have regs : ∀ i, regionBitsOk planImage i = true := fun i => by
    simp only [regionBitsOk, b6, List.drop_replicate, List.take_replicate, leAt_zero]; decide
  have segs : ∀ dm i, coresegOk planImage dm i = true ∧ tablesOk planImage dm [] i = true := fun dm i => by
    obtain ⟨k, hk⟩ := tab (i / 16)
    constructor
    · simp only [coresegOk, hk, leAt_zero]; simp [bits]
    · simp only [tablesOk, hk, leAt_zero]; simp [bits]
  have place : ∀ i j, regionOk planImage (dieHome wBound 0 1) (imageHbm wBound 0 planReq) [] i j = true := fun i j => by
    have r : (regionTable planImage i).getD j (regionOfBytes 0) = regionOfBytes 0 := by
      rw [image_regions]; simp only [List.getD_eq_getElem?_getD, List.getElem?_map]
      cases (List.range 64)[j]? <;> rfl
    simp only [regionOk, r, List.contains_nil, Bool.false_or]; decide +kernel
  have allPlaces : ∀ i, (List.range 64).all (regionOk planImage (dieHome wBound 0 1) (imageHbm wBound 0 planReq) [] i) = true := fun i =>
    List.all_eq_true.mpr (fun j _ => place i j)
  have seg : imgSegs planImage = 1 := by simp only [imgSegs, image_fields]; decide +kernel
  have r5 : recordsOf 1 (body planImage 5) = some [] := by rw [b5]; rfl
  have r11 : recordsOf 1 (body planImage 11) = some [] := by rw [b11]; rfl
  have h9 : hbmRecs (body planImage 9) = [] := by rw [b9]; decide
  simp only [placedOk, cap, r5, r11, h9, regs, segs, off, seg, allPlaces, List.append_nil]
  decide +kernel

theorem image_state : bindBad wBound 0 planImage = false ∧ stateBad wBound 0 planImage [] = false := by
  obtain ⟨b1, b2, b3, b4, b5, b6, b7, b8, b9, b10, b11, b12⟩ := image_bodies
  constructor
  · simp only [bindBad, image_rest.2.2.2.1, imgLast, imgFirst, image_fields]; decide +kernel
  · simp only [stateBad, image_rest.2.2.2.1, image_rest.2.1, imgGrove, imgK, imgReserve, imgFirst, imgLast, image_fields, b1, b2, b7, b9]
    decide +kernel

/-- The bindings hold no error. -/
theorem image_mend : mendBind wBound 0 planImage (bindOf wBound 0) = bindOf wBound 0 := by
  have cap : capDies planImage = 1 := image_rest.2.2.2.1
  simp only [mendBind, cap, imgLast, imgFirst, image_fields]; decide +kernel

/-- The load is accepted. -/
theorem image_loads : (loadStatus wBound 0 planReq planImage).1 = .ok := by
  obtain ⟨b1, b2, b3, b4, b5, b6, b7, b8, b9, b10, b11, b12⟩ := image_bodies
  obtain ⟨i1, i2, i3, i4, i5⟩ := image_rest
  have r5 : recordsOf 1 (body planImage 5) = some [] := by rw [b5]; rfl
  have r11 : recordsOf 1 (body planImage 11) = some [] := by rw [b11]; rfl
  have l : planReq.len = 200320 := rfl
  have pl := image_places
  simp only [loadStatus, i2, i3, i4, l, image_form.1, image_form.2, image_sizes, i1, i5, r5, r11, image_state.1, image_state.2,
    relocateAll, image_mend, List.filter_nil, List.map_nil, pl]
  have f : stageInside wBound 0 planReq = true := by decide +kernel
  rw [f]; simp only [List.any_nil, List.all_nil, Option.isSome_some, Bool.and_self, Bool.not_true, Bool.or_self, Bool.false_eq_true, if_false]

theorem wit_PlansLoadAndReset_load : (partAt wLoads 0).loading = some planReq ∧
    (loadStatus wBound 0 planReq (peek wLoads planReq.addr planReq.len)).1 = .ok ∧ wLoads.mcDown = false ∧
      (handleAt wLoads planReq.handle).isSome = true := by
  refine ⟨by decide +kernel, ?_, by decide +kernel, by decide +kernel⟩
  have p : peek wLoads planReq.addr planReq.len = planImage := plan_read _ planImage_length
  exact p ▸ image_loads

/-! ### Commands that are not well formed -/

/-- A record of a write of 64 bytes. -/
def aWrite : HostRec := { cipher := text, tag := List.replicate 16 0 }

/-- One ill-formed command for each check. -/
theorem test_ill_formed : ∀ i ∈ [Instr.mm 768 0, .mm 0 65536, .planStart 4, .replaySend 64 0, .hbmPatrol 4 0 0, .barrierRelease 0 16 0 0 0,
      .stretchedCycle 0 4 0, .routeTableWrite 1 0 4 [], .rankTableWrite 1 128 [], .dictSet 1 0 0 (List.replicate 8321 0),
      .mgmtPacketRx (.link 0) { aPacket 1 with payload := [] }, .hostWrite 16 (header 1 11 64 64) aWrite,
      .hostWrite 0 [] aWrite, .hostWrite 0 (header 1 11 64 64) { aWrite with tag := [] }, .h2mTail 0 (2 ^ 32) [], .h2mTail 0 1 [[]],
      .mbGo (2 ^ 32) [] false { ctl := 1, clr := 0, msix := [] } 0, .mbGo 1 [] false { ctl := 1, clr := 0, msix := [(72, 0)] } 0, .getVersion 4,
      .challenge 0 [],
      .submit none [], .ctxRelease 0 64, .senseOpen 19 0, .attest 0 (List.replicate 31 0), .rw2pWrite 0 0 0 [] [] []],
    i.wf = false := by decide +kernel

theorem test_well_formed : Instr.wf (.mm 767 65535) = true ∧ Instr.wf (.mgmtPacketRx (.link 63) (aPacket 1)) = true ∧ Instr.wf (.hostWrite 15 (header 1 11 64 64) aWrite) = true ∧
    Instr.wf (.challenge 3 (List.replicate 32 0)) = true := by decide +kernel

/-! ### Worked examples of the spec -/

/-- Order independence (number formats): 256 × 256, 2⁻⁹ × 2⁻⁹ and −256 × 256 add up to 2⁻¹⁸ in both orders. -/
theorem test_exact_sum :
    let p (a b : Nat) : XEl := (XEl.enter (mulVal (decodeVal 3 a) (decodeVal 3 b)) 0).1
    (p 0x78 0x78).q = 0x00000000000100000000000000000000 ∧ (p 1 1).q = 0x00000000000000000000400000000000 ∧
      (p 0xF8 0x78).q = 0xFFFFFFFFFFFF00000000000000000000 ∧
      XEl.add (XEl.add (p 0x78 0x78) (p 1 1)) (p 0xF8 0x78) = { flags := 0, q := 0x00000000000000000000400000000000 } ∧
      XEl.add (XEl.add (p 0x78 0x78) (p 0xF8 0x78)) (p 1 1) = { flags := 0, q := 0x00000000000000000000400000000000 } := by decide +kernel

/-- R66: 464 lies midway between 448 and 480 and rounds to 448. -/
theorem test_round_even : toFormat 3 0 0 true (.fin false 464 0) = 0x7E := by decide +kernel

/-- One value, three modes: the two draws after seed 1, and 11.5 in FP8-E4M3 with RNE, RTZ and the first draw. -/
theorem test_draws : genDraw (genStep 1) = 0x60C3 ∧ genStep (genStep 1) = 0x100041060C011441 ∧
    (let v : XEl := { flags := 0, q := 0x000000000000000B8000000000000000 }
     XEl.toFormat v 0 3 0 0 true = 0x54 ∧ XEl.toFormat v 0 3 1 0 true = 0x53 ∧ XEl.toFormat v 0 3 2 0x60C3 true = 0x53) := by decide +kernel

/-- A tiled product (matrix engine) and the MM of the reserve example: main phases of 128 and 512 cycles. -/
theorem test_mm_cycles : mmP (desc ([(384, 3), (388, 3)] ++ shape 128 64 128)) = 128 ∧ mmP (desc ([(384, 7), (388, 7)] ++ shape 128 64 256)) = 128 ∧
    mmP (desc ([(384, 3), (388, 3)] ++ shape 128 64 512)) = 512 := by decide +kernel

/-- The copy of a whole tile streams in 128 cycles with no set-up or depth; the XADD of the reserve example in 128, with depth 8. -/
theorem test_vx_cycles :
    (let d := desc ([(0, 0x20), (480, 7), (256, spec 5 10 0 1024), (304, spec 1 10 0 0)] ++ shape 128 64 1)
     vxAD d = (0, 0) ∧ vxS .x d = 128) ∧
    (let d := desc ([(0, 0x20), (480, 16), (256, spec 5 2 0 128), (304, spec 1 10 0 0), (352, spec 5 10 0 1024)] ++ shape 128 64 1)
     (vxAD d).2 = 8 ∧ vxS .x d = 128) := by decide +kernel

/-- The unaligned gather of the memory chapter: 8 units a row, step 2, 194 cycles from issue to write, channels 40 to 47 for index 5. -/
theorem test_gather :
    let d := desc ([(0, 0x31), (392, 2), (396, 2), (296, 3), (256, 0x3001000000), (344, 512), (340, 0), (300, 0x8000), (368, 512)] ++ shape 4 256 1)
    rowUnits d 0 5 false = 8 ∧ moveStep d = 2 ∧ unitLat (2 * 192 + 6) d = 194 ∧ rowSrc d 0 5 false = 0x3001000A00 ∧
      (channelKeys 3 (rowSrc d 0 5 false) (rowSrc d 0 5 false + 512)).map (fun k => k % 64) = [40, 41, 42, 43, 44, 45, 46, 47] := by decide +kernel

/-- Phase and a step (clocking): RTT 21.6 ns at N = 100 is 884,736 units each way, and the arrival at cycle 1,247.80 is late by 3,277. -/
theorem test_phase :
    let s := put ready [(0x2000, 15, 10800), (0x2100, 1, 12)]
    let m : BeatSync := { aSyncMsg 12 with sbeat := 5000, scyc := 1234, sfrac := 0x4000, arrBeat := 5000, arrUnits := 81775821 }
    delayUnits s = 884736 ∧ phaseErr s m (m.arrBeat, m.arrUnits) = 3277 := by decide +kernel

/-- The log entry of an SRAM error (resets and faults), from a MOV of logical core 9 of cluster 3 on die 1. -/
theorem test_log_bytes :
    let s := { ready with beat := 1200000, cyc := 2210 }
    let u := 192 + 3 * 16 + 9
    (errorRec s u 3 (cmAddr u 0x12340) 52431 0x0A31 0).faultq.map LogRec.bytes =
      [[0x80, 0x4F, 0x12, 0, 0, 0, 0xA2, 0x08, 0, 3, 1, 3, 0x39, 0x0D, 0, 0x40, 0x23, 1, 0, 0, 0xFF, 0xCF, 0xCC, 0, 0, 0, 0, 0x31, 0x0A, 0, 0, 0]] := by
  decide +kernel

/-- The serving chapter's boundary: its entries, its pool, and the results of slots 0, 1 and 3 at CM 0x8000. -/
def wBoundary : State :=
  let res (adv rb emit fin : Nat) (tok : List Nat) : List Byte :=
    leBytes 1 adv ++ leBytes 1 rb ++ leBytes 1 emit ++ leBytes 1 fin ++ List.replicate 12 0 ++ (tok.map (leBytes 4)).flatten ++ List.replicate (48 - 4 * tok.length) 0
  { put ready [(0x6000, 3, 2), (0x4810, 1, 0x0080000000), (0x4810, 2, 64), (0x4810, 3, 1024), (0x4810, 4, 0x0040000000)] with
    beat := 7000, parts := [(0, { ctxMap := [0] })],
    mem := mwrite [] (cmAddr 5 0x8000) (res 1 0 1 0 [0x2A1F] ++ res 1 6 2 0 [0x0451, 0x1F02] ++ List.replicate 64 0 ++ res 1 0 1 1 [9]),
    serve := [(3, { st := 2, length := 1016, pages := [10], slot := 0, slv := true, listPtr := 0x004000C000 }),
      (7, { tag := 0x0B07, st := 2, length := 4093, pages := [11, 12, 13, 14, 15], slot := 1, slv := true, listPtr := 0x004001C000 }),
      (9, { st := 3, length := 2500, pages := [16, 17, 18], slot := 2, slv := true, listPtr := 0x0040024000 }),
      (12, { st := 2, length := 1900, pages := [19, 20], slot := 3, slv := true, listPtr := 0x0040030000 }),
      (20, { st := 1, prio := 5, deadline := 7100, length := 600, pages := [21], listPtr := 0x0040050000 }),
      (21, { st := 1, prio := 9, deadline := 9000, length := 300, pages := [22], listPtr := 0x0040054000 }),
      (22, { st := 1, prio := 9, deadline := 7500, length := 700, pages := [23], listPtr := 0x0040058000 }),
      (23, { st := 1, prio := 9, deadline := 7500, length := 2045, pages := [24, 25], listPtr := 0x004005C000 }),
      (24, { st := 1, prio := 2, deadline := 6990, length := 100, pages := [26], listPtr := 0x0040060000 })] }

/-- The STEP of that boundary: SLOTS 4, AHEAD 8, slot table at CM 0x9000, results at CM 0x8000. -/
def stepDesc : BitVec 512 := desc [(0, 0x50), anyCycle, (256, 4), (276, 8), (296, 0x9000), (340, 0x8000)]

/-- What the worked example says of the entries, the page list, a slot record, the records, and NONDET_LAST. -/
theorem test_boundary :
    let b := boundary wBoundary 5 0 (queued stepDesc)
    (servAt b.1 3).pages = [10, 0] ∧ (servAt b.1 7).pages = [11, 12, 13, 14] ∧ (servAt b.1 22).pages = [23] ∧ (servAt b.1 23).pages = [24, 25, 1] ∧
      [9, 12, 20, 21, 22, 23, 24].map (fun e => (servAt b.1 e).st) = [5, 4, 1, 1, 2, 2, 5] ∧
      (servAt b.1 3).length = 1017 ∧ (servAt b.1 7).length = 4088 ∧ (servAt b.1 22).slot = 2 ∧ (servAt b.1 23).slot = 3 ∧
      peek b.1 0x004005C008 4 = [1, 0, 0, 0] ∧ peek b.1 (cmAddr 5 0x9060) 3 = [0x17, 0, 1] ∧
      peek b.1 (cmAddr 5 0x9064) 12 = [0xFD, 7, 0, 0, 0, 0xC0, 5, 0x40, 0, 0, 0, 0] ∧
      b.2.map (fun r => (leAt r 0 1, leAt r 2 2)) = [(3, 3), (3, 7), (4, 9), (3, 12), (4, 12), (4, 24)] ∧
      (b.2.getD 1 []).take 24 = [3, 0, 7, 0, 7, 0x0B, 0, 0, 0x58, 0x1B, 0, 0, 0, 0, 2, 0, 0x51, 4, 0, 0, 2, 0x1F, 0, 0] ∧
      rg b.1 0x2108 1 = 2 ∧ rb b.1 0x2108 2 = leBytes 6 7000 ++ leBytes 2 23 ++ leBytes 2 3 ++ List.replicate 6 0 := by decide +kernel

/-- R341: the GL-S generator has degree 12, is monic, and its constant term is α^66; α has order 1,023. -/
theorem test_generator : (rsGen 12).length = 13 ∧ (rsGen 12).head? = some 1 ∧ (rsGen 12).getLast? = some (gfPow 66) ∧ gfPow 1023 = 1 := by
  decide +kernel

/-- R341, R342, R344: a GL-S marker has 272 symbols, and its first symbols spell its header 0 and the bytes 0x5A, 0xC3. -/
theorem test_marker : (marker false false 7 3).take 6 = [0, 0, 0, 0, 0x35A, 0x2B0] := by decide +kernel

theorem test_marker_length : (marker false false 7 3).length = 272 := by
  rw [marker, rsEncode_length, symbolsOf_length]; rfl

/-- R341: symbols with their check symbols are a codeword, and with one of them changed they are none. -/
theorem test_codeword : isCodeword 12 (rsEncode 12 [0x35A, 0x2B0, 1]) = true ∧ isCodeword 12 (rsEncode 12 [0x35A, 0x2B0, 1] |>.set 3 0) = false := by
  decide +kernel

/-- R661: IDCODE at hardware revision 0x0010. -/
theorem test_idcode : idcode State.reset = 0x053049B3 := by decide +kernel

/-- R663: C2M and GL-S do not combine, from either side. -/
theorem test_c2m :
    badAt (put State.reset [(0x3000, 3, 0)]) (sesOf .op) 0x3000 4 [2] = true ∧ badAt (put State.reset [(0x3000, 3, 1)]) (sesOf .op) 0x3000 4 [2] = false ∧
      badAt (put State.reset [(0x3000, 4, 2)]) (sesOf .op) 0x3000 3 [0] = true := by decide +kernel

/-- R457: products in the field of the cipher and one mixed column, as FIPS 197 gives them. -/
theorem test_aes : Aes.mul 0x57 0x83 = 0xC1 ∧ Aes.sub 0x53 = 0xED ∧ Aes.subInv 0xED = 0x53 ∧
    Aes.column [2, 3, 1, 1] [0xD4, 0xBF, 0x5D, 0x30] = [0x04, 0x66, 0x81, 0xE5] := by decide +kernel

/-- R178, R558: SHA-384 and HMAC with their published answers (FIPS 180-4, RFC 4231 case 2). -/
theorem test_sha : sha384 [0x61, 0x62, 0x63] = beBytes 48
      0xcb00753f45a35e8bb5a03d699ac65007272c32ab0eded1631a8b605a43ff5bed8086072ba1e7cc2358baeca134c825a7 ∧
    hmac384 [0x4A, 0x65, 0x66, 0x65] ([0x77, 0x68, 0x61, 0x74, 0x20, 0x64, 0x6F, 0x20, 0x79, 0x61, 0x20, 0x77, 0x61, 0x6E, 0x74, 0x20] ++
      [0x66, 0x6F, 0x72, 0x20, 0x6E, 0x6F, 0x74, 0x68, 0x69, 0x6E, 0x67, 0x3F]) = beBytes 48
      0xaf45d2e376484031617f78d2b58a6b1b9c7ef464f5a01b47e42ec3736322445e8e2240ca5e69e2c78b3239ecfab21649 := by decide +kernel

/-- R538, R568: a public key and a signature of the text "sample" over P-384, as RFC 6979 gives them. -/
theorem test_ecdsa :
    let key := [0x04] ++ beBytes 48 0xec3a4e415b4e19a4568618029f427fa5da9a8bc4ae92e02e06aae5286b300c64def8f0ea9055866064a254515480bc13 ++
      beBytes 48 0x8015d9b72d7d57244ea8ef9ac0c621896708a59367f9dfb9f54ca84b3f1c9db1288b231c3ae0d4fe7344fd2533264720
    ecPublic 0x6b9d3dad2e1b8c1c05b19875b6659f4de23c3b667bf297ba9aa47740787137d896d5724e4c70a825f872c9ea60d2edf5 = key ∧
    ecVerify key (sha384 [0x73, 0x61, 0x6D, 0x70, 0x6C, 0x65])
      (beBytes 48 0x94edbb92a5ecb8aad4736e56c691916b3f88140666ce9fa73d64c4ea95ad133c81a648152e44acf96e36dd1e80fabe46 ++
       beBytes 48 0x99ef4aeb15f178cea1fe40db2603138f130e740a19624526203b6351d0a3a94fa329c145786e679e7b82c71a38628ac8) = true := by decide +kernel

/-- R564: AES-256-GCM of 16 zero bytes under a zero key and IV, as its specification's test case 14 gives it. -/
theorem test_gcm : Gcm.seal (List.replicate 32 0) (List.replicate 12 0) [] (List.replicate 16 0) =
    beBytes 16 0xcea7403d4d606b6e074ec5d3baf39d18 ++ beBytes 16 0xd0d1c8a799996bf0265b98b5d48ab919 := by decide +kernel

end Sys2Proof.Tests
end

section
/-! SUPPORT. Proofs of the statements on the scope of the model: every command completes where its unit exists (O6), a message by index
is the command of its entry (O47) and escapes the gate where its sub-index is no byte (O44), and an accepted SET stores its value (O46). -/

namespace Sys2Proof

open Machine

/-! ### Every command completes where its unit exists (R1) -/

/-- What O6 claims of one outcome: where `fits` holds it is a next state with the ordering code and the waiting commands of `s`, and
elsewhere it is a fault. -/
def Completes (s : State) (fits : Prop) (o : Host.Outcome State Fault Refusal) : Prop :=
  (fits → ∃ t, o = .next t ∧ t.variant = s.variant ∧ t.pending = s.pending) ∧ (¬fits → ∃ f, o = .fault f)

theorem Completes.always {s : State} {o : Host.Outcome State Fault Refusal}
    (h : ∃ t, o = .next t ∧ t.variant = s.variant ∧ t.pending = s.pending) : Completes s True o :=
  ⟨fun _ => h, fun n => absurd trivial n⟩

theorem completes_doneAny (s t : State) : Completes s True (doneAny s t) := .always ⟨_, rfl, rfl, rfl⟩

theorem completes_done (s t : State) : Completes s True (done s t) := by
  unfold done
  split
  · exact completes_doneAny s t
  · exact .always ⟨s, rfl, rfl, rfl⟩

/-- A command that faults where its unit is absent completes where it is present, if it does so under that condition. -/
theorem Completes.guard {s : State} {p q : Prop} [Decidable q] {o : Host.Outcome State Fault Refusal} (f : Fault)
    (h : Completes s p o) : Completes s (q ∧ p) (if q then o else .fault f) := by
  by_cases hq : q
  · rw [if_pos hq]
    exact ⟨fun hp => h.1 hp.2, fun n => h.2 fun hp => n ⟨hq, hp⟩⟩
  · rw [if_neg hq]
    exact ⟨fun hp => absurd hp.1 hq, fun _ => ⟨f, rfl⟩⟩

theorem completes_when {s t : State} {q : Prop} [Decidable q] (f : Fault) :
    Completes s q (if q then done s t else .fault f) := by
  simpa only [and_true] using (completes_done s t).guard (q := q) f

theorem completes_onCore (s : State) (u : Nat) (t : State) : Completes s (u < coresOf s.variant) (onCore s u t) :=
  completes_when .absentUnit

theorem completes_onLink (s : State) (l : Nat) (t : State) : Completes s (l < linksOf s.variant) (onLink s l t) :=
  completes_when .absentUnit

theorem completes_onDie (s : State) (d : Nat) (t : State) : Completes s (d < dies s.variant) (onDie s d t) :=
  completes_when .absentUnit

theorem completes_onPart (s : State) (p : Nat) (t : State) : Completes s (p ∈ partitions s) (onPart s p t) :=
  completes_when .noPartition

theorem completes_onServe (s t : State) : Completes s (hasServe s.variant = true) (onServe s t) :=
  completes_when .absentUnit

/-- A command of a die that also names a unit of it, below a bound `n`. -/
theorem completes_onDie_below (s : State) (d x n : Nat) (t : State) :
    Completes s (x < n ∧ d < dies s.variant) (if n ≤ x then .fault .absentUnit else onDie s d t) := by
  rw [← ite_not]
  simpa only [Nat.not_le] using (completes_onDie s d t).guard (q := ¬n ≤ x) .absentUnit

/-- Every command completes if its unit exists, and faults otherwise: the cases are those of `Fits`. -/
theorem exec_completes (i : Instr) (s : State) : Completes s (Fits s i) (exec i s) :=
  match i with
  | .descriptorFetch u _ | .descriptorDispatch u _ | .call u _ | .ret u _ | .callSignal u _ | .seed u _ | .hint u _ | .mm u _
  | .mmComplete u _ | .add u _ | .mul u _ | .fma u _ | .min u _ | .max u _ | .cmp u _ | .sel u _ | .cvt u _ | .lut u _ | .rsum u _
  | .rdot u _ | .rmax u _ | .rmin u _ | .xadd u _ | .xsum u _ | .qnt u _ | .dqs u _ | .vxComplete u _ | .mov u _ | .gather u _
  | .scatter u _ | .moverUnitIssue u _ | .moveComplete u _ | .send u _ | .sendx u _ | .packetHandoff u _ | .sendComplete u _
  | .sync u _ | .syncPostApply u _ | .arrivalApply u _ | .barrier u _ | .step u _ => completes_onCore s u _
  | .beatsyncRx l _ | .fstepRequestRx l _ | .fstepAnnounceRx l _ _ _ | .alarmRx l _ | .arriveRx l _ _ | .releaseRx l _ _
  | .frameStart l _ _ | .replaySend l _ | .frameForward l _ | .dataFrameRx l _ _ _ _ | .keepalive l _ _ | .nak l _ _ _ | .ident l _ _
  | .resume l _ _ _ | .ack l _ | .sv2AckTimer l _ | .keepaliveIdle l _ | .ackRefresh l _ | .down l _ | .alignmentLost l _
  | .laneSignalLoss l _ | .nakRepeat l _ | .replayTimer l _ _ | .creditTimeout l _ | .holdExpired l _ | .trainAttempt l _
  | .trainingDone l | .holdRetrainDone l | .rttWindowEnd l _ | .linkSelftestEnd l _ | .scrubLinkDrain l _ => completes_onLink s l _
  | .mgmtPacketRx (.link l) _ => completes_onLink s l _
  | .codewordDecodeFailure m => completes_onLink s m.link _
  | .barrierArrive p _ | .barrierRelease p _ _ _ _ | .canopyTimeout p _ _ _ | .stepComplete p _ | .planStart p | .planComplete p
  | .planLoadComplete p _ | .planResetComplete p _ | .scrubComplete p _ _ => completes_onPart s p _
  | .sensorSample d _ _ => completes_onDie s d _
  | .hbmPatrol d ch _ => completes_onDie_below s d ch 64 _
  | .stretchedCycle d r _ => completes_onDie_below s d r 4 _
  | .fifoRange d x _ _ => completes_onDie_below s d x (6 + 2 * dies s.variant) _
  | .serveSelftestEnd _ => completes_onServe s _
  | .coldStart _ _ _ => completes_doneAny s _
  | .mgmtPacketRx .vdm _ | .mgmtPacketRx .i3c _ | .mgmtPacketRx .own _
  | .beatEdge | .beatKChange | .fstepApply | .beatsyncSend .. | .faultRecord | .locking | .pllLock .. | .timingLost ..
  | .refclkLoss .. | .timePps .. | .ppsTimeout .. | .linkAdmin .. | .linkRetrain .. | .linkSelftest .. | .myCoord .. | .bundles ..
  | .routeTableWrite .. | .rankWindowWrite .. | .rankTableWrite .. | .timingConfigWrite .. | .stretchFrac .. | .beatKAt ..
  | .planStartBeat .. | .brkCtl .. | .planLoad .. | .planReset .. | .dictGet .. | .dictSet .. | .poll .. | .lock .. | .unlock ..
  | .lockLeaseExpiry .. | .handleExpiry .. | .logRead .. | .mbGo .. | .h2mTail .. | .m2hTail .. | .ringWrite .. | .hostWrite ..
  | .hostReadRequest .. | .serveCommandRecord .. | .installChunk .. | .perstN | .setEndpointId .. | .getEndpointId ..
  | .getMctpVersionSupport .. | .getMessageTypeSupport .. | .getVendorDefinedMsgSupport .. | .getVersion .. | .getCapabilities ..
  | .negotiateAlgorithms .. | .getDigests .. | .getCertificate .. | .challenge .. | .getMeasurements .. | .keyExchange .. | .finish ..
  | .keyUpdate .. | .heartbeat .. | .endSession .. | .submit .. | .cancel .. | .serveMaint .. | .serveSelftest .. | .ctxInstall ..
  | .hostIdle .. | .ctxGraft .. | .graftStart .. | .graftComplete .. | .ctxRelease .. | .ctxErase .. | .flashMaint ..
  | .flashSelftest .. | .flashSelftestEnd .. | .hbmSelftest .. | .hbmSelftestEnd .. | .powerFail .. | .holdupEnd ..
  | .calibrationInterval .. | .senseOpen .. | .senseMismatch .. | .senseState .. | .thermtrip .. | .tripDiscrepancy ..
  | .capMissTrip .. | .ownerClaim .. | .lifecycleNext .. | .rw2pWrite .. | .changeWindowExpiry .. | .debugReq .. | .debugResponse ..
  | .debugChallengeExpiry .. | .debugClose .. | .partAssign .. | .partRelease .. | .partMaint .. | .partEraseCtx .. | .partScrub ..
  | .fwUpdate .. | .attest .. | .freqChange .. | .slotRetire .. | .retireClear .. | .startUpStage .. | .moduleRstN .. | .warmReset ..
  | .mcReset .. | .mcLockstepMismatch | .mcWatchdog .. | .mcRestartDone .. | .mcFailed .. | .refclkReturn | .tripInputDeassert ..
  | .envelopeLimit .. | .flashBlockReturn .. | .entdaa .. => completes_done s _

/-- Settles O6, command by command: every outcome is one of the shared ones of Ops.lean. -/
theorem commandsKeepQueueAndVariant : Obligations.CommandsKeepQueueAndVariant := exec_completes

/-! ### Where an index lies (R11) -/

theorem locate_link {l : Nat} (h : l < 64) : locate (0x3000 + 16 * l) = (0x3000, .link, l) := by
  have hr : 0x3000 ≤ 0x3000 + 16 * l ∧ 0x3000 + 16 * l < 0x3400 := by omega
  rw [locate, if_pos hr]
  congr 2 <;> omega

theorem locate_rank {q : Nat} (h : q < 128) : locate (0x3800 + q) = (0x3800, .rank, q) := by
  have hl : ¬(0x3000 ≤ 0x3800 + q ∧ 0x3800 + q < 0x3400) := by omega
  have hr : 0x3800 ≤ 0x3800 + q ∧ 0x3800 + q < 0x3880 := by omega
  rw [locate, if_neg hl, if_pos hr, Nat.add_sub_cancel_left]

theorem locate_ctx {c : Nat} (h : c < 64) : locate (0x4440 + c) = (0x4440, .ctx, c) := by
  have hl : ¬(0x3000 ≤ 0x4440 + c ∧ 0x4440 + c < 0x3400) := by omega
  have hq : ¬(0x3800 ≤ 0x4440 + c ∧ 0x4440 + c < 0x3880) := by omega
  have hr : 0x4440 ≤ 0x4440 + c ∧ 0x4440 + c < 0x4480 := by omega
  rw [locate, if_neg hl, if_neg hq, if_pos hr, Nat.add_sub_cancel_left]

/-- The bases of the partition indices whose entries have commands of their own. -/
theorem locate_part : ∀ base ∈ [0x2120, 0x3410, 0x6040, 0x7010], ∀ p < 4, locate (base + p) = (base, .part, p) := by decide

/-! ### A message by index is the command of its entry (R16, R601, R604, R610) -/

/-- Ending a command twice ends it once. -/
theorem done_stateOf_done (s t : State) : done s (stateOf s (done s t)) = done s t := by
  unfold done
  split <;> rfl

theorem headOf_any_invoke_eq_false {s : State} {ses : Nat} (hh : ∀ h, headOf s ses = some h → h.op ≠ 3) :
    (headOf s ses).any (fun h => h.op == 3) = false := by
  cases hd : headOf s ses with
  | none => rfl
  | some h => simpa using hh h hd

/-- A SET that is no INVOKE by its header, of an entry with a command of its own. -/
theorem exec_dictSet_of_ownWrite {s t : State} {ses idx sub : Nat} {val : List Byte}
    (hh : ∀ h, headOf s ses = some h → h.op ≠ 3) (ho : ownWrite ses idx sub val s = some (done s t)) :
    exec (.dictSet ses idx sub val) s = done s t := by
  change execDictSet ses idx sub val s = _
  simp only [execDictSet, headOf_any_invoke_eq_false hh, ho, Bool.false_eq_true, if_false, done_stateOf_done]

/-- An INVOKE by its header, of an entry that starts an operation. -/
theorem exec_dictSet_of_ownInvoke {s t : State} {ses idx sub : Nat} {val : List Byte} {h : MsgHead}
    (hh : headOf s ses = some h) (hop : h.op = 3) (ho : ownInvoke ses idx sub val s = some (done s t)) :
    exec (.dictSet ses idx sub val) s = done s t := by
  have hy : (headOf s ses).any (fun h => h.op == 3) = true := by simp [hh, hop]
  change execDictSet ses idx sub val s = _
  simp only [execDictSet, hy, ho, if_true, done_stateOf_done]

/-- Settles O47: each SET and INVOKE by index is dispatched to the command of the entry that the index and sub-index locate. -/
theorem writesOfCommandEntriesAreTheCommand : Obligations.WritesOfCommandEntriesAreTheCommand := by
  intro s ses val
  constructor
  · intro hh
    refine ⟨fun l hl => ?_, fun p hp => ?_, fun q hq => ?_, ?_, ?_, ?_⟩
    · exact exec_dictSet_of_ownWrite hh (by rw [ownWrite, locate_link hl]; rfl)
    · have part : ∀ base ∈ [0x2120, 0x3410, 0x6040, 0x7010], locate (base + p) = (base, .part, p) :=
        fun base hb => locate_part base hb p hp
      refine ⟨?_, ?_, ?_, ?_, fun d hd => ?_⟩
      · exact exec_dictSet_of_ownWrite hh (by rw [ownWrite, part 0x2120 (by decide)]; rfl)
      · exact exec_dictSet_of_ownWrite hh (by rw [ownWrite, part 0x6040 (by decide)]; rfl)
      · exact exec_dictSet_of_ownWrite hh (by rw [ownWrite, part 0x7010 (by decide)]; rfl)
      · exact exec_dictSet_of_ownWrite hh (by rw [ownWrite, part 0x3410 (by decide)]; rfl)
      · interval_cases d <;> exact exec_dictSet_of_ownWrite hh (by rw [ownWrite, part 0x3410 (by decide)]; rfl)
    · exact exec_dictSet_of_ownWrite hh (by rw [ownWrite, locate_rank hq]; rfl)
    · exact exec_dictSet_of_ownWrite hh rfl
    · exact exec_dictSet_of_ownWrite hh rfl
    · exact exec_dictSet_of_ownWrite hh rfl
  · intro h hd hop
    refine ⟨?_, fun p hp => ⟨?_, ?_, ?_⟩, fun l hl => ?_, fun c hc => ?_⟩
    · exact exec_dictSet_of_ownInvoke hd hop rfl
    · exact exec_dictSet_of_ownInvoke hd hop (by rw [ownInvoke, locate_part 0x2120 (by decide) p hp]; rfl)
    · exact exec_dictSet_of_ownInvoke hd hop (by rw [ownInvoke, locate_part 0x6040 (by decide) p hp]; rfl)
    · exact exec_dictSet_of_ownInvoke hd hop (by rw [ownInvoke, locate_part 0x6040 (by decide) p hp]; rfl)
    · exact exec_dictSet_of_ownInvoke hd hop (by rw [ownInvoke, locate_link hl]; rfl)
    · exact exec_dictSet_of_ownInvoke hd hop (by rw [ownInvoke, locate_ctx hc]; rfl)

/-! ### A sub-index past its byte escapes the gate (R603) -/

/-- The index of a response stands in its bytes 10 and 11 (R603). -/
theorem response_index (s : State) (ses op idx sub : Nat) (st : Status) (val : List Byte) :
    ((response s ses op idx sub st val).drop 10).take 2 = leBytes 2 idx := by
  simp [response, dictMsg, leBytes]

theorem inSes_of_noSession {s : State} {ses op idx sub : Nat} {k : State → Session → State}
    (hm : s.mcDown = false) (hx : sesAt s ses = none) : inSes s ses op idx sub k = answer s ses op idx sub .denied [] := by
  simp [inSes, hm, hx]

theorem exec_stretchFrac_of_noSession {s : State} {ses : Nat} (val : List Byte) (hm : s.mcDown = false)
    (hx : sesAt s ses = none) : exec (.stretchFrac ses val) s = done s (answer s ses 2 0x2000 7 .denied []) :=
  congrArg (done s) (by rw [stretchFracSet, setting, inSes_of_noSession hm hx])

/-- The entry of an index and a sub-index is dispatched by 256 × index + sub-index, so that a sub-index of 256 or more names an entry of
another index: sub-index 263 of 0x1FFF is taken for sub-index 7 of 0x2000, STRETCH_FRAC. -/
theorem exec_dictSet_pastByte {s : State} {ses : Nat} {val : List Byte} (hh : ∀ h, headOf s ses = some h → h.op ≠ 3) :
    exec (.dictSet ses 0x1FFF 263 val) s = exec (.stretchFrac ses val) s :=
  exec_dictSet_of_ownWrite hh rfl

/-- Refutes O44: its messages name any sub-index, not only one of a byte. At reset, outside any session, a DICT_SET of sub-index 263 of
index 0x1FFF is answered DENIED, but for sub-index 7 of index 0x2000, so that the answer that O44 asks for is never sent. -/
theorem not_dictionaryMessagesAreGated : ¬ Obligations.DictionaryMessagesAreGated := by
  intro h
  have hd := (h State.reset (.dictSet 0 0x1FFF 263 []) 0 2 0x1FFF 263 (.dictSet ..) rfl).2.1
  obtain ⟨t, ht, hmem, -⟩ := hd rfl (fun x hx => nomatch hx)
  have hhead : ∀ m, headOf State.reset 0 = some m → m.op ≠ 3 := fun m hm => nomatch hm
  rw [exec_dictSet_pastByte hhead, exec_stretchFrac_of_noSession [] rfl rfl] at ht
  cases ht
  have hsent : Out.msg 0 (response State.reset 0 2 0x1FFF 263 .denied []) ∈
      [Out.msg 0 (response State.reset 0 2 0x2000 7 .denied [])] := hmem
  have hindex := congrArg (fun m => (m.drop 10).take 2) (Out.msg.inj (List.mem_singleton.1 hsent)).2
  simp only [response_index] at hindex
  exact absurd hindex (by decide)

/-! ### Frames of answering a message (R584, R586, R597, R603, R606, R609) -/

theorem touches_asked (s : State) (ses : Nat) : Touches [.asks] s (asked s ses) := by
  refine ⟨fun f hf => ?_⟩
  cases f
  case asks => simp at hf
  all_goals rfl

theorem touches_touch (s : State) (ses : Nat) : Touches [.lockLeft] s (touch s ses) := by
  refine .ite ⟨fun f hf => ?_⟩ .refl
  cases f
  case lockLeft => simp at hf
  all_goals rfl

theorem touches_dropHead (s : State) (ses : Nat) : Touches [.heads] s (dropHead s ses) := by
  refine ⟨fun f hf => ?_⟩
  cases f
  case heads => simp at hf
  all_goals rfl

theorem touches_secure (s : State) (x : Session) (m : List Byte) : Touches [.msgSeq] s (secure s x m).2 := by
  refine ⟨fun f hf => ?_⟩
  cases f
  case msgSeq => simp at hf
  all_goals rfl

theorem touches_vector (s : State) (v : Nat) : Touches [.out, .msixPba] s (vector s v) := by
  refine .ite ⟨fun f hf => ?_⟩ ((touches_emit ..).mono rfl)
  cases f
  case msixPba => simp at hf
  all_goals rfl

theorem touches_setMailbox (s : State) (n : Nat) (m : List Byte) :
    Touches [.mbStatus, .mbRsp, .mbRspLen] s { s with mbStatus := n, mbRsp := m, mbRspLen := m.length } := by
  refine ⟨fun f hf => ?_⟩
  cases f
  case mbStatus => simp at hf
  case mbRsp => simp at hf
  case mbRspLen => simp at hf
  all_goals rfl

theorem touches_mailboxDone (s : State) (m : List Byte) : Touches sendFields s (mailboxDone s m) := by
  refine .ite ?_ .refl
  exact ((touches_setMailbox ..).mono rfl).trans (((touches_emit ..).mono rfl).trans ((touches_vector ..).mono rfl))

theorem touches_mgmtOut (s : State) (l : List (Nat × List Byte)) : Touches [.mgmtOut] s { s with mgmtOut := l } := by
  refine ⟨fun f hf => ?_⟩
  cases f
  case mgmtOut => simp at hf
  all_goals rfl

theorem touches_wire (s : State) (b : Nat) (p : MctpPeer) (own : Bool) (m : List Byte) :
    Touches [.out, .mgmtOut] s (wire s b p own m) := by
  refine .ite ((touches_mgmtOut ..).mono rfl) ?_
  refine Touches.trans (.ite ((touches_emit ..).mono rfl) .refl) (.foldl _ (fun t k => (touches_emit ..).mono rfl) _ _)

theorem touches_carry (s : State) (b : Nat) (p : MctpPeer) (m : List Byte) : Touches sendFields s (carry s b p m) :=
  .ite (touches_mailboxDone s m) ((touches_wire ..).mono rfl)

theorem touches_sendSecured (s : State) (x : Session) (o : Out) (m : List Byte) : Touches sendFields s (sendSecured s x o m) :=
  ((touches_emit ..).mono rfl).trans (((touches_secure ..).mono rfl).trans (touches_carry ..))

theorem touches_answerIn (s : State) (x : Session) (op idx sub : Nat) (st : Status) (val : List Byte) :
    Touches (.heads :: sendFields) s (answerIn s x op idx sub st val) :=
  ((touches_dropHead ..).mono rfl).trans ((touches_sendSecured ..).mono rfl)

/-! ### What has been sent stays sent -/

theorem mem_out_vector {s : State} {o : Out} (v : Nat) (h : o ∈ s.out) : o ∈ (vector s v).out := by
  unfold vector
  split
  · exact h
  · exact List.mem_append_left _ h

theorem mem_out_mailboxDone {s : State} {o : Out} (m : List Byte) (h : o ∈ s.out) : o ∈ (mailboxDone s m).out := by
  unfold mailboxDone
  split
  · exact mem_out_vector 0 (List.mem_append_left _ h)
  · exact h

theorem mem_out_emitAll {o : Out} (b : Nat) (ks : List (List Byte)) :
    ∀ s : State, o ∈ s.out → o ∈ (ks.foldl (fun t k => emit t (.packet b k)) s).out := by
  induction ks with
  | nil => exact fun _ h => h
  | cons k ks ih => exact fun s h => ih _ (List.mem_append_left _ h)

theorem mem_out_wire {s : State} {o : Out} (b : Nat) (p : MctpPeer) (own : Bool) (m : List Byte) (h : o ∈ s.out) :
    o ∈ (wire s b p own m).out := by
  unfold wire
  dsimp only
  split
  · exact h
  · refine mem_out_emitAll b _ _ ?_
    split
    · exact List.mem_append_left _ h
    · exact h

theorem mem_out_carry {s : State} {o : Out} (b : Nat) (p : MctpPeer) (m : List Byte) (h : o ∈ s.out) :
    o ∈ (carry s b p m).out := by
  unfold carry
  split
  · exact mem_out_mailboxDone m h
  · exact mem_out_wire b p false m h

/-- An answer in a session is among what the module has sent. -/
theorem mem_out_answerIn (s : State) (x : Session) (op idx sub : Nat) (st : Status) (val : List Byte) :
    Out.msg x.id (response s x.id op idx sub st val) ∈ (answerIn s x op idx sub st val).out :=
  mem_out_carry _ _ _ (List.mem_append_right _ (List.mem_singleton.2 rfl))

/-! ### The gate lets a request through -/

/-- The state in which an admitted request of a session is executed: one request fewer awaits its response, and the lease of the lock
is renewed if the session holds it (R606, R609). -/
def admitted (s : State) (ses : Nat) : State := touch (asked s ses) ses

theorem touches_admitted (s : State) (ses : Nat) : Touches [.asks, .lockLeft] s (admitted s ses) :=
  ((touches_asked s ses).mono rfl).trans ((touches_touch ..).mono rfl)

theorem inSes_of_open {s : State} {ses op idx sub : Nat} {x : Session} {k : State → Session → State}
    (h : OpenSession s ses op x) : inSes s ses op idx sub k = k (admitted s ses) x := by
  obtain ⟨⟨-, hm, hx, hu⟩, hf, hb⟩ := h
  simp [inSes, hm, hx, hu, hf, hb, admitted]

theorem sesAt_id {s : State} {ses : Nat} {x : Session} (h : sesAt s ses = some x) : x.id = ses := by
  simpa using List.find?_some h

theorem OpenSession.powered {s : State} {ses op : Nat} {x : Session} (h : OpenSession s ses op x) : s.powered = true := by
  obtain ⟨⟨hp, -, -, -⟩, -, -⟩ := h
  exact hp

theorem OpenSession.sesAt_eq {s : State} {ses op : Nat} {x : Session} (h : OpenSession s ses op x) : sesAt s ses = some x := by
  obtain ⟨⟨-, -, hx, -⟩, -, -⟩ := h
  exact hx

theorem OpenSession.id_eq {s : State} {ses op : Nat} {x : Session} (h : OpenSession s ses op x) : x.id = ses :=
  sesAt_id h.sesAt_eq

/-- The header of an open session's request names its operation (R604). -/
theorem OpenSession.head_op {s : State} {ses op : Nat} {x : Session} (h : OpenSession s ses op x) {m : MsgHead}
    (hm : headOf s ses = some m) : m.op = op := by
  obtain ⟨-, -, hb⟩ := h
  simp only [headBad, hm, Bool.or_eq_false_iff, bne_eq_false_iff_eq] at hb
  tauto

/-- No condition of a plain SET reads what admitting a request changes. -/
theorem plainStatus_admitted (s : State) (ses : Nat) (x : Session) (idx sub : Nat) (val : List Byte) :
    plainStatus (admitted s ses) x idx sub val = plainStatus s x idx sub val := by
  unfold admitted touch
  split <;> rfl

/-! ### Reading entries -/

theorem rg_congr {s t : State} (hr : t.regs = s.regs) (hv : t.variant = s.variant) (i j : Nat) : rg t i j = rg s i j := by
  rw [rg, rg, hr, hv]

theorem Touches.rg_eq {l : List Field} {s t : State} (h : Touches l s t) (hr : Field.regs ∉ l) (hv : Field.variant ∉ l) (i j : Nat) :
    rg t i j = rg s i j := rg_congr (h.same .regs hr) (h.same .variant hv) i j

theorem rg_admitted (s : State) (ses i j : Nat) : rg (admitted s ses) i j = rg s i j :=
  (touches_admitted s ses).rg_eq (by simp) (by simp) i j

/-- Entries with sub-indices of a byte have keys of their own. -/
theorem rkey_inj {i j a b : Nat} (hj : j < 256) (hb : b < 256) : rkey i j = rkey a b ↔ i = a ∧ j = b := by
  unfold rkey
  omega

theorem rb_of_kget {s : State} {i j : Nat} {b : List Byte} (h : kget s.blobs (rkey i j) = some b) : rb s i j = b := by
  rw [rb, h]

theorem OnlyRegs.of_regs {l : List (Nat × Nat)} {s t : State} (h : ∀ i j, rg t i j = rg s i j) : OnlyRegs l s t :=
  fun i j _ _ => h i j

theorem OnlyRegs.trans {l : List (Nat × Nat)} {s t r : State} (h : OnlyRegs l s t) (g : OnlyRegs l t r) : OnlyRegs l s r :=
  fun i j hj hm => (g i j hj hm).trans (h i j hj hm)

theorem OnlyRegs.mono {l k : List (Nat × Nat)} {s t : State} (h : OnlyRegs l s t) (hl : l ⊆ k) : OnlyRegs k s t :=
  fun i j hj hm => h i j hj fun hl' => hm (hl hl')

theorem onlyRegs_wr (s : State) {i j : Nat} (v : Nat) (hj : j < 256) : OnlyRegs [(i, j)] s (wr s i j v) := by
  intro a b hb hm
  refine rg_wr_other _ _ _ _ _ _ fun hk => hm ?_
  obtain ⟨rfl, rfl⟩ := (rkey_inj hb hj).1 hk
  exact List.mem_singleton.2 rfl

theorem entriesAt_sub_lt (base : Nat) : ∀ e ∈ entriesAt base, e.sub < 256 := by
  unfold entriesAt
  split <;> decide

theorem entry?_sub {idx sub : Nat} {e : Entry} (h : entry? idx sub = some e) : e.sub = sub := by
  simpa using List.find?_some h

theorem entry?_sub_lt {idx sub : Nat} {e : Entry} (h : entry? idx sub = some e) : sub < 256 :=
  entry?_sub h ▸ entriesAt_sub_lt _ e (List.mem_of_find?_eq_some h)

/-! ### IANA_EN, which every response carries (R603), has no SET -/

theorem setStatus_ok_preStatus {s : State} {x : Session} {idx sub : Nat} {val : List Byte} {stateNV bad stateV busy : Bool}
    (h : setStatus s x idx sub val stateNV bad stateV busy = .ok) : preStatus s x 2 idx sub = .ok := by
  unfold setStatus at h
  split at h
  next hp => exact hp
  next hp => exact h

/-- The first conditions of a message that names an entry (R17, R608). -/
theorem preStatus_of_entry {s : State} {x : Session} {op idx sub : Nat} {e : Entry} (he : entry? idx sub = some e) :
    preStatus s x op idx sub =
      if unitAbsent s idx then .absent
      else if !roleMay x op (locate idx).1 e then .denied
      else if x.role = .tn ∧ !tenantMay s x op idx then .denied
      else if op ≠ 1 ∧ (locate idx).2.1 ≠ .self ∧ s.lockBy ≠ some x.id then .locked
      else .ok := by
  unfold entry? at he
  unfold preStatus
  split
  next hl => simp [hl] at he
  next => rw [he]

theorem preStatus_ok_roleMay {s : State} {x : Session} {op idx sub : Nat} {e : Entry} (he : entry? idx sub = some e)
    (h : preStatus s x op idx sub = .ok) : roleMay x op (locate idx).1 e = true := by
  rw [preStatus_of_entry he] at h
  by_contra hr
  rw [Bool.not_eq_true] at hr
  cases ha : unitAbsent s idx <;> simp [ha, hr] at h

/-- An entry that no access cell opens to SET is open to no role, but for the claim of the restricted session. -/
theorem roleMay_set_eq_false {x : Session} {base : Nat} {e : Entry} (hb : base ≠ 0x6000)
    (he : e.acc.all (fun a => !accServes 2 a.1) = true) : roleMay x 2 base e = false := by
  have hr : ∀ r : Role, e.acc.any (fun a => accServes 2 a.1 && a.2.contains r) = false := by
    intro r
    rw [List.any_eq_false]
    intro a ha
    have := List.all_eq_true.1 he a ha
    simp_all
  unfold roleMay
  split
  · simp [hb]
  · exact hr _

theorem plainStatus_ianaEn_ne_ok (s : State) (x : Session) (val : List Byte) : plainStatus s x 0x1000 8 val ≠ .ok := by
  intro h
  obtain ⟨e, he, hro⟩ : ∃ e, entry? 0x1000 8 = some e ∧ e.acc.all (fun a => !accServes 2 a.1) = true := ⟨_, rfl, rfl⟩
  have hm := preStatus_ok_roleMay he (setStatus_ok_preStatus h)
  rw [roleMay_set_eq_false (by decide) hro] at hm
  cases hm

/-! ### The write of an entry without a command of its own (R13, R286) -/

section PlainWrite

variable {s : State} {x : Session} {idx sub : Nat} {val : List Byte} {e : Entry}

theorem plainWrite_w1c (hi : idx ≠ 0x9010) (hl : ¬(idx = 0x7000 ∧ sub = 2)) (he : entry? idx sub = some e) (hw : isW1c e = true) :
    plainWrite s x idx sub val = wr s idx sub (rg s idx sub - (rg s idx sub &&& leNat val)) := by
  simp only [plainWrite, if_neg hi, if_neg hl, he, hw, if_true]

theorem plainWrite_canopyParent (hi : idx ≠ 0x9010) (hl : ¬(idx = 0x7000 ∧ sub = 2)) (he : entry? idx sub = some e)
    (hw : isW1c e = false) (hc : (locate idx).1 = 0x2210 ∧ sub = 2) :
    plainWrite s x idx sub val = wr (wr s idx 2 (leNat val)) idx 6 (leNat val) := by
  simp only [plainWrite, if_neg hi, if_neg hl, he, hw, if_pos hc, if_false, Bool.false_eq_true]

theorem plainWrite_bytes (hi : idx ≠ 0x9010) (hl : ¬(idx = 0x7000 ∧ sub = 2)) (he : entry? idx sub = some e)
    (hw : isW1c e = false) (hc : ¬((locate idx).1 = 0x2210 ∧ sub = 2)) (ht : ∃ n, e.ty = .str n ∨ e.ty = .blob n ∨ e.ty = .table n) :
    plainWrite s x idx sub val = wb s idx sub val := by
  obtain ⟨n, ht | ht | ht⟩ := ht <;> simp only [plainWrite, if_neg hi, if_neg hl, he, hw, if_neg hc, ht, if_false, Bool.false_eq_true]

theorem plainWrite_number (hi : idx ≠ 0x9010) (hl : ¬(idx = 0x7000 ∧ sub = 2)) (he : entry? idx sub = some e)
    (hw : isW1c e = false) (hc : ¬((locate idx).1 = 0x2210 ∧ sub = 2)) (ht : ∀ n, e.ty ≠ .str n ∧ e.ty ≠ .blob n ∧ e.ty ≠ .table n)
    (hv : e.ty ≠ .inv) : plainWrite s x idx sub val = wr s idx sub (leNat val) := by
  simp only [plainWrite, if_neg hi, if_neg hl, he, hw, if_neg hc, if_false, Bool.false_eq_true]
  cases h : e.ty with
  | str n => exact absurd h (ht n).1
  | blob n => exact absurd h (ht n).2.1
  | table n => exact absurd h (ht n).2.2
  | inv => exact absurd h hv
  | num | i32 | f32 | bool | enum => rfl

/-- What the write of such an entry can do: store one number, store the canopy parent and the parent in use, store bytes, or nothing. -/
theorem plainWrite_cases (hi : idx ≠ 0x9010) (hl : ¬(idx = 0x7000 ∧ sub = 2)) (he : entry? idx sub = some e) :
    (∃ v, plainWrite s x idx sub val = wr s idx sub v) ∨
    (sub = 2 ∧ ∃ v, plainWrite s x idx sub val = wr (wr s idx 2 v) idx 6 v) ∨
    plainWrite s x idx sub val = wb s idx sub val ∨ plainWrite s x idx sub val = s := by
  by_cases hw : isW1c e = true
  · exact .inl ⟨_, plainWrite_w1c hi hl he hw⟩
  rw [Bool.not_eq_true] at hw
  by_cases hc : (locate idx).1 = 0x2210 ∧ sub = 2
  · exact .inr (.inl ⟨hc.2, _, plainWrite_canopyParent hi hl he hw hc⟩)
  by_cases ht : ∃ n, e.ty = .str n ∨ e.ty = .blob n ∨ e.ty = .table n
  · exact .inr (.inr (.inl (plainWrite_bytes hi hl he hw hc ht)))
  by_cases hv : e.ty = .inv
  · exact .inr (.inr (.inr (by simp only [plainWrite, if_neg hi, if_neg hl, he, hw, if_neg hc, hv, if_false, Bool.false_eq_true])))
  · push Not at ht
    exact .inl ⟨_, plainWrite_number hi hl he hw hc ht hv⟩

theorem touches_plainWrite (hi : idx ≠ 0x9010) (hl : ¬(idx = 0x7000 ∧ sub = 2)) (he : entry? idx sub = some e) :
    Touches [.regs, .blobs] s (plainWrite s x idx sub val) := by
  obtain ⟨v, h⟩ | ⟨-, v, h⟩ | h | h := plainWrite_cases (s := s) (x := x) (val := val) hi hl he <;> rw [h]
  · exact (touches_wr ..).mono rfl
  · exact ((touches_wr ..).mono rfl).trans ((touches_wr ..).mono rfl)
  · exact (touches_wb ..).mono rfl
  · exact .refl

theorem onlyRegs_wr_wr (s : State) {i j k : Nat} (v w : Nat) (hj : j < 256) (hk : k < 256) :
    OnlyRegs [(i, j), (i, k)] s (wr (wr s i j v) i k w) :=
  ((onlyRegs_wr s v hj).mono (by simp)).trans ((onlyRegs_wr _ w hk).mono (by simp))

theorem onlyRegs_plainWrite (hi : idx ≠ 0x9010) (hl : ¬(idx = 0x7000 ∧ sub = 2)) (he : entry? idx sub = some e) :
    OnlyRegs [(idx, sub), (idx, 6)] s (plainWrite s x idx sub val) := by
  obtain ⟨v, h⟩ | ⟨rfl, v, h⟩ | h | h := plainWrite_cases (s := s) (x := x) (val := val) hi hl he <;> rw [h]
  · exact (onlyRegs_wr s v (entry?_sub_lt he)).mono (by simp)
  · exact onlyRegs_wr_wr s v v (by decide) (by decide)
  · exact .of_regs fun i j => rfl
  · exact .of_regs fun i j => rfl

end PlainWrite

/-! ### An accepted SET of such an entry goes through -/

theorem done_next {s t : State} (hp : s.powered = true) (hq : t.pending = s.pending) (hv : t.variant = s.variant) :
    ∃ r, done s t = .next r ∧ Touches [.alertN] t r := by
  refine ⟨_, if_pos hp, ⟨fun f hf => ?_⟩⟩
  cases f
  case pending => exact hq.symm
  case variant => exact hv.symm
  case alertN => simp at hf
  all_goals rfl

theorem response_congr {s t : State} (hh : t.heads = s.heads) (hr : rg t 0x1000 8 = rg s 0x1000 8) (ses op idx sub : Nat)
    (st : Status) (val : List Byte) : response t ses op idx sub st val = response s ses op idx sub st val := by
  simp only [response, headOf, hh, hr]

theorem Touches.subset {l l' : List Field} {s t : State} (h : Touches l s t) (hl : l ⊆ l') : Touches l' s t :=
  ⟨fun f hf => h.same f fun hm => hf (hl hm)⟩

/-- DICT_SET of an entry without a command of its own, in an open session. -/
theorem exec_dictSet_of_plain {s : State} {ses idx sub : Nat} {x : Session} {val : List Byte} (ho : OpenSession s ses 2 x)
    (hown : ownWrite ses idx sub val s = none) (hst : plainStatus s x idx sub val = .ok) :
    exec (.dictSet ses idx sub val) s =
      done s (answerIn (plainWrite (admitted s ses) x idx sub val) x 2 idx sub .ok []) := by
  have hn := headOf_any_invoke_eq_false fun h hd => by rw [ho.head_op hd]; decide
  change execDictSet ses idx sub val s = _
  simp only [execDictSet, hn, hown, plainSet, setting, inSes_of_open ho, plainStatus_admitted, hst, if_true, Bool.false_eq_true, if_false]

/-- A plain SET goes through if its write touches entries and sessions alone and spares IANA_EN. What then holds of the state written holds
of the next state, as far as answering leaves it as it is. -/
theorem setTakes_plain {s w : State} {ses idx sub : Nat} {x : Session} {val : List Byte} {more : List Field} {P : State → Prop}
    (ho : OpenSession s ses 2 x) (hown : ownWrite ses idx sub val s = none) (hst : plainStatus s x idx sub val = .ok)
    (hw : plainWrite (admitted s ses) x idx sub val = w) (hf : Touches more (admitted s ses) w)
    (hm : more.all (fun f => decide (f ∈ [Field.regs, .blobs, .sessions])) = true)
    (hen : rg w 0x1000 8 = rg s 0x1000 8) (hP : ∀ t, Touches replyFields w t → P t) :
    SetTakes s (.dictSet ses idx sub val) ses idx sub more P := by
  have hsa := touches_admitted s ses
  have hsw : Touches [.regs, .blobs, .sessions, .asks, .lockLeft] s w := (hsa.mono rfl).trans ((hf.mono hm).mono rfl)
  have hwr := touches_answerIn w x 2 idx sub .ok []
  have hsr := (hsw.mono (l' := [.regs, .blobs, .sessions] ++ replyFields) rfl).trans (hwr.mono rfl)
  obtain ⟨t, ht, hrt⟩ := done_next ho.powered (hsr.same .pending (by decide)) (hsr.same .variant (by decide))
  have hwt : Touches replyFields w t := (hwr.mono rfl).trans (hrt.mono rfl)
  refine ⟨t, ?_, ?_, ?_, hP t hwt⟩
  · rw [exec_dictSet_of_plain ho hown hst, hw, ht]
  · have hmem := mem_out_answerIn w x 2 idx sub .ok []
    rw [ho.id_eq, response_congr (hsw.same .heads (by decide)) hen] at hmem
    have hout : t.out = _ := hrt.same .out (by decide)
    rwa [hout]
  · exact ((hsa.mono (l' := replyFields) rfl).subset (List.subset_append_right ..)).trans
      ((hf.subset (List.subset_append_left ..)).trans (hwt.subset (List.subset_append_right ..)))

theorem sesAt_congr {s t : State} (h : t.sessions = s.sessions) (ses : Nat) : sesAt t ses = sesAt s ses := by
  rw [sesAt, sesAt, h]

theorem sesAt_setSes {s : State} {ses : Nat} {x y : Session} (h : sesAt s ses = some x) (hy : y.id = ses) :
    sesAt (setSes s y) ses = some y := by
  have hx := sesAt_id h
  unfold sesAt at h ⊢
  have hp : ((fun z : Session => z.id == ses) ∘ fun z => if z.id == y.id then y else z) = fun z => z.id == ses := by
    funext z
    by_cases hz : z.id = ses <;> simp [hz, hy]
  rw [setSes, List.find?_map, hp, h]
  simp [hx, hy]

/-- A plain SET of an entry of the session itself goes to the session. -/
theorem setTakes_session {s : State} {ses idx sub : Nat} {x y : Session} {val : List Byte} (ho : OpenSession s ses 2 x)
    (hown : ownWrite ses idx sub val s = none) (hst : plainStatus s x idx sub val = .ok)
    (hw : ∀ t, plainWrite t x idx sub val = setSes t y) (hy : y.id = x.id) :
    SetTakes s (.dictSet ses idx sub val) ses idx sub [.sessions] (fun t => sesAt t ses = some y) := by
  have hf := touches_setSes (admitted s ses) y
  refine setTakes_plain ho hown hst (hw _) hf rfl ?_ fun t ht => ?_
  · rw [hf.rg_eq (by decide) (by decide), rg_admitted]
  · rw [sesAt_congr (ht.same .sessions (by decide))]
    refine sesAt_setSes (x := x) ?_ (hy.trans ho.id_eq)
    rw [sesAt_congr ((touches_admitted s ses).same .sessions (by decide)), ho.sesAt_eq]

/-- A plain SET of an entry outside the session goes to the registers. -/
theorem setTakes_entry {s : State} {ses idx sub : Nat} {x : Session} {val : List Byte} {e : Entry} (ho : OpenSession s ses 2 x)
    (hown : ownWrite ses idx sub val s = none) (hst : plainStatus s x idx sub val = .ok) (he : entry? idx sub = some e)
    (hi : idx ≠ 0x9010) (hl : ¬(idx = 0x7000 ∧ sub = 2)) {P : State → Prop}
    (hP : ∀ t, Touches replyFields (plainWrite (admitted s ses) x idx sub val) t → P t) :
    SetTakes s (.dictSet ses idx sub val) ses idx sub [.regs, .blobs] P := by
  refine setTakes_plain ho hown hst rfl (touches_plainWrite hi hl he) rfl ?_ hP
  rw [onlyRegs_plainWrite hi hl he 0x1000 8 (by decide) ?_, rg_admitted]
  intro hm
  simp only [List.mem_cons, Prod.mk.injEq, List.not_mem_nil, or_false] at hm
  obtain ⟨rfl, rfl⟩ | ⟨-, h⟩ := hm
  · exact plainStatus_ianaEn_ne_ok s x val hst
  · cases h

theorem OnlyRegs.around {l : List (Nat × Nat)} {s w t : State} {ses : Nat} (h : OnlyRegs l (admitted s ses) w)
    (ht : Touches replyFields w t) : OnlyRegs l s t :=
  ((OnlyRegs.of_regs (rg_admitted s ses)).trans h).trans (.of_regs (ht.rg_eq (by decide) (by decide)))

/-- Settles O46, by what the write of each kind of entry is (`plainWrite_w1c` and the equations after it) and by the gate, which lets the
SET through and answers it (`setTakes_plain`). -/
theorem writesStoreTheValue : Obligations.WritesStoreTheValue := by
  intro s ses idx sub x val e ho hown hst he
  have hj := entry?_sub_lt he
  refine ⟨fun hi hl => setTakes_entry ho hown hst he hi hl fun t ht => ?_, ?_, ?_, ?_⟩
  · have rgt : ∀ i j, rg t i j = rg (plainWrite (admitted s ses) x idx sub val) i j := ht.rg_eq (by decide) (by decide)
    refine ⟨fun hw => ?_, fun hw hb hv => ?_, fun hw hc hb => ?_⟩
    · rw [plainWrite_w1c hi hl he hw] at ht rgt
      exact ⟨by rw [rgt, rg_wr_same, rg_admitted], (onlyRegs_wr _ _ hj).around ht⟩
    · by_cases hc : (locate idx).1 = 0x2210 ∧ sub = 2
      · obtain rfl := hc.2
        rw [plainWrite_canopyParent hi hl he hw hc] at ht rgt
        refine ⟨?_, (onlyRegs_wr_wr _ _ _ hj (by decide)).around ht, fun hn => absurd hc hn⟩
        rw [rgt, rg_wr_other _ _ _ _ _ _ (by simp [rkey_inj]), rg_wr_same]
      · rw [plainWrite_number hi hl he hw hc hb hv] at ht rgt
        have hreg := (onlyRegs_wr (admitted s ses) (leNat val) hj).around ht
        exact ⟨by rw [rgt, rg_wr_same], hreg.mono (by simp), fun _ => hreg⟩
    · rw [plainWrite_bytes hi hl he hw hc hb] at ht
      have hbl : t.blobs = kset (admitted s ses).blobs (rkey idx sub) val := ht.same .blobs (by decide)
      have hreg := (OnlyRegs.of_regs (l := []) (t := wb (admitted s ses) idx sub val) fun i j => rfl).around ht
      refine ⟨rb_of_kget (by rw [hbl, kget_kset_same]), hreg, fun k hk => ?_⟩
      have hk : k ≠ rkey idx sub := by simpa using hk
      have hs : (admitted s ses).blobs = s.blobs := (touches_admitted s ses).same .blobs (by decide)
      rw [hbl, kget_kset_other _ _ _ _ hk, hs]
  · rintro rfl rfl
    exact setTakes_session ho hown hst (fun t => rfl) rfl
  · rintro rfl rfl
    exact setTakes_session ho hown hst (fun t => rfl) rfl
  · rintro rfl rfl
    exact setTakes_session ho hown hst (fun t => rfl) rfl

end Sys2Proof
end

section
/-! SUPPORT. Rules that the proofs on cores and partitions share: reading past a frame, the outcome of a command of a core, and the rise of
a count. -/

namespace Sys2Proof

open Machine

/-! ### Reading past a frame -/

theorem Touches.coreAt_eq {l : List Field} {s t : State} (h : Touches l s t) (hc : Field.cores ∉ l) (u : Nat) : coreAt t u = coreAt s u := by
  have hcores : t.cores = s.cores := h.same .cores hc
  rw [coreAt, coreAt, hcores]

theorem Touches.partAt_eq {l : List Field} {s t : State} (h : Touches l s t) (hc : Field.parts ∉ l) (p : Nat) : partAt t p = partAt s p := by
  have hparts : t.parts = s.parts := h.same .parts hc
  rw [partAt, partAt, hparts]

/-- The outcome of a core's command that is carried out at the core's cycle: ending it adds nothing to its frame. -/
theorem onCore_next_frame {s w : State} {u c : Nat} {more : List Field} (hp : s.powered = true) (hu : u < coresOf s.variant)
    (h : CoreFrame u more (coreTick s u c) w)
    (hm : (coreFields ++ more).all (fun f => decide (f ≠ .pending ∧ f ≠ .variant)) = true) :
    ∃ t', onCore s u w = .next t' ∧ Touches [.alertN] w t' ∧ CoreFrame u more (coreTick s u c) t' := by
  have hnot : ∀ f ∈ coreFields ++ more, f ≠ .pending ∧ f ≠ .variant := fun f hf => by simpa using List.all_eq_true.1 hm f hf
  have htick := touches_coreTick s u c
  have hpend : w.pending = s.pending :=
    (h.fields.same .pending fun hf => (hnot _ hf).1 rfl).trans (htick.same .pending (by decide))
  have hvar : w.variant = s.variant :=
    (h.fields.same .variant fun hf => (hnot _ hf).2 rfl).trans (htick.same .variant (by decide))
  obtain ⟨t', ht, hwt⟩ := done_next hp hpend hvar
  refine ⟨t', by rw [onCore, if_pos hu, ht], hwt, h.trans ?_⟩
  exact .fieldsOnly hwt (by simp [coreFields]) (by decide)

/-- A core's command that does nothing at the core's cycle. -/
theorem onCore_next_idle {s : State} {u c : Nat} (hp : s.powered = true) (hu : u < coresOf s.variant) :
    ∃ t', onCore s u (coreTick s u c) = .next t' ∧ Touches [.alertN] (coreTick s u c) t' := by
  obtain ⟨t', ht, hwt, -⟩ := onCore_next_frame (c := c) (more := []) hp hu .refl (by decide)
  exact ⟨t', ht, hwt⟩

/-- A fold that meets an element, after which `P` holds where `Q` held before, ends with `P` if its steps keep both. -/
theorem foldl_reaches {σ α : Type} {f : σ → α → σ} {Q P : σ → Prop} {a : α} {l : List α} {s : σ} (hm : a ∈ l)
    (hQ : ∀ t b, Q t → Q (f t b)) (ha : ∀ t, Q t → P (f t a)) (hP : ∀ t b, P t → P (f t b)) (hs : Q s) : P (l.foldl f s) := by
  obtain ⟨l₁, l₂, rfl⟩ := List.append_of_mem hm
  rw [List.foldl_append, List.foldl_cons]
  exact List.foldlRecOn l₂ f (ha _ (List.foldlRecOn l₁ f hs fun t ht b _ => hQ t b ht)) fun t ht b _ => hP t b ht

/-! ### Counts (R648) -/

theorem counted_zero (v : Nat) : counted v 0 = v := by
  unfold counted
  split <;> omega

theorem bumpAt_zero (s : State) (i j oi oj b : Nat) : bumpAt s i j oi oj b 0 = s := if_pos (.inr rfl)

/-- An entry is kept if it is the one that a test spares. -/
theorem rg_eq_of_regsKept {s t : State} {i j : Nat} (h : RegsKept (· != rkey i j) s t) (hv : t.variant = s.variant) : rg t i j = rg s i j :=
  h.rg hv i j (by simp)

/-- An addition to a count leaves every entry alone but the count, its overflow bit and the count of records dropped. -/
theorem rg_bump_other {s : State} {i j oj b n k l : Nat} (h : rkey i j ≠ rkey k l) (ho : rkey i oj ≠ rkey k l) (h5 : rkey 0x7000 5 ≠ rkey k l)
    (h6 : rkey 0x7000 6 ≠ rkey k l) : rg (bump s i j oj b n) k l = rg s k l :=
  rg_eq_of_regsKept (regsKept_bump _ _ _ _ _ _ (bne_iff_ne.2 h) (bne_iff_ne.2 ho) (bne_iff_ne.2 h5) (bne_iff_ne.2 h6))
    ((touches_bump ..).same .variant (by decide))

theorem rg_pushSat {s : State} {r : LogRec} {k l : Nat} (h5 : rkey 0x7000 5 ≠ rkey k l) (h6 : rkey 0x7000 6 ≠ rkey k l) :
    rg (pushSat s r) k l = rg s k l :=
  rg_eq_of_regsKept (regsKept_pushSat _ _ (bne_iff_ne.2 h5) (bne_iff_ne.2 h6)) ((touches_pushSat ..).same .variant (by decide))

theorem rkey_ne_of_sub {i j k l : Nat} (hj : j < 256) (hl : l < 256) (h : j ≠ l) : rkey i j ≠ rkey k l :=
  fun he => h ((rkey_inj hj hl).1 he).2

theorem rkey_ne_of_idx {i j k l : Nat} (hj : j < 256) (hl : l < 256) (h : i ≠ k) : rkey i j ≠ rkey k l :=
  fun he => h ((rkey_inj hj hl).1 he).1

/-- An addition to a count, for the count itself. -/
theorem rg_bump_same {s : State} {i j oj b n : Nat} (hj : j < 256) (ho : oj < 256) (hne : j ≠ oj) (hi : i ≠ 0x7000) :
    rg (bump s i j oj b n) i j = counted (rg s i j) n := by
  by_cases hn : n = 0
  · subst hn
    rw [counted_zero, bump, bumpAt_zero]
  · unfold bump bumpAt counted
    dsimp only
    by_cases hfull : countMax ≤ rg s i j
    · rw [if_pos (.inl hfull), if_pos hfull]
    · rw [if_neg (by omega), if_neg hfull]
      split
      next hlt => rw [rg_wr_same]; omega
      next hge =>
        rw [rg_pushSat (rkey_ne_of_idx (by decide) hj hi.symm) (rkey_ne_of_idx (by decide) hj hi.symm),
          rg_wr_other _ _ _ _ _ _ (rkey_ne_of_sub hj ho hne), rg_wr_same]
        omega

/-- An addition under a condition adds 1 or nothing. -/
theorem bump_ite (s : State) (i j oj b : Nat) (c : Bool) : (if c then bump s i j oj b 1 else s) = bump s i j oj b (if c then 1 else 0) := by
  cases c
  · exact (bumpAt_zero ..).symm
  · rfl

end Sys2Proof
end

section
/-! SUPPORT. The fetch of the next descriptor (O8). -/

namespace Sys2Proof

open Machine

/-! ### Fetching (R30, R183, R202, R332) -/

/-- Where a position's next descriptor stands: in a routine in LM, or in the core's list. -/
def fetchPlace (s : State) (u : Nat) (p : FetchPos) : Nat :=
  if p.lm then lmAddr (clusterOf u) (64 * p.next) else listDesc s u p.next

/-- The core's positions have a next descriptor, at `p` and above the positions `r`. -/
def NextFetch (s : State) (u : Nat) (p : FetchPos) (r : List FetchPos) : Prop :=
  nextPos (segShape s (partOf s u)).2 (coreAt s u).fetch = some (p, r)

/-- The conditions under which the descriptor at a position is fetched in the present cycle. -/
def FetchReady (s : State) (u : Nat) (p : FetchPos) : Prop :=
  coreRuns s u = true ∧ (coreAt s u).pq.length < 256 ∧ (coreAt s u).nextFetch ≤ absNow s ∧
    fetchRoom s u (coreAt s u).nextFetch (accesses (fetchPlace s u p) 64) = true

theorem fetchesNow_iff (s : State) (u : Nat) : fetchesNow s u = true ↔ ∃ p r, NextFetch s u p r ∧ FetchReady s u p := by
  unfold NextFetch FetchReady fetchesNow fetchWants fetchAddr fetchPlace
  cases nextPos (segShape s (partOf s u)).2 (coreAt s u).fetch with
  | none => simp
  | some k =>
    obtain ⟨p, r⟩ := k
    simp only [Option.map_some, Option.some.injEq, Prod.mk.injEq, Bool.and_eq_true, decide_eq_true_eq]
    constructor
    · rintro ⟨⟨hruns, hroom, hdue⟩, hbank⟩
      exact ⟨p, r, ⟨rfl, rfl⟩, hruns, hroom, hdue, hbank⟩
    · rintro ⟨_, _, ⟨rfl, rfl⟩, hruns, hroom, hdue, hbank⟩
      exact ⟨⟨hruns, hroom, hdue⟩, hbank⟩

/-- The descriptor that a fetch reads. -/
def fetchedRaw (s : State) (u : Nat) (p : FetchPos) : BitVec 512 := descOf (peek s (fetchPlace s u p) 64)

/-- Whether a fetch meets an uncorrectable error. -/
def fetchedBad (s : State) (u : Nat) (p : FetchPos) : Bool := (eccIn s (fetchPlace s u p) 64).any (fun e => e.2 == 2)

/-- The cycle from which a descriptor fetched now can be taken, and in which the next fetch is due. -/
def fetchedAt (s : State) (u : Nat) (p : FetchPos) : Nat := absNow s + if p.lm || listInKM s u then 2 else 1

/-- The positions of the routine that a fetched CALL enters. -/
def fetchedInto (s : State) (u : Nat) (p : FetchPos) (depth : Nat) : List FetchPos :=
  let raw := fetchedRaw s u p
  let e := routineEntry s u (fld raw 256 16)
  if dOpc raw = 1 ∧ ¬fetchedBad s u p ∧ routineOk s u (fld raw 256 16) ∧ depth < 8 then
    [{ lm := true, rep := 0, next := bits e 0 14, stop := bits e 0 14 + bits e 14 14 - 1 }]
  else []

/-- The core after the fetch. -/
def fetchedCore (s : State) (u : Nat) (p : FetchPos) (r : List FetchPos) : CoreSt :=
  let x := coreAt s u
  { x with pq := x.pq ++ [{ raw := fetchedRaw s u p, lm := p.lm, rep := p.rep, idx := p.next, depth := r.length,
                            ready := fetchedAt s u p, bad := fetchedBad s u p }],
           fetch := fetchedInto s u p r.length ++ advance p ++ r, nextFetch := fetchedAt s u p }

/-- The bank accesses of a fetch, as counted. -/
def fetchServed (s : State) (u a : Nat) : State :=
  countAct (useBanks s (accesses a 64)) (dieOf u) 48 256 (accesses a 64).length

/-- What a fetch does: the core changes, the banks serve the access, and the storage errors of what is read are met. -/
theorem fetchOne_eq {s : State} {u : Nat} {p : FetchPos} {r : List FetchPos} (h : NextFetch s u p r) :
    fetchOne s u =
      let w := readErrors (fetchServed (setCore s u (fetchedCore s u p r)) u (fetchPlace s u p)) u 5 (fetchPlace s u p) 64 0 0 0
      let n := fld (fetchedRaw s u p) 256 16
      if dOpc (fetchedRaw s u p) = 1 ∧ ¬fetchedBad s u p ∧ n < 1024 then
        readErrors w u 5 (lmAddr (clusterOf u) (0x40 + 8 * n)) 8 0 0 0
      else w := by
  unfold NextFetch at h
  simp only [fetchOne, h]
  rfl

theorem touches_fetchServed (s : State) (u a : Nat) : Touches [.bankUse, .act] s (fetchServed s u a) :=
  ((touches_useBanks ..).mono rfl).trans ((touches_countAct ..).mono rfl)

theorem coreAt_readErrors (s : State) (u e a n c t x v : Nat) : coreAt (readErrors s u e a n c t x) v = coreAt s v :=
  (touches_readErrors ..).coreAt_eq (by decide) v

theorem coreAt_fetchOne {s : State} {u : Nat} {p : FetchPos} {r : List FetchPos} (h : NextFetch s u p r) :
    coreAt (fetchOne s u) u = fetchedCore s u p r := by
  have hw : ∀ a, coreAt (readErrors (fetchServed (setCore s u (fetchedCore s u p r)) u a) u 5 a 64 0 0 0) u = fetchedCore s u p r := by
    intro a
    rw [coreAt_readErrors, (touches_fetchServed ..).coreAt_eq (by decide), coreAt_setCore]
  rw [fetchOne_eq h]
  dsimp only
  split
  · rw [coreAt_readErrors, hw]
  · exact hw _

theorem coreFrame_fetchOne {s : State} {u : Nat} {p : FetchPos} {r : List FetchPos} (h : NextFetch s u p r) :
    CoreFrame u [.blobs, .bankUse, .act] s (fetchOne s u) := by
  have hw : ∀ a, CoreFrame u [.blobs, .bankUse, .act] s
      (readErrors (fetchServed (setCore s u (fetchedCore s u p r)) u a) u 5 a 64 0 0 0) := fun a =>
    (coreFrame_setCore ..).trans ((CoreFrame.fieldsOnly (touches_fetchServed ..) (by decide) (by decide)).trans
      (coreFrame_readErrors _ _ _ _ _ _ _ (by simp)))
  rw [fetchOne_eq h]
  dsimp only
  split
  · exact (hw _).trans (coreFrame_readErrors _ _ _ _ _ _ _ (by simp))
  · exact hw _

theorem fetchedCore_head_of_call {s : State} {u : Nat} {p : FetchPos} {r : List FetchPos} (hc : dOpc (fetchedRaw s u p) = 1)
    (hb : fetchedBad s u p = false) (hr : routineOk s u (fld (fetchedRaw s u p) 256 16) = true) (hd : r.length < 8) :
    let e := routineEntry s u (fld (fetchedRaw s u p) 256 16)
    (fetchedCore s u p r).fetch.head? = some { lm := true, rep := 0, next := bits e 0 14, stop := bits e 0 14 + bits e 14 14 - 1 } := by
  simp [fetchedCore, fetchedInto, hc, hb, hr, hd]

/-- Settles O8: what is fetched stands in `fetchedCore`, and `fetchesNow_iff` says when. -/
theorem fetchReadsTheNextDescriptor : Obligations.FetchReadsTheNextDescriptor := by
  intro s u c hp hu t at_ ready
  have hexec : exec (.descriptorFetch u c) s = onCore s u (if fetchesNow t u then fetchOne t u else t) := rfl
  have hidle : ∃ t', onCore s u t = .next t' ∧ Touches [.alertN] t t' := onCore_next_idle hp hu
  have hends : ∀ w, CoreFrame u [.blobs, .bankUse, .act] t w →
      ∃ t', onCore s u w = .next t' ∧ Touches [.alertN] w t' ∧ CoreFrame u [.blobs, .bankUse, .act] t t' :=
    fun w hw => onCore_next_frame hp hu hw (by decide)
  clear_value t
  refine ⟨fun p r hn hready => ?_, fun hnone => ?_⟩
  · have hnow : fetchesNow t u = true := (fetchesNow_iff t u).2 ⟨p, r, hn, hready⟩
    obtain ⟨t', ht, hwt, hframe⟩ := hends _ (coreFrame_fetchOne hn)
    have hcore : coreAt t' u = fetchedCore t u p r := by rw [hwt.coreAt_eq (by decide), coreAt_fetchOne hn]
    refine ⟨t', by rw [hexec, if_pos hnow, ht], ?_⟩
    rw [hcore]
    exact ⟨rfl, rfl, fetchedCore_head_of_call, rfl, rfl, rfl, hframe⟩
  · have hnow : ¬fetchesNow t u = true := by
      intro hf
      obtain ⟨p, r, hn, hready⟩ := (fetchesNow_iff t u).1 hf
      exact hnone p r hn hready
    rw [hexec, if_neg hnow]
    exact hidle

end Sys2Proof
end

section
/-! SUPPORT. The engines' cycle of an MM alone at work, and the completion of MM and VX descriptors (O15). -/

namespace Sys2Proof

open Machine

/-! ### The engines' cycle of a core at which one MM alone is at work (R30, R295) -/

theorem engineServe_of_lone_mm {s : State} {u : Nat} {r : MmRun} (hm : (coreAt s u).mrun = [r]) (hv : (coreAt s u).vrun = [])
    (ht : r.todo = []) (hb : s.bankUse = []) :
    engineServe s u =
      let m := mmAll u s [] [] [(r, false, [])]
      let w := setCore m.1 u { coreAt m.1 u with mrun := m.2.2 }
      (setCore w u { coreAt w u with vrun := [] }, m.2.1) := by
  simp [engineServe, waitingOf, serveOld, vxAll, hm, hv, ht, hb]

theorem coreAt_engineCycle_of_lone_mm {s : State} {u : Nat} {r : MmRun} (hm : (coreAt s u).mrun = [r]) (hv : (coreAt s u).vrun = [])
    (ht : r.todo = []) (hb : s.bankUse = []) :
    let m := mmAll u s [] [] [(r, false, [])]
    coreAt (engineCycle s u) u = { coreAt m.1 u with mrun := m.2.2, vrun := [] } ∧ (engineCycle s u).regs = m.1.regs ∧
      (engineCycle s u).variant = m.1.variant := by
  rw [engineCycle, engineServe_of_lone_mm hm hv ht hb]
  dsimp only
  refine ⟨?_, rfl, rfl⟩
  change coreAt (setCore _ u _) u = _
  rw [coreAt_setCore, coreAt_setCore]

/-- The MM does its cycle if all its accesses are served; else it waits with the rest. -/
theorem mmAll_of_served {s : State} {u : Nat} {r : MmRun} (ht : r.todo = []) (h : (serve [] (mmAccesses u r)).2 = []) :
    (mmAll u s [] [] [(r, false, [])]).1 = (mmCycle s u r).1 ∧ (mmAll u s [] [] [(r, false, [])]).2.2 = [(mmCycle s u r).2] := by
  have hr : { r with todo := [] } = r := by rw [← ht]
  simp [mmAll, mmGate, h, hr]

theorem mmAll_of_waiting {s : State} {u : Nat} {r : MmRun} (h : (serve [] (mmAccesses u r)).2 ≠ []) :
    let left := (serve [] (mmAccesses u r)).2
    (mmAll u s [] [] [(r, false, [])]).1 = bumpSlip s u 5 left.length ∧
      (mmAll u s [] [] [(r, false, [])]).2.2 = [{ r with todo := left, began := absNow s }] := by
  simp [mmAll, mmGate, h]

theorem engineCycle_of_served {s : State} {u : Nat} {r : MmRun} (hm : (coreAt s u).mrun = [r]) (hv : (coreAt s u).vrun = [])
    (ht : r.todo = []) (hb : s.bankUse = []) (h : (serve [] (mmAccesses u r)).2 = []) :
    coreAt (engineCycle s u) u = { coreAt (mmCycle s u r).1 u with mrun := [(mmCycle s u r).2], vrun := [] } ∧
      (engineCycle s u).mem = s.mem := by
  obtain ⟨hcore, -, -⟩ := coreAt_engineCycle_of_lone_mm hm hv ht hb
  obtain ⟨hstate, hruns⟩ := mmAll_of_served (s := s) ht h
  exact ⟨by rw [hcore, hstate, hruns], (touches_engineServe s u).same .mem (by decide)⟩

theorem engineCycle_of_waiting {s : State} {u : Nat} {r : MmRun} (hd : dieOf u < 4) (hm : (coreAt s u).mrun = [r])
    (hv : (coreAt s u).vrun = []) (ht : r.todo = []) (hb : s.bankUse = []) (h : (serve [] (mmAccesses u r)).2 ≠ []) :
    let left := (serve [] (mmAccesses u r)).2
    coreAt (engineCycle s u) u = { coreAt s u with mrun := [{ r with todo := left, began := absNow s }] } ∧
      rg (engineCycle s u) (0x7858 + dieOf u) 4 = counted (rg s (0x7858 + dieOf u) 4) left.length := by
  intro left
  obtain ⟨hcore, hregs, hvar⟩ := coreAt_engineCycle_of_lone_mm hm hv ht hb
  obtain ⟨hstate, hruns⟩ := mmAll_of_waiting (s := s) h
  refine ⟨?_, ?_⟩
  · rw [hcore, hstate, hruns, (touches_bumpSlip ..).coreAt_eq (by decide), ← hv]
  · rw [rg_congr hregs hvar, hstate]
    exact rg_bump_same (by decide) (by decide) (by decide) (by omega)

/-! ### The end of a descriptor of an engine (R77, R108, R120, R163, R172, R207) -/

/-- The XA_RANGE record of a descriptor's events. -/
def eventRec (s : State) (u eng : Nat) (q : QDesc) (kind row col : Nat) : LogRec :=
  coreRec s u eng 0x0001 (leBytes 1 kind ++ leBytes 3 row ++ leBytes 3 col ++ leBytes 2 (dTag q.raw))

/-- The events of exact arithmetic are logged once and counted by kind (R77). -/
theorem xaRange_eq (s : State) (u eng : Nat) (q : QDesc) (kind row col : Nat) (h : kind ≠ 0) :
    xaRange s u eng q kind row col =
      let n := fun (k : Nat) => if bit kind k then 1 else 0
      bump (bump (bump (capture s (eventRec s u eng q kind row col)) (0x7020 + dieOf u) 1 4 0 (n 0)) (0x7020 + dieOf u) 2 4 1 (n 1))
        (0x7020 + dieOf u) 3 4 2 (n 2) := by
  simp only [xaRange, if_neg h, bump_ite]
  rfl

theorem rg_capture {s : State} {r : LogRec} {k l : Nat} (h5 : rkey 0x7000 5 ≠ rkey k l) (h6 : rkey 0x7000 6 ≠ rkey k l) :
    rg (capture s r) k l = rg s k l := by
  refine rg_eq_of_regsKept ?_ ((touches_capture ..).same .variant (by decide))
  have hnote : (notePlanFault s r).regs = s.regs := (touches_notePlanFault ..).same .regs (by decide)
  unfold capture
  dsimp only
  split
  · exact .of_eq hnote
  · exact (RegsKept.of_eq hnote).trans (regsKept_noteDropped _ (bne_iff_ne.2 h5) (bne_iff_ne.2 h6))

theorem touches_xaRange (s : State) (u eng : Nat) (q : QDesc) (kind row col : Nat) :
    Touches [.parts, .capSeen, .faultq, .regs] s (xaRange s u eng q kind row col) := by
  by_cases h : kind = 0
  · rw [xaRange, if_pos h]
    exact .refl
  · rw [xaRange_eq _ _ _ _ _ _ _ h]
    exact (touches_capture ..).trans (((touches_bump ..).mono rfl).trans (((touches_bump ..).mono rfl).trans ((touches_bump ..).mono rfl)))

theorem coreFrame_xaRange {u : Nat} {l : List Field} (s : State) (eng : Nat) (q : QDesc) (kind row col : Nat) (hd : dieOf u < 4) :
    CoreFrame u l s (xaRange s u eng q kind row col) := by
  have hb : ∀ (t : State) (j b n : Nat), j < 256 → CoreFrame u l t (bump t (0x7020 + dieOf u) j 4 b n) := fun t j b n hj =>
    coreFrame_bump _ _ _ _ _ _ (countKey_of hj (by simp; omega)) (countKey_of (by omega) (by simp; omega))
  by_cases h : kind = 0
  · rw [xaRange, if_pos h]
    exact .refl
  · rw [xaRange_eq _ _ _ _ _ _ _ h]
    exact (coreFrame_capture ..).trans ((hb _ 1 _ _ (by decide)).trans ((hb _ 2 _ _ (by decide)).trans (hb _ 3 _ _ (by decide))))

/-- Entries of other indices keep their values. -/
theorem rg_xaRange_other {s : State} {u eng : Nat} {q : QDesc} {kind row col i j : Nat} (hj : j < 256) (hi : i ≠ 0x7020 + dieOf u)
    (h7 : i ≠ 0x7000) : rg (xaRange s u eng q kind row col) i j = rg s i j := by
  have hne : ∀ l, l < 256 → rkey (0x7020 + dieOf u) l ≠ rkey i j := fun l hl => rkey_ne_of_idx hl hj hi.symm
  have h7' : ∀ l, l < 256 → rkey 0x7000 l ≠ rkey i j := fun l hl => rkey_ne_of_idx hl hj h7.symm
  have hb : ∀ (t : State) (l b n : Nat), l < 256 → rg (bump t (0x7020 + dieOf u) l 4 b n) i j = rg t i j := fun t l b n hl =>
    rg_bump_other (hne l hl) (hne 4 (by decide)) (h7' 5 (by decide)) (h7' 6 (by decide))
  by_cases h : kind = 0
  · rw [xaRange, if_pos h]
  · rw [xaRange_eq _ _ _ _ _ _ _ h]
    dsimp only
    rw [hb _ _ _ _ (by decide), hb _ _ _ _ (by decide), hb _ _ _ _ (by decide), rg_capture (h7' 5 (by decide)) (h7' 6 (by decide))]

/-- Each kind of event counts once (R77). -/
theorem rg_xaRange_count {s : State} {u eng : Nat} {q : QDesc} {kind row col k : Nat} (hd : dieOf u < 4) (hk : k < 3) :
    rg (xaRange s u eng q kind row col) (0x7020 + dieOf u) (k + 1) =
      counted (rg s (0x7020 + dieOf u) (k + 1)) (if bit kind k then 1 else 0) := by
  have h7 : ∀ l j, l < 256 → j < 256 → rkey 0x7000 l ≠ rkey (0x7020 + dieOf u) j := fun l j hl hj => rkey_ne_of_idx hl hj (by omega)
  have hcap : ∀ r, rg (capture s r) (0x7020 + dieOf u) (k + 1) = rg s (0x7020 + dieOf u) (k + 1) := fun r =>
    rg_capture (h7 5 _ (by decide) (by omega)) (h7 6 _ (by decide) (by omega))
  have hsame : ∀ (t : State) (j b n : Nat), j < 4 →
      rg (bump t (0x7020 + dieOf u) j 4 b n) (0x7020 + dieOf u) j = counted (rg t (0x7020 + dieOf u) j) n := fun t j b n hj =>
    rg_bump_same (by omega) (by decide) (by omega) (by omega)
  have hother : ∀ (t : State) (i j b n : Nat), i < 4 → j < 4 → i ≠ j →
      rg (bump t (0x7020 + dieOf u) i 4 b n) (0x7020 + dieOf u) j = rg t (0x7020 + dieOf u) j := fun t i j b n hi hj hne =>
    rg_bump_other (rkey_ne_of_sub (by omega) (by omega) hne) (rkey_ne_of_sub (by decide) (by omega) (by omega))
      (h7 5 j (by decide) (by omega)) (h7 6 j (by decide) (by omega))
  by_cases h : kind = 0
  · subst h
    have hbit : bit 0 k = false := by simp [bit]
    rw [xaRange, if_pos rfl, hbit]
    exact (counted_zero _).symm
  · rw [xaRange_eq _ _ _ _ _ _ _ h]
    dsimp only
    interval_cases k
    · rw [hother _ 3 1 _ _ (by decide) (by decide) (by decide), hother _ 2 1 _ _ (by decide) (by decide) (by decide),
        hsame _ 1 _ _ (by decide), hcap]
    · rw [hother _ 3 2 _ _ (by decide) (by decide) (by decide), hsame _ 2 _ _ (by decide),
        hother _ 1 2 _ _ (by decide) (by decide) (by decide), hcap]
    · rw [hsame _ 3 _ _ (by decide), hother _ 2 3 _ _ (by decide) (by decide) (by decide),
        hother _ 1 3 _ _ (by decide) (by decide) (by decide), hcap]

/-- A descriptor that has left its engine ends: it is counted in the engine's entries at `i` as an operation or as a no-op, its signal goes
from the source `src` to the counter adder, and its events are counted. -/
def endsDescriptor (s : State) (u i src eng : Nat) (q : QDesc) (no : Bool) (kind row col : Nat) : State :=
  xaRange (signalDone (bump s (i + dieOf u) (if no then 2 else 1) 6 (if no then 1 else 0) 1) u src q) u eng q kind row col

/-- The core after its descriptor's signal and completion, in a beat that began in cycle `edge`. -/
def endedCore (x : CoreSt) (src edge : Nat) (q : QDesc) : CoreSt :=
  { x with outst := x.outst.filter (fun o => o.cnt != q.cnt),
           addNow := if dSV q.raw then insAdd x.addNow { ctr := dSid q.raw, src := src, inc := dSinc q.raw } else x.addNow,
           finish := some (max (x.finish.getD 0) (x.addCyc - edge)),
           calls := x.calls.map (fun r => if r.lastCnt = q.cnt ∧ r.done = none then { r with done := some x.addCyc } else r) }

section EndsDescriptor

variable {s : State} {u i src eng : Nat} {q : QDesc} {no : Bool} {kind row col : Nat}

theorem coreAt_signalDone (s : State) (u src : Nat) (q : QDesc) : coreAt (signalDone s u src q) u = endedCore (coreAt s u) src s.edge q := by
  unfold signalDone completeAt deliver endedCore
  split <;> simp [*]

theorem coreAt_endsDescriptor (s : State) (u i src eng : Nat) (q : QDesc) (no : Bool) (kind row col : Nat) :
    coreAt (endsDescriptor s u i src eng q no kind row col) u = endedCore (coreAt s u) src s.edge q := by
  have hedge : (bump s (i + dieOf u) (if no then 2 else 1) 6 (if no then 1 else 0) 1).edge = s.edge :=
    (touches_bump ..).same .edge (by decide)
  rw [endsDescriptor, (touches_xaRange ..).coreAt_eq (by decide), coreAt_signalDone, hedge, (touches_bump ..).coreAt_eq (by decide)]

theorem rg_signalDone (s : State) (u src : Nat) (q : QDesc) (k l : Nat) : rg (signalDone s u src q) k l = rg s k l :=
  (touches_signalDone ..).rg_eq (by decide) (by decide) k l

theorem rg_endsDescriptor_work (hd : dieOf u < 4) (hi : i = 0x7840 ∨ i = 0x7848) :
    rg (endsDescriptor s u i src eng q no kind row col) (i + dieOf u) (if no then 2 else 1) =
      counted (rg s (i + dieOf u) (if no then 2 else 1)) 1 := by
  have hsub : (if no then 2 else 1) < 6 := by split <;> decide
  rw [endsDescriptor, rg_xaRange_other (by omega) (by omega) (by omega), rg_signalDone,
    rg_bump_same (by omega) (by decide) (by omega) (by omega)]

theorem rg_endsDescriptor_events (hd : dieOf u < 4) (hi : i = 0x7840 ∨ i = 0x7848) {k : Nat} (hk : k < 3) :
    rg (endsDescriptor s u i src eng q no kind row col) (0x7020 + dieOf u) (k + 1) =
      counted (rg s (0x7020 + dieOf u) (k + 1)) (if bit kind k then 1 else 0) := by
  have hsub : (if no then 2 else 1) < 256 := by split <;> decide
  rw [endsDescriptor, rg_xaRange_count hd hk, rg_signalDone,
    rg_bump_other (rkey_ne_of_idx hsub (by omega) (by omega)) (rkey_ne_of_idx (by decide) (by omega) (by omega))
      (rkey_ne_of_idx (by decide) (by omega) (by omega)) (rkey_ne_of_idx (by decide) (by omega) (by omega))]

theorem coreFrame_endsDescriptor {l : List Field} (hd : dieOf u < 4) (hi : i = 0x7840 ∨ i = 0x7848) :
    CoreFrame u l s (endsDescriptor s u i src eng q no kind row col) := by
  have hkey : ∀ j, j < 256 → countKey (rkey (i + dieOf u) j) = true := fun j hj => countKey_of hj (by simp; omega)
  exact (coreFrame_bump _ _ _ _ _ _ (hkey _ (by split <;> decide)) (hkey _ (by decide))).trans
    ((coreFrame_signalDone ..).trans (coreFrame_xaRange _ _ _ _ _ _ hd))

end EndsDescriptor

/-- An MM that has come to its signal cycle leaves the MXE and ends. -/
theorem mmCompleteNow_of_some {s : State} {u : Nat} {r : MmRun} (h : (coreAt s u).mrun.find? mmDone = some r) :
    mmCompleteNow s u =
      endsDescriptor (setCore s u { coreAt s u with mrun := (coreAt s u).mrun.filter (fun k => k.d.cnt != r.d.cnt) }) u 0x7840 5 1 r.d r.noop
        (r.kinds.foldl (· ||| ·) 0) (firstEvent r.kinds / dN r.d.raw) (firstEvent r.kinds % dN r.d.raw) := by
  simp only [mmCompleteNow, h, endsDescriptor]
  cases r.noop <;> rfl

/-- A VX descriptor that has come to its signal cycle leaves the VXE and ends. -/
theorem vxCompleteNow_of_some {s : State} {u : Nat} {r : VxRun} (h : (coreAt s u).vrun.find? (vxDone s.variant) = some r) :
    vxCompleteNow s u =
      endsDescriptor (setCore s u { coreAt s u with vrun := (coreAt s u).vrun.filter (fun k => k.d.cnt != r.d.cnt) }) u 0x7848 6 2 r.d r.noop
        r.kind (r.first / dN r.d.raw) (r.first % dN r.d.raw) := by
  simp only [vxCompleteNow, h, endsDescriptor]
  cases r.noop <;> rfl

theorem mmCompleteNow_of_none {s : State} {u : Nat} (h : (coreAt s u).mrun.find? mmDone = none) : mmCompleteNow s u = s := by
  simp only [mmCompleteNow, h]

theorem vxCompleteNow_of_none {s : State} {u : Nat} (h : (coreAt s u).vrun.find? (vxDone s.variant) = none) : vxCompleteNow s u = s := by
  simp only [vxCompleteNow, h]

/-- What holds of a state in which a descriptor of core `u` has ended, told against the state `s` before: its core's outstanding descriptors and
adder, the entry that counts it, the counts of its events, the core's storage and the frame. -/
structure DescriptorEnded (s : State) (u i src : Nat) (q : QDesc) (no : Bool) (kind : Nat) (t : State) : Prop where
  outst : (coreAt t u).outst = (coreAt s u).outst.filter (fun o => o.cnt != q.cnt)
  adder : (coreAt t u).addNow = if dSV q.raw then insAdd (coreAt s u).addNow { ctr := dSid q.raw, src := src, inc := dSinc q.raw }
    else (coreAt s u).addNow
  work : rg t (i + dieOf u) (if no then 2 else 1) = counted (rg s (i + dieOf u) (if no then 2 else 1)) 1
  events : ∀ k, k < 3 → rg t (0x7020 + dieOf u) (k + 1) = counted (rg s (0x7020 + dieOf u) (k + 1)) (if bit kind k then 1 else 0)
  tile : (coreAt t u).tile = (coreAt s u).tile
  vreg : (coreAt t u).vreg = (coreAt s u).vreg
  frame : CoreFrame u [] s t

theorem coreAt_of_endsDescriptor {s t : State} {u i src eng : Nat} {q : QDesc} {no : Bool} {kind row col : Nat} {y : CoreSt}
    (h : Touches [.alertN] (endsDescriptor (setCore s u y) u i src eng q no kind row col) t) : coreAt t u = endedCore y src s.edge q := by
  rw [h.coreAt_eq (by decide), coreAt_endsDescriptor, coreAt_setCore]
  rfl

theorem coreFrame_endsDescriptor_setCore {s : State} {u i src eng : Nat} {q : QDesc} {no : Bool} {kind row col : Nat} {y : CoreSt}
    (hd : dieOf u < 4) (hi : i = 0x7840 ∨ i = 0x7848) :
    CoreFrame u [] s (endsDescriptor (setCore s u y) u i src eng q no kind row col) :=
  (coreFrame_setCore ..).trans (coreFrame_endsDescriptor hd hi)

/-- A core whose engine's list alone has changed, to `y`, and whose descriptor then ends. -/
theorem descriptorEnded_of_endsDescriptor {s t : State} {u i src eng : Nat} {q : QDesc} {no : Bool} {kind row col : Nat} {y : CoreSt}
    (h : Touches [.alertN] (endsDescriptor (setCore s u y) u i src eng q no kind row col) t) (hf : CoreFrame u [] s t)
    (hd : dieOf u < 4) (hi : i = 0x7840 ∨ i = 0x7848) (ho : y.outst = (coreAt s u).outst) (ha : y.addNow = (coreAt s u).addNow)
    (hl : y.tile = (coreAt s u).tile) (hv : y.vreg = (coreAt s u).vreg) :
    DescriptorEnded s u i src q no kind t := by
  have hcore := coreAt_of_endsDescriptor h
  have hset : ∀ a b, rg (setCore s u y) a b = rg s a b := fun a b => rfl
  refine ⟨?_, ?_, ?_, fun k hk => ?_, ?_, ?_, hf⟩
  · rw [hcore, ← ho]
    rfl
  · rw [hcore, ← ha]
    rfl
  · rw [h.rg_eq (by decide) (by decide), rg_endsDescriptor_work hd hi, hset]
  · rw [h.rg_eq (by decide) (by decide), rg_endsDescriptor_events hd hi hk, hset]
  · rw [hcore, ← hl]
    rfl
  · rw [hcore, ← hv]
    rfl

theorem coreFrame_mmCompleteNow {s : State} {u : Nat} {r : MmRun} (hd : dieOf u < 4) (h : (coreAt s u).mrun.find? mmDone = some r) :
    CoreFrame u [] s (mmCompleteNow s u) := by
  rw [mmCompleteNow_of_some h]
  exact coreFrame_endsDescriptor_setCore hd (.inl rfl)

theorem coreFrame_vxCompleteNow {s : State} {u : Nat} {r : VxRun} (hd : dieOf u < 4)
    (h : (coreAt s u).vrun.find? (vxDone s.variant) = some r) : CoreFrame u [] s (vxCompleteNow s u) := by
  rw [vxCompleteNow_of_some h]
  exact coreFrame_endsDescriptor_setCore hd (.inr rfl)

/-- The first MM that is due leaves the MXE, whose other MMs and the VXE go on, and ends. -/
theorem ended_of_mmCompleteNow {s t : State} {u : Nat} {r : MmRun} (hd : dieOf u < 4) (h : (coreAt s u).mrun.find? mmDone = some r)
    (ht : Touches [.alertN] (mmCompleteNow s u) t) (hf : CoreFrame u [] s t) :
    (coreAt t u).mrun = (coreAt s u).mrun.filter (fun k => k.d.cnt != r.d.cnt) ∧ (coreAt t u).vrun = (coreAt s u).vrun ∧
      DescriptorEnded s u 0x7840 5 r.d r.noop (r.kinds.foldl (· ||| ·) 0) t := by
  rw [mmCompleteNow_of_some h] at ht
  have hcore := coreAt_of_endsDescriptor ht
  refine ⟨by rw [hcore]; rfl, by rw [hcore]; rfl, ?_⟩
  exact descriptorEnded_of_endsDescriptor ht hf hd (.inl rfl) rfl rfl rfl rfl

/-- The first VX descriptor that is due leaves the VXE, whose others and the MXE go on, and ends. -/
theorem ended_of_vxCompleteNow {s t : State} {u : Nat} {r : VxRun} (hd : dieOf u < 4)
    (h : (coreAt s u).vrun.find? (vxDone s.variant) = some r) (ht : Touches [.alertN] (vxCompleteNow s u) t) (hf : CoreFrame u [] s t) :
    (coreAt t u).vrun = (coreAt s u).vrun.filter (fun k => k.d.cnt != r.d.cnt) ∧ (coreAt t u).mrun = (coreAt s u).mrun ∧
      DescriptorEnded s u 0x7848 6 r.d r.noop r.kind t := by
  rw [vxCompleteNow_of_some h] at ht
  have hcore := coreAt_of_endsDescriptor ht
  refine ⟨by rw [hcore]; rfl, by rw [hcore]; rfl, ?_⟩
  exact descriptorEnded_of_endsDescriptor ht hf hd (.inr rfl) rfl rfl rfl rfl

/-- Settles O15: the engines' cycle by `engineCycle_of_served` and `engineCycle_of_waiting`, the completions by what both engines share
(`endsDescriptor`). -/
theorem enginesComplete : Obligations.EnginesComplete := by
  refine ⟨fun s u r hd hm hv ht hb => ⟨engineCycle_of_served hm hv ht hb, engineCycle_of_waiting hd hm hv ht hb⟩, ?_⟩
  intro s u c hp hu t x signal ended
  have hmm : exec (.mmComplete u c) s = onCore s u (if coreWorks t u then mmCompleteNow t u else t) := rfl
  have hvx : exec (.vxComplete u c) s = onCore s u (if coreWorks t u then vxCompleteNow t u else t) := rfl
  have hidle : ∃ t', onCore s u t = .next t' ∧ Touches [.alertN] t t' := onCore_next_idle hp hu
  have hends : ∀ w, CoreFrame u [] t w → ∃ t', onCore s u w = .next t' ∧ Touches [.alertN] w t' ∧ CoreFrame u [] t t' :=
    fun w hw => onCore_next_frame hp hu hw (by decide)
  have hd : dieOf u < 4 := dieOf_lt hu
  clear_value t
  have hended : ∀ {t' i src kind d no}, DescriptorEnded t u i src d no kind t' → ended t' i src kind d no :=
    fun h => ⟨h.outst, h.adder, h.work, h.events, h.tile, h.vreg, h.frame⟩
  refine ⟨fun r hw hr => ?_, fun h => ?_, fun r hw hr => ?_, fun h => ?_⟩
  · obtain ⟨t', ht, hwt, hframe⟩ := hends _ (coreFrame_mmCompleteNow hd hr)
    obtain ⟨hmrun, hvrun, h⟩ := ended_of_mmCompleteNow hd hr hwt hframe
    exact ⟨t', by rw [hmm, if_pos hw, ht], hmrun, hvrun, hended h⟩
  · rw [hmm]
    obtain h | h := h
    · rwa [h]
    · rwa [mmCompleteNow_of_none h, ite_self]
  · obtain ⟨t', ht, hwt, hframe⟩ := hends _ (coreFrame_vxCompleteNow hd hr)
    obtain ⟨hvrun, hmrun, h⟩ := ended_of_vxCompleteNow hd hr hwt hframe
    exact ⟨t', by rw [hvx, if_pos hw, ht], hvrun, hmrun, hended h⟩
  · rw [hvx]
    obtain h | h := h
    · rwa [h]
    · rwa [vxCompleteNow_of_none h, ite_self]

end Sys2Proof
end

section
/-! SUPPORT. What logging an entry, sending an event, raising an alarm, and the serving unit's end of a plan may change. -/

namespace Sys2Proof

open Machine

/-! ### Events, entries of the log, and alarms (R587, R615, R628 to R633) -/

/-- One more update inside a frame, or none. -/
theorem Touches.orKept {l : List Field} {s w v : State} {c : Prop} [Decidable c] (h : Touches l s w) (g : Touches l w v) :
    Touches l s (if c then v else w) := .ite (h.trans g) h

theorem touches_eventFifo (s : State) (q : KMap (List Byte)) (h n : Nat) (l : Bool) :
    Touches [.evFifo, .evHead, .evTail, .evLost] s { s with evFifo := q, evHead := h, evTail := n, evLost := l } := by
  refine ⟨fun f hf => ?_⟩
  cases f
  case evFifo | evHead | evTail | evLost => simp at hf
  all_goals rfl

theorem touches_sendEvent (s : State) (x : Session) (ty : Nat) (body : List Byte) : Touches eventFields s (sendEvent s x ty body) := by
  have hsend : ∀ (m : List Byte) (y : Session) (o : Out), Touches eventFields s (emit (setSes (secure s x m).2 y) o) := fun m y o =>
    ((touches_secure ..).mono rfl).trans (((touches_setSes ..).mono rfl).trans ((touches_emit ..).mono rfl))
  unfold sendEvent
  dsimp only
  refine .ite .refl (.ite ((touches_setSes ..).mono rfl) (.ite ?_ ?_))
  · exact (hsend ..).trans (((touches_eventFifo ..).mono rfl).trans ((touches_vector ..).mono rfl))
  · exact (hsend ..).trans ((touches_wire ..).mono rfl)

theorem touches_eventAll (s : State) (test : Session → Bool) (ty : Nat) (body : List Byte) :
    Touches eventFields s (eventAll s test ty body) := by
  unfold eventAll
  refine .foldl _ (fun t x => ?_) _ _
  split
  · exact .ite (touches_sendEvent ..) .refl
  · exact .refl

theorem touches_noteEntry (s : State) (r : LogRec) : Touches [.regs, .blobs, .faultq] s (noteEntry s r) := by
  have hb : ∀ i j k l b n, Touches [.regs, .blobs, .faultq] s (bumpAt s i j k l b n) := fun i j k l b n => (touches_bumpAt ..).mono rfl
  have hw : ∀ i j m, Touches [.regs, .blobs, .faultq] s (wb s i j m) := fun i j m => (touches_wb ..).mono rfl
  have hbw : ∀ i j k l b n i' j' m, Touches [.regs, .blobs, .faultq] s (wb (bumpAt s i j k l b n) i' j' m) :=
    fun i j k l b n i' j' m => (hb ..).trans ((touches_wb ..).mono rfl)
  unfold noteEntry
  dsimp only
  split
  exacts [hw .., hb .., hb .., hbw .., hbw .., hb .., hb .., hb .., hb .., hb .., hb .., hw .., hw .., hw .., hbw .., hbw .., hbw ..,
    hb .., hb .., hbw .., .refl]

/-- The fields that an entry of the fault log may change. -/
def logFields : List Field := [.log, .logNum, .kept, .regs, .blobs, .faultq] ++ eventFields

theorem touches_logNow (s : State) (r : LogRec) : Touches logFields s (logNow s r) := by
  have hadd : ∀ (l : List LogRec) (n : Nat), Touches logFields s { s with logNum := n, log := l } := by
    intro l n
    refine ⟨fun f hf => ?_⟩
    cases f
    case log | logNum => simp [logFields] at hf
    all_goals rfl
  unfold logNow
  dsimp only
  refine Touches.trans ?_ ((touches_noteEntry ..).mono rfl)
  refine .orKept (Touches.trans ?_ ((touches_eventAll ..).mono rfl)) ((touches_eventAll ..).mono rfl)
  exact .orKept ((hadd _ _).trans ((touches_bump ..).mono rfl)) ((touches_wb ..).mono rfl)

theorem touches_logRec (s : State) (r : LogRec) : Touches logFields s (logRec s r) := by
  refine .ite (.ite ⟨fun f hf => ?_⟩ ((touches_bump ..).mono rfl)) (touches_logNow s r)
  cases f
  case kept => simp [logFields] at hf
  all_goals rfl

theorem touches_sendMsg (s : State) (l mtype : Nat) (args : List Nat) : Touches [.links, .out] s (sendMsg s l mtype args) :=
  .ite (((touches_setLink ..).mono rfl).trans ((touches_emit ..).mono rfl)) .refl

/-- The fields that raising an alarm may change. -/
def alarmFields : List Field := [.parts, .regs, .faultq, .links, .out]

theorem touches_raiseAlarm (s : State) (r : LogRec) (p : Nat) : Touches alarmFields s (raiseAlarm s r p) := by
  unfold raiseAlarm
  dsimp only
  refine .ite .refl (Touches.trans ?_ (.foldl _ (fun t l => (touches_sendMsg ..).mono rfl) _ _))
  exact ((touches_setPart ..).mono rfl).trans ((touches_bump ..).mono rfl)

theorem touches_edgeAlarm (s : State) (p : Nat) : Touches alarmFields s (edgeAlarm s p) :=
  .ite ((touches_raiseAlarm ..).trans ((touches_setPart ..).mono rfl)) .refl

/-! ### The serving unit at the end of a plan (R483, R490 to R495) -/

/-- The entries whose sub-index is 5 or more: among them all counts of the serving unit and of links' waiting times, and their overflow bits. -/
def subFrom5 (k : Nat) : Bool := decide (5 ≤ k % 256)

theorem subFrom5_rkey {i j : Nat} (hj : j < 256) : subFrom5 (rkey i j) = decide (5 ≤ j) := by
  unfold subFrom5 rkey
  congr 2
  omega

theorem regsKept_bump_subFrom5 (s : State) (i j oj b n : Nat) (hj : 5 ≤ j ∧ j < 256) (ho : 5 ≤ oj ∧ oj < 256) :
    RegsKept subFrom5 s (bump s i j oj b n) :=
  regsKept_bump _ _ _ _ _ _ (by rw [subFrom5_rkey hj.2]; simpa using hj.1) (by rw [subFrom5_rkey ho.2]; simpa using ho.1)

/-- The fields that the serving unit may change when it answers and ends requests. -/
def unitFields : List Field := [.regs, .faultq, .serve, .records, .sessions, .out, .msixPba, .mem, .ecc]

/-- The serving unit has answered and ended requests: of the numeric entries only counts have changed. -/
structure UnitServed (s t : State) : Prop where
  fields : Touches unitFields s t
  counts : RegsKept subFrom5 s t

theorem UnitServed.refl {s : State} : UnitServed s s := ⟨.refl, .refl⟩

theorem UnitServed.trans {s t r : State} (h : UnitServed s t) (g : UnitServed t r) : UnitServed s r :=
  ⟨h.fields.trans g.fields, h.counts.trans g.counts⟩

theorem UnitServed.ite {s a b : State} {c : Prop} [Decidable c] (ha : UnitServed s a) (hb : UnitServed s b) :
    UnitServed s (if c then a else b) := by split <;> assumption

theorem UnitServed.foldl {α : Type} (f : State → α → State) (h : ∀ t a, UnitServed t (f t a)) (as : List α) (s : State) :
    UnitServed s (as.foldl f s) :=
  List.foldlRecOn (motive := fun t => UnitServed s t) as f .refl fun t ht a _ => ht.trans (h t a)

/-- A change that touches no numeric entry. -/
theorem UnitServed.of_touches {l : List Field} {s t : State} (h : Touches l s t) (hl : l.all (fun f => decide (f ∈ unitFields)) = true)
    (hr : Field.regs ∉ l) : UnitServed s t := ⟨h.mono hl, .of_eq (h.same .regs hr)⟩

theorem touches_records (s : State) (l : List (Nat × List Byte)) : Touches [.records] s { s with records := l } := by
  refine ⟨fun f hf => ?_⟩
  cases f
  case records => simp at hf
  all_goals rfl

theorem touches_sendRec (s : State) (x : Session) (kind target : Nat) (plain : List Byte) :
    Touches [.sessions, .out, .msixPba] s (sendRec s x kind target plain) :=
  ((touches_setSes ..).mono rfl).trans (((touches_emit ..).mono rfl).trans ((touches_vector ..).mono rfl))

theorem touches_flushRecords (s : State) : Touches [.records, .sessions, .out, .msixPba] s (flushRecords s) := by
  refine Touches.trans ((touches_records ..).mono rfl) (.foldl _ (fun _ _ => ?_) _ _)
  split
  · exact (touches_records ..).mono rfl
  · exact .ite ((touches_sendRec ..).mono rfl) ((touches_records ..).mono rfl)

theorem unitServed_putRecord (s : State) (dest : Nat) (r : List Byte) : UnitServed s (putRecord s dest r) :=
  .of_touches (((touches_records ..).mono rfl).trans (touches_flushRecords ..)) (by decide) (by decide)

theorem unitServed_putEnt (s : State) (e : Nat) (x : ServeEnt) : UnitServed s (putEnt s e x) := by
  refine .of_touches (l := [.serve]) ⟨fun f hf => ?_⟩ (by decide) (by decide)
  cases f
  case serve => simp at hf
  all_goals rfl

theorem unitServed_bump (s : State) (i j oj b n : Nat) (hj : 5 ≤ j ∧ j < 256) (ho : 5 ≤ oj ∧ oj < 256) :
    UnitServed s (bump s i j oj b n) :=
  ⟨(touches_bump ..).mono rfl, regsKept_bump_subFrom5 _ _ _ _ _ _ hj ho⟩

theorem unitServed_endEntIn (b : Nat) (s : State) (p e : Nat) (x : ServeEnt) (reason : Nat) :
    UnitServed s (endEntIn b s p e x reason).1 :=
  (unitServed_putEnt ..).trans (unitServed_bump _ _ _ _ _ _ (by split <;> decide) (by decide))

theorem unitServed_freeEnded (s : State) (p : Nat) : UnitServed s (freeEnded s p) :=
  .foldl _ (fun _ _ => .ite (unitServed_putEnt ..) .refl) _ _

theorem unitServed_doSubmit (s : State) (c : List Byte) : UnitServed s (doSubmit s c).1 :=
  UnitServed.trans (.of_touches (touches_poke ..) (by decide) (by decide)) (unitServed_putEnt ..)

theorem unitServed_doCancel (s : State) (p e b : Nat) : UnitServed s (doCancel s p e b).1 := by
  unfold doCancel
  dsimp only
  split
  · exact .ite (unitServed_endEntIn ..) ((unitServed_endEntIn ..).trans (unitServed_freeEnded ..))
  · exact unitServed_putEnt ..

theorem unitServed_applyCommand (s : State) (q : Nat) (ses : Option Nat) (c : List Byte) (b : Nat) :
    UnitServed s (applyCommand s q ses c b) := by
  refine .ite (unitServed_putRecord ..) (.ite ?_ ?_)
  · exact (unitServed_doSubmit ..).trans (unitServed_putRecord ..)
  · exact (unitServed_doCancel ..).trans ((unitServed_putRecord ..).trans (.foldl _ (fun _ _ => unitServed_putRecord ..) _ _))

/-- The plan of partition `p` has ended for the serving unit: its requests are ended and answered, and of the partition's state only the boundary
in progress and the commands that wait have changed. -/
structure UnitEnded (p : Nat) (s t : State) : Prop where
  fields : Touches (.parts :: unitFields) s t
  counts : RegsKept subFrom5 s t
  part : ∃ r q, partAt t p = { partAt s p with step := r, cmdQ := q }

theorem UnitEnded.trans {p : Nat} {s t r : State} (h : UnitEnded p s t) (g : UnitEnded p t r) : UnitEnded p s r := by
  obtain ⟨a, b, ht⟩ := h.part
  obtain ⟨c, d, hr⟩ := g.part
  exact ⟨h.fields.trans g.fields, h.counts.trans g.counts, c, d, by rw [hr, ht]⟩

theorem UnitServed.unitEnded {s t : State} (h : UnitServed s t) (p : Nat) : UnitEnded p s t :=
  ⟨h.fields.mono rfl, h.counts, (partAt s p).step, (partAt s p).cmdQ, h.fields.partAt_eq (by decide) p⟩

theorem unitEnded_setPart (s : State) (p : Nat) (r : Option StepRun) (q : List (Nat × List Byte)) :
    UnitEnded p s (setPart s p { partAt s p with step := r, cmdQ := q }) :=
  ⟨(touches_setPart ..).mono rfl, .of_eq rfl, r, q, partAt_setPart ..⟩

theorem unitEnded_dropStep (s : State) (p : Nat) : UnitEnded p s (dropStep s p) :=
  ((UnitServed.foldl _ (fun _ _ => unitServed_putRecord ..) _ _).unitEnded p).trans (unitEnded_setPart _ p none _)

theorem unitEnded_endServing (s : State) (p : Nat) : UnitEnded p s (endServing s p) := by
  refine (unitEnded_dropStep s p).trans (UnitServed.unitEnded (UnitServed.trans (.foldl _ (fun _ _ => ?_) _ _) (unitServed_freeEnded ..)) p)
  exact .ite ((unitServed_endEntIn ..).trans (unitServed_putRecord ..)) .refl

/-- A fold that carries the state and a list keeps within what the unit may change when its steps do. -/
theorem UnitServed.foldPair {α β : Type} (f : State × β → α → State × β) (h : ∀ a k, UnitServed a.1 (f a k).1) (as : List α)
    (a : State × β) : UnitServed a.1 (as.foldl f a).1 :=
  List.foldlRecOn (motive := fun b => UnitServed a.1 b.1) as f .refl fun b hb k _ => hb.trans (h b k)

theorem unitEnded_drainCommands (s : State) (p b : Nat) : UnitEnded p s (drainCommands s p b) := by
  refine (unitEnded_setPart s p _ []).trans (UnitEnded.trans (UnitServed.unitEnded (.foldPair _ (fun a k => ?_) _ (_, _)) p)
    (unitEnded_setPart _ p _ _))
  rw [apply_ite Prod.fst]
  exact .ite (unitServed_applyCommand ..) .refl

theorem unitEnded_planEnds (s : State) (p : Nat) : UnitEnded p s (planEnds s p) :=
  (unitEnded_endServing s p).trans (unitEnded_drainCommands ..)

end Sys2Proof
end

section
/-! SUPPORT. The edge of a RUNNING partition: its check and its freeze (O32). -/

namespace Sys2Proof

open Machine

/-! ### A core that dispatches nothing more stays so at an edge (R241, R242) -/

/-- The step of `logOverruns` at one core. -/
def logOverrun (t : State) (u : Nat) : State :=
  if (coreAt t u).stopped ∨ !overran (coreAt t u) then t
  else capture (setCore t u { coreAt t u with stopped := true }) (coreRec t u 0 0x0202 (overrunDetail (coreAt t u)))

theorem logOverruns_eq (s : State) (p : Nat) : logOverruns s p = (partCores s p).foldl logOverrun s := rfl

theorem coreAt_capture (s : State) (r : LogRec) (u : Nat) : coreAt (capture s r) u = coreAt s u :=
  (touches_capture ..).coreAt_eq (by decide) u

/-- A core whose check failed is stopped, and nothing else changes at a core. -/
theorem coreAt_logOverrun (t : State) (v u : Nat) :
    coreAt (logOverrun t v) u =
      if v = u ∧ overran (coreAt t u) = true then { coreAt t u with stopped := true } else coreAt t u := by
  unfold logOverrun
  by_cases hv : v = u
  · subst hv
    by_cases ho : overran (coreAt t v) = true
    · by_cases hs : (coreAt t v).stopped = true
      · rw [if_pos (.inl hs), if_pos ⟨rfl, ho⟩, ← hs]
      · rw [if_neg (by simp [hs, ho]), if_pos ⟨rfl, ho⟩, coreAt_capture, coreAt_setCore]
    · rw [if_pos (by simp [ho]), if_neg (by simp [ho])]
  · rw [if_neg (c := v = u ∧ _) fun h => hv h.1]
    split
    · rfl
    · rw [coreAt_capture, coreAt_setCore_other _ _ _ _ (Ne.symm hv)]

theorem stopped_logOverrun {t : State} {u : Nat} (v : Nat) (h : (coreAt t u).stopped = true) : (coreAt (logOverrun t v) u).stopped = true := by
  rw [coreAt_logOverrun]
  split
  · rfl
  · exact h

theorem overran_logOverrun {t : State} {u : Nat} (v : Nat) (h : overran (coreAt t u) = true) : overran (coreAt (logOverrun t v) u) = true := by
  rw [coreAt_logOverrun]
  split <;> exact h

/-- Every core of the partition whose check fails is stopped. -/
theorem stopped_logOverruns {s : State} {p u : Nat} (hu : u ∈ partCores s p) (h : overran (coreAt s u) = true) :
    (coreAt (logOverruns s p) u).stopped = true := by
  rw [logOverruns_eq]
  refine foldl_reaches (Q := fun t => overran (coreAt t u) = true) (P := fun t => (coreAt t u).stopped = true) hu
    (fun t v ht => overran_logOverrun v ht) (fun t ht => ?_) (fun t v ht => stopped_logOverrun v ht) h
  rw [coreAt_logOverrun, if_pos ⟨rfl, ht⟩]

theorem touches_beatPassed (s : State) (p b : Nat) : Touches (.parts :: logFields) s (beatPassed s p b) := by
  have hw : ∀ (t : State) (i j v : Nat), Touches (.parts :: logFields) t (wr t i j v) := fun t i j v => (touches_wr ..).mono rfl
  unfold beatPassed
  dsimp only
  refine .orKept (.orKept (.orKept ((hw ..).trans (hw ..)) ((hw ..).trans (hw ..))) ((touches_bump ..).mono rfl)) ?_
  exact ((touches_setPart ..).mono rfl).trans ((touches_logRec ..).mono rfl)

/-- Beginning a slice at a core changes no other core. -/
theorem coreAt_beginSlice_other {s : State} {u v : Nat} (seg rep : Bool) (h : u ≠ v) : coreAt (beginSlice s v seg rep) u = coreAt s u := by
  have hite : ∀ (c : Prop) [Decidable c] (a b : State), coreAt a u = coreAt s u → coreAt b u = coreAt s u →
      coreAt (if c then a else b) u = coreAt s u := fun c _ a b ha hb => by split <;> assumption
  have hread : coreAt (if seg then readErrors s v 5 (segEntryAddr s v) 8 0 0 0 else s) u = coreAt s u :=
    hite _ _ _ (coreAt_readErrors ..) rfl
  unfold beginSlice
  dsimp only
  refine hite _ _ _ ?_ (hite _ _ _ ?_ ?_)
  · rw [coreAt_setCore_other _ _ _ _ h, hread]
  · rw [coreAt_capture, coreAt_setCore_other _ _ _ _ h, coreAt_readErrors, hread]
  · rw [coreAt_setCore_other _ _ _ _ h, coreAt_readErrors, hread]

/-- A core that has been stopped begins its slices without descriptors, and stays stopped. -/
theorem stopped_beginSlice_same {s : State} {u : Nat} (seg rep : Bool) (h : (coreAt s u).stopped = true) :
    (coreAt (beginSlice s u seg rep) u).stopped = true := by
  unfold beginSlice
  dsimp only
  rw [if_pos, coreAt_setCore]
  · cases seg
    · cases rep <;> exact h
    · exact h
  · left
    cases seg
    · cases rep <;> exact h
    · exact h

theorem stopped_beginSlice {s : State} {u : Nat} (v : Nat) (seg rep : Bool) (h : (coreAt s u).stopped = true) :
    (coreAt (beginSlice s v seg rep) u).stopped = true := by
  by_cases hv : u = v
  · subst hv
    exact stopped_beginSlice_same seg rep h
  · rwa [coreAt_beginSlice_other seg rep hv]

theorem stopped_beginBeat {s : State} {u : Nat} (p : Nat) (seg rep : Bool) (h : (coreAt s u).stopped = true) :
    (coreAt (beginBeat s p seg rep) u).stopped = true :=
  List.foldlRecOn (motive := fun t => (coreAt t u).stopped = true) _ _ h fun _ ht v _ => stopped_beginSlice v seg rep ht


/-- Replacing the cores of a partition leaves a core stopped if the replacement does. -/
theorem stopped_mapCores {s : State} {p u : Nat} {f : Nat → CoreSt → CoreSt} (hf : ∀ v x, (f v x).stopped = x.stopped)
    (h : (coreAt s u).stopped = true) : (coreAt (mapCores s p f) u).stopped = true := by
  have hset : ∀ (t : State) (v : Nat) (y : CoreSt), (coreAt t u).stopped = true → y.stopped = (coreAt t v).stopped →
      (coreAt (setCore t v y) u).stopped = true := by
    intro t v y ht hy
    by_cases hv : u = v
    · subst hv
      rw [coreAt_setCore, hy, ht]
    · rwa [coreAt_setCore_other _ _ _ _ hv]
  refine List.foldlRecOn (motive := fun t => (coreAt t u).stopped = true) _ _ h fun t ht v _ => ?_
  split
  next x hx => exact hset t v _ ht (by rw [hf, coreAt, hx]; rfl)
  next hx =>
    split
    · exact ht
    · exact hset t v _ ht (by rw [hf, coreAt, hx]; rfl)

theorem stopped_nextBeat {s : State} {u : Nat} (p : Nat) (h : (coreAt s u).stopped = true) : (coreAt (nextBeat s p) u).stopped = true := by
  unfold nextBeat
  dsimp only
  split
  · exact stopped_beginBeat p false false h
  · split
    · exact stopped_beginBeat p false true h
    · split
      · exact stopped_beginBeat p true false h
      · exact stopped_mapCores (fun _ _ => rfl) h

/-- A RUNNING partition without an alarm, whose plan has beats left, at the edge that ends beat `b`. -/
theorem edgePart_of_running {s : State} {p : Nat} (b : Nat) (ha : (partAt s p).alarm = false) (he : (partAt s p).ended = false) :
    ∃ t, (t = logOverruns s p ∨ t = beatPassed (logOverruns s p) p b) ∧ edgePart b s p = nextBeat (edgeAlarm t p) p := by
  simp only [edgePart, ha, he, Bool.false_eq_true, if_false]
  split
  · exact ⟨_, .inl rfl, rfl⟩
  · exact ⟨_, .inr rfl, rfl⟩

theorem edgePart_of_ended {s : State} {p : Nat} (b : Nat) (ha : (partAt s p).alarm = false) (he : (partAt s p).ended = true)
    (hf : (partAt s p).planFault = false) : edgePart b s p = s := by
  simp [edgePart, edgeAlarm, ha, he, hf]

/-- A core whose check fails at the edge dispatches nothing more. -/
theorem stopped_edgePart {s : State} {p u b : Nat} (ha : (partAt s p).alarm = false) (he : (partAt s p).ended = false)
    (hu : u ∈ partCores s p) (ho : overran (coreAt s u) = true) : (coreAt (edgePart b s p) u).stopped = true := by
  have hlog := stopped_logOverruns hu ho
  obtain ⟨t, ht, hedge⟩ := edgePart_of_running b ha he
  have hcore : coreAt t u = coreAt (logOverruns s p) u := by
    obtain rfl | rfl := ht
    · rfl
    · exact (touches_beatPassed ..).coreAt_eq (by decide) u
  rw [hedge]
  refine stopped_nextBeat p ?_
  rwa [(touches_edgeAlarm ..).coreAt_eq (by decide), hcore]

/-! ### The freeze (R23, R329, R634, R635) -/

theorem partCores_congr {s t : State} (hv : t.variant = s.variant) (hr : rg t 0x6000 3 = rg s 0x6000 3) (p : Nat) :
    partCores t p = partCores s p := by
  simp only [partCores, partDies, partLow, hv, hr]

/-- The account of its phase's cycles goes on at each core of the partition that holds state. -/
def phasesCounted (s : State) (p : Nat) : State :=
  (partCores s p).foldl (fun t u => if (kget t.cores u).isSome then countPhase t u else t) s

/-- The partition's cores stop, and its plan is FROZEN. -/
def coresStopped (s : State) (p : Nat) : State := mapCores (setPlanState (phasesCounted s p) p 4) p (fun _ x => freezeCore x)

/-- The PLAN frames that wait at the partition's links are discarded. -/
def linksStopped (s : State) (p : Nat) : State :=
  (partLinks s p).foldl (fun t l =>
    if (linkAt t l).planQ.isEmpty then t else let r := endWait t l 0 none; setLink r l { linkAt r l with planQ := [] }) s

/-- The state of a partition after the freeze: nothing waits in it any more. -/
def frozenPart (q : PartSt) : PartSt := { q with insts := [], reach := [], arrs := [], alarm := false, planFault := false, firstPF := [] }

/-- The partition stands still, and the freeze is recorded. -/
def freezeNoted (s : State) (p : Nat) (q : PartSt) : State :=
  let t := setPart s p (frozenPart q)
  wb (wr (bump t (0x7010 + p) 2 6 0 1) (0x7010 + p) 3 t.beat) (0x7010 + p) 4 q.cause

theorem freeze_eq {s : State} {p : Nat} (hr : (partAt s p).relPending = false) :
    freeze s p =
      let t := planEnds (freezeNoted (linksStopped (coresStopped s p) p) p (partAt s p)) p
      if rg t 0x6020 1 = 0 then setPart t p { partAt t p with resetting := true } else t := by
  have hfreeze : freeze s p =
      let t := planEnds (freezeNoted (linksStopped (coresStopped s p) p) p (partAt s p)) p
      if (partAt s p).relPending then becomeDirty t p
      else if rg t 0x6020 1 = 0 then setPart t p { partAt t p with resetting := true } else t := rfl
  rw [hfreeze, hr]
  exact if_neg Bool.false_ne_true

theorem touches_countPhase (s : State) (u : Nat) : Touches [.cores, .coreCyc] s (countPhase s u) := by
  refine Touches.trans (t := { s with coreCyc := _ }) ⟨fun f hf => ?_⟩ ((touches_setCore ..).mono rfl)
  cases f
  case coreCyc => simp at hf
  all_goals rfl

theorem touches_phasesCounted (s : State) (p : Nat) : Touches [.cores, .coreCyc] s (phasesCounted s p) :=
  .foldl _ (fun t u => .ite (touches_countPhase t u) .refl) _ _

theorem touches_mapCores (s : State) (p : Nat) (f : Nat → CoreSt → CoreSt) : Touches [.cores] s (mapCores s p f) := by
  refine .foldl _ (fun t u => ?_) _ _
  split
  · exact touches_setCore ..
  · exact .ite .refl (touches_setCore ..)

theorem touches_coresStopped (s : State) (p : Nat) : Touches [.cores, .coreCyc, .regs] s (coresStopped s p) :=
  ((touches_phasesCounted s p).mono rfl).trans (((touches_wr ..).mono rfl).trans ((touches_mapCores ..).mono rfl))

theorem planState_coresStopped (s : State) (p : Nat) : planState (coresStopped s p) p = 4 := by
  rw [planState, coresStopped, (touches_mapCores ..).rg_eq (by decide) (by decide)]
  exact rg_wr_same ..

theorem kget_cores_setCore (s : State) (u v : Nat) (x : CoreSt) :
    kget (setCore s v x).cores u = if u = v then some x else kget s.cores u := kget_kset ..

/-- Of a core that holds state only the account of its phase's cycles changes. -/
theorem kget_cores_phasesCounted {s : State} {u : Nat} {x : CoreSt} (p : Nat) (h : kget s.cores u = some x) :
    ∃ n, kget (phasesCounted s p).cores u = some { x with phaseFrom := n } := by
  refine List.foldlRecOn (motive := fun (t : State) => ∃ n, kget t.cores u = some { x with phaseFrom := n }) _ _ ⟨x.phaseFrom, h⟩ ?_
  rintro t ⟨n, ht⟩ v -
  split
  · rw [countPhase, kget_cores_setCore]
    by_cases hv : u = v
    · subst hv
      exact ⟨absNow t, by rw [if_pos rfl, coreAt, ht]; rfl⟩
    · exact ⟨n, by rw [if_neg hv]; exact ht⟩
  · exact ⟨n, ht⟩

/-- The step of `mapCores` at one core. -/
def mapCore (f : Nat → CoreSt → CoreSt) (t : State) (u : Nat) : State :=
  match kget t.cores u with
  | some x => setCore t u (f u x)
  | none => if f u {} = {} then t else setCore t u (f u {})

theorem mapCores_eq (s : State) (p : Nat) (f : Nat → CoreSt → CoreSt) : mapCores s p f = (partCores s p).foldl (mapCore f) s := rfl

theorem kget_cores_mapCore_same {f : Nat → CoreSt → CoreSt} {t : State} {u : Nat} {x : CoreSt} (h : kget t.cores u = some x) :
    kget (mapCore f t u).cores u = some (f u x) := by
  simp only [mapCore, h]
  rw [kget_cores_setCore, if_pos rfl]

theorem kget_cores_mapCore_other {f : Nat → CoreSt → CoreSt} {t : State} {u v : Nat} (h : u ≠ v) :
    kget (mapCore f t v).cores u = kget t.cores u := by
  have hset : ∀ y, kget (setCore t v y).cores u = kget t.cores u := fun y => by rw [kget_cores_setCore, if_neg h]
  unfold mapCore
  split
  · exact hset _
  · split
    · rfl
    · exact hset _

/-- A core of the partition that holds state is replaced, and being replaced again changes nothing where the replacement is idempotent. -/
theorem kget_cores_mapCores {s : State} {p u : Nat} {f : Nat → CoreSt → CoreSt} {x : CoreSt} (hf : f u (f u x) = f u x)
    (hu : u ∈ partCores s p) (h : kget s.cores u = some x) : kget (mapCores s p f).cores u = some (f u x) := by
  have hkeep : ∀ (t : State) (v : Nat), kget t.cores u = some (f u x) → kget (mapCore f t v).cores u = some (f u x) := by
    intro t v ht
    by_cases hv : u = v
    · subst hv
      rw [kget_cores_mapCore_same ht, hf]
    · rw [kget_cores_mapCore_other hv, ht]
  rw [mapCores_eq]
  refine foldl_reaches (Q := fun (t : State) => kget t.cores u = some x ∨ kget t.cores u = some (f u x))
    (P := fun (t : State) => kget t.cores u = some (f u x)) hu (fun t v ht => ?_) (fun t ht => ?_) hkeep (.inl h)
  · obtain ht | ht := ht
    · by_cases hv : u = v
      · subst hv
        exact .inr (kget_cores_mapCore_same ht)
      · exact .inl (by rw [kget_cores_mapCore_other hv, ht])
    · exact .inr (hkeep t v ht)
  · obtain ht | ht := ht
    · exact kget_cores_mapCore_same ht
    · exact hkeep t u ht

/-- A core of the partition that holds state is emptied as `freezeCore` says; beside it only the account of its phase's cycles changes. -/
theorem coreAt_coresStopped {s : State} {p u : Nat} (hu : u ∈ partCores s p) (h : (kget s.cores u).isSome = true) :
    ∃ n, coreAt (coresStopped s p) u = freezeCore { coreAt s u with phaseFrom := n } := by
  obtain ⟨x, hx⟩ := Option.isSome_iff_exists.1 h
  obtain ⟨n, hn⟩ := kget_cores_phasesCounted p hx
  have hcore : coreAt s u = x := by rw [coreAt, hx]; rfl
  have hmem : u ∈ partCores (setPlanState (phasesCounted s p) p 4) p := by
    rwa [partCores_congr (s := s)]
    · exact (touches_phasesCounted s p).same .variant (by decide)
    · rw [setPlanState, rg_wr_other _ _ _ _ _ _ (rkey_ne_of_sub (by decide) (by decide) (by decide))]
      exact (touches_phasesCounted s p).rg_eq (by decide) (by decide) _ _
  have hput : kget (setPlanState (phasesCounted s p) p 4).cores u = some { x with phaseFrom := n } := hn
  refine ⟨n, ?_⟩
  rw [hcore, coreAt, coresStopped, kget_cores_mapCores (f := fun _ x => freezeCore x) rfl hmem hput]
  rfl

theorem regsKept_bumpUnits_subFrom5 (s : State) (i j oj b k n : Nat) (hj : 5 ≤ j ∧ j < 256) (ho : 5 ≤ oj ∧ oj < 256) :
    RegsKept subFrom5 s (bumpUnits s i j oj b k n) :=
  regsKept_bump_subFrom5 _ _ _ _ _ _ hj ho

/-- Ending a frame's waiting time changes its link and counts. -/
theorem touches_endWait (s : State) (l key : Nat) (new : Option Bool) : Touches [.links, .regs, .faultq, .rems] s (endWait s l key new) := by
  unfold endWait
  dsimp only
  split
  · exact (touches_setLink ..).mono rfl
  · exact .ite (((touches_setLink ..).mono rfl).trans ((touches_bumpUnits ..).mono rfl))
      (((touches_setLink ..).mono rfl).trans ((touches_bumpUnits ..).mono rfl))

theorem regsKept_endWait (s : State) (l key : Nat) (new : Option Bool) : RegsKept subFrom5 s (endWait s l key new) := by
  have hunits : ∀ (t : State) (i j b k n : Nat), t.regs = s.regs → 13 ≤ j → j < 16 → RegsKept subFrom5 s (bumpUnits t i j 15 b k n) :=
    fun t i j b k n ht hj hj' => (RegsKept.of_eq ht).trans (regsKept_bumpUnits_subFrom5 _ _ _ _ _ _ _ (by omega) (by decide))
  unfold endWait
  dsimp only
  split
  · exact .of_eq rfl
  · split
    · exact hunits _ _ _ _ _ _ rfl (by decide) (by decide)
    · exact hunits _ _ _ _ _ _ rfl (by decide) (by decide)

theorem touches_linksStopped (s : State) (p : Nat) : Touches [.links, .regs, .faultq, .rems] s (linksStopped s p) :=
  .foldl _ (fun _ _ => .ite .refl ((touches_endWait ..).trans ((touches_setLink ..).mono rfl))) _ _

theorem regsKept_linksStopped (s : State) (p : Nat) : RegsKept subFrom5 s (linksStopped s p) := by
  refine List.foldlRecOn (motive := fun t => RegsKept subFrom5 s t) _ _ .refl fun t ht l _ => ?_
  split
  · exact ht
  · exact ht.trans (RegsKept.trans (regsKept_endWait t l 0 none) (.of_eq rfl))

theorem touches_freezeNoted (s : State) (p : Nat) (q : PartSt) : Touches [.parts, .regs, .blobs, .faultq] s (freezeNoted s p q) :=
  ((touches_setPart ..).mono rfl).trans (((touches_bump ..).mono rfl).trans (((touches_wr ..).mono rfl).trans ((touches_wb ..).mono rfl)))

theorem partAt_freezeNoted (s : State) (p : Nat) (q : PartSt) : partAt (freezeNoted s p q) p = frozenPart q := by
  have hbump : partAt (bump (setPart s p (frozenPart q)) (0x7010 + p) 2 6 0 1) p = frozenPart q := by
    rw [(touches_bump ..).partAt_eq (by decide), partAt_setPart]
  exact hbump

/-- FREEZE_BEAT. -/
theorem rg_freezeNoted_beat (s : State) (p : Nat) (q : PartSt) : rg (freezeNoted s p q) (0x7010 + p) 3 = s.beat := rg_wr_same ..

theorem planState_freezeNoted (s : State) (p : Nat) (q : PartSt) : planState (freezeNoted s p q) p = planState s p := by
  have hwr : ∀ (t : State) v, rg (wr t (0x7010 + p) 3 v) (0x2120 + p) 1 = rg t (0x2120 + p) 1 := fun t v =>
    rg_wr_other _ _ _ _ _ _ (rkey_ne_of_sub (by decide) (by decide) (by decide))
  refine (hwr _ _).trans ?_
  exact rg_bump_other (rkey_ne_of_sub (by decide) (by decide) (by decide)) (rkey_ne_of_sub (by decide) (by decide) (by decide))
    (rkey_ne_of_sub (by decide) (by decide) (by decide)) (rkey_ne_of_sub (by decide) (by decide) (by decide))

theorem rg_eq_of_regsKept_subFrom5 {s t : State} {i j : Nat} (h : RegsKept subFrom5 s t) (hv : t.variant = s.variant) (hj : j < 5) :
    rg t i j = rg s i j :=
  h.rg hv i j (by rw [subFrom5_rkey (by omega)]; simpa using hj)

/-- What holds of the partition `p` that has frozen, told against the state `s` before. -/
structure Frozen (s : State) (p : Nat) (t : State) : Prop where
  state : planState t p = 4
  beat : rg t (0x7010 + p) 3 = s.beat
  part : ∃ r q b, partAt t p = { frozenPart (partAt s p) with step := r, cmdQ := q, resetting := b }
  cores : ∀ u ∈ partCores s p, (kget s.cores u).isSome = true → ∃ n, coreAt t u = freezeCore { coreAt s u with phaseFrom := n }

/-- The state of the freeze before a hardware plan reset is asked for. -/
theorem frozen_planEnds (s : State) (p : Nat) :
    Frozen s p (planEnds (freezeNoted (linksStopped (coresStopped s p) p) p (partAt s p)) p) := by
  have hstop := touches_coresStopped s p
  have hlinks := touches_linksStopped (coresStopped s p) p
  have hnote := touches_freezeNoted (linksStopped (coresStopped s p) p) p (partAt s p)
  have hend := unitEnded_planEnds (freezeNoted (linksStopped (coresStopped s p) p) p (partAt s p)) p
  have hrg : ∀ i j, j < 5 → rg (planEnds (freezeNoted (linksStopped (coresStopped s p) p) p (partAt s p)) p) i j =
      rg (freezeNoted (linksStopped (coresStopped s p) p) p (partAt s p)) i j := fun i j hj =>
    rg_eq_of_regsKept_subFrom5 hend.counts (hend.fields.same .variant (by decide)) hj
  refine ⟨?_, ?_, ?_, fun u hu hs => ?_⟩
  · rw [planState, hrg _ _ (by decide)]
    change planState _ p = 4
    rw [planState_freezeNoted, planState,
      rg_eq_of_regsKept_subFrom5 (regsKept_linksStopped _ p) (hlinks.same .variant (by decide)) (j := 1) (by decide)]
    exact planState_coresStopped s p
  · rw [hrg _ _ (by decide), rg_freezeNoted_beat]
    exact (hlinks.same .beat (by decide)).trans (hstop.same .beat (by decide))
  · obtain ⟨r, q, hpart⟩ := hend.part
    exact ⟨r, q, (partAt s p).resetting, by rw [hpart, partAt_freezeNoted]; rfl⟩
  · obtain ⟨n, hn⟩ := coreAt_coresStopped hu hs
    exact ⟨n, by rw [hend.fields.coreAt_eq (by decide), hnote.coreAt_eq (by decide), hlinks.coreAt_eq (by decide), hn]⟩

/-- Marking the partition for its plan reset leaves the rest of the freeze as it is. -/
theorem Frozen.resetting {s t : State} {p : Nat} (h : Frozen s p t) : Frozen s p (setPart t p { partAt t p with resetting := true }) := by
  obtain ⟨r, q, b, hpart⟩ := h.part
  exact ⟨h.state, h.beat, ⟨r, q, true, by rw [partAt_setPart, hpart]⟩, h.cores⟩

/-- A RUNNING partition with an alarm freezes at the edge, unless its release waits for the freeze. -/
theorem frozen_edgePart {s : State} {p : Nat} (b : Nat) (ha : (partAt s p).alarm = true) (hr : (partAt s p).relPending = false) :
    Frozen s p (edgePart b s p) := by
  rw [edgePart, if_pos ha, freeze_eq hr]
  dsimp only
  split
  · exact (frozen_planEnds s p).resetting
  · exact frozen_planEnds s p

/-- Settles O32: the freeze by `frozen_edgePart`, the check by `stopped_edgePart`. -/
theorem edgeFreezesAndChecksPartitions : Obligations.EdgeFreezesAndChecksPartitions := by
  intro s p b _ _
  refine ⟨fun ha hr => ?_, fun ha he u hu ho => stopped_edgePart ha he hu ho, fun ha he hf => edgePart_of_ended b ha he hf⟩
  have h := frozen_edgePart b ha hr
  obtain ⟨r, q, c, hpart⟩ := h.part
  refine ⟨h.state, h.beat, by rw [hpart]; rfl, by rw [hpart]; rfl, by rw [hpart]; rfl, fun u hu hu' => ?_⟩
  obtain ⟨n, hn⟩ := h.cores u hu hu'
  dsimp only
  rw [hn]
  exact ⟨rfl, rfl, rfl, rfl, rfl, rfl, rfl, rfl, rfl, rfl, rfl, rfl, rfl, rfl, rfl, rfl, rfl, rfl⟩

end Sys2Proof
end

section
/-! SUPPORT. Packed vectors (O20): little-endian bytes as one number, its parts, and the codes packed in it. -/

namespace Sys2Proof

open Machine

/-! ### Little-endian bytes as numbers (R8) -/

theorem leBytes_drop (o : Nat) : ∀ n v : Nat, (leBytes n v).drop o = leBytes (n - o) (v / 256 ^ o) := by
  induction o with
  | zero => simp
  | succ o ih =>
    rintro (_ | n) v
    · simp [leBytes]
    · rw [leBytes, List.drop_succ_cons, ih, Nat.add_sub_add_right, Nat.div_div_eq_div_mul, Nat.pow_succ']

theorem leBytes_take (k : Nat) : ∀ n v : Nat, (leBytes n v).take k = leBytes (min k n) v := by
  induction k with
  | zero => simp [leBytes]
  | succ k ih =>
    rintro (_ | n) v
    · simp [leBytes]
    · rw [leBytes, List.take_succ_cons, ih, Nat.add_min_add_right, leBytes]

theorem leNat_leBytes (n : Nat) : ∀ v : Nat, leNat (leBytes n v) = v % 256 ^ n := by
  induction n with
  | zero => simp [leBytes, leNat, Nat.mod_one]
  | succ n ih => intro v; rw [leBytes, leNat, ih, Nat.pow_succ', Nat.mod_mul, BitVec.toNat_ofNat]

theorem leAt_leBytes (m v o n : Nat) : leAt (leBytes m v) o n = v / 256 ^ o % 256 ^ min n (m - o) := by
  rw [leAt, leBytes_drop, leBytes_take, leNat_leBytes]

/-- The low `8 k` bits of a number hold every field that ends below them. -/
theorem bits_mod {v k lo w : Nat} (h : lo + w ≤ 8 * k) : bits (v % 256 ^ k) lo w = bits v lo w := by
  have hpow : 256 ^ k = 2 ^ lo * 2 ^ (8 * k - lo) := by
    rw [← Nat.pow_add, Nat.add_sub_cancel' (by omega), Nat.pow_mul]
  rw [bits, bits, hpow, Nat.mod_mul_right_div_self, Nat.mod_mod_of_dvd _ (Nat.pow_dvd_pow 2 (by omega))]

/-- A field of a number is a field of the number without its lowest bytes. -/
theorem bits_div (v o lo w : Nat) : bits (v / 256 ^ o) lo w = bits v (8 * o + lo) w := by
  rw [bits, bits, Nat.div_div_eq_div_mul, Nat.pow_add, Nat.pow_mul]

/-- A field that ends within the bytes of a number, read from the bytes that it lies in. -/
theorem bits_leAt_leBytes {m v lo w : Nat} (h : lo + w ≤ 8 * m) :
    bits (leAt (leBytes m v) (lo / 8) (w / 8 + 2)) (lo % 8) w = bits v lo w := by
  rw [leAt_leBytes, bits_mod (by omega), bits_div, Nat.div_add_mod]

/-! ### Packed codes (R42) -/

theorem bits_packNat (w : Nat) : ∀ (l : List Nat) (i : Nat) (h : i < l.length), bits (packNat w l) (i * w) w = l[i] % 2 ^ w := by
  intro l
  induction l with
  | nil => intro i h; cases h
  | cons c r ih =>
    rintro (_ | i) h
    · simp [bits, packNat]
    · have hrest : packNat w (c :: r) / 2 ^ w = packNat w r := by
        rw [packNat, Nat.add_mul_div_left _ _ (Nat.two_pow_pos w), Nat.div_eq_of_lt (Nat.mod_lt _ (Nat.two_pow_pos w)), Nat.zero_add]
      rw [List.getElem_cons_succ, ← ih i (Nat.lt_of_succ_lt_succ h), bits, bits, Nat.succ_mul, Nat.add_comm, Nat.pow_add,
        ← Nat.div_div_eq_div_mul, hrest]

/-- The bytes of a packed vector hold every element whole; the groups of FP6 elements are four elements in three bytes. -/
theorem element_within_packSize {f n i : Nat} (hf : f ≤ 10) (h : i < n) : i * fmtW f + fmtW f ≤ 8 * packSize f n := by
  interval_cases f <;> simp only [fmtW, packSize, ceilDiv] <;> omega

/-- Settles O20: an element's field of the packed number (`bits_packNat`) is what its bytes hold (`bits_leAt_leBytes`). -/
theorem packedVectorsReadBack : Obligations.PackedVectorsReadBack := by
  intro f l i hf hcodes h
  calc packGet f (packVec f l) i
      = bits (packNat (fmtW f) l) (i * fmtW f) (fmtW f) := bits_leAt_leBytes (element_within_packSize hf h)
    _ = l[i] % 2 ^ fmtW f := bits_packNat _ l i h
    _ = l[i] := Nat.mod_eq_of_lt (hcodes _ (List.getElem_mem h))

end Sys2Proof
end

section
/-! SUPPORT. Why O9 fails: its hypothesis reads DEBUG_LEVEL before the cycles up to the dispatch pass, and counting a storage error of a
unit that does not exist may change it in them. -/

namespace Sys2Proof

open Machine

/-! ### A storage error that counts in DEBUG_LEVEL (R220, R337) -/

/-- A CM word of die 0x2010: that die's count of corrected CM errors is sub-index 1 of entry 0x4010 + 0x2010 (`bumpCorr`), which is
DEBUG_LEVEL. The module has no such die; `ErrsFitted` rules the word out, but O9 does not assume it. -/
def strayWord : Nat := cmAddr (192 * 0x2010) 0

/-- A no-op MM for any issue cycle, at the first place of a list. -/
def noopItem : PItem :=
  { raw := BitVec.ofNat 512 (0x10 + 0xFFFF * 2 ^ 32), lm := false, rep := 0, idx := 0, depth := 0, ready := 0, bad := false }

/-- In a RUNNING partition core 0 has a no-op MM to take, and a write that adds to the stray word, which holds a correctable error, lands in
the present cycle. DEBUG_LEVEL is 0, and a break is set on descriptor 1 of any core. -/
def strayErrorState : State :=
  { State.reset with
    regs := [(rkey 0x2120 1, 3), (rkey 0x7810 1, 1), (rkey 0x7810 2, 0xFFFF), (rkey 0x7810 3, 1)]
    parts := [(0, { segs := [(1, 1)], alarm := true })]
    ecc := [(strayWord, 1)]
    cores := [(0, { pq := [noopItem], sliceEnd := 1,
                    lands := [{ due := 0, addr := strayWord, bytes := [0], acc := true, cnt := 0, tag := 0, pkt := none }] })] }

/-- The state of the dispatch, one cycle later. -/
def strayErrorTick : State := coreTick strayErrorState 0 1

/-- The landing write arms the break, and the dispatch's match writes BRK_HIT. -/
theorem strayErrorTick_breaks :
    rg strayErrorTick 0x6020 1 = 1 ∧ strayErrorTick.blobs = [] ∧ (dispatchOne strayErrorTick 0).blobs ≠ [] := by decide +kernel

/-- Ending a core's command leaves every STR, BLOB and TABLE entry alone. -/
theorem blobs_of_onCore {s t t' : State} {u : Nat} (hp : s.powered = true) (hu : u < coresOf s.variant) (h : onCore s u t = .next t') :
    t'.blobs = t.blobs := by
  rw [onCore_next hp hu] at h
  cases h
  rfl

/-- The core takes the no-op MM in this cycle, and it is legal. -/
theorem noopItem_dispatchable :
    let w := takeItem (countPhase strayErrorTick 0) 0 noopItem
    coreRuns strayErrorTick 0 = true ∧ (coreAt strayErrorTick 0).held = none ∧ (coreAt strayErrorTick 0).pq = [noopItem] ∧
      headOk strayErrorTick (coreAt strayErrorTick 0) noopItem = true ∧
      checkDesc (setCore w 0 { coreAt w 0 with phase := dPhase noopItem.raw }) 0 noopItem.lm noopItem.raw = (noopItem.raw, none) ∧
      engineOf (dOpc noopItem.raw) = 1 := by
  decide +kernel

/-- Refutes O9: in `strayErrorState` DEBUG_LEVEL is 0, but the cycle that passes before the dispatch raises it to 1 (`strayErrorTick_breaks`),
so that the descriptor matches an armed break and BRK_HIT, which the frame of O9 keeps, is written. -/
theorem not_dispatchCountsAndQueues : ¬ Obligations.DispatchCountsAndQueues := by
  intro h
  have hcore : 0 < coresOf strayErrorState.variant := by decide
  have hlevel : rg strayErrorState 0x6020 1 = 0 := rfl
  obtain ⟨hruns, hheld, hpq, hhead, hlegal, hmxe⟩ := noopItem_dispatchable
  obtain ⟨t', ht, -, -, -, -, -, -, -, -, -, -, hframe⟩ := h strayErrorState 0 1 noopItem [] noopItem.raw rfl hcore hlevel hruns hheld
    hpq hhead rfl hlegal hmxe.ge (hmxe.trans_le (by decide))
  have hkept : t'.blobs = strayErrorTick.blobs := hframe.fields.same .blobs (by decide)
  have hended : t'.blobs = (dispatchOne strayErrorTick 0).blobs := blobs_of_onCore rfl hcore ht
  obtain ⟨-, hbefore, hafter⟩ := strayErrorTick_breaks
  exact hafter (hended.symm.trans (hkept.trans hbefore))

end Sys2Proof
end

section
/-! SUPPORT. Tiles as the engines write them: what a slot holds after a write, after clearing a range of slots, and after filtering. -/

namespace Sys2Proof

open Machine

/-! ### Keyed stores -/

theorem kget_filter {α : Type} (m : KMap α) (f : Nat → Bool) (n : Nat) :
    kget (m.filter (fun p => f p.1)) n = if f n then kget m n else none := by
  induction m with
  | nil => simp [kget]
  | cons p r ih =>
    obtain ⟨k, v⟩ := p
    by_cases hk : k = n
    · subst hk
      cases hf : f k <;> simp [kget, hf, ih]
    · cases hf : f k <;> simp [kget, hf, hk, ih]

theorem kget_kput_other {α : Type} [DecidableEq α] (d : α) (m : KMap α) (n : Nat) (v : α) (j : Nat) (h : j ≠ n) :
    kget (kput d m n v) j = kget m j := by
  unfold kput
  split
  · rw [kget_kdel, if_neg h]
  · rw [kget_kset, if_neg h]

/-! ### Slots of a tile (R95) -/

theorem tileKey_inj {t k a b : Nat} (ha : a < 8192) (hb : b < 8192) : tileKey t a = tileKey k b ↔ t = k ∧ a = b := by
  unfold tileKey
  omega

theorem tileGet_tileSet (x : CoreSt) (t slot v k a : Nat) :
    tileGet (tileSet x t slot v) k a = if tileKey k a = tileKey t slot then v % 2 ^ 128 else tileGet x k a := by
  simp only [tileGet, tileSet, kget_kput]
  split <;> simp [BitVec.toNat_ofNat]

/-- A slot after a tile store keeps only the elements whose keys a test admits. -/
theorem tileGet_filter {x y : CoreSt} {f : Nat → Bool} (h : y.tile = x.tile.filter (fun p => f p.1)) (k a : Nat) :
    tileGet y k a = if f (tileKey k a) then tileGet x k a else 0 := by
  simp only [tileGet, h, kget_filter]
  split <;> rfl

theorem tileGet_congr {x y : CoreSt} (h : y.tile = x.tile) (k a : Nat) : tileGet y k a = tileGet x k a := by rw [tileGet, tileGet, h]

end Sys2Proof
end

section
/-! SUPPORT. When a VX descriptor reads its elements and writes its outputs (O19): the cycles of its streaming hand out the elements in
consecutive ranges. -/

namespace Sys2Proof

open Machine

/-! ### Consecutive ranges -/

/-- The numbers from `lo` up to but without `hi`. -/
def interval (lo hi : Nat) : List Nat := (List.range (hi - lo)).map (fun i => lo + i)

theorem interval_append {a b c : Nat} (hab : a ≤ b) (hbc : b ≤ c) : interval a b ++ interval b c = interval a c := by
  have hlen : c - a = (b - a) + (c - b) := by omega
  have hlo : ∀ i, a + (b - a + i) = b + i := by omega
  simp [interval, hlen, List.range_add, Function.comp_def, hlo]

/-- Ranges that follow one another make up one range. -/
theorem flatten_intervals {h : Nat → Nat} (hmono : Monotone h) (n : Nat) :
    ((List.range n).map (fun p => interval (h p) (h (p + 1)))).flatten = interval (h 0) (h n) := by
  induction n with
  | zero => simp [interval]
  | succ n ih =>
    rw [List.range_succ, List.map_append, List.flatten_append, ih]
    simpa using interval_append (hmono n.zero_le) (hmono n.le_succ)

/-- Items that are dealt out by the ranges in which their numbers `f` fall are each dealt out once. -/
theorem flatten_filters_perm {h : Nat → Nat} (hmono : Monotone h) (h0 : h 0 = 0) (f : Nat → Nat) (l : List Nat) (n : Nat) :
    (((List.range n).map (fun p => l.filter (fun k => decide (h p ≤ f k ∧ f k < h (p + 1))))).flatten).Perm
      (l.filter (fun k => decide (f k < h n))) := by
  induction n with
  | zero => simp [h0]
  | succ n ih =>
    have hstep : h n ≤ h (n + 1) := hmono n.le_succ
    have hsplit := List.filter_append_perm (fun k => decide (f k < h n)) (l.filter (fun k => decide (f k < h (n + 1))))
    have hlow : ∀ k, (decide (f k < h n) && decide (f k < h (n + 1))) = decide (f k < h n) := by intro k; simp; omega
    have hhigh : ∀ k, (!decide (f k < h n) && decide (f k < h (n + 1))) = decide (h n ≤ f k ∧ f k < h (n + 1)) := by
      intro k
      rw [Bool.eq_iff_iff]
      simp
    simp only [List.filter_filter, hlow, hhigh] at hsplit
    rw [List.range_succ, List.map_append, List.flatten_append]
    simpa using (ih.append_right _).trans hsplit

/-! ### The groups of the streaming cycles (R162, R163) -/

theorem vxS_pos (v : Variant) (d : BitVec 512) : 0 < vxS v d := Nat.lt_of_lt_of_le Nat.one_pos (Nat.le_max_left ..)

/-- How many elements the streaming cycles before place `p` handle when streaming begins at place `a`. -/
def vxHandled (v : Variant) (d : BitVec 512) (a p : Nat) : Nat := min (p - a) (vxS v d) * (dM d * dN d) / vxS v d

theorem vxHandled_mono (v : Variant) (d : BitVec 512) (a : Nat) : Monotone (vxHandled v d a) := fun p q h =>
  Nat.div_le_div_right (Nat.mul_le_mul_right _ (by omega))

theorem vxHandled_zero (v : Variant) (d : BitVec 512) (a : Nat) : vxHandled v d a 0 = 0 := by simp [vxHandled]

theorem vxHandled_all {v : Variant} {d : BitVec 512} {a p : Nat} (h : a + vxS v d ≤ p) : vxHandled v d a p = dM d * dN d := by
  rw [vxHandled, Nat.min_eq_right (by omega), Nat.mul_div_cancel_left _ (vxS_pos v d)]

/-- The group of the cycle at place `p` when streaming begins at place `a`. -/
def vxGroupFrom (v : Variant) (d : BitVec 512) (a p : Nat) : Nat × Nat :=
  if a ≤ p ∧ p < a + vxS v d then vxGroup v d (p - a) else (0, 0)

theorem vxReadGroup_eq (v : Variant) (d : BitVec 512) (p : Nat) : vxReadGroup v d p = vxGroupFrom v d (vxAD d).1 p := rfl

theorem vxWriteGroup_eq (v : Variant) (d : BitVec 512) (p : Nat) : vxWriteGroup v d p = vxGroupFrom v d ((vxAD d).1 + (vxAD d).2) p := rfl

/-- In a streaming cycle the group is what the cycle adds to what has been handled, in any other it is empty. -/
theorem vxGroupFrom_cases (v : Variant) (d : BitVec 512) (a p : Nat) :
    vxGroupFrom v d a p = (vxHandled v d a p, vxHandled v d a (p + 1)) ∨
      (vxGroupFrom v d a p = (0, 0) ∧ vxHandled v d a (p + 1) = vxHandled v d a p) := by
  by_cases h : a ≤ p ∧ p < a + vxS v d
  · refine .inl ?_
    rw [vxGroupFrom, if_pos h, vxGroup, vxHandled, vxHandled, Nat.min_eq_left (by omega), Nat.min_eq_left (by omega),
      Nat.sub_add_comm h.1]
  · refine .inr ⟨if_neg h, ?_⟩
    have hmin : min (p + 1 - a) (vxS v d) = min (p - a) (vxS v d) := by omega
    rw [vxHandled, vxHandled, hmin]

theorem interval_vxGroupFrom (v : Variant) (d : BitVec 512) (a p : Nat) :
    interval (vxGroupFrom v d a p).1 (vxGroupFrom v d a p).2 = interval (vxHandled v d a p) (vxHandled v d a (p + 1)) := by
  rcases vxGroupFrom_cases v d a p with h | ⟨h, hsame⟩
  · rw [h]
  · simp [interval, h, hsame]

theorem mem_vxGroupFrom (v : Variant) (d : BitVec 512) (a p e : Nat) :
    ((vxGroupFrom v d a p).1 ≤ e ∧ e < (vxGroupFrom v d a p).2) ↔ (vxHandled v d a p ≤ e ∧ e < vxHandled v d a (p + 1)) := by
  rcases vxGroupFrom_cases v d a p with h | ⟨h, hsame⟩
  · rw [h]
  · rw [h, hsame]
    omega

/-! ### What an output waits for (R150, R158, R163) -/

theorem getLastD_lt {l : List Nat} {a b : Nat} (h : ∀ x ∈ l, x < b) (ha : a < b) : l.getLastD a < b := by
  rcases List.mem_cons.1 (List.getLastD_mem_cons (l := l) (a := a)) with he | he
  · rwa [he]
  · exact h _ he

/-- An element (i, j) of an m × n shape has its index in the shape. -/
theorem index_lt {i j m n : Nat} (hi : i < m) (hj : j < n) : i * n + j < m * n :=
  calc i * n + j < i * n + n := by omega
    _ = (i + 1) * n := (Nat.succ_mul i n).symm
    _ ≤ m * n := Nat.mul_le_mul_right n hi

theorem leavesOf_lt {d : BitVec 512} {k e : Nat} (hk : k < if vAX d = 0 then dM d else dN d) (he : e ∈ leavesOf d k) :
    e < dM d * dN d := by
  unfold leavesOf at he
  split at he <;> rename_i hax <;> simp only [hax, if_true, if_false] at hk <;> simp only [List.mem_map, List.mem_range] at he
  · obtain ⟨j, hj, rfl⟩ := he
    exact index_lt hk hj
  · obtain ⟨i, hi, rfl⟩ := he
    exact index_lt hi hk

theorem blockOf_lt {d : BitVec 512} {k e : Nat} (hk : k < dM d * dN d) (he : e ∈ blockOf d k) : e < dM d * dN d := by
  have hn : 0 < dN d := Nat.pos_of_mul_pos_left (by omega : 0 < dM d * dN d)
  unfold blockOf at he
  dsimp only at he
  split at he <;> simp only [List.mem_map, List.mem_filter, List.mem_range] at he
  · obtain ⟨j, ⟨hj, -⟩, rfl⟩ := he
    exact index_lt ((Nat.div_lt_iff_lt_mul hn).2 hk) hj
  · obtain ⟨i, ⟨hi, -⟩, rfl⟩ := he
    exact index_lt hi (Nat.mod_lt _ hn)

/-- Every output waits for an element of the shape. -/
theorem lastElem_lt {d : BitVec 512} {k : Nat} (hpos : 0 < dM d * dN d) (hk : k < vOutputs d) : lastElem d k < dM d * dN d := by
  unfold lastElem
  unfold vOutputs at hk
  split
  · rename_i hred
    rw [if_pos hred] at hk
    exact getLastD_lt (fun e he => leavesOf_lt hk he) hpos
  · rename_i hred
    rw [if_neg hred] at hk
    split
    · exact getLastD_lt (fun e he => blockOf_lt hk he) hk
    · exact hk

/-! ### All elements are read once, and all outputs written once -/

/-- What happens in the cycles of a descriptor, one after another. -/
def vxAlong (v : Variant) (q : QDesc) (f : Nat → List Nat) : List Nat := ((List.range (vxEnd v (vxBegin q))).map f).flatten

theorem vxEnd_begin {v : Variant} {q : QDesc} (h : isNoop q.raw = false) :
    vxEnd v (vxBegin q) = (vxAD q.raw).1 + vxS v q.raw + (vxAD q.raw).2 := by simp [vxEnd, vxBegin, h]

/-- Groups handed out from a place from which streaming ends in time make up the whole shape, in ascending order. -/
theorem vxAlong_groups {v : Variant} {q : QDesc} {a : Nat} (ha : a + vxS v q.raw ≤ vxEnd v (vxBegin q)) :
    vxAlong v q (fun p => interval (vxGroupFrom v q.raw a p).1 (vxGroupFrom v q.raw a p).2) = List.range (dM q.raw * dN q.raw) := by
  simp only [vxAlong, interval_vxGroupFrom, flatten_intervals (vxHandled_mono v q.raw a), vxHandled_zero, vxHandled_all ha]
  simp [interval]

theorem vxAlong_outputs {v : Variant} {q : QDesc} (hop : dOpc q.raw = 0x20) (h : isNoop q.raw = false) :
    (vxAlong v q (vxOutputsAt v q.raw)).Perm (List.range (vOutputs q.raw)) := by
  have hend : (vxAD q.raw).1 + (vxAD q.raw).2 + vxS v q.raw ≤ vxEnd v (vxBegin q) := by rw [vxEnd_begin h]; omega
  by_cases hlate : isReduce (vOp q.raw) ∨ vOp q.raw = 24
  · have hpos : 0 < dM q.raw * dN q.raw := by
      simp [isNoop, hop, usesShape] at h
      exact Nat.mul_pos (by omega) (by omega)
    have hat : vxOutputsAt v q.raw = fun p => (List.range (vOutputs q.raw)).filter (fun k =>
        decide (vxHandled v q.raw ((vxAD q.raw).1 + (vxAD q.raw).2) p ≤ lastElem q.raw k ∧
          lastElem q.raw k < vxHandled v q.raw ((vxAD q.raw).1 + (vxAD q.raw).2) (p + 1))) := by
      funext p
      simp only [vxOutputsAt, if_pos hlate, vxWriteGroup_eq, mem_vxGroupFrom]
    have hperm := flatten_filters_perm (vxHandled_mono v q.raw ((vxAD q.raw).1 + (vxAD q.raw).2)) (vxHandled_zero ..)
      (lastElem q.raw) (List.range (vOutputs q.raw)) (vxEnd v (vxBegin q))
    rw [vxHandled_all hend, List.filter_eq_self.2 fun k hk => by simpa using lastElem_lt hpos (List.mem_range.1 hk)] at hperm
    rwa [vxAlong, hat]
  · have hat : vxOutputsAt v q.raw = fun p => interval (vxGroupFrom v q.raw ((vxAD q.raw).1 + (vxAD q.raw).2) p).1
        (vxGroupFrom v q.raw ((vxAD q.raw).1 + (vxAD q.raw).2) p).2 := by
      funext p
      simp only [vxOutputsAt, if_neg hlate, vxWriteGroup_eq]
      rfl
    have hcount : vOutputs q.raw = dM q.raw * dN q.raw := if_neg fun hr => hlate (.inl hr)
    rw [hat, vxAlong_groups hend, hcount]

end Sys2Proof
end

section
/-! SUPPORT. Packed vectors in memory, bit by bit (O19): what writing one element leaves of the others. -/

namespace Sys2Proof

open Machine

/-! ### Bits of numbers and of memory (R7, R8) -/

theorem testBit_bits (v lo w j : Nat) : (bits v lo w).testBit j = (decide (j < w) && v.testBit (lo + j)) := by
  rw [bits, Nat.testBit_mod_two_pow, Nat.testBit_div_two_pow, Nat.add_comm]

/-- Replacing a field of a number changes its bits in that field alone. -/
theorem testBit_replaceField {v lo w c : Nat} (hc : c < 2 ^ w) (b : Nat) :
    (v - bits v lo w * 2 ^ lo + c * 2 ^ lo).testBit b = if lo ≤ b ∧ b < lo + w then c.testBit (b - lo) else v.testBit b := by
  have hlow := Nat.mod_lt v (Nat.two_pow_pos lo)
  have hparts : ∀ x, 2 ^ lo * (2 ^ w * (v / 2 ^ lo / 2 ^ w) + x) + v % 2 ^ lo =
      2 ^ lo * (2 ^ w * (v / 2 ^ lo / 2 ^ w)) + x * 2 ^ lo + v % 2 ^ lo := fun x => by ring
  have hv : 2 ^ lo * (2 ^ w * (v / 2 ^ lo / 2 ^ w) + bits v lo w) + v % 2 ^ lo = v := by
    rw [bits, Nat.div_add_mod, Nat.div_add_mod]
  have hnew : v - bits v lo w * 2 ^ lo + c * 2 ^ lo = 2 ^ lo * (2 ^ w * (v / 2 ^ lo / 2 ^ w) + c) + v % 2 ^ lo := by
    have hold := hparts (bits v lo w)
    have hc := hparts c
    omega
  have hold : v.testBit b = (2 ^ lo * (2 ^ w * (v / 2 ^ lo / 2 ^ w) + bits v lo w) + v % 2 ^ lo).testBit b := by rw [hv]
  have hfield : bits v lo w < 2 ^ w := Nat.mod_lt _ (Nat.two_pow_pos w)
  rw [hnew, hold, Nat.testBit_two_pow_mul_add _ hlow, Nat.testBit_two_pow_mul_add _ hlow, Nat.testBit_two_pow_mul_add _ hc,
    Nat.testBit_two_pow_mul_add _ hfield]
  by_cases h1 : b < lo
  · simp [h1, Nat.not_le.2 h1]
  · by_cases h2 : b - lo < w
    · simp [h1, h2, show lo ≤ b ∧ b < lo + w by omega]
    · simp [h1, h2, show ¬(lo ≤ b ∧ b < lo + w) by omega]

/-- Bit `b` of the bytes from an address. -/
def memBit (m : List Host.Cell) (a b : Nat) : Bool := (mget m (a + b / 8)).getLsbD (b % 8)

theorem memBit_congr {m m' : List Host.Cell} {a b : Nat} (h : mget m' (a + b / 8) = mget m (a + b / 8)) :
    memBit m' a b = memBit m a b := by rw [memBit, memBit, h]

theorem memBit_add (m : List Host.Cell) (a o b : Nat) : memBit m (a + o) b = memBit m a (8 * o + b) := by
  have hbyte : a + o + b / 8 = a + (8 * o + b) / 8 := by omega
  have hbit : b % 8 = (8 * o + b) % 8 := by omega
  rw [memBit, memBit, hbyte, hbit]

theorem testBit_leNat_mread (m : List Host.Cell) (n : Nat) :
    ∀ a b, (leNat (mread m a n)).testBit b = (decide (b < 8 * n) && memBit m a b) := by
  induction n with
  | zero => simp [mread, leNat]
  | succ n ih =>
    intro a b
    have hbyte : (mget m a).toNat < 2 ^ 8 := (mget m a).isLt
    rw [mread, leNat, show 256 = 2 ^ 8 from rfl, Nat.add_comm, Nat.testBit_two_pow_mul_add _ hbyte, ih]
    by_cases hb : b < 8
    · simp [hb, memBit, Nat.div_eq_of_lt hb, Nat.mod_eq_of_lt hb, BitVec.getLsbD, show b < 8 * (n + 1) by omega]
    · have haddr : a + 1 + (b - 8) / 8 = a + b / 8 := by omega
      have hmod : (b - 8) % 8 = b % 8 := by omega
      have hlt : b - 8 < 8 * n ↔ b < 8 * (n + 1) := by omega
      simp [hb, memBit, haddr, hmod, hlt]

theorem testBit_leBytes (n : Nat) : ∀ v i j (h : i < (leBytes n v).length), j < 8 → (leBytes n v)[i].getLsbD j = v.testBit (8 * i + j) := by
  induction n with
  | zero => intro v i j h; cases h
  | succ n ih =>
    rintro v (_ | i) j h hj
    · change (BitVec.ofNat 8 v).getLsbD j = _
      rw [BitVec.getLsbD_ofNat]
      simp [hj]
    · simp only [leBytes, List.getElem_cons_succ]
      rw [ih _ _ _ _ hj, show v / 256 = v / 2 ^ 8 from rfl, Nat.testBit_div_two_pow]
      congr 1
      omega

/-- Writing a number changes the bits of its bytes alone. -/
theorem memBit_write (m : List Host.Cell) (a n v b : Nat) :
    memBit (mwrite m a (leBytes n v)) a b = if b < 8 * n then v.testBit b else memBit m a b := by
  split
  · have hi : b / 8 < (leBytes n v).length := by rw [leBytes_length]; omega
    rw [memBit, mget_mwrite_in _ _ _ _ hi, testBit_leBytes _ _ _ _ _ (by omega), Nat.div_add_mod]
  · exact memBit_congr (mget_mwrite_out _ _ _ _ (by rw [leBytes_length]; omega))

/-- The bytes from `a` with the field of `w` bits at bit `lo` replaced, its bytes being read, changed and written back. -/
def writeField (m : List Host.Cell) (a lo w c : Nat) : List Host.Cell :=
  let k := (lo % 8 + w + 7) / 8
  let old := leNat (mread m (a + lo / 8) k)
  mwrite m (a + lo / 8) (leBytes k (old - bits old (lo % 8) w * 2 ^ (lo % 8) + c * 2 ^ (lo % 8)))

theorem memBit_writeField (m : List Host.Cell) (a lo b : Nat) {w c : Nat} (hc : c < 2 ^ w) :
    memBit (writeField m a lo w c) a b = if lo ≤ b ∧ b < lo + w then c.testBit (b - lo) else memBit m a b := by
  unfold writeField
  dsimp only
  by_cases hb : b / 8 < lo / 8
  · rw [if_neg (by omega)]
    exact memBit_congr (mget_mwrite_out _ _ _ _ (by omega))
  · obtain ⟨b, rfl⟩ : ∃ k, b = 8 * (lo / 8) + k := ⟨b - 8 * (lo / 8), by omega⟩
    rw [← memBit_add, memBit_write, testBit_replaceField hc, testBit_leNat_mread, ← memBit_add]
    by_cases hin : lo % 8 ≤ b ∧ b < lo % 8 + w
    · have hk : b < 8 * ((lo % 8 + w + 7) / 8) := by omega
      have hsub : b - lo % 8 = 8 * (lo / 8) + b - lo := by omega
      rw [if_pos hk, if_pos hin, if_pos (by omega), hsub]
    · have hout : ¬(lo ≤ 8 * (lo / 8) + b ∧ 8 * (lo / 8) + b < lo + w) := by omega
      rw [if_neg hin, if_neg hout]
      split <;> simp_all

/-- Bytes that hold no bit of the field stay. -/
theorem mget_writeField {m : List Host.Cell} {a lo w c x : Nat} (h : x < a + lo / 8 ∨ a + (lo + w + 7) / 8 ≤ x) :
    mget (writeField m a lo w c) x = mget m x :=
  mget_mwrite_out _ _ _ _ (by rw [leBytes_length]; omega)

/-! ### Elements of packed vectors (R42) -/

/-- The code in memory of element `i` of the packed vector at `a`. -/
def packedCode (m : List Host.Cell) (f a i : Nat) : Nat :=
  bits (leNat (mread m (elemSpan f a i).1 (elemSpan f a i).2)) (i * fmtW f % 8) (fmtW f)

theorem testBit_packedCode (m : List Host.Cell) (f a i j : Nat) :
    (packedCode m f a i).testBit j = (decide (j < fmtW f) && memBit m a (i * fmtW f + j)) := by
  rw [packedCode, testBit_bits, testBit_leNat_mread]
  dsimp only [elemSpan]
  rw [memBit_add, ← Nat.add_assoc, Nat.div_add_mod]
  by_cases hj : j < fmtW f
  · simp [hj, show i * fmtW f % 8 + j < 8 * ((i * fmtW f % 8 + fmtW f + 7) / 8) by omega]
  · simp [hj]

/-- The bits that the write of element `i` of `n` takes: its own, and the padding with those of the last one. -/
def packedWidth (f n i : Nat) : Nat := if i + 1 = n then 8 * packSize f n - i * fmtW f else fmtW f

theorem fmtW_le_packedWidth {f n i : Nat} (hf : f ≤ 10) (hi : i < n) : fmtW f ≤ packedWidth f n i := by
  have hin := element_within_packSize hf hi
  unfold packedWidth
  split <;> omega

theorem packedWidth_within {f n i : Nat} (hf : f ≤ 10) (hi : i < n) : i * fmtW f + packedWidth f n i ≤ 8 * packSize f n := by
  have hin := element_within_packSize hf hi
  unfold packedWidth
  split <;> omega

theorem writePacked_mem (s : State) (f a n i c : Nat) :
    (writePacked s f a n i c).mem = writeField s.mem a (i * fmtW f) (packedWidth f n i) (c % 2 ^ fmtW f) := rfl

/-- Writing an element changes the bits that its write takes alone. -/
theorem memBit_writePacked {f n i : Nat} (hf : f ≤ 10) (hi : i < n) (s : State) (a c b : Nat) :
    memBit (writePacked s f a n i c).mem a b =
      if i * fmtW f ≤ b ∧ b < i * fmtW f + packedWidth f n i then (c % 2 ^ fmtW f).testBit (b - i * fmtW f) else memBit s.mem a b := by
  rw [writePacked_mem]
  exact memBit_writeField _ _ _ _ ((Nat.mod_lt _ (Nat.two_pow_pos _)).trans_le (Nat.pow_le_pow_right (by decide) (fmtW_le_packedWidth hf hi)))

/-- Bytes outside the packed vector stay. -/
theorem mget_writePacked {f n i : Nat} (hf : f ≤ 10) (hi : i < n) (s : State) {a x : Nat} (c : Nat) (h : x < a ∨ a + packSize f n ≤ x) :
    mget (writePacked s f a n i c).mem x = mget s.mem x := by
  have hw := packedWidth_within hf hi
  rw [writePacked_mem]
  exact mget_writeField (by omega)

theorem packedCode_writePacked_same {f n i : Nat} (hf : f ≤ 10) (hi : i < n) (s : State) (a c : Nat) :
    packedCode (writePacked s f a n i c).mem f a i = c % 2 ^ fmtW f := by
  refine Nat.eq_of_testBit_eq fun j => ?_
  rw [testBit_packedCode, memBit_writePacked hf hi]
  by_cases hj : j < fmtW f
  · have hw := fmtW_le_packedWidth hf hi
    simp [hj, show j < packedWidth f n i by omega]
  · simp [hj, Nat.testBit_mod_two_pow]

/-- Elements of one vector do not overlap, and padding holds no element. -/
theorem packedCode_writePacked_other {f n i j : Nat} (hf : f ≤ 10) (hi : i < n) (hj : j < n) (hne : j ≠ i) (s : State) (a c : Nat) :
    packedCode (writePacked s f a n i c).mem f a j = packedCode s.mem f a j := by
  refine Nat.eq_of_testBit_eq fun b => ?_
  rw [testBit_packedCode, testBit_packedCode, memBit_writePacked hf hi]
  by_cases hb : b < fmtW f
  · have hout : ¬(i * fmtW f ≤ j * fmtW f + b ∧ j * fmtW f + b < i * fmtW f + packedWidth f n i) := by
      rcases Nat.lt_or_gt_of_ne hne with hlt | hgt
      · have hmul := Nat.mul_le_mul_right (fmtW f) (Nat.succ_le_of_lt hlt)
        rw [Nat.succ_mul] at hmul
        omega
      · have hmul := Nat.mul_le_mul_right (fmtW f) (Nat.succ_le_of_lt hgt)
        rw [Nat.succ_mul] at hmul
        rw [packedWidth, if_neg (by omega)]
        omega
    rw [if_neg hout]
  · simp [hb]

/-- An element of a vector depends on the vector's bytes alone. -/
theorem packedCode_congr {m m' : List Host.Cell} {f n i a : Nat} (hf : f ≤ 10) (hi : i < n)
    (h : ∀ x, a ≤ x → x < a + packSize f n → mget m' x = mget m x) : packedCode m' f a i = packedCode m f a i := by
  have hin := element_within_packSize hf hi
  refine Nat.eq_of_testBit_eq fun b => ?_
  rw [testBit_packedCode, testBit_packedCode]
  by_cases hb : b < fmtW f
  · rw [memBit_congr (h _ (by omega) (by omega))]
  · simp [hb]

end Sys2Proof
end

section
/-! SUPPORT. Where a VX destination holds its elements, and what writing one of them changes (O19). -/

namespace Sys2Proof

open Machine

/-! ### What a destination holds (R95, R126, R132) -/

/-- The address of row (or column) `i` of a destination in memory. -/
def destRow (u o i : Nat) : Nat := flatAddr u 0 (offOf (oAddr o) + i * oStride o)

/-- Rows do not overlap when a packed row is no longer than the stride. -/
theorem destRow_apart {u o i j size : Nat} (hs : size ≤ oStride o) (h : i ≠ j) :
    destRow u o i + size ≤ destRow u o j ∨ destRow u o j + size ≤ destRow u o i := by
  simp only [destRow, flatAddr, cmAddr]
  rcases Nat.lt_or_gt_of_ne h with hlt | hgt
  · have hmul := Nat.mul_le_mul_right (oStride o) (Nat.succ_le_of_lt hlt)
    rw [Nat.succ_mul] at hmul
    omega
  · have hmul := Nat.mul_le_mul_right (oStride o) (Nat.succ_le_of_lt hgt)
    rw [Nat.succ_mul] at hmul
    omega

theorem destElem_of_tile {o : Nat} (hk : oKind o = 1) (s : State) (u m n e : Nat) :
    destElem s u o m n e = tileGet (coreAt s u) (oAddr o) (64 * (e / n) + e % n) := by simp [destElem, hk]

theorem destElem_of_vreg {o : Nat} (hk : oKind o = 2) (s : State) (u m n e : Nat) :
    destElem s u o m n e = ((kget (coreAt s u).vreg (oAddr o * 128 + e)).getD 0).toNat := by
  have hkey : (oAddr o + e / 128) * 128 + e % 128 = oAddr o * 128 + e := by omega
  simp [destElem, hk, vregGet, hkey]

theorem destElem_of_rows {o : Nat} (hk : oKind o = 5) (s : State) (u m n e : Nat) :
    destElem s u o m n e = packedCode s.mem (oFmt o) (destRow u o (e / n)) (e % n) := by simp [destElem, hk, packedCode, destRow]

theorem destElem_of_cols {o : Nat} (hk : oKind o = 6) (s : State) (u m n e : Nat) :
    destElem s u o m n e = packedCode s.mem (oFmt o) (destRow u o (e % n)) (e / n) := by simp [destElem, hk, packedCode, destRow]

/-! ### What a write makes of the state (R95, R132) -/

section Write

variable {o : Nat} (s : State) (u m n : Nat) (c : Nat × Nat)

theorem writeElem_tile (hk : oKind o = 1) :
    coreAt (writeElem s u o m n c) u = tileSet (coreAt s u) (oAddr o) (64 * (c.1 / n) + c.1 % n) c.2 ∧
      (writeElem s u o m n c).mem = s.mem := by
  simp only [writeElem, hk]
  exact ⟨coreAt_setCore .., rfl⟩

theorem writeElem_vreg (hk : oKind o = 2) :
    coreAt (writeElem s u o m n c) u =
        { coreAt s u with vreg := kput 0 (coreAt s u).vreg (oAddr o * 128 + c.1) (BitVec.ofNat 32 c.2) } ∧
      (writeElem s u o m n c).mem = s.mem := by
  have hkey : (oAddr o + c.1 / 128) * 128 + c.1 % 128 = oAddr o * 128 + c.1 := by omega
  simp only [writeElem, hk]
  refine ⟨(coreAt_setCore ..).trans ?_, rfl⟩
  rw [vregSet, hkey]

theorem writeElem_rows (hk : oKind o = 5) :
    writeElem s u o m n c = writePacked s (oFmt o) (destRow u o (c.1 / n)) n (c.1 % n) c.2 := by simp only [writeElem, hk, destRow]

theorem writeElem_cols (hk : oKind o = 6) :
    writeElem s u o m n c = writePacked s (oFmt o) (destRow u o (c.1 % n)) m (c.1 / n) c.2 := by simp only [writeElem, hk, destRow]

end Write

theorem coreAt_writePacked (s : State) (f a n i c u : Nat) : coreAt (writePacked s f a n i c) u = coreAt s u := rfl

/-! ### One write, read back -/

/-- The slots of a tile hold the shape, or the packed rows or columns do not overlap. -/
def DestFits (o m n : Nat) : Prop :=
  (oKind o = 1 ∧ m ≤ 128 ∧ n ≤ 64) ∨ oKind o = 2 ∨ (oKind o = 5 ∧ packSize (oFmt o) n ≤ oStride o) ∨
    (oKind o = 6 ∧ packSize (oFmt o) m ≤ oStride o)

/-- The bits of a code that a destination keeps. -/
def destWidth (o : Nat) : Nat := if oKind o = 1 then 128 else if oKind o = 2 then 32 else fmtW (oFmt o)

/-- Elements of a shape have their row and column in it. -/
theorem div_mod_lt {e m n : Nat} (he : e < m * n) : e / n < m ∧ e % n < n := by
  have hn : 0 < n := Nat.pos_of_mul_pos_left (by omega : 0 < m * n)
  exact ⟨(Nat.div_lt_iff_lt_mul hn).2 he, Nat.mod_lt _ hn⟩

theorem eq_of_div_mod {e e' n : Nat} (hd : e / n = e' / n) (hm : e % n = e' % n) : e = e' := by
  rw [← Nat.div_add_mod e n, ← Nat.div_add_mod e' n, hd, hm]

/-- Elements of a shape that a tile holds lie in slots of their own. -/
theorem tileSlot_lt {e m n : Nat} (hm : m ≤ 128) (hn : n ≤ 64) (he : e < m * n) : 64 * (e / n) + e % n < 8192 := by
  have h := div_mod_lt he
  omega

theorem tileSlot_inj {e e' m n : Nat} (hn : n ≤ 64) (he : e < m * n) (he' : e' < m * n)
    (h : 64 * (e / n) + e % n = 64 * (e' / n) + e' % n) : e = e' := by
  have hlt := div_mod_lt he
  have hlt' := div_mod_lt he'
  exact eq_of_div_mod (n := n) (by omega) (by omega)

/-- A packed vector in another row of a destination stays. -/
theorem packedCode_writePacked_otherRow {o size i j k l : Nat} (hf : oFmt o ≤ 10) (hs : packSize (oFmt o) size ≤ oStride o) (s : State) (u x : Nat)
    (hi : i ≠ j) (hk : k < size) (hl : l < size) :
    packedCode (writePacked s (oFmt o) (destRow u o i) size k x).mem (oFmt o) (destRow u o j) l =
      packedCode s.mem (oFmt o) (destRow u o j) l := by
  have hapart := destRow_apart (u := u) hs hi
  exact packedCode_congr hf hl fun a _ _ => mget_writePacked hf hk _ _ (by omega)

section ReadBack

variable {o m n : Nat} (hfit : DestFits o m n) (hf : oFmt o ≤ 10)
include hfit hf

/-- The element written takes its code. -/
theorem destElem_writeElem_same (s : State) (u : Nat) {c : Nat × Nat} (hc : c.1 < m * n) :
    destElem (writeElem s u o m n c) u o m n c.1 = c.2 % 2 ^ destWidth o := by
  obtain ⟨hrow, hcol⟩ := div_mod_lt hc
  rcases hfit with ⟨hk, -, -⟩ | hk | ⟨hk, -⟩ | ⟨hk, -⟩
  · rw [destElem_of_tile hk, (writeElem_tile s u m n c hk).1, tileGet_tileSet, if_pos rfl, destWidth, if_pos hk]
  · rw [destElem_of_vreg hk, (writeElem_vreg s u m n c hk).1, kget_kput, if_pos rfl]
    simp [destWidth, hk]
  · rw [destElem_of_rows hk, writeElem_rows _ _ _ _ _ hk, packedCode_writePacked_same hf hcol]
    simp [destWidth, hk]
  · rw [destElem_of_cols hk, writeElem_cols _ _ _ _ _ hk, packedCode_writePacked_same hf hrow]
    simp [destWidth, hk]

/-- The other elements stay. -/
theorem destElem_writeElem_other (s : State) (u : Nat) {c : Nat × Nat} {e : Nat} (hc : c.1 < m * n) (he : e < m * n) (hne : e ≠ c.1) :
    destElem (writeElem s u o m n c) u o m n e = destElem s u o m n e := by
  obtain ⟨hrow, hcol⟩ := div_mod_lt hc
  obtain ⟨hrow', hcol'⟩ := div_mod_lt he
  rcases hfit with ⟨hk, hm, hn⟩ | hk | ⟨hk, hs⟩ | ⟨hk, hs⟩
  · have hslot : tileKey (oAddr o) (64 * (e / n) + e % n) ≠ tileKey (oAddr o) (64 * (c.1 / n) + c.1 % n) := fun h =>
      hne (tileSlot_inj hn he hc ((tileKey_inj (tileSlot_lt hm hn he) (tileSlot_lt hm hn hc)).1 h).2)
    rw [destElem_of_tile hk, destElem_of_tile hk, (writeElem_tile s u m n c hk).1, tileGet_tileSet, if_neg hslot]
  · rw [destElem_of_vreg hk, destElem_of_vreg hk, (writeElem_vreg s u m n c hk).1, kget_kput, if_neg (by omega)]
  · rw [destElem_of_rows hk, destElem_of_rows hk, writeElem_rows _ _ _ _ _ hk]
    by_cases hr : c.1 / n = e / n
    · rw [hr]
      exact packedCode_writePacked_other hf hcol hcol' (fun h => hne (eq_of_div_mod hr.symm h)) ..
    · exact packedCode_writePacked_otherRow hf hs _ _ _ hr hcol hcol'
  · rw [destElem_of_cols hk, destElem_of_cols hk, writeElem_cols _ _ _ _ _ hk]
    by_cases hr : c.1 % n = e % n
    · rw [hr]
      exact packedCode_writePacked_other hf hrow hrow' (fun h => hne (eq_of_div_mod h hr.symm)) ..
    · exact packedCode_writePacked_otherRow hf hs _ _ _ hr hrow hrow'

end ReadBack

/-! ### Writes one after another -/

/-- Where a write gives its own element its value and leaves the others, writes of different elements do so one after another. -/
theorem foldl_writes {σ : Type} {f : σ → Nat × Nat → σ} {read : σ → Nat → Nat} {val : Nat → Nat} {D : Nat → Prop}
    (hsame : ∀ t c, D c.1 → read (f t c) c.1 = val c.2) (hother : ∀ t c e, D c.1 → D e → e ≠ c.1 → read (f t c) e = read t e)
    (l : List (Nat × Nat)) : ∀ s, (l.map Prod.fst).Nodup → (∀ c ∈ l, D c.1) →
      (∀ c ∈ l, read (l.foldl f s) c.1 = val c.2) ∧ ∀ e, D e → e ∉ l.map Prod.fst → read (l.foldl f s) e = read s e := by
  induction l with
  | nil => exact fun s _ _ => ⟨fun c hc => absurd hc List.not_mem_nil, fun e _ _ => rfl⟩
  | cons c r ih =>
    intro s hnodup hD
    rw [List.map_cons, List.nodup_cons] at hnodup
    obtain ⟨hnew, hnodup⟩ := hnodup
    obtain ⟨hc, hr⟩ := List.forall_mem_cons.1 hD
    obtain ⟨hwritten, hkept⟩ := ih (f s c) hnodup hr
    refine ⟨List.forall_mem_cons.2 ⟨?_, hwritten⟩, fun e he hout => ?_⟩
    · exact (hkept _ hc hnew).trans (hsame s c hc)
    · rw [List.map_cons, List.mem_cons, not_or] at hout
      exact (hkept e he hout.2).trans (hother s c e hc he hout.1)

/-- The elements of a list are written to a destination. -/
def writeElems (s : State) (u o m n : Nat) (l : List (Nat × Nat)) : State := l.foldl (fun t c => writeElem t u o m n c) s

section Frames

variable {o m n : Nat} {l : List (Nat × Nat)} (hl : ∀ c ∈ l, c.1 < m * n) (s : State) (u : Nat)
include hl

/-- Writes to a tile leave the other slots, the registers, the tags and the memories. -/
theorem writeElems_tile_frame (hk : oKind o = 1) (hm : m ≤ 128) (hn : n ≤ 64) :
    (writeElems s u o m n l).mem = s.mem ∧ (coreAt (writeElems s u o m n l) u).vreg = (coreAt s u).vreg ∧
      (coreAt (writeElems s u o m n l) u).tag = (coreAt s u).tag ∧
      ∀ k slot, slot < 8192 → (k = oAddr o → ∀ c ∈ l, slot ≠ 64 * (c.1 / n) + c.1 % n) →
        tileGet (coreAt (writeElems s u o m n l) u) k slot = tileGet (coreAt s u) k slot := by
  refine List.foldlRecOn (motive := fun t => t.mem = s.mem ∧ (coreAt t u).vreg = (coreAt s u).vreg ∧
    (coreAt t u).tag = (coreAt s u).tag ∧ ∀ k slot, slot < 8192 → (k = oAddr o → ∀ c ∈ l, slot ≠ 64 * (c.1 / n) + c.1 % n) →
      tileGet (coreAt t u) k slot = tileGet (coreAt s u) k slot) l _ ⟨rfl, rfl, rfl, fun _ _ _ _ => rfl⟩ ?_
  rintro t ⟨hmem, hvreg, htag, htile⟩ c hc
  obtain ⟨hcore, hkept⟩ := writeElem_tile t u m n c hk
  refine ⟨hkept.trans hmem, by rw [hcore]; exact hvreg, by rw [hcore]; exact htag, fun k slot hslot hout => ?_⟩
  have hkey : tileKey k slot ≠ tileKey (oAddr o) (64 * (c.1 / n) + c.1 % n) := fun h => by
    obtain ⟨hk, hs⟩ := (tileKey_inj hslot (tileSlot_lt hm hn (hl c hc))).1 h
    exact hout hk c hc hs
  rw [hcore, tileGet_tileSet, if_neg hkey, htile k slot hslot hout]

omit hl in
/-- Writes to registers leave the other ones, the tiles and the memories. -/
theorem writeElems_vreg_frame (hk : oKind o = 2) :
    (writeElems s u o m n l).mem = s.mem ∧ (coreAt (writeElems s u o m n l) u).tile = (coreAt s u).tile ∧
      ∀ k, (∀ c ∈ l, k ≠ oAddr o * 128 + c.1) → kget (coreAt (writeElems s u o m n l) u).vreg k = kget (coreAt s u).vreg k := by
  refine List.foldlRecOn (motive := fun t => t.mem = s.mem ∧ (coreAt t u).tile = (coreAt s u).tile ∧
    ∀ k, (∀ c ∈ l, k ≠ oAddr o * 128 + c.1) → kget (coreAt t u).vreg k = kget (coreAt s u).vreg k) l _ ⟨rfl, rfl, fun _ _ => rfl⟩ ?_
  rintro t ⟨hmem, htile, hvreg⟩ c hc
  obtain ⟨hcore, hkept⟩ := writeElem_vreg t u m n c hk
  refine ⟨hkept.trans hmem, by rw [hcore]; exact htile, fun k hout => ?_⟩
  rw [hcore, kget_kput_other _ _ _ _ _ (hout c hc), hvreg k hout]

/-- Writes to packed rows leave every byte outside them, and the core. -/
theorem writeElems_rows_frame (hf : oFmt o ≤ 10) (hk : oKind o = 5) :
    coreAt (writeElems s u o m n l) u = coreAt s u ∧
      ∀ a, (∀ i, i < m → a < destRow u o i ∨ destRow u o i + packSize (oFmt o) n ≤ a) →
        mget (writeElems s u o m n l).mem a = mget s.mem a := by
  refine List.foldlRecOn (motive := fun t => coreAt t u = coreAt s u ∧
    ∀ a, (∀ i, i < m → a < destRow u o i ∨ destRow u o i + packSize (oFmt o) n ≤ a) → mget t.mem a = mget s.mem a) l _
    ⟨rfl, fun _ _ => rfl⟩ ?_
  rintro t ⟨hcore, hmem⟩ c hc
  obtain ⟨hrow, hcol⟩ := div_mod_lt (hl c hc)
  rw [writeElem_rows _ _ _ _ _ hk]
  exact ⟨hcore, fun a hout => (mget_writePacked hf hcol _ _ (hout _ hrow)).trans (hmem a hout)⟩

/-- Writes to packed columns leave every byte outside them, and the core. -/
theorem writeElems_cols_frame (hf : oFmt o ≤ 10) (hk : oKind o = 6) :
    coreAt (writeElems s u o m n l) u = coreAt s u ∧
      ∀ a, (∀ j, j < n → a < destRow u o j ∨ destRow u o j + packSize (oFmt o) m ≤ a) →
        mget (writeElems s u o m n l).mem a = mget s.mem a := by
  refine List.foldlRecOn (motive := fun t => coreAt t u = coreAt s u ∧
    ∀ a, (∀ j, j < n → a < destRow u o j ∨ destRow u o j + packSize (oFmt o) m ≤ a) → mget t.mem a = mget s.mem a) l _
    ⟨rfl, fun _ _ => rfl⟩ ?_
  rintro t ⟨hcore, hmem⟩ c hc
  obtain ⟨hrow, hcol⟩ := div_mod_lt (hl c hc)
  rw [writeElem_cols _ _ _ _ _ hk]
  exact ⟨hcore, fun a hout => (mget_writePacked hf hrow _ _ (hout _ hcol)).trans (hmem a hout)⟩

end Frames

/-! ### The tag of a tile destination (R98, R140) -/

theorem tagOf_kset (m : KMap (BitVec 16)) (t : Nat) (v : BitVec 16) : tagOf (kset m t v) t = v := by simp [tagOf]

/-- The element under a key stays when a tile takes a new tag in place of one of another kind: one of another tile, or one in the shape. -/
def keptAtTag (t m n key : Nat) : Bool := key / 8192 != t || decide (key % 8192 / 64 < m ∧ key % 64 < n)

/-- Writing a tag clears what lies outside the shape, if the tile had another. -/
theorem tagDest_eq {o : Nat} (hk : oKind o = 1) (s : State) (u xb m n : Nat) :
    let x := coreAt s u
    let new := mkTag (oFmt o == 10) xb
    (tagDest s u o xb m n).mem = s.mem ∧
      coreAt (tagDest s u o xb m n) u = { x with
        tag := kset x.tag (oAddr o) new
        tile := if tagOf x.tag (oAddr o) = 0 ∨ tagOf x.tag (oAddr o) = new then x.tile
          else x.tile.filter (fun p => keptAtTag (oAddr o) m n p.1) } := by
  intro x new
  unfold tagDest
  rw [if_neg (not_not.2 hk)]
  dsimp only
  split
  · exact ⟨rfl, coreAt_setCore ..⟩
  · exact ⟨rfl, coreAt_setCore ..⟩

/-- With its last elements a tile takes its tag (R140). -/
theorem tagDest_tags {o m n : Nat} (hk : oKind o = 1) (s : State) (u xb : Nat) :
    let w := tagDest s u o xb m n
    let x := coreAt s u
    let old := tagOf x.tag (oAddr o)
    let new := mkTag (oFmt o == 10) xb
    tagOf (coreAt w u).tag (oAddr o) = new ∧ w.mem = s.mem ∧ (coreAt w u).vreg = x.vreg ∧
      (∀ k slot, slot < 8192 → k ≠ oAddr o → tileGet (coreAt w u) k slot = tileGet x k slot) ∧
      (∀ i j, i < 128 → j < 64 → tileGet (coreAt w u) (oAddr o) (64 * i + j) =
        if old = 0 ∨ old = new ∨ (i < m ∧ j < n) then tileGet x (oAddr o) (64 * i + j) else 0) := by
  intro w x old new
  obtain ⟨hmem, hcore⟩ := tagDest_eq hk s u xb m n
  have htile : ∀ k slot, tileGet (coreAt w u) k slot =
      if old = 0 ∨ old = new ∨ keptAtTag (oAddr o) m n (tileKey k slot) = true then tileGet x k slot else 0 := by
    intro k slot
    have hy : (coreAt w u).tile = if old = 0 ∨ old = new then x.tile else x.tile.filter (fun p => keptAtTag (oAddr o) m n p.1) := by
      rw [hcore]
    by_cases hold : old = 0 ∨ old = new
    · rw [if_pos hold] at hy
      rw [if_pos (or_assoc.1 (.inl hold)), tileGet_congr hy]
    · rw [if_neg hold] at hy
      rw [tileGet_filter hy]
      simp only [← or_assoc, hold, false_or]
  refine ⟨by rw [hcore]; exact tagOf_kset .., hmem, by rw [hcore], fun k slot hslot hne => ?_, fun i j hi hj => ?_⟩
  · have hdiv : tileKey k slot / 8192 = k := by unfold tileKey; omega
    rw [htile, if_pos (.inr (.inr (by simp [keptAtTag, hdiv, hne])))]
  · have hdiv : tileKey (oAddr o) (64 * i + j) / 8192 = oAddr o := by unfold tileKey; omega
    have hrow : tileKey (oAddr o) (64 * i + j) % 8192 / 64 = i := by unfold tileKey; omega
    have hcol : tileKey (oAddr o) (64 * i + j) % 64 = j := by unfold tileKey; omega
    rw [htile]
    simp [keptAtTag, hdiv, hrow, hcol]

/-- Settles O19: the streaming cycles hand out the shape in consecutive ranges (`vxAlong_groups`, `vxAlong_outputs`), each write gives its
own element its code and leaves the others (`foldl_writes`), and the tag clears what lies outside the shape (`tagDest_tags`). -/
theorem destinationsTakeTheirElements : Obligations.DestinationsTakeTheirElements := by
  refine ⟨fun v q hop hno => ⟨?_, vxAlong_outputs hop hno⟩, fun s u o m n l hnodup hl hf => ?_,
    fun s u o xb m n hk _ _ => tagDest_tags hk s u xb⟩
  · exact vxAlong_groups (a := (vxAD q.raw).1) (by rw [vxEnd_begin hno]; omega)
  · intro w x y width fits row hfits
    have hfit : DestFits o m n := hfits
    obtain ⟨hwritten, hkept⟩ := foldl_writes (D := (· < m * n)) (f := fun t c => writeElem t u o m n c)
      (read := fun t e => destElem t u o m n e) (val := (· % 2 ^ destWidth o))
      (fun t c hc => destElem_writeElem_same hfit hf t u hc)
      (fun t c e hc he hne => destElem_writeElem_other hfit hf t u hc he hne) l s hnodup hl
    refine ⟨hwritten, hkept, fun hk => ?_, fun hk => writeElems_vreg_frame s u hk, fun hk => writeElems_rows_frame hl s u hf hk,
      fun hk => writeElems_cols_frame hl s u hf hk⟩
    have hshape : m ≤ 128 ∧ n ≤ 64 := by
      rcases hfit with ⟨-, h⟩ | h | ⟨h, -⟩ | ⟨h, -⟩
      · exact h
      all_goals simp [hk] at h
    exact writeElems_tile_frame hl s u hk hshape.1 hshape.2

end Sys2Proof
end

section
/-! SUPPORT. The slip of a descriptor that starts, and the start of an MM (O14). -/

namespace Sys2Proof

open Machine

/-! ### Counting slip (R235) -/

theorem counted_counted (v a b : Nat) : counted (counted v a) b = counted v (a + b) := by
  unfold counted
  split_ifs <;> omega

/-- Slip counts in the entry of its category; the overflow bit stands in another sub-index of the same entry. -/
theorem bumpSlip_eq_bump (s : State) (u n : Nat) {cat : Nat} (hc : cat < 5) :
    ∃ o b, 5 < o ∧ o < 256 ∧ bumpSlip s u cat n = bump s (slipEntry u cat).1 (slipEntry u cat).2 o b n := by
  interval_cases cat
  · exact ⟨8, 0, by decide, by decide, rfl⟩
  · exact ⟨8, 1, by decide, by decide, rfl⟩
  · exact ⟨8, 2, by decide, by decide, rfl⟩
  · exact ⟨6, 3, by decide, by decide, rfl⟩
  · exact ⟨6, 3, by decide, by decide, rfl⟩

theorem slipEntry_sub (u : Nat) {cat : Nat} (hc : cat < 5) : 0 < (slipEntry u cat).2 ∧ (slipEntry u cat).2 < 5 := by
  unfold slipEntry
  split
  · simp
  · split
    · simp
    · dsimp only
      omega

theorem slipEntry_idx (u cat : Nat) : 0x7000 < (slipEntry u cat).1 := by
  unfold slipEntry
  split
  · dsimp only; omega
  · split <;> dsimp only <;> omega

theorem slipEntry_inj {u a b : Nat} (ha : a < 5) (hb : b < 5)
    (h : rkey (slipEntry u a).1 (slipEntry u a).2 = rkey (slipEntry u b).1 (slipEntry u b).2) : a = b := by
  have hsa := (slipEntry_sub u ha).2
  have hsb := (slipEntry_sub u hb).2
  obtain ⟨hi, hj⟩ := (rkey_inj (by omega) (by omega)).1 h
  unfold slipEntry at hi hj
  split_ifs at hi hj <;> dsimp only at hi hj <;> omega

/-- The count of a slip category. -/
def slipCount (s : State) (u cat : Nat) : Nat := rg s (slipEntry u cat).1 (slipEntry u cat).2

theorem slipCount_bumpSlip {u a b : Nat} (ha : a < 5) (hb : b < 5) (s : State) (n : Nat) :
    slipCount (bumpSlip s u a n) u b = if a = b then counted (slipCount s u b) n else slipCount s u b := by
  obtain ⟨o, x, ho, ho', heq⟩ := bumpSlip_eq_bump s u n ha
  have hsa := slipEntry_sub u ha
  have hsb := slipEntry_sub u hb
  have hia := slipEntry_idx u a
  have hib := slipEntry_idx u b
  rw [heq]
  split
  · rename_i hab
    subst hab
    exact rg_bump_same (by omega) ho' (by omega) (by omega)
  · rename_i hab
    exact rg_bump_other (fun h => hab (slipEntry_inj ha hb h)) (rkey_ne_of_sub ho' (by omega) (by omega))
      (rkey_ne_of_idx (by decide) (by omega) (by omega)) (rkey_ne_of_idx (by decide) (by omega) (by omega))

/-- A descriptor's slip is counted in the categories of what held it back; `pipe` is that of its pipeline or hazard conditions. -/
theorem slipCounted_countSlip {u pipe : Nat} (hp : 1 ≤ pipe ∧ pipe < 4) (s : State) (q : QDesc) :
    SlipCounted u q pipe s (countSlip s u q pipe) := by
  have hcount : ∀ cat, cat < 5 → slipCount (countSlip s u q pipe) u cat =
      counted (slipCount s u cat) ((if cat = 0 then q.lateQ else 0) + (if cat = 1 then q.lateW else 0) +
        (if cat = pipe then q.lateP else 0) + if cat = 4 then q.lateT else 0) := by
    intro cat hcat
    have hstep : ∀ (t : State) (a n : Nat), a < 5 →
        slipCount (bumpSlip t u a n) u cat = counted (slipCount t u cat) (if cat = a then n else 0) := by
      intro t a n ha
      rw [slipCount_bumpSlip ha hcat]
      by_cases h : a = cat
      · simp [h]
      · simp [h, Ne.symm h, counted_zero]
    rw [countSlip, hstep _ 4 _ (by decide), hstep _ pipe _ (by omega), hstep _ 1 _ (by decide), hstep _ 0 _ (by decide),
      counted_counted, counted_counted, counted_counted, Nat.add_assoc, Nat.add_assoc]
  refine ⟨?_, ?_, fun hne => ?_, ?_⟩
  · refine (hcount 0 (by decide)).trans ?_
    simp [show 0 ≠ pipe by omega, slipCount]
  · refine (hcount 1 (by decide)).trans ?_
    simp [slipCount, eq_comm]
  · refine (hcount pipe (by omega)).trans ?_
    simp [show pipe ≠ 0 by omega, hne, show pipe ≠ 4 by omega, slipCount]
  · refine (hcount 4 (by decide)).trans ?_
    simp [show 4 ≠ pipe by omega, slipCount]

theorem SlipCounted.congr {u pipe : Nat} {q : QDesc} {s t t' : State} (h : SlipCounted u q pipe s t) (hr : t'.regs = t.regs)
    (hv : t'.variant = t.variant) : SlipCounted u q pipe s t' := by
  have hrg : ∀ i j, rg t' i j = rg t i j := rg_congr hr hv
  simp only [SlipCounted, hrg]
  exact h

/-! ### An MM starts (R104, R108, R111, R235) -/

theorem coreAt_mmStartNow (s : State) (u : Nat) (q : QDesc) :
    coreAt (mmStartNow s u q) u =
      { coreAt s u with mq := (coreAt s u).mq.drop 1, lastMStart := absNow s + 1, mrun := (coreAt s u).mrun ++ [mmBegin q] } := by
  have htouch := touches_countSlip s u q 2
  have hedge : (countSlip s u q 2).edge = s.edge := htouch.same .edge (by decide)
  have hcyc : (countSlip s u q 2).cyc = s.cyc := htouch.same .cyc (by decide)
  have hnow : absNow (countSlip s u q 2) = absNow s := by rw [absNow, absNow, hedge, hcyc]
  rw [mmStartNow, coreAt_setCore, htouch.coreAt_eq (by decide), hnow]

theorem slipCounted_mmStartNow {u : Nat} (s : State) (q : QDesc) : SlipCounted u q 2 s (mmStartNow s u q) := by
  have hset := touches_setCore (countSlip s u q 2) u { coreAt (countSlip s u q 2) u with
    mq := (coreAt (countSlip s u q 2) u).mq.drop 1
    lastMStart := absNow (countSlip s u q 2) + 1
    mrun := (coreAt (countSlip s u q 2) u).mrun ++ [mmBegin q] }
  exact (slipCounted_countSlip (by decide) s q).congr (hset.same .regs (by decide)) (hset.same .variant (by decide))

/-- The head of the MXE queue starts when it may. -/
def mmStarted (s : State) (u : Nat) : Option QDesc → State
  | some q => mmStartNow s u q
  | none => s

theorem exec_mm_eq (s : State) (u c : Nat) :
    exec (.mm u c) s = onCore s u (mmStarted (coreTick s u c) u (mmReady (coreTick s u c) u)) := by
  rfl

theorem exec_mm_ready {s : State} {u c : Nat} {q : QDesc} (hp : s.powered = true) (hu : u < coresOf s.variant)
    (hq : mmReady (coreTick s u c) u = some q) :
    ∃ t', exec (.mm u c) s = .next t' ∧
      coreAt t' u = { coreAt (coreTick s u c) u with
        mq := (coreAt (coreTick s u c) u).mq.drop 1
        lastMStart := absNow (coreTick s u c) + 1
        mrun := (coreAt (coreTick s u c) u).mrun ++ [mmBegin q] } ∧
      SlipCounted u q 2 (coreTick s u c) t' ∧ CoreFrame u [] (coreTick s u c) t' := by
  have hd := dieOf_lt hu
  have hframe : CoreFrame u [] (coreTick s u c) (mmStartNow (coreTick s u c) u q) :=
    (coreFrame_countSlip _ q 2 hd).trans (coreFrame_setCore ..)
  obtain ⟨t', ht, hend, hframe'⟩ := onCore_next_frame hp hu hframe (by decide)
  have hslip := slipCounted_mmStartNow (u := u) (coreTick s u c) q
  refine ⟨t', ?_, ?_, hslip.congr (hend.same .regs (by decide)) (hend.same .variant (by decide)), hframe'⟩
  · rw [exec_mm_eq, hq, mmStarted, ht]
  · rw [hend.coreAt_eq (by decide), coreAt_mmStartNow]

theorem exec_mm_idle {s : State} {u c : Nat} (hp : s.powered = true) (hu : u < coresOf s.variant)
    (hq : mmReady (coreTick s u c) u = none) :
    ∃ t', exec (.mm u c) s = .next t' ∧ Touches [.alertN] (coreTick s u c) t' := by
  obtain ⟨t', ht, hend⟩ := onCore_next_idle (c := c) hp hu
  refine ⟨t', ?_, hend⟩
  rw [exec_mm_eq, hq, mmStarted, ht]

/-! ### A no-op MM (R104) -/

theorem mmAt_noop (s : State) (u : Nat) {q : QDesc} (h : isNoop q.raw = true) (p : Nat) :
    mmAt s u q p = (s, { mmBegin q with pos := p }) := by
  induction p with
  | zero => rfl
  | succ p ih => rw [mmAt, ih, mmCycle, if_pos (.inl (by simp [mmBegin, h]))]

theorem mmAt_noop_done (s : State) (u : Nat) {q : QDesc} (h : isNoop q.raw = true) (p : Nat) :
    (mmAt s u q p).1 = s ∧ (mmDone (mmAt s u q p).2 = true ↔ 4 ≤ p) := by
  rw [mmAt_noop s u h]
  simp [mmDone, mmBegin, h]

end Sys2Proof
end

section
/-! SUPPORT. The K-steps of an MM: in which cycle each one is added, and its operands as read (O14). -/

namespace Sys2Proof

open Machine

/-! ### When the K-steps are added (R83, R108, R110, R114) -/

/-- K-steps added in the first `m` cycles of the main phase. -/
def stepsWithin (d : BitVec 512) (m : Nat) : Nat :=
  min (dK d) (if fld d 384 4 = 7 ∧ fld d 388 4 = 7 then 2 * m else m / mmWide d)

theorem stepsWithin_zero (d : BitVec 512) : stepsWithin d 0 = 0 := by simp [stepsWithin]

theorem stepsWithin_le (d : BitVec 512) (m : Nat) : stepsWithin d m ≤ dK d := Nat.min_le_left ..

theorem stepsWithin_mono (d : BitVec 512) : Monotone (stepsWithin d) := fun a b h => by
  unfold stepsWithin
  have hdiv : a / mmWide d ≤ b / mmWide d := Nat.div_le_div_right h
  split <;> omega

theorem mmWide_cases (d : BitVec 512) : mmWide d = 1 ∨ mmWide d = 2 ∨ mmWide d = 16 := by
  unfold mmWide
  split_ifs <;> simp

theorem mmWide_pos (d : BitVec 512) : 0 < mmWide d := by
  have h := mmWide_cases d
  omega

theorem mmWide_div_succ (d : BitVec 512) (m : Nat) :
    (m + 1) / mmWide d = m / mmWide d + if m % mmWide d + 1 = mmWide d then 1 else 0 := by
  rcases mmWide_cases d with h | h | h <;> rw [h] <;> split <;> omega

/-- The main phase is long enough for all K-steps. -/
theorem stepsWithin_mmP (d : BitVec 512) : stepsWithin d (mmP d) = dK d := by
  unfold stepsWithin mmP mmWide ceilDiv
  dsimp only
  split_ifs <;> omega

theorem stepsWithin_done {d : BitVec 512} {m : Nat} (h : mmP d ≤ m) : stepsWithin d m = dK d :=
  le_antisymm (stepsWithin_le ..) ((stepsWithin_mmP d).symm.trans_le (stepsWithin_mono d h))

theorem mmP_ge (d : BitVec 512) : 32 ≤ mmP d := by
  unfold mmP
  dsimp only
  split_ifs <;> omega

theorem mem_interval {a b x : Nat} : x ∈ interval a b ↔ a ≤ x ∧ x < b := by
  simp only [interval, List.mem_map, List.mem_range]
  exact ⟨fun ⟨i, hi, hx⟩ => by omega, fun h => ⟨x - a, by omega, by omega⟩⟩

theorem interval_empty {a b : Nat} (h : b ≤ a) : interval a b = [] := by simp [interval, Nat.sub_eq_zero_of_le h]

theorem interval_succ (a : Nat) : interval a (a + 1) = [a] := by simp [interval]

theorem interval_filter_lt (a b k : Nat) : (interval a b).filter (fun x => decide (x < k)) = interval (min k a) (min k b) := by
  by_cases ha : k ≤ a
  · rw [interval_empty (b := min k b) (by omega), List.filter_eq_nil_iff]
    intro x hx
    have hx := mem_interval.1 hx
    simp
    omega
  · by_cases hb : b ≤ a
    · rw [interval_empty hb, interval_empty (by omega), List.filter_nil]
    · have hall : (interval a (min k b)).filter (fun x => decide (x < k)) = interval a (min k b) :=
        List.filter_eq_self.2 fun x hx => by have hx := mem_interval.1 hx; simp; omega
      have hnone : (interval (min k b) b).filter (fun x => decide (x < k)) = [] :=
        List.filter_eq_nil_iff.2 fun x hx => by have hx := mem_interval.1 hx; simp; omega
      rw [← interval_append (a := a) (b := min k b) (c := b) (by omega) (by omega), List.filter_append, hall, hnone,
        List.append_nil, Nat.min_eq_right (by omega : a ≤ k)]

/-- A cycle of the main phase adds the K-steps by which it is ahead of the cycles before it. -/
theorem mmSteps_eq (d : BitVec 512) (m : Nat) : mmSteps d m = interval (stepsWithin d m) (stepsWithin d (m + 1)) := by
  unfold mmSteps stepsWithin
  dsimp only
  rw [← interval_filter_lt]
  congr 1
  by_cases h4 : fld d 384 4 = 7 ∧ fld d 388 4 = 7
  · have hnext : interval (2 * m) (2 * (m + 1)) = [2 * m, 2 * m + 1] := by
      rw [← interval_append (b := 2 * m + 1) (by omega) (by omega), interval_succ, Nat.mul_succ, interval_succ]
      rfl
    simp only [if_pos h4, hnext]
  · simp only [if_neg h4]
    split
    · rename_i hn
      have hw : mmWide d = 1 := if_pos hn
      rw [hw, Nat.div_one, Nat.div_one, interval_succ]
    · rw [mmWide_div_succ]
      split
      · rw [interval_succ]
      · rw [Nat.add_zero, interval_empty le_rfl]

/-- A cycle adds one K-step, or two that share a block of scales. -/
theorem step_block {d : BitVec 512} {m k : Nat} (hk : k ∈ mmSteps d m) : k / 32 = (stepsWithin d (m + 1) - 1) / 32 := by
  rw [mmSteps_eq, mem_interval] at hk
  by_cases h4 : fld d 384 4 = 7 ∧ fld d 388 4 = 7
  · simp only [stepsWithin, if_pos h4] at *
    omega
  · have hsucc := mmWide_div_succ d m
    simp only [stepsWithin, if_neg h4] at *
    generalize (m + 1) / mmWide d = y at *
    split at hsucc <;> omega

/-- The last cycle of a K-step of a wide pair adds it. -/
theorem wide_step {d : BitVec 512} {m k : Nat} (hw : mmWide d ≠ 1) (hk : k ∈ mmSteps d m) :
    mmSteps d m = [k] ∧ k < dK d ∧ m / mmWide d = k ∧ m % mmWide d + 1 = mmWide d := by
  have h4 : ¬(fld d 384 4 = 7 ∧ fld d 388 4 = 7) := fun h => hw (by simp [mmWide, h.1, isNarrow])
  have hn : isNarrow (fld d 384 4) ≠ true := fun h => hw (if_pos h)
  unfold mmSteps at *
  simp only [if_neg h4, if_neg hn] at *
  split at hk
  · rename_i hlast
    simp only [List.mem_filter, List.mem_singleton, decide_eq_true_eq] at hk
    obtain ⟨rfl, hlt⟩ := hk
    simp [hlast, hlt]
  · simp at hk

/-! ### Folding over an interval -/

theorem foldl_interval {σ : Type} {f : σ → Nat → σ} {motive : Nat → σ → Prop} {a b : Nat} (hab : a ≤ b)
    (h : ∀ k t, a ≤ k → k < b → motive k t → motive (k + 1) (f t k)) {t : σ} (h0 : motive a t) :
    motive b ((interval a b).foldl f t) := by
  induction b, hab using Nat.le_induction with
  | base => simpa [interval_empty] using h0
  | succ b hab ih =>
    rw [← interval_append hab b.le_succ, interval_succ, List.foldl_append]
    exact h b _ hab b.lt_succ_self (ih fun k t ha hb => h k t ha (by omega))

/-! ### What an MM reads of the operands (R89 to R93, R118) -/

section Reads

variable {s w : State} (hm : w.mem = s.mem) (he : w.ecc = s.ecc)
include hm he

theorem readVec_congr (f a n : Nat) : readVec w f a n = readVec s f a n := by
  have hecc : ∀ b k, eccIn w b k = eccIn s b k := fun b k => by rw [eccIn, eccIn, he]
  have hread : ∀ i, readPacked w f a i = readPacked s f a i := fun i => by simp only [readPacked, hm, hecc]
  simp only [readVec, funext hread]

theorem mmSlices_congr (u : Nat) (d : BitVec 512) (k : Nat) : mmSlices w u d k = mmSlices s u d k := by
  rw [mmSlices, mmSlices, readVec_congr hm he, readVec_congr hm he]

theorem mmScales_congr (u : Nat) (d : BitVec 512) (r : MmRun) (g : Nat) : mmScales w u d r g = mmScales s u d r g := by
  rw [mmScales, mmScales, readVec_congr hm he, readVec_congr hm he]

theorem mmTake_congr (u : Nat) (r : MmRun) : mmTake w u r = mmTake s u r := by
  have hscales : mmScales w u r.d.raw = mmScales s u r.d.raw := by
    funext r' g
    exact mmScales_congr hm he u _ r' g
  have hslices : mmSlices w u r.d.raw = mmSlices s u r.d.raw := funext fun k => mmSlices_congr hm he u _ k
  rw [mmTake, mmTake, hscales, hslices]

theorem mmMain_congr (u : Nat) (r : MmRun) : mmMain w u r = mmMain s u r := by
  have hslices : mmSlices w u r.d.raw = mmSlices s u r.d.raw := funext fun k => mmSlices_congr hm he u _ k
  rw [mmMain, mmMain, hslices]

end Reads

/-! ### Products (R59, R60, R84) -/

theorem getElem?_products {va vb : List Val} {a b : Val} {i j : Nat} (ha : va[i]? = some a) (hb : vb[j]? = some b) :
    (va.map (fun a => vb.map (fun b => mulVal a b))).flatten[i * vb.length + j]? = some (mulVal a b) := by
  obtain ⟨hj, -⟩ := List.getElem?_eq_some_iff.1 hb
  induction va generalizing i with
  | nil => simp at ha
  | cons x r ih =>
    rw [List.map_cons, List.flatten_cons]
    cases i with
    | zero =>
      rw [Nat.zero_mul, Nat.zero_add, List.getElem?_append_left (by simpa using hj), List.getElem?_map, hb]
      simp_all
    | succ i =>
      have hskip : (i + 1) * vb.length + j - (vb.map (fun b => mulVal x b)).length = i * vb.length + j := by
        rw [List.length_map, Nat.succ_mul]
        omega
      rw [List.getElem?_append_right (by rw [List.length_map, Nat.succ_mul]; omega), hskip]
      exact ih (by simpa using ha)

/-- The scales in use are those of block `g`. -/
def ScalesAre (s : State) (u : Nat) (d : BitVec 512) (g : Nat) (r : MmRun) : Prop :=
  r.sa = (mmScales s u d r g).sa ∧ r.sb = (mmScales s u d r g).sb

/-- An operand's slice as values, with its scales. -/
theorem getElem?_scaled {s : State} {f a b n i flag : Nat} {sc : List Nat} (hi : i < n)
    (hs : sc = if flag = 1 then readVec s 9 b n else []) :
    ((readVec s f a n).zipIdx.map (fun c => scaledVal f c.1 (if flag = 1 then some (sc.getD c.2 0) else none)))[i]? =
      some (scaledVal f (readPacked s f a i) (if flag = 1 then some (readPacked s 9 b i) else none)) := by
  subst hs
  by_cases hflag : flag = 1 <;> simp [readVec, hi, hflag]

/-- With its slices and the scales of its block, a K-step's product for cell (i, j) is the cell's term. -/
theorem getElem?_mmProducts {s : State} {u : Nat} {d : BitVec 512} {k i j : Nat} {r : MmRun} (hr : ScalesAre s u d (k / 32) r)
    (hi : i < dM d) (hj : j < dN d) :
    (mmProducts d r (mmSlices s u d k))[i * dN d + j]? = some (mmTerm s u d i j k) := by
  have hlen : (mmSlices s u d k).2.length = dN d := by simp [mmSlices, readVec]
  have hprod := getElem?_products (getElem?_scaled (f := fld d 384 4) (a := sliceA u d k) hi hr.1)
    (getElem?_scaled (f := fld d 388 4) (a := sliceB u d k) hj hr.2)
  rw [List.length_map, List.length_zipIdx] at hprod
  rw [← hlen]
  exact hprod

end Sys2Proof
end

section
/-! SUPPORT. The operands that an MM holds: when a K-step is added, its slices and the scales of its block are there (O14). -/

namespace Sys2Proof

open Machine

/-! ### Slices kept from earlier cycles (R83, R93, R108) -/

/-- The first `j` of `w` parts of the slices of K-step `k`. -/
def slicesTo (s : State) (u : Nat) (d : BitVec 512) (k j w : Nat) : List Nat × List Nat :=
  ((mmSlices s u d k).1.take (dM d * j / w), (mmSlices s u d k).2.take (dN d * j / w))

theorem slicesTo_all (s : State) (u : Nat) (d : BitVec 512) (k : Nat) {w : Nat} (hw : 0 < w) :
    slicesTo s u d k w w = mmSlices s u d k := by
  have ha : (mmSlices s u d k).1.length = dM d := by simp [mmSlices, readVec]
  have hb : (mmSlices s u d k).2.length = dN d := by simp [mmSlices, readVec]
  rw [slicesTo, Nat.mul_div_cancel _ hw, Nat.mul_div_cancel _ hw, List.take_of_length_le (by omega), List.take_of_length_le (by omega)]

/-- A part read after those before it makes a longer beginning of a slice. -/
theorem take_append_part (l : List Nat) (n j w : Nat) :
    l.take (n * j / w) ++ (l.drop (partOfVec n j w).1).take (partOfVec n j w).2 = l.take (n * (j + 1) / w) := by
  have hle : n * j / w ≤ n * (j + 1) / w := Nat.div_le_div_right (Nat.mul_le_mul_left n (Nat.le_succ j))
  simp only [partOfVec]
  rw [← List.take_add, Nat.add_sub_cancel' hle]

/-- How far a wide pair's reading has come before place `p`: a K-step, and the parts of its slices that have been read. -/
def wideRead (d : BitVec 512) (p : Nat) : Nat × Nat × Nat :=
  let w := mmWide d
  let w0 := min w 8
  if p ≤ 64 + w then (0, min (p - 4) w0, w0) else ((p - 65) / w, (p - 65) % w + 1, w)

/-- Before place `p` the slices that later cycles need are those read so far: for a narrow pair, up to place `lim`, those of the first
cycle's K-steps; for a wide pair the parts of the K-step that is being read. -/
def SlicesHeld (s : State) (u : Nat) (d : BitVec 512) (lim p : Nat) (r : MmRun) : Prop :=
  if mmWide d = 1 then 4 < p → p ≤ lim → r.slices = (mmSteps d 0).map (mmSlices s u d)
  else 4 < p → p ≤ 64 + mmWide d * dK d → r.slices = [slicesTo s u d (wideRead d p).1 (wideRead d p).2.1 (wideRead d p).2.2]

theorem mmScales_foldl (s : State) (u : Nat) (d : BitVec 512) (l : List Nat) (r : MmRun) :
    ∃ a b, l.foldl (mmScales s u d) r = { r with sa := a, sb := b } := by
  induction l generalizing r with
  | nil => exact ⟨r.sa, r.sb, rfl⟩
  | cons g l ih =>
    obtain ⟨a, b, h⟩ := ih (mmScales s u d r g)
    exact ⟨a, b, h⟩

/-- Reading changes the slices and the scales that are held, nothing else. -/
theorem mmTake_keeps (s : State) (u : Nat) (r : MmRun) :
    ∃ c, mmTake s u r = { (mmBlocks r.d.raw r.pos).foldl (mmScales s u r.d.raw) r with slices := c } := by
  unfold mmTake
  dsimp only
  split
  · exact ⟨_, rfl⟩
  · split
    · exact ⟨_, rfl⟩
    · exact ⟨((mmBlocks r.d.raw r.pos).foldl (mmScales s u r.d.raw) r).slices, rfl⟩

theorem mmTake_slices_of_part {s : State} {u k j w : Nat} {r : MmRun} (hp : mmPart r.d.raw r.pos = some (k, j, w))
    (hold : j ≠ 0 → r.slices = [slicesTo s u r.d.raw k j w]) : (mmTake s u r).slices = [slicesTo s u r.d.raw k (j + 1) w] := by
  obtain ⟨a, b, hr⟩ := mmScales_foldl s u r.d.raw (mmBlocks r.d.raw r.pos) r
  have hprev : (if j = 0 then ([], []) else r.slices.headD ([], [])) = slicesTo s u r.d.raw k j w := by
    split
    · rename_i hj
      simp [hj, slicesTo]
    · rename_i hj
      rw [hold hj]
      rfl
  rw [mmTake, hr]
  simp only [hp, hprev]
  simp only [slicesTo, take_append_part]

theorem mmTake_slices_of_none {s : State} {u : Nat} {r : MmRun} (hp : mmPart r.d.raw r.pos = none) :
    (mmTake s u r).slices = if r.pos = 4 then (mmReads r.d.raw 4).map (mmSlices s u r.d.raw) else r.slices := by
  obtain ⟨a, b, hr⟩ := mmScales_foldl s u r.d.raw (mmBlocks r.d.raw r.pos) r
  rw [mmTake, hr]
  simp only [hp]
  split <;> rfl

/-! #### How the reading of a wide pair's slices goes on -/

/-- In the first cycles of reading the parts of the first K-step are read. -/
theorem wideRead_first {d : BitVec 512} {p : Nat} (h : p ≤ 4 + min (mmWide d) 8) : wideRead d p = (0, p - 4, min (mmWide d) 8) := by
  rw [wideRead, if_pos (by omega), Nat.min_eq_left (by omega)]

/-- Then nothing is read until the second K-step begins. -/
theorem wideRead_idle {d : BitVec 512} {p : Nat} (hlo : 4 + min (mmWide d) 8 ≤ p) (hhi : p ≤ 64 + mmWide d) :
    wideRead d p = (0, min (mmWide d) 8, min (mmWide d) 8) := by
  rw [wideRead, if_pos hhi, Nat.min_eq_right (by omega)]

theorem wideRead_later {d : BitVec 512} {p : Nat} (h : 64 + mmWide d ≤ p) :
    wideRead d (p + 1) = ((p - 64) / mmWide d, (p - 64) % mmWide d + 1, mmWide d) := by
  rw [wideRead, if_neg (by omega), Nat.add_sub_add_right]

theorem div_mod_pred {x w : Nat} (hw : 0 < w) (h : x % w ≠ 0) : (x - 1) / w = x / w ∧ (x - 1) % w + 1 = x % w := by
  have hlt := Nat.mod_lt x hw
  have hx : x - 1 = x % w - 1 + w * (x / w) := by
    have hsum := Nat.div_add_mod x w
    omega
  constructor
  · rw [hx, Nat.add_mul_div_left _ _ hw, Nat.div_eq_of_lt (by omega), Nat.zero_add]
  · rw [hx, Nat.add_mul_mod_self_left, Nat.mod_eq_of_lt (by omega)]
    omega

/-- Within a K-step that is not the first, the parts before have been read. -/
theorem wideRead_within {d : BitVec 512} {p : Nat} (h : 64 + mmWide d ≤ p) (hj : (p - 64) % mmWide d ≠ 0) :
    wideRead d p = ((p - 64) / mmWide d, (p - 64) % mmWide d, mmWide d) := by
  have hne : p ≠ 64 + mmWide d := fun he => hj (by simp [he])
  obtain ⟨hdiv, hmod⟩ := div_mod_pred (mmWide_pos d) hj
  have hp : p - 65 = p - 64 - 1 := by omega
  rw [wideRead, if_neg (by omega), hp, hdiv, hmod]

theorem slicesHeld_mmTake_narrow {s : State} {u : Nat} {r : MmRun} (hw : mmWide r.d.raw = 1) (h : SlicesHeld s u r.d.raw 64 r.pos r) :
    SlicesHeld s u r.d.raw 65 (r.pos + 1) (mmTake s u r) := by
  rw [SlicesHeld, if_pos hw] at *
  intro hlo hhi
  have hnone : mmPart r.d.raw r.pos = none := if_pos hw
  rw [mmTake_slices_of_none hnone]
  split
  · rfl
  · exact h (by omega) (by omega)

theorem slicesHeld_mmTake_wide {s : State} {u : Nat} {r : MmRun} (hw : mmWide r.d.raw ≠ 1) (h : SlicesHeld s u r.d.raw 64 r.pos r) :
    SlicesHeld s u r.d.raw 65 (r.pos + 1) (mmTake s u r) := by
  rw [SlicesHeld, if_neg hw] at *
  intro hlo hhi
  have hpos := mmWide_pos r.d.raw
  by_cases h1 : r.pos < 4 + min (mmWide r.d.raw) 8
  · have hpart : mmPart r.d.raw r.pos = some (0, r.pos - 4, min (mmWide r.d.raw) 8) := by
      rw [mmPart, if_neg hw, if_pos (by omega)]
    have hnext : r.pos - 4 + 1 = r.pos + 1 - 4 := by omega
    rw [mmTake_slices_of_part hpart fun hj => by rw [h (by omega) (by omega), wideRead_first (by omega)], wideRead_first (by omega),
      hnext]
  · by_cases h2 : r.pos < 64 + mmWide r.d.raw
    · have hpart : mmPart r.d.raw r.pos = none := by
        rw [mmPart, if_neg hw, if_neg (by omega), if_neg (by omega)]
      rw [mmTake_slices_of_none hpart, if_neg (by omega), h (by omega) (by omega), wideRead_idle (by omega) (by omega),
        wideRead_idle (by omega) (by omega)]
    · have hpart : mmPart r.d.raw r.pos = some ((r.pos - 64) / mmWide r.d.raw, (r.pos - 64) % mmWide r.d.raw, mmWide r.d.raw) := by
        rw [mmPart, if_neg hw, if_neg (by omega), if_pos (by omega)]
      rw [mmTake_slices_of_part hpart fun hj => by rw [h (by omega) (by omega), wideRead_within (by omega) hj],
        wideRead_later (by omega)]

theorem slicesHeld_mmTake {s : State} {u : Nat} {r : MmRun} (h : SlicesHeld s u r.d.raw 64 r.pos r) :
    SlicesHeld s u r.d.raw 65 (r.pos + 1) (mmTake s u r) := by
  by_cases hw : mmWide r.d.raw = 1
  · exact slicesHeld_mmTake_narrow hw h
  · exact slicesHeld_mmTake_wide hw h

/-! #### Slices of the K-steps that are added -/

/-- When a K-step of a wide pair is added, its slices are complete. -/
theorem slices_of_wide_step {s : State} {u k p : Nat} {d : BitVec 512} {r : MmRun} (hw : mmWide d ≠ 1) (hp : 64 ≤ p)
    (hk : k ∈ mmSteps d (p - 64)) (h : SlicesHeld s u d 65 (p + 1) r) : r.slices = [mmSlices s u d k] := by
  obtain ⟨-, hlt, hdiv, hmod⟩ := wide_step hw hk
  have hend : p + 1 ≤ 64 + mmWide d * dK d := by
    have hlen : mmWide d * (k + 1) ≤ mmWide d * dK d := Nat.mul_le_mul_left _ hlt
    have hpos := Nat.div_add_mod (p - 64) (mmWide d)
    rw [hdiv] at hpos
    rw [Nat.mul_succ] at hlen
    omega
  have hpos := mmWide_pos d
  rw [SlicesHeld, if_neg hw] at h
  rw [h (by omega) hend]
  by_cases h0 : p + 1 ≤ 64 + mmWide d
  · have hk0 : k = 0 := by
      rw [← hdiv]
      exact Nat.div_eq_of_lt (by omega)
    rw [wideRead_idle (by omega) h0, hk0, slicesTo_all _ _ _ _ (Nat.lt_min.2 ⟨hpos, by decide⟩)]
  · rw [wideRead_later (by omega), hdiv, hmod, slicesTo_all _ _ _ _ hpos]

/-- What a main-phase cycle adds of each K-step are its slices. -/
theorem slices_of_step {s : State} {u p : Nat} {d : BitVec 512} {r : MmRun} {c : Nat × Nat} (hp : 64 ≤ p)
    (hc : c ∈ (mmSteps d (p - 64)).zipIdx) (h : SlicesHeld s u d 65 (p + 1) r) :
    (if p = 64 ∨ mmWide d ≠ 1 then r.slices.getD c.2 ([], []) else mmSlices s u d c.1) = mmSlices s u d c.1 := by
  have hget := List.mem_zipIdx_iff_getElem?.1 hc
  by_cases hw : mmWide d = 1
  · rw [SlicesHeld, if_pos hw] at h
    split
    · rename_i hp64
      have hp64 : p = 64 := by tauto
      subst hp64
      rw [h (by omega) (by omega), List.getD_eq_getElem?_getD, List.getElem?_map, hget]
      rfl
    · rfl
  · have hmem := List.mem_of_getElem? hget
    rw [(wide_step hw hmem).1] at hget
    have hc2 : c.2 = 0 := by
      by_contra hne
      obtain ⟨i, hi⟩ := Nat.exists_eq_succ_of_ne_zero hne
      simp [hi] at hget
    rw [if_pos (.inr hw), slices_of_wide_step hw hp hmem h, hc2]
    rfl

/-! ### Scales in use (R43 to R47, R91, R93) -/

/-- The scale blocks read at a place after the first are those that its K-steps begin. -/
theorem mmBlocks_eq {d : BitVec 512} {p : Nat} (hp : p ≠ 12) :
    mmBlocks d p = ((interval (stepsWithin d (p - 64)) (stepsWithin d (p + 1 - 64))).filter (fun k => k % 32 == 0 && k != 0)).map (· / 32) := by
  rw [mmBlocks, if_neg hp]
  split
  · rename_i hmain
    rw [mmSteps_eq, Nat.sub_add_comm (by omega)]
  · rename_i hmain
    have hnone : (interval (stepsWithin d (p - 64)) (stepsWithin d (p + 1 - 64))).filter (fun k => k % 32 == 0 && k != 0) = [] := by
      refine List.filter_eq_nil_iff.2 fun k hk => ?_
      obtain ⟨hlo, hhi⟩ := mem_interval.1 hk
      have hphase : p + 1 - 64 ≤ 1 ∨ mmP d ≤ p - 64 := by omega
      rcases hphase with hearly | hlate
      · have hmono := stepsWithin_mono d hearly
        have hone : stepsWithin d 1 ≤ 2 := by
          have hw := mmWide_cases d
          unfold stepsWithin
          split
          · omega
          · rcases hw with hw | hw | hw <;> rw [hw] <;> omega
        simp
        omega
      · have hall := stepsWithin_mono d hlate
        have hle := stepsWithin_le d (p + 1 - 64)
        rw [stepsWithin_mmP] at hall
        omega
    rw [hnone, List.map_nil]

/-- After the reads of a cycle the scales in use are those of the block of its last K-step. -/
theorem scalesAre_mmTake {s : State} {u : Nat} {r : MmRun}
    (h : 12 < r.pos → ScalesAre s u r.d.raw ((stepsWithin r.d.raw (r.pos - 64) - 1) / 32) r) (hp : 12 < r.pos + 1) :
    ScalesAre s u r.d.raw ((stepsWithin r.d.raw (r.pos + 1 - 64) - 1) / 32) (mmTake s u r) := by
  obtain ⟨c, hc⟩ := mmTake_keeps s u r
  rw [hc]
  change ScalesAre s u r.d.raw _ ((mmBlocks r.d.raw r.pos).foldl (mmScales s u r.d.raw) r)
  by_cases h12 : r.pos = 12
  · rw [h12, mmBlocks, if_pos rfl]
    simp only [Nat.reduceAdd, Nat.reduceLeDiff, Nat.sub_eq_zero_of_le, stepsWithin_zero]
    exact ⟨rfl, rfl⟩
  · rw [mmBlocks_eq h12, List.foldl_map, List.foldl_filter]
    refine foldl_interval (motive := fun n t => ScalesAre s u r.d.raw ((n - 1) / 32) t)
      (stepsWithin_mono _ (by omega)) (fun k t _ _ ht => ?_) (h (by omega))
    rw [Nat.add_sub_cancel]
    split
    · exact ⟨rfl, rfl⟩
    · rename_i hk
      have hsame : (k - 1) / 32 = k / 32 := by
        simp at hk
        omega
      rwa [hsame] at ht

end Sys2Proof
end

section
/-! SUPPORT. The cells of an MM: what their partials hold after each K-step, and what the folds and the drain make of the tile (O14). -/

namespace Sys2Proof

open Machine

/-! ### Exact sums (R49, R55) -/

theorem XEl.add_assoc (x y z : XEl) : XEl.add (XEl.add x y) z = XEl.add x (XEl.add y z) := by
  simp only [XEl.add, XEl.mk.injEq]
  exact ⟨Nat.or_assoc .., by omega⟩

theorem XEl.add_zero_add (x y : XEl) : XEl.add x (XEl.add ⟨0, 0⟩ y) = XEl.add x y := by
  simp [XEl.add]

/-- What K-step `k` adds to cell (i, j) in XA128. -/
def termX (s : State) (u : Nat) (d : BitVec 512) (i j k : Nat) : XEl := (XEl.enter (mmTerm s u d i j k) (sext 10 (fld d 406 10))).1

/-- A cell's K-steps added exactly to an element. -/
def exactSum (s : State) (u : Nat) (d : BitVec 512) (i j : Nat) (e : XEl) (l : List Nat) : XEl :=
  l.foldl (fun e k => XEl.add e (termX s u d i j k)) e

/-- A cell's K-steps added to an FP32 code, each sum rounded. -/
def floatSum (s : State) (u : Nat) (d : BitVec 512) (i j : Nat) (e : Nat) (l : List Nat) : Nat :=
  l.foldl (fun e k => toFormat 0 0 0 false (addVal (decodeVal 0 e) (mmTerm s u d i j k))) e

/-- What an exact sum begins with (R98, R99). -/
def exactStart (s : State) (u : Nat) (d : BitVec 512) (i j : Nat) : XEl :=
  if mmFresh d then ⟨0, 0⟩ else XEl.load (tileGet (coreAt s u) (mmTile d) (64 * i + j))

/-- What an FP32 sum begins with (R98, R99). -/
def floatStart (s : State) (u : Nat) (d : BitVec 512) (i j : Nat) : Nat :=
  if mmFresh d then 0 else tileGet (coreAt s u) (mmTile d) (64 * i + j) % 2 ^ 32

theorem mmExactSum_eq (s : State) (u : Nat) (d : BitVec 512) (i j : Nat) :
    mmExactSum s u d i j = exactSum s u d i j (exactStart s u d i j) (List.range (dK d)) := rfl

theorem mmFloatSum_eq (s : State) (u : Nat) (d : BitVec 512) (i j : Nat) :
    mmFloatSum s u d i j = floatSum s u d i j (floatStart s u d i j) (List.range (dK d)) := rfl

section Sums

variable (s : State) (u : Nat) (d : BitVec 512) (i j : Nat)

theorem add_exactSum (l : List Nat) (x y : XEl) :
    XEl.add x (exactSum s u d i j y l) = exactSum s u d i j (XEl.add x y) l := by
  induction l generalizing y with
  | nil => rfl
  | cons k l ih => exact (ih _).trans (by rw [← XEl.add_assoc]; rfl)

/-- A sum from zero, added to an element, is the sum from that element. -/
theorem add_exactSum_zero {l : List Nat} (hl : l ≠ []) (x : XEl) :
    XEl.add x (exactSum s u d i j ⟨0, 0⟩ l) = exactSum s u d i j x l := by
  obtain ⟨k, l, rfl⟩ := List.exists_cons_of_ne_nil hl
  change XEl.add x (exactSum s u d i j (XEl.add ⟨0, 0⟩ _) l) = exactSum s u d i j (XEl.add x _) l
  rw [add_exactSum, XEl.add_zero_add]

theorem exactSum_append (e : XEl) (l l' : List Nat) : exactSum s u d i j e (l ++ l') = exactSum s u d i j (exactSum s u d i j e l) l' :=
  List.foldl_append

end Sums

theorem interval_zero (n : Nat) : interval 0 n = List.range n := by simp [interval]

/-! ### Partials (R84, R85, R88) -/

/-- The K-step at which the fold group begins that is open after `n` K-steps (R85). -/
def groupStart (d : BitVec 512) (n : Nat) : Nat := if n = dK d then n else n / 64 * 64

theorem groupStart_le (d : BitVec 512) (n : Nat) : groupStart d n ≤ n := by
  unfold groupStart
  split <;> omega

/-- The K-steps whose sums have been handed to the folds before place `p` (R85, R88). -/
def foldedSteps (d : BitVec 512) (p n : Nat) : Nat :=
  if mmExact d then groupStart d n else if 64 + mmP d ≤ p then dK d else 0

/-- The tile code that an accumulating wide cell has read before place `p` (R88, R108). -/
def tileLoaded (s : State) (u : Nat) (d : BitVec 512) (p i j : Nat) : Nat := if 8 * (p - 48) ≤ i then 0 else floatStart s u d i j

/-- What the partial of cell (i, j) holds before place `p`, after `n` K-steps. -/
def partAt (s : State) (u : Nat) (d : BitVec 512) (p n i j : Nat) : Nat × Nat :=
  if mmExact d then
    let e := exactSum s u d i j ⟨0, 0⟩ (interval (groupStart d n) n)
    (e.q, e.flags)
  else (floatSum s u d i j (tileLoaded s u d p i j) (List.range n), 0)

/-- The cells' partials are those after `n` K-steps. -/
def PartsAre (s : State) (u : Nat) (d : BitVec 512) (p n : Nat) (r : MmRun) : Prop :=
  ∀ i j, i < dM d → j < dN d → r.part[i * dN d + j]? = some (partAt s u d p n i j)

/-! ### What a fold makes of a cell (R85, R95, R98, R99) -/

/-- The code that a fold writes to cell `c`, and the element kept of it; `v` is what the cell's slot holds, and the element kept before. -/
def foldedCell (d : BitVec 512) (f : Fold) (c : Nat) (v : Nat × Nat × Nat) : Nat × Nat × Nat :=
  let x := f.vals.getD c (0, 0)
  if !mmExact d then (x.1, v.2)
  else if f.first && mmFresh d then (XEl.held ⟨x.2, x.1⟩, x)
  else
    let e := XEl.add (if f.first then XEl.load v.1 else ⟨v.2.2, v.2.1⟩) ⟨x.2, x.1⟩
    (XEl.held e, (e.q, e.flags))

/-- What a first fold of a fresh MM makes of a slot before it writes: zero. -/
def clearedBy (d : BitVec 512) (f : Fold) (v : Nat × Nat × Nat) : Nat × Nat × Nat := if f.first && mmFresh d then (0, v.2) else v

/-- A cell's slot and element after a fold has passed over its row. -/
def foldEffect (d : BitVec 512) (i j : Nat) (v : Nat × Nat × Nat) (f : Fold) : Nat × Nat × Nat :=
  if i < dM d ∧ j < dN d then
    let w := foldedCell d f (i * dN d + j) (clearedBy d f v)
    (w.1 % 2 ^ 128, w.2)
  else clearedBy d f v

theorem foldEffect_inside {d : BitVec 512} {i j : Nat} (h : i < dM d ∧ j < dN d) (v : Nat × Nat × Nat) (f : Fold) :
    foldEffect d i j v f =
      ((foldedCell d f (i * dN d + j) (clearedBy d f v)).1 % 2 ^ 128, (foldedCell d f (i * dN d + j) (clearedBy d f v)).2) := if_pos h

theorem foldEffect_outside {d : BitVec 512} {i j : Nat} (h : ¬(i < dM d ∧ j < dN d)) (v : Nat × Nat × Nat) (f : Fold) :
    foldEffect d i j v f = clearedBy d f v := if_neg h

/-- A cell's slot and element after the folds that have yet to reach its row at place `p`. -/
def pendingFolds (d : BitVec 512) (p : Nat) (folds : List Fold) (i j : Nat) (v : Nat × Nat × Nat) : Nat × Nat × Nat :=
  (folds.filter (fun f => decide (p ≤ f.place + i / 4))).foldl (foldEffect d i j) v

theorem pendingFolds_append (d : BitVec 512) (p : Nat) (folds : List Fold) (f : Fold) (hf : p ≤ f.place) (i j : Nat) (v : Nat × Nat × Nat) :
    pendingFolds d p (folds ++ [f]) i j v = foldEffect d i j (pendingFolds d p folds i j v) f := by
  have hlate : p ≤ f.place + i / 4 := by omega
  simp [pendingFolds, List.filter_append, hlate]

/-- The code of cell (i, j) after its first `m` K-steps. -/
def resultAfter (s : State) (u : Nat) (d : BitVec 512) (m i j : Nat) : Nat :=
  if mmExact d then XEl.held (exactSum s u d i j (exactStart s u d i j) (List.range m)) % 2 ^ 128
  else floatSum s u d i j (floatStart s u d i j) (List.range m) % 2 ^ 128

/-- The slot (i, j) of the tile, and the element kept of it, are those that `m` K-steps leave. -/
def CellAfter (s : State) (u : Nat) (d : BitVec 512) (m i j : Nat) (v : Nat × Nat × Nat) : Prop :=
  let before := tileGet (coreAt s u) (mmTile d) (64 * i + j)
  let e := exactSum s u d i j (exactStart s u d i j) (List.range m)
  v.1 = (if m = 0 then before else if i < dM d ∧ j < dN d then resultAfter s u d m i j else if mmFresh d then 0 else before) ∧
    (mmExact d = true → m ≠ 0 → i < dM d → j < dN d → v.2 = (e.q, e.flags))

/-- Outside the shape a first fold clears, and another one leaves what is there. -/
theorem cellAfter_outside {s : State} {u m k i j : Nat} {d : BitVec 512} {v : Nat × Nat × Nat} {f : Fold} (h : CellAfter s u d m i j v)
    (hfirst : f.first = decide (m = 0)) (hk : k ≠ 0) (hout : ¬(i < dM d ∧ j < dN d)) : CellAfter s u d k i j (foldEffect d i j v f) := by
  obtain ⟨hcode, -⟩ := h
  refine ⟨?_, fun _ _ hi hj => absurd ⟨hi, hj⟩ hout⟩
  rw [foldEffect_outside hout, clearedBy, if_neg hk, if_neg hout, hfirst]
  by_cases hm : m = 0 <;> by_cases hfresh : mmFresh d = true <;> simp_all

/-- A fold of an exact MM adds the group's sum to what the groups before it left. -/
theorem cellAfter_exact_fold {s : State} {u m k i j : Nat} {d : BitVec 512} {v : Nat × Nat × Nat} {f : Fold} (hx : mmExact d = true)
    (h : CellAfter s u d m i j v) (hmk : m < k) (hfirst : f.first = decide (m = 0)) (hi : i < dM d) (hj : j < dN d)
    (hv : f.vals.getD (i * dN d + j) (0, 0) =
      ((exactSum s u d i j ⟨0, 0⟩ (interval m k)).q, (exactSum s u d i j ⟨0, 0⟩ (interval m k)).flags)) :
    CellAfter s u d k i j (foldEffect d i j v f) := by
  have hne : interval m k ≠ [] := List.ne_nil_of_mem (mem_interval.2 ⟨le_rfl, hmk⟩)
  have hrange : List.range k = List.range m ++ interval m k := by
    rw [← interval_zero, ← interval_zero, interval_append (Nat.zero_le m) hmk.le]
  have hk : k ≠ 0 := by omega
  obtain ⟨hcode, helem⟩ := h
  have hnew : foldedCell d f (i * dN d + j) (clearedBy d f v) =
      (XEl.held (exactSum s u d i j (exactStart s u d i j) (List.range k)),
        (exactSum s u d i j (exactStart s u d i j) (List.range k)).q, (exactSum s u d i j (exactStart s u d i j) (List.range k)).flags) := by
    unfold foldedCell clearedBy
    rw [hv, hx, hfirst]
    by_cases hm : m = 0
    · subst hm
      rw [interval_zero]
      by_cases hfresh : mmFresh d = true
      · simp [hfresh, exactStart]
      · simp only [if_pos] at hcode
        simp only [hfresh, hcode, exactStart, Bool.not_true, Bool.false_eq_true, if_false, decide_true, Bool.and_false, if_true]
        rw [add_exactSum_zero _ _ _ _ _ (by rwa [interval_zero] at hne)]
    · have hel := helem hx hm hi hj
      simp only [hm, decide_false, Bool.false_and, Bool.not_true, Bool.false_eq_true, if_false, hel]
      rw [add_exactSum_zero _ _ _ _ _ hne, ← exactSum_append, ← hrange]
  refine ⟨?_, fun _ _ _ _ => ?_⟩
  · rw [foldEffect_inside ⟨hi, hj⟩, hnew, if_neg hk, if_pos ⟨hi, hj⟩, resultAfter, if_pos hx]
  · rw [foldEffect_inside ⟨hi, hj⟩, hnew]

/-- The drain of an FP32 MM writes its accumulators. -/
theorem cellAfter_drain {s : State} {u k i j : Nat} {d : BitVec 512} {v : Nat × Nat × Nat} {f : Fold} (hx : mmExact d = false)
    (hk : k ≠ 0) (hi : i < dM d) (hj : j < dN d)
    (hv : f.vals.getD (i * dN d + j) (0, 0) = (floatSum s u d i j (floatStart s u d i j) (List.range k), 0)) :
    CellAfter s u d k i j (foldEffect d i j v f) := by
  refine ⟨?_, fun h => absurd h (by simp [hx])⟩
  rw [foldEffect_inside ⟨hi, hj⟩, if_neg hk, if_pos ⟨hi, hj⟩]
  simp only [foldedCell, hx, hv, resultAfter]
  rfl

/-! ### The K-steps of a cycle (R83 to R88) -/

/-- After `n` K-steps, the sums of the first `m` of them handed to the folds, at place `p`: the partials, and the tile that the folds under
way will leave, over what its slots and elements hold now (`V`). -/
structure StepsDone (s : State) (u : Nat) (d : BitVec 512) (p n m : Nat) (V : Nat → Nat → Nat × Nat × Nat) (r : MmRun) : Prop where
  parts : PartsAre s u d p n r
  sorted : r.folds.Pairwise (fun f g => f.place ≤ g.place)
  bound : ∀ f ∈ r.folds, f.place ≤ if m = dK d then 64 + mmP d else p + 1
  cells : ∀ i j, i < 128 → j < 64 → CellAfter s u d m i j (pendingFolds d p r.folds i j (V i j))

/-- Handing sums to a fold that begins after the present cycle. -/
theorem StepsDone.fold {s : State} {u p n m k : Nat} {d : BitVec 512} {V : Nat → Nat → Nat × Nat × Nat} {r r' : MmRun} {f : Fold}
    (h : StepsDone s u d p n m V r) (hr : r'.folds = r.folds ++ [f]) (hm : m ≠ dK d)
    (hf : p + 1 ≤ f.place ∧ f.place ≤ if k = dK d then 64 + mmP d else p + 1) (hp : p + 1 ≤ 64 + mmP d)
    {n' : Nat} (hparts : PartsAre s u d p n' r')
    (hcells : ∀ i j v, i < 128 → j < 64 → CellAfter s u d m i j v → CellAfter s u d k i j (foldEffect d i j v f)) :
    StepsDone s u d p n' k V r' := by
  have hold : ∀ g ∈ r.folds, g.place ≤ p + 1 := fun g hg => by simpa [hm] using h.bound g hg
  refine ⟨hparts, ?_, fun g hg => ?_, fun i j hi hj => ?_⟩
  · rw [hr, List.pairwise_append]
    exact ⟨h.sorted, List.pairwise_singleton _ _, fun g hg f' hf' => by
      rw [List.mem_singleton.1 hf']
      exact (hold g hg).trans hf.1⟩
  · rw [hr, List.mem_append, List.mem_singleton] at hg
    rcases hg with hg | rfl
    · have hg := hold g hg
      split <;> omega
    · exact hf.2
  · rw [hr, pendingFolds_append _ _ _ _ (by omega)]
    exact hcells i j _ hi hj (h.cells i j hi hj)

theorem getElem?_zipWith_some {α β γ : Type} {f : α → β → γ} {l : List α} {l' : List β} {n : Nat} {a : α} {b : β} (ha : l[n]? = some a)
    (hb : l'[n]? = some b) : (List.zipWith f l l')[n]? = some (f a b) := by
  rw [List.getElem?_zipWith, ha, hb]

/-- The partials after one more K-step, before a fold group is closed. -/
def addedParts (s : State) (u : Nat) (d : BitVec 512) (r : MmRun) (k : Nat) : List (Nat × Nat) :=
  List.zipWith (mmAddCell d) r.part (mmProducts d r (mmSlices s u d k))

theorem addedParts_exact {s : State} {u p k i j : Nat} {d : BitVec 512} {r : MmRun} (hx : mmExact d = true) (h : PartsAre s u d p k r)
    (hr : ScalesAre s u d (k / 32) r) (hi : i < dM d) (hj : j < dN d) :
    (addedParts s u d r k)[i * dN d + j]? = some ((exactSum s u d i j ⟨0, 0⟩ (interval (groupStart d k) (k + 1))).q,
      (exactSum s u d i j ⟨0, 0⟩ (interval (groupStart d k) (k + 1))).flags) := by
  rw [addedParts, getElem?_zipWith_some (h i j hi hj) (getElem?_mmProducts hr hi hj), ← interval_append (groupStart_le d k) k.le_succ,
    interval_succ, exactSum_append, partAt, if_pos hx, mmAddCell, if_pos hx]
  rfl

theorem addedParts_float {s : State} {u p k i j : Nat} {d : BitVec 512} {r : MmRun} (hx : mmExact d = false) (h : PartsAre s u d p k r)
    (hr : ScalesAre s u d (k / 32) r) (hi : i < dM d) (hj : j < dN d) :
    (addedParts s u d r k)[i * dN d + j]? = some (partAt s u d p (k + 1) i j) := by
  rw [addedParts, getElem?_zipWith_some (h i j hi hj) (getElem?_mmProducts hr hi hj)]
  simp [partAt, mmAddCell, hx, floatSum, List.range_succ]

theorem StepsDone.same_folds {s : State} {u p n n' m : Nat} {d : BitVec 512} {V : Nat → Nat → Nat × Nat × Nat} {r r' : MmRun}
    (h : StepsDone s u d p n m V r) (hr : r'.folds = r.folds) (hparts : PartsAre s u d p n' r') : StepsDone s u d p n' m V r' :=
  ⟨hparts, hr ▸ h.sorted, hr ▸ h.bound, by simpa only [hr] using h.cells⟩

theorem groupEnds_iff (d : BitVec 512) (k : Nat) : groupEnds d k = true ↔ mmExact d = true ∧ (k % 64 = 63 ∨ k + 1 = dK d) := by
  simp [groupEnds]

/-- The fold that K-step `k` hands its group to (R85). -/
def groupFold (s : State) (u : Nat) (d : BitVec 512) (r : MmRun) (k : Nat) : Fold :=
  { place := if k + 1 = dK d then 64 + mmP d else r.pos + 1, first := decide (k < 64), vals := addedParts s u d r k }

theorem mmStep_of_group (s : State) (u : Nat) (r : MmRun) {d : BitVec 512} {k : Nat} (h : groupEnds d k = true) :
    (mmStep d r k (mmSlices s u d k)).part = (addedParts s u d r k).map (fun _ => (0, 0)) ∧
      (mmStep d r k (mmSlices s u d k)).folds = r.folds ++ [groupFold s u d r k] := by
  rw [mmStep, if_pos h]
  exact ⟨rfl, rfl⟩

theorem mmStep_of_no_group (s : State) (u : Nat) (r : MmRun) {d : BitVec 512} {k : Nat} (h : groupEnds d k = false) :
    (mmStep d r k (mmSlices s u d k)).part = addedParts s u d r k ∧ (mmStep d r k (mmSlices s u d k)).folds = r.folds := by
  rw [mmStep, if_neg (by simp [h])]
  exact ⟨rfl, rfl⟩

section Step

variable {s : State} {u p k : Nat} {d : BitVec 512} {V : Nat → Nat → Nat × Nat × Nat} {r : MmRun}

/-- A K-step that closes its fold group. -/
theorem StepsDone.group_step (h : StepsDone s u d p k (foldedSteps d p k) V r) (hk : k < dK d) (hr : ScalesAre s u d (k / 32) r)
    (hpos : r.pos = p) (hp : p < 64 + mmP d) (hend : groupEnds d k = true) :
    StepsDone s u d p (k + 1) (foldedSteps d p (k + 1)) V (mmStep d r k (mmSlices s u d k)) := by
  obtain ⟨hx, hlast⟩ := (groupEnds_iff d k).1 hend
  obtain ⟨hpart, hfolds⟩ := mmStep_of_group s u r hend
  have hbefore : foldedSteps d p k = groupStart d k := if_pos hx
  have hstart : groupStart d k = k / 64 * 64 := if_neg (by omega)
  have hafter : foldedSteps d p (k + 1) = k + 1 := by
    rw [foldedSteps, if_pos hx, groupStart]
    split <;> omega
  have hgroup : groupStart d (k + 1) = k + 1 := by rwa [foldedSteps, if_pos hx] at hafter
  rw [hbefore] at h
  rw [hafter]
  refine h.fold hfolds (by omega) ⟨?_, ?_⟩ (by omega) (fun i j hi hj => ?_) fun i j v hi hj hv => ?_
  · simp only [groupFold, hpos]
    split <;> omega
  · simp only [groupFold, hpos]
    split <;> simp_all
  · rw [hpart, List.getElem?_map, addedParts_exact hx h.parts hr hi hj, partAt, if_pos hx, hgroup, interval_empty le_rfl]
    rfl
  · have hfirst : (groupFold s u d r k).first = decide (groupStart d k = 0) := by
      simp only [groupFold, hstart]
      congr 1
      apply propext
      omega
    by_cases hin : i < dM d ∧ j < dN d
    · refine cellAfter_exact_fold hx hv (Nat.lt_succ_of_le (groupStart_le d k)) hfirst hin.1 hin.2 ?_
      rw [groupFold, List.getD_eq_getElem?_getD, addedParts_exact hx h.parts hr hin.1 hin.2]
      rfl
    · exact cellAfter_outside hv hfirst (by omega) hin

/-- A K-step whose products stay in the partials. -/
theorem StepsDone.plain_step (h : StepsDone s u d p k (foldedSteps d p k) V r) (hk : k < dK d) (hr : ScalesAre s u d (k / 32) r)
    (hend : groupEnds d k = false) :
    StepsDone s u d p (k + 1) (foldedSteps d p (k + 1)) V (mmStep d r k (mmSlices s u d k)) := by
  obtain ⟨hpart, hfolds⟩ := mmStep_of_no_group s u r hend
  by_cases hx : mmExact d = true
  · have hopen : ¬(k % 64 = 63 ∨ k + 1 = dK d) := fun hlast => by simp [(groupEnds_iff d k).2 ⟨hx, hlast⟩] at hend
    have hgroup : groupStart d (k + 1) = groupStart d k := by
      rw [groupStart, groupStart, if_neg (by omega), if_neg (by omega)]
      omega
    have hfolded : foldedSteps d p (k + 1) = foldedSteps d p k := by rw [foldedSteps, foldedSteps, hgroup]
    rw [hfolded]
    refine h.same_folds hfolds fun i j hi hj => ?_
    rw [hpart, addedParts_exact hx h.parts hr hi hj, partAt, if_pos hx, hgroup]
  · rw [Bool.not_eq_true] at hx
    have hfolded : foldedSteps d p (k + 1) = foldedSteps d p k := by simp [foldedSteps, hx]
    rw [hfolded]
    refine h.same_folds hfolds fun i j hi hj => ?_
    rw [hpart, addedParts_float hx h.parts hr hi hj]

theorem StepsDone.step (h : StepsDone s u d p k (foldedSteps d p k) V r) (hk : k < dK d) (hr : ScalesAre s u d (k / 32) r)
    (hpos : r.pos = p) (hp : p < 64 + mmP d) :
    StepsDone s u d p (k + 1) (foldedSteps d p (k + 1)) V (mmStep d r k (mmSlices s u d k)) := by
  cases hend : groupEnds d k with
  | true => exact h.group_step hk hr hpos hp hend
  | false => exact h.plain_step hk hr hend

theorem tileLoaded_main {i : Nat} (j : Nat) (hi : i < dM d) (hM : dM d ≤ 128) (hp : 64 ≤ p) : tileLoaded s u d p i j = floatStart s u d i j :=
  if_neg (by omega)

/-- The accumulators of an FP32 MM are handed to its drain at the end of the main phase (R88). -/
theorem StepsDone.wideEnd (h : StepsDone s u d p (stepsWithin d (p + 1 - 64)) (foldedSteps d p (stepsWithin d (p + 1 - 64))) V r)
    (hpos : r.pos = p) (hp : 64 ≤ p ∧ p < 64 + mmP d) (hM : dM d ≤ 128) (hK : 0 < dK d) :
    StepsDone s u d p (stepsWithin d (p + 1 - 64)) (foldedSteps d (p + 1) (stepsWithin d (p + 1 - 64))) V (mmWideEnd d r) := by
  by_cases hx : mmExact d = true
  · rw [mmWideEnd, if_neg (by simp [hx])]
    simpa only [foldedSteps, if_pos hx] using h
  · rw [Bool.not_eq_true] at hx
    have hbefore : foldedSteps d p (stepsWithin d (p + 1 - 64)) = 0 := by simp [foldedSteps, hx]; omega
    by_cases hend : p = 63 + mmP d
    · have hall : stepsWithin d (p + 1 - 64) = dK d := by
        rw [show p + 1 - 64 = mmP d by omega, stepsWithin_mmP]
      have hafter : foldedSteps d (p + 1) (dK d) = dK d := by simp [foldedSteps, hx]; omega
      rw [hbefore, hall] at h
      rw [hall, hafter, mmWideEnd, if_pos (by simp [hx, hpos, hend])]
      refine h.fold rfl (by omega) ⟨by dsimp only; omega, by simp⟩ (by omega) h.parts fun i j v hi hj hv => ?_
      by_cases hin : i < dM d ∧ j < dN d
      · refine cellAfter_drain hx (by omega) hin.1 hin.2 ?_
        rw [List.getD_eq_getElem?_getD, h.parts i j hin.1 hin.2]
        simp [partAt, hx, tileLoaded_main j hin.1 hM hp.1]
      · exact cellAfter_outside hv rfl (by omega) hin
    · have hafter : foldedSteps d (p + 1) (stepsWithin d (p + 1 - 64)) = 0 := by simp [foldedSteps, hx]; omega
      rw [mmWideEnd, if_neg (by simp [hpos, hend]), hafter, ← hbefore]
      exact h

end Step

/-! ### The main phase (R108) -/

/-- Two runs agree but for the cells: their partials, event kinds and folds. -/
def OnlyCells (r r' : MmRun) : Prop := r' = { r with part := r'.part, kinds := r'.kinds, folds := r'.folds }

theorem OnlyCells.trans {r r' r'' : MmRun} (h : OnlyCells r r') (h' : OnlyCells r' r'') : OnlyCells r r'' := by
  unfold OnlyCells at *
  rw [h] at h'
  exact h'

theorem onlyCells_mmStep (d : BitVec 512) (r : MmRun) (k : Nat) (ab : List Nat × List Nat) : OnlyCells r (mmStep d r k ab) := by
  unfold OnlyCells mmStep
  dsimp only
  split <;> rfl

theorem onlyCells_mmWideEnd (d : BitVec 512) (r : MmRun) : OnlyCells r (mmWideEnd d r) := by
  unfold OnlyCells mmWideEnd
  split <;> rfl

/-- The K-steps of a cycle, each with its slices. -/
def addSteps (s : State) (u : Nat) (d : BitVec 512) (r : MmRun) (l : List Nat) : MmRun :=
  l.foldl (fun r k => mmStep d r k (mmSlices s u d k)) r

/-- Where the slices held are those of the K-steps, the cycle adds the K-steps with their slices. -/
theorem foldl_held_slices {s : State} {u : Nat} {d : BitVec 512} (l : List (Nat × Nat)) : ∀ r : MmRun,
    (∀ c ∈ l, (if r.pos = 64 ∨ mmWide d ≠ 1 then r.slices.getD c.2 ([], []) else mmSlices s u d c.1) = mmSlices s u d c.1) →
    l.foldl (fun r k => mmStep d r k.1 (if r.pos = 64 ∨ mmWide d ≠ 1 then r.slices.getD k.2 ([], []) else mmSlices s u d k.1)) r =
      addSteps s u d r (l.map Prod.fst) := by
  induction l with
  | nil => exact fun r _ => rfl
  | cons c l ih =>
    intro r h
    obtain ⟨hc, hl⟩ := List.forall_mem_cons.1 h
    rw [List.foldl_cons, hc, List.map_cons, ih]
    · rfl
    · rw [onlyCells_mmStep d r c.1 (mmSlices s u d c.1)]
      exact hl

theorem mmMain_eq {s : State} {u : Nat} {r : MmRun} (hp : 64 ≤ r.pos ∧ r.pos < 64 + mmP r.d.raw)
    (h : SlicesHeld s u r.d.raw 65 (r.pos + 1) r) :
    ∃ c, mmMain s u r = mmWideEnd r.d.raw { addSteps s u r.d.raw r (mmSteps r.d.raw (r.pos - 64)) with slices := c } ∧
      (mmWide r.d.raw ≠ 1 → c = (addSteps s u r.d.raw r (mmSteps r.d.raw (r.pos - 64))).slices) := by
  have hsteps := foldl_held_slices (s := s) (u := u) _ r fun c hc => slices_of_step hp.1 hc h
  rw [List.zipIdx_map_fst] at hsteps
  rw [mmMain, if_neg (by omega)]
  dsimp only
  rw [hsteps]
  exact ⟨_, rfl, fun hw => if_neg fun hc => hw hc.2⟩

theorem mmMain_idle {s : State} {u : Nat} {r : MmRun} (hp : ¬(64 ≤ r.pos ∧ r.pos < 64 + mmP r.d.raw)) : mmMain s u r = r := by
  rw [mmMain, if_pos (by omega)]

theorem stepsDone_addSteps {s : State} {u p : Nat} {d : BitVec 512} {V : Nat → Nat → Nat × Nat × Nat} {r : MmRun}
    (h : StepsDone s u d p (stepsWithin d (p - 64)) (foldedSteps d p (stepsWithin d (p - 64))) V r)
    (hr : ScalesAre s u d ((stepsWithin d (p + 1 - 64) - 1) / 32) r) (hpos : r.pos = p) (hp : 64 ≤ p ∧ p < 64 + mmP d) :
    StepsDone s u d p (stepsWithin d (p + 1 - 64)) (foldedSteps d p (stepsWithin d (p + 1 - 64))) V
        (addSteps s u d r (mmSteps d (p - 64))) ∧
      OnlyCells r (addSteps s u d r (mmSteps d (p - 64))) := by
  have hnext : p - 64 + 1 = p + 1 - 64 := by omega
  have hblock : ∀ k, stepsWithin d (p - 64) ≤ k → k < stepsWithin d (p + 1 - 64) → k / 32 = (stepsWithin d (p + 1 - 64) - 1) / 32 := by
    intro k hlo hhi
    rw [← hnext] at *
    exact step_block (by rw [mmSteps_eq]; exact mem_interval.2 ⟨hlo, hhi⟩)
  rw [mmSteps_eq, hnext]
  refine foldl_interval (motive := fun n t => StepsDone s u d p n (foldedSteps d p n) V t ∧ OnlyCells r t)
    (stepsWithin_mono d (by omega)) (fun k t hlo hhi ht => ?_) ⟨h, rfl⟩
  obtain ⟨hdone, honly⟩ := ht
  have hscales : ScalesAre s u d (k / 32) t := by
    rw [hblock k hlo hhi, honly]
    exact hr
  have htpos : t.pos = p := by
    rw [honly]
    exact hpos
  exact ⟨hdone.step (hhi.trans_le (stepsWithin_le d _)) hscales htpos hp.2, honly.trans (onlyCells_mmStep ..)⟩

end Sys2Proof
end

section
/-! SUPPORT. The tile of an MM: what folds and the drain write to it, row by row (O14). -/

namespace Sys2Proof

open Machine

/-- Updates of different items (of `D`) one after another: each changes what is read (of `E`) of its own item alone. -/
theorem foldl_updates {σ ι β : Type} [DecidableEq ι] {f : σ → ι → σ} {read : σ → ι → β} {g : ι → β → β} {Q : σ → Prop}
    {D E : ι → Prop}
    (hQ : ∀ t c, Q t → D c → Q (f t c))
    (h : ∀ t c e, Q t → D c → E e → read (f t c) e = if e = c then g c (read t c) else read t e) (l : List ι) :
    ∀ s, l.Nodup → (∀ c ∈ l, D c) → Q s →
      Q (l.foldl f s) ∧ ∀ e, E e → read (l.foldl f s) e = if e ∈ l then g e (read s e) else read s e := by
  induction l with
  | nil => exact fun s _ _ hs => ⟨hs, fun e _ => by simp⟩
  | cons c l ih =>
    intro s hnodup hD hs
    obtain ⟨hnew, hnodup⟩ := List.nodup_cons.1 hnodup
    obtain ⟨hc, hl⟩ := List.forall_mem_cons.1 hD
    obtain ⟨hq, hread⟩ := ih (f s c) hnodup hl (hQ s c hs hc)
    refine ⟨hq, fun e he => ?_⟩
    rw [List.foldl_cons, hread e he, h s c e hs hc he]
    by_cases hec : e = c
    · subst hec
      simp [hnew]
    · simp [hec]

/-! ### What may change while a tile is written -/

/-- Of a state without storage errors only the tile `t` of core `u` changes. -/
structure TileWritten (u t : Nat) (s w : State) : Prop where
  mem : w.mem = s.mem
  ecc : w.ecc = []
  others : ∀ v, v ≠ u → coreAt w v = coreAt s v
  core : coreAt w u = { coreAt s u with tile := (coreAt w u).tile }
  tiles : ∀ k slot, k ≠ t → slot < 8192 → tileGet (coreAt w u) k slot = tileGet (coreAt s u) k slot

theorem TileWritten.refl {u t : Nat} {s : State} (h : s.ecc = []) : TileWritten u t s s :=
  ⟨rfl, h, fun _ _ => rfl, rfl, fun _ _ _ _ => rfl⟩

theorem TileWritten.trans {u t : Nat} {s w x : State} (h : TileWritten u t s w) (g : TileWritten u t w x) : TileWritten u t s x :=
  ⟨g.mem.trans h.mem, g.ecc, fun v hv => (g.others v hv).trans (h.others v hv),
    g.core.trans (by rw [h.core]), fun k slot hk hs => (g.tiles k slot hk hs).trans (h.tiles k slot hk hs)⟩

/-- A state whose core `u` has another tile store. -/
theorem tileWritten_of_setCore {u t : Nat} {s : State} {m : KMap (BitVec 128)} (he : s.ecc = []) (p : Nat × Nat → Bool)
    (h : ∀ k slot, k ≠ t → slot < 8192 → tileGet { coreAt s u with tile := m } k slot = tileGet (coreAt s u) k slot) :
    TileWritten u t s { setCore s u { coreAt s u with tile := m } with ecc := s.ecc.filter p } := by
  have hcore : ∀ e, coreAt { setCore s u { coreAt s u with tile := m } with ecc := e } u = { coreAt s u with tile := m } :=
    fun e => coreAt_setCore ..
  refine ⟨rfl, by rw [he]; rfl, fun v hv => coreAt_setCore_other s u v _ hv, ?_, fun k slot hk hs => ?_⟩
  · rw [hcore]
  · rw [hcore, h k slot hk hs]

/-- A write to a slot. -/
theorem tileWritten_writeSlot {u t slot : Nat} {s : State} (he : s.ecc = []) (hs : slot < 8192) (v : Nat) :
    TileWritten u t s (writeSlot s u t slot v) :=
  tileWritten_of_setCore he _ fun k slot' hk hs' => by
    have hkey : tileKey k slot' ≠ tileKey t slot := fun h => hk ((tileKey_inj hs' hs).1 h).1
    exact (tileGet_tileSet ..).trans (if_neg hkey)

theorem tileGet_writeSlot (s : State) (u t slot v k a : Nat) :
    tileGet (coreAt (writeSlot s u t slot v) u) k a = if tileKey k a = tileKey t slot then v % 2 ^ 128 else tileGet (coreAt s u) k a := by
  have hcore : coreAt (writeSlot s u t slot v) u = tileSet (coreAt s u) t slot v := coreAt_setCore ..
  rw [hcore, tileGet_tileSet]

/-- The slots of row `i` of a tile are cleared. -/
def clearRow (s : State) (u t i : Nat) : State :=
  { setCore s u { coreAt s u with tile := kclear (coreAt s u).tile (tileKey t (64 * i)) 64 } with
    ecc := s.ecc.filter (fun p => p.1 < tileAddr u (tileKey t (64 * i)) ∨ tileAddr u (tileKey t (64 * i) + 64) ≤ p.1) }

theorem tileGet_clearRow (s : State) (u t i k a : Nat) :
    tileGet (coreAt (clearRow s u t i) u) k a =
      if tileKey t (64 * i) ≤ tileKey k a ∧ tileKey k a < tileKey t (64 * i) + 64 then 0 else tileGet (coreAt s u) k a := by
  have hcore : (coreAt (clearRow s u t i) u).tile = kclear (coreAt s u).tile (tileKey t (64 * i)) 64 := by
    change (coreAt (setCore s u _) u).tile = _
    rw [coreAt_setCore]
  rw [tileGet_filter (f := fun key => !decide (tileKey t (64 * i) ≤ key ∧ key < tileKey t (64 * i) + 64)) hcore]
  by_cases h : tileKey t (64 * i) ≤ tileKey k a ∧ tileKey k a < tileKey t (64 * i) + 64 <;> simp [h]

theorem tileWritten_clearRow {s : State} {u t i : Nat} (he : s.ecc = []) (hi : i < 128) : TileWritten u t s (clearRow s u t i) := by
  refine tileWritten_of_setCore he _ fun k slot hk hs => ?_
  have hout : ¬(tileKey t (64 * i) ≤ tileKey k slot ∧ tileKey k slot < tileKey t (64 * i) + 64) := by
    unfold tileKey
    omega
  rw [tileGet_filter (f := fun key => !decide (tileKey t (64 * i) ≤ key ∧ key < tileKey t (64 * i) + 64)) rfl]
  simp [hout]

/-! ### A run and its tile -/

/-- What a fold sees of cell (i, j): its slot, and the element kept of a cell of the shape. -/
def cellView (u : Nat) (d : BitVec 512) (a : State × MmRun) (i j : Nat) : Nat × Nat × Nat :=
  (tileGet (coreAt a.1 u) (mmTile d) (64 * i + j), if i < dM d ∧ j < dN d then a.2.el.getD (i * dN d + j) (0, 0) else (0, 0))

/-- A run of descriptor `d` that keeps an element for each cell, in a state without storage errors. -/
structure FoldReady (d : BitVec 512) (a : State × MmRun) : Prop where
  ecc : a.1.ecc = []
  desc : a.2.d.raw = d
  elems : a.2.el.length = dM d * dN d

/-- Folds change the tile and the elements that are kept, nothing else. -/
structure FoldWritten (u : Nat) (d : BitVec 512) (a b : State × MmRun) : Prop where
  state : TileWritten u (mmTile d) a.1 b.1
  run : b.2 = { a.2 with el := b.2.el }
  elems : b.2.el.length = a.2.el.length

section Folds

variable {u : Nat} {d : BitVec 512} {a b : State × MmRun}

theorem FoldReady.refl (h : FoldReady d a) : FoldWritten u d a a := ⟨.refl h.ecc, rfl, rfl⟩

theorem FoldWritten.trans {c : State × MmRun} (h : FoldWritten u d a b) (g : FoldWritten u d b c) : FoldWritten u d a c :=
  ⟨h.state.trans g.state, g.run.trans (by rw [h.run]), g.elems.trans h.elems⟩

theorem FoldReady.after (h : FoldReady d a) (g : FoldWritten u d a b) : FoldReady d b :=
  ⟨g.state.ecc, by rw [g.run]; exact h.desc, g.elems.trans h.elems⟩

theorem readErrors_of_clean {s : State} (h : s.ecc = []) (u e x n c t k : Nat) : readErrors s u e x n c t k = s := by
  have hnone : eccIn s x n = [] := by
    unfold eccIn
    rw [h]
    split <;> rfl
  rw [readErrors, hnone, List.foldl_nil]

theorem set_getD_self {α : Type} (l : List α) (n : Nat) (x : α) : l.set n (l.getD n x) = l := by
  by_cases h : n < l.length
  · rw [List.getD_eq_getElem _ _ h, List.set_getElem_self]
  · exact List.set_eq_of_length_le (by omega)

theorem foldCell_eq (h : FoldReady d a) (f : Fold) {i j : Nat} (hin : i < dM d ∧ j < dN d) :
    foldCell u f a i j =
      (writeSlot a.1 u (mmTile d) (64 * i + j) (foldedCell d f (i * dN d + j) (cellView u d a i j)).1,
        { a.2 with el := a.2.el.set (i * dN d + j) (foldedCell d f (i * dN d + j) (cellView u d a i j)).2 }) := by
  obtain ⟨hecc, rfl, -⟩ := h
  unfold foldCell foldedCell
  rw [cellView, if_pos hin]
  dsimp only
  by_cases hx : mmExact a.2.d.raw = true
  · by_cases hfirst : (f.first && mmFresh a.2.d.raw) = true
    · simp only [hx, hfirst, Bool.not_true, Bool.false_eq_true, if_false, if_true]
    · have hclean : ∀ key, ¬kget a.1.ecc key = some 2 := fun key => by simp [hecc, kget]
      simp only [hx, hfirst, Bool.not_true, Bool.false_eq_true, if_false, readErrors_of_clean hecc, slotCode, hclean, decide_false]
  · simp only [hx, Bool.not_false, if_true, set_getD_self]

/-- Cells of the shape have places of their own. -/
theorem cellPlace_inj {i j i' j' n : Nat} (hj : j < n) (hj' : j' < n) (h : i * n + j = i' * n + j') : i = i' ∧ j = j' := by
  have hn : 0 < n := by omega
  have hdiv : ∀ i j, j < n → (i * n + j) / n = i := fun i j hj => by
    rw [Nat.add_comm, Nat.add_mul_div_right _ _ hn, Nat.div_eq_of_lt hj, Nat.zero_add]
  have hi : i = i' := by rw [← hdiv i j hj, h, hdiv i' j' hj']
  subst hi
  exact ⟨rfl, by omega⟩

theorem foldCell_spec (h : FoldReady d a) (f : Fold) {i j : Nat} (hin : i < dM d ∧ j < dN d) (hi : i < 128) (hj : j < 64) :
    FoldWritten u d a (foldCell u f a i j) ∧ ∀ i' j', i' < 128 → j' < 64 →
      cellView u d (foldCell u f a i j) i' j' = if i' = i ∧ j' = j
        then ((foldedCell d f (i * dN d + j) (cellView u d a i j)).1 % 2 ^ 128, (foldedCell d f (i * dN d + j) (cellView u d a i j)).2)
        else cellView u d a i' j' := by
  rw [foldCell_eq h f hin]
  refine ⟨⟨tileWritten_writeSlot h.ecc (by omega) _, rfl, List.length_set ..⟩, fun i' j' hi' hj' => ?_⟩
  have hkey : tileKey (mmTile d) (64 * i' + j') = tileKey (mmTile d) (64 * i + j) ↔ i' = i ∧ j' = j := by
    rw [tileKey_inj (by omega) (by omega)]
    omega
  have hlt : i * dN d + j < a.2.el.length := by
    rw [h.elems]
    exact index_lt hin.1 hin.2
  by_cases hsame : i' = i ∧ j' = j
  · obtain ⟨rfl, rfl⟩ := hsame
    rw [cellView, tileGet_writeSlot, if_pos rfl, if_pos hin, if_pos ⟨rfl, rfl⟩]
    simp [List.getD_eq_getElem?_getD, List.getElem?_set_self hlt]
  · rw [cellView, tileGet_writeSlot, if_neg (mt hkey.1 hsame), if_neg hsame, cellView]
    congr 1
    split
    · rename_i hin'
      have hne : i * dN d + j ≠ i' * dN d + j' := fun he => hsame (by
        obtain ⟨h1, h2⟩ := cellPlace_inj hin.2 hin'.2 he
        exact ⟨h1.symm, h2.symm⟩)
      simp [List.getD_eq_getElem?_getD, List.getElem?_set_ne hne]
    · rfl

/-- A row as a fold begins it: a fresh MM's first fold clears it. -/
def rowBegun (u : Nat) (d : BitVec 512) (f : Fold) (a : State × MmRun) (i : Nat) : State × MmRun :=
  if f.first && mmFresh d then (clearRow a.1 u (mmTile d) i, a.2) else a

theorem foldRow_eq (h : a.2.d.raw = d) (f : Fold) (i : Nat) :
    foldRow u f a i =
      if dM d ≤ i then rowBegun u d f a i else (List.range (dN d)).foldl (fun a j => foldCell u f a i j) (rowBegun u d f a i) := by
  subst h
  rfl

theorem rowBegun_spec (h : FoldReady d a) (f : Fold) {i : Nat} (hi : i < 128) :
    FoldWritten u d a (rowBegun u d f a i) ∧ ∀ i' j', i' < 128 → j' < 64 →
      cellView u d (rowBegun u d f a i) i' j' = if i' = i then clearedBy d f (cellView u d a i j') else cellView u d a i' j' := by
  unfold rowBegun clearedBy
  split
  · refine ⟨⟨tileWritten_clearRow h.ecc hi, rfl, rfl⟩, fun i' j' hi' hj' => ?_⟩
    have hkey : (tileKey (mmTile d) (64 * i) ≤ tileKey (mmTile d) (64 * i' + j') ∧
        tileKey (mmTile d) (64 * i' + j') < tileKey (mmTile d) (64 * i) + 64) ↔ i' = i := by
      unfold tileKey
      omega
    rw [cellView, tileGet_clearRow]
    simp only [hkey]
    split
    · rename_i hsame
      rw [hsame]
      rfl
    · rfl
  · exact ⟨h.refl, fun i' j' _ _ => by split <;> simp_all⟩

/-- A fold passes over a row: its cells take the fold's effect, and all other cells stay. -/
theorem foldRow_spec (h : FoldReady d a) (f : Fold) {i : Nat} (hi : i < 128) (hM : dM d ≤ 128) (hN : dN d ≤ 64) :
    FoldWritten u d a (foldRow u f a i) ∧ ∀ i' j', i' < 128 → j' < 64 →
      cellView u d (foldRow u f a i) i' j' = if i' = i then foldEffect d i j' (cellView u d a i j') f else cellView u d a i' j' := by
  obtain ⟨hbegun, hview⟩ := rowBegun_spec (u := u) h f hi
  rw [foldRow_eq h.desc]
  by_cases hrow : dM d ≤ i
  · rw [if_pos hrow]
    refine ⟨hbegun, fun i' j' hi' hj' => ?_⟩
    rw [hview i' j' hi' hj', foldEffect_outside (by omega)]
  · rw [if_neg hrow]
    have hready := h.after hbegun
    have hcells := foldl_updates (f := fun a (c : Nat × Nat) => foldCell u f a c.1 c.2) (read := fun t (e : Nat × Nat) => cellView u d t e.1 e.2)
      (g := fun c v => ((foldedCell d f (c.1 * dN d + c.2) v).1 % 2 ^ 128, (foldedCell d f (c.1 * dN d + c.2) v).2))
      (Q := fun t => FoldWritten u d (rowBegun u d f a i) t) (D := fun c => c.1 < dM d ∧ c.2 < dN d) (E := fun e => e.1 < 128 ∧ e.2 < 64)
      (fun t c ht hc => ht.trans (foldCell_spec (hready.after ht) f hc (by omega) (by omega)).1)
      (fun t c e ht hc he => by
        simpa only [Prod.ext_iff] using (foldCell_spec (hready.after ht) f hc (by omega) (by omega)).2 e.1 e.2 he.1 he.2)
      ((List.range (dN d)).map (fun j => (i, j))) (rowBegun u d f a i)
      (List.nodup_range.map fun j j' hjj => (Prod.mk.inj hjj).2)
      (fun c hc => by
        obtain ⟨j, hj, rfl⟩ := List.mem_map.1 hc
        exact ⟨by omega, List.mem_range.1 hj⟩)
      hready.refl
    rw [List.foldl_map] at hcells
    obtain ⟨hwritten, hcell⟩ := hcells
    refine ⟨hbegun.trans hwritten, fun i' j' hi' hj' => ?_⟩
    have hmem : (i', j') ∈ (List.range (dN d)).map (fun j => (i, j)) ↔ i' = i ∧ j' < dN d := by
      simp [eq_comm, and_comm]
    rw [hcell (i', j') ⟨hi', hj'⟩, hview i' j' hi' hj']
    simp only [hmem]
    by_cases hsame : i' = i
    · subst hsame
      by_cases hcol : j' < dN d
      · rw [if_pos ⟨rfl, hcol⟩, if_pos rfl, if_pos rfl, foldEffect_inside (by omega)]
      · rw [if_neg (by omega), if_pos rfl, if_pos rfl, foldEffect_outside (by omega)]
    · rw [if_neg (by omega), if_neg hsame, if_neg hsame]

/-- A fold in a cycle: it passes over its 4 rows of the cycle, if any (R109). -/
def foldRows (u p : Nat) (a : State × MmRun) (f : Fold) : State × MmRun :=
  if f.place ≤ p ∧ p < f.place + 32 then (List.range 4).foldl (fun a i => foldRow u f a (4 * (p - f.place) + i)) a else a

theorem foldRows_spec (h : FoldReady d a) (f : Fold) (p : Nat) (hM : dM d ≤ 128) (hN : dN d ≤ 64) :
    FoldWritten u d a (foldRows u p a f) ∧ ∀ i j, i < 128 → j < 64 →
      cellView u d (foldRows u p a f) i j =
        if f.place + i / 4 = p then foldEffect d i j (cellView u d a i j) f else cellView u d a i j := by
  unfold foldRows
  split
  · rename_i hnow
    have hrows := fun j (hj : j < 64) => foldl_updates (f := fun a i => foldRow u f a i) (read := fun t i => cellView u d t i j)
      (g := fun i v => foldEffect d i j v f) (Q := fun t => FoldWritten u d a t) (D := (· < 128)) (E := (· < 128))
      (fun t c ht hc => ht.trans (foldRow_spec (h.after ht) f hc hM hN).1)
      (fun t c e ht hc he => by
        refine ((foldRow_spec (h.after ht) f hc hM hN).2 e j he hj).trans ?_
        split <;> simp_all)
      ((List.range 4).map (fun i => 4 * (p - f.place) + i)) a
      (List.nodup_range.map fun i i' hii => Nat.add_left_cancel hii)
      (fun c hc => by
        obtain ⟨i, hi, rfl⟩ := List.mem_map.1 hc
        have hi := List.mem_range.1 hi
        omega)
      h.refl
    simp only [List.foldl_map] at hrows
    refine ⟨(hrows 0 (by decide)).1, fun i j hi hj => ?_⟩
    have hmem : i ∈ (List.range 4).map (fun i => 4 * (p - f.place) + i) ↔ f.place + i / 4 = p := by
      simp only [List.mem_map, List.mem_range]
      exact ⟨fun ⟨k, hk, he⟩ => by omega, fun he => ⟨i % 4, by omega, by omega⟩⟩
    simpa only [hmem] using (hrows j hj).2 i hi
  · rename_i hnow
    exact ⟨h.refl, fun i j hi hj => (if_neg (by omega)).symm⟩

/-- A cycle of the folds: a cell takes the effect of the folds that reach its row in this cycle. -/
theorem foldl_foldRows_spec (p : Nat) (hM : dM d ≤ 128) (hN : dN d ≤ 64) (l : List Fold) : ∀ a : State × MmRun, FoldReady d a →
    FoldWritten u d a (l.foldl (foldRows u p) a) ∧ ∀ i j, i < 128 → j < 64 →
      cellView u d (l.foldl (foldRows u p) a) i j =
        (l.filter (fun f => decide (f.place + i / 4 = p))).foldl (foldEffect d i j) (cellView u d a i j) := by
  induction l with
  | nil => exact fun a h => ⟨h.refl, fun i j _ _ => rfl⟩
  | cons f l ih =>
    intro a h
    obtain ⟨hf, hview⟩ := foldRows_spec (u := u) h f p hM hN
    obtain ⟨hl, hviews⟩ := ih _ (h.after hf)
    refine ⟨hf.trans hl, fun i j hi hj => ?_⟩
    rw [List.foldl_cons, hviews i j hi hj, hview i j hi hj]
    by_cases hnow : f.place + i / 4 = p <;> simp [hnow]

/-- Of folds in the order of their places, those that reach a row now come before those that reach it later. -/
theorem filter_now_later {l : List Fold} (h : l.Pairwise (fun f g => f.place ≤ g.place)) (p k : Nat) :
    l.filter (fun f => decide (p ≤ f.place + k)) =
      l.filter (fun f => decide (f.place + k = p)) ++ l.filter (fun f => decide (p < f.place + k)) := by
  induction l with
  | nil => rfl
  | cons f l ih =>
    obtain ⟨hf, hl⟩ := List.pairwise_cons.1 h
    have ih := ih hl
    rcases Nat.lt_trichotomy (f.place + k) p with hlt | heq | hgt
    · simp [show ¬p ≤ f.place + k by omega, show ¬f.place + k = p by omega, show ¬p < f.place + k by omega, ih]
    · simp [heq, ih]
    · have hnone : l.filter (fun g => decide (g.place + k = p)) = [] := List.filter_eq_nil_iff.2 fun g hg => by
        have hg := hf g hg
        simp
        omega
      rw [hnone] at ih
      simp [show p ≤ f.place + k by omega, show ¬f.place + k = p by omega, show p < f.place + k by omega, ih, hnone]

/-- A cycle of the folds leaves the tile with the same outcome in sight, and drops the folds that have ended. -/
theorem foldCycle_spec (h : FoldReady d a) (p : Nat) (hM : dM d ≤ 128) (hN : dN d ≤ 64)
    (hsorted : a.2.folds.Pairwise (fun f g => f.place ≤ g.place)) :
    TileWritten u (mmTile d) a.1 (foldCycle u p a).1 ∧
      (∃ el, el.length = a.2.el.length ∧ (foldCycle u p a).2 =
        { a.2 with el := el, folds := a.2.folds.filter (fun f => decide (p < f.place + 31)) }) ∧
      ∀ i j, i < 128 → j < 64 → pendingFolds d (p + 1) (foldCycle u p a).2.folds i j (cellView u d (foldCycle u p a) i j) =
        pendingFolds d p a.2.folds i j (cellView u d a i j) := by
  obtain ⟨hwritten, hview⟩ := foldl_foldRows_spec (u := u) p hM hN a.2.folds a h
  have heq : foldCycle u p a = ((a.2.folds.foldl (foldRows u p) a).1,
      { (a.2.folds.foldl (foldRows u p) a).2 with
        folds := (a.2.folds.foldl (foldRows u p) a).2.folds.filter (fun f => decide (p < f.place + 31)) }) := rfl
  have hfolds : (a.2.folds.foldl (foldRows u p) a).2.folds = a.2.folds := by rw [hwritten.run]
  refine ⟨by rw [heq]; exact hwritten.state, ⟨_, hwritten.elems, ?_⟩, fun i j hi hj => ?_⟩
  · rw [heq, hfolds, hwritten.run]
  · have hcell : cellView u d (foldCycle u p a) i j = cellView u d (a.2.folds.foldl (foldRows u p) a) i j := rfl
    have hlater : ((foldCycle u p a).2.folds).filter (fun f => decide (p + 1 ≤ f.place + i / 4)) =
        a.2.folds.filter (fun f => decide (p < f.place + i / 4)) := by
      rw [heq]
      dsimp only
      rw [hfolds, List.filter_filter]
      refine List.filter_congr fun f _ => ?_
      rw [← Bool.decide_and]
      congr 1
      apply propext
      omega
    rw [hcell, hview i j hi hj, pendingFolds, hlater, pendingFolds, filter_now_later hsorted p (i / 4), List.foldl_append]

end Folds

end Sys2Proof
end

section
/-! SUPPORT. An MM cycle by cycle: the invariant of its time, and what it leaves when its signal cycle comes (O14). -/

namespace Sys2Proof

open Machine

/-! ### Reading the tile (R88, R108) -/

/-- The cells that an accumulating FP32 MM reads at place `p`: those of 8 rows. -/
def cellsRead (d : BitVec 512) (p : Nat) : List (Nat × Nat) :=
  ((List.range 8).map (fun i => (List.range (dN d)).map (fun j => (8 * (p - 48) + i, j)))).flatten

theorem mem_cellsRead {d : BitVec 512} {p i j : Nat} :
    (i, j) ∈ cellsRead d p ↔ (8 * (p - 48) ≤ i ∧ i < 8 * (p - 48) + 8) ∧ j < dN d := by
  simp only [cellsRead, List.mem_flatten, List.mem_map, List.mem_range]
  constructor
  · rintro ⟨-, ⟨k, hk, rfl⟩, hmem⟩
    obtain ⟨j', hj', he⟩ := List.mem_map.1 hmem
    obtain ⟨rfl, rfl⟩ := Prod.mk.inj he
    exact ⟨by omega, List.mem_range.1 hj'⟩
  · rintro ⟨hi, hj⟩
    refine ⟨_, ⟨i - 8 * (p - 48), by omega, rfl⟩, List.mem_map.2 ⟨j, List.mem_range.2 hj, ?_⟩⟩
    rw [Nat.add_sub_cancel' hi.1]

theorem nodup_cellsRead (d : BitVec 512) (p : Nat) : (cellsRead d p).Nodup := by
  refine List.nodup_flatten.2 ⟨fun l hl => ?_, List.pairwise_map.2 (List.nodup_range.imp fun {a b} hne => ?_)⟩
  · obtain ⟨i, -, rfl⟩ := List.mem_map.1 hl
    exact List.nodup_range.map fun j j' h => (Prod.mk.inj h).2
  · intro c hc hc'
    obtain ⟨j, -, rfl⟩ := List.mem_map.1 hc
    obtain ⟨j', -, he⟩ := List.mem_map.1 hc'
    have hrow := (Prod.mk.inj he).1
    omega

/-- A cell's accumulator takes the code of its slot, without storage errors. -/
def readCell (u : Nat) (d : BitVec 512) (a : State × MmRun) (c : Nat × Nat) : State × MmRun :=
  if dM d ≤ c.1 then a
  else (a.1, { a.2 with part := a.2.part.set (c.1 * dN d + c.2) (tileGet (coreAt a.1 u) (mmTile d) (64 * c.1 + c.2) % 2 ^ 32, 0) })

/-- Reading changes the accumulators, nothing else. -/
structure PartsRead (a b : State × MmRun) : Prop where
  state : b.1 = a.1
  run : b.2 = { a.2 with part := b.2.part }
  length : b.2.part.length = a.2.part.length

theorem partsRead_readCell (u : Nat) (d : BitVec 512) (a : State × MmRun) (c : Nat × Nat) : PartsRead a (readCell u d a c) := by
  unfold readCell
  split
  · exact ⟨rfl, rfl, rfl⟩
  · exact ⟨rfl, rfl, List.length_set ..⟩

theorem PartsRead.trans {a b c : State × MmRun} (h : PartsRead a b) (g : PartsRead b c) : PartsRead a c :=
  ⟨g.state.trans h.state, g.run.trans (by rw [h.run]), g.length.trans h.length⟩

/-- A cell's reading, with the errors of its slot. -/
def readCellErrors (u : Nat) (d : BitVec 512) (a : State × MmRun) (c : Nat × Nat) : State × MmRun :=
  if dM d ≤ c.1 then a
  else
    let s := readErrors a.1 u 1 (tileAddr u (tileKey (mmTile d) (64 * c.1 + c.2))) 16 a.2.d.cnt (dTag d) 0
    (s, { a.2 with part := a.2.part.set (c.1 * dN d + c.2) (slotCode s u (mmTile d) (64 * c.1 + c.2) % 2 ^ 32, 0) })

theorem readCellErrors_of_clean {u : Nat} {d : BitVec 512} {a : State × MmRun} (he : a.1.ecc = []) (c : Nat × Nat) :
    readCellErrors u d a c = readCell u d a c := by
  have hclean : ∀ key, ¬kget a.1.ecc key = some 2 := fun key => by simp [he, kget]
  simp only [readCellErrors, readCell, readErrors_of_clean he, slotCode, hclean, if_false]

theorem tileRead_eq {u p : Nat} {d : BitVec 512} {a : State × MmRun} (he : a.1.ecc = []) (hd : a.2.d.raw = d)
    (hnow : ¬(mmExact d || mmFresh d || decide (p < 48 ∨ 64 ≤ p)) = true) :
    tileRead u p a = (cellsRead d p).foldl (readCell u d) a := by
  subst hd
  have hcells : ∀ (l : List (Nat × Nat)) (b : State × MmRun), b.1.ecc = [] →
      l.foldl (readCellErrors u a.2.d.raw) b = l.foldl (readCell u a.2.d.raw) b := by
    intro l
    induction l with
    | nil => exact fun b _ => rfl
    | cons c l ih =>
      intro b hb
      rw [List.foldl_cons, List.foldl_cons, readCellErrors_of_clean hb]
      exact ih _ (by rw [(partsRead_readCell ..).state, hb])
  rw [tileRead, if_neg hnow]
  exact hcells _ a he

/-- A cycle's reading brings the accumulators from what they hold before it to what they hold after it. -/
theorem tileRead_spec {s : State} {u p n : Nat} {d : BitVec 512} {a : State × MmRun} (he : a.1.ecc = []) (hd : a.2.d.raw = d)
    (hM : dM d ≤ 128) (hN : dN d ≤ 64) (hparts : PartsAre s u d p n a.2) (hn : p < 64 → n = 0)
    (htile : p < 64 → ∀ i j, i < 128 → j < 64 →
      tileGet (coreAt a.1 u) (mmTile d) (64 * i + j) = tileGet (coreAt s u) (mmTile d) (64 * i + j)) :
    PartsRead a (tileRead u p a) ∧ PartsAre s u d (p + 1) n (tileRead u p a).2 := by
  by_cases hnow : (mmExact d || mmFresh d || decide (p < 48 ∨ 64 ≤ p)) = true
  · have hsame : tileRead u p a = a := by
      subst hd
      exact if_pos hnow
    rw [hsame]
    refine ⟨⟨rfl, rfl, rfl⟩, fun i j hi hj => ?_⟩
    rw [hparts i j hi hj, partAt, partAt]
    simp only [Bool.or_eq_true, decide_eq_true_eq] at hnow
    rcases hnow with (hx | hfresh) | hp
    · rw [if_pos hx, if_pos hx]
    · have hzero : ∀ p, tileLoaded s u d p i j = 0 := fun p => by simp [tileLoaded, floatStart, hfresh]
      rw [hzero, hzero]
    · have hrow : 8 * (p + 1 - 48) ≤ i ↔ 8 * (p - 48) ≤ i := by omega
      simp only [tileLoaded, hrow]
  · have hactive := hnow
    simp only [Bool.or_eq_true, decide_eq_true_eq, not_or] at hnow
    obtain ⟨⟨hx, hfresh⟩, hp⟩ := hnow
    have hn0 : n = 0 := hn (by omega)
    subst hn0
    obtain ⟨hread, hcells⟩ := foldl_updates (f := readCell u d) (read := fun t (e : Nat × Nat) => t.2.part[e.1 * dN d + e.2]?)
      (g := fun e _ => some (tileGet (coreAt a.1 u) (mmTile d) (64 * e.1 + e.2) % 2 ^ 32, 0))
      (Q := fun t => PartsRead a t) (D := fun c => c.2 < dN d) (E := fun e => e.1 < dM d ∧ e.2 < dN d)
      (fun t c ht _ => ht.trans (partsRead_readCell ..))
      (fun t c e ht hc hE => by
        obtain ⟨hlen, -⟩ := List.getElem?_eq_some_iff.1 (hparts e.1 e.2 hE.1 hE.2)
        by_cases hec : e = c
        · subst hec
          rw [readCell, if_neg (by omega), if_pos rfl, List.getElem?_set_self (by rw [ht.length]; exact hlen), ht.state]
        · have hne : c.1 * dN d + c.2 ≠ e.1 * dN d + e.2 := fun h => hec (by
            obtain ⟨h1, h2⟩ := cellPlace_inj hc hE.2 h
            exact Prod.ext h1.symm h2.symm)
          rw [if_neg hec, readCell]
          split
          · rfl
          · exact List.getElem?_set_ne hne)
      (cellsRead d p) a (nodup_cellsRead d p) (fun c hc => (mem_cellsRead.1 hc).2) ⟨rfl, rfl, rfl⟩
    rw [tileRead_eq he hd hactive]
    refine ⟨hread, fun i j hi hj => (hcells (i, j) ⟨hi, hj⟩).trans ?_⟩
    rw [hparts i j hi hj]
    simp only [mem_cellsRead, partAt, if_neg hx, List.range_zero, floatSum, List.foldl_nil, tileLoaded]
    by_cases hrow : 8 * (p - 48) ≤ i ∧ i < 8 * (p - 48) + 8
    · rw [if_pos ⟨hrow, hj⟩, if_neg (by omega), floatStart, if_neg hfresh, htile (by omega) i j (by omega) (by omega)]
    · have hlater : 8 * (p + 1 - 48) ≤ i ↔ 8 * (p - 48) ≤ i := by omega
      simp only [hrow, false_and, if_false, hlater]

/-! ### The state over the time of an MM -/

/-- The tags of a core's tiles before place `p`: a fresh MM gives its tile its tag in its last cycle (R98). -/
def tagsAt (s : State) (u : Nat) (d : BitVec 512) (p : Nat) : KMap (BitVec 16) :=
  if mmFresh d = true ∧ 96 + mmP d ≤ p then kput 0 (coreAt s u).tag (mmTile d) (mkTag (mmExact d) (fld d 406 10)) else (coreAt s u).tag

/-- Before place `p`, the state differs from that at the start in the MM's tile and its tag, and in counts. -/
structure MmKept (s : State) (u : Nat) (d : BitVec 512) (p : Nat) (w : State) : Prop where
  mem : w.mem = s.mem
  ecc : w.ecc = []
  others : ∀ v, v ≠ u → coreAt w v = coreAt s v
  core : coreAt w u = { coreAt s u with tile := (coreAt w u).tile, tag := tagsAt s u d p }
  tiles : ∀ k slot, k ≠ mmTile d → slot < 8192 → tileGet (coreAt w u) k slot = tileGet (coreAt s u) k slot

theorem MmKept.congr {s w w' : State} {u p : Nat} {d : BitVec 512} (h : MmKept s u d p w) (hm : w'.mem = w.mem) (he : w'.ecc = w.ecc)
    (hc : w'.cores = w.cores) : MmKept s u d p w' := by
  have hcore : ∀ v, coreAt w' v = coreAt w v := fun v => by rw [coreAt, coreAt, hc]
  exact ⟨hm.trans h.mem, he.trans h.ecc, fun v hv => (hcore v).trans (h.others v hv), by rw [hcore]; exact h.core,
    fun k slot hk hs => by rw [hcore]; exact h.tiles k slot hk hs⟩

theorem MmKept.written {s w w' : State} {u p : Nat} {d : BitVec 512} (h : MmKept s u d p w) (g : TileWritten u (mmTile d) w w') :
    MmKept s u d p w' :=
  ⟨g.mem.trans h.mem, g.ecc, fun v hv => (g.others v hv).trans (h.others v hv), g.core.trans (by rw [h.core]),
    fun k slot hk hs => (g.tiles k slot hk hs).trans (h.tiles k slot hk hs)⟩

/-- Tagging changes the tag of the tile alone. -/
theorem mmTag_spec {s : State} {u p : Nat} {d : BitVec 512} {a : State × MmRun} (hd : a.2.d.raw = d) (hp : p < 96 + mmP d)
    (h : MmKept s u d p a.1) :
    MmKept s u d (p + 1) (mmTag u p a).1 ∧ (mmTag u p a).2 = a.2 ∧ (coreAt (mmTag u p a).1 u).tile = (coreAt a.1 u).tile := by
  subst hd
  have hbefore : tagsAt s u a.2.d.raw p = (coreAt s u).tag := if_neg (by omega)
  unfold mmTag
  by_cases hnow : (mmFresh a.2.d.raw && decide (p = 95 + mmP a.2.d.raw)) = true
  · rw [if_pos hnow]
    simp only [Bool.and_eq_true, decide_eq_true_eq] at hnow
    have hafter : tagsAt s u a.2.d.raw (p + 1) =
        kput 0 (coreAt s u).tag (mmTile a.2.d.raw) (mkTag (mmExact a.2.d.raw) (fld a.2.d.raw 406 10)) := if_pos ⟨hnow.1, by omega⟩
    have htag : (coreAt a.1 u).tag = (coreAt s u).tag := by rw [h.core, hbefore]
    refine ⟨⟨h.mem, h.ecc, fun v hv => (coreAt_setCore_other _ _ _ _ hv).trans (h.others v hv), ?_, fun k slot hk hs => ?_⟩, rfl, ?_⟩
    · rw [coreAt_setCore, hafter, htag, h.core]
    · rw [coreAt_setCore]
      exact h.tiles k slot hk hs
    · rw [coreAt_setCore]
  · rw [if_neg hnow]
    have hafter : tagsAt s u a.2.d.raw (p + 1) = tagsAt s u a.2.d.raw p := by
      rw [hbefore]
      refine if_neg fun hlast => hnow ?_
      simp only [Bool.and_eq_true, decide_eq_true_eq]
      exact ⟨hlast.1, by omega⟩
    exact ⟨⟨h.mem, h.ecc, h.others, by rw [hafter]; exact h.core, h.tiles⟩, rfl, rfl⟩

/-! ### One cycle -/

/-- Without storage errors, a cycle of an MM counts and does its four parts of work. -/
theorem mmCycle_eq {s : State} {r : MmRun} (u : Nat) (hno : r.noop = false) (hp : r.pos < 96 + mmP r.d.raw) (he : s.ecc = []) :
    ∃ t : State, t.mem = s.mem ∧ t.ecc = s.ecc ∧ t.cores = s.cores ∧
      let a := mmTag u r.pos (foldCycle u r.pos (tileRead u r.pos (t, mmMain s u (mmTake s u r))))
      mmCycle s u r = (a.1, { a.2 with pos := r.pos + 1 }) := by
  have hclean : ∀ l : List (Nat × Nat × Nat), l.foldl (fun t k => readErrors t u 1 k.1 k.2.1 r.d.cnt (dTag r.d.raw) k.2.2) s = s := fun l =>
    List.foldlRecOn (motive := (· = s)) l _ rfl fun t ht k _ => by rw [ht, readErrors_of_clean he]
  have hgo : ¬(r.noop = true ∨ mmDone r = true) := by simp [mmDone, hno, hp]
  have hcount : ∀ t : State, Touches [.act] s t → Touches [.act, .regs, .faultq, .rems] s (if 64 ≤ r.pos ∧ r.pos < 64 + mmP r.d.raw then
      bumpUnits (countAct t (dieOf u) (fld r.d.raw 384 4) (dPhase r.d.raw) (mmSteps r.d.raw (r.pos - 64)).length) (0x7840 + dieOf u) 3 6 2
        1024 1 else t) := fun t ht =>
    .ite ((ht.mono rfl).trans (((touches_countAct ..).mono rfl).trans ((touches_bumpUnits ..).mono rfl))) (ht.mono rfl)
  have htouch := hcount _ (touches_countAct s (dieOf u) 48 (dPhase r.d.raw) (mmAccesses u r).length)
  refine ⟨_, htouch.same .mem (by decide), htouch.same .ecc (by decide), htouch.same .cores (by decide), ?_⟩
  rw [mmCycle, if_neg hgo, hclean]

theorem mmTake_only (s : State) (u : Nat) (r : MmRun) : ∃ x y z, mmTake s u r = { r with sa := x, sb := y, slices := z } := by
  obtain ⟨z, hz⟩ := mmTake_keeps s u r
  obtain ⟨x, y, hxy⟩ := mmScales_foldl s u r.d.raw (mmBlocks r.d.raw r.pos) r
  exact ⟨x, y, z, by rw [hz, hxy]⟩

/-- The main phase's work of a cycle brings the partials and the folds to those after the cycle's K-steps. -/
theorem mmMain_spec {s : State} {u p : Nat} {V : Nat → Nat → Nat × Nat × Nat} {r : MmRun} (hpos : r.pos = p)
    (hM : dM r.d.raw ≤ 128) (hK : 0 < dK r.d.raw) (hslices : SlicesHeld s u r.d.raw 65 (p + 1) r)
    (hscales : 12 < p + 1 → ScalesAre s u r.d.raw ((stepsWithin r.d.raw (p + 1 - 64) - 1) / 32) r)
    (h : StepsDone s u r.d.raw p (stepsWithin r.d.raw (p - 64)) (foldedSteps r.d.raw p (stepsWithin r.d.raw (p - 64))) V r) :
    StepsDone s u r.d.raw p (stepsWithin r.d.raw (p + 1 - 64)) (foldedSteps r.d.raw (p + 1) (stepsWithin r.d.raw (p + 1 - 64))) V
        (mmMain s u r) ∧
      ((mmMain s u r).d = r.d ∧ (mmMain s u r).noop = r.noop ∧ (mmMain s u r).el = r.el ∧ (mmMain s u r).sa = r.sa ∧
        (mmMain s u r).sb = r.sb) ∧
      SlicesHeld s u r.d.raw 64 (p + 1) (mmMain s u r) ∧ (p < 64 → mmMain s u r = r) := by
  by_cases hp : 64 ≤ p ∧ p < 64 + mmP r.d.raw
  · subst hpos
    obtain ⟨c, hmain, hwide⟩ := mmMain_eq hp hslices
    obtain ⟨hdone, honly⟩ := stepsDone_addSteps h (hscales (by omega)) rfl hp
    have hslice : (addSteps s u r.d.raw r (mmSteps r.d.raw (r.pos - 64))).slices = r.slices := by rw [honly]
    have hend := StepsDone.wideEnd (r := { addSteps s u r.d.raw r (mmSteps r.d.raw (r.pos - 64)) with slices := c })
      ⟨hdone.parts, hdone.sorted, hdone.bound, hdone.cells⟩ (by rw [honly]) hp hM hK
    have hwe := onlyCells_mmWideEnd r.d.raw { addSteps s u r.d.raw r (mmSteps r.d.raw (r.pos - 64)) with slices := c }
    rw [hmain]
    refine ⟨hend, ?_, ?_, fun hlt => absurd hp.1 (by omega)⟩
    · rw [hwe]
      dsimp only
      rw [honly]
      exact ⟨rfl, rfl, rfl, rfl, rfl⟩
    unfold SlicesHeld at *
    split
    · intro _ hle
      omega
    · rename_i hw
      rw [if_neg hw] at hslices
      rw [hwe]
      dsimp only
      rw [hwide hw, hslice]
      exact hslices
  · have hidle := mmMain_idle (s := s) (u := u) (r := r) (by rwa [hpos])
    have hsteps : stepsWithin r.d.raw (p + 1 - 64) = stepsWithin r.d.raw (p - 64) := by
      rcases Nat.lt_or_ge p 64 with hlt | hge
      · rw [show p + 1 - 64 = 0 by omega, show p - 64 = 0 by omega]
      · rw [stepsWithin_done (by omega), stepsWithin_done (by omega)]
    have hP := mmP_ge r.d.raw
    have hend : 64 + mmP r.d.raw ≤ p + 1 ↔ 64 + mmP r.d.raw ≤ p := by omega
    have hfolded : ∀ n, foldedSteps r.d.raw (p + 1) n = foldedSteps r.d.raw p n := fun n => by simp only [foldedSteps, hend]
    rw [hidle, hsteps, hfolded]
    refine ⟨h, ⟨rfl, rfl, rfl, rfl, rfl⟩, ?_, fun _ => rfl⟩
    unfold SlicesHeld at *
    split
    · rename_i hw
      rw [if_pos hw] at hslices
      exact fun hlo hhi => hslices hlo (by omega)
    · rename_i hw
      rwa [if_neg hw] at hslices

/-! ### The invariant -/

/-- An MM and the state before place `p` of its time, nothing else being at work. -/
structure MmInv (s : State) (u : Nat) (q : QDesc) (p : Nat) (a : State × MmRun) : Prop where
  kept : MmKept s u q.raw p a.1
  desc : a.2.d = q
  noop : a.2.noop = false
  pos : a.2.pos = p
  elems : a.2.el.length = dM q.raw * dN q.raw
  early : p ≤ 64 → a.2.folds = []
  slices : SlicesHeld s u q.raw 64 p a.2
  scales : 12 < p → ScalesAre s u q.raw ((stepsWithin q.raw (p - 64) - 1) / 32) a.2
  steps : StepsDone s u q.raw p (stepsWithin q.raw (p - 64)) (foldedSteps q.raw p (stepsWithin q.raw (p - 64))) (cellView u q.raw a) a.2

theorem foldedSteps_zero {d : BitVec 512} {p : Nat} (hp : p < 64 + mmP d) : foldedSteps d p 0 = 0 := by
  unfold foldedSteps
  split
  · exact Nat.le_zero.1 (groupStart_le ..)
  · exact if_neg (by omega)

theorem mmInv_begin {s : State} {q : QDesc} (u : Nat) (hno : isNoop q.raw = false) (he : s.ecc = []) : MmInv s u q 0 (s, mmBegin q) := by
  have htags : tagsAt s u q.raw 0 = (coreAt s u).tag := if_neg (by omega)
  have hstart : groupStart q.raw 0 = 0 := Nat.le_zero.1 (groupStart_le ..)
  refine ⟨⟨rfl, he, fun _ _ => rfl, by rw [htags], fun _ _ _ _ => rfl⟩, rfl, hno, rfl, by simp [mmBegin, hno], fun _ => rfl, ?_,
    fun h => absurd h (by decide), ?_⟩
  · unfold SlicesHeld
    split <;> exact fun h => absurd h (by decide)
  · rw [Nat.zero_sub, stepsWithin_zero, foldedSteps_zero (by omega)]
    refine ⟨fun i j hi hj => ?_, .nil, fun f hf => absurd hf List.not_mem_nil, fun i j _ _ => ⟨rfl, fun _ h => absurd rfl h⟩⟩
    have hplace := index_lt hi hj
    have hpart : partAt s u q.raw 0 0 i j = (0, 0) := by
      unfold partAt
      split
      · rw [hstart, interval_empty le_rfl]
        rfl
      · simp [floatSum, tileLoaded]
    rw [hpart]
    simp [mmBegin, hno, hplace]

/-- The MM `a` after the reads of the operands and the additions of its cycle at place `p`, before the tile's part of the cycle. -/
structure MmAdded (s : State) (u : Nat) (q : QDesc) (p : Nat) (a : State × MmRun) (r : MmRun) : Prop where
  desc : r.d = q
  noop : r.noop = false
  el : r.el = a.2.el
  early : p < 64 → r.folds = []
  slices : SlicesHeld s u q.raw 64 (p + 1) r
  scales : 12 < p + 1 → ScalesAre s u q.raw ((stepsWithin q.raw (p + 1 - 64) - 1) / 32) r
  steps : StepsDone s u q.raw p (stepsWithin q.raw (p + 1 - 64)) (foldedSteps q.raw (p + 1) (stepsWithin q.raw (p + 1 - 64)))
    (cellView u q.raw a) r

theorem MmInv.added {s : State} {u p : Nat} {q : QDesc} {a : State × MmRun} (h : MmInv s u q p a) (hM : dM q.raw ≤ 128)
    (hK : 0 < dK q.raw) : MmAdded s u q p a (mmMain s u (mmTake s u a.2)) := by
  obtain ⟨-, hdesc, hnoop, hpos, -, hearly, hslices, hscales, hsteps⟩ := h
  have hraw : a.2.d.raw = q.raw := by rw [hdesc]
  obtain ⟨x, y, z, htake⟩ := mmTake_only s u a.2
  have hraw1 : (mmTake s u a.2).d.raw = q.raw := by rw [htake]; exact hraw
  have hslices1 : SlicesHeld s u q.raw 65 (p + 1) (mmTake s u a.2) := by
    have hread := slicesHeld_mmTake (s := s) (u := u) (r := a.2) (by rwa [hraw, hpos])
    rwa [hraw, hpos] at hread
  have hscales1 : 12 < p + 1 → ScalesAre s u q.raw ((stepsWithin q.raw (p + 1 - 64) - 1) / 32) (mmTake s u a.2) := fun hlt => by
    have hread := scalesAre_mmTake (s := s) (u := u) (r := a.2) (by rwa [hraw, hpos]) (by rwa [hpos])
    rwa [hraw, hpos] at hread
  have hsteps1 : StepsDone s u q.raw p (stepsWithin q.raw (p - 64)) (foldedSteps q.raw p (stepsWithin q.raw (p - 64)))
      (cellView u q.raw a) (mmTake s u a.2) := by
    rw [htake]
    exact ⟨hsteps.parts, hsteps.sorted, hsteps.bound, hsteps.cells⟩
  rw [← hraw1] at hslices1 hscales1 hsteps1
  obtain ⟨hsteps2, ⟨hd, hno, hel, hsa, hsb⟩, hslices2, hidle⟩ :=
    mmMain_spec (by rw [htake]; exact hpos) (hraw1 ▸ hM) (hraw1 ▸ hK) hslices1 hscales1 hsteps1
  rw [hraw1] at hsteps2 hslices2 hscales1
  refine ⟨by rw [hd, htake]; exact hdesc, by rw [hno, htake]; exact hnoop, by rw [hel, htake], fun hlt => ?_, hslices2, fun hlt => ?_,
    hsteps2⟩
  · rw [hidle hlt, htake]
    exact hearly (by omega)
  · obtain ⟨ha, hb⟩ := hscales1 hlt
    exact ⟨hsa.trans ha, hsb.trans hb⟩

/-- While an FP32 MM reads its tile, the tile is as at the start. -/
theorem MmAdded.tile_unchanged {s : State} {u p : Nat} {q : QDesc} {a : State × MmRun} {r : MmRun} (h : MmAdded s u q p a r) (hp : p < 64)
    {i j : Nat} (hi : i < 128) (hj : j < 64) :
    tileGet (coreAt a.1 u) (mmTile q.raw) (64 * i + j) = tileGet (coreAt s u) (mmTile q.raw) (64 * i + j) := by
  have hP := mmP_ge q.raw
  have hcell := (h.steps.cells i j hi hj).1
  rwa [show p + 1 - 64 = 0 by omega, stepsWithin_zero, foldedSteps_zero (by omega), h.early hp, if_pos rfl] at hcell

/-- Every cycle of an MM keeps the invariant. -/
theorem MmInv.cycle {s : State} {u p : Nat} {q : QDesc} {a : State × MmRun} (h : MmInv s u q p a) (hp : p < 96 + mmP q.raw)
    (hM : dM q.raw ≤ 128) (hN : dN q.raw ≤ 64) (hK : 0 < dK q.raw) (he : s.ecc = []) : MmInv s u q (p + 1) (mmCycle a.1 u a.2) := by
  have hadded := h.added hM hK
  obtain ⟨hkept, hdesc, hnoop, hpos, helems, -, -, -, -⟩ := h
  have hecc : a.1.ecc = s.ecc := hkept.ecc.trans he.symm
  obtain ⟨t, htmem, htecc, htcores, hcycle⟩ := mmCycle_eq u hnoop (by rwa [hpos, hdesc]) hkept.ecc
  rw [mmTake_congr hkept.mem hecc, mmMain_congr hkept.mem hecc, hpos] at hcycle
  generalize mmMain s u (mmTake s u a.2) = r at *
  have hcores : ∀ v, coreAt t v = coreAt a.1 v := fun v => by rw [coreAt, coreAt, htcores]
  -- the tile is read
  obtain ⟨hread, hparts⟩ := tileRead_spec (a := (t, r)) (htecc.trans hkept.ecc) (by rw [hadded.desc]) hM hN hadded.steps.parts
    (fun hlt => by rw [show p + 1 - 64 = 0 by omega, stepsWithin_zero])
    (fun hlt i j hi hj => by
      rw [hcores]
      exact hadded.tile_unchanged hlt hi hj)
  generalize tileRead u p (t, r) = b at *
  -- the folds write it
  have hready : FoldReady q.raw b := ⟨by rw [hread.state]; exact htecc.trans hkept.ecc, by rw [hread.run]; exact congrArg QDesc.raw hadded.desc,
    by rw [hread.run]; exact (congrArg List.length hadded.el).trans helems⟩
  have hfolds : b.2.folds = r.folds := by rw [hread.run]
  have hview : cellView u q.raw b = cellView u q.raw a := by
    have hel : b.2.el = a.2.el := by rw [hread.run]; exact hadded.el
    funext i j
    simp only [cellView, hread.state, hcores, hel]
  obtain ⟨hwritten, ⟨el, hlen, hrun⟩, hcells⟩ := foldCycle_spec (u := u) hready p hM hN (by rw [hfolds]; exact hadded.steps.sorted)
  have hkept' : MmKept s u q.raw p (foldCycle u p b).1 :=
    (hkept.congr (w' := b.1) (by rw [hread.state, htmem]) (by rw [hread.state, htecc]) (by rw [hread.state, htcores])).written hwritten
  -- the tag is set
  obtain ⟨hkeptTag, hrunTag, htile⟩ := mmTag_spec (u := u) (by rw [hrun]; exact hready.desc) hp hkept'
  have hfinal : (mmTag u p (foldCycle u p b)).2 =
      { r with part := b.2.part, el := el, folds := r.folds.filter (fun f => decide (p < f.place + 31)) } := by
    rw [hrunTag, hrun, hfolds, hread.run]
  have hend : ∀ i j, cellView u q.raw ((mmTag u p (foldCycle u p b)).1, { (mmTag u p (foldCycle u p b)).2 with pos := p + 1 }) i j =
      cellView u q.raw (foldCycle u p b) i j := fun i j => by simp only [cellView, tileGet_congr htile, hrunTag]
  rw [hcycle]
  refine ⟨hkeptTag, by rw [hfinal]; exact hadded.desc, by rw [hfinal]; exact hadded.noop, rfl, by rw [hfinal]; exact hlen.trans hready.elems,
    fun hle => ?_, by rw [hfinal]; exact hadded.slices, fun hlt => by rw [hfinal]; exact hadded.scales hlt,
    by rw [hfinal]; exact hparts, by rw [hfinal]; exact hadded.steps.sorted.filter _, fun f hf => ?_, fun i j hi hj => ?_⟩
  · rw [hfinal]
    dsimp only
    rw [hadded.early (by omega), List.filter_nil]
  · rw [hfinal] at hf
    have hbound := hadded.steps.bound f (List.mem_filter.1 hf).1
    split at hbound <;> split <;> omega
  · have hcell := hcells i j hi hj
    rw [hfolds, hview] at hcell
    rw [hend]
    change CellAfter s u q.raw _ i j (pendingFolds q.raw (p + 1) (mmTag u p (foldCycle u p b)).2.folds i j _)
    rw [hrunTag, hcell]
    exact hadded.steps.cells i j hi hj

end Sys2Proof
end

section
/-! SUPPORT. What an MM leaves when its signal cycle comes, and O14. -/

namespace Sys2Proof

open Machine

/-! ### The end of the time -/

theorem foldedSteps_end (d : BitVec 512) : foldedSteps d (96 + mmP d) (dK d) = dK d := by
  unfold foldedSteps
  split
  · exact if_pos rfl
  · exact if_pos (by omega)

/-- Folds that began 32 cycles before place `p`, or earlier, have passed over every row by `p`. -/
theorem pendingFolds_of_ended {d : BitVec 512} {p i j : Nat} {folds : List Fold} (h : ∀ f ∈ folds, f.place + 32 ≤ p) (hi : i < 128)
    (v : Nat × Nat × Nat) : pendingFolds d p folds i j v = v := by
  have hnone : folds.filter (fun f => decide (p ≤ f.place + i / 4)) = [] := List.filter_eq_nil_iff.2 fun f hf => by
    have hf := h f hf
    rw [decide_eq_true_eq]
    omega
  rw [pendingFolds, hnone, List.foldl_nil]

theorem dK_pos_of_mm {d : BitVec 512} (hopc : dOpc d = 0x10) (hno : isNoop d = false) : 0 < dK d := by
  simp only [isNoop, usesShape, hopc, Bool.and_eq_false_iff, Bool.or_eq_false_iff, beq_eq_false_iff_ne] at hno
  rcases hno with hno | ⟨⟨-, hk⟩, -⟩
  · exact absurd hno (by decide)
  · exact Nat.pos_of_ne_zero hk

theorem tagOf_tagsAt (s : State) (u : Nat) (d : BitVec 512) :
    tagOf (tagsAt s u d (96 + mmP d)) (mmTile d) =
      if mmFresh d then mkTag (mmExact d) (fld d 406 10) else tagOf (coreAt s u).tag (mmTile d) := by
  unfold tagsAt tagOf
  by_cases hfresh : mmFresh d = true
  · rw [if_pos ⟨hfresh, le_rfl⟩, if_pos hfresh, kget_kput, if_pos rfl]
  · rw [if_neg (fun h => hfresh h.1), if_neg hfresh]

section Run

variable {s : State} {q : QDesc} (u : Nat)

/-- The invariant holds over the time of an MM. -/
theorem mmInv_mmAt (hopc : dOpc q.raw = 0x10) (hno : isNoop q.raw = false) (hM : dM q.raw ≤ 128) (hN : dN q.raw ≤ 64) (he : s.ecc = [])
    {p : Nat} (hp : p ≤ 96 + mmP q.raw) : MmInv s u q p (mmAt s u q p) := by
  induction p with
  | zero => exact mmInv_begin u hno he
  | succ p ih => exact (ih (by omega)).cycle (by omega) hM hN (dK_pos_of_mm hopc hno) he

variable {u}

/-- At the signal cycle every slot of the tile is the one that all K-steps leave. -/
theorem MmInv.cells_end {a : State × MmRun} (h : MmInv s u q (96 + mmP q.raw) a) {i j : Nat} (hi : i < 128) (hj : j < 64) :
    CellAfter s u q.raw (dK q.raw) i j (cellView u q.raw a i j) := by
  have hsteps := h.steps
  rw [stepsWithin_done (by omega), foldedSteps_end] at hsteps
  have hended : ∀ f ∈ a.2.folds, f.place + 32 ≤ 96 + mmP q.raw := fun f hf => by
    have hbound := hsteps.bound f hf
    rw [if_pos rfl] at hbound
    omega
  have hcell := hsteps.cells i j hi hj
  rwa [pendingFolds_of_ended hended hi] at hcell

theorem MmInv.code_end {a : State × MmRun} (h : MmInv s u q (96 + mmP q.raw) a) (hK : 0 < dK q.raw) {i j : Nat} (hi : i < 128)
    (hj : j < 64) :
    tileGet (coreAt a.1 u) (mmTile q.raw) (64 * i + j) =
      if i < dM q.raw ∧ j < dN q.raw then resultAfter s u q.raw (dK q.raw) i j
      else if mmFresh q.raw then 0 else tileGet (coreAt s u) (mmTile q.raw) (64 * i + j) := by
  obtain ⟨hcode, -⟩ := h.cells_end hi hj
  rwa [if_neg (by omega)] at hcode

theorem resultAfter_all (s : State) (u : Nat) (d : BitVec 512) (i j : Nat) :
    resultAfter s u d (dK d) i j = (if mmExact d then XEl.held (mmExactSum s u d i j) else mmFloatSum s u d i j) % 2 ^ 128 := by
  rw [resultAfter, mmExactSum_eq, mmFloatSum_eq]
  split <;> rfl

theorem MmInv.done_iff {a : State × MmRun} {p : Nat} (h : MmInv s u q p a) : mmDone a.2 = decide (96 + mmP q.raw ≤ p) := by
  rw [mmDone, h.noop, h.pos, h.desc]
  exact if_neg (by decide)

end Run

/-- Settles O14: each cycle of an MM keeps the invariant `MmInv`, by which the folds under way turn what the tile holds into what the K-steps
done so far leave; at the signal cycle all K-steps are done and no fold is under way. -/
theorem mmWritesItsCells : Obligations.MmWritesItsCells := by
  unfold Obligations.MmWritesItsCells
  refine ⟨fun s u c hp hu => ⟨fun q hq => exec_mm_ready hp hu hq, fun hq => exec_mm_idle hp hu hq⟩,
    fun s u q hopc hno hM hN he => ?_, fun s u q p hno => mmAt_noop_done s u hno p⟩
  have hK := dK_pos_of_mm hopc hno
  have hinv : ∀ p, p ≤ 96 + mmP q.raw → MmInv s u q p (mmAt s u q p) := fun p hp => mmInv_mmAt u hopc hno hM hN he hp
  have hend := hinv _ le_rfl
  obtain ⟨hmem, -, hothers, hcore, htiles⟩ := hend.kept
  refine ⟨fun i j hi hj => ?_, fun i j hi hj hout => ?_, fun k slot _ hk hs => htiles k slot hk hs, ?_, ?_, ?_, hothers, hmem,
    fun p hp => ?_, ?_⟩
  · rw [hend.code_end hK (by omega) (by omega), if_pos ⟨hi, hj⟩, resultAfter_all]
  · rw [hend.code_end hK hi hj, if_neg hout]
  · rw [hcore, tagOf_tagsAt]
  · rw [hcore]
  · rw [hcore]
  · rw [(hinv p hp.le).done_iff]
    exact decide_eq_false (by omega)
  · rw [hend.done_iff]
    exact decide_eq_true le_rfl

end Sys2Proof
end

section
/-! SUPPORT. The start of a VX operation (O16 to O18). -/

namespace Sys2Proof

open Machine

/-- The core after the head `q` of its VXE queue has started in cycle `now`. -/
def vxStartedCore (x : CoreSt) (now : Nat) (q : QDesc) : CoreSt :=
  { x with vq := x.vq.drop 1, lastVStart := now + 1, vrun := x.vrun ++ [vxBegin q] }

theorem vxStart_of_none {s : State} {u vop : Nat} (h : vxReady s u vop = none) : vxStart s u vop = s := by rw [vxStart, h]

/-- A descriptor that starts has its slip counted and goes from the queue to the run. -/
theorem vxStart_of_some {s : State} {u vop : Nat} {q : QDesc} (h : vxReady s u vop = some q) :
    vxStart s u vop = setCore (countSlip s u q 3) u (vxStartedCore (coreAt s u) (absNow s) q) := by
  have htouch := touches_countSlip s u q 3
  have hcore : coreAt (countSlip s u q 3) u = coreAt s u := htouch.coreAt_eq (by decide) u
  have hedge : (countSlip s u q 3).edge = s.edge := htouch.same .edge (by decide)
  have hcyc : (countSlip s u q 3).cyc = s.cyc := htouch.same .cyc (by decide)
  have hnow : absNow (countSlip s u q 3) = absNow s := by rw [absNow, absNow, hedge, hcyc]
  rw [← hcore, ← hnow, vxStart, h]
  rfl

/-- A command that starts the head of the VXE queue with the operation `vop` at its cycle, and does nothing else, starts as R164 says. -/
theorem vxStarts_of_exec {i : Nat → Nat → Instr} {vop : Nat}
    (hexec : ∀ s u c, exec (i u c) s = onCore s u (vxStart (coreTick s u c) u vop)) : VxStarts i vop := by
  intro s u c hp hu t x
  refine ⟨fun q hq => ?_, fun hq => ?_⟩
  · have hframe : CoreFrame u [] t (setCore (countSlip t u q 3) u (vxStartedCore x (absNow t) q)) :=
      (coreFrame_countSlip _ q 3 (dieOf_lt hu)).trans (coreFrame_setCore ..)
    obtain ⟨t', ht, hend, hframe'⟩ := onCore_next_frame hp hu hframe (by decide)
    refine ⟨t', by rw [hexec, vxStart_of_some hq, ht], ?_, ?_, hframe'⟩
    · rw [hend.coreAt_eq (by decide), coreAt_setCore, vxStartedCore]
    · have hset : Touches [.cores, .alertN] (countSlip t u q 3) t' :=
        ((touches_setCore ..).mono rfl).trans (hend.mono rfl)
      exact (slipCounted_countSlip (by decide) t q).congr (hset.same .regs (by decide)) (hset.same .variant (by decide))
  · rw [hexec, vxStart_of_none hq]
    exact onCore_next_idle hp hu

end Sys2Proof
end

section
/-! SUPPORT. One cycle of a VX descriptor, and its run over all its cycles (O16 to O18): the elements as they were read, the lookup table, and
the results that each cycle has ready. -/

namespace Sys2Proof

open Machine

/-! ### One cycle (R162, R163) -/

/-- Meeting storage errors changes of a run only the list of the words that were met. -/
theorem vxErrors_run (s : State) (u : Nat) (r : VxRun) : ∃ met, (vxErrors s u r).2 = { r with met := met } := by
  unfold vxErrors
  split
  · exact ⟨r.met, rfl⟩
  · refine List.foldlRecOn (motive := fun a : State × VxRun => ∃ met, a.2 = { r with met := met }) _ _ ⟨r.met, rfl⟩ ?_
    rintro a ⟨met, h⟩ w -
    dsimp only
    split
    · exact ⟨met, h⟩
    · exact ⟨w.1.1 :: a.2.met, by rw [h]⟩

theorem vxGroupFrom_done {v : Variant} {d : BitVec 512} {a p : Nat} (h : a + vxS v d ≤ p) : vxGroupFrom v d a p = (0, 0) :=
  if_neg (by omega)

theorem vxOutputsAt_of_no_group {v : Variant} {d : BitVec 512} {p : Nat} (h : vxWriteGroup v d p = (0, 0)) : vxOutputsAt v d p = [] := by
  simp [vxOutputsAt, h]

/-- No result is written before streaming and depth have brought the first one. -/
theorem vxOutputsAt_early {v : Variant} {d : BitVec 512} {p : Nat} (h : p < (vxAD d).1 + (vxAD d).2) : vxOutputsAt v d p = [] :=
  vxOutputsAt_of_no_group (if_neg (by omega))

theorem vxAD_lut {d : BitVec 512} (h : vOp d = 8) : vxAD d = (16, 8) := by simp [vxAD, vxCopy, h]

/-- What a cycle of a VX descriptor leaves of its run: what it has read, and the results that it has ready (R143, R158, R163). -/
structure VxCycled (s : State) (u : Nat) (r b : VxRun) : Prop where
  table : b.table = r.table ++ if vOp r.d.raw = 8 ∧ r.pos < 16 then
    peek s (flatAddr u (spaceOf (oAddr (vS2 r.d.raw))) (offOf (oAddr (vS2 r.d.raw)) + 128 * r.pos)) 128 else []
  got : b.got = r.got ++
    (interval (vxReadGroup s.variant r.d.raw r.pos).1 (vxReadGroup s.variant r.d.raw r.pos).2).map (vxRead s u r.d.raw)
  out : b.out = (vxOutputsAt s.variant r.d.raw r.pos).map (fun k => (k, (vxCode r.d b.table b.got k).1))
  outSc : vOp r.d.raw = 24 → b.outSc = ((vxOutputsAt s.variant r.d.raw r.pos).filter (blockHead r.d.raw)).map (fun e =>
    (scaleAddr u r.d.raw (e / dN r.d.raw) (e % dN r.d.raw), qntScale r.d.raw b.got e))
  noScales : vOp r.d.raw ≠ 24 → b.outSc = []

/-- A descriptor whose signal cycle has come reads and writes nothing more. -/
theorem vxCycled_done {s : State} {u : Nat} {r : VxRun} (hno : r.noop = false) (hdone : vxDone s.variant r = true)
    (hout : r.out = []) (hsc : r.outSc = []) : VxCycled s u r (vxCycle s u r).2 := by
  have hcycle : vxCycle s u r = (s, { r with pos := r.pos + 1 }) := if_pos (.inr hdone)
  have hend : (vxAD r.d.raw).1 + vxS s.variant r.d.raw + (vxAD r.d.raw).2 ≤ r.pos := by simpa [vxDone, vxEnd, hno] using hdone
  have hread : vxReadGroup s.variant r.d.raw r.pos = (0, 0) := vxGroupFrom_done (by omega)
  have hnone : vxOutputsAt s.variant r.d.raw r.pos = [] := vxOutputsAt_of_no_group (vxGroupFrom_done (by omega))
  have htable : ¬(vOp r.d.raw = 8 ∧ r.pos < 16) := by
    rintro ⟨hop, hpos⟩
    rw [vxAD_lut hop] at hend
    omega
  rw [hcycle]
  exact ⟨by simp [htable], by simp [hread, interval_empty], by simp [hnone, hout], fun _ => by simp [hnone, hsc], fun _ => hsc⟩

theorem vxCycled_working {s : State} {u : Nat} {r : VxRun} (hno : r.noop = false) (hdone : vxDone s.variant r = false) :
    VxCycled s u r (vxCycle s u r).2 := by
  obtain ⟨met, hmet⟩ := vxErrors_run s u r
  have hgoing : ¬(r.noop = true ∨ vxDone s.variant r = true) := by simp [hno, hdone]
  rw [vxCycle, if_neg hgoing]
  refine ⟨?_, ?_, ?_, fun hop => ?_, fun hop => ?_⟩
  · simp only [hmet]
    split <;> simp
  · simp [hmet, interval, Function.comp_def]
  · simp [Function.comp_def]
  · simp [hop, Function.comp_def]
  · simp [hop]

theorem vxCycled_vxCycle {s : State} {u : Nat} {r : VxRun} (hno : r.noop = false) (hout : r.out = []) (hsc : r.outSc = []) :
    VxCycled s u r (vxCycle s u r).2 := by
  cases hdone : vxDone s.variant r
  · exact vxCycled_working hno hdone
  · exact vxCycled_done hno hdone hout hsc

/-- A cycle leaves a run its descriptor, and moves it one place on. -/
theorem vxCycle_place (s : State) (u : Nat) (r : VxRun) :
    (vxCycle s u r).2.d = r.d ∧ (vxCycle s u r).2.noop = r.noop ∧ (vxCycle s u r).2.pos = r.pos + 1 := by
  obtain ⟨met, hmet⟩ := vxErrors_run s u r
  unfold vxCycle
  dsimp only
  split
  · exact ⟨rfl, rfl, rfl⟩
  · rw [hmet]
    exact ⟨rfl, rfl, rfl⟩

/-- The counts and records that a cycle may change before it writes. -/
def vxRecordFields : List Field := [.act, .parts, .capSeen, .faultq, .regs, .blobs, .rems]

theorem touches_vxErrors_records (s : State) (u : Nat) (r : VxRun) : Touches vxRecordFields s (vxErrors s u r).1 := by
  unfold vxErrors
  split
  · exact .refl
  · refine Touches.foldPair (a := (s, r)) _ (fun a k => ?_) _
    split
    · exact .refl
    · exact .ite ((touches_errorRec ..).mono rfl) ((touches_bumpCorr ..).mono rfl)

/-- A cycle writes no storage: its results wait for `vxWrite`. -/
theorem touches_vxCycle_records (s : State) (u : Nat) (r : VxRun) : Touches vxRecordFields s (vxCycle s u r).1 := by
  unfold vxCycle
  dsimp only
  split
  · exact .refl
  · exact ((touches_vxErrors_records ..).trans (.ite ((touches_bumpUnits ..).mono rfl) .refl)).trans
      (((touches_countAct ..).mono rfl).trans ((touches_countAct ..).mono rfl))

/-- Without results, and before the signal cycle, there is nothing to write. -/
theorem vxWrite_of_nothing {s : State} {u : Nat} {r : VxRun} (hout : r.out = []) (hsc : r.outSc = []) (hpos : r.pos ≠ vxEnd s.variant r) :
    vxWrite s u r = s := by
  simp [vxWrite, hout, hsc, hpos]

/-! ### The run -/

theorem getElem?_interval {a b i : Nat} (h : i < b - a) : (interval a b)[i]? = some (a + i) := by simp [interval, h]

/-- A descriptor's run at place `p`, with no results waiting. -/
structure VxProgress (q : QDesc) (p : Nat) (r : VxRun) : Prop where
  desc : r.d = q
  noop : r.noop = isNoop q.raw
  pos : r.pos = p
  out : r.out = []
  outSc : r.outSc = []

theorem vxProgress_vxAt (s : State) (u : Nat) (q : QDesc) (p : Nat) : VxProgress q p (vxAt s u q p).2 := by
  induction p with
  | zero => exact ⟨rfl, rfl, rfl, rfl, rfl⟩
  | succ p ih =>
    obtain ⟨hd, hno, hpos⟩ := vxCycle_place (vxAt s u q p).1 u (vxAt s u q p).2
    exact ⟨hd.trans ih.desc, hno.trans ih.noop, hpos.trans (congrArg (· + 1) ih.pos), rfl, rfl⟩

theorem variant_vxAt (s : State) (u : Nat) (q : QDesc) (p : Nat) : (vxAt s u q p).1.variant = s.variant := by
  induction p with
  | zero => rfl
  | succ p ih =>
    have hcycle := (touches_vxCycle (vxAt s u q p).1 u (vxAt s u q p).2).same .variant (by decide)
    have hwrite := (touches_vxWrite (vxCycle (vxAt s u q p).1 u (vxAt s u q p).2).1 u (vxCycle (vxAt s u q p).1 u (vxAt s u q p).2).2).same
      .variant (by decide)
    exact hwrite.trans (hcycle.trans ih)

/-- Element `e` as the run of a descriptor reads it. -/
def vxElem (s : State) (u : Nat) (q : QDesc) (e : Nat) : VElem :=
  (vxAt s u q (vxEnd s.variant (vxBegin q))).2.got.getD e ⟨0, 0, 0, 0⟩

section Run

variable {s : State} {u : Nat} {q : QDesc} (hno : isNoop q.raw = false)
include hno

theorem vxCycled_vxAt (p : Nat) : VxCycled (vxAt s u q p).1 u (vxAt s u q p).2 (vxCycle (vxAt s u q p).1 u (vxAt s u q p).2).2 := by
  have h := vxProgress_vxAt s u q p
  exact vxCycled_vxCycle (h.noop.trans hno) h.out h.outSc

/-- Each cycle adds the elements of its group to those that have been read. -/
theorem got_vxAt_succ (p : Nat) : (vxAt s u q (p + 1)).2.got = (vxAt s u q p).2.got ++
    (interval (vxHandled s.variant q.raw (vxAD q.raw).1 p) (vxHandled s.variant q.raw (vxAD q.raw).1 (p + 1))).map
      (vxRead (vxAt s u q p).1 u q.raw) := by
  have h := (vxCycled_vxAt (s := s) (u := u) hno p).got
  rwa [(vxProgress_vxAt s u q p).desc, (vxProgress_vxAt s u q p).pos, variant_vxAt, vxReadGroup_eq, interval_vxGroupFrom] at h

theorem got_vxAt_length (p : Nat) : (vxAt s u q p).2.got.length = vxHandled s.variant q.raw (vxAD q.raw).1 p := by
  induction p with
  | zero => rw [vxHandled_zero]; rfl
  | succ p ih =>
    have hmono := vxHandled_mono s.variant q.raw (vxAD q.raw).1 (Nat.le_add_right p 1)
    rw [got_vxAt_succ hno, List.length_append, ih, List.length_map, interval, List.length_map, List.length_range]
    omega

theorem got_vxAt_extends {p p' : Nat} (h : p ≤ p') : ∃ more, (vxAt s u q p').2.got = (vxAt s u q p).2.got ++ more := by
  induction h with
  | refl => exact ⟨[], (List.append_nil _).symm⟩
  | step _ ih =>
    obtain ⟨more, ih⟩ := ih
    exact ⟨_, by rw [got_vxAt_succ hno, ih, List.append_assoc]⟩

/-- An element that has been read stays as it was read. -/
theorem got_vxAt_getD {p e : Nat} (he : e < vxHandled s.variant q.raw (vxAD q.raw).1 p) :
    (vxAt s u q p).2.got.getD e ⟨0, 0, 0, 0⟩ = vxElem s u q e := by
  have hend : vxHandled s.variant q.raw (vxAD q.raw).1 p ≤ vxHandled s.variant q.raw (vxAD q.raw).1 (vxEnd s.variant (vxBegin q)) := by
    rw [vxHandled_all (p := vxEnd s.variant (vxBegin q)) (by rw [vxEnd_begin hno]; omega)]
    exact (vxHandled_mono _ _ _ (Nat.le_add_left p _)).trans_eq (vxHandled_all (Nat.le_add_right _ p))
  have hsame : ∀ {a b}, a ≤ b → e < vxHandled s.variant q.raw (vxAD q.raw).1 a →
      (vxAt s u q a).2.got.getD e ⟨0, 0, 0, 0⟩ = (vxAt s u q b).2.got.getD e ⟨0, 0, 0, 0⟩ := fun hab ha => by
    obtain ⟨more, hmore⟩ := got_vxAt_extends (s := s) (u := u) hno hab
    rw [hmore, List.getD_append _ _ _ _ (by rwa [got_vxAt_length hno])]
  rcases Nat.le_total p (vxEnd s.variant (vxBegin q)) with hp | hp
  · exact hsame hp he
  · exact (hsame hp (he.trans_le hend)).symm

/-- Each element is what is read in its streaming cycle. -/
theorem vxElem_eq_vxRead {p e : Nat} (hlo : (vxReadGroup s.variant q.raw p).1 ≤ e) (hhi : e < (vxReadGroup s.variant q.raw p).2) :
    vxElem s u q e = vxRead (vxAt s u q p).1 u q.raw e := by
  obtain ⟨hlo, hhi⟩ := (mem_vxGroupFrom ..).1 ⟨hlo, hhi⟩
  have hlen := got_vxAt_length (s := s) (u := u) hno p
  rw [← got_vxAt_getD hno hhi, got_vxAt_succ hno, List.getD_append_right _ _ _ _ (hlen.trans_le hlo), hlen, List.getD_eq_getElem?_getD,
    List.getElem?_map, getElem?_interval (Nat.sub_lt_sub_right hlo hhi), Nat.add_sub_of_le hlo]
  rfl

end Run

/-! ### The lookup table (R154, R161) -/

theorem peek_congr {s t : State} (hm : t.mem = s.mem) (he : t.ecc = s.ecc) (a n : Nat) : peek t a n = peek s a n := by
  simp only [peek, hm, he]

theorem mread_add (m : List Host.Cell) (a k n : Nat) : mread m a (k + n) = mread m a k ++ mread m (a + k) n := by
  induction k generalizing a with
  | zero => simp [mread]
  | succ k ih => rw [Nat.succ_add, mread, mread, ih, Nat.add_assoc, Nat.add_comm 1 k, List.cons_append]

theorem mread_length (m : List Host.Cell) (a n : Nat) : (mread m a n).length = n := by
  induction n generalizing a with
  | zero => rfl
  | succ n ih => rw [mread, List.length_cons, ih]

theorem peek_nothing (s : State) (a : Nat) : peek s a 0 = [] := by simp [peek, mread]

/-- What is read at once is what is read in two parts. -/
theorem peek_add (s : State) (a k n : Nat) : peek s a (k + n) = peek s a k ++ peek s (a + k) n := by
  unfold peek
  dsimp only
  split
  · exact mread_add ..
  · rw [mread_add, List.zipIdx_append, List.map_append, mread_length, Nat.zero_add,
      List.zipIdx_eq_map_add (l := mread s.mem (a + k) n) (i := k), List.map_map]
    simp [Function.comp_def, Nat.add_assoc]

theorem flatAddr_add {u sp : Nat} (h : sp < 2) (a b : Nat) : flatAddr u sp (a + b) = flatAddr u sp a + b := by
  interval_cases sp
  · exact (Nat.add_assoc ..).symm
  · exact (Nat.add_assoc ..).symm

/-- The first `n` bytes of the table of a LUT. -/
def lutBytes (s : State) (u : Nat) (d : BitVec 512) (n : Nat) : List Byte :=
  peek s (flatAddr u (spaceOf (oAddr (vS2 d))) (offOf (oAddr (vS2 d)))) n

/-- Each set-up cycle reads the next 128 bytes of the table. -/
theorem lutBytes_succ (s : State) (u : Nat) (d : BitVec 512) (p : Nat) :
    lutBytes s u d (128 * (p + 1)) = lutBytes s u d (128 * p) ++
      peek s (flatAddr u (spaceOf (oAddr (vS2 d))) (offOf (oAddr (vS2 d)) + 128 * p)) 128 := by
  have hspace : spaceOf (oAddr (vS2 d)) < 2 := Nat.mod_lt _ (by decide)
  rw [flatAddr_add hspace, lutBytes, lutBytes, Nat.mul_succ, peek_add]

section Lut

variable {s : State} {u : Nat} {q : QDesc} (hno : isNoop q.raw = false) (hop : vOp q.raw = 8)
include hno hop

/-- While a LUT reads its table, nothing is written. -/
theorem storage_vxAt_lut {p : Nat} (hp : p ≤ 16) : (vxAt s u q p).1.mem = s.mem ∧ (vxAt s u q p).1.ecc = s.ecc := by
  induction p with
  | zero => exact ⟨rfl, rfl⟩
  | succ p ih =>
    obtain ⟨hmem, hecc⟩ := ih (by omega)
    have hprog := vxProgress_vxAt s u q p
    have hcycled := vxCycled_vxAt (s := s) (u := u) hno p
    have htouch := touches_vxCycle_records (vxAt s u q p).1 u (vxAt s u q p).2
    obtain ⟨hd, hn, hpos⟩ := vxCycle_place (vxAt s u q p).1 u (vxAt s u q p).2
    rw [vxAt]
    set b := vxCycle (vxAt s u q p).1 u (vxAt s u q p).2
    have hout : b.2.out = [] := by
      rw [hcycled.out, hprog.desc, hprog.pos, vxOutputsAt_early (by rw [vxAD_lut hop]; omega), List.map_nil]
    have hsc : b.2.outSc = [] := hcycled.noScales (by rw [hprog.desc, hop]; decide)
    have hend : b.2.pos < vxEnd b.1.variant b.2 := by
      have hnoop : b.2.noop = false := hn.trans (hprog.noop.trans hno)
      rw [vxEnd, if_neg (by simp [hnoop]), hd, hprog.desc, vxAD_lut hop, hpos, hprog.pos]
      omega
    rw [vxWrite_of_nothing hout hsc hend.ne]
    exact ⟨(htouch.same .mem (by decide)).trans hmem, (htouch.same .ecc (by decide)).trans hecc⟩

/-- The table of a LUT after `p` cycles, as it stood when the LUT started. -/
theorem table_vxAt_lut (p : Nat) : (vxAt s u q p).2.table = lutBytes s u q.raw (128 * min p 16) := by
  induction p with
  | zero => exact (peek_nothing ..).symm
  | succ p ih =>
    have htable := (vxCycled_vxAt (s := s) (u := u) hno p).table
    rw [(vxProgress_vxAt s u q p).desc, (vxProgress_vxAt s u q p).pos, ih] at htable
    refine htable.trans ?_
    by_cases hp : p < 16
    · obtain ⟨hmem, hecc⟩ := storage_vxAt_lut (s := s) (u := u) hno hop (Nat.le_of_lt hp)
      rw [if_pos ⟨hop, hp⟩, peek_congr hmem hecc, Nat.min_eq_left hp.le, Nat.min_eq_left (Nat.succ_le_of_lt hp), lutBytes_succ]
    · rw [if_neg fun h => hp h.2, List.append_nil, Nat.min_eq_right (by omega), Nat.min_eq_right (by omega)]

end Lut

end Sys2Proof
end

section
/-! SUPPORT. From what a VX result is computed (O16 to O18): the elements that it needs have been read when it is ready, so that its code is
that of these elements. -/

namespace Sys2Proof

open Machine

/-! ### The elements that a result needs (R150, R158, R163) -/

/-- The elements from which output `k` is computed. -/
def sourceElems (d : BitVec 512) (k : Nat) : List Nat :=
  if isReduce (vOp d) then leavesOf d k else if vOp d = 24 then blockOf d k else [k]

/-- The last element of an ascending list is the greatest. -/
theorem le_getLastD {l : List Nat} (h : l.Pairwise (· ≤ ·)) {x : Nat} (hx : x ∈ l) (a : Nat) : x ≤ l.getLastD a := by
  rw [List.getLastD_eq_getLast?, List.getLast?_eq_some_getLast (List.ne_nil_of_mem hx), Option.getD_some]
  exact h.rel_getLast hx

theorem leavesOf_ascending (d : BitVec 512) (k : Nat) : (leavesOf d k).Pairwise (· ≤ ·) := by
  unfold leavesOf
  split
  · exact List.pairwise_le_range.map _ fun a b h => Nat.add_le_add_left h _
  · exact List.pairwise_le_range.map _ fun a b h => Nat.add_le_add_right (Nat.mul_le_mul_right _ h) _

theorem blockOf_ascending (d : BitVec 512) (k : Nat) : (blockOf d k).Pairwise (· ≤ ·) := by
  unfold blockOf
  dsimp only
  split
  · exact (List.pairwise_le_range.filter _).map _ fun a b h => Nat.add_le_add_left h _
  · exact (List.pairwise_le_range.filter _).map _ fun a b h => Nat.add_le_add_right (Nat.mul_le_mul_right _ h) _

/-- A result waits for every element that it needs. -/
theorem le_lastElem {d : BitVec 512} {k e : Nat} (h : e ∈ sourceElems d k) : e ≤ lastElem d k := by
  unfold lastElem
  unfold sourceElems at h
  split_ifs at h ⊢
  · exact le_getLastD (leavesOf_ascending d k) h _
  · exact le_getLastD (blockOf_ascending d k) h _
  · exact (List.mem_singleton.1 h).le

/-- An element lies in its block. -/
theorem mem_blockOf_self {d : BitVec 512} {k : Nat} (hk : k < dM d * dN d) : k ∈ blockOf d k := by
  have hn : 0 < dN d := Nat.pos_of_mul_pos_left (Nat.zero_lt_of_lt hk)
  have hrow : k / dN d < dM d := (Nat.div_lt_iff_lt_mul hn).2 hk
  have hcol : k % dN d < dN d := Nat.mod_lt _ hn
  unfold blockOf
  dsimp only
  split
  · exact List.mem_map.2 ⟨k % dN d, by simp [hcol], Nat.div_add_mod' ..⟩
  · exact List.mem_map.2 ⟨k / dN d, by simp [hrow], Nat.div_add_mod' ..⟩

/-- A result that is ready depends on elements read by then. -/
theorem lastElem_lt_handled {v : Variant} {d : BitVec 512} {p k : Nat} (h : k ∈ vxOutputsAt v d p) :
    lastElem d k < vxHandled v d (vxAD d).1 (p + 1) := by
  have hdepth : vxHandled v d ((vxAD d).1 + (vxAD d).2) (p + 1) ≤ vxHandled v d (vxAD d).1 (p + 1) :=
    Nat.div_le_div_right (Nat.mul_le_mul_right _ (by omega))
  refine Nat.lt_of_lt_of_le ?_ hdepth
  unfold vxOutputsAt at h
  dsimp only at h
  split at h
  · exact ((mem_vxGroupFrom ..).1 (of_decide_eq_true (List.mem_filter.1 h).2)).2
  · rename_i hown
    have hlast : lastElem d k = k := by rw [lastElem, if_neg fun hr => hown (.inl hr), if_neg fun hq => hown (.inr hq)]
    rw [hlast]
    exact ((mem_vxGroupFrom ..).1 (mem_interval.1 h)).2

/-- The outputs of QNT are elements of its shape. -/
theorem quantised_lt {v : Variant} {d : BitVec 512} {p k : Nat} (hop : vOp d = 24) (h : k ∈ vxOutputsAt v d p) : k < dM d * dN d := by
  have hcount : vOutputs d = dM d * dN d := by simp [vOutputs, isReduce, hop]
  rw [vxOutputsAt, if_pos (.inr hop)] at h
  rw [← hcount]
  exact List.mem_range.1 (List.mem_filter.1 h).1

theorem got_vxAt_sources {s : State} {u : Nat} {q : QDesc} {p k e : Nat} (hno : isNoop q.raw = false)
    (hk : k ∈ vxOutputsAt s.variant q.raw p) (he : e ∈ sourceElems q.raw k) :
    (vxAt s u q (p + 1)).2.got.getD e ⟨0, 0, 0, 0⟩ = vxElem s u q e :=
  got_vxAt_getD hno (Nat.lt_of_le_of_lt (le_lastElem he) (lastElem_lt_handled hk))

/-! ### Codes -/

/-- An operation gives the code of each result from the elements that the result needs, and a LUT from its table too. -/
def GivesCode (vop : Nat) (code : QDesc → List Byte → (Nat → VElem) → Nat → Nat) : Prop :=
  ∀ (q : QDesc) (table : List Byte) (got : List VElem) (g : Nat → VElem) (k : Nat), vOp q.raw = vop →
    (vop = 24 → k < dM q.raw * dN q.raw) → (∀ e ∈ sourceElems q.raw k, got.getD e ⟨0, 0, 0, 0⟩ = g e) →
    ∀ table', (vop = 8 → table = table') → (vxCode q table got k).1 = code q table' g k

/-- The results of a run are the codes of the elements as they were read, and of the table as it stood at the start. -/
theorem vxComputes_of_givesCode {vop : Nat} {code : QDesc → List Byte → (Nat → VElem) → Nat → Nat} (h : GivesCode vop code) :
    VxComputes vop code := by
  intro s u q hopc hno hop d table
  refine ⟨vxElem s u q, fun p e hlo hhi => vxElem_eq_vxRead hno hlo hhi, fun p => ?_⟩
  have hout := (vxCycled_vxAt (s := s) (u := u) hno p).out
  rw [(vxProgress_vxAt s u q p).desc, (vxProgress_vxAt s u q p).pos, variant_vxAt] at hout
  rw [hout]
  refine List.map_congr_left fun k hk => ?_
  have htable : vop = 8 → (vxAt s u q (p + 1)).2.table = table := fun hlut => by
    have hlut : vOp q.raw = 8 := hop.trans hlut
    have hlate : 16 ≤ p := by
      by_contra hearly
      rw [vxOutputsAt_early (by rw [vxAD_lut hlut]; omega)] at hk
      exact absurd hk List.not_mem_nil
    rw [table_vxAt_lut hno hlut, Nat.min_eq_right (by omega)]
    rfl
  exact congrArg (Prod.mk k) (h q _ _ _ k hop (fun hqnt => quantised_lt (hop.trans hqnt) hk)
    (fun e he => got_vxAt_sources hno hk he) _ htable)

/-- An operation that computes each result from its own element. -/
theorem givesCode_of_own {vop : Nat} {code : QDesc → List Byte → VElem → Nat → Nat} (hown : isReduce vop = false ∧ vop ≠ 24)
    (h : ∀ q table got k, vOp q.raw = vop → (vxCode q table got k).1 = code q table (got.getD k ⟨0, 0, 0, 0⟩) k)
    (htable : vop = 8 ∨ ∀ q table table' g k, code q table g k = code q table' g k) :
    GivesCode vop (fun q table g k => code q table (g k) k) := by
  intro q table got g k hop _ hg table' ht
  have hsource : sourceElems q.raw k = [k] := by rw [sourceElems, hop, hown.1, if_neg Bool.false_ne_true, if_neg hown.2]
  rw [h q table got k hop, hg k (by rw [hsource]; exact List.mem_singleton_self k)]
  rcases htable with hlut | htable
  · rw [ht hlut]
  · exact htable ..

/-- An operation that rounds the value of each element to the destination's format. -/
theorem givesCode_element {vop : Nat} {f : BitVec 512 → VElem → Val} (hown : isReduce vop = false ∧ vop ≠ 24)
    (h : ∀ q table got k, vOp q.raw = vop → (vxCode q table got k).1 = toDest q.raw (drawOf q k) (f q.raw (got.getD k ⟨0, 0, 0, 0⟩))) :
    GivesCode vop (elementCode f) :=
  givesCode_of_own (code := fun q _ e k => toDest q.raw (drawOf q k) (f q.raw e)) hown h (.inr fun _ _ _ _ _ => rfl)

/-- The root of the tree over the elements that have been read. -/
theorem reduceTo_eq_treeRoot {α : Type} {d : BitVec 512} {got : List VElem} {g : Nat → VElem} {k : Nat}
    (hg : ∀ e ∈ leavesOf d k, got.getD e ⟨0, 0, 0, 0⟩ = g e) (leaf : VElem → α) (comb : α → α → α) (pass : α → α) (zero : α) :
    reduceTo d got k leaf comb pass zero = treeRoot d g k leaf comb pass zero := by
  have hleaves : (leavesOf d k).map (fun e => leaf (got.getD e ⟨0, 0, 0, 0⟩)) = (leavesOf d k).map (fun e => leaf (g e)) :=
    List.map_congr_left fun e he => congrArg leaf (hg e he)
  rw [reduceTo, treeRoot, hleaves]

/-- An operation that computes each result from the root of the tree over its leaves. -/
theorem givesCode_reduction {α : Type} {vop : Nat} {leaf : BitVec 512 → VElem → α} {comb : α → α → α} {pass : α → α} {zero : α}
    {code : QDesc → Nat → α → Nat} (hred : isReduce vop = true)
    (h : ∀ q table got k, vOp q.raw = vop → (vxCode q table got k).1 = code q k (reduceTo q.raw got k (leaf q.raw) comb pass zero)) :
    GivesCode vop (fun q _ g k => code q k (treeRoot q.raw g k (leaf q.raw) comb pass zero)) := by
  intro q table got g k hop _ hg table' _
  have hsource : sourceElems q.raw k = leavesOf q.raw k := by rw [sourceElems, hop, if_pos hred]
  rw [h q table got k hop, reduceTo_eq_treeRoot (hsource ▸ hg)]

/-- A reduction that rounds the value at its root to the destination's format. -/
theorem givesCode_tree {vop : Nat} {leaf : BitVec 512 → VElem → Val} {comb : Val → Val → Val} {pass : Val → Val} (hred : isReduce vop = true)
    (h : ∀ q table got k, vOp q.raw = vop →
      (vxCode q table got k).1 = toDest q.raw (drawOf q k) (reduceTo q.raw got k (leaf q.raw) comb pass (.fin false 0 0))) :
    GivesCode vop (treeCode leaf comb pass) :=
  givesCode_reduction (code := fun q k v => toDest q.raw (drawOf q k) v) hred h

/-! ### QNT (R48, R158) -/

/-- The scale that the elements of a block are given. -/
def qntScaleOf (d : BitVec 512) (g : Nat → VElem) (k : Nat) : Nat :=
  blockScale (oFmt (vD d)) ((blockOf d k).map (fun e => qntVal d (g e)))

theorem qntScale_eq {d : BitVec 512} {got : List VElem} {g : Nat → VElem} {k : Nat}
    (hg : ∀ e ∈ blockOf d k, got.getD e ⟨0, 0, 0, 0⟩ = g e) : qntScale d got k = qntScaleOf d g k := by
  have hblock : (blockOf d k).map (fun e => qntVal d (got.getD e ⟨0, 0, 0, 0⟩)) = (blockOf d k).map (fun e => qntVal d (g e)) :=
    List.map_congr_left fun e he => congrArg (qntVal d) (hg e he)
  rw [qntScale, qntScaleOf, hblock]

theorem sourceElems_qnt {d : BitVec 512} (hop : vOp d = 24) (k : Nat) : sourceElems d k = blockOf d k := by simp [sourceElems, hop, isReduce]

/-- The code of an element of QNT: the element divided by its block's scale, with the factor of INT8. -/
def qntCodeOf (q : QDesc) (g : Nat → VElem) (k : Nat) : Nat :=
  if qntScaleOf q.raw g k = 255 then 0
  else toFormat (oFmt (vD q.raw)) (dRnd q.raw) (drawOf q k) true (mulVal (qntVal q.raw (g k))
    (.fin false 1 (127 - (qntScaleOf q.raw g k : Int) + (if oFmt (vD q.raw) = 8 then 6 else 0))))

theorem givesCode_qnt : GivesCode 24 (fun q _ g k => qntCodeOf q g k) := by
  intro q table got g k hop hk hg table' _
  have hblock : ∀ e ∈ blockOf q.raw k, got.getD e ⟨0, 0, 0, 0⟩ = g e := sourceElems_qnt hop k ▸ hg
  have hcode : (vxCode q table got k).1 = qntCode q.raw got k (drawOf q k) := by simp only [vxCode, hop]
  rw [hcode, qntCode, qntScale_eq hblock, hblock k (mem_blockOf_self (hk rfl))]
  rfl

/-- Each block's scale is ready with its first element. -/
theorem outSc_vxCycle_qnt (s : State) (u : Nat) {q : QDesc} (hno : isNoop q.raw = false) (hop : vOp q.raw = 24) (p : Nat) :
    (vxCycle (vxAt s u q p).1 u (vxAt s u q p).2).2.outSc = ((vxOutputsAt s.variant q.raw p).filter (blockHead q.raw)).map (fun e =>
      (scaleAddr u q.raw (e / dN q.raw) (e % dN q.raw), qntScaleOf q.raw (vxElem s u q) e)) := by
  have hprog := vxProgress_vxAt s u q p
  have hsc := (vxCycled_vxAt (s := s) (u := u) hno p).outSc (by rw [hprog.desc, hop])
  rw [hprog.desc, hprog.pos, variant_vxAt] at hsc
  rw [hsc]
  refine List.map_congr_left fun k hk => congrArg _ (qntScale_eq fun e he => ?_)
  exact got_vxAt_sources hno (List.mem_filter.1 hk).1 (sourceElems_qnt hop k ▸ he)

/-! ### The obligations -/

/-- A VX operation: its command starts the head of the VXE queue, and its results are the codes that it gives. -/
theorem vxOperation {i : Nat → Nat → Instr} {vop : Nat} {code : QDesc → List Byte → (Nat → VElem) → Nat → Nat}
    (hexec : ∀ s u c, exec (i u c) s = onCore s u (vxStart (coreTick s u c) u vop)) (hcode : GivesCode vop code) :
    VxStarts i vop ∧ VxComputes vop code := ⟨vxStarts_of_exec hexec, vxComputes_of_givesCode hcode⟩

theorem selVal_eq (a b c : Val) : (if isNaN a || isZero a then c else b) = if !isNaN a && !isZero a then b else c := by
  cases isNaN a <;> cases isZero a <;> rfl

/-- Settles O16: each operation computes a result from its own element alone (`givesCode_element`), which has been read when the result is
ready (`vxComputes_of_givesCode`). -/
theorem elementwiseOperations : Obligations.ElementwiseOperations := by
  unfold Obligations.ElementwiseOperations
  refine ⟨vxOperation (fun _ _ _ => rfl) ?add, vxOperation (fun _ _ _ => rfl) ?mul, vxOperation (fun _ _ _ => rfl) ?fma,
    vxOperation (fun _ _ _ => rfl) ?min, vxOperation (fun _ _ _ => rfl) ?max, vxOperation (fun _ _ _ => rfl) ?cmp,
    vxOperation (fun _ _ _ => rfl) ?sel⟩
  case sel => exact givesCode_element (by decide) fun q table got k h => by simp only [vxCode, h, selVal_eq]
  all_goals exact givesCode_element (by decide) fun q table got k h => by simp only [vxCode, h]

/-- Settles O17: each reduction computes a result from the root of the tree over its leaves (`givesCode_reduction`), the last of which has been
read when the result is ready (`le_lastElem`). -/
theorem reductions : Obligations.Reductions := by
  unfold Obligations.Reductions
  refine ⟨vxOperation (fun _ _ _ => rfl) ?rsum, vxOperation (fun _ _ _ => rfl) ?rdot, vxOperation (fun _ _ _ => rfl) ?rmax,
    vxOperation (fun _ _ _ => rfl) ?rmin, vxOperation (fun _ _ _ => rfl) ?xsum⟩
  case rsum => exact givesCode_tree (comb := fpSum) (by decide) fun q table got k h => by simp only [vxCode, h]
  case rdot => exact givesCode_tree (comb := fpSum) (by decide) fun q table got k h => by simp only [vxCode, h]
  case rmax => exact givesCode_tree (by decide) fun q table got k h => by simp only [vxCode, h]
  case rmin => exact givesCode_tree (by decide) fun q table got k h => by simp only [vxCode, h]
  case xsum =>
    exact givesCode_reduction (leaf := fun d e => srcX (vS1 d) e.c1) (code := fun q k x => xToDest q.raw (drawOf q k) x) (by decide)
      fun q table got k h => by simp only [vxCode, h]

/-- Settles O18: CVT, LUT, XADD and DQS compute a result from its own element (`givesCode_of_own`), LUT with the table as it stood when it
started (`table_vxAt_lut`); QNT's codes and scales come from the block (`givesCode_qnt`, `outSc_vxCycle_qnt`). -/
theorem conversionsAndExactAdds : Obligations.ConversionsAndExactAdds := by
  unfold Obligations.ConversionsAndExactAdds
  refine ⟨vxOperation (fun _ _ _ => rfl) ?cvt, vxOperation (fun _ _ _ => rfl) ?lut, vxOperation (fun _ _ _ => rfl) ?xadd,
    vxOperation (fun _ _ _ => rfl) ?dqs, vxOperation (fun _ _ _ => rfl) givesCode_qnt,
    fun s u q _ hno hop => ⟨vxElem s u q, fun p e hlo hhi => vxElem_eq_vxRead hno hlo hhi, outSc_vxCycle_qnt s u hno hop⟩⟩
  case cvt =>
    exact givesCode_of_own (code := fun q _ e k => (cvtCode q.raw e.c1 (drawOf q k)).1) (by decide)
      (fun q table got k h => by simp only [vxCode, h]) (.inr fun _ _ _ _ _ => rfl)
  case lut =>
    exact givesCode_of_own (code := fun q table e k => toDest q.raw (drawOf q k) (lutVal q.raw table (val1 q.raw e))) (by decide)
      (fun q table got k h => by simp only [vxCode, h]) (.inl rfl)
  case xadd =>
    exact givesCode_of_own
      (code := fun q _ e k => xToDest q.raw (drawOf q k) (XEl.add (srcX (vS1 q.raw) e.c1) (srcX (vS2 q.raw) e.c2))) (by decide)
      (fun q table got k h => by simp only [vxCode, h]) (.inr fun _ _ _ _ _ => rfl)
  case dqs => exact givesCode_element (by decide) fun q table got k h => by simp only [vxCode, h]

end Sys2Proof
end

section
/-! SUPPORT. The queue of commands (O1), and why the statement on illegal descriptors (O10) fails. -/

namespace Sys2Proof

open Machine

/-! ### The queue of commands (log entry 2) -/

theorem step_of_front (i : Instr) (s : State) : step { s with pending := i :: s.pending } = exec i s := rfl

theorem step_of_empty {s : State} (h : s.pending = []) : step s = .next s := by
  rw [step, h]

/-- Settles O1: a step takes the front command, or there is none. -/
theorem stepRunsFrontCommand : Obligations.StepRunsFrontCommand := ⟨step_of_front, fun _ => step_of_empty⟩

/-! ### Why O10 fails: DEBUG_LEVEL is read before the cycles up to the dispatch pass (R220, R337) -/

/-- A descriptor of opcode 0x7F, which no engine has, at the first place of a list. -/
def unknownItem : PItem := { noopItem with raw := BitVec.ofNat 512 0x7F }

/-- The state in which O9 fails, with an illegal descriptor to take. -/
def strayIllegalState : State := setCore strayErrorState 0 { coreAt strayErrorState 0 with pq := [unknownItem] }

/-- The state of the dispatch, one cycle later. -/
def strayIllegalTick : State := coreTick strayIllegalState 0 1

/-- The landing write arms the break, and the illegal descriptor's match writes BRK_HIT. -/
theorem strayIllegalTick_breaks : strayIllegalTick.blobs = [] ∧ (dispatchOne strayIllegalTick 0).blobs ≠ [] := by decide +kernel

/-- The core takes the descriptor in this cycle, and it is illegal by its opcode. -/
theorem unknownItem_illegal :
    let w := takeItem (countPhase strayIllegalTick 0) 0 unknownItem
    coreRuns strayIllegalTick 0 = true ∧ (coreAt strayIllegalTick 0).held = none ∧ (coreAt strayIllegalTick 0).pq = [unknownItem] ∧
      headOk strayIllegalTick (coreAt strayIllegalTick 0) unknownItem = true ∧
      checkDesc (setCore w 0 { coreAt w 0 with phase := dPhase unknownItem.raw }) 0 unknownItem.lm unknownItem.raw =
        (unknownItem.raw, some 0x01) := by
  decide +kernel

/-- Refutes O10, as O9 fails: in `strayIllegalState` DEBUG_LEVEL is 0, but the storage error that counts in the cycle before the dispatch makes
it 1, so that the illegal descriptor matches an armed break and BRK_HIT, which the frame of O10 keeps, is written. -/
theorem not_illegalDescriptorIsSkipped : ¬ Obligations.IllegalDescriptorIsSkipped := by
  intro h
  have hcore : 0 < coresOf strayIllegalState.variant := by decide
  have hlevel : rg strayIllegalState 0x6020 1 = 0 := rfl
  obtain ⟨hruns, hheld, hpq, hhead, hillegal⟩ := unknownItem_illegal
  obtain ⟨hskip, -⟩ := h strayIllegalState 0 1 unknownItem [] rfl hcore hlevel hruns hheld hpq hhead
  obtain ⟨t', ht, ⟨-, -, -, -, -, -, -, -, -, -, -, -, hframe⟩, -⟩ := hskip _ _ rfl hillegal
  have hkept : t'.blobs = strayIllegalTick.blobs := hframe.fields.same .blobs (by decide)
  have hended : t'.blobs = (dispatchOne strayIllegalTick 0).blobs := blobs_of_onCore rfl hcore ht
  obtain ⟨hbefore, hafter⟩ := strayIllegalTick_breaks
  exact hafter (hended.symm.trans (hkept.trans hbefore))

end Sys2Proof
end

section
/-! SUPPORT. The stream unit's own descriptors: CALL and RET (O11), SEED and HINT (O12), and the signal of a CALL (O13). -/

namespace Sys2Proof

open Machine

/-! ### The slip of a descriptor that starts (R235) -/

/-- Counting slip writes entries and records alone. -/
theorem countSlip_eq (s : State) (u : Nat) (q : QDesc) (k : Nat) :
    ∃ g f, countSlip s u q k = { s with regs := g, faultq := f } := by
  obtain ⟨_, _, h0⟩ := bumpSlip_eq s u 0 q.lateQ
  obtain ⟨_, _, h1⟩ := bumpSlip_eq (bumpSlip s u 0 q.lateQ) u 1 q.lateW
  obtain ⟨_, _, h2⟩ := bumpSlip_eq (bumpSlip (bumpSlip s u 0 q.lateQ) u 1 q.lateW) u k q.lateP
  obtain ⟨g, f, h3⟩ := bumpSlip_eq (bumpSlip (bumpSlip (bumpSlip s u 0 q.lateQ) u 1 q.lateW) u k q.lateP) u 4 q.lateT
  refine ⟨g, f, ?_⟩
  rw [countSlip, h3, h2, h1, h0]

/-- Slip goes to counts. -/
theorem regsKept_countSlip {u : Nat} (hd : dieOf u < 4) (s : State) (q : QDesc) (k : Nat) : RegsKept countKey s (countSlip s u q k) :=
  (coreFrame_countSlip (l := []) s q k hd).counts (by simp)

/-- The entry of a slip category is that of one of the engines or of the stream unit. -/
theorem countKey_slipEntry {u cat : Nat} (hd : dieOf u < 4) (hc : cat < 5) :
    countKey (rkey (slipEntry u cat).1 (slipEntry u cat).2) = true := by
  have hsub := (slipEntry_sub u hc).2
  refine countKey_of (by omega) ?_
  unfold slipEntry
  split_ifs <;> simp <;> omega

/-- What spares the counts leaves the slip that was counted. -/
theorem SlipCounted.of_countsSpared {u pipe : Nat} {q : QDesc} {s w t : State} (hd : dieOf u < 4) (hp : pipe < 5)
    (h : SlipCounted u q pipe s w) (hr : RegsKept (fun k => !countKey k) w t) (hv : t.variant = w.variant) : SlipCounted u q pipe s t := by
  have hsame : ∀ cat, cat < 5 → rg t (slipEntry u cat).1 (slipEntry u cat).2 = rg w (slipEntry u cat).1 (slipEntry u cat).2 :=
    fun cat hc => hr.rg hv _ _ (by simp [countKey_slipEntry hd hc])
  unfold SlipCounted at h ⊢
  dsimp only at h ⊢
  rw [hsame 0 (by decide), hsame 1 (by decide), hsame 4 (by decide), hsame pipe hp]
  exact h

/-! ### Leaving the stream unit (R204) -/

/-- The core after its stream unit's descriptor `q` has executed in cycle `now` and owes its signal. -/
def owingCore (x : CoreSt) (now : Nat) (q : QDesc) : CoreSt :=
  { x with held := none, idleTill := now + 1, srun := x.srun ++ [{ d := q, fin := now + 1 }] }

theorem owe_heldSlip (s : State) (u : Nat) (q : QDesc) :
    owe (heldSlip s u q) u q = setCore (heldSlip s u q) u (owingCore (coreAt s u) (absNow s) q) := by
  obtain ⟨g, f, h⟩ := countSlip_eq s u q 1
  rw [heldSlip, h]
  rfl

/-- A descriptor that executes has its slip counted and leaves the core as `y`. -/
theorem onCore_next_heldSlip {s : State} {u c : Nat} (hp : s.powered = true) (hu : u < coresOf s.variant) (q : QDesc) (y : CoreSt) :
    ∃ t', onCore s u (setCore (heldSlip (coreTick s u c) u q) u y) = .next t' ∧ coreAt t' u = y ∧
      SlipCounted u q 1 (coreTick s u c) t' ∧ CoreFrame u [] (coreTick s u c) t' := by
  have hframe : CoreFrame u [] (coreTick s u c) (setCore (heldSlip (coreTick s u c) u q) u y) :=
    (coreFrame_countSlip _ q 1 (dieOf_lt hu)).trans (coreFrame_setCore ..)
  obtain ⟨t', ht, hend, hframe'⟩ := onCore_next_frame hp hu hframe (by decide)
  have hset : Touches [.cores, .alertN] (heldSlip (coreTick s u c) u q) t' := ((touches_setCore ..).mono rfl).trans (hend.mono rfl)
  refine ⟨t', ht, ?_, ?_, hframe'⟩
  · rw [hend.coreAt_eq (by decide), coreAt_setCore]
  · exact (slipCounted_countSlip (by decide) _ q).congr (hset.same .regs (by decide)) (hset.same .variant (by decide))

/-! ### CALL (R204, R212 to R214) -/

/-- The frame that a CALL opens, with the arguments and snapshots of R214. -/
def calledFrame (s : State) (u : Nat) (q : QDesc) : Frame :=
  let e := routineEntry s u (fld q.raw 256 16)
  { cnt := q.cnt, issueBase := if dIssue q.raw = 0xFFFF then s.cyc else dIssue q.raw, baseCM := fld q.raw 272 24,
    baseOC := fld q.raw 296 24, args := (List.range 6).map (fun i => fld q.raw (320 + 32 * i) 32),
    snaps := (List.range 8).map (fun i => (scAt (coreAt s u) (56 + i)).toNat), last := bits e 0 14 + bits e 14 14 - 1, next := bits e 0 14 }

/-- The core that has opened the frame of a CALL, whose signal is outstanding. -/
def calledCore (s : State) (u : Nat) (q : QDesc) : CoreSt :=
  let x := coreAt s u
  { x with held := none, idleTill := absNow s + 1, frames := calledFrame s u q :: x.frames,
           calls := x.calls ++ [{ cnt := q.cnt, sv := dSV q.raw, sid := dSid q.raw, sinc := dSinc q.raw, lastCnt := 0, closed := none,
                                  done := some (absNow s) }] }

/-- PLAN's deepest call depth, with the frame that a CALL opens. -/
def deeperCall (s : State) (u : Nat) : Nat := max (rg s (0x2120 + partOf s u) 9) ((coreAt s u).frames.length + 1)

theorem partLow_le (s : State) (d : Nat) : partLow s d ≤ d := by
  unfold partLow
  split <;> omega

theorem not_countKey_plan {p j : Nat} (hp : p < 4) (hj : j < 256) : countKey (rkey (0x2120 + p) j) = false := by
  have hdiv : rkey (0x2120 + p) j / 256 = 0x2120 + p := by unfold rkey; omega
  simp only [countKey, hdiv, Bool.or_eq_false_iff, beq_eq_false_iff_ne, decide_eq_false_iff_not]
  omega

theorem openFrame_eq (s : State) (u : Nat) (q : QDesc) :
    openFrame s u q = wr (setCore s u (calledCore s u q)) (0x2120 + partOf s u) 9 (deeperCall s u) := rfl

/-- Opening a frame after counting slip reads the state as it was. -/
theorem openFrame_heldSlip {s : State} {u : Nat} (hd : dieOf u < 4) (q : QDesc) :
    openFrame (heldSlip s u q) u q = wr (setCore (heldSlip s u q) u (calledCore s u q)) (0x2120 + partOf s u) 9 (deeperCall s u) := by
  have hkept : ∀ i j, countKey (rkey i j) = false → rg (heldSlip s u q) i j = rg s i j :=
    (regsKept_countSlip hd s q 1).rg ((touches_countSlip s u q 1).same .variant (by decide))
  have hpart : partOf (heldSlip s u q) u = partOf s u := by rw [partOf, partOf, partLow, partLow, hkept 0x6000 3 (by decide)]
  have hdepth : rg (heldSlip s u q) (0x2120 + partOf s u) 9 = rg s (0x2120 + partOf s u) 9 :=
    hkept _ _ (not_countKey_plan (lt_of_le_of_lt (partLow_le s _) hd) (by decide))
  have hcore : coreAt (heldSlip s u q) u = coreAt s u := (touches_countSlip ..).coreAt_eq (by decide) u
  have hcalled : calledCore (heldSlip s u q) u q = calledCore s u q := by
    obtain ⟨g, f, h⟩ := countSlip_eq s u q 1
    rw [heldSlip, h]
    rfl
  rw [openFrame_eq, hcalled, deeperCall, deeperCall, hpart, hdepth, hcore]

/-- What a CALL that executes leaves, told against the state `s` at its cycle. -/
structure Called (s : State) (u : Nat) (q : QDesc) (t : State) : Prop where
  core : coreAt t u = calledCore s u q
  depth : rg t (0x2120 + partOf s u) 9 = deeperCall s u
  slip : SlipCounted u q 1 s t
  fields : Touches coreFields s t
  others : OtherCores u s t
  regs : RegsKept (fun k => countKey k || k == rkey (0x2120 + partOf s u) 9) s t

theorem called_of_openFrame {s t : State} {u : Nat} {q : QDesc} (hd : dieOf u < 4)
    (h : Touches [.alertN] (openFrame (heldSlip s u q) u q) t) : Called s u q t := by
  rw [openFrame_heldSlip hd] at h
  have hp : partOf s u < 4 := lt_of_le_of_lt (partLow_le s _) hd
  have hslip : Touches [.regs, .faultq] s (heldSlip s u q) := touches_countSlip s u q 1
  have hcounted : SlipCounted u q 1 s (heldSlip s u q) := slipCounted_countSlip (by decide) s q
  have hkept : RegsKept countKey s (heldSlip s u q) := regsKept_countSlip hd s q 1
  generalize heldSlip s u q = w at *
  have hset : Touches [.regs, .cores, .alertN] w t :=
    ((touches_setCore ..).mono rfl).trans (((touches_wr ..).mono rfl).trans (h.mono rfl))
  have hregs : t.regs = (wr w (0x2120 + partOf s u) 9 (deeperCall s u)).regs := h.same .regs (by decide)
  have hwr : ∀ m : Nat → Bool, m (rkey (0x2120 + partOf s u) 9) = true → RegsKept m w t := fun m hm =>
    (regsKept_wr w _ _ _ hm).trans (.of_eq hregs)
  refine ⟨?_, ?_, ?_, (hslip.mono rfl).trans (hset.mono rfl), fun v hv => ?_, ?_⟩
  · rw [h.coreAt_eq (by decide)]
    exact coreAt_setCore ..
  · rw [h.rg_eq (by decide) (by decide), rg_wr_same]
  · refine hcounted.of_countsSpared hd (by decide) (hwr _ ?_) (hset.same .variant (by decide))
    simp [not_countKey_plan hp]
  · rw [h.coreAt_eq (by decide), ← hslip.coreAt_eq (by decide) v]
    exact coreAt_setCore_other _ _ _ _ hv
  · refine RegsKept.trans (t := w) (fun k hk => ?_) (hwr _ (by simp))
    rw [Bool.or_eq_false_iff] at hk
    exact hkept k hk.1

/-! ### RET (R213) -/

/-- The core whose innermost frame `f` has closed in cycle `now`, over the frames `r`. -/
def returnedCore (x : CoreSt) (now : Nat) (f : Frame) (r : List Frame) : CoreSt :=
  discardDeeper { x with frames := r, calls := x.calls.map (fun k => if k.cnt = f.cnt then { k with closed := some now } else k) } r.length

/-- A core that is written twice is as it was written last. -/
theorem setCore_setCore (s : State) (u : Nat) (x y : CoreSt) : setCore (setCore s u x) u y = setCore s u y := by
  have hset : ∀ m : KMap CoreSt, kset (kset m u x) u y = kset m u y := by
    intro m
    induction m with
    | nil => simp [kset]
    | cons p r ih =>
      obtain ⟨k, w⟩ := p
      by_cases hlt : u < k
      · simp [kset, hlt]
      · by_cases heq : u = k
        · simp [kset, heq]
        · simp [kset, hlt, heq, ih]
  rw [setCore, setCore, setCore, hset]

theorem closeFrame_of_frames {s : State} {u : Nat} {f : Frame} {r : List Frame} (h : (coreAt s u).frames = f :: r) :
    closeFrame s u = setCore s u (returnedCore (coreAt s u) (absNow s) f r) := by
  rw [closeFrame, h]
  rfl

theorem closeFrame_owe_heldSlip {s : State} {u : Nat} {q : QDesc} {f : Frame} {r : List Frame} (h : (coreAt s u).frames = f :: r) :
    closeFrame (owe (heldSlip s u q) u q) u =
      setCore (heldSlip s u q) u (returnedCore (owingCore (coreAt s u) (absNow s) q) (absNow s) f r) := by
  have hnow : ∀ y, absNow (setCore (heldSlip s u q) u y) = absNow s := by
    obtain ⟨g, k, hs⟩ := countSlip_eq s u q 1
    rw [heldSlip, hs]
    exact fun y => rfl
  rw [owe_heldSlip, closeFrame_of_frames (f := f) (r := r) (by rw [coreAt_setCore]; exact h), coreAt_setCore, setCore_setCore, hnow]

/-- A RET that executes leaves a core of these parts. -/
theorem returnedCore_parts (x : CoreSt) (now : Nat) (f : Frame) (r : List Frame) :
    (returnedCore x now f r).frames = r ∧ (returnedCore x now f r).held = x.held ∧ (returnedCore x now f r).srun = x.srun ∧
      (returnedCore x now f r).gen = x.gen ∧
      (returnedCore x now f r).calls = x.calls.map (fun k => if k.cnt = f.cnt then { k with closed := some now } else k) :=
  ⟨rfl, rfl, rfl, rfl, rfl⟩

/-- Settles O11: a CALL by `called_of_openFrame`, a RET by the core that it leaves (`closeFrame_owe_heldSlip`). -/
theorem callOpensAndRetClosesAFrame : Obligations.CallOpensAndRetClosesAFrame := by
  intro s u c q hp hu t x
  have hcall : exec (.call u c) s = onCore s u (match readyHeld t u 1 with
      | some q => if callClear (coreAt t u) q.cnt then openFrame (heldSlip t u q) u q else t
      | none => t) := rfl
  have hret : exec (.ret u c) s = onCore s u (match readyHeld t u 2 with
      | some q => closeFrame (owe (heldSlip t u q) u q) u
      | none => t) := rfl
  have hd := dieOf_lt hu
  have hidle : ∃ t', onCore s u t = .next t' ∧ Touches [.alertN] t t' := onCore_next_idle hp hu
  have hopens : ∃ t', onCore s u (openFrame (heldSlip t u q) u q) = .next t' ∧ Called t u q t' := by
    have hopen : Called t u q (openFrame (heldSlip t u q) u q) := called_of_openFrame hd .refl
    have htick : Touches timeFields s t := touches_coreTick s u c
    obtain ⟨t', ht, hend⟩ := done_next hp ((hopen.fields.same .pending (by decide)).trans (htick.same .pending (by decide)))
      ((hopen.fields.same .variant (by decide)).trans (htick.same .variant (by decide)))
    exact ⟨t', by rw [onCore, if_pos hu, ht], called_of_openFrame hd hend⟩
  have hcloses : ∀ y, ∃ t', onCore s u (setCore (heldSlip t u q) u y) = .next t' ∧ coreAt t' u = y ∧ SlipCounted u q 1 t t' ∧
      CoreFrame u [] t t' := onCore_next_heldSlip hp hu q
  clear_value t
  refine ⟨fun hq hc => ?_, fun h => ?_, fun f r hq hf => ?_, fun hq => ?_⟩
  · obtain ⟨t', ht, h⟩ := hopens
    refine ⟨t', ?_, ?_⟩
    · rw [hcall, hq]
      dsimp only
      rw [if_pos hc, ht]
    · rw [h.core]
      exact ⟨⟨calledFrame t u q, rfl, rfl, rfl, rfl, rfl, rfl, rfl, rfl, rfl⟩, rfl, rfl, rfl, rfl, h.depth, h.slip, h.fields, h.others, h.regs⟩
  · obtain hq | ⟨hq, hc⟩ := h
    · rw [hcall, hq]
      exact hidle
    · rw [hcall, hq]
      dsimp only
      rw [if_neg (by simpa using hc)]
      exact hidle
  · obtain ⟨t', ht, hcore, hslip, hframe⟩ := hcloses (returnedCore (owingCore x (absNow t) q) (absNow t) f r)
    obtain ⟨hframes, hheld, hsrun, hgen, hcalls⟩ := returnedCore_parts (owingCore x (absNow t) q) (absNow t) f r
    refine ⟨t', ?_, ?_⟩
    · rw [hret, hq]
      dsimp only
      rw [closeFrame_owe_heldSlip hf, ht]
    · rw [hcore, hframes, hheld, hsrun, hgen, hcalls]
      exact ⟨rfl, rfl, rfl, rfl, rfl, hslip, hframe⟩
  · rw [hret, hq]
    exact hidle

/-! ### SEED and HINT (R200, R525) -/

/-- What SEED does: the descriptor leaves the stream unit, and its seed is the core's generator state. -/
theorem seed_heldSlip (s : State) (u : Nat) (q : QDesc) :
    (let w := owe (heldSlip s u q) u q
     setCore w u { coreAt w u with gen := q.raw.extractLsb' 256 64 }) =
      setCore (heldSlip s u q) u { owingCore (coreAt s u) (absNow s) q with gen := q.raw.extractLsb' 256 64 } := by
  dsimp only
  rw [owe_heldSlip, coreAt_setCore, setCore_setCore]

theorem touches_hints (s : State) (h : KMap (List Hint)) : Touches [.hints] s { s with hints := h } := by
  refine ⟨fun f hf => ?_⟩
  cases f
  case hints => simp at hf
  all_goals rfl

theorem touches_addHint (s : State) (n : Hint) : Touches [.hints] s (addHint s n) := .ite .refl (touches_hints ..)

/-- A higher core of the die has announced a phase for the beat in the same cycle: the hint is dropped (R525). -/
theorem hints_addHint_of_higher {s : State} {n : Hint}
    (h : ∃ k ∈ (kget s.hints (dieOf n.core)).getD [], k.beat = n.beat ∧ k.cyc = n.cyc ∧ n.core < k.core) :
    (addHint s n).hints = s.hints := by
  obtain ⟨k, hk, hb, hc, hlt⟩ := h
  rw [addHint, if_pos]
  exact List.any_eq_true.2 ⟨k, hk, by simp [hb, hc, hlt]⟩

/-- No higher core has: the hint replaces those of its beat. -/
theorem hints_addHint_of_highest {s : State} {n : Hint}
    (h : ∀ k ∈ (kget s.hints (dieOf n.core)).getD [], k.beat = n.beat → k.cyc = n.cyc → k.core ≤ n.core) :
    kget (addHint s n).hints (dieOf n.core) =
      some (((kget s.hints (dieOf n.core)).getD []).filter (fun k => k.beat != n.beat) ++ [n]) := by
  rw [addHint, if_neg]
  · exact kget_kset_same ..
  · rw [List.any_eq_true]
    rintro ⟨k, hk, hn⟩
    simp only [Bool.and_eq_true, beq_iff_eq, decide_eq_true_eq] at hn
    obtain ⟨⟨hb, hc⟩, hlt⟩ := hn
    exact absurd (h k hk hb hc) (by omega)

/-- Hints of other dies stay. -/
theorem hints_addHint_other {s : State} {n : Hint} {d : Nat} (h : d ≠ dieOf n.core) : kget (addHint s n).hints d = kget s.hints d := by
  unfold addHint
  dsimp only
  split
  · rfl
  · exact kget_kset_other _ _ _ _ h

/-- A HINT leaves the stream unit as `y` and is remembered. -/
theorem onCore_next_hint {s : State} {u c : Nat} (hp : s.powered = true) (hu : u < coresOf s.variant) (q : QDesc) (y : CoreSt) (n : Hint) :
    ∃ t', onCore s u (addHint (setCore (heldSlip (coreTick s u c) u q) u y) n) = .next t' ∧ coreAt t' u = y ∧
      SlipCounted u q 1 (coreTick s u c) t' ∧ CoreFrame u [.hints] (coreTick s u c) t' ∧
      t'.hints = (addHint (setCore (heldSlip (coreTick s u c) u q) u y) n).hints := by
  have hadd := touches_addHint (setCore (heldSlip (coreTick s u c) u q) u y) n
  have hframe : CoreFrame u [.hints] (coreTick s u c) (addHint (setCore (heldSlip (coreTick s u c) u q) u y) n) :=
    (coreFrame_countSlip _ q 1 (dieOf_lt hu)).trans ((coreFrame_setCore ..).trans (.fieldsOnly hadd (by decide) (by decide)))
  obtain ⟨t', ht, hend, hframe'⟩ := onCore_next_frame hp hu hframe (by decide)
  have hset : Touches [.cores, .hints, .alertN] (heldSlip (coreTick s u c) u q) t' :=
    ((touches_setCore ..).mono rfl).trans ((hadd.mono rfl).trans (hend.mono rfl))
  refine ⟨t', ht, ?_, ?_, hframe', hend.same .hints (by decide)⟩
  · rw [hend.coreAt_eq (by decide), hadd.coreAt_eq (by decide), coreAt_setCore]
  · exact (slipCounted_countSlip (by decide) _ q).congr (hset.same .regs (by decide)) (hset.same .variant (by decide))

/-- Settles O12: SEED by `seed_heldSlip`, HINT by what remembering it makes of the hints (`hints_addHint_of_higher` and the two after it). -/
theorem seedAndHintExecute : Obligations.SeedAndHintExecute := by
  intro s u c q hp hu t x y
  have hseed : exec (.seed u c) s = onCore s u (match readyHeld t u 3 with
      | some q => setCore (owe (heldSlip t u q) u q) u { coreAt (owe (heldSlip t u q) u q) u with gen := q.raw.extractLsb' 256 64 }
      | none => t) := rfl
  have hhint : exec (.hint u c) s = onCore s u (match readyHeld t u 4 with
      | some q => addHint (owe (heldSlip t u q) u q)
          { beat := (t.beat + fld q.raw 264 12 + 1) % 2 ^ 48, phase := fld q.raw 256 8, cyc := absNow t, core := u }
      | none => t) := rfl
  have hidle : ∃ t', onCore s u t = .next t' ∧ Touches [.alertN] t t' := onCore_next_idle hp hu
  have hends : ∀ y, ∃ t', onCore s u (setCore (heldSlip t u q) u y) = .next t' ∧ coreAt t' u = y ∧ SlipCounted u q 1 t t' ∧
      CoreFrame u [] t t' := onCore_next_heldSlip hp hu q
  have hremembers : ∀ n, ∃ t', onCore s u (addHint (setCore (heldSlip t u q) u y) n) = .next t' ∧ coreAt t' u = y ∧
      SlipCounted u q 1 t t' ∧ CoreFrame u [.hints] t t' ∧ t'.hints = (addHint (setCore (heldSlip t u q) u y) n).hints :=
    onCore_next_hint hp hu q y
  have hbeat : t.beat = s.beat := (touches_coreTick s u c).same .beat (by decide)
  have hhints : t.hints = s.hints := (touches_coreTick s u c).same .hints (by decide)
  have hleft : Touches [.regs, .faultq, .cores] t (setCore (heldSlip t u q) u y) :=
    ((touches_countSlip t u q 1).mono rfl).trans ((touches_setCore ..).mono rfl)
  have hkept : (setCore (heldSlip t u q) u y).hints = s.hints := by rw [← hhints]; exact hleft.same .hints (by decide)
  clear_value t
  refine ⟨fun hq => ?_, fun hq => ?_, fun hq => ?_, fun hq => ?_⟩
  · obtain ⟨t', ht, hcore, hslip, hframe⟩ := hends { y with gen := q.raw.extractLsb' 256 64 }
    refine ⟨t', ?_, hcore, hslip, hframe⟩
    rw [hseed, hq, ← ht]
    exact congrArg _ (seed_heldSlip t u q)
  · rw [hseed, hq]
    exact hidle
  · obtain ⟨t', ht, hcore, hslip, hframe, hh⟩ :=
      hremembers { beat := (s.beat + fld q.raw 264 12 + 1) % 2 ^ 48, phase := fld q.raw 256 8, cyc := absNow t, core := u }
    refine ⟨t', ?_, hcore, hslip, ⟨fun hk => ?_, fun hk => ?_⟩, fun d hd => ?_, hframe⟩
    · rw [hhint, hq, ← ht, ← hbeat]
      exact congrArg (fun w => onCore s u (addHint w _)) (owe_heldSlip t u q)
    · rw [hh, hints_addHint_of_higher (by rw [hkept]; exact hk), hkept]
    · rw [hh, ← hkept]
      exact hints_addHint_of_highest (by rw [hkept]; exact hk)
    · rw [hh, hints_addHint_other hd, hkept]
  · rw [hhint, hq]
    exact hidle

/-! ### The signal of a CALL (R213, R236) -/

/-- When a CALL's signal is due: its frame has closed and its last descriptor completed, both before this cycle. -/
theorem callDue_iff (now : Nat) (k : CallRec) :
    callDue now k = true ↔ ∃ a b, k.closed = some a ∧ k.done = some b ∧ max a b + 1 ≤ now := by
  unfold callDue
  cases k.closed with
  | none => simp
  | some a => cases k.done <;> simp

/-- The core after the signal of the CALL `k` in cycle `now` of a beat that began in cycle `edge`. -/
def signalledCore (x : CoreSt) (now edge : Nat) (k : CallRec) : CoreSt :=
  { x with addNow := if k.sv then insAdd x.addNow { ctr := k.sid, src := 7, inc := k.sinc } else x.addNow,
           outst := x.outst.filter (fun o => o.cnt != k.cnt), finish := some (max (x.finish.getD 0) (now - edge)),
           calls := (x.calls.filter (fun g => g.cnt != k.cnt)).map
             (fun r => if r.lastCnt = k.cnt ∧ r.done = none then { r with done := some now } else r) }

theorem callSignalNow_of_some {s : State} {u : Nat} {k : CallRec} (h : (coreAt s u).calls.find? (callDue (absNow s)) = some k) :
    callSignalNow s u = setCore s u (signalledCore (coreAt s u) (absNow s) s.edge k) := by
  have hcomplete : ∀ y : CoreSt, completeAt (setCore s u y) u k.cnt (absNow s) = setCore s u
      { y with outst := y.outst.filter (fun o => o.cnt != k.cnt), finish := some (max (y.finish.getD 0) (absNow s - s.edge)),
               calls := y.calls.map (fun r => if r.lastCnt = k.cnt ∧ r.done = none then { r with done := some (absNow s) } else r) } := by
    intro y
    rw [completeAt, coreAt_setCore, setCore_setCore]
    rfl
  have hdeliver : ∀ y : CoreSt, deliver (setCore s u y) u 7 k.sid k.sinc =
      setCore s u { y with addNow := insAdd y.addNow { ctr := k.sid, src := 7, inc := k.sinc } } := by
    intro y
    rw [deliver, coreAt_setCore, setCore_setCore]
  rw [callSignalNow, h]
  dsimp only
  by_cases hs : k.sv = true
  · rw [if_pos hs, hdeliver]
    exact (hcomplete _).trans (by rw [signalledCore, if_pos hs])
  · rw [if_neg hs]
    exact (hcomplete _).trans (by rw [signalledCore, if_neg hs])

theorem callSignalNow_of_none {s : State} {u : Nat} (h : (coreAt s u).calls.find? (callDue (absNow s)) = none) : callSignalNow s u = s := by
  rw [callSignalNow, h]

theorem signalledCore_calls {x : CoreSt} {now edge : Nat} {k g : CallRec} (h : g ∈ (signalledCore x now edge k).calls) : g.cnt ≠ k.cnt := by
  obtain ⟨r, hr, rfl⟩ := List.mem_map.1 h
  have hne : r.cnt ≠ k.cnt := by simpa using (List.mem_filter.1 hr).2
  split <;> exact hne

theorem signalledCore_outst {x : CoreSt} {now edge : Nat} {k : CallRec} {o : OutRec} (h : o ∈ (signalledCore x now edge k).outst) :
    o.cnt ≠ k.cnt := by simpa using (List.mem_filter.1 h).2

/-- Settles O13: the signal that is due leaves the core as `signalledCore`. -/
theorem callSignalFollowsTheLaterEvent : Obligations.CallSignalFollowsTheLaterEvent := by
  intro s u c k hp hu t x
  have hexec : exec (.callSignal u c) s = onCore s u (if stillNow t u then t else callSignalNow t u) := rfl
  have hidle : ∃ t', onCore s u t = .next t' ∧ Touches [.alertN] t t' := onCore_next_idle hp hu
  have hends : ∀ w, CoreFrame u [] t w → ∃ t', onCore s u w = .next t' ∧ Touches [.alertN] w t' ∧ CoreFrame u [] t t' :=
    fun w hw => onCore_next_frame hp hu hw (by decide)
  clear_value t
  refine ⟨fun hk hs => ?_, fun h => ?_⟩
  · obtain ⟨t', ht, hend, hframe⟩ := hends _ (coreFrame_setCore t (signalledCore x (absNow t) t.edge k))
    have hcore : coreAt t' u = signalledCore x (absNow t) t.edge k := by rw [hend.coreAt_eq (by decide), coreAt_setCore]
    refine ⟨t', ?_, (callDue_iff _ k).1 (List.find?_some hk), ?_⟩
    · rw [hexec, if_neg (by simp [hs]), callSignalNow_of_some hk, ht]
    · rw [hcore]
      exact ⟨fun o => signalledCore_outst, fun g => signalledCore_calls, rfl, hframe⟩
  · rw [hexec]
    obtain hs | hn := h
    · rwa [if_pos hs]
    · have hnone : (coreAt t u).calls.find? (callDue (absNow t)) = none := List.find?_eq_none.2 fun g hg => by simp [hn g hg]
      rwa [callSignalNow_of_none hnone, ite_self]

end Sys2Proof
end

section
/-! SUPPORT. The start (O21) and the end (O26) of mover descriptors. -/

namespace Sys2Proof

open Machine

/-! ### Starting (R195, R314, R325) -/

/-- A mover descriptor that starts in cycle `now`, with the indices that its list holds: no row has moved, and a no-op has none to move. -/
def moveBegin (now : Nat) (idx : List Nat) (q : QDesc) : MoveRun :=
  let rows := if isNoop q.raw then dM q.raw else 0
  { d := q, start := now, row := rows, unit := 0, lastQ := 0, lastWr := if isNoop q.raw then now + 3 else 0, logged := false, idx := idx,
    handed := rows }

/-- The core after the head `q` of its mover queue has started. -/
def moveStartedCore (s : State) (u : Nat) (q : QDesc) : CoreSt :=
  let x := coreAt s u
  { x with dq := x.dq.drop 1, lastD := absNow s + 1, drun := x.drun ++ [moveBegin (absNow s) (listNow s u q.raw) q] }

theorem moveStart_of_some {s : State} {u opc : Nat} {q : QDesc} (h : moveReady s u opc = some q) :
    moveStart s u opc = setCore (heldSlip s u q) u (moveStartedCore s u q) := by
  obtain ⟨g, f, hs⟩ := countSlip_eq s u q 1
  rw [moveStart, h, heldSlip]
  dsimp only
  rw [hs]
  rfl

theorem moveStart_of_none {s : State} {u opc : Nat} (h : moveReady s u opc = none) : moveStart s u opc = s := by rw [moveStart, h]

/-- The commands of the mover start the head of its queue that has their opcode. -/
theorem exec_mover_eq {i : Nat → Nat → Instr} {opc : Nat}
    (h : (i, opc) ∈ ([(.mov, 0x30), (.gather, 0x31), (.scatter, 0x32), (.send, 0x33), (.sendx, 0x34)] : List ((Nat → Nat → Instr) × Nat)))
    (s : State) (u c : Nat) : exec (i u c) s = onCore s u (moveStart (coreTick s u c) u opc) := by
  simp only [List.mem_cons, Prod.mk.injEq, List.not_mem_nil, or_false] at h
  obtain ⟨rfl, rfl⟩ | ⟨rfl, rfl⟩ | ⟨rfl, rfl⟩ | ⟨rfl, rfl⟩ | ⟨rfl, rfl⟩ := h <;> rfl

/-- Settles O21: all five commands start the head of the queue alike (`exec_mover_eq`, `moveStart_of_some`). -/
theorem moverDescriptorsStart : Obligations.MoverDescriptorsStart := by
  intro i opc hi s u c hp hu t x
  have hexec : exec (i u c) s = onCore s u (moveStart t u opc) := exec_mover_eq hi s u c
  have hidle : ∃ t', onCore s u t = .next t' ∧ Touches [.alertN] t t' := onCore_next_idle hp hu
  have hends : ∀ q y, ∃ t', onCore s u (setCore (heldSlip t u q) u y) = .next t' ∧ coreAt t' u = y ∧ SlipCounted u q 1 t t' ∧
      CoreFrame u [] t t' := fun q y => onCore_next_heldSlip hp hu q y
  clear_value t
  refine ⟨fun q hq => ?_, fun hq => ?_⟩
  · obtain ⟨t', ht, hcore, hslip, hframe⟩ := hends q (moveStartedCore t u q)
    refine ⟨t', ?_, hcore, hslip, hframe⟩
    rw [hexec, moveStart_of_some hq, ht]
  · rw [hexec, moveStart_of_none hq]
    exact hidle

/-! ### Completion (R207, R236, R326, R401) -/

/-- A mover descriptor of a kind has ended: its units have all issued, its last write or hand-off lies before this cycle, and the packets of a
SEND have all been handed off. -/
def moveEnded (now : Nat) (send : Bool) (m : MoveRun) : Bool :=
  allIssued m && isSend m.d.raw == send && (!send || decide (dM m.d.raw ≤ m.handed)) && decide (m.lastWr + 1 ≤ now)

/-- The core without its mover descriptor `m`. -/
def withoutMove (x : CoreSt) (m : MoveRun) : CoreSt := { x with drun := x.drun.filter (fun k => k.d.cnt != m.d.cnt) }

theorem moveCompleteNow_of_some {s : State} {u : Nat} {send : Bool} {m : MoveRun}
    (h : (coreAt s u).drun.find? (moveEnded (absNow s) send) = some m) :
    moveCompleteNow s u send = signalDone (setCore s u (withoutMove (coreAt s u) m)) u 4 m.d := by
  unfold moveEnded at h
  rw [moveCompleteNow, h]
  rfl

theorem moveCompleteNow_of_none {s : State} {u : Nat} {send : Bool} (h : (coreAt s u).drun.find? (moveEnded (absNow s) send) = none) :
    moveCompleteNow s u send = s := by
  unfold moveEnded at h
  rw [moveCompleteNow, h]

theorem exec_moverEnd_eq {i : Nat → Nat → Instr} {send : Bool}
    (h : (i, send) ∈ ([(.moveComplete, false), (.sendComplete, true)] : List ((Nat → Nat → Instr) × Bool))) (s : State) (u c : Nat) :
    exec (i u c) s = onCore s u (if coreWorks (coreTick s u c) u then moveCompleteNow (coreTick s u c) u send else coreTick s u c) := by
  simp only [List.mem_cons, Prod.mk.injEq, List.not_mem_nil, or_false] at h
  obtain ⟨rfl, rfl⟩ | ⟨rfl, rfl⟩ := h <;> rfl

/-- Settles O26: the first descriptor that is due leaves the mover, and its signal and completion are those of every descriptor
(`endedCore`). -/
theorem moverDescriptorsComplete : Obligations.MoverDescriptorsComplete := by
  intro i send hi s u c hp hu t x ends
  have hexec : exec (i u c) s = onCore s u (if coreWorks t u then moveCompleteNow t u send else t) := exec_moverEnd_eq hi s u c
  have hidle : ∃ t', onCore s u t = .next t' ∧ Touches [.alertN] t t' := onCore_next_idle hp hu
  have hends : ∀ w, CoreFrame u [] t w → ∃ t', onCore s u w = .next t' ∧ Touches [.alertN] w t' ∧ CoreFrame u [] t t' :=
    fun w hw => onCore_next_frame hp hu hw (by decide)
  clear_value t
  refine ⟨fun m hw hm => ?_, fun h => ?_⟩
  · obtain ⟨t', ht, hend, hframe⟩ := hends (signalDone (setCore t u (withoutMove x m)) u 4 m.d)
      ((coreFrame_setCore ..).trans (coreFrame_signalDone ..))
    have hcore : coreAt t' u = endedCore (withoutMove x m) 4 t.edge m.d := by
      rw [hend.coreAt_eq (by decide), coreAt_signalDone, coreAt_setCore]
      rfl
    refine ⟨t', by rw [hexec, if_pos hw, moveCompleteNow_of_some hm, ht], ?_⟩
    rw [hcore]
    exact ⟨rfl, rfl, rfl, hframe⟩
  · rw [hexec]
    obtain hw | hn := h
    · rwa [if_neg (by simp [hw])]
    · rwa [moveCompleteNow_of_none hn, ite_self]

end Sys2Proof
end

section
/-! SUPPORT. The start and the end of a plan, the change of the beat length and a frequency step at their edge (O33). -/

namespace Sys2Proof

open Machine

/-! ### The cores of a partition (R546) -/

theorem mem_partCores {s : State} {p u : Nat} : u ∈ partCores s p ↔ dieOf u < dies s.variant ∧ partOf s u = p := by
  have hsplit : u / 192 * 192 + u % 192 = u := by omega
  simp only [partCores, partDies, List.mem_flatten, List.mem_map, List.mem_filter, List.mem_range, beq_iff_eq, partOf, dieOf]
  constructor
  · rintro ⟨_, ⟨d, ⟨hd, hp⟩, rfl⟩, hu⟩
    obtain ⟨i, hi, rfl⟩ := List.mem_map.1 hu
    have hdiv : (d * 192 + i) / 192 = d := by have := List.mem_range.1 hi; omega
    rw [hdiv]
    exact ⟨hd, hp⟩
  · rintro ⟨hd, hp⟩
    exact ⟨_, ⟨u / 192, ⟨hd, hp⟩, rfl⟩, List.mem_map.2 ⟨u % 192, List.mem_range.2 (Nat.mod_lt _ (by decide)), hsplit⟩⟩

/-- A partition is named by one of four dies. -/
theorem partition_lt {s : State} {p : Nat} (h : p ∈ partitions s) : p < 4 := by
  have hp : p < dies s.variant := List.mem_range.1 (List.mem_filter.1 h).1
  have hd : dies s.variant ≤ 4 := by cases s.variant <;> decide
  omega

theorem partOf_congr {s t : State} (h : rg t 0x6000 3 = rg s 0x6000 3) (u : Nat) : partOf t u = partOf s u := by
  rw [partOf, partOf, partLow, partLow, h]

/-- The outcome of a partition's command: ending it adds nothing to what it leaves. -/
theorem onPart_next {s w : State} {p : Nat} {l : List Field} (hp : s.powered = true) (hm : p ∈ partitions s) (h : Touches l s w)
    (hl : l.all (fun f => decide (f ≠ .pending ∧ f ≠ .variant)) = true) :
    ∃ t, onPart s p w = .next t ∧ Touches [.alertN] w t := by
  have hnot : ∀ f ∈ l, f ≠ .pending ∧ f ≠ .variant := fun f hf => by simpa using List.all_eq_true.1 hl f hf
  obtain ⟨t, ht, hend⟩ := done_next hp (h.same .pending fun hf => (hnot _ hf).1 rfl) (h.same .variant fun hf => (hnot _ hf).2 rfl)
  exact ⟨t, by rw [onPart, if_pos hm, ht], hend⟩

/-! ### Storage errors met by a reader write only counts of errors and of records (R331, R332, R337) -/

/-- The entries at 0x4010 and above. -/
def errorEntry (k : Nat) : Bool := decide (0x4010 ≤ k / 256)

theorem errorEntry_rkey {i j : Nat} (hj : j < 256) : errorEntry (rkey i j) = decide (0x4010 ≤ i) := by
  have hdiv : rkey i j / 256 = i := by unfold rkey; omega
  rw [errorEntry, hdiv]

theorem regsKept_bumpTab {m : Nat → Bool} (s : State) {i oj : Nat} (j k b n : Nat) (g : m (rkey i oj) = true)
    (h5 : m (rkey 0x7000 5) = true) (h6 : m (rkey 0x7000 6) = true) : RegsKept m s (bumpTab s i j k oj b n) := by
  unfold bumpTab
  dsimp only
  split
  · exact .refl
  · split
    · exact .of_eq rfl
    · exact RegsKept.trans (.of_eq rfl) ((regsKept_wr (wtab s i j 8 k countMax) _ _ _ g).trans (regsKept_pushSat _ _ h5 h6))

/-- A corrected error counts in the entries of its word's die. -/
theorem regsKept_bumpCorr {m : Nat → Bool} (s : State) (a : Nat)
    (h : ∀ i ∈ [0x4010, 0x7840, 0x7848], ∀ j < 256, m (rkey (i + dieAt a) j) = true)
    (h5 : m (rkey 0x7000 5) = true) (h6 : m (rkey 0x7000 6) = true) : RegsKept m s (bumpCorr s a) := by
  have hb : ∀ i ∈ [0x4010, 0x7840, 0x7848], ∀ (j oj b : Nat), j < 256 → oj < 256 →
      RegsKept m s (bump s (i + dieAt a) j oj b 1) := fun i hi j oj b hj ho =>
    regsKept_bump _ _ _ _ _ _ (h i hi j hj) (h i hi oj ho) h5 h6
  unfold bumpCorr
  dsimp only
  split
  · exact hb 0x4010 (by simp) 1 12 0 (by decide) (by decide)
  · exact hb 0x4010 (by simp) 2 12 1 (by decide) (by decide)
  · exact hb 0x4010 (by simp) 3 12 2 (by decide) (by decide)
  · exact (hb 0x4010 (by simp) 5 12 4 (by decide) (by decide)).trans
      (regsKept_bumpTab _ _ _ _ _ (h 0x4010 (by simp) 12 (by decide)) h5 h6)
  · exact hb 0x4010 (by simp) 4 12 3 (by decide) (by decide)
  · exact hb 0x7840 (by simp) 5 6 4 (by decide) (by decide)
  · exact hb 0x7848 (by simp) 5 6 4 (by decide) (by decide)

theorem regsKept_bumpCorr_errorEntry (s : State) (a : Nat) : RegsKept errorEntry s (bumpCorr s a) := by
  refine regsKept_bumpCorr s a (fun i hi j hj => ?_) rfl rfl
  rw [errorEntry_rkey hj, decide_eq_true_eq]
  simp only [List.mem_cons, List.not_mem_nil, or_false] at hi
  omega

theorem regsKept_capture {m : Nat → Bool} (s : State) (r : LogRec) (h : m (rkey 0x7000 5) = true) (g : m (rkey 0x7000 6) = true) :
    RegsKept m s (capture s r) := by
  have hnote : (notePlanFault s r).regs = s.regs := (touches_notePlanFault ..).same .regs (by decide)
  unfold capture
  dsimp only
  split
  · exact .of_eq hnote
  · exact (RegsKept.of_eq hnote).trans (regsKept_noteDropped _ h g)

theorem RegsKept.foldl {α : Type} {m : Nat → Bool} {f : State → α → State} (h : ∀ t a, RegsKept m t (f t a)) (l : List α) (s : State) :
    RegsKept m s (l.foldl f s) :=
  List.foldlRecOn (motive := fun t => RegsKept m s t) l f .refl fun t ht a _ => ht.trans (h t a)

theorem regsKept_readErrors (s : State) (u e a n c t x : Nat) : RegsKept errorEntry s (readErrors s u e a n c t x) := by
  refine .foldl (fun y k => ?_) _ _
  split
  · unfold errorRec
    split <;> exact regsKept_capture _ _ rfl rfl
  · exact regsKept_bumpCorr_errorEntry _ _

/-! ### The slices of a beat (R183 to R186) -/

/-- What core `u` meets or does by itself has changed only what a command of the core may change, and of the entries only counts of errors. -/
structure CoreMeets (u : Nat) (s t : State) : Prop where
  frame : CoreFrame u [.blobs] s t
  regs : RegsKept errorEntry s t

theorem CoreMeets.trans {u : Nat} {s t r : State} (h : CoreMeets u s t) (g : CoreMeets u t r) : CoreMeets u s r :=
  ⟨h.frame.trans g.frame, h.regs.trans g.regs⟩

theorem CoreMeets.ite {u : Nat} {s a b : State} {c : Prop} [Decidable c] (ha : CoreMeets u s a) (hb : CoreMeets u s b) :
    CoreMeets u s (if c then a else b) := by split <;> assumption

theorem coreMeets_setCore (s : State) (u : Nat) (x : CoreSt) : CoreMeets u s (setCore s u x) := ⟨coreFrame_setCore s x, .of_eq rfl⟩

theorem coreMeets_capture (s : State) (u : Nat) (r : LogRec) : CoreMeets u s (capture s r) :=
  ⟨coreFrame_capture s r, regsKept_capture _ _ rfl rfl⟩

theorem coreMeets_readErrors (s : State) (u e a n : Nat) : CoreMeets u s (readErrors s u e a n 0 0 0) :=
  ⟨coreFrame_readErrors _ _ _ _ _ _ _ (by simp), regsKept_readErrors _ _ _ _ _ _ _ _⟩

theorem coreMeets_beginSlice (s : State) (u : Nat) (seg rep : Bool) : CoreMeets u s (beginSlice s u seg rep) := by
  have hentry : CoreMeets u s (if seg then readErrors s u 5 (segEntryAddr s u) 8 0 0 0 else s) :=
    .ite (coreMeets_readErrors ..) ⟨.refl, .refl⟩
  unfold beginSlice
  dsimp only
  refine hentry.trans ?_
  refine .ite (coreMeets_setCore ..) ((coreMeets_readErrors ..).trans (.ite ?_ (coreMeets_setCore ..)))
  exact (coreMeets_setCore ..).trans (coreMeets_capture ..)

/-- What holds of a state in which every core of the partition `p` has begun a slice: of the entries only counts of errors have changed, of the
partitions only the mark of a plan fault, and no other core. -/
structure BeatBegun (s : State) (p : Nat) (t : State) : Prop where
  fields : Touches (coreFields ++ [.blobs]) s t
  regs : RegsKept errorEntry s t
  parts : ∀ q, ∃ b, Machine.partAt t q = { Machine.partAt s q with planFault := b }
  others : ∀ v, v ∉ partCores s p → coreAt t v = coreAt s v

theorem beatBegun_beginBeat (s : State) (p : Nat) (seg rep : Bool) : BeatBegun s p (beginBeat s p seg rep) := by
  refine List.foldlRecOn (motive := BeatBegun s p) _ _ ⟨.refl, .refl, fun q => ⟨(Machine.partAt s q).planFault, rfl⟩, fun _ _ => rfl⟩ ?_
  intro t ht u hu
  have h := coreMeets_beginSlice t u seg rep
  refine ⟨ht.fields.trans h.frame.fields, ht.regs.trans h.regs, fun q => ?_, fun v hv => ?_⟩
  · obtain ⟨a, ha⟩ := ht.parts q
    obtain ⟨b, hb⟩ := h.frame.parts q
    exact ⟨b, by rw [hb, ha]⟩
  · rw [h.frame.others v fun he => hv (he ▸ hu), ht.others v hv]

theorem setThrottle_eq (s : State) : ∃ n, setThrottle s = wr s 0x5008 5 n := by
  unfold setThrottle
  dsimp only
  split
  · exact ⟨0, rfl⟩
  · split
    · exact ⟨_, rfl⟩
    · exact ⟨0, rfl⟩

theorem touches_setThrottle (s : State) : Touches [.regs] s (setThrottle s) := by
  obtain ⟨n, h⟩ := setThrottle_eq s
  rw [h]
  exact touches_wr ..

theorem rg_setThrottle {s : State} {i j : Nat} (hj : j < 256) (h : i ≠ 0x5008) : rg (setThrottle s) i j = rg s i j := by
  obtain ⟨n, hn⟩ := setThrottle_eq s
  rw [hn, rg_wr_other _ _ _ _ _ _ (rkey_ne_of_idx hj (by decide) h)]

/-- Replacing the cores of a partition leaves the others. -/
theorem coreAt_mapCores_other {s : State} {p u : Nat} (f : Nat → CoreSt → CoreSt) (h : u ∉ partCores s p) :
    coreAt (mapCores s p f) u = coreAt s u := by
  rw [mapCores_eq]
  refine List.foldlRecOn (motive := fun t => coreAt t u = coreAt s u) _ _ rfl fun t ht v hv => ?_
  have hne : u ≠ v := fun he => h (he ▸ hv)
  rw [coreAt, kget_cores_mapCore_other hne]
  exact ht

/-! ### The start of a plan (R187) -/

/-- The partition is RUNNING at beat 0 of segment 0. -/
def planRunning (s : State) (p : Nat) : State :=
  setPart (wr (wr (setPlanState s p 3) (0x2120 + p) 7 0) (0x2120 + p) 8 0) p { Machine.partAt s p with segBeat := 0, ended := false }

theorem planStart_eq (s : State) (p : Nat) : planStart s p =
    setThrottle (beginBeat (mapCores (planRunning s p) p fun _ x =>
      { x with phase := 0, phaseFrom := absNow (planRunning s p), addCyc := absNow (planRunning s p) }) p true false) := rfl

theorem touches_planRunning (s : State) (p : Nat) : Touches [.regs, .parts] s (planRunning s p) :=
  ((touches_wr ..).mono rfl).trans (((touches_wr ..).mono rfl).trans (((touches_wr ..).mono rfl).trans ((touches_setPart ..).mono rfl)))

theorem rg_setPart (s : State) (p : Nat) (q : PartSt) (i j : Nat) : rg (setPart s p q) i j = rg s i j := rfl

/-- Where PLAN_START leads: RUNNING, at beat 0 of segment 0. -/
theorem rg_planRunning (s : State) (p : Nat) :
    planState (planRunning s p) p = 3 ∧ rg (planRunning s p) (0x2120 + p) 7 = 0 ∧ rg (planRunning s p) (0x2120 + p) 8 = 0 := by
  have hne : ∀ j k, j < 256 → k < 256 → j ≠ k → rkey (0x2120 + p) j ≠ rkey (0x2120 + p) k := fun _ _ => rkey_ne_of_sub
  refine ⟨?_, ?_, ?_⟩
  · rw [planState, planRunning, rg_setPart, rg_wr_other _ _ _ _ _ _ (hne 1 8 (by decide) (by decide) (by decide)),
      rg_wr_other _ _ _ _ _ _ (hne 1 7 (by decide) (by decide) (by decide)), setPlanState, rg_wr_same]
  · rw [planRunning, rg_setPart, rg_wr_other _ _ _ _ _ _ (hne 7 8 (by decide) (by decide) (by decide)), rg_wr_same]
  · rw [planRunning, rg_setPart, rg_wr_same]

/-- What holds of a partition whose plan has started. -/
structure PlanStarted (s : State) (p : Nat) (t : State) : Prop where
  state : planState t p = 3
  segment : rg t (0x2120 + p) 7 = 0
  rep : rg t (0x2120 + p) 8 = 0
  beat : (Machine.partAt t p).segBeat = 0
  going : (Machine.partAt t p).ended = false
  others : ∀ u, partOf s u ≠ p → coreAt t u = coreAt s u
  fields : Touches [.regs, .parts, .cores, .faultq, .capSeen, .blobs, .alertN] s t

theorem planStarted_planStart {s : State} {p : Nat} (hp : p < 4) : PlanStarted s p (planStart s p) := by
  rw [planStart_eq]
  have hrun := touches_planRunning s p
  obtain ⟨hstate, hseg, hrep⟩ := rg_planRunning s p
  have hpart : Machine.partAt (planRunning s p) p = { Machine.partAt s p with segBeat := 0, ended := false } := partAt_setPart ..
  have hlayout : rg (planRunning s p) 0x6000 3 = rg s 0x6000 3 := by
    have hne : ∀ j, j < 256 → rkey 0x6000 3 ≠ rkey (0x2120 + p) j := fun j hj => rkey_ne_of_idx (by decide) hj (by omega)
    rw [planRunning, rg_setPart, rg_wr_other _ _ _ _ _ _ (hne 8 (by decide)), rg_wr_other _ _ _ _ _ _ (hne 7 (by decide)), setPlanState,
      rg_wr_other _ _ _ _ _ _ (hne 1 (by decide))]
  generalize planRunning s p = w at *
  have hmap := touches_mapCores w p fun _ x => { x with phase := 0, phaseFrom := absNow w, addCyc := absNow w }
  have hcores : ∀ u, partOf s u ≠ p → coreAt (mapCores w p fun _ x =>
      { x with phase := 0, phaseFrom := absNow w, addCyc := absNow w }) u = coreAt s u := fun u hu => by
    rw [coreAt_mapCores_other _ fun h => hu ((partOf_congr hlayout u).symm.trans (mem_partCores.1 h).2), hrun.coreAt_eq (by decide)]
  generalize (mapCores w p fun _ x => { x with phase := 0, phaseFrom := absNow w, addCyc := absNow w }) = v at *
  have hbegun := beatBegun_beginBeat v p true false
  have hplan : ∀ j, j < 256 → rg (setThrottle (beginBeat v p true false)) (0x2120 + p) j = rg w (0x2120 + p) j := fun j hj => by
    rw [rg_setThrottle hj (by omega), hbegun.regs.rg (hbegun.fields.same .variant (by decide)) _ _
      (by rw [errorEntry_rkey hj, decide_eq_false_iff_not]; omega), hmap.rg_eq (by decide) (by decide)]
  obtain ⟨b, hb⟩ := hbegun.parts p
  have hpart' : Machine.partAt (setThrottle (beginBeat v p true false)) p = { Machine.partAt s p with segBeat := 0, ended := false, planFault := b } := by
    rw [(touches_setThrottle _).partAt_eq (by decide), hb, hmap.partAt_eq (by decide), hpart]
  refine ⟨?_, ?_, ?_, ?_, ?_, fun u hu => ?_, ?_⟩
  · rw [planState, hplan 1 (by decide)]
    exact hstate
  · rw [hplan 7 (by decide), hseg]
  · rw [hplan 8 (by decide), hrep]
  · rw [hpart']
  · rw [hpart']
  · rw [(touches_setThrottle _).coreAt_eq (by decide), hbegun.others, hcores u hu]
    have hlay : rg v 0x6000 3 = rg s 0x6000 3 := by rw [hmap.rg_eq (by decide) (by decide), hlayout]
    exact fun h => hu ((partOf_congr hlay u).symm.trans (mem_partCores.1 h).2)
  · exact (hrun.mono rfl).trans ((hmap.mono rfl).trans ((hbegun.fields.mono rfl).trans ((touches_setThrottle _).mono rfl)))

end Sys2Proof
end

section
/-! SUPPORT. The end of a plan, the change of the beat length and a frequency step at their edge (O33). -/

namespace Sys2Proof

open Machine

/-! ### The end of a plan (R186, R244) -/

/-- The fields that the serving unit may change when it answers and ends requests without a command of its own to apply. -/
def answerFields : List Field := [.regs, .faultq, .serve, .records, .sessions, .out, .msixPba]

theorem touches_putRecord (s : State) (dest : Nat) (r : List Byte) : Touches [.records, .sessions, .out, .msixPba] s (putRecord s dest r) :=
  ((touches_records ..).mono rfl).trans (touches_flushRecords ..)

theorem touches_putEnt (s : State) (e : Nat) (x : ServeEnt) : Touches [.serve] s (putEnt s e x) := by
  refine ⟨fun f hf => ?_⟩
  cases f
  case serve => simp at hf
  all_goals rfl

theorem touches_freeEnded (s : State) (p : Nat) : Touches [.serve] s (freeEnded s p) := .foldl _ (fun _ _ => .ite (touches_putEnt ..) .refl) _ _

theorem touches_dropStep (s : State) (p : Nat) : Touches [.parts, .records, .sessions, .out, .msixPba] s (dropStep s p) :=
  Touches.trans (.foldl _ (fun _ _ => (touches_putRecord ..).mono rfl) _ _) ((touches_setPart ..).mono rfl)

/-- What follows the end of the boundary in progress when a plan ends. -/
theorem touches_endServing_dropStep (s : State) (p : Nat) : Touches answerFields (dropStep s p) (endServing s p) := by
  refine Touches.trans (.foldl _ (fun t e => .ite ?_ .refl) _ _) ((touches_freeEnded ..).mono rfl)
  exact ((touches_putEnt ..).mono rfl).trans (((touches_bump ..).mono rfl).trans ((touches_putRecord ..).mono rfl))

theorem partAt_dropStep (s : State) (p : Nat) : Machine.partAt (dropStep s p) p = { Machine.partAt s p with step := none } := by
  have hrecords : ∀ (l : List (List Byte)), Machine.partAt (l.foldl (fun t r => putRecord t p r) s) p = Machine.partAt s p := fun l =>
    (Touches.foldl (l := [.records, .sessions, .out, .msixPba]) _ (fun _ _ => touches_putRecord ..) l s).partAt_eq (by decide) p
  unfold dropStep
  dsimp only
  rw [partAt_setPart, hrecords]

theorem partAt_endServing (s : State) (p : Nat) : Machine.partAt (endServing s p) p = { Machine.partAt s p with step := none } := by
  rw [(touches_endServing_dropStep s p).partAt_eq (by decide), partAt_dropStep]

/-- Applying the commands that wait starts no boundary. -/
theorem step_drainCommands (s : State) (p b : Nat) : (Machine.partAt (drainCommands s p b) p).step = (Machine.partAt s p).step := by
  have hgo : ∀ (f : State × List (Nat × List Byte) → Nat × List Byte → State × List (Nat × List Byte)) (l : List (Nat × List Byte))
      (a : State × List (Nat × List Byte)), (∀ a k, UnitServed a.1 (f a k).1) →
      Machine.partAt (l.foldl f a).1 p = Machine.partAt a.1 p := fun f l a h =>
    (UnitServed.foldPair f h l a).fields.partAt_eq (by decide) p
  unfold drainCommands
  dsimp only
  rw [partAt_setPart, hgo, partAt_setPart]
  intro a k
  rw [apply_ite Prod.fst]
  exact .ite (unitServed_applyCommand ..) .refl

/-- Where no command waits, none is applied. -/
theorem touches_drainCommands_nil {s : State} {p : Nat} (b : Nat) (h : (Machine.partAt s p).cmdQ = []) :
    Touches [.parts] s (drainCommands s p b) := by
  unfold drainCommands
  rw [h]
  exact (touches_setPart ..).trans (touches_setPart ..)

theorem step_planEnds (s : State) (p : Nat) : (Machine.partAt (planEnds s p) p).step = none := by
  rw [planEnds, step_drainCommands, partAt_endServing]

/-- Where no command waits, the end of a plan for the serving unit writes no memory. -/
theorem mem_planEnds_nil {s : State} {p : Nat} (h : (Machine.partAt s p).cmdQ = []) : (planEnds s p).mem = s.mem := by
  have hserve : Touches (.parts :: answerFields) s (endServing s p) :=
    ((touches_dropStep s p).mono rfl).trans ((touches_endServing_dropStep s p).mono rfl)
  have hdrain := touches_drainCommands_nil (s := endServing s p) (p := p) (endServing s p).beat (by rw [partAt_endServing, h])
  exact (hdrain.same .mem (by decide)).trans (hserve.same .mem (by decide))

theorem planComplete_eq (s : State) (p : Nat) : planComplete s p = setThrottle (planEnds (setPlanState (phasesCounted s p) p 5) p) := rfl

/-- Counting phases changes only the account of a core's phase. -/
theorem coreAt_phasesCounted (s : State) (p u : Nat) : ∃ n, coreAt (phasesCounted s p) u = { coreAt s u with phaseFrom := n } := by
  refine List.foldlRecOn (motive := fun t => ∃ n, coreAt t u = { coreAt s u with phaseFrom := n }) _ _ ⟨(coreAt s u).phaseFrom, rfl⟩ ?_
  rintro t ⟨n, ht⟩ v -
  split
  · unfold countPhase
    dsimp only
    by_cases hv : u = v
    · subst hv
      exact ⟨absNow t, by rw [coreAt_setCore, ht]⟩
    · exact ⟨n, by rw [coreAt_setCore_other _ _ _ _ hv]; exact ht⟩
  · exact ⟨n, ht⟩

theorem coreAt_phasesCounted_other {s : State} {p u : Nat} (h : u ∉ partCores s p) : coreAt (phasesCounted s p) u = coreAt s u := by
  refine List.foldlRecOn (motive := fun t => coreAt t u = coreAt s u) _ _ rfl fun t ht v hv => ?_
  have hne : u ≠ v := fun he => h (he ▸ hv)
  split
  · unfold countPhase
    dsimp only
    rw [coreAt_setCore_other _ _ _ _ hne]
    exact ht
  · exact ht

/-- What holds of a partition whose plan has ended with no alarm. -/
structure PlanCompleted (s : State) (p : Nat) (t : State) : Prop where
  state : planState t p = 5
  step : (Machine.partAt t p).step = none
  phases : ∀ u, ∃ n, coreAt t u = { coreAt s u with phaseFrom := n }
  others : ∀ u, partOf s u ≠ p → coreAt t u = coreAt s u
  memory : (Machine.partAt s p).cmdQ = [] → t.mem = s.mem
  fields : Touches [.regs, .cores, .coreCyc, .parts, .serve, .records, .sessions, .out, .msixPba, .mem, .ecc, .faultq, .alertN] s t

theorem planCompleted_planComplete {s : State} {p : Nat} (hp : p < 4) : PlanCompleted s p (planComplete s p) := by
  rw [planComplete_eq]
  have hcount := touches_phasesCounted s p
  have hset : Touches [.regs] (phasesCounted s p) (setPlanState (phasesCounted s p) p 5) := touches_wr ..
  have hend := unitEnded_planEnds (setPlanState (phasesCounted s p) p 5) p
  have hthrottle := touches_setThrottle (planEnds (setPlanState (phasesCounted s p) p 5) p)
  have hcores : ∀ u, coreAt (setThrottle (planEnds (setPlanState (phasesCounted s p) p 5) p)) u = coreAt (phasesCounted s p) u := fun u => by
    rw [hthrottle.coreAt_eq (by decide), hend.fields.coreAt_eq (by decide), hset.coreAt_eq (by decide)]
  refine ⟨?_, ?_, fun u => ?_, fun u hu => ?_, fun hq => ?_, ?_⟩
  · rw [planState, rg_setThrottle (by decide) (by omega),
      rg_eq_of_regsKept_subFrom5 hend.counts (hend.fields.same .variant (by decide)) (by decide), setPlanState, rg_wr_same]
  · rw [hthrottle.partAt_eq (by decide), step_planEnds]
  · rw [hcores]
    exact coreAt_phasesCounted s p u
  · rw [hcores, coreAt_phasesCounted_other fun h => hu (mem_partCores.1 h).2]
  · have hcmd : (Machine.partAt (setPlanState (phasesCounted s p) p 5) p).cmdQ = [] := by
      rw [hset.partAt_eq (by decide), hcount.partAt_eq (by decide), hq]
    have hmem : (setThrottle (planEnds (setPlanState (phasesCounted s p) p 5) p)).mem = _ := hthrottle.same .mem (by decide)
    rw [hmem, mem_planEnds_nil hcmd]
    exact hcount.same .mem (by decide)
  · exact (hcount.mono rfl).trans ((hset.mono rfl).trans ((hend.fields.mono rfl).trans (hthrottle.mono rfl)))

/-! ### The beat length (R226) -/

/-- The entries after the change of the beat length. -/
theorem rg_beatKChange (s : State) : rg (beatKChange s) 0x2100 1 = rg s 0x2100 2 ∧ rg (beatKChange s) 0x2100 3 = 0 ∧
    OnlyRegs [(0x2100, 1), (0x2100, 3), (0x2000, 8)] s (beatKChange s) := by
  have hne : rkey 0x2100 1 ≠ rkey 0x2100 3 ∧ rkey 0x2100 1 ≠ rkey 0x2000 8 ∧ rkey 0x2100 3 ≠ rkey 0x2000 8 := by decide
  obtain ⟨h13, h18, h38⟩ := hne
  unfold beatKChange
  dsimp only
  refine ⟨?_, ?_, ?_⟩
  · rw [rg_wr_other _ _ _ _ _ _ h18, rg_wr_other _ _ _ _ _ _ h13, rg_wr_same]
  · rw [rg_wr_other _ _ _ _ _ _ h38, rg_wr_same]
  · exact ((onlyRegs_wr _ _ (by decide)).mono (by simp)).trans (((onlyRegs_wr _ _ (by decide)).mono (by simp)).trans
      ((onlyRegs_wr _ _ (by decide)).mono (by simp)))

theorem touches_beatKChange (s : State) : Touches [.regs] s (beatKChange s) :=
  (touches_wr ..).trans ((touches_wr ..).trans (touches_wr ..))

/-! ### A frequency step (R441, R443) -/

theorem touches_finishHandle (s : State) (h : Nat) (st : Status) (reason : Nat) (result : List Byte) :
    Touches (.handles :: eventFields) s (finishHandle s h st reason result) := by
  unfold finishHandle
  split
  · exact .refl
  · exact .ite ((touches_setHandle ..).mono rfl) (((touches_setHandle ..).mono rfl).trans ((touches_eventAll ..).mono rfl))

/-- Completing the handles that wait for a step leaves none to wait. -/
theorem touches_endFreqChange (s : State) (n : Nat) :
    Touches (.handles :: eventFields) { s with freqHandle := [] } (endFreqChange s n) :=
  .foldl _ (fun _ _ => touches_finishHandle ..) _ _

theorem touches_freqHandle (s : State) (l : List Nat) : Touches [.freqHandle] s { s with freqHandle := l } := by
  refine ⟨fun f hf => ?_⟩
  cases f
  case freqHandle => simp at hf
  all_goals rfl

/-- N takes the announced value, the step is pending no more, and it is counted. -/
def stepTaken (s : State) (n : Nat) : State := bump (wr (setStep s none) 0x2000 1 n) 0x2008 5 6 4 1

theorem beatDiff_self (a : Nat) : beatDiff a a = 0 := by
  have hz : (a + 2 ^ 48 - a % 2 ^ 48) % 2 ^ 48 = 0 := by omega
  simp only [beatDiff, hz]
  rfl

theorem fstepApply_of_pending {s : State} {n : Nat} (h : pendingStep s = some (s.beat, n)) (hc : s.cyc = 0) :
    fstepApply s = setThrottle (endFreqChange (stepTaken s n) n) := by
  simp only [fstepApply, h, beatDiff_self, hc]
  rfl

theorem fstepApply_of_none {s : State} (h : pendingStep s = none) : fstepApply s = s := by rw [fstepApply, h]

theorem touches_stepTaken (s : State) (n : Nat) : Touches [.blobs, .regs, .faultq] s (stepTaken s n) :=
  Touches.trans ((touches_wb ..).mono rfl) (((touches_wr ..).mono rfl).trans ((touches_bump ..).mono rfl))

theorem rg_stepTaken (s : State) (n : Nat) :
    rg (stepTaken s n) 0x2000 1 = n ∧ rg (stepTaken s n) 0x2008 5 = counted (rg s 0x2008 5) 1 := by
  have hother : rkey 0x2008 5 ≠ rkey 0x2000 1 := by decide
  refine ⟨?_, ?_⟩
  · rw [stepTaken, rg_bump_other (by decide) (by decide) (by decide) (by decide), rg_wr_same]
  · rw [stepTaken, rg_bump_same (by decide) (by decide) (by decide) (by decide), rg_wr_other _ _ _ _ _ _ hother]
    rfl

/-- The entry of the pending step says that there is none. -/
theorem pendingStep_of_cleared {s t : State} (h : t.blobs = (setStep s none).blobs) : pendingStep t = none := by
  have hrb : rb t 0x2000 5 = leBytes 8 0 := rb_of_kget (by rw [h]; exact kget_kset_same ..)
  rw [pendingStep, hrb]
  rfl

/-- What holds of a state in which the step to `n` has been made. -/
structure FstepApplied (s : State) (n : Nat) (t : State) : Prop where
  value : rg t 0x2000 1 = n
  done : pendingStep t = none
  handles : t.freqHandle = []
  later : t.freqLater = s.freqLater
  count : rg t 0x2008 5 = counted (rg s 0x2008 5) 1
  memory : t.mem = s.mem
  cores : t.cores = s.cores

theorem fstepApplied_of_pending {s t : State} {n : Nat} (h : Touches [.alertN] (setThrottle (endFreqChange (stepTaken s n) n)) t) :
    FstepApplied s n t := by
  have htaken := touches_stepTaken s n
  obtain ⟨hvalue, hcount⟩ := rg_stepTaken s n
  have hblobs : (stepTaken s n).blobs = (setStep s none).blobs :=
    Touches.same (Touches.trans (l := [.regs, .faultq]) ((touches_wr ..).mono rfl) ((touches_bump ..).mono rfl)) .blobs (by decide)
  have hended := touches_endFreqChange (stepTaken s n) n
  have hthrottle := (touches_setThrottle (endFreqChange (stepTaken s n) n)).mono (l' := [.regs, .alertN]) rfl
  have hrest : Touches (.handles :: .regs :: .alertN :: eventFields) { stepTaken s n with freqHandle := [] } t :=
    (hended.mono rfl).trans ((hthrottle.mono rfl).trans (h.mono rfl))
  have hrg : ∀ i j, j < 256 → i ≠ 0x5008 → rg t i j = rg (stepTaken s n) i j := fun i j hj hi => by
    rw [h.rg_eq (by decide) (by decide), rg_setThrottle hj hi, hended.rg_eq (by decide) (by decide)]
    rfl
  refine ⟨?_, ?_, hrest.same .freqHandle (by decide), ?_, ?_, ?_, ?_⟩
  · rw [hrg _ _ (by decide) (by decide), hvalue]
  · exact pendingStep_of_cleared (s := s) ((hrest.same .blobs (by decide)).trans hblobs)
  · exact (hrest.same .freqLater (by decide)).trans (htaken.same .freqLater (by decide))
  · rw [hrg _ _ (by decide) (by decide), hcount]
  · exact (hrest.same .mem (by decide)).trans (htaken.same .mem (by decide))
  · exact (hrest.same .cores (by decide)).trans (htaken.same .cores (by decide))

/-! ### The edge events -/

theorem PlanStarted.ended {s w t : State} {p : Nat} (h : PlanStarted s p w) (g : Touches [.alertN] w t) : PlanStarted s p t where
  state := by rw [planState, g.rg_eq (by decide) (by decide)]; exact h.state
  segment := by rw [g.rg_eq (by decide) (by decide), h.segment]
  rep := by rw [g.rg_eq (by decide) (by decide), h.rep]
  beat := by rw [g.partAt_eq (by decide), h.beat]
  going := by rw [g.partAt_eq (by decide), h.going]
  others u hu := by rw [g.coreAt_eq (by decide), h.others u hu]
  fields := h.fields.trans (g.mono rfl)

theorem PlanCompleted.ended {s w t : State} {p : Nat} (h : PlanCompleted s p w) (g : Touches [.alertN] w t) : PlanCompleted s p t where
  state := by rw [planState, g.rg_eq (by decide) (by decide)]; exact h.state
  step := by rw [g.partAt_eq (by decide), h.step]
  phases u := by rw [g.coreAt_eq (by decide)]; exact h.phases u
  others u hu := by rw [g.coreAt_eq (by decide), h.others u hu]
  memory hq := (g.same .mem (by decide)).trans (h.memory hq)
  fields := h.fields.trans (g.mono rfl)

theorem exec_planStart_eq (p : Nat) (s : State) : exec (.planStart p) s = onPart s p (if startDue s p then planStart s p else s) := rfl

theorem exec_planComplete_eq (p : Nat) (s : State) : exec (.planComplete p) s = onPart s p
    (if planState s p = 3 ∧ (Machine.partAt s p).ended ∧ !(Machine.partAt s p).alarm ∧ s.cyc = 0 then planComplete s p else s) := rfl

theorem exec_beatKChange_eq (s : State) : exec .beatKChange s = Machine.done s (if kChangeDue s then beatKChange s else s) := rfl

theorem exec_fstepApply_eq (s : State) : exec .fstepApply s = Machine.done s (fstepApply s) := rfl

/-- A partition's command that does nothing. -/
theorem onPart_next_idle {s : State} {p : Nat} (hp : s.powered = true) (hm : p ∈ partitions s) :
    ∃ t, onPart s p s = .next t ∧ Touches [.alertN] s t := onPart_next (l := []) hp hm .refl rfl

/-- Settles O33: what each event leaves at its edge is told by `PlanStarted`, `PlanCompleted`, `rg_beatKChange` and `FstepApplied`. -/
theorem edgeEventsTakeEffect : Obligations.EdgeEventsTakeEffect := by
  intro s hp
  have hidle : ∃ t, Machine.done s s = .next t ∧ Touches [.alertN] s t := done_next hp rfl rfl
  refine ⟨fun p hm hd => ?_, fun p hm hd => ?_, fun p hm => ⟨fun h => ?_, fun h => ?_⟩, fun hd => ?_, fun hd => ?_, fun n hn hc => ?_, fun hn => ?_⟩
  · have hstart := planStarted_planStart (s := s) (partition_lt hm)
    obtain ⟨t, ht, hend⟩ := onPart_next hp hm hstart.fields (by decide)
    have h := hstart.ended hend
    exact ⟨t, by rw [exec_planStart_eq, if_pos hd, ht], h.state, h.segment, h.rep, h.beat, h.going, h.fields.same .mem (by decide), h.others,
      h.fields⟩
  · rw [exec_planStart_eq, if_neg (by simp [hd])]
    exact onPart_next_idle hp hm
  · have hcomplete := planCompleted_planComplete (s := s) (partition_lt hm)
    obtain ⟨t, ht, hend⟩ := onPart_next hp hm hcomplete.fields (by decide)
    have hc := hcomplete.ended hend
    obtain ⟨hrun, hended, halarm, hedge⟩ := h
    refine ⟨t, ?_, hc.state, hc.step, hc.phases, hc.others, hc.memory, hc.fields⟩
    rw [exec_planComplete_eq, if_pos ⟨hrun, hended, by simpa using halarm, hedge⟩, ht]
  · rw [exec_planComplete_eq, if_neg fun hc => h ⟨hc.1, hc.2.1, by simpa using hc.2.2.1, hc.2.2.2⟩]
    exact onPart_next_idle hp hm
  · have hk := touches_beatKChange s
    obtain ⟨hvalue, hzero, honly⟩ := rg_beatKChange s
    obtain ⟨t, ht, hend⟩ := done_next hp (hk.same .pending (by decide)) (hk.same .variant (by decide))
    have hrg : ∀ i j, rg t i j = rg (beatKChange s) i j := hend.rg_eq (by decide) (by decide)
    exact ⟨t, by rw [exec_beatKChange_eq, if_pos hd, ht], by rw [hrg, hvalue], by rw [hrg, hzero], honly.trans (.of_regs hrg),
      (hk.mono rfl).trans (hend.mono rfl)⟩
  · rw [exec_beatKChange_eq, if_neg (by simp [hd])]
    exact hidle
  · rw [exec_fstepApply_eq, fstepApply_of_pending hn hc]
    have hall : Touches (.blobs :: .regs :: .faultq :: .freqHandle :: .handles :: eventFields) s
        (setThrottle (endFreqChange (stepTaken s n) n)) :=
      ((touches_stepTaken s n).mono rfl).trans (((touches_freqHandle ..).mono rfl).trans
        (((touches_endFreqChange ..).mono rfl).trans ((touches_setThrottle _).mono rfl)))
    obtain ⟨t, ht, hend⟩ := done_next hp (hall.same .pending (by decide)) (hall.same .variant (by decide))
    have h := fstepApplied_of_pending hend
    exact ⟨t, ht, h.value, h.done, h.handles, h.later, h.count, h.memory, h.cores⟩
  · rw [exec_fstepApply_eq, fstepApply_of_none hn]
    exact hidle

end Sys2Proof
end

section
/-! SUPPORT. What an accepted SET does, and the SETs of the time base and of the start beat (O41). -/

namespace Sys2Proof

open Machine

/-! ### An accepted SET goes through (R16, R17) -/

theorem admitted_eq (s : State) (ses : Nat) : ∃ a n, admitted s ses = { s with asks := a, lockLeft := n } := by
  unfold admitted touch
  split
  · exact ⟨(asked s ses).asks, 2000, rfl⟩
  · exact ⟨(asked s ses).asks, s.lockLeft, rfl⟩

section Setting

variable {s : State} {i : Instr} {ses idx sub : Nat} {x : Session} {more : List Field} {P : State → Prop}
  {st : State → Session → Status} {eff : State → Session → State}

/-- A SET in an open session whose status is OK takes effect and is answered, if its effect spares what the response reads. -/
theorem setTakes_of_setting (ho : OpenSession s ses 2 x) (hexec : exec i s = Machine.done s (setting s ses idx sub st eff))
    (hst : st (admitted s ses) x = .ok) (hf : Touches more (admitted s ses) (eff (admitted s ses) x))
    (hm : more.all (fun f => decide (f ≠ .pending ∧ f ≠ .variant ∧ f ≠ .heads)) = true)
    (hen : rg (eff (admitted s ses) x) 0x1000 8 = rg (admitted s ses) 0x1000 8)
    (hP : ∀ t, Touches replyFields (eff (admitted s ses) x) t → P t) : SetTakes s i ses idx sub more P := by
  have hnot : ∀ f ∈ more, f ≠ .pending ∧ f ≠ .variant ∧ f ≠ .heads := fun f hf => by simpa using List.all_eq_true.1 hm f hf
  have hsa := touches_admitted s ses
  generalize hw : eff (admitted s ses) x = w at *
  have hwr := touches_answerIn w x 2 idx sub .ok []
  have hrun : setting s ses idx sub st eff = answerIn w x 2 idx sub .ok [] := by
    rw [setting, inSes_of_open ho, hst, if_pos rfl, hw]
  have hpend : (answerIn w x 2 idx sub .ok []).pending = s.pending :=
    (hwr.same .pending (by decide)).trans ((hf.same .pending fun h => (hnot _ h).1 rfl).trans (hsa.same .pending (by decide)))
  have hvar : (answerIn w x 2 idx sub .ok []).variant = s.variant :=
    (hwr.same .variant (by decide)).trans ((hf.same .variant fun h => (hnot _ h).2.1 rfl).trans (hsa.same .variant (by decide)))
  obtain ⟨t, ht, hrt⟩ := done_next ho.powered hpend hvar
  have hwt : Touches replyFields w t := (hwr.mono rfl).trans (hrt.mono rfl)
  refine ⟨t, by rw [hexec, hrun, ht], ?_, ?_, hP t hwt⟩
  · have hmem := mem_out_answerIn w x 2 idx sub .ok []
    have hheads : w.heads = s.heads := (hf.same .heads fun h => (hnot _ h).2.2 rfl).trans (hsa.same .heads (by decide))
    rw [ho.id_eq, response_congr hheads (hen.trans (rg_admitted ..))] at hmem
    have hout : t.out = _ := hrt.same .out (by decide)
    rwa [hout]
  · exact ((hsa.mono (l' := replyFields) rfl).subset (List.subset_append_right ..)).trans
      ((hf.subset (List.subset_append_left ..)).trans (hwt.subset (List.subset_append_right ..)))

end Setting

/-- An accepted SET that writes numbers alone, none of them IANA_EN. -/
theorem setTakes_of_onlyRegs {s : State} {i : Instr} {ses idx sub : Nat} {x : Session} {P : State → Prop} {l : List (Nat × Nat)}
    {st : State → Session → Status} {eff : State → Session → State} (ho : OpenSession s ses 2 x)
    (hexec : exec i s = Machine.done s (setting s ses idx sub st eff)) (hst : st (admitted s ses) x = .ok)
    (hf : Touches [.regs] (admitted s ses) (eff (admitted s ses) x)) (hl : OnlyRegs l (admitted s ses) (eff (admitted s ses) x))
    (hen : (0x1000, 8) ∉ l) (hP : ∀ t, Touches replyFields (eff (admitted s ses) x) t → OnlyRegs l s t → P t) :
    SetTakes s i ses idx sub [.regs] P :=
  setTakes_of_setting ho hexec hst hf (by decide) (hl _ _ (by decide) hen) fun t ht => hP t ht (hl.around ht)

/-! ### The timing entries (R423, R424) -/

/-- The entries from 0x2000 on, among them all of the time base. -/
def fromTiming (k : Nat) : Bool := decide (0x2000 ≤ k / 256)

theorem fromTiming_rkey {i j : Nat} (hj : j < 256) : fromTiming (rkey i j) = decide (0x2000 ≤ i) := by
  have hdiv : rkey i j / 256 = i := by unfold rkey; omega
  rw [fromTiming, hdiv]

theorem touches_holdPs (s : State) (r : Rat) : Touches [.holdPs] s { s with holdPs := r } := by
  refine ⟨fun f hf => ?_⟩
  cases f
  case holdPs => simp at hf
  all_goals rfl

theorem touches_phase (s : State) (n : Int) (b : Bool) (l : List (Nat × Nat × Nat)) :
    Touches [.phaseLeft, .phaseBad, .marks] s { s with phaseLeft := n, phaseBad := b, marks := l } := by
  refine ⟨fun f hf => ?_⟩
  cases f
  case phaseLeft | phaseBad | marks => simp at hf
  all_goals rfl

/-- Counting HOLDOVER_US changes only that count, among the entries from 0x2008 on. -/
theorem touches_countHold (s : State) : Touches [.holdPs, .regs, .faultq, .rems] s (countHold s) := by
  unfold countHold
  split
  · exact .refl
  · exact ((touches_holdPs ..).mono rfl).trans ((touches_bumpUnits ..).mono rfl)

theorem regsKept_countHold {m : Nat → Bool} (h3 : m (rkey 0x2008 3) = true) (h6 : m (rkey 0x2008 6) = true)
    (h5 : m (rkey 0x7000 5) = true) (h6' : m (rkey 0x7000 6) = true) (s : State) : RegsKept m s (countHold s) := by
  unfold countHold
  split
  · exact .refl
  · exact regsKept_bump (m := m) _ 0x2008 3 6 2 _ h3 h6 h5 h6'

theorem touches_setTiming (s : State) (v : Nat) : Touches [.holdPs, .regs, .faultq, .rems] s (setTiming s v) :=
  (touches_countHold s).trans (((touches_holdPs ..).mono rfl).trans ((touches_wr ..).mono rfl))

theorem regsKept_setTiming {m : Nat → Bool} (h13 : m (rkey 0x2000 13) = true) (h3 : m (rkey 0x2008 3) = true)
    (h6 : m (rkey 0x2008 6) = true) (h5 : m (rkey 0x7000 5) = true) (h6' : m (rkey 0x7000 6) = true) (s : State) (v : Nat) :
    RegsKept m s (setTiming s v) :=
  (regsKept_countHold h3 h6 h5 h6' s).trans (RegsKept.trans (.of_eq rfl) (regsKept_wr _ _ _ _ h13))

theorem timingState_setTiming (s : State) (v : Nat) : timingState (setTiming s v) = v := rg_wr_same ..

/-- The other entries of the time base stay. -/
theorem rg_setTiming_other (s : State) (v : Nat) {j : Nat} (hj : j < 256) (h : j ≠ 13) : rg (setTiming s v) 0x2000 j = rg s 0x2000 j := by
  have hne : ∀ i k, k < 256 → (i ≠ 0x2000 ∨ k ≠ j) → (rkey i k != rkey 0x2000 j) = true := fun i k hk h => by
    rw [bne_iff_ne, ne_eq, rkey_inj hk hj]
    omega
  exact rg_eq_of_regsKept (regsKept_setTiming (hne _ _ (by decide) (.inr (Ne.symm h))) (hne _ _ (by decide) (.inl (by decide)))
    (hne _ _ (by decide) (.inl (by decide))) (hne _ _ (by decide) (.inl (by decide))) (hne _ _ (by decide) (.inl (by decide))) s v)
    ((touches_setTiming s v).same .variant (by decide))

theorem touches_freerun (s : State) : Touches [.regs, .rems, .faultq, .phaseLeft, .phaseBad, .holdPs, .marks] s (freerun s) :=
  ((touches_setTiming s 0).mono rfl).trans (((touches_wr ..).mono rfl).trans (((touches_wr ..).mono rfl).trans
    (((touches_wr ..).mono rfl).trans ((touches_phase ..).mono rfl))))

/-- Falling to FREERUN writes entries from 0x2000 on. -/
theorem regsKept_freerun (s : State) : RegsKept fromTiming s (freerun s) := by
  have hset : RegsKept fromTiming s (setTiming s 0) := regsKept_setTiming rfl rfl rfl rfl rfl s 0
  refine hset.trans (RegsKept.trans (regsKept_wr _ 0x2000 14 255 rfl) (RegsKept.trans (regsKept_wr _ 0x2000 15 0 rfl)
    (RegsKept.trans (regsKept_wr _ (0x2210 + timingPart s) 6 (rg s (0x2210 + timingPart s) 2) ?_) (.of_eq rfl))))
  rw [fromTiming_rkey (by decide), decide_eq_true_eq]
  omega

/-- The time base in FREERUN: TIMING_STATE is 0 and no link is in use; the entries that a SET writes stay. -/
theorem rg_freerun {s : State} {j : Nat} (hj : j < 256) :
    rg (freerun s) 0x2000 j = if j = 15 then 0 else if j = 14 then 255 else if j = 13 then 0 else rg s 0x2000 j := by
  have hlast : rg (freerun s) 0x2000 j = rg (wr (wr (setTiming s 0) 0x2000 14 255) 0x2000 15 0) 0x2000 j :=
    rg_wr_other _ _ _ _ _ _ (rkey_ne_of_idx hj (by decide) (by omega))
  have hkey : ∀ k, k < 256 → (rkey 0x2000 j = rkey 0x2000 k ↔ j = k) := fun k hk => by simp [rkey_inj hj hk]
  rw [hlast, rg_wr, rg_wr]
  simp only [hkey 15 (by decide), hkey 14 (by decide)]
  congr 2
  by_cases h : j = 13
  · subst h
    rw [if_pos rfl]
    exact timingState_setTiming s 0
  · rw [if_neg h]
    exact rg_setTiming_other s 0 hj h

theorem touches_doTimingWrite (s : State) (sub v : Nat) :
    Touches [.regs, .rems, .faultq, .phaseLeft, .phaseBad, .holdPs, .marks] s (doTimingWrite s sub v) := by
  have h : Touches [.regs, .rems, .faultq, .phaseLeft, .phaseBad, .holdPs, .marks] s (freerun (wr (freerun s) 0x2000 sub v)) :=
    (touches_freerun s).trans (((touches_wr ..).mono rfl).trans (touches_freerun _))
  exact .ite (h.trans ((touches_setTiming ..).mono rfl)) h

theorem regsKept_doTimingWrite (s : State) {sub : Nat} (v : Nat) (hs : sub < 256) : RegsKept fromTiming s (doTimingWrite s sub v) := by
  have h : RegsKept fromTiming s (freerun (wr (freerun s) 0x2000 sub v)) :=
    (regsKept_freerun s).trans (RegsKept.trans (regsKept_wr _ _ _ _ (by rw [fromTiming_rkey hs]; rfl)) (regsKept_freerun _))
  unfold doTimingWrite
  dsimp only
  split
  · exact h.trans (regsKept_setTiming rfl rfl rfl rfl rfl _ 3)
  · exact h

/-- What a timing write leaves in its entry, in TIMING_STATE and in TIMING_ACTIVE. -/
theorem rg_doTimingWrite (s : State) {sub : Nat} (v : Nat) (hs : 9 ≤ sub ∧ sub ≤ 12) :
    rg (doTimingWrite s sub v) 0x2000 sub = v ∧ timingState (doTimingWrite s sub v) = (if sub = 9 ∧ v = 1 then 3 else 0) ∧
      timingActive (doTimingWrite s sub v) = 255 := by
  have hsub : rg (freerun (wr (freerun s) 0x2000 sub v)) 0x2000 sub = v := by
    rw [rg_freerun (by omega), if_neg (by omega), if_neg (by omega), if_neg (by omega), rg_wr_same]
  have hactive : rg (freerun (wr (freerun s) 0x2000 sub v)) 0x2000 14 = 255 := by rw [rg_freerun (by decide)]; rfl
  have hstate : rg (freerun (wr (freerun s) 0x2000 sub v)) 0x2000 13 = 0 := by rw [rg_freerun (by decide)]; rfl
  unfold doTimingWrite
  dsimp only
  by_cases hr : sub = 9 ∧ v = 1
  · rw [if_pos hr, if_pos hr]
    exact ⟨by rw [rg_setTiming_other _ _ (by omega) (by omega), hsub], timingState_setTiming .., by rw [timingActive, rg_setTiming_other _ _ (by decide) (by decide), hactive]⟩
  · rw [if_neg hr, if_neg hr]
    exact ⟨hsub, hstate, hactive⟩

/-! ### The SETs of the time base and of the start beat -/

/-- BRK_CTL takes its value, and BRK_HIT holds no match any more (R224). -/
def breakSet (s : State) (v : Nat) : State := { wr s 0x7810 1 v with blobs := kdel (wr s 0x7810 1 v).blobs (rkey 0x7810 6) }

theorem touches_breakSet (s : State) (v : Nat) : Touches [.regs, .blobs] s (breakSet s v) := by
  refine ⟨fun f hf => ?_⟩
  cases f
  case regs | blobs => simp at hf
  all_goals rfl

theorem onlyRegs_breakSet (s : State) (v : Nat) : OnlyRegs [(0x7810, 1)] s (breakSet s v) := onlyRegs_wr s v (by decide)

/-- Settles O41: the gate lets each SET through (`setTakes_of_setting`); a timing write is `doTimingWrite`, the others write their numbers. -/
theorem timeEntriesTakeTheirValues : Obligations.TimeEntriesTakeTheirValues := by
  intro s ses x val ho v
  obtain ⟨a, n, hadm⟩ := admitted_eq s ses
  have hlen : beatLen (admitted s ses) = beatLen s := by rw [beatLen, rg_admitted, beatLen]
  have hne : rkey 0x2000 7 ≠ rkey 0x2000 8 := by decide
  have hrg : ∀ {w t : State}, Touches replyFields w t → ∀ i j, rg t i j = rg w i j := fun h => h.rg_eq (by decide) (by decide)
  refine ⟨fun sub h9 h12 hst => ?_, fun hst => ?_, fun hst => ?_, fun p hp hst => ?_, fun hst => ?_⟩
  · have hexec : exec (.timingConfigWrite ses sub val) s = Machine.done s (timingWrite s ses sub val) :=
      congrArg (Machine.done s) (if_pos ⟨h9, h12⟩)
    refine setTakes_of_setting ho hexec (by rw [hadm]; exact hst) (touches_doTimingWrite ..) (by decide) ?_ fun t ht => ?_
    · exact (regsKept_doTimingWrite _ _ (by omega)).rg ((touches_doTimingWrite ..).same .variant (by decide)) _ _ rfl
    · obtain ⟨hvalue, hstate, hactive⟩ := rg_doTimingWrite (admitted s ses) v ⟨h9, h12⟩
      exact ⟨by rw [hrg ht, hvalue], by rw [timingState, hrg ht]; exact hstate, by rw [timingActive, hrg ht]; exact hactive⟩
  · refine setTakes_of_onlyRegs (l := [(0x2000, 7), (0x2000, 8)]) ho rfl (by rw [hadm]; exact hst)
      ((touches_wr ..).trans (touches_wr ..)) (onlyRegs_wr_wr _ _ _ (by decide) (by decide)) (by decide) fun t ht hl => ⟨?_, ?_, hl⟩
    · rw [hrg ht, rg_wr_other _ _ _ _ _ _ hne, rg_wr_same]
    · rw [hrg ht, rg_wr_same, stretchMax, hlen]
  · exact setTakes_of_onlyRegs ho rfl (by rw [hadm]; exact hst) (touches_wr ..) (onlyRegs_wr _ _ (by decide)) (by decide)
      fun t ht hl => ⟨by rw [hrg ht, rg_wr_same], hl⟩
  · refine setTakes_of_onlyRegs ho rfl (by rw [hadm]; exact hst) (touches_wr ..) (onlyRegs_wr _ _ (by decide)) ?_
      fun t ht hl => ⟨by rw [hrg ht, rg_wr_same], hl⟩
    simp
  · refine setTakes_of_setting (eff := fun w _ => breakSet w v) ho rfl (by rw [hadm]; exact hst) (touches_breakSet ..) (by decide)
      (onlyRegs_breakSet _ _ _ _ (by decide) (by decide)) fun t ht => ?_
    have hblobs : t.blobs = kdel (admitted s ses).blobs (rkey 0x7810 6) := ht.same .blobs (by decide)
    refine ⟨?_, ?_, (onlyRegs_breakSet _ _).around ht, fun k hk => ?_⟩
    · rw [hrg ht]
      exact rg_wr_same ..
    · rw [hblobs, kget_kdel, if_pos rfl]
    · have hk : k ≠ rkey 0x7810 6 := by simpa using hk
      have hs : (admitted s ses).blobs = s.blobs := (touches_admitted s ses).same .blobs (by decide)
      rw [hblobs, kget_kdel, if_neg hk, hs]

end Sys2Proof
end

section
/-! SUPPORT. What issuing and completing a handle does, what an accepted INVOKE does, PLAN_LOAD and PLAN_RESET (O49). -/

namespace Sys2Proof

open Machine

/-! ### Handles (R610 to R612) -/

theorem touches_issue (s : State) (ty ses : Nat) (queued : Bool) :
    Touches [.handles, .handleSeq, .regs, .faultq] s (issue s ty ses queued).2 := by
  refine Touches.trans ?_ ((touches_bump ..).mono rfl)
  refine ⟨fun f hf => ?_⟩
  cases f
  case handles | handleSeq => simp at hf
  all_goals rfl

/-- Of the numeric entries issuing a handle touches only its counts. -/
theorem rg_issue (s : State) (ty ses : Nat) (queued : Bool) {i j : Nat} (hj : j < 256) (h8 : i ≠ 0x8000) (h7 : i ≠ 0x7000) :
    rg (issue s ty ses queued).2 i j = rg s i j :=
  rg_bump_other (rkey_ne_of_idx (by decide) hj h8.symm) (rkey_ne_of_idx (by decide) hj h8.symm) (rkey_ne_of_idx (by decide) hj h7.symm)
    (rkey_ne_of_idx (by decide) hj h7.symm)

/-- The table holds the new handle beside handles that it held. -/
theorem handles_issue (s : State) (ty ses : Nat) (queued : Bool) : ∃ hs new, (issue s ty ses queued).2.handles = hs ++ [new] ∧ hs ⊆ s.handles ∧
    new.h = ty * 2 ^ 24 + s.handleSeq ∧ new.ses = ses := by
  refine ⟨_, _, (touches_bump ..).same .handles (by decide), ?_, rfl, rfl⟩
  split
  · exact List.Subset.refl _
  · split
    · exact List.filter_subset_self _
    · exact List.Subset.refl _

/-- The handle just issued is found in the table, and is its session's when no older one has its number. -/
theorem handleAt_issue (s : State) (ty ses : Nat) (queued : Bool) : ∃ r, handleAt (issue s ty ses queued).2 (ty * 2 ^ 24 + s.handleSeq) = some r ∧
    ((∀ k ∈ s.handles, k.h ≠ ty * 2 ^ 24 + s.handleSeq) → r.ses = ses) := by
  obtain ⟨hs, new, heq, hsub, hnew, hses⟩ := handles_issue s ty ses queued
  rw [handleAt, heq, List.find?_append]
  cases hfind : hs.find? (fun x => x.h == ty * 2 ^ 24 + s.handleSeq) with
  | none => exact ⟨new, by simp [hnew], fun _ => hses⟩
  | some r =>
    refine ⟨r, rfl, fun hno => absurd (List.find?_some hfind) ?_⟩
    simpa using hno r (hsub (List.mem_of_find?_eq_some hfind))

theorem handleAt_congr {s t : State} (h : t.handles = s.handles) (n : Nat) : handleAt t n = handleAt s n := by rw [handleAt, handleAt, h]

theorem mem_handles_of_handleAt {s : State} {h : Nat} {r : Handle} (hr : handleAt s h = some r) : r ∈ s.handles ∧ r.h = h :=
  ⟨List.mem_of_find?_eq_some hr, by simpa using List.find?_some hr⟩

/-- A handle's record once it is DONE. -/
def doneHandle (s : State) (k : Handle) (st : Status) (reason : Nat) (result : List Byte) : Handle :=
  { k with st := 2, status := st, reason := reason, result := result, fin := s.beat, due := false }

theorem finishHandle_of_running {s : State} {h : Nat} {k : Handle} (hmc : s.mcDown = false) (hk : handleAt s h = some k) (st : Status)
    (reason : Nat) (result : List Byte) : finishHandle s h st reason result =
      eventAll (setHandle s (doneHandle s k st reason result)) (fun y => y.id == k.ses) 1 (Handle.bytes (doneHandle s k st reason result)) := by
  simp only [finishHandle, hk, hmc]
  exact if_neg (by decide)

/-- While the MC runs, a handle in the table becomes DONE with its status, reason and result, and stays its session's. -/
theorem done_finishHandle {s : State} {h : Nat} {k : Handle} (hmc : s.mcDown = false) (hk : handleAt s h = some k) (st : Status) (reason : Nat)
    (result : List Byte) : ∃ r ∈ (finishHandle s h st reason result).handles,
      r.h = h ∧ r.st = 2 ∧ r.status = st ∧ r.reason = reason ∧ r.result = result ∧ r.ses = k.ses := by
  obtain ⟨hmem, hh⟩ := mem_handles_of_handleAt hk
  have hsent : (finishHandle s h st reason result).handles = (setHandle s (doneHandle s k st reason result)).handles := by
    rw [finishHandle_of_running hmc hk]
    exact (touches_eventAll ..).same .handles (by decide)
  rw [hsent]
  exact ⟨doneHandle s k st reason result, List.mem_map.2 ⟨k, hmem, if_pos (beq_self_eq_true k.h)⟩, hh, rfl, rfl, rfl, rfl, rfl⟩

theorem HandleDone.of_handles {s t : State} {h reason : Nat} {st : Status} {result : List Byte} (hd : HandleDone s h st reason result)
    (he : t.handles = s.handles) : HandleDone t h st reason result := by
  rw [HandleDone, he]
  exact hd

/-- A handle that waits is DONE once it is completed. -/
theorem handleDone_finishHandle {s : State} {h : Nat} (hw : HandleWaits s h) (st : Status) (reason : Nat) (result : List Byte) :
    HandleDone (finishHandle s h st reason result) h st reason result := by
  obtain ⟨hmc, hsome⟩ := hw
  obtain ⟨k, hk⟩ := Option.isSome_iff_exists.1 hsome
  obtain ⟨r, hr, hh, hst, hstatus, hreason, hresult, -⟩ := done_finishHandle hmc hk st reason result
  exact ⟨r, hr, hh, hst, hstatus, hreason, hresult⟩

/-- A handle waits as long as neither the table nor the MC changes. -/
theorem HandleWaits.of_touches {l : List Field} {s t : State} {h : Nat} (hw : HandleWaits s h) (ht : Touches l s t) (hh : Field.handles ∉ l)
    (hm : Field.mcDown ∉ l) : HandleWaits t h :=
  ⟨(ht.same .mcDown hm).trans hw.1, by rw [handleAt_congr (ht.same .handles hh)]; exact hw.2⟩

/-! ### An accepted INVOKE goes through (R16, R17, R610) -/

section Invoking

variable {s : State} {i : Instr} {ses idx sub ty : Nat} {x : Session} {more : List Field} {P : State → Nat → Prop}
  {st : State → Session → Status} {eff : State → Session → Nat → State}

/-- An INVOKE in an open session whose status is OK issues its handle, takes effect and is answered, if its effect spares what the response
reads and leaves the handle in the table. -/
theorem invokeTakes_of_invoking (ho : OpenSession s ses 3 x)
    (hexec : exec i s = Machine.done s (invoking s ses idx sub ty false st eff)) (hst : st (admitted s ses) x = .ok)
    (hf : let w := (issue (admitted s ses) ty ses false).2
      Touches (more ++ [.handles, .handleSeq, .regs, .faultq]) w (eff w x (ty * 2 ^ 24 + s.handleSeq)))
    (hm : more.all (fun f => decide (f ≠ .pending ∧ f ≠ .variant ∧ f ≠ .heads)) = true)
    (hen : let w := (issue (admitted s ses) ty ses false).2
      rg (eff w x (ty * 2 ^ 24 + s.handleSeq)) 0x1000 8 = rg w 0x1000 8)
    (hh : ∃ r ∈ (eff (issue (admitted s ses) ty ses false).2 x (ty * 2 ^ 24 + s.handleSeq)).handles,
      r.h = ty * 2 ^ 24 + s.handleSeq ∧ ((∀ k ∈ s.handles, k.h ≠ ty * 2 ^ 24 + s.handleSeq) → r.ses = ses))
    (hP : ∀ t, Touches replyFields (eff (issue (admitted s ses) ty ses false).2 x (ty * 2 ^ 24 + s.handleSeq)) t →
      P t (ty * 2 ^ 24 + s.handleSeq)) : InvokeTakes s i ses idx sub ty more P := by
  have hseq : (admitted s ses).handleSeq = s.handleSeq := (touches_admitted s ses).same .handleSeq (by decide)
  have hrun : invoking s ses idx sub ty false st eff = answerIn (eff (issue (admitted s ses) ty ses false).2 x (ty * 2 ^ 24 + s.handleSeq))
      x 3 idx sub .ok (leBytes 4 (ty * 2 ^ 24 + s.handleSeq)) := by
    rw [invoking, inSes_of_open ho, hst, if_pos rfl, ← hseq]
    rfl
  have hien : rg (issue (admitted s ses) ty ses false).2 0x1000 8 = rg s 0x1000 8 :=
    (rg_issue _ _ _ _ (by decide) (by decide) (by decide)).trans (rg_admitted ..)
  have hsi : Touches [.lockLeft, .asks, .handles, .handleSeq, .regs, .faultq] s (issue (admitted s ses) ty ses false).2 :=
    ((touches_admitted s ses).mono rfl).trans ((touches_issue ..).mono rfl)
  have hsr : Touches (more ++ [.handles, .handleSeq, .regs, .faultq] ++ replyFields) s (issue (admitted s ses) ty ses false).2 :=
    (((touches_admitted s ses).mono (l' := replyFields) rfl).subset (List.subset_append_right ..)).trans
      (((touches_issue ..).subset (List.subset_append_right ..)).subset (List.subset_append_left ..))
  dsimp only at hf hen
  generalize (issue (admitted s ses) ty ses false).2 = w0 at *
  generalize eff w0 x (ty * 2 ^ 24 + s.handleSeq) = w at *
  have hwr := touches_answerIn w x 3 idx sub .ok (leBytes 4 (ty * 2 ^ 24 + s.handleSeq))
  have hspared : ∀ f, f = .pending ∨ f = .variant ∨ f = .heads → f ∉ more ++ [Field.handles, .handleSeq, .regs, .faultq] := by
    intro f h hmem
    obtain hmem | hmem := List.mem_append.1 hmem
    · obtain ⟨h1, h2, h3⟩ : f ≠ .pending ∧ f ≠ .variant ∧ f ≠ .heads := by simpa using List.all_eq_true.1 hm f hmem
      tauto
    · obtain rfl | rfl | rfl := h <;> exact absurd hmem (by decide)
  have hpend : w.pending = s.pending := (hf.same .pending (hspared _ (by tauto))).trans (hsi.same .pending (by decide))
  have hvar : w.variant = s.variant := (hf.same .variant (hspared _ (by tauto))).trans (hsi.same .variant (by decide))
  have hheads : w.heads = s.heads := (hf.same .heads (hspared _ (by tauto))).trans (hsi.same .heads (by decide))
  obtain ⟨t, ht, hrt⟩ := done_next ho.powered ((hwr.same .pending (by decide)).trans hpend) ((hwr.same .variant (by decide)).trans hvar)
  have hwt : Touches replyFields w t := (hwr.mono rfl).trans (hrt.mono rfl)
  have hhandles : t.handles = w.handles := hwt.same .handles (by decide)
  refine ⟨t, by rw [hexec, hrun, ht], ?_, by rw [hhandles]; exact hh, ?_, hP t hwt⟩
  · have hmem := mem_out_answerIn w x 3 idx sub .ok (leBytes 4 (ty * 2 ^ 24 + s.handleSeq))
    rw [ho.id_eq, response_congr hheads (hen.trans hien)] at hmem
    have hout : t.out = _ := hrt.same .out (by decide)
    rwa [hout]
  · exact hsr.trans ((hf.subset (List.subset_append_left ..)).trans (hwt.subset (List.subset_append_right ..)))

end Invoking

end Sys2Proof
end

section
/-! SUPPORT. PLAN_LOAD and PLAN_RESET as they are asked for (O49). -/

namespace Sys2Proof

open Machine

/-! ### PLAN_LOAD (R179, R548, R610) -/

/-- A load of a partition that is being maintained or cleaned completes BUSY. -/
theorem planLoad_of_busy {s : State} {p : Nat} (h : 1 ≤ partState s p ∧ partState s p ≤ 3) (n : Nat) (arg : List Byte) :
    planLoad s p n arg = finishHandle s n .busy 0 [] := if_pos (by omega)

/-- A load while a plan is LOADING or RUNNING completes STATE. -/
theorem planLoad_of_running {s : State} {p : Nat} (h : ¬(1 ≤ partState s p ∧ partState s p ≤ 3)) (hr : planState s p = 1 ∨ planState s p = 3)
    (n : Nat) (arg : List Byte) : planLoad s p n arg = finishHandle s n .state 0 [] := by
  rw [planLoad, if_neg (by omega), if_pos hr]

/-- What a load waits with. -/
def loadAsked (s : State) (p n : Nat) (arg : List Byte) : LoadReq :=
  { handle := n, addr := leAt arg 0 8, len := leAt arg 8 8, prev := planState s p }

/-- Otherwise the plan is LOADING and the partition is in use. -/
theorem planLoad_of_free {s : State} {p : Nat} (h : ¬(1 ≤ partState s p ∧ partState s p ≤ 3)) (h1 : planState s p ≠ 1) (h3 : planState s p ≠ 3)
    (n : Nat) (arg : List Byte) : planLoad s p n arg = setPlanState (setPart (wr s (0x6040 + p) 2 1) p
      { Machine.partAt s p with loading := some (loadAsked s p n arg) }) p 1 := by
  rw [planLoad, if_neg (by omega), if_neg (by omega)]
  rfl

theorem touches_planLoad (s : State) (p n : Nat) (arg : List Byte) :
    Touches (.parts :: .regs :: .handles :: eventFields) s (planLoad s p n arg) :=
  .ite ((touches_finishHandle ..).mono rfl) (.ite ((touches_finishHandle ..).mono rfl)
    (((touches_wr ..).mono rfl).trans (((touches_setPart ..).mono rfl).trans ((touches_wr ..).mono rfl))))

/-- A load changes no entry but the partition's state and use. -/
theorem rg_planLoad (s : State) (p n : Nat) (arg : List Byte) {i j : Nat} (hj : j < 256) (h : i < 0x2120) :
    rg (planLoad s p n arg) i j = rg s i j := by
  have hfin : ∀ st, rg (finishHandle s n st 0 []) i j = rg s i j := fun st =>
    (touches_finishHandle ..).rg_eq (by decide) (by decide) i j
  unfold planLoad
  split
  · exact hfin .busy
  · split
    · exact hfin .state
    · refine (rg_wr_other _ _ _ _ _ _ (rkey_ne_of_idx hj (by decide) (by omega))).trans ?_
      exact rg_wr_other _ _ _ _ _ _ (rkey_ne_of_idx hj (by decide) (by omega))

/-- A load leaves in the table every handle whose number is the load's, under its session. -/
theorem handle_planLoad {s : State} {p n : Nat} {k : Handle} (hmc : s.mcDown = false) (hk : handleAt s n = some k) (arg : List Byte) :
    ∃ r ∈ (planLoad s p n arg).handles, r.h = n ∧ r.ses = k.ses := by
  have hfin : ∀ st, ∃ r ∈ (finishHandle s n st 0 []).handles, r.h = n ∧ r.ses = k.ses := fun st => by
    obtain ⟨r, hr, hh, -, -, -, -, hses⟩ := done_finishHandle hmc hk st 0 []
    exact ⟨r, hr, hh, hses⟩
  unfold planLoad
  split
  · exact hfin .busy
  · split
    · exact hfin .state
    · obtain ⟨hmem, hh⟩ := mem_handles_of_handleAt hk
      exact ⟨k, hmem, hh, rfl⟩

/-- What the next state of a PLAN_LOAD holds, by the partition's state and the plan's. -/
theorem planLoaded_planLoad {s : State} {p n : Nat} (arg : List Byte) (hw : HandleWaits s n) :
    let t := planLoad s p n arg
    ((1 ≤ partState s p ∧ partState s p ≤ 3) → HandleDone t n .busy 0 [] ∧ planState t p = planState s p ∧
      Machine.partAt t p = Machine.partAt s p) ∧
    (¬(1 ≤ partState s p ∧ partState s p ≤ 3) → planState s p = 1 ∨ planState s p = 3 →
      HandleDone t n .state 0 [] ∧ planState t p = planState s p ∧ Machine.partAt t p = Machine.partAt s p) ∧
    (¬(1 ≤ partState s p ∧ partState s p ≤ 3) → planState s p ≠ 1 → planState s p ≠ 3 →
      planState t p = 1 ∧ rg t (0x6040 + p) 2 = 1 ∧ OtherParts p s t ∧
      Machine.partAt t p = { Machine.partAt s p with loading := some (loadAsked s p n arg) }) := by
  have hfin : ∀ st, HandleDone (finishHandle s n st 0 []) n st 0 [] ∧ planState (finishHandle s n st 0 []) p = planState s p ∧
      Machine.partAt (finishHandle s n st 0 []) p = Machine.partAt s p := fun st =>
    ⟨handleDone_finishHandle hw st 0 [], (touches_finishHandle ..).rg_eq (by decide) (by decide) _ _,
      (touches_finishHandle ..).partAt_eq (by decide) p⟩
  refine ⟨fun hb => ?_, fun hb hr => ?_, fun hb h1 h3 => ?_⟩
  · rw [planLoad_of_busy hb]
    exact hfin .busy
  · rw [planLoad_of_running hb hr]
    exact hfin .state
  · rw [planLoad_of_free hb h1 h3]
    refine ⟨rg_wr_same .., ?_, fun q hq => ?_, ?_⟩
    · exact (rg_wr_other _ _ _ _ _ _ (rkey_ne_of_sub (by decide) (by decide) (by decide))).trans (rg_wr_same ..)
    · exact ((touches_wr ..).partAt_eq (by decide) q).trans (partAt_setPart_other _ _ _ _ hq)
    · exact ((touches_wr ..).partAt_eq (by decide) p).trans (partAt_setPart ..)

/-- PLAN_LOAD in an open session whose status is OK. -/
theorem invokeTakes_planLoad {s : State} {p ses : Nat} {x : Session} {arg : List Byte} (hp : p < 4) (ho : OpenSession s ses 3 x)
    (hst : invStatus s x (0x2120 + p) 2 arg 16 false (leAt arg 0 8 % 4096 != 0) false = .ok) :
    InvokeTakes s (.planLoad ses p arg) ses (0x2120 + p) 2 1 (.parts :: eventFields) (fun t h =>
      ((1 ≤ partState s p ∧ partState s p ≤ 3) → HandleDone t h .busy 0 [] ∧ planState t p = planState s p ∧
        Machine.partAt t p = Machine.partAt s p) ∧
      (¬(1 ≤ partState s p ∧ partState s p ≤ 3) → planState s p = 1 ∨ planState s p = 3 →
        HandleDone t h .state 0 [] ∧ planState t p = planState s p ∧ Machine.partAt t p = Machine.partAt s p) ∧
      (¬(1 ≤ partState s p ∧ partState s p ≤ 3) → planState s p ≠ 1 → planState s p ≠ 3 →
        planState t p = 1 ∧ rg t (0x6040 + p) 2 = 1 ∧ OtherParts p s t ∧
        Machine.partAt t p = { Machine.partAt s p with loading := some (loadAsked s p h arg) })) := by
  obtain ⟨a, m, hadm⟩ := admitted_eq s ses
  have hsa := touches_admitted s ses
  have hai := touches_issue (admitted s ses) 1 ses false
  have hrg : ∀ {i j}, j < 256 → i ≠ 0x8000 → i ≠ 0x7000 → rg (issue (admitted s ses) 1 ses false).2 i j = rg s i j := fun hj h8 h7 =>
    (rg_issue _ _ _ _ hj h8 h7).trans (rg_admitted ..)
  have hps : partState (issue (admitted s ses) 1 ses false).2 p = partState s p := hrg (by decide) (by omega) (by omega)
  have hplan : planState (issue (admitted s ses) 1 ses false).2 p = planState s p := hrg (by decide) (by omega) (by omega)
  have hpart : ∀ q, Machine.partAt (issue (admitted s ses) 1 ses false).2 q = Machine.partAt s q := fun q =>
    (hai.partAt_eq (by decide) q).trans (hsa.partAt_eq (by decide) q)
  have hmc : (issue (admitted s ses) 1 ses false).2.mcDown = false :=
    (hai.same .mcDown (by decide)).trans ((hsa.same .mcDown (by decide)).trans ho.1.2.1)
  obtain ⟨k, hk, hses⟩ := handleAt_issue (admitted s ses) 1 ses false
  have hseq : (admitted s ses).handleSeq = s.handleSeq := hsa.same .handleSeq (by decide)
  have hhs : (admitted s ses).handles = s.handles := hsa.same .handles (by decide)
  rw [hseq] at hk hses
  rw [hhs] at hses
  refine invokeTakes_of_invoking (st := fun s x => invStatus s x (0x2120 + p) 2 arg 16 false (leAt arg 0 8 % 4096 != 0) false)
    (eff := fun s _ h => planLoad s p h arg) ho rfl (by rw [hadm]; exact hst) ((touches_planLoad ..).mono rfl) (by decide)
    (rg_planLoad _ _ _ _ (by decide) (by decide)) ?_ fun t ht => ?_
  · obtain ⟨r, hr, hh, hs⟩ := handle_planLoad (p := p) hmc hk arg
    exact ⟨r, hr, hh, fun hno => hs.trans (hses hno)⟩
  · obtain ⟨hbusy, hstate, hload⟩ := planLoaded_planLoad (p := p) arg ⟨hmc, by rw [hk]; rfl⟩
    have hrt : ∀ i j, rg t i j = _ := fun i j => ht.rg_eq (by decide) (by decide) i j
    have hpt : ∀ q, Machine.partAt t q = _ := fun q => ht.partAt_eq (by decide) q
    have hht : t.handles = _ := ht.same .handles (by decide)
    have hasked : loadAsked (issue (admitted s ses) 1 ses false).2 p (1 * 2 ^ 24 + s.handleSeq) arg =
        loadAsked s p (1 * 2 ^ 24 + s.handleSeq) arg := by rw [loadAsked, hplan, loadAsked]
    rw [hps, hplan, hpart] at hbusy hstate hload
    rw [hasked] at hload
    refine ⟨fun hb => ?_, fun hb hr => ?_, fun hb h1 h3 => ?_⟩
    · obtain ⟨hd, hs', hq⟩ := hbusy hb
      exact ⟨hd.of_handles hht, (hrt _ _).trans hs', (hpt p).trans hq⟩
    · obtain ⟨hd, hs', hq⟩ := hstate hb hr
      exact ⟨hd.of_handles hht, (hrt _ _).trans hs', (hpt p).trans hq⟩
    · obtain ⟨hs', huse, hother, hq⟩ := hload hb h1 h3
      exact ⟨(hrt _ _).trans hs', (hrt _ _).trans huse, fun q hne => (hpt q).trans ((hother q hne).trans (hpart q)), (hpt p).trans hq⟩

/-! ### PLAN_RESET (R635) -/

/-- PLAN_RESET in an open session whose status is OK: the reset waits. -/
theorem setTakes_planReset {s : State} {p ses : Nat} {x : Session} {val : List Byte} (ho : OpenSession s ses 2 x)
    (hst : setStatus s x (0x7010 + p) 1 val (planState s p != 4 && planState s p != 5) false false (Machine.partAt s p).resetting = .ok) :
    SetTakes s (.planReset ses p val) ses (0x7010 + p) 1 [.parts] (fun t => Machine.partAt t p = { Machine.partAt s p with resetting := true } ∧
      OtherParts p s t) := by
  obtain ⟨a, m, hadm⟩ := admitted_eq s ses
  have hpart : ∀ q, Machine.partAt (admitted s ses) q = Machine.partAt s q := (touches_admitted s ses).partAt_eq (by decide)
  refine setTakes_of_setting (eff := fun s _ => setPart s p { Machine.partAt s p with resetting := true }) ho rfl (by rw [hadm]; exact hst)
    (touches_setPart ..) (by decide) (rg_setPart ..) fun t ht => ⟨?_, fun q hq => ?_⟩
  · rw [ht.partAt_eq (by decide), partAt_setPart, hpart]
  · rw [ht.partAt_eq (by decide), partAt_setPart_other _ _ _ _ hq, hpart]

end Sys2Proof
end

section
/-! SUPPORT. What placing, saving and restoring a plan's memories leaves unchanged, and the errors met as an image is read (O49). -/

namespace Sys2Proof

open Machine

/-! ### Cores replaced by an idempotent rule -/

/-- Every core of the partition is replaced, and being replaced again changes nothing. -/
theorem coreAt_mapCores_of_mem {s : State} {p u : Nat} {f : Nat → CoreSt → CoreSt} (hf : ∀ x, f u (f u x) = f u x) (hu : u ∈ partCores s p) :
    coreAt (mapCores s p f) u = f u (coreAt s u) := by
  have hsame : ∀ t, coreAt (mapCore f t u) u = f u (coreAt t u) := by
    intro t
    unfold mapCore
    cases hk : kget t.cores u with
    | some x => simp [coreAt, kget_cores_setCore, hk]
    | none =>
      have hempty : coreAt t u = {} := by rw [coreAt, hk]; rfl
      rw [hempty]
      dsimp only
      split
      next he => rw [hempty, he]
      next => rw [coreAt, kget_cores_setCore, if_pos rfl]; rfl
  have hother : ∀ t v, u ≠ v → coreAt (mapCore f t v) u = coreAt t u := fun t v hv => by rw [coreAt, kget_cores_mapCore_other hv, coreAt]
  rw [mapCores_eq]
  refine foldl_reaches (Q := fun t => coreAt t u = coreAt s u ∨ coreAt t u = f u (coreAt s u))
    (P := fun t => coreAt t u = f u (coreAt s u)) hu (fun t v ht => ?_) (fun t ht => ?_) (fun t v ht => ?_) (.inl rfl)
  · by_cases hv : u = v
    · subst hv
      obtain ht | ht := ht <;> simp [hsame, ht, hf]
    · rwa [hother t v hv]
  · obtain ht | ht := ht <;> simp [hsame, ht, hf]
  · by_cases hv : u = v
    · subst hv
      rw [hsame, ht, hf]
    · rw [hother t v hv, ht]

/-! ### Only the byte memories -/

theorem touches_memSet (s : State) (m : List Host.Cell) : Touches [.mem] s { s with mem := m } := by
  refine ⟨fun f hf => ?_⟩
  cases f
  case mem => simp at hf
  all_goals rfl

theorem touches_mcopy (s : State) (src dst n : Nat) : Touches [.mem, .ecc] s (mcopy s src dst n) :=
  (touches_mzero ..).trans (.foldl _ (fun t _ => (touches_memSet t _).mono rfl) _ _)

theorem touches_zeroOnChip (s : State) (p : Nat) : Touches [.mem, .ecc] s (zeroOnChip s p) :=
  .foldl _ (fun _ _ => (touches_mzero ..).trans ((touches_mzero ..).trans ((touches_mzero ..).trans ((touches_mzero ..).trans
    (touches_mzero ..))))) _ _

theorem touches_saveRestore (s : State) (p : Nat) : Touches [.mem, .ecc] s (saveRestore s p) :=
  .foldl _ (fun _ _ => .foldl _ (fun _ _ => touches_mcopy ..) _ _) _ _

theorem touches_loadRestore (s : State) (p : Nat) : Touches [.mem, .ecc] s (loadRestore s p) :=
  .foldl _ (fun _ _ => .foldl _ (fun _ _ => touches_mcopy ..) _ _) _ _

theorem touches_placeAll (s : State) (p : Nat) (img : List Byte) (dm hb : List Nat) : Touches [.mem, .ecc] s (placeAll s p img dm hb) := by
  have hput : ∀ (t : State) (l : List PRec), Touches [.mem, .ecc] t (l.foldl (fun t r => poke t (r.dest dm) r.data) t) := fun t l =>
    .foldl _ (fun _ _ => touches_poke ..) _ _
  unfold placeAll
  dsimp only
  refine Touches.trans ?_ (.foldl _ (fun _ _ => .ite (touches_poke ..) (touches_mzero ..)) _ _)
  refine Touches.trans (Touches.trans ?_ (hput _ _)) (hput _ _)
  exact (touches_zeroOnChip s p).trans (.foldl _ (fun _ _ => touches_poke ..) _ _)

/-! ### The entries that return to their defaults at plan load (R79) -/

theorem touches_resetEntries (s : State) (test : Nat → Entry → Bool) : Touches [.regs, .blobs, .rems] s (resetEntries s test) := by
  refine ⟨fun f hf => ?_⟩
  cases f
  case regs | blobs | rems => simp at hf
  all_goals rfl

theorem touches_remsSet (s : State) (r : KMap Nat) : Touches [.rems] s { s with rems := r } := by
  refine ⟨fun f hf => ?_⟩
  cases f
  case rems => simp at hf
  all_goals rfl

theorem touches_loadDefaults (s : State) (p : Nat) : Touches [.regs, .blobs, .rems] s (loadDefaults s p) :=
  (touches_resetEntries ..).trans (((touches_remsSet ..).mono rfl).trans (.foldl _ (fun _ _ => (touches_wr ..).mono rfl) _ _))

/-- An entry that a test spares keeps its value. -/
theorem kget_resetEntries {s : State} {test : Nat → Entry → Bool} {i j : Nat} {e : Entry} (hj : j < 256) (he : entry? i j = some e)
    (ht : test i e = false) : kget (resetEntries s test).regs (rkey i j) = kget s.regs (rkey i j) := by
  have hdiv : rkey i j / 256 = i := by unfold rkey; omega
  have hmod : rkey i j % 256 = j := by unfold rkey; omega
  refine (kget_filter s.regs (fun k => match entry? (k / 256) (k % 256) with
    | some e => !test (k / 256) e
    | none => true) (rkey i j)).trans ?_
  simp only [hdiv, hmod, he, ht]
  rfl

/-- The division into partitions is no default of a plan. -/
theorem rg_loadDefaults_division (s : State) (p : Nat) : rg (loadDefaults s p) 0x6000 3 = rg s 0x6000 3 := by
  have hent : ∃ e, entry? 0x6000 3 = some e ∧ e.load = false := ⟨_, rfl, rfl⟩
  obtain ⟨e, he, hload⟩ := hent
  have hreset : kget (resetEntries s (fun idx e => e.load && entryOf s p idx)).regs (rkey 0x6000 3) = kget s.regs (rkey 0x6000 3) :=
    kget_resetEntries (by decide) he (by rw [hload, Bool.false_and])
  refine rg_eq_of_regsKept (RegsKept.trans (t := resetEntries s (fun idx e => e.load && entryOf s p idx)) (fun k hk => ?_)
    (RegsKept.trans (.of_eq rfl) (.foldl (fun t d => regsKept_wr _ _ _ _ ?_) _ _))) ((touches_loadDefaults s p).same .variant (by decide))
  · obtain rfl : k = rkey 0x6000 3 := by simpa using hk
    exact hreset
  · exact bne_iff_ne.2 (rkey_ne_of_sub (by decide) (by decide) (by decide))

/-! ### The errors of an image as it is read (R331, R332) -/

/-- The dies of a partition are those from its own number on. -/
theorem length_partDies {s : State} {p : Nat} (hp : p < 4) : p + (partDies s p).length ≤ 4 := by
  have hsub : partDies s p ⊆ List.range' p (4 - p) := by
    intro d hd
    obtain ⟨hlt, hlow⟩ := List.mem_filter.1 hd
    have hdies : dies s.variant ≤ 4 := by cases s.variant <;> decide
    have hlt := List.mem_range.1 hlt
    have hle := partLow_le s d
    have hlow : partLow s d = p := by simpa using hlow
    rw [List.mem_range'_1]
    omega
  have hnodup : (partDies s p).Nodup := List.Nodup.filter _ List.nodup_range
  have hlen := (hnodup.subperm hsub).length_le
  rw [List.length_range'] at hlen
  omega

/-- An HBM address of one of the four dies. -/
theorem spaceAt_hbm {a : Nat} (h : a < 4 * dieHbm) : spaceAt a = 3 ∧ dieAt a < 4 := by
  have hcm : 4 * dieHbm ≤ cmBase := by decide
  have hspace : spaceAt a = 3 := if_pos (by omega)
  refine ⟨hspace, ?_⟩
  rw [dieAt, hspace]
  exact Nat.div_lt_of_lt_mul (by rw [Nat.mul_comm]; exact h)

/-- An error met while a staged image is read lies in the partition's HBM. -/
theorem lt_of_mem_eccIn_stage {s : State} {p : Nat} {r : LoadReq} {e : Nat × Nat} (hp : p < 4) (hs : stageInside s p r = true)
    (he : e ∈ eccIn s r.addr r.len) : e.1 < 4 * dieHbm := by
  have hword : ∀ a, eccWord a ≤ a := fun a => by unfold eccWord; split <;> omega
  have hdie := length_partDies (s := s) hp
  obtain ⟨-, hend⟩ : _ ∧ _ := by simpa [stageInside] using hs
  unfold eccIn at he
  split at he
  next => simp at he
  next hlen =>
    have hle : e.1 ≤ eccWord (r.addr + r.len - 1) := (of_decide_eq_true (List.mem_filter.1 he).2).2
    have hceil : r.len ≤ ceilDiv r.len 4096 * 4096 := by unfold ceilDiv; omega
    have htop : (p + (partDies s p).length) * dieHbm ≤ 4 * dieHbm := Nat.mul_le_mul_right _ hdie
    have := hword (r.addr + r.len - 1)
    omega

/-- Reading a staged image has changed only counts of errors and of records. -/
structure StageRead (s t : State) : Prop where
  touches : Touches [.capSeen, .faultq, .regs, .blobs] s t
  regs : RegsKept countKey s t
  blobs : BlobsKept countKey s t

theorem StageRead.refl {s : State} : StageRead s s := ⟨.refl, .refl, fun _ _ => rfl⟩

theorem StageRead.trans {s t r : State} (h : StageRead s t) (g : StageRead t r) : StageRead s r :=
  ⟨h.touches.trans g.touches, h.regs.trans g.regs, fun k hk => (g.blobs k hk).trans (h.blobs k hk)⟩

theorem touches_capSeen (s : State) (l : List (Nat × Nat)) : Touches [.capSeen] s { s with capSeen := l } := by
  refine ⟨fun f hf => ?_⟩
  cases f
  case capSeen => simp at hf
  all_goals rfl

/-- A record that is no plan fault only joins the records. -/
theorem stageRead_capture {s : State} {r : LogRec} (h : r.cls ≠ 2) : StageRead s (capture s r) := by
  have hnote : notePlanFault s r = s := if_neg fun hc => h hc.1
  have ht : Touches [.capSeen, .faultq, .regs, .blobs] s (capture s r) := by
    unfold capture
    simp only [hnote]
    exact .ite (((touches_capSeen ..).mono rfl).trans ((touches_pushRec ..).mono rfl)) ((touches_noteDropped ..).mono rfl)
  refine ⟨ht, regsKept_capture _ _ rfl rfl, fun k _ => ?_⟩
  have hb : (capture s r).blobs = s.blobs := (touches_capture s r).same .blobs (by decide)
  rw [hb]

/-- Adding to an element of a table writes that table alone. -/
theorem blobsKept_bumpTab {m : Nat → Bool} (s : State) (i j k oj b n : Nat) (h : m (rkey i j) = true) :
    BlobsKept m s (bumpTab s i j k oj b n) := by
  have hset : ∀ v, BlobsKept m s (wtab s i j 8 k v) := fun v q hq => kget_kset_other _ _ _ _ fun he => by
    rw [he, h] at hq
    exact Bool.noConfusion hq
  have hb : ∀ t r, (pushSat t r).blobs = t.blobs := fun t r => (touches_pushSat t r).same .blobs (by decide)
  unfold bumpTab
  dsimp only
  split
  · exact fun _ _ => rfl
  · split
    · exact hset _
    · intro q hq
      rw [hb]
      exact hset _ q hq

/-- The entries that count errors of one of the four dies are counts. -/
theorem countKey_errorUnit {d i j : Nat} (hd : d < 4) (hi : i ∈ [0x4010, 0x7840, 0x7848]) (hj : j < 256) :
    countKey (rkey (i + d) j) = true := by
  have hdiv : rkey (i + d) j / 256 = i + d := by unfold rkey; omega
  simp only [List.mem_cons, List.not_mem_nil, or_false] at hi
  simp only [countKey, hdiv, Bool.or_eq_true, decide_eq_true_eq, beq_iff_eq]
  omega

/-- The reset's time is no count. -/
theorem not_countKey_reset {p : Nat} (hp : p < 4) : countKey (rkey (0x7010 + p) 5) = false := by
  have hdiv : rkey (0x7010 + p) 5 / 256 = 0x7010 + p := by unfold rkey; omega
  rw [Bool.eq_false_iff, ne_eq]
  simp only [countKey, hdiv, Bool.or_eq_true, decide_eq_true_eq, beq_iff_eq]
  omega

theorem stageRead_bumpCorr {s : State} {a : Nat} (hs : spaceAt a = 3) (hd : dieAt a < 4) : StageRead s (bumpCorr s a) := by
  refine ⟨(touches_bumpCorr ..).mono rfl, regsKept_bumpCorr _ _ (fun _ hi _ hj => countKey_errorUnit hd hi hj) rfl rfl, fun k hk => ?_⟩
  have hb : (bump s (0x4010 + dieAt a) 5 12 4 1).blobs = s.blobs := (touches_bump ..).same .blobs (by decide)
  rw [bumpCorr, hs]
  exact (blobsKept_bumpTab _ _ _ _ _ _ _ (countKey_errorUnit hd (by simp) (by decide)) k hk).trans (by rw [hb])

theorem stageRead_bareErrors {s : State} {p : Nat} {r : LoadReq} (hp : p < 4) (hs : stageInside s p r = true) :
    StageRead s (bareErrors s r.addr r.len) := by
  refine List.foldlRecOn (motive := StageRead s) _ _ .refl fun t ht e he => ht.trans ?_
  obtain ⟨hspace, hdie⟩ := spaceAt_hbm (lt_of_mem_eccIn_stage hp hs he)
  split
  · rw [hspace]
    exact stageRead_capture (show 0x0302 / 256 ≠ 2 by decide)
  · exact stageRead_bumpCorr hspace hdie

end Sys2Proof
end

section
/-! SUPPORT. The end of a load (O49). -/

namespace Sys2Proof

open Machine

/-! ### Reading past the errors of an image -/

theorem StageRead.rg_eq {s t : State} (h : StageRead s t) {i j : Nat} (hk : countKey (rkey i j) = false) : rg t i j = rg s i j :=
  h.regs.rg (h.touches.same .variant (by decide)) i j hk

/-- PLAN_BIND is no count. -/
theorem StageRead.bindOf_eq {s t : State} {p : Nat} (hp : p < 4) (h : StageRead s t) : bindOf t p = bindOf s p := by
  have hkept : kget t.blobs (rkey (0x2120 + p) 3) = kget s.blobs (rkey (0x2120 + p) 3) := h.blobs _ (not_countKey_plan hp (by decide))
  have hvar : t.variant = s.variant := h.touches.same .variant (by decide)
  have hcomp : rg t 0x3400 1 = rg s 0x3400 1 := h.rg_eq rfl
  rw [bindOf, bindOf, rb, rb, hkept, hvar, ownComp, ownComp, hcomp]

/-! ### The state from which a load ends -/

/-- The load is no more in progress, and the plan is what it was before the load. -/
def loadEnded (s : State) (p : Nat) (r : LoadReq) : State :=
  setPlanState (setPart s p { Machine.partAt s p with loading := none }) p r.prev

theorem touches_loadEnded (s : State) (p : Nat) (r : LoadReq) : Touches [.regs, .parts] s (loadEnded s p r) :=
  ((touches_setPart ..).mono rfl).trans ((touches_wr ..).mono rfl)

theorem planState_loadEnded (s : State) (p : Nat) (r : LoadReq) : planState (loadEnded s p r) p = r.prev := rg_wr_same ..

theorem partAt_loadEnded (s : State) (p : Nat) (r : LoadReq) :
    Machine.partAt (loadEnded s p r) p = { Machine.partAt s p with loading := none } :=
  ((touches_wr ..).partAt_eq (by decide) p).trans (partAt_setPart ..)

theorem partAt_loadEnded_other {s : State} {p q : Nat} (r : LoadReq) (h : q ≠ p) :
    Machine.partAt (loadEnded s p r) q = Machine.partAt s q :=
  ((touches_wr ..).partAt_eq (by decide) q).trans (partAt_setPart_other _ _ _ _ h)

/-- The image's errors are met when its range is read at all. -/
def stageMet (s : State) (p : Nat) (r : LoadReq) : State := if stageInside s p r then bareErrors s r.addr r.len else s

theorem stageRead_stageMet {s : State} {p : Nat} (hp : p < 4) (r : LoadReq) : StageRead s (stageMet s p r) := by
  unfold stageMet
  split
  next h => exact stageRead_bareErrors hp h
  next => exact .refl

theorem planLoadComplete_of_none {s : State} {p : Nat} (h : (Machine.partAt s p).loading = none) : planLoadComplete s p = s := by
  rw [planLoadComplete, h]

/-- A load that fails completes its handle with the status of the first check that it fails. -/
theorem planLoadComplete_of_failed {s : State} {p : Nat} {r : LoadReq} (h : (Machine.partAt s p).loading = some r)
    (hst : (loadStatus (loadEnded s p r) p r (peek s r.addr r.len)).1 ≠ .ok) : planLoadComplete s p =
      finishHandle (stageMet (loadEnded s p r) p r) r.handle (loadStatus (loadEnded s p r) p r (peek s r.addr r.len)).1 0 [] := by
  rw [planLoadComplete, h]
  exact if_neg hst

/-- A load whose checks are met ends with the relocated image in place. -/
theorem planLoadComplete_of_ok {s : State} {p : Nat} {r : LoadReq} (h : (Machine.partAt s p).loading = some r)
    (hst : (loadStatus (loadEnded s p r) p r (peek s r.addr r.len)).1 = .ok) : planLoadComplete s p =
      finishHandle (loadDone (stageMet (loadEnded s p r) p r) p r (peek s r.addr r.len)
        (loadStatus (loadEnded s p r) p r (peek s r.addr r.len)).2) r.handle .ok 0 [] := by
  rw [planLoadComplete, h]
  exact if_pos hst

/-! ### What a successful load leaves (R79, R299, R636) -/

/-- The entries at their defaults, the cores as loaded and the memories placed. -/
def loadPlaced (s : State) (p : Nat) (img : List Byte) : State :=
  placeAll (mapCores (loadDefaults s p) p (fun u _ => loadedCore img (bindDies (bindOf s p) (capDies img)) u)) p img
    (bindDies (bindOf s p) (capDies img)) (bindHbm (bindOf s p))

/-- The plan's entries: its digest, its reserve, no start and LOADED. -/
def planNamed (s : State) (p : Nat) (digest : List Byte) (reserve : Nat) : State :=
  setPlanState (wr (wr (wb s (0x2120 + p) 4 digest) (0x2130 + p) 1 reserve) (0x2120 + p) 5 0) p 2

theorem touches_planNamed (s : State) (p : Nat) (digest : List Byte) (reserve : Nat) :
    Touches [.blobs, .regs] s (planNamed s p digest reserve) :=
  ((touches_wb ..).mono rfl).trans (((touches_wr ..).mono rfl).trans (((touches_wr ..).mono rfl).trans ((touches_wr ..).mono rfl)))

theorem planNamed_entries (s : State) (p : Nat) (digest : List Byte) (reserve : Nat) :
    planState (planNamed s p digest reserve) p = 2 ∧ rg (planNamed s p digest reserve) (0x2120 + p) 5 = 0 ∧
      rb (planNamed s p digest reserve) (0x2120 + p) 4 = digest := by
  have hblobs : (planNamed s p digest reserve).blobs = kset s.blobs (rkey (0x2120 + p) 4) digest := rfl
  refine ⟨rg_wr_same .., ?_, rb_of_kget (by rw [hblobs, kget_kset_same])⟩
  exact (rg_wr_other _ _ _ _ _ _ (rkey_ne_of_sub (by decide) (by decide) (by decide))).trans (rg_wr_same ..)

/-- Then the partition takes the plan, the restore image is written, and the plan's entries follow. -/
theorem loadDone_eq (s : State) (p : Nat) (r : LoadReq) (raw img : List Byte) : ∃ q, loadDone s p r raw img =
      planNamed (saveRestore (setPart (loadPlaced s p img) p q) p) p (sha384 (digestMsg raw)) (imgReserve img) ∧
    q.guarded = true ∧ q.stage = r.addr ∧ q.dieMap = bindDies (bindOf s p) (capDies img) := ⟨_, rfl, rfl, rfl, rfl⟩

theorem touches_loadPlaced (s : State) (p : Nat) (img : List Byte) :
    Touches [.regs, .blobs, .rems, .cores, .mem, .ecc] s (loadPlaced s p img) :=
  ((touches_loadDefaults ..).mono rfl).trans (((touches_mapCores ..).mono rfl).trans ((touches_placeAll ..).mono rfl))

theorem touches_loadDone (s : State) (p : Nat) (r : LoadReq) (raw img : List Byte) :
    Touches [.regs, .blobs, .rems, .cores, .mem, .ecc, .parts] s (loadDone s p r raw img) := by
  obtain ⟨q, hq, -⟩ := loadDone_eq s p r raw img
  rw [hq]
  exact ((touches_loadPlaced s p img).mono rfl).trans (((touches_setPart _ p q).mono rfl).trans (((touches_saveRestore _ p).mono rfl).trans
    ((touches_planNamed ..).mono rfl)))

/-- Loading the defaults keeps which cores a partition has. -/
theorem mem_partCores_loadDefaults {s : State} {p u : Nat} : u ∈ partCores (loadDefaults s p) p ↔ u ∈ partCores s p := by
  have hvar : (loadDefaults s p).variant = s.variant := (touches_loadDefaults s p).same .variant (by decide)
  rw [mem_partCores, mem_partCores, hvar, partOf_congr (rg_loadDefaults_division s p)]

theorem coreAt_loadPlaced {s : State} {p : Nat} (img : List Byte) (u : Nat) : coreAt (loadPlaced s p img) u =
    coreAt (mapCores (loadDefaults s p) p (fun u _ => loadedCore img (bindDies (bindOf s p) (capDies img)) u)) u :=
  (touches_placeAll ..).coreAt_eq (by decide) u

/-- What a successful load leaves in the partition, its plan's entries and its cores. -/
structure Loaded (s : State) (p : Nat) (r : LoadReq) (raw img : List Byte) (t : State) : Prop where
  plan : planState t p = 2
  start : rg t (0x2120 + p) 5 = 0
  digest : rb t (0x2120 + p) 4 = sha384 (digestMsg raw)
  guarded : (Machine.partAt t p).guarded = true
  stage : (Machine.partAt t p).stage = r.addr
  dieMap : (Machine.partAt t p).dieMap = bindDies (bindOf s p) (capDies img)
  cores : ∀ u ∈ partCores s p, coreAt t u = loadedCore img (bindDies (bindOf s p) (capDies img)) u
  others : ∀ u, u ∉ partCores s p → coreAt t u = coreAt s u
  parts : OtherParts p s t

theorem loaded_loadDone (s : State) (p : Nat) (r : LoadReq) (raw img : List Byte) : Loaded s p r raw img (loadDone s p r raw img) := by
  obtain ⟨q, hq, hguard, hstage, hmap⟩ := loadDone_eq s p r raw img
  rw [hq]
  have hlate : Touches [.mem, .ecc, .blobs, .regs] (setPart (loadPlaced s p img) p q) _ :=
    ((touches_saveRestore _ p).mono rfl).trans ((touches_planNamed _ p (sha384 (digestMsg raw)) (imgReserve img)).mono rfl)
  have hpart := hlate.partAt_eq (by decide) p
  rw [partAt_setPart] at hpart
  have hcore : ∀ u, coreAt _ u = coreAt (loadPlaced s p img) u := hlate.coreAt_eq (by decide)
  obtain ⟨hplan, hstart, hdigest⟩ := planNamed_entries (saveRestore (setPart (loadPlaced s p img) p q) p) p (sha384 (digestMsg raw)) (imgReserve img)
  refine ⟨hplan, hstart, hdigest, ?_, ?_, ?_, fun u hu => ?_, fun u hu => ?_, fun k hk => ?_⟩
  · rw [hpart, hguard]
  · rw [hpart, hstage]
  · rw [hpart, hmap]
  · rw [hcore, coreAt_loadPlaced]
    exact coreAt_mapCores_of_mem (fun _ => rfl) (mem_partCores_loadDefaults.2 hu)
  · rw [hcore, coreAt_loadPlaced, coreAt_mapCores_other _ (mt mem_partCores_loadDefaults.1 hu)]
    exact (touches_loadDefaults s p).coreAt_eq (by decide) u
  · rw [hlate.partAt_eq (by decide) k, partAt_setPart_other _ _ _ _ hk]
    exact (touches_loadPlaced s p img).partAt_eq (by decide) k

theorem Loaded.touched {l : List Field} {s t w : State} {p : Nat} {r : LoadReq} {raw img : List Byte} (h : Loaded s p r raw img t)
    (ht : Touches l t w) (hl : l.all (fun f => decide (f ≠ .regs ∧ f ≠ .variant ∧ f ≠ .blobs ∧ f ≠ .parts ∧ f ≠ .cores)) = true) :
    Loaded s p r raw img w := by
  have hnot : ∀ f ∈ l, f ≠ .regs ∧ f ≠ .variant ∧ f ≠ .blobs ∧ f ≠ .parts ∧ f ≠ .cores := fun f hf => by
    simpa using List.all_eq_true.1 hl f hf
  have hvar : Field.variant ∉ l := fun hf => (hnot _ hf).2.1 rfl
  have hregs : Field.regs ∉ l := fun hf => (hnot _ hf).1 rfl
  have hrg : ∀ i j, rg w i j = rg t i j := ht.rg_eq hregs hvar
  have hb : w.blobs = t.blobs := ht.same .blobs fun hf => (hnot _ hf).2.2.1 rfl
  have hv : w.variant = t.variant := ht.same .variant hvar
  have hrb : rb w (0x2120 + p) 4 = rb t (0x2120 + p) 4 := by rw [rb, rb, hb, hv, ownComp, ownComp, hrg]
  have hpart : ∀ q, Machine.partAt w q = Machine.partAt t q := ht.partAt_eq fun hf => (hnot _ hf).2.2.2.1 rfl
  have hcore : ∀ u, coreAt w u = coreAt t u := ht.coreAt_eq fun hf => (hnot _ hf).2.2.2.2 rfl
  exact ⟨(hrg _ _).trans h.plan, (hrg _ _).trans h.start, hrb.trans h.digest, by rw [hpart, h.guarded], by rw [hpart, h.stage],
    by rw [hpart, h.dieMap], fun u hu => (hcore u).trans (h.cores u hu), fun u hu => (hcore u).trans (h.others u hu),
    fun q hq => (hpart q).trans (h.parts q hq)⟩

/-! ### PLAN_LOAD_COMPLETE -/

theorem exec_planLoadComplete_eq (p : Nat) (s : State) : exec (.planLoadComplete p ()) s = onPart s p (planLoadComplete s p) := rfl

/-- The end of a load that fails a check: the plan is as it was before the load, and its handle is DONE with the check's status. -/
theorem planLoadComplete_failed {s : State} {p : Nat} {r : LoadReq} (hp : s.powered = true) (hm : p ∈ partitions s)
    (hr : (Machine.partAt s p).loading = some r) (hst : (loadStatus (loadEnded s p r) p r (peek s r.addr r.len)).1 ≠ .ok) :
    ∃ t, exec (.planLoadComplete p ()) s = .next t ∧ planState t p = r.prev ∧ (Machine.partAt t p).loading = none ∧
      (HandleWaits s r.handle → HandleDone t r.handle (loadStatus (loadEnded s p r) p r (peek s r.addr r.len)).1 0 []) ∧
      Touches ([Field.regs, .blobs, .faultq, .capSeen, .parts, .handles, .alertN] ++ eventFields) s t := by
  have hp4 := partition_lt hm
  have hread := stageRead_stageMet (s := loadEnded s p r) hp4 r
  have hmet : Touches [.regs, .blobs, .faultq, .capSeen, .parts] s (stageMet (loadEnded s p r) p r) :=
    ((touches_loadEnded ..).mono rfl).trans (hread.touches.mono rfl)
  generalize hstatus : (loadStatus (loadEnded s p r) p r (peek s r.addr r.len)).1 = st at hst ⊢
  have hfin := touches_finishHandle (stageMet (loadEnded s p r) p r) r.handle st 0 []
  have hall := (hmet.mono (l' := [Field.regs, .blobs, .faultq, .capSeen, .parts, .handles] ++ eventFields) rfl).trans (hfin.mono rfl)
  obtain ⟨t, ht, hend⟩ := onPart_next hp hm hall rfl
  refine ⟨t, ?_, ?_, ?_, fun hw => ?_, (hall.mono rfl).trans (hend.mono rfl)⟩
  · rw [exec_planLoadComplete_eq, planLoadComplete_of_failed hr (by rw [hstatus]; exact hst), hstatus, ht]
  · rw [planState, hend.rg_eq (by decide) (by decide), hfin.rg_eq (by decide) (by decide),
      hread.rg_eq (not_countKey_plan hp4 (by decide))]
    exact planState_loadEnded s p r
  · rw [hend.partAt_eq (by decide), hfin.partAt_eq (by decide), hread.touches.partAt_eq (by decide), partAt_loadEnded]
  · exact (handleDone_finishHandle (hw.of_touches hmet (by decide) (by decide)) st 0 []).of_handles (hend.same .handles (by decide))

/-- The end of a load whose checks are met. -/
theorem planLoadComplete_ok {s : State} {p : Nat} {r : LoadReq} (hp : s.powered = true) (hm : p ∈ partitions s)
    (hr : (Machine.partAt s p).loading = some r) (hst : (loadStatus (loadEnded s p r) p r (peek s r.addr r.len)).1 = .ok) :
    ∃ t, exec (.planLoadComplete p ()) s = .next t ∧
      Loaded (stageMet (loadEnded s p r) p r) p r (peek s r.addr r.len) (loadStatus (loadEnded s p r) p r (peek s r.addr r.len)).2 t ∧
      (HandleWaits s r.handle → HandleDone t r.handle .ok 0 []) := by
  have hread := stageRead_stageMet (s := loadEnded s p r) (partition_lt hm) r
  have hmet : Touches [.regs, .blobs, .faultq, .capSeen, .parts] s (stageMet (loadEnded s p r) p r) :=
    ((touches_loadEnded ..).mono rfl).trans (hread.touches.mono rfl)
  have hcomp := planLoadComplete_of_ok hr hst
  generalize (loadStatus (loadEnded s p r) p r (peek s r.addr r.len)).2 = img at hcomp ⊢
  generalize stageMet (loadEnded s p r) p r = m at hmet hcomp ⊢
  have hload := touches_loadDone m p r (peek s r.addr r.len) img
  have hdone : Touches [.regs, .blobs, .rems, .cores, .mem, .ecc, .parts, .faultq, .capSeen] s (loadDone m p r (peek s r.addr r.len) img) :=
    (hmet.mono rfl).trans (hload.mono rfl)
  have hfin := touches_finishHandle (loadDone m p r (peek s r.addr r.len) img) r.handle .ok 0 []
  have hall := (hdone.mono (l' := [Field.regs, .blobs, .rems, .cores, .mem, .ecc, .parts, .faultq, .capSeen, .handles] ++ eventFields) rfl).trans
    (hfin.mono rfl)
  obtain ⟨t, ht, hend⟩ := onPart_next hp hm hall rfl
  refine ⟨t, by rw [exec_planLoadComplete_eq, hcomp, ht], ?_, fun hw => ?_⟩
  · exact ((loaded_loadDone m p r (peek s r.addr r.len) img).touched hfin rfl).touched hend rfl
  · exact (handleDone_finishHandle (hw.of_touches hdone (by decide) (by decide)) .ok 0 []).of_handles (hend.same .handles (by decide))

/-- What a successful load leaves, told from the state before it. -/
theorem Loaded.from_start {s t : State} {p : Nat} {r : LoadReq} {raw img : List Byte} (hp : p < 4)
    (h : Loaded (stageMet (loadEnded s p r) p r) p r raw img t) :
    (Machine.partAt t p).dieMap = bindDies (bindOf (loadEnded s p r) p) (capDies img) ∧
    (∀ u, partOf s u = p → dieOf u < dies s.variant →
      coreAt t u = loadedCore img (bindDies (bindOf (loadEnded s p r) p) (capDies img)) u) ∧
    (∀ u, partOf s u ≠ p → coreAt t u = coreAt s u) ∧ OtherParts p s t := by
  have hread := stageRead_stageMet (s := loadEnded s p r) hp r
  have hbind := hread.bindOf_eq hp
  have hmet : Touches [.regs, .blobs, .faultq, .capSeen, .parts] s (stageMet (loadEnded s p r) p r) :=
    ((touches_loadEnded ..).mono rfl).trans (hread.touches.mono rfl)
  have hdiv : rg (stageMet (loadEnded s p r) p r) 0x6000 3 = rg s 0x6000 3 :=
    (hread.rg_eq rfl).trans (rg_wr_other _ _ _ _ _ _ (rkey_ne_of_sub (by decide) (by decide) (by decide)))
  have hvar : (stageMet (loadEnded s p r) p r).variant = s.variant := hmet.same .variant (by decide)
  have hmem : ∀ u, u ∈ partCores (stageMet (loadEnded s p r) p r) p ↔ dieOf u < dies s.variant ∧ partOf s u = p := fun u => by
    rw [mem_partCores, hvar, partOf_congr hdiv]
  refine ⟨?_, fun u hu hd => ?_, fun u hu => ?_, fun q hq => ?_⟩
  · rw [h.dieMap, hbind]
  · rw [h.cores u ((hmem u).2 ⟨hd, hu⟩), hbind]
  · rw [h.others u fun hm => hu ((hmem u).1 hm).2, hmet.coreAt_eq (by decide)]
  · rw [h.parts q hq, hread.touches.partAt_eq (by decide), partAt_loadEnded_other r hq]

end Sys2Proof
end

section
/-! SUPPORT. The end of a plan's reset, and loading and resetting as a whole (O49). -/

namespace Sys2Proof

open Machine

/-! ### An uncorrectable error in the log writes only counts (R336, R648) -/

theorem noteEntry_of_uncorrectable {r : LogRec} (h : r.code = 0x0302) (s : State) : noteEntry s r =
    wb (bump s (0x4010 + r.unit / 256 % 4) 8 12 7 1) (0x4010 + r.unit / 256 % 4) 13 (LogRec.bytes r) := by
  simp only [noteEntry, h]

theorem regsKept_logRec_of_uncorrectable {m : Nat → Bool} {r : LogRec} (h : r.code = 0x0302) (h1 : m (rkey 0x7000 1) = true)
    (h5 : m (rkey 0x7000 5) = true) (h6 : m (rkey 0x7000 6) = true) (h8 : ∀ d, m (rkey (0x4010 + d) 8) = true)
    (h12 : ∀ d, m (rkey (0x4010 + d) 12) = true) (s : State) : RegsKept m s (logRec s r) := by
  have hevent : ∀ (t : State) (f : Session → Bool) (k : Nat) (b : List Byte), (eventAll t f k b).regs = t.regs := fun t f k b =>
    (touches_eventAll t f k b).same .regs (by decide)
  have hnow : RegsKept m s (logNow s r) := by
    unfold logNow
    dsimp only
    rw [noteEntry_of_uncorrectable (r := { r with num := s.logNum + 1 }) h, if_neg (show ¬r.code = 2 by rw [h]; decide)]
    have hadd : ∀ (l : List LogRec) (n : Nat), RegsKept m s (bump { s with logNum := n, log := l } 0x7000 1 6 0 1) := fun l n =>
      RegsKept.trans (t := { s with logNum := n, log := l }) (.of_eq rfl) (regsKept_bump _ _ _ _ _ _ h1 h6 h5 h6)
    have hwb : ∀ (t : State) (b : List Byte), RegsKept m t (wb t 0x7000 7 b) := fun t b => .of_eq rfl
    refine RegsKept.trans ?_ (RegsKept.trans (regsKept_bump _ _ _ _ _ _ (h8 _) (h12 _) h5 h6) (.of_eq rfl))
    refine RegsKept.trans ?_ (.of_eq (hevent ..))
    split
    · exact (hadd _ _).trans (hwb _ _)
    · exact hadd _ _
  unfold logRec
  split
  · split
    · exact .of_eq rfl
    · exact regsKept_bump _ _ _ _ _ _ h5 h6 h5 h6
  · exact hnow

/-! ### What a reset clears (R635) -/

/-- A core at its seed, with its descriptor count and its regions. -/
def seededCore (x : CoreSt) : CoreSt := { gen := x.seed, seed := x.seed, dcount := x.dcount, regions := x.regions }

theorem touches_clearRun (s : State) (p : Nat) : Touches [.cores, .parts] s (clearRun s p) :=
  ((touches_mapCores ..).mono rfl).trans ((touches_setPart ..).mono rfl)

theorem coreAt_clearRun {s : State} {p u : Nat} (h : u ∈ partCores s p) : coreAt (clearRun s p) u = seededCore (coreAt s u) :=
  coreAt_mapCores_of_mem (f := fun _ x => seededCore x) (fun _ => rfl) h

theorem coreAt_clearRun_other {s : State} {p u : Nat} (h : u ∉ partCores s p) : coreAt (clearRun s p) u = coreAt s u :=
  coreAt_mapCores_other _ h

theorem partAt_clearRun (s : State) (p : Nat) : (Machine.partAt (clearRun s p) p).resetting = false ∧
    (Machine.partAt (clearRun s p) p).alarm = false ∧ (Machine.partAt (clearRun s p) p).step = none := by
  rw [clearRun, partAt_setPart]
  exact ⟨rfl, rfl, rfl⟩

/-- The run is cleared, the on-chip memories are zero, and the reset's time is noted. -/
def resetCleared (s : State) (p us : Nat) : State := wr (zeroOnChip (clearRun s p) p) (0x7010 + p) 5 us

theorem touches_resetCleared (s : State) (p us : Nat) : Touches [.mem, .ecc, .regs] (clearRun s p) (resetCleared s p us) :=
  ((touches_zeroOnChip ..).mono rfl).trans ((touches_wr ..).mono rfl)

/-- Noting the time changes no error of the restore image. -/
theorem restoreError_wr (s : State) (p i us : Nat) : restoreError (wr s i 5 us) p = restoreError s p := by
  have hdiv : rg (wr s i 5 us) 0x6000 3 = rg s 0x6000 3 := rg_wr_other _ _ _ _ _ _ (rkey_ne_of_sub (by decide) (by decide) (by decide))
  have hdies : partDies (wr s i 5 us) p = partDies s p := by
    unfold partDies partLow
    rw [hdiv]
    rfl
  rw [restoreError, restoreError, hdies]
  rfl

/-- Zeroing the on-chip memories leaves no new error. -/
theorem mem_ecc_zeroOnChip {s : State} {p : Nat} {e : Nat × Nat} (h : e ∈ (zeroOnChip s p).ecc) : e ∈ s.ecc := by
  have hzero : ∀ {t : State} {a n : Nat}, e ∈ (mzero t a n).ecc → e ∈ t.ecc := fun h => List.mem_of_mem_filter h
  revert h
  exact List.foldlRecOn (motive := fun (t : State) => e ∈ t.ecc → e ∈ s.ecc) _ _ id fun t ht d _ h =>
    ht (hzero (hzero (hzero (hzero (hzero h)))))

/-! ### PLAN_RESET_COMPLETE (R635 to R637) -/

theorem planResetComplete_of_idle {s : State} {p : Nat} (us : Nat) (h : (Machine.partAt s p).resetting = false) :
    planResetComplete s p us = s := if_pos (.inl (by rw [h]; rfl))

/-- The restore image comes back once its corrected errors are counted. -/
def restored (s : State) (p : Nat) : State :=
  loadRestore ((eccIn s (restoreBase (Machine.partAt s p)) (restoreBytes * (partDies s p).length)).foldl (fun t e => bumpCorr t e.1) s) p

/-- The plan is LOADED with no progress. -/
def planAtStart (s : State) (p : Nat) : State :=
  setPlanState (wr (wr (wr (wr s (0x2120 + p) 5 0) (0x2120 + p) 6 0) (0x2120 + p) 7 0) (0x2120 + p) 8 0) p 2

/-- The record of an uncorrectable error in a restore image (R637). -/
def restoreRec (s : State) (a : Nat) : LogRec :=
  mkRec s 3 0x0302 (dieAt a * 256) (leBytes 1 3 ++ leBytes 5 a ++ leBytes 1 (channelAt a) ++ leBytes 8 0) (2 ^ dieAt a)

theorem planResetComplete_of_due {s : State} {p : Nat} (us : Nat) (h : (Machine.partAt s p).resetting = true)
    (hs : planState s p = 4 ∨ planState s p = 5) : planResetComplete s p us = match restoreError (resetCleared s p us) p with
      | some a => unloadPlan (logRec (resetCleared s p us) (restoreRec (resetCleared s p us) a)) p
      | none => planAtStart (restored (resetCleared s p us) p) p := by
  have hdue : ¬((!(Machine.partAt s p).resetting) = true ∨ planState s p ≠ 4 ∧ planState s p ≠ 5) := by
    rw [h]
    simp only [Bool.not_true, Bool.false_eq_true, false_or]
    omega
  exact if_neg hdue

theorem touches_restored (s : State) (p : Nat) : Touches [.mem, .ecc, .regs, .blobs, .faultq] s (restored s p) :=
  Touches.trans (.foldl _ (fun _ _ => (touches_bumpCorr ..).mono rfl) _ _) ((touches_loadRestore ..).mono rfl)

/-- Restoring writes only counts of errors, if every error lies in one of the four dies. -/
theorem regsKept_restored {s : State} {p : Nat} (h : ErrsFitted s) : RegsKept countKey s (restored s p) := by
  refine RegsKept.trans (List.foldlRecOn (motive := RegsKept countKey s) _ _ .refl fun t ht e he => ht.trans ?_)
    (.of_eq ((touches_loadRestore ..).same .regs (by decide)))
  have hd : dieAt e.1 < 4 := h e (by
    unfold eccIn at he
    split at he
    · simp at he
    · exact List.mem_of_mem_filter he)
  refine regsKept_bumpCorr _ _ (fun i hi j hj => ?_) rfl rfl
  exact countKey_errorUnit hd hi hj

theorem touches_planAtStart (s : State) (p : Nat) : Touches [.regs] s (planAtStart s p) :=
  (touches_wr ..).trans ((touches_wr ..).trans ((touches_wr ..).trans ((touches_wr ..).trans (touches_wr ..))))

theorem rg_planAtStart (s : State) (p : Nat) : planState (planAtStart s p) p = 2 ∧
    (∀ i, 5 ≤ i → i ≤ 8 → rg (planAtStart s p) (0x2120 + p) i = 0) ∧
    ∀ i j, j < 256 → i ≠ 0x2120 + p → rg (planAtStart s p) i j = rg s i j := by
  have hkey : ∀ i j k, j < 256 → k < 256 → (rkey i j = rkey (0x2120 + p) k ↔ i = 0x2120 + p ∧ j = k) := fun i j k hj hk => rkey_inj hj hk
  refine ⟨rg_wr_same .., fun i h5 h8 => ?_, fun i j hj hi => ?_⟩
  · simp only [planAtStart, setPlanState, rg_wr, hkey _ _ _ (show i < 256 by omega) (show 5 < 256 by decide),
      hkey _ _ _ (show i < 256 by omega) (show 6 < 256 by decide), hkey _ _ _ (show i < 256 by omega) (show 7 < 256 by decide),
      hkey _ _ _ (show i < 256 by omega) (show 8 < 256 by decide), hkey _ _ _ (show i < 256 by omega) (show 1 < 256 by decide), true_and]
    split_ifs <;> omega
  · have hne : ∀ k < 256, rkey i j ≠ rkey (0x2120 + p) k := fun k hk he => hi ((hkey i j k hj hk).1 he).1
    simp only [planAtStart, setPlanState, rg_wr, hne 1 (by decide), hne 5 (by decide), hne 6 (by decide), hne 7 (by decide),
      hne 8 (by decide), if_false]

theorem rg_unloadPlan (s : State) (p : Nat) : planState (unloadPlan s p) p = 0 ∧ rg (unloadPlan s p) (0x2120 + p) 5 = 0 ∧
    ∀ i j, j < 256 → i ≠ 0x2120 + p → rg (unloadPlan s p) i j = rg s i j := by
  refine ⟨?_, rg_wr_same .., fun i j hj hi => ?_⟩
  · exact (rg_wr_other _ _ _ _ _ _ (rkey_ne_of_sub (by decide) (by decide) (by decide))).trans (rg_wr_same ..)
  · exact (rg_wr_other _ _ _ _ _ _ (rkey_ne_of_idx hj (by decide) hi)).trans
      (rg_wr_other _ _ _ _ _ _ (rkey_ne_of_idx hj (by decide) hi))

theorem touches_unloadPlan (s : State) (p : Nat) : Touches [.regs, .parts] s (unloadPlan s p) :=
  ((touches_wr ..).mono rfl).trans (((touches_wr ..).mono rfl).trans ((touches_setPart ..).mono rfl))

theorem partAt_unloadPlan (s : State) (p : Nat) : (Machine.partAt (unloadPlan s p) p).guarded = false := by
  rw [unloadPlan, partAt_setPart]

theorem exec_planResetComplete_eq (p us : Nat) (s : State) : exec (.planResetComplete p us) s = onPart s p (planResetComplete s p us) := rfl

/-- The end of a reset whose restore image is sound. -/
theorem planResetComplete_sound {s : State} {p us : Nat} (hp : s.powered = true) (hm : p ∈ partitions s)
    (hr : (Machine.partAt s p).resetting = true) (hs : planState s p = 4 ∨ planState s p = 5)
    (hnone : restoreError (zeroOnChip (clearRun s p) p) p = none) (he : ErrsFitted s) :
    ∃ t, exec (.planResetComplete p us) s = .next t ∧ planState t p = 2 ∧ (∀ i, 5 ≤ i → i ≤ 8 → rg t (0x2120 + p) i = 0) ∧
      rg t (0x7010 + p) 5 = us ∧ (Machine.partAt t p).resetting = false ∧ (Machine.partAt t p).alarm = false ∧
      (Machine.partAt t p).step = none ∧
      (∀ u, partOf s u = p → dieOf u < dies s.variant → coreAt t u = seededCore (coreAt s u)) ∧
      (∀ u, partOf s u ≠ p → coreAt t u = coreAt s u) := by
  have hp4 := partition_lt hm
  have hcomp : planResetComplete s p us = planAtStart (restored (resetCleared s p us) p) p := by
    rw [planResetComplete_of_due us hr hs, resetCleared, restoreError_wr, hnone]
  have hfit : ErrsFitted (resetCleared s p us) := fun e hmem => he e (by
    have hclear : (clearRun s p).ecc = s.ecc := (touches_clearRun s p).same .ecc (by decide)
    rw [← hclear]
    exact mem_ecc_zeroOnChip hmem)
  have hkept := regsKept_restored (p := p) hfit
  have hrest := touches_restored (resetCleared s p us) p
  have hlate : Touches [.mem, .ecc, .regs, .blobs, .faultq] (clearRun s p) (planAtStart (restored (resetCleared s p us) p) p) :=
    ((touches_resetCleared s p us).mono rfl).trans (hrest.trans ((touches_planAtStart ..).mono rfl))
  have hall : Touches [.cores, .parts, .mem, .ecc, .regs, .blobs, .faultq] s (planAtStart (restored (resetCleared s p us) p) p) :=
    ((touches_clearRun s p).mono rfl).trans (hlate.mono rfl)
  obtain ⟨t, ht, hend⟩ := onPart_next hp hm hall rfl
  have hrg : ∀ i j, rg t i j = _ := fun i j => hend.rg_eq (by decide) (by decide) i j
  have hpart : Machine.partAt t p = Machine.partAt (clearRun s p) p := (hend.partAt_eq (by decide) p).trans (hlate.partAt_eq (by decide) p)
  have hcore : ∀ u, coreAt t u = coreAt (clearRun s p) u := fun u => (hend.coreAt_eq (by decide) u).trans (hlate.coreAt_eq (by decide) u)
  obtain ⟨hplan, hzero, hother⟩ := rg_planAtStart (restored (resetCleared s p us) p) p
  obtain ⟨hreset, halarm, hstep⟩ := partAt_clearRun s p
  refine ⟨t, by rw [exec_planResetComplete_eq, hcomp, ht], (hrg _ _).trans hplan, fun i h5 h8 => (hrg _ _).trans (hzero i h5 h8), ?_,
    by rw [hpart, hreset], by rw [hpart, halarm], by rw [hpart, hstep], fun u hu hd => ?_, fun u hu => ?_⟩
  · rw [hrg, hother _ _ (by decide) (by omega), hkept.rg (hrest.same .variant (by decide)) _ _ (not_countKey_reset hp4)]
    exact rg_wr_same ..
  · rw [hcore, coreAt_clearRun (mem_partCores.2 ⟨hd, hu⟩)]
  · rw [hcore, coreAt_clearRun_other fun h => hu (mem_partCores.1 h).2]

/-- The end of a reset whose restore image holds an uncorrectable error. -/
theorem planResetComplete_broken {s : State} {p us : Nat} (hp : s.powered = true) (hm : p ∈ partitions s)
    (hr : (Machine.partAt s p).resetting = true) (hs : planState s p = 4 ∨ planState s p = 5)
    (hsome : restoreError (zeroOnChip (clearRun s p) p) p ≠ none) :
    ∃ t, exec (.planResetComplete p us) s = .next t ∧ planState t p = 0 ∧ rg t (0x2120 + p) 5 = 0 ∧ rg t (0x7010 + p) 5 = us ∧
      (Machine.partAt t p).guarded = false := by
  have hp4 := partition_lt hm
  obtain ⟨a, ha⟩ := Option.ne_none_iff_exists'.1 hsome
  have hcomp : planResetComplete s p us = unloadPlan (logRec (resetCleared s p us) (restoreRec (resetCleared s p us) a)) p := by
    rw [planResetComplete_of_due us hr hs]
    have herr : restoreError (resetCleared s p us) p = some a := (restoreError_wr ..).trans ha
    rw [herr]
  have hlog := touches_logRec (resetCleared s p us) (restoreRec (resetCleared s p us) a)
  have hkept : rg (logRec (resetCleared s p us) (restoreRec (resetCleared s p us) a)) (0x7010 + p) 5 = us := by
    have hne7 : ∀ j < 256, (rkey 0x7000 j != rkey (0x7010 + p) 5) = true := fun j hj =>
      bne_iff_ne.2 (rkey_ne_of_idx hj (by decide) (by omega))
    have hne : ∀ j < 256, j ≠ 5 → ∀ d, (rkey (0x4010 + d) j != rkey (0x7010 + p) 5) = true := fun j hj h d =>
      bne_iff_ne.2 (rkey_ne_of_sub hj (by decide) h)
    rw [rg_eq_of_regsKept (regsKept_logRec_of_uncorrectable (m := (· != rkey (0x7010 + p) 5)) rfl (hne7 1 (by decide))
      (hne7 5 (by decide)) (hne7 6 (by decide)) (hne 8 (by decide) (by decide)) (hne 12 (by decide) (by decide)) _) (hlog.same .variant (by decide))]
    exact rg_wr_same ..
  have hall : Touches ([Field.cores, .parts, .mem, .ecc] ++ logFields) s
      (unloadPlan (logRec (resetCleared s p us) (restoreRec (resetCleared s p us) a)) p) :=
    ((touches_clearRun s p).mono rfl).trans (((touches_resetCleared s p us).mono rfl).trans ((hlog.mono rfl).trans
      ((touches_unloadPlan ..).mono rfl)))
  obtain ⟨t, ht, hend⟩ := onPart_next hp hm hall rfl
  have hrg : ∀ i j, rg t i j = _ := fun i j => hend.rg_eq (by decide) (by decide) i j
  obtain ⟨hplan, hzero, hother⟩ := rg_unloadPlan (logRec (resetCleared s p us) (restoreRec (resetCleared s p us) a)) p
  refine ⟨t, by rw [exec_planResetComplete_eq, hcomp, ht], (hrg _ _).trans hplan, (hrg _ _).trans hzero, ?_, ?_⟩
  · rw [hrg, hother _ _ (by decide) (by omega), hkept]
  · rw [hend.partAt_eq (by decide), partAt_unloadPlan]

/-- Settles O49: a load and a reset are asked for through the gate (`invokeTakes_planLoad`, `setTakes_planReset`); their ends are told by
the checks that the load meets (`Loaded`) and by the restore image's errors. -/
theorem plansLoadAndReset : Obligations.PlansLoadAndReset := by
  intro s p hp hm before
  have hp4 := partition_lt hm
  refine ⟨fun ses x arg ho hst => invokeTakes_planLoad hp4 ho hst, fun r hr => ⟨fun hst => planLoadComplete_failed hp hm hr hst, fun hst => ?_⟩,
    fun hn => ?_, fun ses x val ho hst => setTakes_planReset ho hst, fun us hr => ?_, fun us hr hs => ⟨fun hnone he => ?_, fun hsome => ?_⟩⟩
  · obtain ⟨t, ht, hload, hdone⟩ := planLoadComplete_ok hp hm hr hst
    obtain ⟨hmap, hcores, hothers, hparts⟩ := hload.from_start hp4
    exact ⟨t, ht, hload.plan, hload.start, hload.digest, hload.guarded, hload.stage, hmap, hcores, hothers, hparts, hdone⟩
  · rw [exec_planLoadComplete_eq, planLoadComplete_of_none hn]
    exact onPart_next_idle hp hm
  · rw [exec_planResetComplete_eq, planResetComplete_of_idle us hr]
    exact onPart_next_idle hp hm
  · exact planResetComplete_sound hp hm hr hs hnone he
  · exact planResetComplete_broken hp hm hr hs hsome

end Sys2Proof
end

section
/-! SUPPORT. The sync engine: SYNC and its posts (O27), the start of a BARRIER (O29). -/

namespace Sys2Proof

open Machine

/-! ### Ends of commands carried out at a cycle -/

/-- The outcome of a core's command that writes other cores than its own: ending it adds nothing to what it leaves. -/
theorem onCore_next_touches {s w : State} {u c : Nat} {l : List Field} (hp : s.powered = true) (hu : u < coresOf s.variant)
    (h : Touches l (coreTick s u c) w) (hl : l.all (fun f => decide (f ≠ .pending ∧ f ≠ .variant)) = true) :
    ∃ t', onCore s u w = .next t' ∧ Touches [.alertN] w t' := by
  have hnot : ∀ f ∈ l, f ≠ .pending ∧ f ≠ .variant := fun f hf => by simpa using List.all_eq_true.1 hl f hf
  have htick := touches_coreTick s u c
  obtain ⟨t', ht, hend⟩ := done_next hp ((h.same .pending fun hf => (hnot _ hf).1 rfl).trans (htick.same .pending (by decide)))
    ((h.same .variant fun hf => (hnot _ hf).2 rfl).trans (htick.same .variant (by decide)))
  exact ⟨t', by rw [onCore, if_pos hu, ht], hend⟩

/-! ### The head of the queue starts (R235, R271) -/

/-- The core after the head of its sync queue has started and owes the signals and completions `l`. -/
def syncStartedCore (x : CoreSt) (now : Nat) (l : List Owed) : CoreSt :=
  { x with yq := x.yq.drop 1, lastY := now + 1, yrun := x.yrun ++ l }

theorem absNow_heldSlip (s : State) (u : Nat) (q : QDesc) : absNow (heldSlip s u q) = absNow s := by
  obtain ⟨g, f, h⟩ := countSlip_eq s u q 1
  rw [heldSlip, h]
  rfl

theorem syncStart_eq (s : State) (u : Nat) (q : QDesc) (k : Option Nat) :
    syncStart s u q k = setCore (heldSlip s u q) u
      (syncStartedCore (coreAt s u) (absNow s) (k.map (fun n => { d := q, fin := absNow s + n })).toList) := by
  obtain ⟨g, f, h⟩ := countSlip_eq s u q 1
  rw [syncStart, heldSlip, h]
  rfl

/-! ### SYNC's posts (R270, R271) -/

/-- A SYNC names core `v` in its mask. -/
def syncNames (d : BitVec 512) (v : Nat) : Bool :=
  decide (v / 16 = fld d 260 2 * 12 + fld d 308 4) && bit (fld d 312 16) (v % 16)

/-- The increment that a SYNC of core `u` in cycle `now` posts to core `v`. -/
def syncPost (now u : Nat) (d : BitVec 512) (v : Nat) : PortInc :=
  ⟨fld d 268 6, fld d 280 16, now + postLatency u v, false, u, 0⟩

/-- The core with the post of a SYNC in its canopy port, if the SYNC names it. -/
def postedCore (now u : Nat) (d : BitVec 512) (v : Nat) (x : CoreSt) (named : Bool) : CoreSt :=
  { x with canQ := x.canQ ++ if named then [syncPost now u d v] else [] }

theorem postedCore_false (now u : Nat) (d : BitVec 512) (v : Nat) (x : CoreSt) : postedCore now u d v x false = x := by
  simp [postedCore]

/-- The post to core `i` of the cluster that the SYNC names. -/
def sendPost (u : Nat) (d : BitVec 512) (t : State) (i : Nat) : State :=
  if bit (fld d 312 16) i then
    let v := (fld d 260 2 * 12 + fld d 308 4) * 16 + i
    setCore t v (postedCore (absNow t) u d v (coreAt t v) true)
  else t

theorem sendPosts_eq (s : State) (u : Nat) (d : BitVec 512) : sendPosts s u d = (List.range 16).foldl (sendPost u d) s := rfl

theorem touches_sendPost (u : Nat) (d : BitVec 512) (t : State) (i : Nat) : Touches [.cores] t (sendPost u d t i) :=
  .ite (touches_setCore ..) .refl

theorem touches_sendPosts (s : State) (u : Nat) (d : BitVec 512) : Touches [.cores] s (sendPosts s u d) :=
  .foldl _ (touches_sendPost u d) _ _

theorem Touches.absNow_eq {l : List Field} {s t : State} (h : Touches l s t) (he : Field.edge ∉ l) (hc : Field.cyc ∉ l) :
    absNow t = absNow s := by
  have hedge : t.edge = s.edge := h.same .edge he
  have hcyc : t.cyc = s.cyc := h.same .cyc hc
  rw [absNow, absNow, hedge, hcyc]

theorem coreAt_sendPost (u : Nat) (d : BitVec 512) (t : State) {i : Nat} (hi : i < 16) (v : Nat) :
    coreAt (sendPost u d t i) v = postedCore (absNow t) u d v (coreAt t v) (syncNames d v && v % 16 == i) := by
  unfold sendPost syncNames
  dsimp only
  by_cases hv : v = (fld d 260 2 * 12 + fld d 308 4) * 16 + i
  · have hdiv : v / 16 = fld d 260 2 * 12 + fld d 308 4 := by omega
    have hmod : v % 16 = i := by omega
    rw [← hv, hdiv, hmod]
    split
    next hb => simp [hb]
    next hb => simp [hb, postedCore_false]
  · have hno : (decide (v / 16 = fld d 260 2 * 12 + fld d 308 4) && bit (fld d 312 16) (v % 16) && v % 16 == i) = false := by
      simp only [Bool.and_eq_false_iff, decide_eq_false_iff_not, beq_eq_false_iff_ne]
      omega
    rw [hno, postedCore_false]
    split
    · exact coreAt_setCore_other _ _ _ _ hv
    · rfl

/-- The posts to the first `n` cores of the cluster. -/
theorem coreAt_foldl_sendPost (s : State) (u : Nat) (d : BitVec 512) (v : Nat) {n : Nat} (hn : n ≤ 16) :
    coreAt ((List.range n).foldl (sendPost u d) s) v = postedCore (absNow s) u d v (coreAt s v) (syncNames d v && decide (v % 16 < n)) := by
  induction n with
  | zero => simp [postedCore_false]
  | succ n ih =>
    have hnow : absNow ((List.range n).foldl (sendPost u d) s) = absNow s :=
      (Touches.foldl _ (touches_sendPost u d) _ s).absNow_eq (by decide) (by decide)
    rw [List.range_succ, List.foldl_append, List.foldl_cons, List.foldl_nil, coreAt_sendPost u d _ (by omega), hnow, ih (by omega)]
    obtain hlt | rfl | hgt := Nat.lt_trichotomy (v % 16) n
    · rw [beq_eq_false_iff_ne.2 (by omega), Bool.and_false, postedCore_false, decide_eq_true hlt, decide_eq_true (by omega)]
    · rw [decide_eq_false (Nat.lt_irrefl _), Bool.and_false, postedCore_false, beq_self_eq_true, decide_eq_true (Nat.lt_succ_self _)]
    · rw [beq_eq_false_iff_ne.2 (by omega), Bool.and_false, postedCore_false, decide_eq_false (by omega), decide_eq_false (by omega)]

/-- A SYNC posts to exactly the cores that it names. -/
theorem coreAt_sendPosts (s : State) (u : Nat) (d : BitVec 512) (v : Nat) :
    coreAt (sendPosts s u d) v = postedCore (absNow s) u d v (coreAt s v) (syncNames d v) := by
  rw [sendPosts_eq, coreAt_foldl_sendPost s u d v le_rfl, decide_eq_true (Nat.mod_lt v (by decide)), Bool.and_true]

/-- SYNC that may start. -/
def syncStarted (t : State) (u : Nat) (q : QDesc) : State :=
  if isNoop q.raw then syncStart t u q (some 4) else sendPosts (syncStart t u q (some 1)) u q.raw

theorem exec_sync_of_ready {s : State} {u c : Nat} {q : QDesc} (h : syncReady (coreTick s u c) u 0x40 = some q) :
    exec (.sync u c) s = onCore s u (syncStarted (coreTick s u c) u q) := by
  change onCore s u (match syncReady (coreTick s u c) u 0x40 with
    | some q => syncStarted (coreTick s u c) u q
    | none => coreTick s u c) = _
  rw [h]

theorem exec_sync_of_idle {s : State} {u c : Nat} (h : syncReady (coreTick s u c) u 0x40 = none) :
    exec (.sync u c) s = onCore s u (coreTick s u c) := by
  change onCore s u (match syncReady (coreTick s u c) u 0x40 with
    | some q => syncStarted (coreTick s u c) u q
    | none => coreTick s u c) = _
  rw [h]

/-- What a SYNC that starts leaves beside the cores is what counting its slip leaves. -/
theorem touches_syncStarted (t : State) (u : Nat) (q : QDesc) : Touches [.cores] (heldSlip t u q) (syncStarted t u q) := by
  unfold syncStarted
  rw [syncStart_eq, syncStart_eq]
  exact .ite (touches_setCore ..) ((touches_setCore ..).trans (touches_sendPosts ..))

/-- The starting core, before any post. -/
theorem coreAt_syncStart (t : State) (u : Nat) (q : QDesc) (k : Option Nat) (v : Nat) :
    coreAt (syncStart t u q k) v = if v = u then
      syncStartedCore (coreAt t u) (absNow t) (k.map (fun n => { d := q, fin := absNow t + n })).toList else coreAt t v := by
  have hheld : coreAt (heldSlip t u q) v = coreAt t v := (touches_countSlip t u q 1).coreAt_eq (by decide) v
  rw [syncStart_eq]
  split
  next h => rw [h, coreAt_setCore]
  next h => rw [coreAt_setCore_other _ _ _ _ h, hheld]

theorem absNow_syncStart (t : State) (u : Nat) (q : QDesc) (k : Option Nat) : absNow (syncStart t u q k) = absNow t := by
  rw [syncStart_eq, (touches_setCore ..).absNow_eq (by decide) (by decide), absNow_heldSlip]

/-- Each core after a SYNC has started: a no-op posts to none. -/
theorem coreAt_syncStarted (t : State) (u : Nat) (q : QDesc) (v : Nat) :
    coreAt (syncStarted t u q) v = postedCore (absNow t) u q.raw v
      (if v = u then syncStartedCore (coreAt t u) (absNow t) [{ d := q, fin := absNow t + if isNoop q.raw then 4 else 1 }] else coreAt t v)
      (syncNames q.raw v && !isNoop q.raw) := by
  unfold syncStarted
  cases isNoop q.raw
  case true =>
    rw [if_pos rfl, if_pos rfl, coreAt_syncStart, Bool.not_true, Bool.and_false, postedCore_false]
    rfl
  case false =>
    rw [if_neg Bool.false_ne_true, if_neg Bool.false_ne_true, coreAt_sendPosts, coreAt_syncStart, absNow_syncStart, Bool.not_false,
      Bool.and_true]
    rfl

theorem syncStarted_starts {s : State} {u c : Nat} (hp : s.powered = true) (hu : u < coresOf s.variant) (q : QDesc) :
    ∃ t', onCore s u (syncStarted (coreTick s u c) u q) = .next t' ∧ Touches [.alertN] (syncStarted (coreTick s u c) u q) t' :=
  onCore_next_touches (l := coreFields) hp hu (((touches_countSlip ..).mono rfl).trans ((touches_syncStarted ..).mono rfl)) (by decide)

/-- Settles O27: the head that may start leaves as `syncStartedCore`, and its posts go to the cores that it names (`coreAt_sendPosts`). -/
theorem syncPostsToItsTargets : Obligations.SyncPostsToItsTargets := by
  intro s u c hp hu t x
  have hd : dieOf u < 4 := dieOf_lt hu
  have hready : ∀ q, syncReady t u 0x40 = some q → exec (.sync u c) s = onCore s u (syncStarted t u q) := fun q => exec_sync_of_ready
  have hnone : syncReady t u 0x40 = none → exec (.sync u c) s = onCore s u t := exec_sync_of_idle
  have hstarts : ∀ q, ∃ t', onCore s u (syncStarted t u q) = .next t' ∧ Touches [.alertN] (syncStarted t u q) t' := syncStarted_starts hp hu
  have hidle : ∃ t', onCore s u t = .next t' ∧ Touches [.alertN] t t' := onCore_next_idle hp hu
  clear_value t
  refine ⟨fun q hq => ?_, fun hq => by rwa [hnone hq]⟩
  intro d hit post
  obtain ⟨t', ht, hend⟩ := hstarts q
  have hslip := touches_countSlip t u q 1
  have hafter : Touches [.cores, .alertN] (heldSlip t u q) t' := ((touches_syncStarted t u q).mono rfl).trans (hend.mono rfl)
  have hregs : t'.regs = (heldSlip t u q).regs := hafter.same .regs (by decide)
  have hcore : ∀ v, coreAt t' v = postedCore (absNow t) u d v _ _ :=
    fun v => (hend.coreAt_eq (by decide) v).trans (coreAt_syncStarted t u q v)
  refine ⟨t', (hready q hq).trans ht, ?_, fun v hv => ?_, ?_, (hslip.mono rfl).trans (hafter.mono rfl), ?_⟩
  · rw [hcore, if_pos rfl]
    rfl
  · rw [hcore, if_neg hv]
    rfl
  · exact (slipCounted_countSlip (by decide) t q).congr hregs (hafter.same .variant (by decide))
  · exact (regsKept_countSlip hd t q 1).trans (.of_eq hregs)

end Sys2Proof
end

section
/-! SUPPORT. Barriers: arrivals, how they open, join or spoil their instances, and the ARRIVE of a canopy child (O29). -/

namespace Sys2Proof

open Machine

/-! ### BARRIER (R235, R278, R281) -/

/-- The arrival of a BARRIER waits at the partition of its core. -/
def arrivalSent (w : State) (u : Nat) (q : QDesc) : State :=
  let p := partOf w u
  setPart w p { Machine.partAt w p with arrs := (Machine.partAt w p).arrs ++ [{ u := u, d := q, cyc := absNow w }] }

/-- A BARRIER that is no no-op and may start: its arrival is on its way to the nodes, and is counted. -/
def barrierSent (t : State) (u : Nat) (q : QDesc) : State :=
  bump (arrivalSent (syncStart t u q (if bMB q.raw then some 1 else none)) u q) (0x7860 + dieOf u) 2 6 1 1

theorem touches_arrivalSent (w : State) (u : Nat) (q : QDesc) : Touches [.parts] w (arrivalSent w u q) := touches_setPart ..

/-- BARRIER that may start. -/
def barrierStarted (t : State) (u : Nat) (q : QDesc) : State :=
  if isNoop q.raw then syncStart t u q (some 4) else barrierSent t u q

theorem exec_barrier_eq (s : State) (u c : Nat) :
    exec (.barrier u c) s = onCore s u (match syncReady (coreTick s u c) u 0x41 with
      | some q => barrierStarted (coreTick s u c) u q
      | none => coreTick s u c) := rfl

theorem exec_barrier_of_ready {s : State} {u c : Nat} {q : QDesc} (h : syncReady (coreTick s u c) u 0x41 = some q) :
    exec (.barrier u c) s = onCore s u (barrierStarted (coreTick s u c) u q) := by
  rw [exec_barrier_eq, h]

theorem exec_barrier_of_idle {s : State} {u c : Nat} (h : syncReady (coreTick s u c) u 0x41 = none) :
    exec (.barrier u c) s = onCore s u (coreTick s u c) := by
  rw [exec_barrier_eq, h]

/-- Starting a descriptor of the sync engine is within the frame of its core. -/
theorem coreFrame_syncStart {u : Nat} (hd : dieOf u < 4) (t : State) (q : QDesc) (k : Option Nat) : CoreFrame u [] t (syncStart t u q k) := by
  rw [syncStart_eq]
  exact (coreFrame_countSlip t q 1 hd).trans (coreFrame_setCore ..)

theorem touches_syncStart (t : State) (u : Nat) (q : QDesc) (k : Option Nat) : Touches [.cores] (heldSlip t u q) (syncStart t u q k) := by
  rw [syncStart_eq]
  exact touches_setCore ..

theorem slipEntry_idx_lt (u cat : Nat) : (slipEntry u cat).1 < 0x7860 + dieOf u := by
  unfold slipEntry
  split_ifs <;> dsimp only <;> omega

/-- Slip is counted in none of the entries of the sync engine and the canopy. -/
theorem rg_heldSlip_sync (t : State) (u : Nat) (q : QDesc) {j : Nat} (hj : j < 256) :
    rg (heldSlip t u q) (0x7860 + dieOf u) j = rg t (0x7860 + dieOf u) j := by
  have hstep : ∀ (s : State) (cat n : Nat), cat < 5 → rg (bumpSlip s u cat n) (0x7860 + dieOf u) j = rg s (0x7860 + dieOf u) j := by
    intro s cat n hc
    obtain ⟨o, b, -, ho, heq⟩ := bumpSlip_eq_bump s u n hc
    have hne := (slipEntry_idx_lt u cat).ne
    have hsub := (slipEntry_sub u hc).2
    rw [heq]
    exact rg_bump_other (rkey_ne_of_idx (by omega) hj hne) (rkey_ne_of_idx ho hj hne) (rkey_ne_of_idx (by decide) hj (by omega))
      (rkey_ne_of_idx (by decide) hj (by omega))
  rw [heldSlip, countSlip, hstep _ 4 _ (by decide), hstep _ 1 _ (by decide), hstep _ 1 _ (by decide), hstep _ 0 _ (by decide)]

/-- A count of the sync engine leaves the slip that was counted. -/
theorem SlipCounted.of_syncBump {u j o b n : Nat} {q : QDesc} {s w : State} (h : SlipCounted u q 1 s w) (hj : j < 256) (ho : o < 256) :
    SlipCounted u q 1 s (bump w (0x7860 + dieOf u) j o b n) := by
  have hsame : ∀ cat, cat < 5 → rg (bump w (0x7860 + dieOf u) j o b n) (slipEntry u cat).1 (slipEntry u cat).2 =
      rg w (slipEntry u cat).1 (slipEntry u cat).2 := fun cat hc => by
    have hne := (slipEntry_idx_lt u cat).ne'
    have hgt := slipEntry_idx u cat
    have hsub := (slipEntry_sub u hc).2
    exact rg_bump_other (rkey_ne_of_idx hj (by omega) hne) (rkey_ne_of_idx ho (by omega) hne) (rkey_ne_of_idx (by decide) (by omega) (by omega))
      (rkey_ne_of_idx (by decide) (by omega) (by omega))
  unfold SlipCounted at h ⊢
  dsimp only at h ⊢
  rw [hsame 0 (by decide), hsame 1 (by decide), hsame 4 (by decide)]
  exact h

/-- What sending an arrival does: the arrival waits at the partition of its core, and the core's queue has moved on. -/
structure BarrierSent (t : State) (u : Nat) (q : QDesc) (w : State) : Prop where
  fields : Touches coreFields t w
  arrs : (Machine.partAt w (partOf t u)).arrs = (Machine.partAt t (partOf t u)).arrs ++ [{ u := u, d := q, cyc := absNow t }]
  others : OtherParts (partOf t u) t w
  core : coreAt w u = syncStartedCore (coreAt t u) (absNow t) (if bMB q.raw then [{ d := q, fin := absNow t + 1 }] else [])
  rest : OtherCores u t w
  count : rg w (0x7860 + dieOf u) 2 = counted (rg t (0x7860 + dieOf u) 2) 1
  slip : SlipCounted u q 1 t w
  counts : RegsKept countKey t w

theorem barrierSent_sends {u : Nat} (hd : dieOf u < 4) (t : State) (q : QDesc) : BarrierSent t u q (barrierSent t u q) := by
  unfold barrierSent
  generalize hw : syncStart t u q (if bMB q.raw then some 1 else none) = w
  have hcore : ∀ v, coreAt w v = if v = u then
      syncStartedCore (coreAt t u) (absNow t) (if bMB q.raw then [{ d := q, fin := absNow t + 1 }] else []) else coreAt t v := fun v => by
    rw [← hw, coreAt_syncStart]
    cases bMB q.raw <;> rfl
  have hset : Touches [.cores] (heldSlip t u q) w := hw ▸ touches_syncStart t u q _
  have hnow : absNow w = absNow t := hw ▸ absNow_syncStart t u q _
  have hparts : Touches [.cores, .regs, .faultq] t w := ((touches_countSlip t u q 1).mono rfl).trans (hset.mono rfl)
  have hframe : CoreFrame u [] t w := hw ▸ coreFrame_syncStart hd t q _
  have hcounts : RegsKept countKey t w := hframe.counts (by simp)
  have hvar : w.variant = t.variant := hparts.same .variant (by decide)
  have hpart : partOf w u = partOf t u := partOf_congr (hcounts.rg hvar _ _ (by decide)) u
  have hsame : ∀ p, Machine.partAt w p = Machine.partAt t p := hparts.partAt_eq (by decide)
  have hsent := touches_arrivalSent w u q
  have hbump : Touches [.regs, .faultq] (arrivalSent w u q) _ := touches_bump _ (0x7860 + dieOf u) 2 6 1 1
  have hafter : Touches [.parts, .regs, .faultq] w _ := (hsent.mono rfl).trans (hbump.mono rfl)
  refine ⟨(hparts.mono rfl).trans (hafter.mono rfl), ?_, fun p hp => ?_, ?_, fun v hv => ?_, ?_, ?_, ?_⟩
  · rw [hbump.partAt_eq (by decide), arrivalSent, hpart, partAt_setPart, hsame, hnow]
  · rw [hbump.partAt_eq (by decide), arrivalSent, hpart, partAt_setPart_other _ _ _ _ hp, hsame]
  · rw [hafter.coreAt_eq (by decide), hcore, if_pos rfl]
  · rw [hafter.coreAt_eq (by decide), hcore, if_neg hv]
  · rw [rg_bump_same (by decide) (by decide) (by decide) (by omega), hsent.rg_eq (by decide) (by decide), hset.rg_eq (by decide) (by decide),
      rg_heldSlip_sync t u q (by decide)]
  · have hslip : SlipCounted u q 1 t (arrivalSent w u q) := (slipCounted_countSlip (by decide) t q).congr
      ((hsent.same .regs (by decide)).trans (hset.same .regs (by decide)))
      ((hsent.same .variant (by decide)).trans (hset.same .variant (by decide)))
    exact hslip.of_syncBump (by decide) (by decide)
  · refine hcounts.trans (RegsKept.trans (.of_eq (hsent.same .regs (by decide))) ?_)
    exact regsKept_bump _ _ _ _ _ _ (countKey_of (by decide) (by simp; omega)) (countKey_of (by decide) (by simp; omega))

theorem BarrierSent.ended {t w t' : State} {u : Nat} {q : QDesc} (h : BarrierSent t u q w) (g : Touches [.alertN] w t') : BarrierSent t u q t' where
  fields := h.fields.trans (g.mono rfl)
  arrs := by rw [g.partAt_eq (by decide), h.arrs]
  others p hp := by rw [g.partAt_eq (by decide), h.others p hp]
  core := by rw [g.coreAt_eq (by decide), h.core]
  rest v hv := by rw [g.coreAt_eq (by decide), h.rest v hv]
  count := by rw [g.rg_eq (by decide) (by decide), h.count]
  slip := h.slip.congr (g.same .regs (by decide)) (g.same .variant (by decide))
  counts := h.counts.trans (.of_eq (g.same .regs (by decide)))

/-- The first part of O29: a BARRIER that may start sends its arrival, a no-op sends none, and nothing happens while none may start. -/
theorem barrier_sends {s : State} {u c : Nat} (hp : s.powered = true) (hu : u < coresOf s.variant) :
    (∀ q, syncReady (coreTick s u c) u 0x41 = some q → isNoop q.raw = false →
      ∃ t', exec (.barrier u c) s = .next t' ∧ BarrierSent (coreTick s u c) u q t') ∧
    (∀ q, syncReady (coreTick s u c) u 0x41 = some q → isNoop q.raw = true →
      ∃ t', exec (.barrier u c) s = .next t' ∧
        coreAt t' u = syncStartedCore (coreAt (coreTick s u c) u) (absNow (coreTick s u c)) [{ d := q, fin := absNow (coreTick s u c) + 4 }] ∧
        SlipCounted u q 1 (coreTick s u c) t' ∧ CoreFrame u [] (coreTick s u c) t') ∧
    (syncReady (coreTick s u c) u 0x41 = none → ∃ t', exec (.barrier u c) s = .next t' ∧ Touches [.alertN] (coreTick s u c) t') := by
  have hd := dieOf_lt hu
  refine ⟨fun q hq hno => ?_, fun q hq hno => ?_, fun hq => ?_⟩
  · have hsent := barrierSent_sends hd (coreTick s u c) q
    obtain ⟨t', ht, hend⟩ := onCore_next_touches hp hu hsent.fields (by decide)
    refine ⟨t', ?_, hsent.ended hend⟩
    rw [exec_barrier_of_ready hq, barrierStarted, if_neg (by simp [hno]), ht]
  · obtain ⟨t', ht, hend, hframe⟩ := onCore_next_frame hp hu (coreFrame_syncStart hd (coreTick s u c) q (some 4)) (by decide)
    have hset : Touches [.cores, .alertN] (heldSlip (coreTick s u c) u q) t' :=
      ((touches_syncStart ..).mono rfl).trans (hend.mono rfl)
    refine ⟨t', ?_, ?_, ?_, hframe⟩
    · rw [exec_barrier_of_ready hq, barrierStarted, if_pos hno, ht]
    · rw [hend.coreAt_eq (by decide), coreAt_syncStart, if_pos rfl]
      rfl
    · exact (slipCounted_countSlip (by decide) _ q).congr (hset.same .regs (by decide)) (hset.same .variant (by decide))
  · rw [exec_barrier_of_idle hq]
    exact onCore_next_idle hp hu

end Sys2Proof
end

section
/-! SUPPORT. The canopy's nodes: how an arrival is compared, joins its instance and completes it (O29). -/

namespace Sys2Proof

open Machine

/-! ### Instances as they are compared (R278, R279) -/

theorem sameMasks_self (i : BInst) : sameMasks i i = true := by simp [sameMasks]

theorem sameInst_self (i : BInst) : sameInst i i = true := by simp [sameInst, sameMasks_self]

theorem sameInst_bid {i j : BInst} (h : sameInst i j = true) : i.bid = j.bid := by
  simp only [sameInst, Bool.and_eq_true, beq_iff_eq] at h
  exact h.1.1

/-- The nodes' records of a partition: what is open, what it is compared with, and what is on its way. -/
structure NodesKept (p : Nat) (s t : State) : Prop where
  insts : (Machine.partAt t p).insts = (Machine.partAt s p).insts
  reach : (Machine.partAt t p).reach = (Machine.partAt s p).reach
  arrs : (Machine.partAt t p).arrs = (Machine.partAt s p).arrs

theorem NodesKept.refl {p : Nat} {s : State} : NodesKept p s s := ⟨rfl, rfl, rfl⟩

theorem NodesKept.trans {p : Nat} {s t r : State} (h : NodesKept p s t) (g : NodesKept p t r) : NodesKept p s r :=
  ⟨g.insts.trans h.insts, g.reach.trans h.reach, g.arrs.trans h.arrs⟩

theorem NodesKept.of_partAt {p : Nat} {s t : State} (h : Machine.partAt t p = Machine.partAt s p) : NodesKept p s t := by
  refine ⟨?_, ?_, ?_⟩ <;> rw [h]

/-- The fields that a node's fault may change: it is captured at its die or logged (R279, R630). -/
def faultFields : List Field := [.parts, .capSeen] ++ logFields

theorem nodesKept_capture (p : Nat) (s : State) (r : LogRec) : NodesKept p s (capture s r) := by
  obtain ⟨b, hb⟩ := (coreFrame_capture (u := 0) (l := []) s r).parts p
  refine ⟨?_, ?_, ?_⟩ <;> rw [hb]

theorem nodesKept_setPart {p : Nat} {s : State} (q : Nat) {x : PartSt} (hi : x.insts = (Machine.partAt s q).insts)
    (hr : x.reach = (Machine.partAt s q).reach) (ha : x.arrs = (Machine.partAt s q).arrs) : NodesKept p s (setPart s q x) := by
  by_cases h : p = q
  · subst h
    refine ⟨?_, ?_, ?_⟩ <;> rw [partAt_setPart] <;> assumption
  · exact .of_partAt (partAt_setPart_other _ _ _ _ h)

/-- A record of PLAN_FAULT that is raised marks its partitions and changes nothing else of them. -/
theorem nodesKept_raise {p : Nat} {s : State} {r : LogRec} (h : r.cls = 2) : NodesKept p s (raise s r) := by
  have hlog : NodesKept p s (logRec s r) := .of_partAt ((touches_logRec s r).partAt_eq (by decide) p)
  refine hlog.trans ?_
  rw [raise, escalate, if_pos h]
  refine List.foldlRecOn (motive := fun t => NodesKept p (logRec s r) t) _ _ .refl fun t ht q _ => ht.trans ?_
  split
  · exact nodesKept_setPart q rfl rfl rfl
  · exact .refl

theorem touches_raise {s : State} {r : LogRec} (h : r.cls = 2) : Touches (.parts :: logFields) s (raise s r) := by
  rw [raise, escalate, if_pos h]
  exact ((touches_logRec s r).mono rfl).trans (.foldl _ (fun t q => .ite ((touches_setPart ..).mono rfl) .refl) _ _)

theorem nodeRec_cls (s : State) (p level die cluster : Nat) (detail : List Byte) : (nodeRec s p level die cluster 0x0205 detail).cls = 2 := by
  unfold nodeRec
  split <;> rfl

theorem touches_nodeFault (s : State) (p level die cluster : Nat) (detail : List Byte) :
    Touches faultFields s (nodeFault s p level die cluster 0x0205 detail) :=
  .ite ((touches_capture ..).mono rfl) ((touches_raise (nodeRec_cls ..)).mono rfl)

theorem nodesKept_nodeFault (s : State) (p level die cluster : Nat) (detail : List Byte) :
    NodesKept p s (nodeFault s p level die cluster 0x0205 detail) := by
  unfold nodeFault
  dsimp only
  split
  · exact nodesKept_capture ..
  · exact nodesKept_raise (nodeRec_cls ..)

/-! ### An arrival is compared at each node that it reaches (R279) -/

/-- An instance that met a mismatch with the first arrival `i`. -/
def spoilInst (i k : BInst) : BInst := if sameInst k i then { k with bad := true } else k

/-- An arrival mismatches the first one, `i`, at the node of a LEVEL: the fault is noted and the first one's instances are spoilt. -/
def mismatchNoted (p u src : Nat) (a i : BInst) (level : Nat) (t : State) : State :=
  let w := nodeFault t p level (dieOf u) (u / 16 % 12) 0x0205
    (leBytes 1 a.bid ++ leBytes 1 i.scope ++ leBytes 2 i.src ++ leBytes 2 src ++ leBytes 1 p)
  setPart w p { Machine.partAt w p with insts := (Machine.partAt w p).insts.map (spoilInst i) }

/-- The comparison at the node of one LEVEL. -/
def compareLevel (p u src : Nat) (a : BInst) (t : State) (level : Nat) : State :=
  match firstAt t p a.bid level u with
  | none => t
  | some i => if sameMasks i a then t else mismatchNoted p u src a i level t

theorem compareAt_eq (p u src : Nat) (a : BInst) (levels : List Nat) (s : State) :
    compareAt p u src a levels s = levels.foldl (compareLevel p u src a) s := rfl

/-- The first arrival of the BID at each of these nodes agrees. -/
def Agrees (s : State) (p u : Nat) (a : BInst) (levels : List Nat) : Prop :=
  ∀ level ∈ levels, ∀ i, firstAt s p a.bid level u = some i → sameMasks i a = true

theorem agrees_of_reach {s : State} {p u : Nat} {a : BInst} (levels : List Nat)
    (h : ∀ k ∈ (Machine.partAt s p).reach, k.bid = a.bid → sameMasks k a = true) : Agrees s p u a levels := by
  intro level _ i hi
  have hbid := List.find?_some hi
  simp only [Bool.and_eq_true, beq_iff_eq] at hbid
  exact h i (List.mem_of_find?_eq_some hi) hbid.1

theorem compareLevel_of_agrees {p u src level : Nat} {a : BInst} {t : State}
    (h : ∀ i, firstAt t p a.bid level u = some i → sameMasks i a = true) : compareLevel p u src a t level = t := by
  unfold compareLevel
  split
  · rfl
  · next i hi => rw [if_pos (h i hi)]

theorem compareAt_of_agrees {s : State} {p u : Nat} {a : BInst} {levels : List Nat} (src : Nat) (h : Agrees s p u a levels) :
    compareAt p u src a levels s = s := by
  rw [compareAt_eq]
  exact List.foldlRecOn (motive := fun t => t = s) _ _ rfl fun t ht level hl => by
    rw [ht]
    exact compareLevel_of_agrees (h level hl)

theorem spoilt_bad_iff (s : State) (p u : Nat) (a : BInst) (levels : List Nat) :
    (spoilt s p u a levels).bad = true ↔ ∃ level ∈ levels, ∃ i, firstAt s p a.bid level u = some i ∧ sameMasks i a = false := by
  simp only [spoilt, List.any_eq_true]
  refine exists_congr fun level => and_congr_right fun _ => ?_
  cases firstAt s p a.bid level u <;> simp

theorem spoilt_of_agrees {s : State} {p u : Nat} {a : BInst} {levels : List Nat} (h : Agrees s p u a levels) :
    spoilt s p u a levels = { a with bad := false } := by
  have hgood : (spoilt s p u a levels).bad = false := by
    rw [← Bool.not_eq_true, spoilt_bad_iff]
    rintro ⟨level, hl, i, hi, hm⟩
    rw [h level hl i hi] at hm
    cases hm
  rw [← hgood]
  rfl

theorem firstAt_congr {s t : State} {p : Nat} (h : (Machine.partAt t p).reach = (Machine.partAt s p).reach) (bid level u : Nat) :
    firstAt t p bid level u = firstAt s p bid level u := by
  rw [firstAt, firstAt, h]

theorem touches_mismatchNoted (p u src : Nat) (a i : BInst) (level : Nat) (t : State) :
    Touches faultFields t (mismatchNoted p u src a i level t) :=
  (touches_nodeFault ..).trans ((touches_setPart ..).mono rfl)

/-- A mismatch spoils the instances of the first arrival, and leaves what is compared with and what is on its way. -/
theorem partAt_mismatchNoted (p u src : Nat) (a i : BInst) (level : Nat) (t : State) :
    let x := Machine.partAt (mismatchNoted p u src a i level t) p
    x.insts = (Machine.partAt t p).insts.map (spoilInst i) ∧ x.reach = (Machine.partAt t p).reach ∧ x.arrs = (Machine.partAt t p).arrs := by
  obtain ⟨hinsts, hreach, harrs⟩ := nodesKept_nodeFault t p level (dieOf u) (u / 16 % 12)
    (leBytes 1 a.bid ++ leBytes 1 i.scope ++ leBytes 2 i.src ++ leBytes 2 src ++ leBytes 1 p)
  unfold mismatchNoted
  dsimp only
  rw [partAt_setPart]
  exact ⟨by rw [hinsts], hreach, harrs⟩

/-- What the comparison at a node can do: nothing, or a mismatch is noted. -/
theorem compareLevel_cases (p u src : Nat) (a : BInst) (t : State) (level : Nat) :
    compareLevel p u src a t level = t ∨ ∃ i, compareLevel p u src a t level = mismatchNoted p u src a i level t := by
  unfold compareLevel
  split
  · exact .inl rfl
  · next i _ =>
    split
    · exact .inl rfl
    · exact .inr ⟨i, rfl⟩

/-- What the comparisons leave: only faults are noted, and what is compared with and what is on its way stays. -/
structure Compared (p : Nat) (s t : State) : Prop where
  fields : Touches faultFields s t
  reach : (Machine.partAt t p).reach = (Machine.partAt s p).reach
  arrs : (Machine.partAt t p).arrs = (Machine.partAt s p).arrs

theorem Compared.level {p : Nat} {s t : State} (h : Compared p s t) (u src : Nat) (a : BInst) (level : Nat) :
    Compared p s (compareLevel p u src a t level) := by
  obtain heq | ⟨i, heq⟩ := compareLevel_cases p u src a t level
  · rwa [heq]
  · obtain ⟨-, hreach, harrs⟩ := partAt_mismatchNoted p u src a i level t
    rw [heq]
    exact ⟨h.fields.trans (touches_mismatchNoted ..), hreach.trans h.reach, harrs.trans h.arrs⟩

theorem compared_compareAt (p u src : Nat) (a : BInst) (levels : List Nat) (s : State) : Compared p s (compareAt p u src a levels s) :=
  List.foldlRecOn (motive := fun t => Compared p s t) levels (compareLevel p u src a) ⟨.refl, rfl, rfl⟩ fun _ ht level _ => ht.level u src a level

/-- Every instance of `k` is spoilt. -/
def AllSpoilt (k : BInst) (l : List BInst) : Prop := ∀ j ∈ l, sameInst j k = true → j.bad = true

theorem sameInst_spoilInst (i j k : BInst) : sameInst (spoilInst i j) k = sameInst j k := by
  unfold spoilInst
  split <;> rfl

theorem AllSpoilt.map_spoilInst {k : BInst} {l : List BInst} (h : AllSpoilt k l) (i : BInst) : AllSpoilt k (l.map (spoilInst i)) := by
  intro j hj hk
  obtain ⟨m, hm, rfl⟩ := List.mem_map.1 hj
  rw [sameInst_spoilInst] at hk
  unfold spoilInst
  split
  · rfl
  · exact h m hm hk

theorem allSpoilt_map_spoilInst (k : BInst) (l : List BInst) : AllSpoilt k (l.map (spoilInst k)) := by
  intro j hj hk
  obtain ⟨m, -, rfl⟩ := List.mem_map.1 hj
  rw [sameInst_spoilInst] at hk
  rw [spoilInst, if_pos hk]

/-- Where the first arrival of the BID at a node does not agree, every instance of it is spoilt. -/
theorem allSpoilt_compareAt {s : State} {p u level : Nat} {a k : BInst} {levels : List Nat} (src : Nat) (hl : level ∈ levels)
    (hk : firstAt s p a.bid level u = some k) (hm : sameMasks k a = false) :
    AllSpoilt k (Machine.partAt (compareAt p u src a levels s) p).insts := by
  have hreached : ∀ t, Compared p s t → AllSpoilt k (Machine.partAt (compareLevel p u src a t level) p).insts := fun t ht => by
    have hfirst : firstAt t p a.bid level u = some k := (firstAt_congr ht.reach ..).trans hk
    rw [compareLevel, hfirst]
    dsimp only
    rw [if_neg (by simp [hm]), (partAt_mismatchNoted p u src a k level t).1]
    exact allSpoilt_map_spoilInst k _
  have hkept : ∀ t b, AllSpoilt k (Machine.partAt t p).insts → AllSpoilt k (Machine.partAt (compareLevel p u src a t b) p).insts :=
    fun t b h => by
      obtain heq | ⟨i, heq⟩ := compareLevel_cases p u src a t b
      · rwa [heq]
      · rw [heq, (partAt_mismatchNoted p u src a i b t).1]
        exact h.map_spoilInst i
  exact foldl_reaches (Q := Compared p s) (P := fun t => AllSpoilt k (Machine.partAt t p).insts) hl (fun t b ht => ht.level u src a b)
    hreached hkept ⟨.refl, rfl, rfl⟩

/-! ### An arrival joins its instance (R279) -/

/-- An instance with an arrival `a` of its own. -/
def joinedInst (a i : BInst) : BInst :=
  if sameInst i a then { i with cores := i.cores ++ a.cores, kids := i.kids ++ a.kids, bad := i.bad || a.bad } else i

/-- The open instances once the arrival has joined or opened one. -/
def joined (a : BInst) (l : List BInst) : List BInst := if l.any (fun i => sameInst i a) then l.map (joinedInst a) else l ++ [a]

theorem joinInst_eq (s : State) (p : Nat) (a : BInst) :
    joinInst s p a = setPart s p { Machine.partAt s p with
      reach := (Machine.partAt s p).reach ++ [a], insts := joined a (Machine.partAt s p).insts } := by
  unfold joinInst joined
  dsimp only
  split <;> rfl

theorem sameInst_joinedInst (a i k : BInst) : sameInst (joinedInst a i) k = sameInst i k := by
  unfold joinedInst
  split <;> rfl

theorem joined_of_new {a : BInst} {l : List BInst} (h : ∀ i ∈ l, i.bid ≠ a.bid) : joined a l = l ++ [a] := by
  refine if_neg ?_
  simp only [List.any_eq_true, not_exists, not_and]
  exact fun i hi hs => h i hi (sameInst_bid hs)

theorem joined_of_lone {a i : BInst} (h : sameInst i a = true) :
    joined a [i] = [{ i with cores := i.cores ++ a.cores, kids := i.kids ++ a.kids, bad := i.bad || a.bad }] := by
  simp [joined, joinedInst, h]

/-- An arrival that is spoilt spoils the instance that it joins or opens. -/
theorem exists_bad_joined {a : BInst} (h : a.bad = true) (l : List BInst) : ∃ j ∈ joined a l, sameInst j a = true ∧ j.bad = true := by
  unfold joined
  split
  next hany =>
    obtain ⟨i, hi, hs⟩ := List.any_eq_true.1 hany
    refine ⟨_, List.mem_map_of_mem hi, by rwa [sameInst_joinedInst], ?_⟩
    rw [joinedInst, if_pos hs]
    simp [h]
  next => exact ⟨a, by simp, sameInst_self a, h⟩

theorem AllSpoilt.joined {k a : BInst} {l : List BInst} (h : AllSpoilt k l) (ha : a.bad = true) : AllSpoilt k (joined a l) := by
  unfold Sys2Proof.joined
  split
  next =>
    intro j hj hk
    obtain ⟨i, hi, rfl⟩ := List.mem_map.1 hj
    rw [sameInst_joinedInst] at hk
    unfold joinedInst
    split
    · simp [ha]
    · exact h i hi hk
  next =>
    intro j hj hk
    obtain hj | hj := List.mem_append.1 hj
    · exact h j hj hk
    · rwa [List.mem_singleton.1 hj]

/-! ### A complete instance gets its release (R280) -/

/-- What settling an instance does: instances may get their release cycle, and messages may leave on links. -/
structure Settled (p : Nat) (s t : State) : Prop where
  fields : Touches [.parts, .links, .out] s t
  others : OtherParts p s t
  arrs : (Machine.partAt t p).arrs = (Machine.partAt s p).arrs
  insts : ∃ f : BInst → Option Nat, (Machine.partAt t p).insts = (Machine.partAt s p).insts.map (fun k => { k with relAt := f k })

theorem Settled.of_sent {p : Nat} {s t : State} (h : Touches [.links, .out] s t) : Settled p s t := by
  have hpart : ∀ q, Machine.partAt t q = Machine.partAt s q := h.partAt_eq (by decide)
  refine ⟨h.mono rfl, fun q _ => hpart q, by rw [hpart], BInst.relAt, ?_⟩
  rw [hpart, List.map_id']

/-- The instance of `i` gets the release cycle `c`. -/
def releaseSet (p : Nat) (i : BInst) (t : State) (c : Nat) : State :=
  setPart t p { Machine.partAt t p with insts := (Machine.partAt t p).insts.map (fun k => if sameInst k i then { k with relAt := some c } else k) }

theorem settled_releaseSet (p : Nat) (i : BInst) (t : State) (c : Nat) : Settled p t (releaseSet p i t c) := by
  refine ⟨(touches_setPart ..).mono rfl, fun q hq => partAt_setPart_other _ _ _ _ hq, by rw [releaseSet, partAt_setPart],
    fun k => if sameInst k i then some c else k.relAt, ?_⟩
  rw [releaseSet, partAt_setPart]
  refine List.map_congr_left fun k _ => ?_
  cases h : sameInst k i <;> simp [h]

theorem touches_releaseKids (s : State) (p bid origin hops : Nat) : Touches [.links, .out] s (releaseKids s p bid origin hops) :=
  .foldl _ (fun _ _ => touches_sendMsg ..) _ _

theorem Settled.after_sent {p : Nat} {s t r : State} (h : Touches [.links, .out] s t) (g : Settled p t r) : Settled p s r := by
  have hpart : ∀ q, Machine.partAt t q = Machine.partAt s q := h.partAt_eq (by decide)
  obtain ⟨f, hf⟩ := g.insts
  exact ⟨(h.mono rfl).trans g.fields, fun q hq => (g.others q hq).trans (hpart q), by rw [g.arrs, hpart], f, by rw [hf, hpart]⟩

/-- The root of the canopy releases at once, another package sends ARRIVE to its parent. -/
theorem settled_settleInst (s : State) (p : Nat) (key : BInst) (c : Nat) (kid : Bool) : Settled p s (settleInst s p key c kid) := by
  have hset : ∀ i t c, Settled p t (releaseSet p i t c) := settled_releaseSet p
  have hnone : Settled p s s := .of_sent .refl
  unfold settleInst
  split
  · exact hnone
  next i _ =>
    dsimp only
    split
    · exact hnone
    · split
      · exact hset i s _
      · exact hset i s _
      · exact hset i s _
      · split
        · exact hset i s _
        · split
          · exact hnone
          · split
            · exact (hset i _ _).after_sent (touches_releaseKids ..)
            · split
              · exact .of_sent (touches_sendMsg ..)
              · exact hnone

/-- An instance with no arrival of a core gets no release. -/
theorem settleInst_of_coreless {s : State} {p : Nat} {key : BInst} (h : ∀ i ∈ (Machine.partAt s p).insts, sameInst i key = true → i.cores = [])
    (c : Nat) (kid : Bool) : settleInst s p key c kid = s := by
  unfold settleInst
  split
  · rfl
  next i hi =>
    have hcores := h i (List.mem_of_find?_eq_some hi) (List.find?_some (p := fun k => sameInst k key) hi)
    have hnot : allArrived s p i = false := by simp [allArrived, hcores]
    dsimp only
    rw [if_pos (.inr (by simp [hnot]))]

end Sys2Proof
end

section
/-! SUPPORT. The commands of barrier arrivals and the settlement of O29. -/

namespace Sys2Proof

open Machine

/-! ### One arrival at the nodes -/

/-- The nodes take an arrival `a`, which core `u` or a child sent, at its LEVELs. -/
def arrived (s : State) (p u src : Nat) (a : BInst) (levels : List Nat) (c : Nat) (kid : Bool) : State :=
  settleInst (joinInst (compareAt p u src a levels s) p (spoilt s p u a levels)) p a c kid

/-- An arrival that agrees with the first ones of its BID notes no fault: it joins or opens its instance, which may get its release. -/
theorem settled_arrived {s : State} {p u : Nat} {a : BInst} {levels : List Nat} (src c : Nat) (kid : Bool) (h : Agrees s p u a levels)
    (hbad : a.bad = false) :
    Touches [.parts, .links, .out] s (arrived s p u src a levels c kid) ∧ OtherParts p s (arrived s p u src a levels c kid) ∧
      (Machine.partAt (arrived s p u src a levels c kid) p).arrs = (Machine.partAt s p).arrs ∧
      ∃ f : BInst → Option Nat, (Machine.partAt (arrived s p u src a levels c kid) p).insts =
        (joined a (Machine.partAt s p).insts).map (fun k => { k with relAt := f k }) := by
  have harrived : arrived s p u src a levels c kid = settleInst (setPart s p { Machine.partAt s p with
      reach := (Machine.partAt s p).reach ++ [a], insts := joined a (Machine.partAt s p).insts }) p a c kid := by
    rw [arrived, compareAt_of_agrees src h, spoilt_of_agrees h, ← hbad, joinInst_eq]
  rw [harrived]
  obtain ⟨hfields, hothers, harrs, f, hinsts⟩ := settled_settleInst (setPart s p { Machine.partAt s p with
    reach := (Machine.partAt s p).reach ++ [a], insts := joined a (Machine.partAt s p).insts }) p a c kid
  rw [partAt_setPart] at harrs hinsts
  exact ⟨Touches.trans ((touches_setPart ..).mono rfl) hfields, fun q hq => (hothers q hq).trans (partAt_setPart_other _ _ _ _ hq), harrs, f,
    hinsts⟩

/-- An arrival that does not agree with the first one of its BID at a node: every instance of either is spoilt. -/
theorem spoilt_arrived {s : State} {p u level : Nat} {a k : BInst} {levels : List Nat} (src c : Nat) (kid : Bool) (hl : level ∈ levels)
    (hk : firstAt s p a.bid level u = some k) (hm : sameMasks k a = false) :
    let t := arrived s p u src a levels c kid
    Touches (faultFields ++ [.links]) s t ∧ (Machine.partAt t p).arrs = (Machine.partAt s p).arrs ∧
      (∃ j ∈ (Machine.partAt t p).insts, sameInst j a = true ∧ j.bad = true) ∧ AllSpoilt k (Machine.partAt t p).insts := by
  have hbad : (spoilt s p u a levels).bad = true := (spoilt_bad_iff ..).2 ⟨level, hl, k, hk, hm⟩
  have hcomp := compared_compareAt p u src a levels s
  have hall := allSpoilt_compareAt src hl hk hm
  unfold arrived
  rw [joinInst_eq]
  generalize compareAt p u src a levels s = w at hcomp hall ⊢
  generalize hx : { Machine.partAt w p with
    reach := (Machine.partAt w p).reach ++ [spoilt s p u a levels],
    insts := joined (spoilt s p u a levels) (Machine.partAt w p).insts } = x
  have hinsts : x.insts = joined (spoilt s p u a levels) (Machine.partAt w p).insts := by rw [← hx]
  have harrs : x.arrs = (Machine.partAt w p).arrs := by rw [← hx]
  have hsettled := settled_settleInst (setPart w p x) p a c kid
  obtain ⟨f, hf⟩ := hsettled.insts
  rw [partAt_setPart, hinsts] at hf
  refine ⟨?_, ?_, ?_, ?_⟩
  · exact (hcomp.fields.mono rfl).trans (((touches_setPart ..).mono rfl).trans (hsettled.fields.mono rfl))
  · rw [hsettled.arrs, partAt_setPart, harrs, hcomp.arrs]
  · obtain ⟨j, hj, hs, hb⟩ := exists_bad_joined hbad (Machine.partAt w p).insts
    rw [hf]
    exact ⟨_, List.mem_map_of_mem hj, hs, hb⟩
  · rw [hf]
    intro j hj hs
    obtain ⟨m, hm, rfl⟩ := List.mem_map.1 hj
    exact hall.joined hbad m hm hs

/-! ### BARRIER_ARRIVE (R236, R278, R279) -/

/-- The partition without its oldest arrival. -/
def arrivalTaken (t : State) (p : Nat) (rest : List BArr) : State := setPart t p { Machine.partAt t p with arrs := rest }

theorem barrierArrive_of_due {t : State} {p : Nat} {r : BArr} {rest : List BArr} (h : (Machine.partAt t p).arrs = r :: rest)
    (hc : r.cyc ≤ absNow t) (hs : ¬regionStill t (nodeRegion (coreArrival t r)) = true) :
    barrierArrive t p = arrived (arrivalTaken t p rest) p r.u (unitCode r.u 0) (coreArrival t r) (pathLevels (coreArrival t r).scope) r.cyc false := by
  rw [barrierArrive, h]
  dsimp only
  rw [if_neg (by rintro (h | h); exacts [by omega, hs h])]
  rfl

theorem barrierArrive_of_early {t : State} {p : Nat} {r : BArr} {rest : List BArr} (h : (Machine.partAt t p).arrs = r :: rest)
    (hc : absNow t < r.cyc ∨ regionStill t (nodeRegion (coreArrival t r)) = true) : barrierArrive t p = t := by
  rw [barrierArrive, h]
  dsimp only
  rw [if_pos hc]

theorem exec_barrierArrive_of_running {s : State} {p c : Nat} (h : planState (tick s c) p = 3) :
    exec (.barrierArrive p c) s = onPart s p (barrierArrive (tick s c) p) := by
  change onPart s p (if planState (tick s c) p = 3 then barrierArrive (tick s c) p else tick s c) = _
  rw [if_pos h]

/-- The outcome of a partition's command that is carried out at its cycle. -/
theorem onPart_next_tick {s w : State} {p c : Nat} {l : List Field} (hp : s.powered = true) (hm : p ∈ partitions s) (h : Touches l (tick s c) w)
    (hl : l.all (fun f => decide (f ≠ .pending ∧ f ≠ .variant)) = true) : ∃ t, onPart s p w = .next t ∧ Touches [.alertN] w t := by
  refine onPart_next (l := timeFields ++ l) hp hm ((touches_tick s c).subset (List.subset_append_left ..) |>.trans
    (h.subset (List.subset_append_right ..))) ?_
  rw [List.all_append, hl]
  rfl

/-- The outcome of a link's command that is carried out at its cycle. -/
theorem onLink_next_tick {s w : State} {l c : Nat} {k : List Field} (hp : s.powered = true) (hl : l < linksOf s.variant)
    (h : Touches k (tick s c) w) (hk : k.all (fun f => decide (f ≠ .pending ∧ f ≠ .variant)) = true) :
    ∃ t, onLink s l w = .next t ∧ Touches [.alertN] w t := by
  have hnot : ∀ f ∈ k, f ≠ .pending ∧ f ≠ .variant := fun f hf => by simpa using List.all_eq_true.1 hk f hf
  have htick := touches_tick s c
  obtain ⟨t, ht, hend⟩ := done_next hp ((h.same .pending fun hf => (hnot _ hf).1 rfl).trans (htick.same .pending (by decide)))
    ((h.same .variant fun hf => (hnot _ hf).2 rfl).trans (htick.same .variant (by decide)))
  exact ⟨t, by rw [onLink, if_pos hl, ht], hend⟩

theorem OtherParts.ended {p : Nat} {s w t : State} (h : OtherParts p s w) (g : Touches [.alertN] w t) : OtherParts p s t :=
  fun q hq => (g.partAt_eq (by decide) q).trans (h q hq)

/-- A due arrival that agrees with what its nodes hold. -/
theorem barrierArrive_agrees {s : State} {p c : Nat} {r : BArr} {rest : List BArr} (hp : s.powered = true) (hm : p ∈ partitions s)
    (hrun : planState (tick s c) p = 3) (h : (Machine.partAt (tick s c) p).arrs = r :: rest) (hc : r.cyc ≤ absNow (tick s c))
    (hs : ¬regionStill (tick s c) (nodeRegion (coreArrival (tick s c) r)) = true)
    (ha : ∀ k ∈ (Machine.partAt (tick s c) p).reach, k.bid = (coreArrival (tick s c) r).bid → sameMasks k (coreArrival (tick s c) r) = true) :
    ∃ t', ∃ f : BInst → Option Nat, exec (.barrierArrive p c) s = .next t' ∧ (Machine.partAt t' p).arrs = rest ∧
      (Machine.partAt t' p).insts =
        (joined (coreArrival (tick s c) r) (Machine.partAt (tick s c) p).insts).map (fun k => { k with relAt := f k }) ∧
      OtherParts p (tick s c) t' ∧ Touches [.parts, .links, .out, .alertN] (tick s c) t' := by
  have hexec : exec (.barrierArrive p c) s = onPart s p (barrierArrive (tick s c) p) := exec_barrierArrive_of_running hrun
  have hends : ∀ w, Touches [.parts, .links, .out] (tick s c) w → ∃ t, onPart s p w = .next t ∧ Touches [.alertN] w t :=
    fun w hw => onPart_next_tick hp hm hw (by decide)
  rw [hexec]
  generalize tick s c = t at *
  have hpart : Machine.partAt (arrivalTaken t p rest) p = { Machine.partAt t p with arrs := rest } := partAt_setPart ..
  have hagrees : Agrees (arrivalTaken t p rest) p r.u (coreArrival t r) (pathLevels (coreArrival t r).scope) :=
    agrees_of_reach _ (by rwa [hpart])
  obtain ⟨hfields, hothers, harrs, f, hinsts⟩ := settled_arrived (unitCode r.u 0) r.cyc false hagrees rfl
  rw [barrierArrive_of_due h hc hs]
  rw [hpart] at harrs hinsts
  obtain ⟨t', ht, hend⟩ := hends _ (Touches.trans ((touches_setPart ..).mono rfl) hfields)
  refine ⟨t', f, ht, ?_, ?_, OtherParts.ended (fun q hq => (hothers q hq).trans (partAt_setPart_other _ _ _ _ hq)) hend, ?_⟩
  · rw [hend.partAt_eq (by decide), harrs]
  · rw [hend.partAt_eq (by decide), hinsts]
  · exact Touches.trans ((touches_setPart ..).mono rfl) ((hfields.mono rfl).trans (hend.mono rfl))

/-- A due arrival that does not agree with the first one of its BID at a node. -/
theorem barrierArrive_mismatches {s : State} {p c level : Nat} {k : BInst} {r : BArr} {rest : List BArr} (hp : s.powered = true)
    (hm : p ∈ partitions s) (hrun : planState (tick s c) p = 3) (h : (Machine.partAt (tick s c) p).arrs = r :: rest)
    (hc : r.cyc ≤ absNow (tick s c)) (hs : ¬regionStill (tick s c) (nodeRegion (coreArrival (tick s c) r)) = true)
    (hl : level ∈ pathLevels (coreArrival (tick s c) r).scope)
    (hk : firstAt (tick s c) p (coreArrival (tick s c) r).bid level r.u = some k) (hne : sameMasks k (coreArrival (tick s c) r) = false) :
    ∃ t', exec (.barrierArrive p c) s = .next t' ∧ (Machine.partAt t' p).arrs = rest ∧
      (∃ j ∈ (Machine.partAt t' p).insts, sameInst j (coreArrival (tick s c) r) = true ∧ j.bad = true) ∧
      AllSpoilt k (Machine.partAt t' p).insts ∧ t'.cores = (tick s c).cores ∧ t'.mem = (tick s c).mem := by
  have hexec : exec (.barrierArrive p c) s = onPart s p (barrierArrive (tick s c) p) := exec_barrierArrive_of_running hrun
  have hends : ∀ w, Touches (faultFields ++ [.links]) (tick s c) w → ∃ t, onPart s p w = .next t ∧ Touches [.alertN] w t :=
    fun w hw => onPart_next_tick hp hm hw (by decide)
  rw [hexec]
  generalize tick s c = t at *
  have hpart : Machine.partAt (arrivalTaken t p rest) p = { Machine.partAt t p with arrs := rest } := partAt_setPart ..
  have hfirst : firstAt (arrivalTaken t p rest) p (coreArrival t r).bid level r.u = some k := by
    rw [← hk]
    exact firstAt_congr (by rw [hpart]) ..
  obtain ⟨hfields, harrs, hbad, hall⟩ := spoilt_arrived (unitCode r.u 0) r.cyc false hl hfirst hne
  rw [barrierArrive_of_due h hc hs]
  rw [hpart] at harrs
  have hw := Touches.trans ((touches_setPart t p { Machine.partAt t p with arrs := rest }).mono rfl) hfields
  obtain ⟨t', ht, hend⟩ := hends _ hw
  have hsame := hend.partAt_eq (by decide) p
  rw [← hsame] at harrs hbad hall
  exact ⟨t', ht, harrs, hbad, hall, (hend.same .cores (by decide)).trans (hw.same .cores (by decide)),
    (hend.same .mem (by decide)).trans (hw.same .mem (by decide))⟩

/-! ### ARRIVE_RX (R279, R280, R288) -/

/-- An ARRIVE of a child as an instance of its own. -/
def childArrival (beat l : Nat) (m : Arrive) : BInst :=
  { bid := m.bid, scope := m.scope, node := 0, mb := m.mb, cmask := m.cmask, kmask := m.kmask, dmask := m.dmask, src := 0x8000 + m.origin,
    cores := [], kids := [l], beat := beat, relAt := none, bad := false }

theorem arriveRx_of_child {t : State} {p l : Nat} (m : Arrive) (h : l ∈ canopyKids t p) :
    arriveRx t p l m = arrived t p (p * 192) (0x8000 + m.origin) (childArrival t.beat l m) [4] (nodeNow t) true := if_neg (not_not.2 h)

theorem exec_arriveRx_of_running {s : State} {l c : Nat} (m : Arrive) (h : planState (tick s c) (partLow (tick s c) (l / 16)) = 3) :
    exec (.arriveRx l c m) s = onLink s l (arriveRx (tick s c) (partLow (tick s c) (l / 16)) l m) := by
  change onLink s l (if planState (tick s c) (partLow (tick s c) (l / 16)) = 3 then
    arriveRx (tick s c) (partLow (tick s c) (l / 16)) l m else tick s c) = _
  rw [if_pos h]

/-- An ARRIVE whose BID no open instance has opens one, with no core's arrival in it. -/
theorem arriveRx_opens {s : State} {l c : Nat} {m : Arrive} (hp : s.powered = true) (hl : l < linksOf s.variant)
    (hrun : planState (tick s c) (partLow (tick s c) (l / 16)) = 3) (hk : l ∈ canopyKids (tick s c) (partLow (tick s c) (l / 16)))
    (hnew : ∀ i ∈ (Machine.partAt (tick s c) (partLow (tick s c) (l / 16))).insts ++ (Machine.partAt (tick s c) (partLow (tick s c) (l / 16))).reach,
      i.bid ≠ m.bid) :
    ∃ t' n, exec (.arriveRx l c m) s = .next t' ∧
      { childArrival (tick s c).beat l m with relAt := n } ∈ (Machine.partAt t' (partLow (tick s c) (l / 16))).insts ∧
      OtherParts (partLow (tick s c) (l / 16)) (tick s c) t' ∧ Touches [.parts, .links, .out, .alertN] (tick s c) t' := by
  have hexec : exec (.arriveRx l c m) s = onLink s l (arriveRx (tick s c) (partLow (tick s c) (l / 16)) l m) := exec_arriveRx_of_running m hrun
  have hends : ∀ w, Touches [.parts, .links, .out] (tick s c) w → ∃ t, onLink s l w = .next t ∧ Touches [.alertN] w t :=
    fun w hw => onLink_next_tick hp hl hw (by decide)
  rw [hexec, arriveRx_of_child m hk]
  generalize tick s c = t at *
  generalize partLow t (l / 16) = p at *
  have hagrees : Agrees t p (p * 192) (childArrival t.beat l m) [4] :=
    agrees_of_reach _ fun i hi hb => absurd hb (hnew i (List.mem_append_right _ hi))
  obtain ⟨hfields, hothers, -, f, hinsts⟩ := settled_arrived (0x8000 + m.origin) (nodeNow t) true hagrees rfl
  rw [joined_of_new fun i hi => hnew i (List.mem_append_left _ hi)] at hinsts
  obtain ⟨t', ht, hend⟩ := hends _ hfields
  refine ⟨t', f (childArrival t.beat l m), ht, ?_, hothers.ended hend, (hfields.mono rfl).trans (hend.mono rfl)⟩
  rw [hend.partAt_eq (by decide), hinsts]
  exact List.mem_map_of_mem (f := fun k : BInst => { k with relAt := f k }) (List.mem_append_right _ (List.mem_singleton_self _))

/-! ### O29 -/

/-- Settles O29: what a BARRIER sends (`barrier_sends`), then an arrival that agrees (`barrierArrive_agrees`) or does not
(`barrierArrive_mismatches`), and the ARRIVE of a child (`arriveRx_opens`). -/
theorem barrierArrivalsOpenAndJoin : Obligations.BarrierArrivalsOpenAndJoin := by
  unfold Obligations.BarrierArrivalsOpenAndJoin
  intro netFields
  refine ⟨?_, ?_, ?_⟩
  · intro s u c hp hu t x p next
    obtain ⟨hsent, hnoop, hidle⟩ := barrier_sends (c := c) hp hu
    refine ⟨fun q hq hno => ?_, hnoop, hidle⟩
    obtain ⟨t', ht, h⟩ := hsent q hq hno
    exact ⟨t', ht, h.arrs, h.others, h.core, h.count, h.slip, h.fields, h.rest, h.counts⟩
  · intro s p c r rest hp hm t a q hrun harrs still
    refine ⟨fun hc hs hnew => ?_, fun i hc hs hone hsame hreach => ?_, fun k level hc hs hl hk hne => ?_, fun h => ?_⟩
    · obtain ⟨t', f, ht, hrest, hinsts, hothers, hfields⟩ := barrierArrive_agrees hp hm hrun harrs hc hs
        fun k hk hb => absurd hb (hnew k (List.mem_append_right _ hk))
      rw [joined_of_new fun i hi => hnew i (List.mem_append_left _ hi)] at hinsts
      refine ⟨t', ht, hrest, ⟨{ a with relAt := f a }, ?_, sameInst_self a, rfl, rfl, rfl⟩, hothers, hfields⟩
      rw [hinsts]
      exact List.mem_map_of_mem (f := fun k : BInst => { k with relAt := f k }) (List.mem_append_right _ (List.mem_singleton_self _))
    · obtain ⟨t', f, ht, hrest, hinsts, hothers, hfields⟩ := barrierArrive_agrees hp hm hrun harrs hc hs hreach
      have hlone : (Machine.partAt (tick s c) p).insts = [i] := hone
      rw [hlone, joined_of_lone hsame, List.map_singleton] at hinsts
      exact ⟨t', _, ht, hrest, hinsts, rfl, List.append_nil _, Bool.or_false _, hothers, hfields⟩
    · exact barrierArrive_mismatches hp hm hrun harrs hc hs hl hk hne
    · have hexec : exec (.barrierArrive p c) s = onPart s p t := by
        rw [exec_barrierArrive_of_running hrun, barrierArrive_of_early harrs h]
      obtain ⟨t', ht, hend⟩ := onPart_next_tick (l := []) (c := c) hp hm .refl rfl
      exact ⟨t', hexec.trans ht, hend⟩
  · intro s l c m hp hl t p hrun
    refine ⟨fun hk => ?_, fun hk hnew => ?_⟩
    · have hexec : exec (.arriveRx l c m) s = onLink s l t := by
        rw [exec_arriveRx_of_running m hrun, arriveRx, if_pos hk]
      obtain ⟨t', ht, hend⟩ := onLink_next_tick (k := []) (c := c) hp hl .refl rfl
      exact ⟨t', hexec.trans ht, hend⟩
    · obtain ⟨t', n, ht, hmem, hothers, hfields⟩ := arriveRx_opens hp hl hrun hk hnew
      exact ⟨t', _, ht, hmem, rfl, rfl, rfl, rfl, rfl, rfl, rfl, rfl, rfl, hothers, hfields⟩

end Sys2Proof
end


section
/-! SUPPORT. What the cycles of the engines, the ports and the landing writes change, operation by operation: of the cores only those that
work, of the entries only counts, of the partitions only the mark of a plan fault, of the links only released receive units, and of the memory
nothing unless a write is on its way (R225, R236). -/

namespace Sys2Proof

open Machine

/-! ### Bounds on the work of a cycle -/

/-- The first entries of the counts that a cycle at a core writes, die by die. -/
def cycleCounts : List Nat := [0x3420, 0x4010, 0x7840, 0x7848, 0x7858, 0x7860]

/-- What bounds the cycles: the entries that they may write, the dies that exist, and whether memory may be written. -/
structure Bounds where
  may : Nat → Bool
  die : Nat → Prop
  writes : Prop
  noted : ∀ j < 256, may (rkey 0x7000 j) = true
  counted : ∀ d, die d → ∀ i ∈ cycleCounts, ∀ j < 256, may (rkey (i + d) j) = true

/-- A write on its way is within the bounds. -/
def Bounds.Lands (w : Bounds) (l : Landing) : Prop := w.writes ∧ ∀ k, l.pkt = some k → w.die k.part

/-- A core's writes on their way, and those of its VXE, are within the bounds. -/
def Bounds.Core (w : Bounds) (x : CoreSt) : Prop := (∀ l ∈ x.lands, w.Lands l) ∧ (x.vrun ≠ [] → w.writes)

/-- The storage errors and the cores of `L` are within the bounds. -/
structure Bounds.Fits (w : Bounds) (L : List Nat) (s : State) : Prop where
  errs : ∀ e ∈ s.ecc, w.die (dieAt e.1)
  dies : ∀ u ∈ L, w.die (dieOf u)
  cores : ∀ u ∈ L, w.Core (coreAt s u)

/-- What the cores of `L` may have done within the bounds. -/
structure Kept (w : Bounds) (L : List Nat) (s t : State) : Prop where
  fits : w.Fits L t
  keys : ∀ e ∈ t.cores, e.1 ∈ L ∨ e ∈ s.cores
  others : ∀ u, u ∉ L → coreAt t u = coreAt s u
  memory : ¬w.writes → t.mem = s.mem
  errs : ∀ e ∈ t.ecc, e ∈ s.ecc
  counts : RegsKept w.may s t
  parts : ∀ q, ∃ b, Machine.partAt t q = { Machine.partAt s q with planFault := b }
  links : ∀ l, ∃ a b c, linkAt t l = { linkAt s l with crSent := a, unsent := b, poolUsed := c }

/-- What the cores of `L` do within one cycle, once the bounds hold. -/
structure Worked (w : Bounds) (L : List Nat) (s t : State) : Prop where
  run : w.Fits L s → Kept w L s t ∧ t.cyc = s.cyc

variable {w : Bounds} {L : List Nat} {s t r : State} {u : Nat}

theorem Kept.trans (h : Kept w L s t) (g : Kept w L t r) : Kept w L s r where
  fits := g.fits
  keys e he := (g.keys e he).elim .inl (h.keys e)
  others u hu := (g.others u hu).trans (h.others u hu)
  memory hw := (g.memory hw).trans (h.memory hw)
  errs e he := h.errs e (g.errs e he)
  counts := h.counts.trans g.counts
  parts q := by
    obtain ⟨b, hb⟩ := h.parts q
    obtain ⟨b', hb'⟩ := g.parts q
    exact ⟨b', by rw [hb', hb]⟩
  links l := by
    obtain ⟨a, b, c, hl⟩ := h.links l
    obtain ⟨a', b', c', hl'⟩ := g.links l
    exact ⟨a', b', c', by rw [hl', hl]⟩

/-- Where cores and links are the same, what is left is memory, errors, counts and plan faults. -/
theorem Kept.of_same (hf : w.Fits L s) (hc : t.cores = s.cores) (hl : t.links = s.links) (hm : ¬w.writes → t.mem = s.mem)
    (he : ∀ e ∈ t.ecc, e ∈ s.ecc) (hr : RegsKept w.may s t)
    (hp : ∀ q, ∃ b, Machine.partAt t q = { Machine.partAt s q with planFault := b }) : Kept w L s t where
  fits := ⟨fun e h => hf.errs e (he e h), hf.dies, fun u hu => by rw [coreAt, hc]; exact hf.cores u hu⟩
  keys e h := .inr (hc ▸ h)
  others u _ := by rw [coreAt, hc, ← coreAt]
  memory := hm
  errs := he
  counts := hr
  parts := hp
  links l := ⟨(linkAt s l).crSent, (linkAt s l).unsent, (linkAt s l).poolUsed, by rw [linkAt, hl, ← linkAt]⟩

theorem Kept.refl (hf : w.Fits L s) : Kept w L s s :=
  .of_same hf rfl rfl (fun _ => rfl) (fun _ h => h) .refl fun q => ⟨(Machine.partAt s q).planFault, rfl⟩

theorem Worked.refl : Worked w L s s := ⟨fun hf => ⟨.refl hf, rfl⟩⟩

theorem Worked.trans (h : Worked w L s t) (g : Worked w L t r) : Worked w L s r := ⟨fun hf =>
  have ⟨hst, hc⟩ := h.run hf
  have ⟨htr, hc'⟩ := g.run hst.fits
  ⟨hst.trans htr, hc'.trans hc⟩⟩

theorem Worked.ite {a b : State} {c : Prop} [Decidable c] (ha : Worked w L s a) (hb : Worked w L s b) :
    Worked w L s (if c then a else b) := by split <;> assumption

/-- Work may be shown with the bounds at hand. -/
theorem Worked.of_fits (h : w.Fits L s → Worked w L s t) : Worked w L s t := ⟨fun hf => (h hf).run hf⟩

/-- A fold works within the bounds when each step does; a step may use that the bounds hold and that its element is in the list. -/
theorem Worked.foldl {α : Type} (f : State → α → State) (as : List α) (s : State)
    (h : w.Fits L s → ∀ t, ∀ a ∈ as, Worked w L t (f t a)) : Worked w L s (as.foldl f s) := ⟨fun hf =>
  List.foldlRecOn (motive := fun t => Kept w L s t ∧ t.cyc = s.cyc) as f ⟨.refl hf, rfl⟩ fun t ⟨ht, hc⟩ a ha =>
    have ⟨hk, hc'⟩ := (h hf t a ha).run ht.fits
    ⟨ht.trans hk, hc'.trans hc⟩⟩

theorem Worked.foldPair {α β : Type} (f : State × β → α → State × β) (as : List α) (a : State × β)
    (h : w.Fits L a.1 → ∀ b, ∀ k ∈ as, Worked w L b.1 (f b k).1) : Worked w L a.1 (as.foldl f a).1 := ⟨fun hf =>
  List.foldlRecOn (motive := fun b => Kept w L a.1 b.1 ∧ b.1.cyc = a.1.cyc) as f ⟨.refl hf, rfl⟩ fun b ⟨hb, hc⟩ k hk =>
    have ⟨hk, hc'⟩ := (h hf b k hk).run hb.fits
    ⟨hb.trans hk, hc'.trans hc⟩⟩

/-! ### Counts and records -/

/-- The fields that counting and recording change. -/
def noteFields : List Field := [.act, .faultq, .capSeen, .regs, .rems, .blobs, .parts, .chReady, .bankUse]

theorem worked_of_notes (h : Touches noteFields s t) (hr : w.Fits L s → RegsKept w.may s t)
    (hp : ∀ q, ∃ b, Machine.partAt t q = { Machine.partAt s q with planFault := b }) : Worked w L s t := ⟨fun hf =>
  ⟨.of_same hf (h.same .cores (by decide)) (h.same .links (by decide)) (fun _ => h.same .mem (by decide))
    (fun e he => by rwa [show t.ecc = s.ecc from h.same .ecc (by decide)] at he) (hr hf) hp, h.same .cyc (by decide)⟩⟩

/-- Counting without a record of a fault. -/
theorem worked_of_counts {k : List Field} (h : Touches k s t)
    (hk : k ⊆ [.act, .faultq, .regs, .rems, .blobs, .chReady, .bankUse]) (hr : w.Fits L s → RegsKept w.may s t) : Worked w L s t := by
  have hf : Touches [.act, .faultq, .regs, .rems, .blobs, .chReady, .bankUse] s t := h.subset hk
  exact worked_of_notes (hf.subset (by decide)) hr fun q => ⟨(Machine.partAt s q).planFault, by rw [hf.partAt_eq (by decide)]⟩

theorem regsKept_bump_of_die {i d : Nat} (s : State) (hi : i ∈ cycleCounts) (hd : w.die d) (j oj b n : Nat) (hj : j < 256 ∧ oj < 256) :
    RegsKept w.may s (bump s (i + d) j oj b n) :=
  regsKept_bump _ _ _ _ _ _ (w.counted d hd i hi j hj.1) (w.counted d hd i hi oj hj.2) (w.noted 5 (by decide)) (w.noted 6 (by decide))

/-- A count of a core's die is within the bounds. -/
theorem worked_bump (s : State) (hu : u ∈ L) {i j oj : Nat} (hi : i ∈ cycleCounts) (hj : j < 256 ∧ oj < 256) (b n : Nat) :
    Worked w L s (bump s (i + dieOf u) j oj b n) :=
  worked_of_counts (touches_bump ..) (by decide) fun hf => regsKept_bump_of_die _ hi (hf.dies u hu) _ _ _ _ hj

theorem worked_bumpUnits (s : State) (hu : u ∈ L) {i j oj : Nat} (hi : i ∈ cycleCounts) (hj : j < 256 ∧ oj < 256)
    (b k n : Nat) : Worked w L s (bumpUnits s (i + dieOf u) j oj b k n) :=
  worked_of_counts (touches_bumpUnits ..) (by decide) fun hf => RegsKept.trans (.of_eq rfl) (regsKept_bump_of_die _ hi (hf.dies u hu) _ _ _ _ hj)

theorem worked_bumpSlip (s : State) (hu : u ∈ L) (cat n : Nat) : Worked w L s (bumpSlip s u cat n) := by
  unfold bumpSlip
  dsimp only
  split <;> exact worked_bump _ hu (by decide) (by decide) _ _

theorem worked_countAct (s : State) (d c ph n : Nat) : Worked w L s (countAct s d c ph n) :=
  worked_of_counts (touches_countAct ..) (by decide) fun _ => .of_eq rfl

theorem worked_useBanks (s : State) (l : List (Nat × Nat)) : Worked w L s (useBanks s l) :=
  worked_of_counts (touches_useBanks ..) (by decide) fun _ => .of_eq rfl

theorem worked_useChannels (s : State) (l : List Nat) : Worked w L s (useChannels s l) :=
  worked_of_counts (touches_useChannels ..) (by decide) fun _ => .of_eq rfl

theorem worked_capture (s : State) (c : LogRec) : Worked w L s (capture s c) :=
  worked_of_notes ((touches_capture ..).subset (by decide))
    (fun _ => regsKept_capture _ _ (w.noted 5 (by decide)) (w.noted 6 (by decide)))
    (coreFrame_capture (u := 0) (l := []) s c).parts

/-! ### Cores, memory and links -/

theorem worked_setCore (s : State) {x : CoreSt} (hu : u ∈ L) (hx : w.Core (coreAt s u) → w.Core x) : Worked w L s (setCore s u x) := by
  refine ⟨fun hf => ⟨⟨⟨hf.errs, hf.dies, fun v hv => ?_⟩, fun e he => ?_, fun v hv => ?_, fun _ => rfl, fun _ he => he, .refl,
    fun q => ⟨(Machine.partAt s q).planFault, rfl⟩,
    fun l => ⟨(linkAt s l).crSent, (linkAt s l).unsent, (linkAt s l).poolUsed, rfl⟩⟩, rfl⟩⟩
  · by_cases h : v = u
    · subst h
      rw [coreAt_setCore]
      exact hx (hf.cores v hv)
    · rw [coreAt_setCore_other _ _ _ _ h]
      exact hf.cores v hv
  · exact (mem_kset _ _ _ _ he).imp_left fun h => by rw [h]; exact hu
  · exact coreAt_setCore_other _ _ _ _ fun h => hv (h ▸ hu)

/-- A write of a core's state that leaves its writes on their way and its VXE. -/
theorem worked_setCore_same (s : State) {x : CoreSt} (hu : u ∈ L) (hl : x.lands = (coreAt s u).lands)
    (hv : x.vrun = (coreAt s u).vrun) : Worked w L s (setCore s u x) :=
  worked_setCore s hu fun h => ⟨by rw [hl]; exact h.1, by rw [hv]; exact h.2⟩

theorem worked_errFilter (s : State) (p : Nat × Nat → Bool) : Worked w L s { s with ecc := s.ecc.filter p } := ⟨fun hf =>
  ⟨.of_same hf rfl rfl (fun _ => rfl) (fun _ he => List.mem_of_mem_filter he) (.of_eq rfl)
    fun q => ⟨(Machine.partAt s q).planFault, rfl⟩, rfl⟩⟩

theorem worked_poke (s : State) (hw : w.writes) (a : Nat) (b : List Byte) : Worked w L s (poke s a b) := ⟨fun hf =>
  ⟨.of_same hf rfl rfl (fun h => absurd hw h) (formKept_poke s a b).2 (.of_eq rfl)
    fun q => ⟨(Machine.partAt s q).planFault, rfl⟩, rfl⟩⟩

theorem worked_release (s : State) (l : Nat) (c : TClass) (a b : Nat) : Worked w L s (release s l c a b) := by
  unfold release
  dsimp only
  split
  · exact .refl
  · refine ⟨fun hf => ⟨⟨⟨hf.errs, hf.dies, hf.cores⟩, fun _ he => .inr he, fun _ _ => rfl, fun _ => rfl, fun _ he => he, .of_eq rfl,
      fun q => ⟨(Machine.partAt s q).planFault, rfl⟩, fun k => ?_⟩, rfl⟩⟩
    by_cases h : k = l
    · subst h
      exact ⟨_, _, _, linkAt_setLink ..⟩
    · exact ⟨(linkAt s k).crSent, (linkAt s k).unsent, (linkAt s k).poolUsed, by rw [linkAt_setLink_other _ _ _ _ h]⟩

/-! ### Storage errors -/

/-- An error that a range shows is on record. -/
theorem mem_of_mem_eccIn {e : Nat × Nat} {a n : Nat} (h : e ∈ eccIn s a n) : e ∈ s.ecc := by
  unfold eccIn at h
  split at h
  · simp at h
  · exact List.mem_of_mem_filter h

/-- A corrected error on record counts in the entries of its die. -/
theorem worked_bumpCorr {a : Nat} (hd : w.die (dieAt a)) : Worked w L s (bumpCorr s a) := by
  refine worked_of_counts (touches_bumpCorr ..) (by decide) fun _ => regsKept_bumpCorr s a (fun i hi j hj => ?_) (w.noted 5 (by decide))
    (w.noted 6 (by decide))
  have hsub : [0x4010, 0x7840, 0x7848] ⊆ cycleCounts := by decide
  exact w.counted _ hd i (hsub hi) j hj

theorem worked_errorRec (s : State) (v e a c tg x : Nat) : Worked w L s (errorRec s v e a c tg x) := by
  unfold errorRec
  exact .ite (worked_capture ..) (worked_capture ..)

theorem worked_readErrors (s : State) (v e a n c tg x : Nat) : Worked w L s (readErrors s v e a n c tg x) := by
  unfold readErrors
  exact .foldl _ _ _ fun hf t k hk => .ite (worked_errorRec ..) (worked_bumpCorr (hf.errs k (mem_of_mem_eccIn hk)))

theorem worked_bareErrors (s : State) (a n : Nat) : Worked w L s (bareErrors s a n) := by
  unfold bareErrors
  exact .foldl _ _ _ fun hf t k hk => .ite (worked_capture ..) (worked_bumpCorr (hf.errs k (mem_of_mem_eccIn hk)))

theorem worked_vxErrors (s : State) (u : Nat) (v : VxRun) : Worked w L s (vxErrors s u v).1 := by
  unfold vxErrors
  split
  · exact .refl
  · refine Worked.foldPair (a := (s, v)) _ _ fun hf a k hk => ?_
    split
    · exact .refl
    · refine .ite (worked_errorRec ..) (worked_bumpCorr (hf.errs k.1 ?_))
      simp only [List.mem_flatten, List.mem_map] at hk
      obtain ⟨_, ⟨g, _, rfl⟩, hk⟩ := hk
      obtain ⟨e, he, rfl⟩ := List.mem_map.1 hk
      exact mem_of_mem_eccIn he

/-! ### The adder and the signals that are due -/

/-- A throttled cycle moves a core's writes on their way to a later cycle. -/
theorem core_shift {x : CoreSt} {n : Nat} (h : w.Core x) : w.Core (shiftCore x n) := by
  obtain ⟨hl, hv⟩ := h
  refine ⟨fun l hm => ?_, hv⟩
  obtain ⟨l', hl', rfl⟩ := List.mem_map.1 hm
  exact hl l' hl'

variable (hu : u ∈ L)
include hu

theorem worked_closeCycle (s : State) : Worked w L s (closeCycle s u) := by
  have hadd : ∀ (l : List AddInc) (x : CoreSt), w.Core x → w.Core (l.foldl addOne x) := fun l x hx =>
    List.foldlRecOn (motive := w.Core) l addOne hx fun _ h _ _ => h
  have hset : Worked w L s (setCore s u { (takeFour ((coreAt s u).addCarry ++ (coreAt s u).addNow) []).1.foldl addOne (coreAt s u) with
      addCarry := (takeFour ((coreAt s u).addCarry ++ (coreAt s u).addNow) []).2, addNow := [], addCyc := (coreAt s u).addCyc + 1 }) :=
    worked_setCore s hu (hadd _ _)
  unfold closeCycle
  refine .ite hset (hset.trans ?_)
  unfold portsFault
  exact .foldl _ _ _ fun _ t k _ => .ite .refl (worked_capture ..)

theorem worked_closeCycles (c n : Nat) : ∀ s : State, Worked w L s (closeCycles s u c n) := by
  induction n with
  | zero => exact fun _ => .refl
  | succ n ih =>
    intro s
    unfold closeCycles
    exact .ite ((worked_closeCycle hu s).trans (ih _)) .refl

theorem worked_adderTo (s : State) (c : Nat) : Worked w L s (adderTo s u c) := by
  unfold adderTo
  exact (worked_closeCycles hu ..).trans (worked_setCore_same _ hu (by rfl) (by rfl))

theorem worked_signalDone (s : State) (a : Nat) (d : QDesc) : Worked w L s (signalDone s u a d) := by
  unfold signalDone
  exact (Worked.ite (worked_setCore_same _ hu (by rfl) (by rfl)) .refl).trans (worked_setCore_same _ hu (by rfl) (by rfl))

theorem worked_settle (s : State) (c : Nat) : Worked w L s (settle s u c) := by
  unfold settle
  refine (worked_setCore_same _ hu (by rfl) (by rfl)).trans (Worked.trans (.foldl _ _ _ fun _ t k _ => ?_) (worked_adderTo hu ..))
  exact (worked_adderTo hu ..).trans (worked_signalDone hu ..)

end Sys2Proof
end


section
/-! SUPPORT. The engines' cycle, the packets' ports, the landing writes and whole cycles stay within their bounds (R225, R236). -/

namespace Sys2Proof

open Machine

variable {w : Bounds} {L : List Nat} {s t r : State} {u : Nat} (hu : u ∈ L)
include hu

theorem worked_meetThrottle (s : State) : Worked w L s (meetThrottle s u) := by
  have hshift : ∀ (l : List Nat) (f : Nat → Nat), w.Core (coreAt s u) → w.Core (l.foldl (fun y i => shiftCore y (f i)) (coreAt s u)) :=
    fun l f h => List.foldlRecOn (motive := w.Core) l _ h fun _ hy _ _ => core_shift hy
  unfold meetThrottle
  exact .ite .refl (worked_setCore s hu fun h => hshift _ _ h)

/-! ### The MXE -/

theorem worked_writeSlot (s : State) (tl k v : Nat) : Worked w L s (writeSlot s u tl k v) := by
  unfold writeSlot
  exact (worked_setCore_same s hu (by rfl) (by rfl)).trans (worked_errFilter ..)

theorem worked_foldCell (f : Fold) (a : State × MmRun) (i j : Nat) : Worked w L a.1 (foldCell u f a i j).1 := by
  unfold foldCell
  dsimp only
  split
  · exact worked_writeSlot hu ..
  · split
    · exact worked_writeSlot hu ..
    · exact (worked_readErrors ..).trans (worked_writeSlot hu ..)

theorem worked_foldRow (f : Fold) (a : State × MmRun) (i : Nat) : Worked w L a.1 (foldRow u f a i).1 := by
  have hrow : ∀ b : State × MmRun, Worked w L a.1 b.1 → Worked w L a.1
      (if dM a.2.d.raw ≤ i then b else (List.range (dN a.2.d.raw)).foldl (fun a j => foldCell u f a i j) b).1 := by
    intro b hb
    split
    · exact hb
    · exact hb.trans (.foldPair _ _ _ fun _ a k _ => worked_foldCell hu ..)
  unfold foldRow
  apply hrow
  dsimp only
  split
  · exact (worked_setCore_same _ hu (by rfl) (by rfl)).trans (worked_errFilter ..)
  · exact .refl

theorem worked_foldCycle (p : Nat) (a : State × MmRun) : Worked w L a.1 (foldCycle u p a).1 := by
  unfold foldCycle
  refine Worked.foldPair _ _ _ fun _ b k _ => ?_
  split
  · exact .foldPair _ _ _ fun _ a k _ => worked_foldRow hu ..
  · exact .refl

omit hu in
theorem worked_tileRead (u p : Nat) (a : State × MmRun) : Worked w L a.1 (tileRead u p a).1 := by
  unfold tileRead
  dsimp only
  split
  · exact .refl
  · refine Worked.foldPair _ _ _ fun _ b k _ => ?_
    split
    · exact .refl
    · exact worked_readErrors ..

theorem worked_mmTag (p : Nat) (a : State × MmRun) : Worked w L a.1 (mmTag u p a).1 := by
  unfold mmTag
  dsimp only
  split
  · exact worked_setCore_same _ hu (by rfl) (by rfl)
  · exact .refl

theorem worked_mmCycle (s : State) (m : MmRun) : Worked w L s (mmCycle s u m).1 := by
  have hread : ∀ l : List (Nat × Nat × Nat), Worked w L s (l.foldl (fun t k => readErrors t u 1 k.1 k.2.1 m.d.cnt (dTag m.d.raw) k.2.2) s) :=
    fun l => .foldl _ _ _ fun _ t k _ => worked_readErrors ..
  unfold mmCycle
  dsimp only
  split
  · exact .refl
  · refine Worked.trans ?_ ((worked_tileRead ..).trans ((worked_foldCycle hu ..).trans (worked_mmTag hu ..)))
    refine ((hread _).trans (worked_countAct ..)).trans (.ite ?_ .refl)
    exact (worked_countAct ..).trans (worked_bumpUnits _ hu (by decide) (by decide) ..)

theorem worked_mmAll : ∀ (l : List (MmRun × Bool × List (Nat × Nat))) (s : State) (use : KMap Nat) (ready : List MmRun),
    Worked w L s (mmAll u s use ready l).1
  | [], _, _, _ => .refl
  | (m, old, left) :: rest, s, use, ready => by
    unfold mmAll
    dsimp only
    split
    · exact worked_mmAll rest ..
    · generalize (if old = true then (use, left) else serve use (mmAccesses u m)) = served
      split
      · exact (worked_mmCycle hu ..).trans (worked_mmAll rest ..)
      · exact (worked_bumpSlip _ hu ..).trans (worked_mmAll rest ..)

/-! ### The VXE -/

theorem worked_vxCycle (s : State) (v : VxRun) : Worked w L s (vxCycle s u v).1 := by
  unfold vxCycle
  dsimp only
  split
  · exact .refl
  · exact ((worked_vxErrors ..).trans (.ite (worked_bumpUnits _ hu (by decide) (by decide) ..) .refl)).trans
      ((worked_countAct ..).trans (worked_countAct ..))

theorem worked_vxAll : ∀ (l : List (VxRun × Bool × List (Nat × Nat))) (s : State) (use : KMap Nat) (ready : List VxRun),
    Worked w L s (vxAll u s use ready l).1
  | [], _, _, _ => .refl
  | (v, old, left) :: rest, s, use, ready => by
    unfold vxAll
    dsimp only
    split
    · exact worked_vxAll rest ..
    · generalize (if old = true then (use, left) else serve use (vxAccesses s.variant u v)) = served
      split
      · exact (worked_vxCycle hu ..).trans (worked_vxAll rest ..)
      · exact (worked_bumpSlip _ hu ..).trans (worked_vxAll rest ..)

/-! ### A core's cycle -/

/-- The VXE's list is empty after the engines' cycle when it was before. -/
theorem worked_engineServe (s : State) : Worked w L s (engineServe s u).1 := by
  refine .of_fits fun hf => ?_
  unfold engineServe
  refine (worked_mmAll hu ..).trans ((worked_setCore_same _ hu (by rfl) (by rfl)).trans
    ((worked_vxAll hu ..).trans (worked_setCore _ hu fun h => ?_)))
  refine ⟨h.1, fun hne => (hf.cores u hu).2 fun hnil => hne ?_⟩
  dsimp only
  rw [hnil]
  rfl

omit hu in
theorem worked_setBankUse (s : State) (m : KMap Nat) : Worked w L s { s with bankUse := m } := by
  refine worked_of_counts (k := [.bankUse]) ⟨fun f hf => ?_⟩ (by decide) fun _ => .of_eq rfl
  cases f
  case bankUse => simp at hf
  all_goals rfl

theorem worked_engineCycle (s : State) : Worked w L s (engineCycle s u) := by
  unfold engineCycle
  exact (worked_engineServe hu s).trans (worked_setBankUse ..)

theorem worked_grantPackets (s : State) (f : Nat → Bool) : Worked w L s (grantPackets s u f) := by
  unfold grantPackets
  refine .foldl _ _ _ fun _ t l _ => ?_
  unfold grantPacket
  split
  · exact .refl
  · rename_i k hk
    dsimp only
    refine .ite .refl ((worked_countAct ..).trans (Worked.trans (worked_setCore _ hu ?_) (worked_useBanks ..)))
    refine fun ⟨hl, hv⟩ => ⟨fun m hm => ?_, hv⟩
    obtain ⟨m', hm', rfl⟩ := List.mem_map.1 hm
    obtain ⟨hw, hd⟩ := hl m' hm'
    split
    · rename_i he
      subst he
      refine ⟨hw, fun k' hk' => ?_⟩
      cases hk'
      exact hd k hk
    · exact ⟨hw, hd⟩

theorem worked_coreCycle (s : State) : Worked w L s (coreCycle s u) := by
  have hserve : ∀ t n f, Worked w L t
      (grantPackets (engineCycle (lateCore (grantPackets (bumpSlip t u 5 n) u f) u) u) u fun _ => true) := fun t n f =>
    (worked_bumpSlip t hu 5 n).trans ((worked_grantPackets hu ..).trans
      (((worked_setCore_same _ hu (by rfl) (by rfl)).trans (worked_engineCycle hu _)).trans (worked_grantPackets hu ..)))
  unfold coreCycle
  refine ((worked_meetThrottle hu s).trans (worked_settle hu ..)).trans (.ite (worked_grantPackets hu ..) ?_)
  exact (worked_bump _ hu (by decide) (by decide) ..).trans (.ite .refl (hserve ..))

/-! ### Writes -/

theorem worked_writeElem (hw : w.writes) (s : State) (o m n : Nat) (c : Nat × Nat) : Worked w L s (writeElem s u o m n c) := by
  unfold writeElem
  dsimp only
  split
  · exact (worked_setCore_same _ hu (by rfl) (by rfl)).trans (worked_errFilter ..)
  · exact (worked_setCore_same _ hu (by rfl) (by rfl)).trans (worked_errFilter ..)
  · exact worked_poke _ hw ..
  · exact worked_poke _ hw ..
  · exact .refl

theorem worked_tagDest (s : State) (o xb m n : Nat) : Worked w L s (tagDest s u o xb m n) := by
  unfold tagDest
  exact .ite .refl (.ite (worked_setCore_same _ hu (by rfl) (by rfl)) ((worked_setCore_same _ hu (by rfl) (by rfl)).trans (worked_errFilter ..)))

theorem worked_vxWrite (hw : w.writes) (s : State) (v : VxRun) : Worked w L s (vxWrite s u v) := by
  unfold vxWrite
  exact Worked.trans (.foldl _ _ _ fun _ t k _ => worked_poke _ hw ..)
    (Worked.trans (.foldl _ _ _ fun _ t k _ => worked_writeElem hu hw ..) (.ite (worked_tagDest hu ..) .refl))

theorem worked_writeResults (s : State) : Worked w L s (writeResults s u) := by
  unfold writeResults
  dsimp only
  refine Worked.trans (.foldl (fun t v => vxWrite t u v) _ _ fun hf t v hv =>
    worked_vxWrite hu ((hf.cores u hu).2 (List.ne_nil_of_mem hv)) ..) ?_
  exact worked_setCore _ hu fun ⟨hl, hv⟩ => ⟨hl, fun hne => hv fun hnil => hne (by rw [hnil]; rfl)⟩

omit hu in
theorem worked_commit (hw : w.writes) (s : State) (u : Nat) (l : Landing) : Worked w L s (commit s u l) := by
  unfold commit
  exact .ite (Worked.trans (.ite (worked_bareErrors ..) (worked_readErrors ..)) (worked_poke _ hw ..)) (worked_poke _ hw ..)

/-- An increment that has landed enters its queue, or its write waits as it was. -/
theorem worked_landCount (s : State) (l : Landing) (k : PktEnd) : Worked w L s (landCount s u l k).1 := by
  have hfree : ∀ t : State, Worked w L t (if (linkAt t k.link).era = k.era then release t k.link .plan k.ures k.ush else t) :=
    fun t => .ite (worked_release ..) .refl
  unfold landCount
  dsimp only
  split
  · exact hfree s
  · split
    · exact (worked_setCore_same _ hu (by rfl) (by rfl)).trans (hfree _)
    · exact .refl

omit hu in
theorem lands_landCount {l m : Landing} {k : PktEnd} (hl : w.Lands l) (hk : l.pkt = some k) (h : (landCount s u l k).2 = some m) :
    w.Lands m := by
  unfold landCount at h
  dsimp only at h
  split at h
  · cases h
  · split at h
    · cases h
    · cases h
      exact ⟨hl.1, fun _ hk' => by cases hk'; exact hl.2 k hk⟩

theorem worked_landOne {l : Landing} (hl : w.Lands l) (s : State) : Worked w L s (landOne s u l).1 := by
  unfold landOne
  dsimp only
  split
  · exact .refl
  · split
    · exact worked_commit hl.1 ..
    · rename_i k hk
      have hcount : ∀ t, Worked w L t (bump t (0x3420 + k.part) 2 6 1 1) := fun t => worked_of_counts (touches_bump ..) (by decide) fun _ =>
        regsKept_bump_of_die _ (by decide) (hl.2 k hk) _ _ _ _ (by decide)
      split
      · split
        · exact (worked_countAct ..).trans (worked_useChannels ..)
        · exact worked_bumpSlip s hu 5 1
      · split
        · exact worked_landCount hu ..
        · split
          · exact .refl
          · exact ((worked_commit hl.1 ..).trans (hcount _)).trans (worked_landCount hu ..)

omit hu in
/-- What remains of a write on its way is the same write. -/
theorem lands_landOne {l m : Landing} (hl : w.Lands l) (h : (landOne s u l).2 = some m) : w.Lands m := by
  unfold landOne at h
  dsimp only at h
  split at h
  · cases h
    exact hl
  · split at h
    · cases h
    · rename_i k hk
      split at h
      · split at h
        · cases h
          exact ⟨hl.1, fun _ hk' => by cases hk'; exact hl.2 k hk⟩
        · cases h
          exact hl
      · split at h
        · exact lands_landCount hl hk h
        · split at h
          · cases h
            exact hl
          · exact lands_landCount hl hk h

theorem worked_landAll (s : State) : Worked w L s (landAll s u) := by
  refine .of_fits fun hf => ?_
  unfold landAll
  refine (worked_setCore s hu ?_).trans
    (Worked.trans (.foldl _ _ _ fun _ t l hl => ?_) (.ite (worked_bump _ hu (by decide) (by decide) ..) .refl))
  · exact fun ⟨_, hv⟩ => ⟨fun _ hl => absurd hl List.not_mem_nil, hv⟩
  · have hland : w.Lands l := (hf.cores u hu).1 l hl
    refine (worked_landOne hu hland t).trans (worked_setCore _ hu ?_)
    refine fun ⟨hrest, hv⟩ => ⟨fun m hm => ?_, hv⟩
    rcases List.mem_append.1 hm with h | h
    · exact hrest m h
    · exact lands_landOne hland (Option.mem_toList.1 h)

theorem worked_coreWrites (s : State) : Worked w L s (coreWrites s u) := by
  unfold coreWrites
  exact Worked.trans (.ite (worked_writeResults hu s) .refl) (worked_landAll hu _)

end Sys2Proof
end


section
/-! SUPPORT. The cycles that pass before a command's cycle, one after another (R225). -/

namespace Sys2Proof

open Machine

variable {w : Bounds} {L : List Nat} {s t : State}

/-! ### Cycles -/

/-- Where only the cores of `L` change, no other core becomes busy. -/
theorem Kept.busyCores_subset (h : Kept w L s t) (hb : busyCores s ⊆ L) : busyCores t ⊆ L := by
  intro u hu
  obtain ⟨e, he, rfl⟩ := List.mem_map.1 hu
  obtain ⟨hmem, hbusy⟩ := List.mem_filter.1 he
  exact (h.keys e hmem).elim id fun hs => hb (List.mem_map_of_mem (List.mem_filter.2 ⟨hs, hbusy⟩))

theorem kept_setCyc (hf : w.Fits L s) (n : Nat) : Kept w L s { s with cyc := n, bankUse := [] } :=
  .of_same hf rfl rfl (fun _ => rfl) (fun _ h => h) (.of_eq rfl) fun q => ⟨(Machine.partAt s q).planFault, rfl⟩

theorem kept_nextCycle (hb : busyCores s ⊆ L) (hf : w.Fits L s) : Kept w L s (nextCycle s) ∧ (nextCycle s).cyc = s.cyc + 1 := by
  have hwork : Worked w L s ((busyCores s).foldl coreWrites ((busyCores s).foldl coreCycle s)) :=
    Worked.trans (.foldl _ _ _ fun _ t u hu => worked_coreCycle (hb hu) t) (.foldl _ _ _ fun _ t u hu => worked_coreWrites (hb hu) t)
  obtain ⟨hk, hc⟩ := hwork.run hf
  unfold nextCycle
  dsimp only
  exact ⟨hk.trans (kept_setCyc hk.fits _), by rw [hc]⟩

theorem kept_pass (n : Nat) : ∀ s : State, busyCores s ⊆ L → w.Fits L s →
    Kept w L s (Machine.pass n s) ∧ (Machine.pass n s).cyc = s.cyc + n := by
  induction n with
  | zero => exact fun _ _ hf => ⟨.refl hf, rfl⟩
  | succ n ih =>
    intro s hb hf
    unfold Machine.pass
    split
    · exact ⟨kept_setCyc hf _, rfl⟩
    · obtain ⟨hk, hc⟩ := kept_nextCycle hb hf
      obtain ⟨hk', hc'⟩ := ih _ (hk.busyCores_subset hb) hk.fits
      exact ⟨hk.trans hk', by omega⟩

/-- The count of throttled cycles is a count of each die of the package. -/
theorem worked_countThrottle (hd : ∀ d < 4, w.die d) (s : State) (a : Nat) : Worked w L s (countThrottle s a) := by
  have hdies : dies s.variant ≤ 4 := by cases s.variant <;> decide
  unfold countThrottle
  refine .ite .refl (.foldl _ _ _ fun _ t x hx => .ite ?_ .refl)
  exact worked_of_counts (touches_bump ..) (by decide) fun _ =>
    regsKept_bump_of_die _ (by decide) (hd x ((List.mem_range.1 hx).trans_le hdies)) _ _ _ _ (by decide)

theorem kept_elapse (hd : ∀ d < 4, w.die d) (n : Nat) (hf : w.Fits (busyCores s) s) :
    Kept w (busyCores s) s (elapse s n) ∧ (elapse s n).cyc = s.cyc + n := by
  obtain ⟨hk, hc⟩ := kept_pass n s (List.Subset.refl _) hf
  obtain ⟨hk', hc'⟩ := (worked_countThrottle hd (Machine.pass n s) s.cyc).run hk.fits
  exact ⟨hk.trans hk', hc'.trans hc⟩

/-! ### Two bounds -/

/-- The entries that a cycle may write whatever the dies: those from the fabric's counts on. -/
def fromFabric (k : Nat) : Bool := decide (0x3420 ≤ k / 256)

theorem fromFabric_rkey {i j : Nat} (hj : j < 256) : fromFabric (rkey i j) = decide (0x3420 ≤ i) := by
  have hdiv : rkey i j / 256 = i := by unfold rkey; omega
  rw [fromFabric, hdiv]

/-- Any die may be named, and memory is written only under a condition. -/
def openBounds (writes : Prop) : Bounds where
  may := fromFabric
  die _ := True
  writes := writes
  noted j hj := by rw [fromFabric_rkey hj]; rfl
  counted d _ i hi j hj := by
    rw [fromFabric_rkey hj, decide_eq_true_eq]
    simp only [cycleCounts, List.mem_cons, List.not_mem_nil, or_false] at hi
    omega

/-- The package's four dies: only counts are written. -/
def packageBounds : Bounds where
  may := countKey
  die d := d < 4
  writes := True
  noted j hj := countKey_of hj rfl
  counted d hd i hi j hj := by
    refine countKey_of hj ?_
    simp only [cycleCounts, List.mem_cons, List.not_mem_nil, or_false] at hi
    simp only [Bool.or_eq_true, decide_eq_true_eq, beq_iff_eq]
    omega

/-- A core is at its default or as the state holds it. -/
theorem coreAt_cases (s : State) (u : Nat) : coreAt s u = {} ∨ (u, coreAt s u) ∈ s.cores := by
  unfold coreAt
  induction s.cores with
  | nil => exact .inl rfl
  | cons e r ih =>
    obtain ⟨k, x⟩ := e
    by_cases h : k = u
    · subst h
      right
      simp [kget]
    · simp only [kget, h, if_false]
      exact ih.imp_right (List.mem_cons_of_mem _)

/-- The bounds hold of every core when they hold of those that the state holds. -/
theorem Bounds.core_coreAt (h : ∀ e ∈ s.cores, w.Core e.2) (u : Nat) : w.Core (coreAt s u) := by
  rcases coreAt_cases s u with hdef | hmem
  · rw [hdef]
    exact ⟨fun _ hl => absurd hl List.not_mem_nil, fun hne => absurd rfl hne⟩
  · exact h _ hmem

theorem openBounds_fits {W : Prop} (h : W ∨ ∀ e ∈ s.cores, e.2.lands = [] ∧ e.2.vrun = []) (L : List Nat) : (openBounds W).Fits L s := by
  refine ⟨fun _ _ => trivial, fun _ _ => trivial, fun u _ => Bounds.core_coreAt (fun e he => ?_) u⟩
  rcases h with hW | hnone
  · exact ⟨fun _ _ => ⟨hW, fun _ _ => trivial⟩, fun _ => hW⟩
  · obtain ⟨hl, hv⟩ := hnone e he
    exact ⟨fun l hm => absurd (hl ▸ hm) List.not_mem_nil, fun hne => absurd hv hne⟩

theorem packageBounds_fits (h : UnitsFitted s) : packageBounds.Fits (busyCores s) s := by
  obtain ⟨herr, hcores⟩ := h
  refine ⟨herr, fun u hu => ?_, fun u _ => Bounds.core_coreAt (fun e he => ?_) u⟩
  · obtain ⟨e, he, rfl⟩ := List.mem_map.1 hu
    exact (hcores e (List.mem_filter.1 he).1).1
  · exact ⟨fun l hl => ⟨trivial, fun k hk => (hcores e he).2 l hl k hk⟩, fun _ => trivial⟩

/-! ### The cycles before a command's cycle -/

theorem elapse_kept (s : State) (n : Nat) : Kept (openBounds True) (busyCores s) s (elapse s n) ∧ (elapse s n).cyc = s.cyc + n :=
  kept_elapse (fun _ _ => trivial) n (openBounds_fits (.inl trivial) _)

theorem timePassed_tick (s : State) (c : Nat) : TimePassed s (tick s c) := by
  obtain ⟨hk, -⟩ := elapse_kept s (min c (beatLen s - 1) - s.cyc)
  exact {
    fields := touches_tick s c
    quiet := hk.others
    memory := fun h => (kept_elapse (w := openBounds False) (fun _ _ => trivial) _ (openBounds_fits (.inr h) _)).1.memory id
    errs := hk.errs
    counts := fun h => (kept_elapse (w := packageBounds) (fun _ hd => hd) _ (packageBounds_fits h)).1.counts
    parts := hk.parts
    links := hk.links }

theorem tick_cyc (s : State) (c : Nat) : (tick s c).cyc = max s.cyc (min c (beatLen s - 1)) := by
  have hc := (elapse_kept s (min c (beatLen s - 1) - s.cyc)).2
  unfold tick
  omega

theorem touches_countThrottle_regs (s : State) (a : Nat) : Touches [.regs, .faultq] s (countThrottle s a) := by
  unfold countThrottle
  exact .ite .refl (Touches.foldl _ (fun t k => .ite (touches_bump ..) .refl) _ _)

/-- Where nothing is in progress only the cycle moves on, and throttled cycles are counted. -/
theorem touches_elapse_of_idle (h : busyCores s = []) (n : Nat) : Touches [.cyc, .bankUse, .regs, .faultq] s (elapse s n) := by
  have hpass : Touches [.cyc, .bankUse] s (Machine.pass n s) := by
    cases n with
    | zero => exact .refl
    | succ n =>
      unfold Machine.pass
      rw [h]
      exact ⟨fun f hf => by
        cases f
        case cyc | bankUse => simp at hf
        all_goals rfl⟩
  exact (hpass.subset (by decide)).trans ((touches_countThrottle_regs ..).subset (by decide))

/-- The length of the beat stays while its entry does. -/
theorem beatLen_of_regsKept {m : Nat → Bool} (h : RegsKept m s t) (hv : t.variant = s.variant) (hm : m (rkey 0x2100 1) = false) :
    beatLen t = beatLen s := by
  unfold beatLen
  rw [h.rg hv _ _ hm]

theorem touches_elapse (s : State) (n : Nat) : Touches timeFields s (elapse s n) := (touches_pass ..).trans (touches_countThrottle ..)

end Sys2Proof
end


section
/-! SUPPORT. What the edge itself leaves as it is: the beat number, the edge's time, the cycle and the stretched cycles, and where no plan
runs the cores, the memories and the partitions (R225, R446). -/

namespace Sys2Proof

open Machine

/-- Two states agree in the listed fields. -/
structure AgreeIn (l : List Field) (s t : State) : Prop where
  same : ∀ f ∈ l, f.same s t

variable {l k : List Field} {s t r : State}

theorem AgreeIn.of_touches (h : Touches k s t) (hd : ∀ f ∈ l, f ∉ k) : AgreeIn l s t := ⟨fun f hf => h.same f (hd f hf)⟩

theorem AgreeIn.refl : AgreeIn l s s := .of_touches (k := []) .refl fun _ _ => List.not_mem_nil

theorem AgreeIn.trans (h : AgreeIn l s t) (g : AgreeIn l t r) : AgreeIn l s r := by
  refine ⟨fun f hf => ?_⟩
  have a := h.same f hf
  have b := g.same f hf
  cases f <;> exact Eq.trans b a

theorem AgreeIn.ite {a b : State} {c : Prop} [Decidable c] (ha : AgreeIn l s a) (hb : AgreeIn l s b) : AgreeIn l s (if c then a else b) := by
  split <;> assumption

theorem AgreeIn.foldl {α : Type} (f : State → α → State) (h : ∀ t a, AgreeIn l t (f t a)) (as : List α) (s : State) :
    AgreeIn l s (as.foldl f s) :=
  List.foldlRecOn (motive := AgreeIn l s) as f .refl fun t ht a _ => ht.trans (h t a)

/-- The fields of the clock that an edge sets. -/
def edgeClock : List Field := [.beat, .edge, .cyc, .stretchNow, .stretchHit]

/-! ### The edge of a RUNNING partition -/

theorem agree_closeTenants (s : State) (p : Nat) : AgreeIn edgeClock s (closeTenants s p) := by
  refine .foldl _ (fun t id => .of_touches (k := [.sessions, .records, .asks, .lockBy, .lockLeft]) ⟨fun f hf => ?_⟩ (by decide)) _ _
  cases f
  case sessions | records | asks | lockBy | lockLeft => simp at hf
  all_goals rfl

theorem touches_failGraft (s : State) (g : Graft) (reason : Nat) (st : Status) (after : Nat) :
    Touches (.regs :: .handles :: eventFields) s (failGraft s g reason st after) :=
  Touches.trans (.ite ((touches_wr ..).mono rfl) .refl) (((touches_wr ..).mono rfl).trans ((touches_finishHandle ..).mono rfl))

theorem touches_scrubGrafts (s : State) (p : Nat) : Touches ([.regs, .handles, .grafts, .graftRun] ++ eventFields) s (scrubGrafts s p) := by
  unfold scrubGrafts
  refine Touches.trans ⟨fun f hf => ?_⟩ (.foldl _ (fun t g => (touches_failGraft ..).mono rfl) _ _)
  cases f
  case grafts | graftRun => simp at hf
  all_goals rfl

theorem touches_storeRecord (s : State) (p : Nat) : Touches [.stateStore] s (storeRecord s p) := by
  refine ⟨fun f hf => ?_⟩
  cases f
  case stateStore => simp at hf
  all_goals rfl

theorem agree_planGone (s : State) (p : Nat) : AgreeIn edgeClock s (planGone s p) :=
  .of_touches ((unitEnded_dropStep s p).trans (((unitServed_freeEnded _ p).unitEnded p).trans (unitEnded_drainCommands ..))).fields (by decide)

theorem agree_startScrub (s : State) (p : Nat) : AgreeIn edgeClock s (startScrub s p) := by
  have hgrafts : ∀ t : State, AgreeIn edgeClock t ((graftedIn t p).foldl ungraft t) := fun t =>
    .foldl _ (fun x c => .of_touches ((touches_wr ..).trans (touches_wr ..)) (by decide)) _ _
  unfold startScrub
  refine AgreeIn.trans ?_ (.foldl _ (fun t k => .ite (.of_touches (touches_setLink ..) (by decide)) .refl) _ _)
  refine AgreeIn.trans ?_ (agree_planGone ..)
  refine AgreeIn.trans ?_ (.trans (.of_touches (touches_setPart ..) (by decide)) (.of_touches (touches_unloadPlan ..) (by decide)))
  have hbegun : AgreeIn edgeClock s (scrubGrafts (setPartState (storeRecord s p) p 3) p) :=
    ((AgreeIn.of_touches (touches_storeRecord s p) (by decide)).trans (.of_touches (touches_wr ..) (by decide))).trans
      (.of_touches (touches_scrubGrafts ..) (by decide))
  split
  · exact (hbegun.trans (hgrafts _)).trans
      ((AgreeIn.of_touches (touches_setPart ..) (by decide)).trans (.of_touches (touches_finishHandle ..) (by decide)))
  · exact hbegun.trans (hgrafts _)

theorem agree_becomeDirty (s : State) (p : Nat) : AgreeIn edgeClock s (becomeDirty s p) := by
  unfold becomeDirty
  exact ((agree_closeTenants s p).trans (.of_touches (touches_setPart ..) (by decide))).trans
    ((AgreeIn.of_touches (touches_wr ..) (by decide)).trans (agree_startScrub ..))

/-- A freeze stops the cores and links, is recorded, and ends the plan; then the partition becomes DIRTY or waits for its reset. -/
theorem freeze_steps (s : State) (p : Nat) : freeze s p =
    let t := planEnds (freezeNoted (linksStopped (coresStopped s p) p) p (Machine.partAt s p)) p
    if (Machine.partAt s p).relPending then becomeDirty t p
    else if rg t 0x6020 1 = 0 then setPart t p { Machine.partAt t p with resetting := true } else t := rfl

theorem agree_freeze (s : State) (p : Nat) : AgreeIn edgeClock s (freeze s p) := by
  have hends : AgreeIn edgeClock s (planEnds (freezeNoted (linksStopped (coresStopped s p) p) p (Machine.partAt s p)) p) :=
    ((AgreeIn.of_touches (touches_coresStopped s p) (by decide)).trans (.of_touches (touches_linksStopped ..) (by decide))).trans
      ((AgreeIn.of_touches (touches_freezeNoted ..) (by decide)).trans (.of_touches (unitEnded_planEnds ..).fields (by decide)))
  rw [freeze_steps]
  exact .ite (hends.trans (agree_becomeDirty ..)) (.ite (hends.trans (.of_touches (touches_setPart ..) (by decide))) hends)

theorem agree_logOverruns (s : State) (p : Nat) : AgreeIn edgeClock s (logOverruns s p) :=
  .foldl _ (fun t u => .ite .refl
    ((AgreeIn.of_touches (touches_setCore ..) (by decide)).trans (.of_touches (touches_capture ..) (by decide)))) _ _

theorem agree_nextBeat (s : State) (p : Nat) : AgreeIn edgeClock s (nextBeat s p) := by
  have hbegin : ∀ t seg rep, AgreeIn edgeClock t (beginBeat t p seg rep) := fun t seg rep =>
    .of_touches (beatBegun_beginBeat ..).fields (by decide)
  have hseg : ∀ x, AgreeIn edgeClock s (setPart s p x) := fun x => .of_touches (touches_setPart ..) (by decide)
  have hwr : ∀ t i j v, AgreeIn edgeClock t (wr t i j v) := fun t i j v => .of_touches (touches_wr ..) (by decide)
  unfold nextBeat
  exact .ite ((hseg _).trans (hbegin ..)) (.ite (((hseg _).trans (hwr ..)).trans (hbegin ..))
    (.ite (((hseg _).trans ((hwr ..).trans (hwr ..))).trans (hbegin ..)) ((hseg _).trans (.of_touches (touches_mapCores ..) (by decide)))))

/-- The edge of a RUNNING partition leaves the clock. -/
theorem agree_edgePart (b : Nat) (s : State) (p : Nat) : AgreeIn edgeClock s (edgePart b s p) := by
  have halarm : ∀ t, AgreeIn edgeClock t (edgeAlarm t p) := fun t => .of_touches (touches_edgeAlarm ..) (by decide)
  unfold edgePart
  refine .ite (agree_freeze s p) (.ite (halarm s) ?_)
  refine ((agree_logOverruns s p).trans ?_).trans ((halarm _).trans (agree_nextBeat ..))
  exact .ite .refl (.of_touches (touches_beatPassed ..) (by decide))

/-! ### What the edge does whatever runs -/

/-- The fields that an edge leaves where no plan runs: those of its clock once they are set, the cores, the memories and the partitions. -/
def edgeFrame : List Field := edgeClock ++ [.cores, .mem, .ecc, .parts]

theorem agree_movePhase (s : State) : AgreeIn edgeFrame s (movePhase s) := by
  unfold movePhase
  refine .ite .refl (.of_touches (k := [.phaseLeft, .edgePs]) ⟨fun f hf => ?_⟩ (by decide))
  cases f
  case phaseLeft | edgePs => simp at hf
  all_goals rfl

theorem touches_takeActive (s : State) (l : Nat) : Touches [.regs, .marks] s (takeActive s l) := by
  refine ⟨fun f hf => ?_⟩
  cases f
  case regs | marks => simp at hf
  all_goals rfl

theorem agree_holdover (s : State) : AgreeIn edgeFrame s (holdover s) := by
  have htake : ∀ l, AgreeIn edgeFrame s (takeActive (setTiming s 3) l) := fun l =>
    (AgreeIn.of_touches (touches_setTiming s 3) (by decide)).trans (.of_touches (touches_takeActive ..) (by decide))
  have hlog : ∀ t c, AgreeIn edgeFrame t (logRec t c) := fun t c => .of_touches (touches_logRec ..) (by decide)
  unfold holdover
  exact .ite .refl (.ite ((htake _).trans (hlog ..)) (.ite (((htake _).trans (.of_touches (touches_wr ..) (by decide))).trans (hlog ..)) .refl))

theorem agree_capPredict (s : State) : AgreeIn edgeFrame s (capPredict s) := by
  have hdown : ∀ v o, AgreeIn edgeFrame s { wr s 0x5008 4 v with ceilDown := o } := fun v o =>
    .of_touches (k := [.regs, .ceilDown]) ⟨fun f hf => by
      cases f
      case regs | ceilDown => simp at hf
      all_goals rfl⟩ (by decide)
  have hup : ∀ v o, AgreeIn edgeFrame s { wr s 0x5008 4 v with ceilUp := o } := fun v o =>
    .of_touches (k := [.regs, .ceilUp]) ⟨fun f hf => by
      cases f
      case regs | ceilUp => simp at hf
      all_goals rfl⟩ (by decide)
  unfold capPredict
  exact .ite (hdown ..) (.ite (.of_touches (touches_wr ..) (by decide)) (.ite (hup ..) .refl))

theorem agree_updateCeil (s : State) : AgreeIn edgeFrame s (updateCeil s) := by
  have hreq : ∀ l, AgreeIn edgeFrame s { s with ceilReq := l } := fun l =>
    .of_touches (k := [.ceilReq]) ⟨fun f hf => by
      cases f
      case ceilReq => simp at hf
      all_goals rfl⟩ (by decide)
  have hsend : ∀ t, AgreeIn edgeFrame t (sendRequest t) := fun t => .ite .refl (.of_touches (touches_sendMsg ..) (by decide))
  unfold updateCeil
  exact (hreq _).trans (.ite .refl ((AgreeIn.of_touches (touches_wr ..) (by decide)).trans (hsend _)))

theorem agree_announce (s : State) : AgreeIn edgeFrame s (announce s) := by
  have hjoin : AgreeIn edgeFrame s (joinFreqChange s) :=
    .of_touches (k := [.freqHandle, .freqLater]) ⟨fun f hf => by
      cases f
      case freqHandle | freqLater => simp at hf
      all_goals rfl⟩ (by decide)
  have hset : ∀ t o n, AgreeIn edgeFrame t { setStep t o with fstepSeq := n } := fun t o n =>
    .of_touches (k := [.blobs, .fstepSeq]) ⟨fun f hf => by
      cases f
      case blobs | fstepSeq => simp at hf
      all_goals rfl⟩ (by decide)
  unfold announce
  refine .ite .refl (.ite (hjoin.trans ?_) ?_)
  · exact (AgreeIn.of_touches (touches_freqHandle _ []) (by decide)).trans (.of_touches (touches_endFreqChange ..) (by decide))
  · exact (hjoin.trans (hset ..)).trans (.foldl _ (fun t k => .of_touches (touches_sendMsg ..) (by decide)) _ _)

/-- What follows the partitions' edges leaves the clock, the cores, the memories and the partitions. -/
theorem agree_edgeEnds (s : State) :
    AgreeIn edgeFrame s (announce (setThrottle (updateCeil (capPredict (holdover (movePhase (countHold s))))))) :=
  ((AgreeIn.of_touches (touches_countHold s) (by decide)).trans ((agree_movePhase _).trans (agree_holdover _))).trans
    ((agree_capPredict _).trans ((agree_updateCeil _).trans ((AgreeIn.of_touches (touches_setThrottle _) (by decide)).trans (agree_announce _))))

end Sys2Proof
end


section
/-! SUPPORT. The passing of time and BEAT_EDGE (O31). -/

namespace Sys2Proof

open Machine

variable {s t r : State}

/-! ### The beat that ends -/

/-- What settles the ending beat leaves its number, its edge and its length. -/
structure BeatKept (s t : State) : Prop where
  clock : AgreeIn [.beat, .edge, .variant] s t
  counts : RegsKept fromFabric s t

theorem BeatKept.refl : BeatKept s s := ⟨.refl, .refl⟩

theorem BeatKept.trans (h : BeatKept s t) (g : BeatKept t r) : BeatKept s r := ⟨h.clock.trans g.clock, h.counts.trans g.counts⟩

theorem BeatKept.foldl {α : Type} (f : State → α → State) (h : ∀ t a, BeatKept t (f t a)) (as : List α) (s : State) :
    BeatKept s (as.foldl f s) :=
  List.foldlRecOn (motive := BeatKept s) as f .refl fun t ht a _ => ht.trans (h t a)

theorem BeatKept.ite {a b : State} {c : Prop} [Decidable c] (ha : BeatKept s a) (hb : BeatKept s b) : BeatKept s (if c then a else b) := by
  split <;> assumption

/-- Work of a core leaves the beat. -/
theorem BeatKept.of_worked {k : List Field} {u : Nat} (h : Worked (openBounds True) [u] s t) (ht : Touches k s t)
    (hd : ∀ f ∈ [Field.beat, .edge, .variant], f ∉ k) : BeatKept s t :=
  ⟨.of_touches ht hd, (h.run (openBounds_fits (.inl trivial) _)).1.counts⟩

theorem beatKept_elapse (s : State) (n : Nat) : BeatKept s (elapse s n) :=
  ⟨.of_touches (touches_elapse s n) (by decide), (elapse_kept s n).1.counts⟩

theorem beatKept_settlePart (s : State) (p : Nat) : BeatKept s (settlePart s p) := by
  have hmem : ∀ u : Nat, u ∈ [u] := fun u => List.mem_singleton.2 rfl
  refine .foldl _ (fun t u => .ite ?_ .refl) _ _
  exact (BeatKept.of_worked (worked_meetThrottle (hmem u) t) (touches_meetThrottle ..) (by decide)).trans
    ((BeatKept.of_worked (worked_settle (hmem u) ..) (touches_settle ..) (by decide)).trans
      (.of_worked (worked_adderTo (hmem u) ..) (touches_adderTo ..) (by decide)))

theorem touches_capMiss (s : State) : Touches [.regs, .faultq] s (capMiss s) := by
  unfold capMiss
  split
  · exact .refl
  · exact .ite ((touches_bump ..).trans ((touches_wr ..).mono rfl)) .refl

theorem beatKept_capMiss (s : State) : BeatKept s (capMiss s) := by
  refine ⟨.of_touches (touches_capMiss s) (by decide), ?_⟩
  unfold capMiss
  split
  · exact .refl
  · split
    · exact (regsKept_bump _ _ _ _ _ _ rfl rfl).trans (regsKept_wr _ _ _ _ rfl)
    · exact .refl

/-- The beat that ends, with everything settled that was due in it. -/
def beatEnded (s : State) : State :=
  capMiss (((partitions s).filter fun p => planState s p == 3).foldl settlePart (elapse s (beatLen s - s.cyc)))

theorem beatKept_beatEnded (s : State) : BeatKept s (beatEnded s) :=
  ((beatKept_elapse s _).trans (.foldl _ beatKept_settlePart _ _)).trans (beatKept_capMiss _)

/-! ### The edge -/

/-- While the rails are up the ending beat is settled, the clock moves on, and the partitions and the package meet the edge. -/
theorem beatEdge_of_rails (h : s.railsUp = true) : beatEdge s =
    announce (setThrottle (updateCeil (capPredict (holdover (movePhase (countHold
      (((partitions s).filter fun p => planState s p == 3).foldl (edgePart s.beat) (advanceBeat (beatEnded s))))))))) := by
  simp only [beatEdge, beatEnded, h, Bool.not_true, Bool.false_eq_true, if_false]

theorem beatEdge_of_no_rails (h : s.railsUp = false) : beatEdge s = s := by
  simp only [beatEdge, h, Bool.not_false, if_true]

/-- After the edge the clock is as the step to the next beat has set it. -/
theorem agree_beatEdge_clock (h : s.railsUp = true) : AgreeIn edgeClock (advanceBeat (beatEnded s)) (beatEdge s) := by
  rw [beatEdge_of_rails h]
  refine (AgreeIn.foldl _ (agree_edgePart s.beat) _ _).trans ⟨fun f hf => (agree_edgeEnds _).same f ?_⟩
  exact List.mem_append_left _ hf

theorem touches_advanceBeat (s : State) :
    Touches [.beat, .edge, .cyc, .capSeen, .stretchNow, .stretchHit, .edgePs, .lastN, .lastLen] s (advanceBeat s) := by
  refine ⟨fun f hf => ?_⟩
  cases f
  case beat | edge | cyc | capSeen | stretchNow | stretchHit | edgePs | lastN | lastLen => simp at hf
  all_goals rfl

/-- With no plan running and nothing in progress the edge leaves the cores, the memories and the partitions. -/
theorem agree_beatEdge_idle (h : s.railsUp = true) (hplan : ∀ p ∈ partitions s, planState s p ≠ 3) (hb : busyCores s = []) :
    AgreeIn [.cores, .mem, .ecc, .parts] s (beatEdge s) := by
  have hrun : ((partitions s).filter fun p => planState s p == 3) = [] :=
    List.filter_eq_nil_iff.2 fun p hp => by simpa using hplan p hp
  rw [beatEdge_of_rails h, beatEnded, hrun]
  have hended : AgreeIn [.cores, .mem, .ecc, .parts] s (capMiss (elapse s (beatLen s - s.cyc))) :=
    (AgreeIn.of_touches (touches_elapse_of_idle hb _) (by decide)).trans (.of_touches (touches_capMiss _) (by decide))
  refine (hended.trans (.of_touches (touches_advanceBeat _) (by decide))).trans ⟨fun f hf => (agree_edgeEnds _).same f ?_⟩
  exact List.mem_append_right _ hf

/-- A command of a powered module ends in its next state, but for what is pending, the variant and ALERT_N. -/
theorem done_next_touches (hp : s.powered = true) (t : State) :
    ∃ r, Machine.done s t = .next r ∧ Touches [.pending, .variant, .alertN] t r := by
  refine ⟨_, if_pos hp, ⟨fun f hf => ?_⟩⟩
  cases f
  case pending | variant | alertN => simp at hf
  all_goals rfl

/-- Settles O31. The cycles before a command's are bounded operation by operation; an edge sets the clock once the ending beat is settled, and
nothing that follows touches it. -/
theorem beatEdgeAdvancesTime : Obligations.BeatEdgeAdvancesTime := by
  refine ⟨fun s c => ⟨timePassed_tick s c, tick_cyc s c, fun hb => touches_elapse_of_idle hb _⟩,
    fun s hp => ⟨fun hr => ?_, fun hr => ?_⟩⟩
  · obtain ⟨r, hnext, hend⟩ := done_next_touches hp (beatEdge s)
    have hclock : AgreeIn edgeClock (advanceBeat (beatEnded s)) r := (agree_beatEdge_clock hr).trans (.of_touches hend (by decide))
    obtain ⟨hkept, hcounts⟩ := beatKept_beatEnded s
    have hbeat : (beatEnded s).beat = s.beat := hkept.same .beat (by decide)
    have hedge : (beatEnded s).edge = s.edge := hkept.same .edge (by decide)
    have hlen : beatLen (beatEnded s) = beatLen s := beatLen_of_regsKept hcounts (hkept.same .variant (by decide)) rfl
    refine ⟨r, hnext, ?_, ?_, hclock.same .cyc (by decide), hclock.same .stretchNow (by decide), hclock.same .stretchHit (by decide),
      fun hplan hb => ?_⟩
    · rw [← hbeat]
      exact hclock.same .beat (by decide)
    · rw [← hedge, ← hlen]
      exact hclock.same .edge (by decide)
    · have hidle : AgreeIn [.cores, .mem, .ecc, .parts] s r := (agree_beatEdge_idle hr hplan hb).trans (.of_touches hend (by decide))
      exact ⟨hidle.same .cores (by decide), hidle.same .mem (by decide), hidle.same .ecc (by decide), hidle.same .parts (by decide)⟩
  · obtain ⟨r, hnext, hend⟩ := done_next (t := beatEdge s) hp (by rw [beatEdge_of_no_rails hr]) (by rw [beatEdge_of_no_rails hr])
    rw [beatEdge_of_no_rails hr] at hend
    exact ⟨r, hnext, hend⟩

end Sys2Proof
end

section
/-! SUPPORT. The ports of a core's counter adder: each applies one increment in a cycle (O28). -/

namespace Sys2Proof

open Machine

/-! ### The increment that a port takes (R265, R266, R272) -/

/-- Of a port's increments whose cycle has come, the first in the port's order. -/
def dueInc (now : Nat) (l : List PortInc) : Option PortInc := firstInc (l.filter fun k => decide (k.ready ≤ now))

/-- The core with an increment of one of its ports in the adder's present cycle. -/
def addedInc (x : CoreSt) (src : Nat) (r : PortInc) : CoreSt :=
  { x with addNow := insAdd x.addNow { ctr := r.ctr, src := src, inc := r.inc } }

theorem coreAt_deliver (s : State) (u src : Nat) (r : PortInc) :
    coreAt (deliver s u src r.ctr r.inc) u = addedInc (coreAt s u) src r := coreAt_setCore ..

theorem touches_deliver (s : State) (u src ctr inc : Nat) : Touches [.cores] s (deliver s u src ctr inc) := touches_setCore ..

theorem touches_completeAt (s : State) (u cnt c : Nat) : Touches [.cores] s (completeAt s u cnt c) := touches_setCore ..

/-! ### The canopy port -/

/-- The increment has left the canopy port, and counts if it is a post. -/
def postTaken (s : State) (u : Nat) (r : PortInc) : State :=
  bump (setCore s u { coreAt s u with canQ := dropInc (coreAt s u).canQ r }) (0x7860 + dieOf u) 1 6 0 (if r.release then 0 else 1)

/-- The increment goes to the adder, and a release completes the BARRIER that it names. -/
def postApplied (s : State) (u : Nat) (r : PortInc) : State :=
  let t := deliver (postTaken s u r) u 2 r.ctr r.inc
  if r.comp = 0 then t else completeAt t u r.comp (absNow t)

theorem postApply_of_due {s : State} {u : Nat} {r : PortInc} (h : dueInc (absNow s) (coreAt s u).canQ = some r)
    (hsrc : sourceUsed (coreAt s u) 2 = false) : postApply s u = postApplied s u r := by
  have hcount : ∀ t : State, (if r.release then t else bump t (0x7860 + dieOf u) 1 6 0 1) =
      bump t (0x7860 + dieOf u) 1 6 0 (if r.release then 0 else 1) := fun t => by
    cases r.release
    · rfl
    · exact (bumpAt_zero ..).symm
  unfold dueInc at h
  rw [postApply, h]
  dsimp only
  rw [if_neg (by simp [hsrc]), hcount]
  rfl

theorem postApply_of_idle {s : State} {u : Nat} (h : dueInc (absNow s) (coreAt s u).canQ = none ∨ sourceUsed (coreAt s u) 2 = true) :
    postApply s u = s := by
  unfold dueInc at h
  unfold postApply
  dsimp only
  split
  · rfl
  next r hr =>
    obtain h | h := h
    · rw [h] at hr
      cases hr
    · rw [if_pos h]

theorem touches_postApplied (s : State) (u : Nat) (r : PortInc) : Touches [.cores] (postTaken s u r) (postApplied s u r) :=
  .ite (touches_deliver ..) ((touches_deliver ..).trans (touches_completeAt ..))

theorem coreFrame_postApplied {u : Nat} (hd : dieOf u < 4) (s : State) (r : PortInc) : CoreFrame u [] s (postApplied s u r) := by
  have htaken : CoreFrame u [] s (postTaken s u r) := (coreFrame_setCore ..).trans
    (coreFrame_bump _ _ _ _ _ _ (countKey_of (by decide) (by simp; omega)) (countKey_of (by decide) (by simp; omega)))
  unfold postApplied
  dsimp only
  split
  · exact htaken.trans (coreFrame_deliver ..)
  · exact htaken.trans ((coreFrame_deliver ..).trans (coreFrame_completeAt ..))

/-- The core's port, adder and outstanding descriptors once the increment is applied. -/
theorem coreAt_postApplied (s : State) (u : Nat) (r : PortInc) :
    (coreAt (postApplied s u r) u).canQ = dropInc (coreAt s u).canQ r ∧
      (coreAt (postApplied s u r) u).addNow = insAdd (coreAt s u).addNow { ctr := r.ctr, src := 2, inc := r.inc } ∧
      (coreAt (postApplied s u r) u).outst =
        (if r.comp = 0 then (coreAt s u).outst else (coreAt s u).outst.filter fun o => o.cnt != r.comp) := by
  have hdelivered : coreAt (deliver (postTaken s u r) u 2 r.ctr r.inc) u =
      addedInc { coreAt s u with canQ := dropInc (coreAt s u).canQ r } 2 r := by
    rw [coreAt_deliver, postTaken, (touches_bump ..).coreAt_eq (by decide), coreAt_setCore]
  unfold postApplied
  dsimp only
  split
  · rw [hdelivered]
    exact ⟨rfl, rfl, rfl⟩
  · rw [completeAt, coreAt_setCore, hdelivered]
    exact ⟨rfl, rfl, rfl⟩

theorem rg_postApplied {u : Nat} (hd : dieOf u < 4) (s : State) (r : PortInc) :
    rg (postApplied s u r) (0x7860 + dieOf u) 1 = counted (rg s (0x7860 + dieOf u) 1) (if r.release then 0 else 1) := by
  rw [(touches_postApplied s u r).rg_eq (by decide) (by decide), postTaken, rg_bump_same (by decide) (by decide) (by decide) (by omega),
    (touches_setCore ..).rg_eq (by decide) (by decide)]

/-! ### The arrival port -/

/-- The increment has left the arrival port for the adder. -/
def arrivalApplied (s : State) (u : Nat) (r : PortInc) : State :=
  deliver (setCore s u { coreAt s u with arrQ := dropInc (coreAt s u).arrQ r }) u 1 r.ctr r.inc

theorem arrivalApply_of_due {s : State} {u : Nat} {r : PortInc} (h : dueInc (absNow s) (coreAt s u).arrQ = some r)
    (hsrc : sourceUsed (coreAt s u) 1 = false) : arrivalApply s u = arrivalApplied s u r := by
  unfold dueInc at h
  rw [arrivalApply, h]
  dsimp only
  rw [if_neg (by simp [hsrc])]
  rfl

theorem arrivalApply_of_idle {s : State} {u : Nat} (h : dueInc (absNow s) (coreAt s u).arrQ = none ∨ sourceUsed (coreAt s u) 1 = true) :
    arrivalApply s u = s := by
  unfold dueInc at h
  unfold arrivalApply
  dsimp only
  split
  · rfl
  next r hr =>
    obtain h | h := h
    · rw [h] at hr
      cases hr
    · rw [if_pos h]

theorem coreAt_arrivalApplied (s : State) (u : Nat) (r : PortInc) :
    coreAt (arrivalApplied s u r) u = addedInc { coreAt s u with arrQ := dropInc (coreAt s u).arrQ r } 1 r := by
  rw [arrivalApplied, coreAt_deliver, coreAt_setCore]

/-! ### O28 -/

theorem exec_syncPostApply_eq (s : State) (u c : Nat) : exec (.syncPostApply u c) s =
    onCore s u (if coreWorks (coreTick s u c) u then postApply (coreTick s u c) u else coreTick s u c) := rfl

theorem exec_arrivalApply_eq (s : State) (u c : Nat) : exec (.arrivalApply u c) s =
    onCore s u (if coreWorks (coreTick s u c) u then arrivalApply (coreTick s u c) u else coreTick s u c) := rfl

/-- Settles O28: a port whose due increment may go applies it (`coreAt_postApplied`, `coreAt_arrivalApplied`), any other stays as it is. -/
theorem portsApplyOneIncrement : Obligations.PortsApplyOneIncrement := by
  intro s u c hp hu t x due hw
  have hd : dieOf u < 4 := dieOf_lt hu
  have hpost : exec (.syncPostApply u c) s = onCore s u (postApply t u) := by rw [exec_syncPostApply_eq, if_pos hw]
  have harr : exec (.arrivalApply u c) s = onCore s u (arrivalApply t u) := by rw [exec_arrivalApply_eq, if_pos hw]
  have hidle : ∃ t', onCore s u t = .next t' ∧ Touches [.alertN] t t' := onCore_next_idle hp hu
  have hends : ∀ w, CoreFrame u [] t w → ∃ t', onCore s u w = .next t' ∧ Touches [.alertN] w t' ∧ CoreFrame u [] t t' :=
    fun w hw => onCore_next_frame hp hu hw (by decide)
  clear_value t
  refine ⟨fun r hr hsrc => ?_, fun r hr hsrc => ?_, fun h => ?_, fun h => ?_⟩
  · obtain ⟨t', ht, hend, hframe⟩ := hends _ (coreFrame_postApplied hd t r)
    obtain ⟨hq, hadd, hout⟩ := coreAt_postApplied t u r
    have hcore := hend.coreAt_eq (by decide) u
    refine ⟨t', by rw [hpost, postApply_of_due hr hsrc, ht], ?_, ?_, ?_, ?_, hframe⟩
    · rw [hcore, hq]
    · rw [hcore, hadd]
    · rw [hcore, hout]
    · rw [hend.rg_eq (by decide) (by decide), rg_postApplied hd]
  · obtain ⟨t', ht, hend, hframe⟩ := hends (arrivalApplied t u r) ((coreFrame_setCore ..).trans (coreFrame_deliver ..))
    refine ⟨t', by rw [harr, arrivalApply_of_due hr hsrc, ht], ?_, hframe⟩
    rw [hend.coreAt_eq (by decide), coreAt_arrivalApplied]
    rfl
  · rw [hpost, postApply_of_idle h]
    exact hidle
  · rw [harr, arrivalApply_of_idle h]
    exact hidle

end Sys2Proof
end

section
/-! SUPPORT. Rules that the proofs on the canopy and on the timing tree share: the entries that the fault log leaves alone whatever it logs,
canopy messages that leave on several links, and the outcomes of commands of the package and of links. -/

namespace Sys2Proof

open Machine

/-! ### What an entry of the fault log writes (R628, R630, R648) -/

/-- The entries from 0x2008 on, but for those of the beat and of the plans: the counts and the last-entry records of the fault log are among
them. -/
def logEntry (k : Nat) : Bool := decide (0x2008 ≤ k / 256 ∧ ¬(0x2100 ≤ k / 256 ∧ k / 256 < 0x2130))

theorem logEntry_rkey {i j : Nat} (hj : j < 256) : logEntry (rkey i j) = decide (0x2008 ≤ i ∧ ¬(0x2100 ≤ i ∧ i < 0x2130)) := by
  have hdiv : rkey i j / 256 = i := by unfold rkey; omega
  rw [logEntry, hdiv]

theorem logEntry_of_idx {i j : Nat} (hj : j < 256) (hi : 0x2008 ≤ i) (h : i < 0x2100 ∨ 0x2130 ≤ i) : logEntry (rkey i j) = true := by
  rw [logEntry_rkey hj, decide_eq_true_eq]
  omega

/-- No entry has changed but those that the fault log writes. -/
structure LogKept (s t : State) : Prop where
  regs : RegsKept logEntry s t
  blobs : BlobsKept logEntry s t
  variant : t.variant = s.variant

theorem LogKept.of_touches {l : List Field} {s t : State} (h : Touches l s t) (hd : ∀ f ∈ [Field.regs, .blobs, .variant], f ∉ l) :
    LogKept s t := by
  have hblobs : t.blobs = s.blobs := h.same .blobs (hd _ (by decide))
  exact ⟨.of_eq (h.same .regs (hd _ (by decide))), fun k _ => by rw [hblobs], h.same .variant (hd _ (by decide))⟩

theorem LogKept.refl {s : State} : LogKept s s := .of_touches (l := []) .refl (by decide)

theorem LogKept.trans {s t r : State} (h : LogKept s t) (g : LogKept t r) : LogKept s r :=
  ⟨h.regs.trans g.regs, fun k hk => (g.blobs k hk).trans (h.blobs k hk), g.variant.trans h.variant⟩

/-- One more update, or none. -/
theorem LogKept.orKept {s w v : State} {c : Prop} [Decidable c] (h : LogKept s w) (g : LogKept w v) : LogKept s (if c then v else w) := by
  split
  · exact h.trans g
  · exact h

theorem LogKept.rg_eq {s t : State} (h : LogKept s t) {i j : Nat} (hj : j < 256) (hi : i < 0x2008 ∨ 0x2100 ≤ i ∧ i < 0x2130) :
    rg t i j = rg s i j := by
  refine h.regs.rg h.variant i j ?_
  rw [logEntry_rkey hj, decide_eq_false_iff_not]
  omega

theorem logKept_bumpAt (s : State) {i j oi oj : Nat} (b n : Nat) (h : logEntry (rkey i j) = true) (g : logEntry (rkey oi oj) = true) :
    LogKept s (bumpAt s i j oi oj b n) := by
  have hf := touches_bumpAt s i j oi oj b n
  have hblobs : (bumpAt s i j oi oj b n).blobs = s.blobs := hf.same .blobs (by decide)
  exact ⟨regsKept_bumpAt _ _ _ _ _ _ _ h g, fun k _ => by rw [hblobs], hf.same .variant (by decide)⟩

theorem logKept_wb (s : State) {i j : Nat} (b : List Byte) (h : logEntry (rkey i j) = true) : LogKept s (wb s i j b) := by
  refine ⟨.of_eq rfl, fun k hk => kget_kset_other _ _ _ _ fun he => ?_, rfl⟩
  rw [he, h] at hk
  cases hk

/-- The counts and the records of each code lie at its own index, by die or by partition. -/
theorem logKept_noteEntry (s : State) (r : LogRec) : LogKept s (noteEntry s r) := by
  have hd : r.unit / 256 % 4 < 4 := Nat.mod_lt _ (by decide)
  have key : ∀ {i j : Nat}, j < 256 → 0x2008 ≤ i → i < 0x2100 ∨ 0x2130 ≤ i → logEntry (rkey i j) = true := logEntry_of_idx
  have hb : ∀ {i j oi oj : Nat} (b : Nat), logEntry (rkey i j) = true → logEntry (rkey oi oj) = true → LogKept s (bumpAt s i j oi oj b 1) :=
    fun b => logKept_bumpAt s b 1
  have hw : ∀ {t : State} {i j : Nat} {m : List Byte}, LogKept s t → logEntry (rkey i j) = true → LogKept s (wb t i j m) :=
    fun ht h => ht.trans (logKept_wb _ _ h)
  unfold noteEntry
  dsimp only
  split
  -- a code that none counts
  case h_21 => exact .refl
  -- the last record alone
  case h_1 | h_12 | h_13 | h_14 => exact hw .refl (key (by decide) (by omega) (by omega))
  -- a count and the last record
  case h_4 | h_5 | h_15 | h_16 | h_17 | h_20 =>
    exact hw (hb _ (key (by decide) (by omega) (by omega)) (key (by decide) (by omega) (by omega))) (key (by decide) (by omega) (by omega))
  -- a count alone
  all_goals exact hb _ (key (by decide) (by omega) (by omega)) (key (by decide) (by omega) (by omega))

theorem logKept_logNow (s : State) (r : LogRec) : LogKept s (logNow s r) := by
  have hadd : ∀ (l : List LogRec) (n : Nat), LogKept s { s with logNum := n, log := l } := fun l n => ⟨.of_eq rfl, fun _ _ => rfl, rfl⟩
  have hevent : ∀ (t : State) (f : Session → Bool) (ty : Nat) (b : List Byte), LogKept t (eventAll t f ty b) := fun t f ty b =>
    .of_touches (touches_eventAll ..) (by decide)
  unfold logNow
  dsimp only
  refine LogKept.trans ?_ (logKept_noteEntry ..)
  refine .orKept (LogKept.trans ?_ (hevent ..)) (hevent ..)
  exact .orKept ((hadd ..).trans (logKept_bumpAt _ _ _ rfl rfl)) (logKept_wb _ _ rfl)

theorem logKept_logRec (s : State) (r : LogRec) : LogKept s (logRec s r) := by
  unfold logRec
  split
  · split
    · exact ⟨.of_eq rfl, fun _ _ => rfl, rfl⟩
    · exact logKept_bumpAt _ _ _ rfl rfl
  · exact logKept_logNow ..

/-- A PLAN_FAULT that is raised marks partitions beside its entry of the log. -/
theorem logKept_raise {s : State} {r : LogRec} (h : r.cls = 2) : LogKept s (raise s r) := by
  have hmark : Touches [.parts] (logRec s r) (raise s r) := by
    rw [raise, escalate, if_pos h]
    exact .foldl _ (fun t q => .ite (touches_setPart ..) .refl) _ _
  exact (logKept_logRec s r).trans (.of_touches hmark (by decide))

/-! ### Messages (R287, R394) -/

/-- A native link that is UP or in HOLD takes messages. -/
def TakesMsg (s : State) (l : Nat) : Prop := (linkState s l = 3 ∨ linkState s l = 4) ∧ isNative s l = true

theorem TakesMsg.congr {k : List Field} {s t : State} {l : Nat} (h : TakesMsg s l) (g : Touches k s t) (hr : Field.regs ∉ k)
    (hv : Field.variant ∉ k) : TakesMsg t l := by
  unfold TakesMsg linkState isNative at h ⊢
  rwa [g.rg_eq hr hv, g.rg_eq hr hv]

theorem mem_out_sendMsg {s : State} {l : Nat} (h : TakesMsg s l) (mtype : Nat) (args : List Nat) :
    Out.canopy l mtype args ∈ (sendMsg s l mtype args).out := by
  unfold TakesMsg at h
  rw [sendMsg, if_pos h]
  exact List.mem_append_right _ (List.mem_singleton_self _)

theorem mem_out_sendMsg_of_mem {s : State} {o : Out} (ho : o ∈ s.out) (l mtype : Nat) (args : List Nat) : o ∈ (sendMsg s l mtype args).out := by
  unfold sendMsg
  split
  · exact List.mem_append_left _ ho
  · exact ho

/-- One message on each of a list of links, with the beat and the cycle of its sending, leaves on every one of them that takes it. -/
theorem mem_out_foldl_sendMsg {s : State} {l : Nat} {ls : List Nat} (hm : l ∈ ls) (h : TakesMsg s l) (mtype : Nat)
    (args : Nat → Nat → List Nat) :
    Out.canopy l mtype (args s.beat s.cyc) ∈ (ls.foldl (fun t k => sendMsg t k mtype (args t.beat t.cyc)) s).out := by
  refine foldl_reaches (Q := Touches [.links, .out] s) (P := fun t => Out.canopy l mtype (args s.beat s.cyc) ∈ t.out) hm
    (fun t k ht => ht.trans (touches_sendMsg ..)) (fun t ht => ?_) (fun t k ht => mem_out_sendMsg_of_mem ht ..) .refl
  have hbeat : t.beat = s.beat := ht.same .beat (by decide)
  have hcyc : t.cyc = s.cyc := ht.same .cyc (by decide)
  rw [hbeat, hcyc]
  exact mem_out_sendMsg (h.congr ht (by decide) (by decide)) ..

/-! ### Reading byte entries -/

theorem Touches.rb_eq {l : List Field} {s t : State} (h : Touches l s t) (hb : Field.blobs ∉ l) (hr : Field.regs ∉ l)
    (hv : Field.variant ∉ l) (i j : Nat) : rb t i j = rb s i j := by
  have hblobs : t.blobs = s.blobs := h.same .blobs hb
  have hvar : t.variant = s.variant := h.same .variant hv
  rw [rb, rb, ownComp, ownComp, hblobs, hvar, h.rg_eq hr hv]

theorem leAt_append_left {a b : List Byte} {o n : Nat} (h : o + n ≤ a.length) : leAt (a ++ b) o n = leAt a o n := by
  rw [leAt, leAt, List.drop_append_of_le_length (by omega), List.take_append_of_le_length (by rw [List.length_drop]; omega)]

theorem leAt_append_right {a b : List Byte} {o n : Nat} (h : a.length ≤ o) : leAt (a ++ b) o n = leAt b (o - a.length) n := by
  rw [leAt, leAt, List.drop_append, List.drop_eq_nil_of_le h, List.nil_append]

/-! ### Outcomes of commands of the package and of links -/

/-- The outcome of a command of the package that is carried out at its cycle. -/
theorem done_next_tick {s w : State} {c : Nat} {l : List Field} (hp : s.powered = true) (h : Touches l (tick s c) w)
    (hl : l.all (fun f => decide (f ≠ .pending ∧ f ≠ .variant)) = true) : ∃ t, Machine.done s w = .next t ∧ Touches [.alertN] w t := by
  have hnot : ∀ f ∈ l, f ≠ .pending ∧ f ≠ .variant := fun f hf => by simpa using List.all_eq_true.1 hl f hf
  have htick := touches_tick s c
  exact done_next hp ((h.same .pending fun hf => (hnot _ hf).1 rfl).trans (htick.same .pending (by decide)))
    ((h.same .variant fun hf => (hnot _ hf).2 rfl).trans (htick.same .variant (by decide)))

/-- The outcome of a link's command: ending it adds nothing to what it leaves. -/
theorem onLink_next {s w : State} {l : Nat} {k : List Field} (hp : s.powered = true) (hl : l < linksOf s.variant) (h : Touches k s w)
    (hk : k.all (fun f => decide (f ≠ .pending ∧ f ≠ .variant)) = true) : ∃ t, onLink s l w = .next t ∧ Touches [.alertN] w t := by
  have hnot : ∀ f ∈ k, f ≠ .pending ∧ f ≠ .variant := fun f hf => by simpa using List.all_eq_true.1 hk f hf
  obtain ⟨t, ht, hend⟩ := done_next hp (h.same .pending fun hf => (hnot _ hf).1 rfl) (h.same .variant fun hf => (hnot _ hf).2 rfl)
  exact ⟨t, by rw [onLink, if_pos hl, ht], hend⟩

theorem onLink_next_idle {s : State} {l : Nat} (hp : s.powered = true) (hl : l < linksOf s.variant) :
    ∃ t, onLink s l s = .next t ∧ Touches [.alertN] s t := onLink_next (k := []) hp hl .refl rfl

end Sys2Proof
end

section
/-! SUPPORT. The end of a barrier: its release to the participants, its time-out, and the RELEASE of the canopy parent (O30). -/

namespace Sys2Proof

open Machine

/-! ### The release reaches the participants (R281, R282) -/

/-- The participant `k` of a barrier, with its increment in its canopy port and the BID free again. -/
def releasedCore (now bid : Nat) (k : Nat × Nat × Nat × Nat) (x : CoreSt) : CoreSt :=
  { x with canQ := x.canQ ++ [(⟨k.2.2.1, k.2.2.2, now, true, bid, k.2.1⟩ : PortInc)], waitBid := x.waitBid.filter fun b => b.1 != bid }

theorem releaseCore_eq (s : State) (bid : Nat) (k : Nat × Nat × Nat × Nat) :
    releaseCore s bid k = setCore s k.1 (releasedCore (absNow s) bid k (coreAt s k.1)) := rfl

/-- The release has reached each of the participants `l`. -/
def releaseCores (s : State) (bid : Nat) (l : List (Nat × Nat × Nat × Nat)) : State := l.foldl (fun t k => releaseCore t bid k) s

theorem touches_releaseCore (s : State) (bid : Nat) (k : Nat × Nat × Nat × Nat) : Touches [.cores] s (releaseCore s bid k) := touches_setCore ..

theorem touches_releaseCores (s : State) (bid : Nat) (l : List (Nat × Nat × Nat × Nat)) : Touches [.cores] s (releaseCores s bid l) :=
  .foldl _ (fun t k => touches_releaseCore t bid k) _ _

theorem coreAt_releaseCores_other {v bid : Nat} {l : List (Nat × Nat × Nat × Nat)} (h : ∀ k ∈ l, k.1 ≠ v) (s : State) :
    coreAt (releaseCores s bid l) v = coreAt s v :=
  List.foldlRecOn (motive := fun t => coreAt t v = coreAt s v) l _ rfl fun t ht k hk => by
    rw [releaseCore_eq, coreAt_setCore_other _ _ _ _ (h k hk).symm, ht]

/-- Of participants at different cores each gets its own increment. -/
theorem coreAt_releaseCores_of_mem {bid : Nat} {k : Nat × Nat × Nat × Nat} {l : List (Nat × Nat × Nat × Nat)} (hn : (l.map fun k => k.1).Nodup)
    (hk : k ∈ l) (s : State) : coreAt (releaseCores s bid l) k.1 = releasedCore (absNow s) bid k (coreAt s k.1) := by
  induction l generalizing s with
  | nil => cases hk
  | cons a r ih =>
    obtain ⟨ha, hr⟩ := List.nodup_cons.1 hn
    have hstep : releaseCores s bid (a :: r) = releaseCores (releaseCore s bid a) bid r := rfl
    have hdiff : ∀ j ∈ r, j.1 ≠ a.1 := fun j hj he => ha (List.mem_map.2 ⟨j, hj, he⟩)
    rw [hstep]
    obtain rfl | hk := List.mem_cons.1 hk
    · rw [coreAt_releaseCores_other hdiff, releaseCore_eq, coreAt_setCore]
    · rw [ih hr hk, (touches_releaseCore ..).absNow_eq (by decide) (by decide), releaseCore_eq, coreAt_setCore_other _ _ _ _ (hdiff k hk)]

/-! ### BARRIER_RELEASE (R236, R279 to R282) -/

/-- A partition's records of its nodes without the instance of `i`. -/
def withoutInst (q : PartSt) (i : BInst) : PartSt :=
  { q with insts := q.insts.filter fun k => !sameInst k i, reach := q.reach.filter fun k => !sameInst k i }

theorem closeInst_eq (s : State) (p : Nat) (i : BInst) : closeInst s p i = setPart s p (withoutInst (Machine.partAt s p) i) := rfl

/-- The release of `i` has reached its participants, and the instance is closed and counted. -/
def barrierReleased (t : State) (p bid : Nat) (i : BInst) : State :=
  bump (closeInst (releaseCores t bid i.cores) p i) (0x2210 + p) 7 14 0 1

theorem barrierRelease_of_due {t : State} {p bid scope node a : Nat} {i : BInst} (h : instAt t p bid scope node (fun i => !i.bad) = some i)
    (ha : i.relAt = some a) (hdue : a ≤ absNow t) (hs : regionStill t (nodeRegion i) = false) :
    barrierRelease t p bid scope node = barrierReleased t p bid i := by
  rw [barrierRelease, h]
  dsimp only
  rw [ha]
  dsimp only
  rw [if_neg (by simp [hs, hdue])]
  rfl

theorem barrierRelease_of_early {t : State} {p bid scope node a : Nat} {i : BInst} (h : instAt t p bid scope node (fun i => !i.bad) = some i)
    (ha : i.relAt = some a) (he : absNow t < a ∨ regionStill t (nodeRegion i) = true) : barrierRelease t p bid scope node = t := by
  rw [barrierRelease, h]
  dsimp only
  rw [ha]
  dsimp only
  rw [if_pos he]

theorem exec_barrierRelease_of_running {s : State} {p c : Nat} (bid scope node : Nat) (h : planState (tick s c) p = 3) :
    exec (.barrierRelease p bid scope node c) s = onPart s p (barrierRelease (tick s c) p bid scope node) := by
  change onPart s p (if planState (tick s c) p = 3 then barrierRelease (tick s c) p bid scope node else tick s c) = _
  rw [if_pos h]

/-- What a release leaves of the partition, of the participants and of the count. -/
structure BarrierReleased (t : State) (p bid : Nat) (i : BInst) (w : State) : Prop where
  fields : Touches [.cores, .parts, .regs, .faultq, .alertN] t w
  part : Machine.partAt w p = withoutInst (Machine.partAt t p) i
  others : OtherParts p t w
  cores : ∀ v, coreAt w v = coreAt (releaseCores t bid i.cores) v
  count : rg w (0x2210 + p) 7 = counted (rg t (0x2210 + p) 7) 1

theorem barrierReleased_releases {p : Nat} (hp : p < 4) (t : State) (bid : Nat) (i : BInst) :
    BarrierReleased t p bid i (barrierReleased t p bid i) := by
  have hcores := touches_releaseCores t bid i.cores
  have hclose : Touches [.parts] (releaseCores t bid i.cores) (closeInst (releaseCores t bid i.cores) p i) := touches_setPart ..
  have hbump := touches_bump (closeInst (releaseCores t bid i.cores) p i) (0x2210 + p) 7 14 0 1
  refine ⟨(hcores.mono rfl).trans ((hclose.mono rfl).trans (hbump.mono rfl)), ?_, fun q hq => ?_, fun v => ?_, ?_⟩
  · rw [barrierReleased, hbump.partAt_eq (by decide), closeInst_eq, partAt_setPart, hcores.partAt_eq (by decide)]
  · rw [barrierReleased, hbump.partAt_eq (by decide), closeInst_eq, partAt_setPart_other _ _ _ _ hq, hcores.partAt_eq (by decide)]
  · rw [barrierReleased, hbump.coreAt_eq (by decide), hclose.coreAt_eq (by decide)]
  · rw [barrierReleased, rg_bump_same (by decide) (by decide) (by decide) (by omega), hclose.rg_eq (by decide) (by decide),
      hcores.rg_eq (by decide) (by decide)]

theorem BarrierReleased.ended {t w t' : State} {p bid : Nat} {i : BInst} (h : BarrierReleased t p bid i w) (g : Touches [.alertN] w t') :
    BarrierReleased t p bid i t' where
  fields := h.fields.trans (g.mono rfl)
  part := by rw [g.partAt_eq (by decide), h.part]
  others := h.others.ended g
  cores v := by rw [g.coreAt_eq (by decide), h.cores]
  count := by rw [g.rg_eq (by decide) (by decide), h.count]

/-! ### CANOPY_TIMEOUT (R282) -/

theorem nodeRec_cls_of {code : Nat} (h : code / 256 = 2) (s : State) (p level die cluster : Nat) (detail : List Byte) :
    (nodeRec s p level die cluster code detail).cls = 2 := by
  unfold nodeRec
  split <;> exact h

/-- What a PLAN_FAULT of a node leaves: the nodes' records of the partition and every entry that the fault log does not write. -/
structure NodeFaulted (p : Nat) (s t : State) : Prop where
  fields : Touches faultFields s t
  nodes : NodesKept p s t
  entries : LogKept s t

theorem nodeFaulted_nodeFault {code : Nat} (h : code / 256 = 2) (s : State) (p level die cluster : Nat) (detail : List Byte) :
    NodeFaulted p s (nodeFault s p level die cluster code detail) := by
  have hcls := nodeRec_cls_of h s p level die cluster detail
  have hcap : ∀ r, LogKept s (capture s r) := fun r => by
    have hf := touches_capture s r
    have hblobs : (capture s r).blobs = s.blobs := hf.same .blobs (by decide)
    exact ⟨regsKept_capture s r rfl rfl, fun k _ => by rw [hblobs], hf.same .variant (by decide)⟩
  unfold nodeFault
  dsimp only
  split
  · exact ⟨(touches_capture ..).mono rfl, nodesKept_capture .., hcap _⟩
  · exact ⟨(touches_raise hcls).mono rfl, nodesKept_raise hcls, logKept_raise hcls⟩

/-- The fleet alarm of a partition is raised, and counted. -/
def alarmRaised (s : State) (r : LogRec) (p : Nat) : State :=
  bump (setPart s p { Machine.partAt s p with alarm := true, cause := LogRec.bytes r }) (0x2210 + p) 10 14 2 1

/-- A RUNNING partition has its alarm raised from now on, if it had not; its nodes' records stay. -/
theorem partAt_raiseAlarm {s : State} {p : Nat} (r : LogRec) (h : planState s p = 3) :
    (Machine.partAt (raiseAlarm s r p) p).alarm = true ∧ NodesKept p s (raiseAlarm s r p) := by
  by_cases ha : (Machine.partAt s p).alarm = true
  · rw [raiseAlarm, if_pos (.inr ha)]
    exact ⟨ha, .refl⟩
  · have hsent : Touches [.links, .out] (alarmRaised s r p) (raiseAlarm s r p) := by
      rw [raiseAlarm, if_neg (by simp [h, ha])]
      exact .foldl _ (fun t l => touches_sendMsg ..) _ _
    have hpart : Machine.partAt (raiseAlarm s r p) p = { Machine.partAt s p with alarm := true, cause := LogRec.bytes r } := by
      rw [hsent.partAt_eq (by decide), alarmRaised, (touches_bump ..).partAt_eq (by decide), partAt_setPart]
    refine ⟨by rw [hpart], ?_, ?_, ?_⟩ <;> rw [hpart]

/-- At the package of the scope's top node the instance closes, the fault of the node is noted, and the alarm is raised. -/
theorem canopyTimeout_of_top {s : State} {p bid scope node : Nat} {i : BInst}
    (h : instAt s p bid scope node (fun i => i.mb && decide (8 ≤ beatDiff s.beat i.beat)) = some i) (ht : topHere s p scope = true) :
    ∃ level die cluster detail r,
      canopyTimeout s p bid scope node = raiseAlarm (nodeFault (closeInst s p i) p level die cluster 0x0206 detail) r p := by
  rw [canopyTimeout, h]
  dsimp only
  rw [if_neg (by simp [ht])]
  exact ⟨_, _, _, _, _, rfl⟩

theorem canopyTimeout_of_elsewhere {s : State} {p bid scope node : Nat} {i : BInst}
    (h : instAt s p bid scope node (fun i => i.mb && decide (8 ≤ beatDiff s.beat i.beat)) = some i) (ht : topHere s p scope = false) :
    canopyTimeout s p bid scope node = s := by
  rw [canopyTimeout, h]
  dsimp only
  rw [if_pos (by simp [ht])]

theorem exec_canopyTimeout_of_running {s : State} {p : Nat} (bid scope node : Nat) (h : planState s p = 3) :
    exec (.canopyTimeout p bid scope node) s = onPart s p (canopyTimeout s p bid scope node) := by
  change onPart s p (if planState s p = 3 then canopyTimeout s p bid scope node else s) = _
  rw [if_pos h]

/-- An instance that has timed out is closed, and its partition's alarm raised. -/
theorem timedOut_canopyTimeout {s : State} {p bid scope node : Nat} {i : BInst} (hp : p < 4) (hrun : planState s p = 3)
    (h : instAt s p bid scope node (fun i => i.mb && decide (8 ≤ beatDiff s.beat i.beat)) = some i) (ht : topHere s p scope = true) :
    Touches (.links :: faultFields) s (canopyTimeout s p bid scope node) ∧
      (Machine.partAt (canopyTimeout s p bid scope node) p).insts = (Machine.partAt s p).insts.filter (fun k => !sameInst k i) ∧
      (Machine.partAt (canopyTimeout s p bid scope node) p).alarm = true := by
  obtain ⟨level, die, cluster, detail, r, hout⟩ := canopyTimeout_of_top h ht
  have hclose : Touches [.parts] s (closeInst s p i) := touches_setPart ..
  have hfault := nodeFaulted_nodeFault (code := 0x0206) rfl (closeInst s p i) p level die cluster detail
  rw [hout]
  generalize nodeFault (closeInst s p i) p level die cluster 0x0206 detail = w at hfault ⊢
  have hstate : planState w p = 3 := by
    rw [planState, hfault.entries.rg_eq (by decide) (by omega), hclose.rg_eq (by decide) (by decide)]
    exact hrun
  obtain ⟨halarm, hnodes⟩ := partAt_raiseAlarm r hstate
  refine ⟨(hclose.mono rfl).trans ((hfault.fields.mono rfl).trans ((touches_raiseAlarm w r p).mono rfl)), ?_, halarm⟩
  rw [hnodes.insts, hfault.nodes.insts, closeInst_eq, partAt_setPart]
  rfl

/-! ### RELEASE_RX (R280, R284, R287) -/

/-- The fleet instances of a RELEASE's BID get their release, 32 cycles on. -/
def releaseFixed (s : State) (p : Nat) (m : ReleaseMsg) : State :=
  setPart s p { Machine.partAt s p with insts := (Machine.partAt s p).insts.map fun i =>
    if i.bid == m.bid && i.scope == 3 && !i.bad then { i with relAt := some (nodeNow s + 32) } else i }

theorem releaseRx_of_parent {t : State} {p l : Nat} (m : ReleaseMsg) (h : canopyParent t p = some l) :
    releaseRx t p l m = releaseFixed (releaseKids t p m.bid m.origin (m.hops + 1)) p m := if_neg (not_not.2 h)

theorem releaseRx_of_other {t : State} {p l : Nat} (m : ReleaseMsg) (h : canopyParent t p ≠ some l) : releaseRx t p l m = t := if_pos h

theorem exec_releaseRx_of_running {s : State} {l c : Nat} (m : ReleaseMsg) (h : planState (tick s c) (partLow (tick s c) (l / 16)) = 3) :
    exec (.releaseRx l m c) s = onLink s l (releaseRx (tick s c) (partLow (tick s c) (l / 16)) l m) := by
  change onLink s l (if planState (tick s c) (partLow (tick s c) (l / 16)) = 3 then
    releaseRx (tick s c) (partLow (tick s c) (l / 16)) l m else tick s c) = _
  rw [if_pos h]

/-- Sending messages leaves the cycle in which the package node takes what comes now. -/
theorem nodeNow_of_sent {s t : State} (h : Touches [.links, .out] s t) : nodeNow t = nodeNow s := by
  have hnow : absNow t = absNow s := h.absNow_eq (by decide) (by decide)
  have hstill : t.stretchNow = s.stretchNow := h.same .stretchNow (by decide)
  rw [nodeNow, nodeNow, regionStill, regionStill, hnow, hstill]

/-- A child link of the canopy that is UP or in HOLD gets the RELEASE. -/
theorem mem_out_releaseKids {s : State} {p n : Nat} (hn : n ∈ canopyKids s p) (hup : linkState s n = 3 ∨ linkState s n = 4)
    (bid origin hops : Nat) :
    Out.canopy n 3 [origin, s.beat, s.cyc, hops, bid] ∈ (releaseKids s p bid origin hops).out := by
  obtain ⟨-, hkid⟩ := List.mem_filter.1 hn
  obtain ⟨-, hnative⟩ := Bool.and_eq_true_iff.1 hkid
  exact mem_out_foldl_sendMsg hn ⟨hup, hnative⟩ 3 fun b c => [origin, b, c, hops, bid]

/-- What the RELEASE of the parent leaves: the fixed release of its BID's fleet instances, and the messages to the children. -/
theorem released_releaseRx {t : State} {p l : Nat} {m : ReleaseMsg} (h : canopyParent t p = some l) :
    (Machine.partAt (releaseRx t p l m) p).insts = (Machine.partAt t p).insts.map (fun i =>
        if i.bid == m.bid && i.scope == 3 && !i.bad then { i with relAt := some (nodeNow t + 32) } else i) ∧
      (∀ n ∈ canopyKids t p, (linkState t n = 3 ∨ linkState t n = 4) →
        Out.canopy n 3 [m.origin, t.beat, t.cyc, m.hops + 1, m.bid] ∈ (releaseRx t p l m).out) ∧
      OtherParts p t (releaseRx t p l m) ∧ Touches [.parts, .links, .out] t (releaseRx t p l m) := by
  have hsent := touches_releaseKids t p m.bid m.origin (m.hops + 1)
  have hfixed : Touches [.parts] (releaseKids t p m.bid m.origin (m.hops + 1)) (releaseRx t p l m) := by
    rw [releaseRx_of_parent m h]
    exact touches_setPart ..
  have hout : (releaseRx t p l m).out = _ := hfixed.same .out (by decide)
  refine ⟨?_, fun n hn hup => ?_, fun q hq => ?_, (hsent.mono rfl).trans (hfixed.mono rfl)⟩
  · rw [releaseRx_of_parent m h, releaseFixed, partAt_setPart, hsent.partAt_eq (by decide), nodeNow_of_sent hsent]
  · rw [hout]
    exact mem_out_releaseKids hn hup ..
  · rw [releaseRx_of_parent m h, releaseFixed, partAt_setPart_other _ _ _ _ hq, hsent.partAt_eq (by decide)]

/-! ### O30 -/

/-- Settles O30: a due release (`barrierReleased_releases`), an instance timed out (`timedOut_canopyTimeout`), and the parent's RELEASE
(`released_releaseRx`). -/
theorem barriersEnd : Obligations.BarriersEnd := by
  unfold Obligations.BarriersEnd
  refine ⟨?_, ?_, ?_⟩
  · intro s p bid scope node c i a hp hm t q hrun hi ha
    have hexec : exec (.barrierRelease p bid scope node c) s = onPart s p (barrierRelease t p bid scope node) :=
      exec_barrierRelease_of_running bid scope node hrun
    refine ⟨fun hdue hs hn => ?_, fun he => ?_⟩
    · have hrel := barrierReleased_releases (partition_lt hm) t bid i
      obtain ⟨t', ht, hend⟩ := onPart_next_tick hp hm hrel.fields (by decide)
      have h := hrel.ended hend
      refine ⟨t', by rw [hexec, barrierRelease_of_due hi ha hdue hs, ht], h.part, h.others, fun k hk => ?_, fun v hv => ?_, h.count, h.fields⟩
      · rw [h.cores, coreAt_releaseCores_of_mem hn hk]
        rfl
      · rw [h.cores, coreAt_releaseCores_other hv]
    · obtain ⟨t', ht, hend⟩ := onPart_next_tick (l := []) (c := c) hp hm .refl rfl
      exact ⟨t', by rw [hexec, barrierRelease_of_early hi ha he, ht], hend⟩
  · intro s p bid scope node i hp hm hrun hi
    have hexec := exec_canopyTimeout_of_running bid scope node hrun
    refine ⟨fun htop => ?_, fun htop => ?_⟩
    · obtain ⟨hfields, hinsts, halarm⟩ := timedOut_canopyTimeout (partition_lt hm) hrun hi htop
      obtain ⟨t', ht, hend⟩ := onPart_next hp hm hfields (by decide)
      have hpart := hend.partAt_eq (by decide) p
      exact ⟨t', hexec.trans ht, by rw [hpart, hinsts], by rw [hpart, halarm],
        (hend.same .cores (by decide)).trans (hfields.same .cores (by decide)),
        (hend.same .mem (by decide)).trans (hfields.same .mem (by decide))⟩
    · rw [hexec, canopyTimeout_of_elsewhere hi htop]
      exact onPart_next_idle hp hm
  · intro s l c m hp hl t p hrun
    have hexec : exec (.releaseRx l m c) s = onLink s l (releaseRx t p l m) := exec_releaseRx_of_running m hrun
    refine ⟨fun hpar => ?_, fun hpar => ?_⟩
    · obtain ⟨hinsts, hout, hothers, hfields⟩ := released_releaseRx (m := m) hpar
      obtain ⟨t', ht, hend⟩ := onLink_next_tick hp hl hfields (by decide)
      have hsame : t'.out = _ := hend.same .out (by decide)
      exact ⟨t', hexec.trans ht, by rw [hend.partAt_eq (by decide), hinsts], fun n hn hup => by rw [hsame]; exact hout n hn hup,
        hothers.ended hend, (hfields.mono rfl).trans (hend.mono rfl)⟩
    · obtain ⟨t', ht, hend⟩ := onLink_next_tick (k := []) (c := c) hp hl .refl rfl
      exact ⟨t', by rw [hexec, releaseRx_of_other m hpar, ht], hend⟩

end Sys2Proof
end

section
/-! SUPPORT. The messages of the timing tree as they are sent and taken: BEATSYNC of the root, requests, announcements, and alarms (O35). -/

namespace Sys2Proof

open Machine

/-! ### BEATSYNC_SEND (R289, R430, R431) -/

/-- Sending a message leaves of a link all but its queue. -/
theorem linkAt_sendMsg (s : State) (l mtype : Nat) (args : List Nat) (k : Nat) :
    ∃ q, linkAt (sendMsg s l mtype args) k = { linkAt s k with unsQ := q } := by
  unfold sendMsg
  dsimp only
  split
  · by_cases hk : k = l
    · subst hk
      exact ⟨_, linkAt_setLink ..⟩
    · exact ⟨_, linkAt_setLink_other _ _ _ _ hk⟩
  · exact ⟨_, rfl⟩

/-- What a BEATSYNC reads of a link: with it, and what sending does not touch, the marker that it names. -/
theorem ringNow_of_sent {s t : State} {l : Nat} (h : Touches [.links, .out] s t) (he : (linkAt t l).era = (linkAt s l).era) :
    ringNow t l = ringNow s l := by
  have hedge : t.edgePs = s.edgePs := h.same .edgePs (by decide)
  have hcyc : t.cyc = s.cyc := h.same .cyc (by decide)
  have hrg : ∀ i j, rg t i j = rg s i j := h.rg_eq (by decide) (by decide)
  have htime : timePs t = timePs s := by rw [timePs, timePs, coreN, coreN, hedge, hcyc, hrg]
  have hring : ringPs t l = ringPs s l := by rw [ringPs, ringPs, glL, glL, hrg]
  have hmarker : lastMarker t l = lastMarker s l := by rw [lastMarker, lastMarker, htime, hring, he]
  rw [ringNow, ringNow, hmarker, he]

/-- A timing link takes messages. -/
theorem takesMsg_of_timingLink {s : State} {l : Nat} (h : l ∈ timingLinks s) : TakesMsg s l := by
  obtain ⟨-, h⟩ := List.mem_filter.1 h
  obtain ⟨hup, -⟩ := Bool.and_eq_true_iff.1 h
  obtain ⟨hup, hnative⟩ := Bool.and_eq_true_iff.1 hup
  exact ⟨.inl (beq_iff_eq.1 hup), hnative⟩

theorem touches_sendSync (s : State) (origin hops l : Nat) : Touches [.links, .out] s (sendSync s origin hops l) := touches_sendMsg ..

/-- A link on which BEATSYNC goes out, and that is marked for this beat. -/
def rootSync (s : State) (l : Nat) : State :=
  let t := sendSync s (ownRank s (timingPart s)) 1 l
  setLink t l { linkAt t l with synced := some t.beat }

theorem rootSyncs_eq (s : State) :
    rootSyncs s = ((timingLinks s).filter fun l => (linkAt s l).synced != some s.beat).foldl rootSync s := rfl

theorem touches_rootSync (s : State) (l : Nat) : Touches [.links, .out] s (rootSync s l) :=
  (touches_sendSync ..).trans ((touches_setLink ..).mono rfl)

theorem touches_rootSyncs (s : State) : Touches [.links, .out] s (rootSyncs s) := .foldl _ touches_rootSync _ _

/-- Sending BEATSYNC on a link marks that link and leaves every link's era. -/
theorem linkAt_rootSync (s : State) (l k : Nat) :
    (linkAt (rootSync s l) k).era = (linkAt s k).era ∧
      (linkAt (rootSync s l) k).synced = if k = l then some s.beat else (linkAt s k).synced := by
  have hbeat : (sendSync s (ownRank s (timingPart s)) 1 l).beat = s.beat := (touches_sendSync ..).same .beat (by decide)
  obtain ⟨q, hq⟩ := linkAt_sendMsg s l 1 _ k
  have hsent : linkAt (sendSync s (ownRank s (timingPart s)) 1 l) k = { linkAt s k with unsQ := q } := hq
  unfold rootSync
  dsimp only
  split
  next h => subst h; rw [linkAt_setLink, hsent, hbeat]; exact ⟨rfl, rfl⟩
  next h => rw [linkAt_setLink_other _ _ _ _ h, hsent]; exact ⟨rfl, rfl⟩

/-- Part of a root's sending is done: no link's era has changed. -/
structure Syncing (s t : State) : Prop where
  fields : Touches [.links, .out] s t
  eras : ∀ l, (linkAt t l).era = (linkAt s l).era

theorem Syncing.rootSync {s t : State} (h : Syncing s t) (l : Nat) : Syncing s (rootSync t l) :=
  ⟨h.fields.trans (touches_rootSync ..), fun k => (linkAt_rootSync t l k).1.trans (h.eras k)⟩

/-- BEATSYNC has left on a link, which is marked for this beat. -/
structure SyncSent (s : State) (l : Nat) (t : State) : Prop extends Syncing s t where
  sent : ∃ args, Out.canopy l 1 (ownRank s (timingPart s) :: s.beat :: s.cyc :: 1 :: ringNow s l :: args) ∈ t.out
  marked : (linkAt t l).synced = some s.beat

theorem syncSent_rootSync {s t : State} {l : Nat} (h : Syncing s t) (hl : TakesMsg s l) : SyncSent s l (rootSync t l) := by
  have hbeat : t.beat = s.beat := h.fields.same .beat (by decide)
  have hcyc : t.cyc = s.cyc := h.fields.same .cyc (by decide)
  have hrank : ownRank t (timingPart t) = ownRank s (timingPart s) := by
    rw [timingPart, h.fields.rg_eq (by decide) (by decide), ownRank, h.fields.partAt_eq (by decide)]
    rfl
  refine ⟨h.rootSync l, ?_, ?_⟩
  · rw [← hrank, ← hbeat, ← hcyc, ← ringNow_of_sent h.fields (h.eras l)]
    exact ⟨_, mem_out_sendMsg (hl.congr h.fields (by decide) (by decide)) _ _⟩
  · rw [(linkAt_rootSync t l l).2, if_pos rfl, hbeat]

theorem SyncSent.rootSync {s t : State} {l : Nat} (h : SyncSent s l t) (k : Nat) : SyncSent s l (rootSync t k) := by
  obtain ⟨args, hargs⟩ := h.sent
  have hbeat : t.beat = s.beat := h.fields.same .beat (by decide)
  refine ⟨h.toSyncing.rootSync k, ⟨args, mem_out_sendMsg_of_mem hargs ..⟩, ?_⟩
  rw [(linkAt_rootSync t k l).2, hbeat, h.marked, ite_self]

/-- Every timing link that was not yet served in this beat is served. -/
theorem syncSent_rootSyncs {s : State} {l : Nat} (hl : l ∈ timingLinks s) (h : (linkAt s l).synced ≠ some s.beat) :
    SyncSent s l (rootSyncs s) := by
  rw [rootSyncs_eq]
  exact foldl_reaches (Q := Syncing s) (P := SyncSent s l) (List.mem_filter.2 ⟨hl, by simpa using h⟩) (fun t k ht => ht.rootSync k)
    (fun t ht => syncSent_rootSync ht (takesMsg_of_timingLink hl)) (fun t k ht => ht.rootSync k) ⟨.refl, fun _ => rfl⟩

theorem rootSyncs_of_served {s : State} (h : ∀ l ∈ timingLinks s, (linkAt s l).synced = some s.beat) : rootSyncs s = s := by
  have hnone : ((timingLinks s).filter fun l => (linkAt s l).synced != some s.beat) = [] :=
    List.filter_eq_nil_iff.2 fun l hl => by simp [h l hl]
  rw [rootSyncs_eq, hnone]
  rfl

theorem exec_beatsyncSend_of_root {s : State} {c : Nat} (hr : timingRoot (tick s c) = true) (hu : (tick s c).railsUp = true)
    (hb : (tick s c).beat % syncPeriods (tick s c) 1 = 0) : exec (.beatsyncSend c) s = Machine.done s (rootSyncs (tick s c)) := by
  change Machine.done s (if timingRoot (tick s c) ∧ (tick s c).railsUp ∧ (tick s c).beat % syncPeriods (tick s c) 1 = 0 then
    rootSyncs (tick s c) else tick s c) = _
  rw [if_pos ⟨hr, hu, hb⟩]

/-- The root sends BEATSYNC on each timing link that it has not served in the beat. -/
theorem beatsyncSend_sends {s : State} {c : Nat} (hp : s.powered = true) (hr : timingRoot (tick s c) = true)
    (hu : (tick s c).railsUp = true) (hb : (tick s c).beat % syncPeriods (tick s c) 1 = 0) :
    ∃ t, exec (.beatsyncSend c) s = .next t ∧ Touches [.alertN] (rootSyncs (tick s c)) t := by
  rw [exec_beatsyncSend_of_root hr hu hb]
  exact done_next_tick hp (touches_rootSyncs _) (by decide)

/-! ### FSTEP_REQUEST_RX (R439) -/

theorem touches_ceilReq (s : State) (m : KMap (Nat × Nat)) : Touches [.ceilReq] s { s with ceilReq := m } := by
  refine ⟨fun f hf => ?_⟩
  cases f
  case ceilReq => simp at hf
  all_goals rfl

theorem touches_sendRequest (s : State) : Touches [.links, .out] s (sendRequest s) := .ite .refl (touches_sendMsg ..)

/-- The requests that are fresh. -/
def freshReqs (s : State) : KMap (Nat × Nat) := s.ceilReq.filter fun r => decide (beatDiff s.beat r.2.2 ≤ syncPeriods s 4)

/-- Dropping the stale requests leaves SUBTREE_CEIL, which is taken over the fresh ones. -/
theorem subtreeCeil_freshReqs (s : State) : subtreeCeil { s with ceilReq := freshReqs s } = subtreeCeil s := by
  have hagain : (freshReqs s).filter (fun r => decide (beatDiff s.beat r.2.2 ≤ syncPeriods s 4)) = freshReqs s := by
    simp [freshReqs, List.filter_filter]
  change (((freshReqs s).filter fun r => decide (beatDiff s.beat r.2.2 ≤ syncPeriods s 4)).map fun r => r.2.1).foldl min (rg s 0x5008 4) = _
  rw [hagain]
  rfl

/-- SUBTREE_CEIL follows the requests; no other number changes. -/
theorem ceilUpdated_updateCeil (s : State) :
    rg (updateCeil s) 0x2000 6 = subtreeCeil s ∧ OnlyRegs [(0x2000, 6)] s (updateCeil s) ∧
      Touches [.ceilReq, .regs, .links, .out] s (updateCeil s) := by
  have hreq := touches_ceilReq s (freshReqs s)
  have hceil := subtreeCeil_freshReqs s
  have hrg : ∀ i j, rg { s with ceilReq := freshReqs s } i j = rg s i j := hreq.rg_eq (by decide) (by decide)
  have heq : updateCeil s = if subtreeCeil { s with ceilReq := freshReqs s } = rg { s with ceilReq := freshReqs s } 0x2000 6 then
      { s with ceilReq := freshReqs s } else
      sendRequest (wr { s with ceilReq := freshReqs s } 0x2000 6 (subtreeCeil { s with ceilReq := freshReqs s })) := rfl
  rw [heq, hceil]
  generalize { s with ceilReq := freshReqs s } = w at *
  split
  next h => exact ⟨h.symm, .of_regs hrg, hreq.mono rfl⟩
  next h =>
    have hsent := touches_sendRequest (wr w 0x2000 6 (subtreeCeil s))
    have hsame : ∀ i j, rg (sendRequest (wr w 0x2000 6 (subtreeCeil s))) i j = rg (wr w 0x2000 6 (subtreeCeil s)) i j :=
      hsent.rg_eq (by decide) (by decide)
    exact ⟨by rw [hsame, rg_wr_same],
      (OnlyRegs.of_regs hrg).trans ((onlyRegs_wr w _ (by decide)).trans (.of_regs hsame)),
      (hreq.mono rfl).trans (((touches_wr ..).mono rfl).trans (hsent.mono rfl))⟩

theorem exec_fstepRequestRx_of_timing {s : State} {l : Nat} (n : Nat) (h : partLow s (l / 16) = timingPart s) :
    exec (.fstepRequestRx l n) s = onLink s l (updateCeil { s with ceilReq := kset s.ceilReq l (n, s.beat) }) := by
  change onLink s l (if partLow s (l / 16) = timingPart s then updateCeil { s with ceilReq := kset s.ceilReq l (n, s.beat) } else s) = _
  rw [if_pos h]

/-! ### FSTEP_ANNOUNCE_RX (R287, R426, R441) -/

/-- A step that is set is the pending one. -/
theorem pendingStep_of_set {s t : State} {b n : Nat} (hb : b < 2 ^ 48) (hn : n < 256) (h : t.blobs = (setStep s (some (b, n))).blobs) :
    pendingStep t = some (b, n) := by
  have hrb : rb t 0x2000 5 = leBytes 6 b ++ leBytes 1 n ++ leBytes 1 1 := rb_of_kget (by rw [h]; exact kget_kset_same ..)
  have hvalid : leAt (leBytes 6 b ++ leBytes 1 n ++ leBytes 1 1) 7 1 = 1 := by
    rw [leAt_append_right (by simp [leBytes_length])]
    rfl
  have hat : leAt (leBytes 6 b ++ leBytes 1 n ++ leBytes 1 1) 0 6 = b := by
    rw [leAt_append_left (by simp [leBytes_length]), leAt_append_left (by simp [leBytes_length]), leAt_leBytes, Nat.pow_zero,
      Nat.div_one]
    exact Nat.mod_eq_of_lt hb
  have hstep : leAt (leBytes 6 b ++ leBytes 1 n ++ leBytes 1 1) 6 1 = n := by
    rw [leAt_append_left (by simp [leBytes_length]), leAt_append_right (by simp [leBytes_length]), leBytes_length, leAt_leBytes,
      Nat.sub_self, Nat.pow_zero, Nat.div_one]
    exact Nat.mod_eq_of_lt hn
  rw [pendingStep, hrb, hvalid, hat, hstep]
  rfl

/-- The announcement has been noted by its SEQ and passed on. -/
def announcePassed (s : State) (n at_ : Nat) (m : StepSeq) : State :=
  (timingLinks { s with fstepSeq := m.seq + 1 }).foldl
    (fun t k => sendMsg t k 4 [m.origin, t.beat, t.cyc, m.hops + 1, 2, n, at_, m.seq]) { s with fstepSeq := m.seq + 1 }

theorem fstepAnnounceRx_of_new {s : State} {l : Nat} {m : StepSeq} (n at_ : Nat) (h : timingActive s = l) (hseq : s.fstepSeq ≠ m.seq + 1) :
    fstepAnnounceRx s l n at_ m = learnStep (announcePassed s n at_ m) n at_ := by
  rw [fstepAnnounceRx, if_neg (by simp [h, hseq])]
  rfl

theorem fstepAnnounceRx_of_known {s : State} {l : Nat} {m : StepSeq} (n at_ : Nat) (h : timingActive s ≠ l ∨ s.fstepSeq = m.seq + 1) :
    fstepAnnounceRx s l n at_ m = s := if_pos h

/-- A step that is new and lies 2 or more beats ahead becomes the pending one. -/
theorem learnStep_of_ahead {s : State} {n at_ : Nat} (hp : pendingStep s ≠ some (at_, n)) (hs : s.fstepSeen ≠ [at_, n])
    (h : 2 ≤ beatDiff at_ s.beat) : learnStep s n at_ = setStep { s with fstepSeen := [at_, n] } (some (at_, n)) := by
  rw [learnStep, if_neg (by simp [hp, hs])]
  dsimp only
  rw [if_neg (by omega)]

theorem touches_fstepSeen (s : State) (l : List Nat) : Touches [.fstepSeen] s { s with fstepSeen := l } := by
  refine ⟨fun f hf => ?_⟩
  cases f
  case fstepSeen => simp at hf
  all_goals rfl

theorem touches_fstepSeq (s : State) (n : Nat) : Touches [.fstepSeq] s { s with fstepSeq := n } := by
  refine ⟨fun f hf => ?_⟩
  cases f
  case fstepSeq => simp at hf
  all_goals rfl

theorem touches_announcePassed (s : State) (n at_ : Nat) (m : StepSeq) :
    Touches [.links, .out] { s with fstepSeq := m.seq + 1 } (announcePassed s n at_ m) := .foldl _ (fun _ _ => touches_sendMsg ..) _ _

theorem mem_out_announcePassed {s : State} {k : Nat} (hk : k ∈ timingLinks s) (n at_ : Nat) (m : StepSeq) :
    Out.canopy k 4 [m.origin, s.beat, s.cyc, m.hops + 1, 2, n, at_, m.seq] ∈ (announcePassed s n at_ m).out :=
  mem_out_foldl_sendMsg (s := { s with fstepSeq := m.seq + 1 }) hk (takesMsg_of_timingLink hk) 4 fun b c =>
    [m.origin, b, c, m.hops + 1, 2, n, at_, m.seq]

/-- What a new announcement leaves. -/
theorem announced_fstepAnnounceRx {s : State} {l n b : Nat} {m : StepSeq} (hl : timingActive s = l) (hseq : s.fstepSeq ≠ m.seq + 1)
    (hpend : pendingStep s ≠ some (b, n)) (hseen : s.fstepSeen ≠ [b, n]) (hahead : 2 ≤ beatDiff b s.beat) :
    (fstepAnnounceRx s l n b m).blobs = (setStep s (some (b, n))).blobs ∧ (fstepAnnounceRx s l n b m).fstepSeq = m.seq + 1 ∧
      (∀ k ∈ timingLinks s, Out.canopy k 4 [m.origin, s.beat, s.cyc, m.hops + 1, 2, n, b, m.seq] ∈ (fstepAnnounceRx s l n b m).out) ∧
      Touches [.blobs, .fstepSeen, .fstepSeq, .links, .out] s (fstepAnnounceRx s l n b m) := by
  have hpassed := touches_announcePassed s n b m
  have hall : Touches [.fstepSeq, .links, .out] s (announcePassed s n b m) := ((touches_fstepSeq ..).mono rfl).trans (hpassed.mono rfl)
  have hblobs : (announcePassed s n b m).blobs = s.blobs := hall.same .blobs (by decide)
  have hbeat : (announcePassed s n b m).beat = s.beat := hall.same .beat (by decide)
  have hseen' : (announcePassed s n b m).fstepSeen = s.fstepSeen := hall.same .fstepSeen (by decide)
  have hpend' : pendingStep (announcePassed s n b m) = pendingStep s := by
    rw [pendingStep, pendingStep, hall.rb_eq (by decide) (by decide) (by decide)]
  have hset := learnStep_of_ahead (s := announcePassed s n b m) (n := n) (at_ := b) (by rwa [hpend']) (by rwa [hseen']) (by rwa [hbeat])
  rw [fstepAnnounceRx_of_new n b hl hseq, hset]
  refine ⟨?_, ?_, fun k hk => mem_out_announcePassed hk n b m, ?_⟩
  · change kset (announcePassed s n b m).blobs _ _ = _
    rw [hblobs]
    rfl
  · exact hpassed.same .fstepSeq (by decide)
  · exact (hall.mono rfl).trans (((touches_fstepSeen ..).mono rfl).trans ((touches_wb ..).mono rfl))

/-! ### ALARM_RX (R289) -/

end Sys2Proof
end

section
/-! SUPPORT. BEATSYNC as it is received: what is noted, what it makes of a LOCKED or ALIGNED package, and what it leaves (O35). -/

namespace Sys2Proof

open Machine

/-! ### The reference marker and the phase error (R432) -/

/-- The package after a BEATSYNC's coming on link `l` and its marker's arrival have been noted. -/
def syncMarked (s : State) (l : Nat) (m : BeatSync) : State := keepMarker { s with bsyncAt := kset s.bsyncAt l s.beat } m

/-- The arrival of the marker that a BEATSYNC names, if it is known. -/
def syncArrival (w : State) (m : BeatSync) : Option (Nat × Nat) := if m.known then markerOf w m.ring else none

theorem touches_bsyncAt (s : State) (k : KMap Nat) : Touches [.bsyncAt] s { s with bsyncAt := k } := by
  refine ⟨fun f hf => ?_⟩
  cases f
  case bsyncAt => simp at hf
  all_goals rfl

theorem touches_marks (s : State) (l : List (Nat × Nat × Nat)) : Touches [.marks] s { s with marks := l } := by
  refine ⟨fun f hf => ?_⟩
  cases f
  case marks => simp at hf
  all_goals rfl

theorem touches_syncMarked (s : State) (l : Nat) (m : BeatSync) : Touches [.bsyncAt, .marks] s (syncMarked s l m) :=
  ((touches_bsyncAt ..).mono rfl).trans (.ite ((touches_marks ..).mono rfl) .refl)

/-- A marker's arrival that has just been kept is the one that its RING finds. -/
theorem syncArrival_syncMarked {s : State} {l : Nat} {m : BeatSync} (h : m.known = true) :
    syncArrival (syncMarked s l m) m = some (m.arrBeat, m.arrUnits) := by
  have hnone : (s.marks.filter fun k => k.1 != m.ring && ringRecent k.1 m.ring).find? (fun k => k.1 == m.ring) = none :=
    List.find?_eq_none.2 fun k hk => by
      have hne := (Bool.and_eq_true_iff.1 (List.mem_filter.1 hk).2).1
      simpa using hne
  have hmarks : (syncMarked s l m).marks =
      (s.marks.filter fun k => k.1 != m.ring && ringRecent k.1 m.ring) ++ [(m.ring, m.arrBeat, m.arrUnits)] := by
    rw [syncMarked, keepMarker, if_pos h]
  rw [syncArrival, if_pos h, markerOf, hmarks, List.find?_append, hnone]
  simp

theorem phaseErr_syncMarked (s : State) (l : Nat) (m : BeatSync) (a : Nat × Nat) : phaseErr (syncMarked s l m) m a = phaseErr s m a := by
  have hrg : ∀ i j, rg (syncMarked s l m) i j = rg s i j := (touches_syncMarked s l m).rg_eq (by decide) (by decide)
  have hlen : beatLen (syncMarked s l m) = beatLen s := by rw [beatLen, beatLen, hrg]
  have hdelay : delayUnits (syncMarked s l m) = delayUnits s := by rw [delayUnits, delayUnits, coreN, coreN, hrg, hrg]
  have hunits : ∀ b u, unitsOf (syncMarked s l m) b u = unitsOf s b u := fun b u => by rw [unitsOf, unitsOf, hlen]
  have hwrap : ∀ x, wrapErr (syncMarked s l m) x = wrapErr s x := fun x => by rw [wrapErr, wrapErr, hlen]
  rw [phaseErr, phaseErr, hwrap, hunits, hunits, hdelay]

/-- PHASE_ERR has its error, if one is known, and PPS_LAST is the sender's (R432, R449). -/
def syncMeasured (w : State) (m : BeatSync) (e : Option Int) : State :=
  wb (match e with | some x => notePhase w x | none => w) 0x2000 19 (ppsBytes m.ppsBeat m.ppsCyc m.ppsFrac m.ppsSec (bit m.flags 0))

theorem touches_draw (s : State) : Touches [.fresh] s (draw s).2 := by
  refine ⟨fun f hf => ?_⟩
  cases f
  case fresh => simp at hf
  all_goals rfl

/-- Of the numbers only PHASE_ERR is written. -/
theorem noted_notePhase (s : State) (e : Int) : OnlyRegs [(0x2000, 16)] s (notePhase s e) ∧ Touches [.regs, .fresh] s (notePhase s e) := by
  have hdraw := touches_draw s
  unfold notePhase
  dsimp only
  split
  · exact ⟨onlyRegs_wr _ _ (by decide), (touches_wr ..).mono rfl⟩
  · exact ⟨(OnlyRegs.of_regs (hdraw.rg_eq (by decide) (by decide))).trans (onlyRegs_wr _ _ (by decide)),
      (hdraw.mono rfl).trans ((touches_wr ..).mono rfl)⟩

theorem noted_syncMeasured (w : State) (m : BeatSync) (e : Option Int) :
    OnlyRegs [(0x2000, 16)] w (syncMeasured w m e) ∧ Touches [.regs, .fresh, .blobs] w (syncMeasured w m e) := by
  unfold syncMeasured
  cases e with
  | none => exact ⟨.of_regs fun i j => rfl, (touches_wb ..).mono rfl⟩
  | some x =>
    obtain ⟨hregs, hfields⟩ := noted_notePhase w x
    exact ⟨hregs.trans (.of_regs fun i j => rfl), (hfields.mono rfl).trans ((touches_wb ..).mono rfl)⟩

theorem rg_syncMeasured {w : State} {e : Int} (m : BeatSync) (hlo : -(2 ^ 31) ≤ e) (hhi : e < 2 ^ 31) :
    rg (syncMeasured w m (some e)) 0x2000 16 = (e % 2 ^ 32).toNat := by
  change rg (notePhase w e) 0x2000 16 = _
  rw [notePhase, if_pos ⟨hlo, hhi⟩, rg_wr_same]

theorem kget_syncMeasured (w : State) (m : BeatSync) (e : Option Int) : kget (syncMeasured w m e).blobs (rkey 0x2000 19) =
    some (ppsBytes m.ppsBeat m.ppsCyc m.ppsFrac m.ppsSec (bit m.flags 0)) := kget_kset_same ..

/-! ### What the message makes of the package, and where it goes on (R431, R433, R434) -/

/-- A LOCKED package may adopt the sender's time, an ALIGNED one checks its own. -/
def syncActed (t : State) (m : BeatSync) (now e : Option Int) : State :=
  match timingState t with
  | 2 => syncLocked t m now
  | 3 => syncCheck t m e
  | _ => t

/-- A step in the message becomes known, and the message and a request go on. -/
def syncPassed (t : State) (m : BeatSync) : State :=
  sendRequest (sendSyncs (if bit m.flags 1 then learnStep t m.stepN m.stepAt else t) m.origin (m.hops + 1))

/-- The phase error of a BEATSYNC on link `l`. -/
def syncError (s : State) (l : Nat) (m : BeatSync) : Option Int :=
  (syncArrival (syncMarked s l m) m).map (phaseErr (syncMarked s l m) m)

theorem syncError_of_known {s : State} {m : BeatSync} (h : m.known = true) (l : Nat) :
    syncError s l m = some (phaseErr s m (m.arrBeat, m.arrUnits)) := by
  rw [syncError, syncArrival_syncMarked h, Option.map_some, phaseErr_syncMarked]

/-- The package with everything noted that a BEATSYNC on TIMING_ACTIVE brings. -/
def syncNoted (s : State) (l : Nat) (m : BeatSync) : State := syncMeasured (syncMarked s l m) m (syncError s l m)

/-- The sender's count now, where the reference marker is known. -/
def syncNow (s : State) (l : Nat) (m : BeatSync) : Option Int := (syncArrival (syncMarked s l m) m).map (senderNow (syncNoted s l m) m)

theorem beatsyncRx_of_active {s : State} {l : Nat} (m : BeatSync) (ha : timingActive s = l) (hn : isNative s l = true) :
    beatsyncRx s l m = syncPassed (syncActed (syncNoted s l m) m (syncNow s l m) (syncError s l m)) m := by
  have hgo : ¬(timingActive { s with bsyncAt := kset s.bsyncAt l s.beat } ≠ l ∨
      (!isNative { s with bsyncAt := kset s.bsyncAt l s.beat } l) = true) := by
    rintro (h | h)
    · exact h ha
    · have hnot : (!isNative s l) = true := h
      simp [hn] at hnot
  rw [beatsyncRx]
  dsimp only
  rw [if_neg hgo]
  rfl

theorem beatsyncRx_of_other {s : State} {l : Nat} (m : BeatSync) (h : timingActive s ≠ l ∨ isNative s l = false) :
    beatsyncRx s l m = { s with bsyncAt := kset s.bsyncAt l s.beat } := by
  have hstop : timingActive { s with bsyncAt := kset s.bsyncAt l s.beat } ≠ l ∨
      (!isNative { s with bsyncAt := kset s.bsyncAt l s.beat } l) = true := by
    obtain h | h := h
    · exact .inl h
    · refine .inr ?_
      have hnative : isNative { s with bsyncAt := kset s.bsyncAt l s.beat } l = false := h
      rw [hnative]
      rfl
  rw [beatsyncRx]
  dsimp only
  rw [if_pos hstop]

/-- Noting a BEATSYNC leaves every number but PHASE_ERR. -/
theorem noted_syncNoted (s : State) (l : Nat) (m : BeatSync) :
    OnlyRegs [(0x2000, 16)] s (syncNoted s l m) ∧ Touches [.bsyncAt, .marks, .regs, .fresh, .blobs] s (syncNoted s l m) := by
  have hmark := touches_syncMarked s l m
  obtain ⟨hregs, hfields⟩ := noted_syncMeasured (syncMarked s l m) m (syncError s l m)
  exact ⟨(OnlyRegs.of_regs (hmark.rg_eq (by decide) (by decide))).trans hregs, (hmark.mono rfl).trans (hfields.mono rfl)⟩

theorem touches_sendSyncs (s : State) (origin hops : Nat) : Touches [.links, .out] s (sendSyncs s origin hops) :=
  .foldl _ (fun t l => touches_sendSync t origin hops l) _ _

/-- A message that carries no step only goes on. -/
theorem touches_syncPassed {t : State} {m : BeatSync} (h : bit m.flags 1 = false) : Touches [.links, .out] t (syncPassed t m) := by
  have hsame : (if bit m.flags 1 then learnStep t m.stepN m.stepAt else t) = t := if_neg (by simp [h])
  rw [syncPassed, hsame]
  exact (touches_sendSyncs ..).trans (touches_sendRequest _)

/-! ### Adopting the sender's time (R187, R433) -/

/-- The beat number of a sender's time. -/
def beatOf (s : State) (now : Int) : Nat := (now % (2 ^ 48 * (beatLen s * 65536 : Nat))).toNat / (beatLen s * 65536)

/-- A partition's start beat is disarmed if moving on to beat `b` passes it. -/
def disarm (old b : Nat) (t : State) (p : Nat) : State :=
  let v := rg t (0x2120 + p) 5
  if bit v 63 ∧ 0 < beatDiff (v % 2 ^ 48) old ∧ beatDiff (v % 2 ^ 48) b ≤ 0 then wr t (0x2120 + p) 5 0 else t

/-- The start beats that lie up to beat `b` are disarmed. -/
def disarmed (s : State) (b : Nat) : State := (partitions s).foldl (disarm s.beat b) s

theorem touches_disarmed (s : State) (b : Nat) : Touches [.regs] s (disarmed s b) :=
  .foldl _ (fun _ _ => .ite (touches_wr ..) .refl) _ _

theorem rg_disarmed (s : State) (b : Nat) {j : Nat} (hj : j < 256) : rg (disarmed s b) 0x2000 j = rg s 0x2000 j := by
  refine List.foldlRecOn (motive := fun t => rg t 0x2000 j = rg s 0x2000 j) _ _ rfl fun t ht p _ => ?_
  unfold disarm
  dsimp only
  split
  · rw [rg_wr_other _ _ _ _ _ _ (rkey_ne_of_idx hj (by decide) (by omega)), ht]
  · exact ht

/-- The fields that adopting a sender's time may change. -/
def adoptFields : List Field :=
  [.regs, .holdPs, .faultq, .rems, .beat, .cyc, .edge, .phaseLeft, .phaseBad, .edgePs, .lastN, .ceilUp, .ceilDown, .bsyncAt, .ceilReq, .marks]

/-- The package in ALIGNED with the sender's N, before its clock is set. -/
def adoptedRegs (s : State) (now : Int) (n : Nat) : State := wr (setTiming (disarmed s (beatOf s now)) 3) 0x2000 1 n

theorem adopt_eq (s : State) (now : Int) (n : Nat) : ∃ b c e p u d k q, adopt s now n = { adoptedRegs s now n with
    beat := b, cyc := c, edge := e, phaseLeft := 0, phaseBad := false, edgePs := p, lastN := n, ceilUp := u, ceilDown := d, bsyncAt := k,
    ceilReq := q, marks := [] } := ⟨_, _, _, _, _, _, _, _, rfl⟩

theorem touches_adopt_clock (s : State) (now : Int) (n : Nat) : Touches adoptFields (adoptedRegs s now n) (adopt s now n) := by
  obtain ⟨b, c, e, p, u, d, k, q, h⟩ := adopt_eq s now n
  rw [h]
  refine ⟨fun f hf => ?_⟩
  cases f
  case beat | cyc | edge | phaseLeft | phaseBad | edgePs | lastN | ceilUp | ceilDown | bsyncAt | ceilReq | marks => simp [adoptFields] at hf
  all_goals rfl

theorem touches_adopt (s : State) (now : Int) (n : Nat) : Touches adoptFields s (adopt s now n) := by
  refine Touches.trans ?_ (touches_adopt_clock s now n)
  exact ((touches_disarmed ..).mono rfl).trans (((touches_setTiming ..).mono rfl).trans ((touches_wr ..).mono rfl))

/-- Of the time base only N and TIMING_STATE change. -/
theorem rg_adopt (s : State) (now : Int) (n : Nat) {j : Nat} (hj : j < 256) :
    rg (adopt s now n) 0x2000 j = if j = 1 then n else if j = 13 then 3 else rg s 0x2000 j := by
  obtain ⟨b, c, e, p, u, d, k, q, h⟩ := adopt_eq s now n
  have hregs : rg (adopt s now n) 0x2000 j = rg (adoptedRegs s now n) 0x2000 j := by
    rw [h]
    rfl
  rw [hregs, adoptedRegs]
  by_cases h1 : j = 1
  · rw [if_pos h1, h1, rg_wr_same]
  · rw [if_neg h1, rg_wr_other _ _ _ _ _ _ (rkey_ne_of_sub hj (by decide) h1)]
    by_cases h13 : j = 13
    · rw [if_pos h13, h13]
      exact timingState_setTiming ..
    · rw [if_neg h13, rg_setTiming_other _ _ hj h13, rg_disarmed s _ hj]

theorem phaseLeft_adopt (s : State) (now : Int) (n : Nat) : (adopt s now n).phaseLeft = 0 := by
  obtain ⟨b, c, e, p, u, d, k, q, h⟩ := adopt_eq s now n
  rw [h]

/-! ### What the rest of a BEATSYNC leaves (R432, R449) -/

/-- PHASE_ERR, PPS_LAST, the memories and the cores are as they were, and so are the commands that wait. -/
structure SyncKept (s t : State) : Prop where
  phase : rg t 0x2000 16 = rg s 0x2000 16
  pps : kget t.blobs (rkey 0x2000 19) = kget s.blobs (rkey 0x2000 19)
  rest : AgreeIn [.mem, .cores, .pending, .variant] s t

theorem SyncKept.refl {s : State} : SyncKept s s := ⟨rfl, rfl, .refl⟩

theorem SyncKept.trans {s t r : State} (h : SyncKept s t) (g : SyncKept t r) : SyncKept s r :=
  ⟨g.phase.trans h.phase, g.pps.trans h.pps, h.rest.trans g.rest⟩

theorem SyncKept.ite {s a b : State} {c : Prop} [Decidable c] (ha : SyncKept s a) (hb : SyncKept s b) : SyncKept s (if c then a else b) := by
  split <;> assumption

/-- A change that leaves PHASE_ERR and touches neither blobs nor what else is kept. -/
theorem SyncKept.of_touches {l : List Field} {s t : State} (h : Touches l s t)
    (hd : ∀ f ∈ [Field.blobs, .mem, .cores, .pending, .variant], f ∉ l) (hp : rg t 0x2000 16 = rg s 0x2000 16) : SyncKept s t := by
  have hblobs : t.blobs = s.blobs := h.same .blobs (hd _ (by decide))
  exact ⟨hp, by rw [hblobs], .of_touches h fun f hf => hd f (List.mem_cons_of_mem _ hf)⟩

theorem syncKept_raise {s : State} {r : LogRec} (h : r.cls = 2) : SyncKept s (raise s r) := by
  have hl := logKept_raise (s := s) h
  exact ⟨hl.rg_eq (by decide) (by decide), hl.blobs _ rfl, .of_touches (touches_raise h) (by decide)⟩

theorem touches_leaveAligned (s : State) : Touches [.holdPs, .regs, .faultq, .rems, .phaseBad, .phaseLeft] s (leaveAligned s) := by
  refine ((touches_setTiming s 2).mono rfl).trans ⟨fun f hf => ?_⟩
  cases f
  case phaseBad | phaseLeft => simp at hf
  all_goals rfl

theorem timingState_leaveAligned (s : State) : timingState (leaveAligned s) = 2 := timingState_setTiming ..

theorem syncKept_leaveAligned (s : State) : SyncKept s (leaveAligned s) :=
  .of_touches (touches_leaveAligned s) (by decide) (rg_setTiming_other s 2 (by decide) (by decide))

theorem syncKept_syncFault {code : Nat} (h : code / 256 = 2) (s : State) : SyncKept s (syncFault s code) := by
  unfold syncFault
  dsimp only
  split
  · exact (syncKept_raise h).trans (syncKept_leaveAligned _)
  · exact syncKept_raise h

theorem syncKept_setStep (s : State) (o : Option (Nat × Nat)) : SyncKept s (setStep s o) :=
  ⟨rfl, kget_kset_other _ _ _ _ (by decide), .of_touches (touches_wb ..) (by decide)⟩

theorem syncKept_learnStep (s : State) (n at_ : Nat) : SyncKept s (learnStep s n at_) := by
  have hseen : SyncKept s { s with fstepSeen := [at_, n] } := .of_touches (touches_fstepSeen ..) (by decide) rfl
  unfold learnStep
  split
  · exact .refl
  · dsimp only
    split
    · exact hseen.trans ((syncKept_setStep ..).trans (syncKept_syncFault (code := 0x020B) rfl _))
    · exact hseen.trans (syncKept_setStep ..)

theorem syncKept_syncLocked (s : State) (m : BeatSync) (now : Option Int) : SyncKept s (syncLocked s m now) := by
  unfold syncLocked
  split
  · exact syncKept_raise rfl
  · split
    · exact .refl
    · split
      · exact .of_touches (touches_adopt ..) (by decide) (rg_adopt _ _ _ (by decide))
      · exact .refl

theorem syncKept_syncCheck (s : State) (m : BeatSync) (e : Option Int) : SyncKept s (syncCheck s m e) := by
  unfold syncCheck
  dsimp only
  refine .ite (syncKept_syncFault (code := 0x0203) rfl s) (.ite (syncKept_syncFault (code := 0x0209) rfl s)
    (.ite (syncKept_syncFault (code := 0x020A) rfl s) ?_))
  split
  next x => exact .of_touches (touches_phase s x s.phaseBad s.marks) (by decide) rfl
  next => exact .refl

theorem syncKept_syncActed (t : State) (m : BeatSync) (now e : Option Int) : SyncKept t (syncActed t m now e) := by
  unfold syncActed
  split
  · exact syncKept_syncLocked ..
  · exact syncKept_syncCheck ..
  · exact .refl

theorem syncKept_syncPassed (t : State) (m : BeatSync) : SyncKept t (syncPassed t m) := by
  have hsent : ∀ w : State, SyncKept w (sendRequest (sendSyncs w m.origin (m.hops + 1))) := fun w => by
    have hf := (touches_sendSyncs w m.origin (m.hops + 1)).trans (touches_sendRequest _)
    exact .of_touches hf (by decide) (hf.rg_eq (by decide) (by decide) _ _)
  unfold syncPassed
  split
  · exact (syncKept_learnStep ..).trans (hsent _)
  · exact hsent t

/-- What a BEATSYNC on TIMING_ACTIVE has noted stays. -/
theorem syncKept_beatsyncRx {s : State} {l : Nat} (m : BeatSync) (ha : timingActive s = l) (hn : isNative s l = true) :
    SyncKept (syncNoted s l m) (beatsyncRx s l m) := by
  rw [beatsyncRx_of_active m ha hn]
  exact (syncKept_syncActed ..).trans (syncKept_syncPassed ..)

end Sys2Proof
end

section
/-! SUPPORT. ALARM_RX, and the settlement of O35. -/

namespace Sys2Proof

open Machine

/-! ### ALARM_RX (R289) -/

/-- The partition has seen the alarm. -/
def alarmSeen (s : State) (p : Nat) (m : CanopyMsg) : State :=
  setPart s p { Machine.partAt s p with seen := (Machine.partAt s p).seen ++ [(m.origin, m.beat)] }

/-- The alarm goes on to the other canopy links. -/
def alarmPassed (s : State) (p l : Nat) (m : CanopyMsg) : State :=
  ((canopyLinks s p).filter fun k => k != l).foldl (fun t k =>
    sendMsg t k 5 [m.origin, m.beat, m.cycle, m.hops + 1, m.cls, m.code, m.level, m.unit]) s

/-- A RUNNING partition without an alarm is marked for the freeze. -/
def alarmMarked (s : State) (p : Nat) (r : LogRec) : State :=
  if planState s p = 3 ∧ !(Machine.partAt s p).alarm then setPart s p { Machine.partAt s p with alarm := true, cause := LogRec.bytes r } else s

theorem alarmRx_of_new {s : State} {p l : Nat} {m : CanopyMsg} (hl : l ∈ canopyLinks s p)
    (hs : (m.origin, m.beat) ∉ (Machine.partAt s p).seen) :
    ∃ r, alarmRx s p l m = alarmMarked (alarmPassed (logRec (alarmSeen s p m) r) p l m) p r := by
  rw [alarmRx, if_neg (by simp [hl, hs])]
  exact ⟨_, rfl⟩

theorem alarmRx_of_seen {s : State} {p l : Nat} {m : CanopyMsg} (h : (m.origin, m.beat) ∈ (Machine.partAt s p).seen) :
    alarmRx s p l m = s := if_pos (.inr h)

theorem touches_alarmPassed (s : State) (p l : Nat) (m : CanopyMsg) : Touches [.links, .out] s (alarmPassed s p l m) :=
  .foldl _ (fun _ _ => touches_sendMsg ..) _ _

theorem touches_alarmMarked (s : State) (p : Nat) (r : LogRec) : Touches [.parts] s (alarmMarked s p r) := .ite (touches_setPart ..) .refl

theorem partAt_alarmMarked (s : State) (p : Nat) (r : LogRec) :
    (Machine.partAt (alarmMarked s p r) p).seen = (Machine.partAt s p).seen ∧
      (planState s p = 3 → (Machine.partAt (alarmMarked s p r) p).alarm = true) ∧ OtherParts p s (alarmMarked s p r) := by
  unfold alarmMarked
  split
  next h => rw [partAt_setPart]; exact ⟨rfl, fun _ => rfl, fun q hq => partAt_setPart_other _ _ _ _ hq⟩
  next h => exact ⟨rfl, fun hrun => by simpa [hrun] using h, fun _ _ => rfl⟩

/-- What a new alarm leaves of its partition, and of the others. -/
theorem alarmed_alarmRx {s : State} {p l : Nat} {m : CanopyMsg} (hp : p < 4) (hl : l ∈ canopyLinks s p)
    (hs : (m.origin, m.beat) ∉ (Machine.partAt s p).seen) :
    (m.origin, m.beat) ∈ (Machine.partAt (alarmRx s p l m) p).seen ∧
      (planState s p = 3 → (Machine.partAt (alarmRx s p l m) p).alarm = true) ∧ OtherParts p s (alarmRx s p l m) ∧
      Touches (.parts :: .links :: logFields) s (alarmRx s p l m) := by
  obtain ⟨r, hout⟩ := alarmRx_of_new hl hs
  have hseen : Touches [.parts] s (alarmSeen s p m) := touches_setPart ..
  have hlog := touches_logRec (alarmSeen s p m) r
  have hpassed := touches_alarmPassed (logRec (alarmSeen s p m) r) p l m
  have hsent : Touches (.links :: logFields) (alarmSeen s p m) (alarmPassed (logRec (alarmSeen s p m) r) p l m) :=
    (hlog.mono rfl).trans (hpassed.mono rfl)
  have hstate : planState (alarmPassed (logRec (alarmSeen s p m) r) p l m) p = planState s p := by
    rw [planState, planState, hpassed.rg_eq (by decide) (by decide), (logKept_logRec ..).rg_eq (by decide) (by omega),
      hseen.rg_eq (by decide) (by decide)]
  rw [hout]
  generalize alarmPassed (logRec (alarmSeen s p m) r) p l m = w at *
  obtain ⟨hsame, halarm, hothers⟩ := partAt_alarmMarked w p r
  refine ⟨?_, fun hrun => halarm (hstate.trans hrun), fun q hq => ?_,
    (hseen.mono rfl).trans ((hsent.mono rfl).trans ((touches_alarmMarked w p r).mono rfl))⟩
  · rw [hsame, hsent.partAt_eq (by decide), alarmSeen, partAt_setPart]
    exact List.mem_append_right _ (List.mem_singleton_self _)
  · rw [hothers q hq, hsent.partAt_eq (by decide), alarmSeen, partAt_setPart_other _ _ _ _ hq]

/-- A link lies on one of four dies. -/
theorem partLow_link_lt {s : State} {l : Nat} (h : l < linksOf s.variant) : partLow s (l / 16) < 4 := by
  have hle := partLow_le s (l / 16)
  have hlinks : linksOf s.variant ≤ 64 := by cases s.variant <;> decide
  omega

theorem exec_alarmRx_eq (s : State) (l : Nat) (m : CanopyMsg) : exec (.alarmRx l m) s = onLink s l (alarmRx s (partLow s (l / 16)) l m) := rfl

/-! ### BEATSYNC_RX of a LOCKED and of an ALIGNED package (R433, R434) -/

theorem exec_beatsyncRx_eq (s : State) (l : Nat) (m : BeatSync) : exec (.beatsyncRx l m) s = onLink s l (beatsyncRx s l m) := rfl

theorem exec_fstepAnnounceRx_eq (s : State) (l n b : Nat) (m : StepSeq) :
    exec (.fstepAnnounceRx l n b m) s = onLink s l (fstepAnnounceRx s l n b m) := rfl

theorem syncLocked_of_ready {t : State} {m : BeatSync} (hk : m.k = rg t 0x2100 1) (hb : t.phaseBad = false) (now : Int) :
    syncLocked t m (some now) = adopt t now m.n := by
  unfold syncLocked
  rw [if_neg (not_not.2 hk), if_neg (by simp [hb])]

theorem syncCheck_of_other_k {t : State} {m : BeatSync} (hk : m.k ≠ rg t 0x2100 1) (e : Option Int) :
    syncCheck t m e = syncFault t 0x0203 := by
  unfold syncCheck
  exact if_pos (.inl hk)

/-- A LOCKED package under the sender's BEAT_K adopts its time, once its marker is known. -/
theorem syncActed_of_locked {s : State} {l : Nat} {m : BeatSync} (hst : timingState s = 2) (hk : m.k = rg s 0x2100 1)
    (hknown : m.known = true) (hbad : s.phaseBad = false) (e : Option Int) :
    ∃ now, syncActed (syncNoted s l m) m (syncNow s l m) e = adopt (syncNoted s l m) now m.n := by
  obtain ⟨hregs, hfields⟩ := noted_syncNoted s l m
  have hstate : timingState (syncNoted s l m) = 2 := (hregs _ _ (by decide) (by decide)).trans hst
  have hlen : rg (syncNoted s l m) 0x2100 1 = rg s 0x2100 1 := hregs _ _ (by decide) (by decide)
  have hquiet : (syncNoted s l m).phaseBad = s.phaseBad := hfields.same .phaseBad (by decide)
  refine ⟨senderNow (syncNoted s l m) m (m.arrBeat, m.arrUnits), ?_⟩
  rw [syncActed, hstate]
  change syncLocked (syncNoted s l m) m (syncNow s l m) = _
  rw [syncNow, syncArrival_syncMarked hknown, Option.map_some]
  exact syncLocked_of_ready (hk.trans hlen.symm) (hquiet.trans hbad) _

/-- An ALIGNED package under another BEAT_K returns to LOCKED, with a PLAN_FAULT. -/
theorem syncActed_of_aligned {s : State} {l : Nat} {m : BeatSync} (hst : timingState s = 3) (hk : m.k ≠ rg s 0x2100 1) (now e : Option Int) :
    syncActed (syncNoted s l m) m now e = leaveAligned (raise (syncNoted s l m) (pkgRec (syncNoted s l m) 4 0x0203 [])) := by
  obtain ⟨hregs, -⟩ := noted_syncNoted s l m
  have hstate : timingState (syncNoted s l m) = 3 := (hregs _ _ (by decide) (by decide)).trans hst
  have hlen : rg (syncNoted s l m) 0x2100 1 = rg s 0x2100 1 := hregs _ _ (by decide) (by decide)
  rw [syncActed, hstate]
  change syncCheck (syncNoted s l m) m e = _
  rw [syncCheck_of_other_k (by rwa [hlen]), syncFault, if_pos hstate]

/-- A BEATSYNC on TIMING_ACTIVE ends with what it has noted (`syncNoted`) still there. -/
theorem beatsyncRx_next {s : State} {l : Nat} (m : BeatSync) (hp : s.powered = true) (hl : l < linksOf s.variant) (ha : timingActive s = l)
    (hn : isNative s l = true) :
    ∃ t, exec (.beatsyncRx l m) s = .next t ∧ Touches [.alertN] (beatsyncRx s l m) t ∧ SyncKept (syncNoted s l m) t ∧ t.mem = s.mem ∧
      t.cores = s.cores := by
  obtain ⟨-, hnoted⟩ := noted_syncNoted s l m
  have hkept := syncKept_beatsyncRx m ha hn
  have hrest : AgreeIn [.mem, .cores, .pending, .variant] s (beatsyncRx s l m) := (AgreeIn.of_touches hnoted (by decide)).trans hkept.rest
  obtain ⟨t, ht, hend⟩ := done_next hp (hrest.same .pending (by decide)) (hrest.same .variant (by decide))
  have hends : AgreeIn [.mem, .cores, .pending, .variant] s t := hrest.trans (.of_touches hend (by decide))
  refine ⟨t, by rw [exec_beatsyncRx_eq, onLink, if_pos hl, ht], hend, hkept.trans ?_, hends.same .mem (by decide), hends.same .cores (by decide)⟩
  exact .of_touches hend (by decide) (hend.rg_eq (by decide) (by decide) _ _)

/-- What a LOCKED package has taken from the sender. -/
theorem aligned_beatsyncRx {s : State} {l : Nat} {m : BeatSync} (ha : timingActive s = l) (hn : isNative s l = true) (hst : timingState s = 2)
    (hk : m.k = rg s 0x2100 1) (hknown : m.known = true) (hbad : s.phaseBad = false) (hflag : bit m.flags 1 = false) :
    timingState (beatsyncRx s l m) = 3 ∧ rg (beatsyncRx s l m) 0x2000 1 = m.n ∧ (beatsyncRx s l m).phaseLeft = 0 := by
  obtain ⟨now, hadopt⟩ := syncActed_of_locked (l := l) hst hk hknown hbad (syncError s l m)
  have hpassed : Touches [.links, .out] (adopt (syncNoted s l m) now m.n) (beatsyncRx s l m) := by
    rw [beatsyncRx_of_active m ha hn, hadopt]
    exact touches_syncPassed hflag
  have hrg : ∀ j, rg (beatsyncRx s l m) 0x2000 j = rg (adopt (syncNoted s l m) now m.n) 0x2000 j :=
    hpassed.rg_eq (by decide) (by decide) _
  refine ⟨?_, ?_, ?_⟩
  · rw [timingState, hrg, rg_adopt _ _ _ (by decide)]
    rfl
  · rw [hrg, rg_adopt _ _ _ (by decide)]
    rfl
  · exact (hpassed.same .phaseLeft (by decide)).trans (phaseLeft_adopt ..)

/-- What an ALIGNED package under another BEAT_K has fallen back to. -/
theorem fallen_beatsyncRx {s : State} {l : Nat} {m : BeatSync} (ha : timingActive s = l) (hn : isNative s l = true) (hst : timingState s = 3)
    (hk : m.k ≠ rg s 0x2100 1) (hflag : bit m.flags 1 = false) :
    timingState (beatsyncRx s l m) = 2 ∧ (beatsyncRx s l m).phaseBad = true ∧ (beatsyncRx s l m).beat = s.beat := by
  obtain ⟨-, hnoted⟩ := noted_syncNoted s l m
  have hraise : Touches (.parts :: logFields) (syncNoted s l m) (raise (syncNoted s l m) (pkgRec (syncNoted s l m) 4 0x0203 [])) :=
    touches_raise rfl
  generalize hw : raise (syncNoted s l m) (pkgRec (syncNoted s l m) 4 0x0203 []) = w at hraise
  have hpassed : Touches [.links, .out] (leaveAligned w) (beatsyncRx s l m) := by
    rw [beatsyncRx_of_active m ha hn, syncActed_of_aligned hst hk, hw]
    exact touches_syncPassed hflag
  refine ⟨?_, hpassed.same .phaseBad (by decide), ?_⟩
  · rw [timingState, hpassed.rg_eq (by decide) (by decide)]
    exact timingState_leaveAligned w
  · calc (beatsyncRx s l m).beat = (leaveAligned w).beat := hpassed.same .beat (by decide)
      _ = w.beat := (touches_leaveAligned w).same .beat (by decide)
      _ = (syncNoted s l m).beat := hraise.same .beat (by decide)
      _ = s.beat := hnoted.same .beat (by decide)

/-! ### O35 -/

/-- Settles O35: what the root sends (`syncSent_rootSyncs`), then requests (`ceilUpdated_updateCeil`), announcements
(`announced_fstepAnnounceRx`), BEATSYNC (`syncKept_beatsyncRx`, `aligned_beatsyncRx`, `fallen_beatsyncRx`) and alarms (`alarmed_alarmRx`). -/
theorem fleetMessagesTakeEffect : Obligations.FleetMessagesTakeEffect := by
  intro s hp
  refine ⟨fun c => ?_, fun l n hl hpart => ?_, fun l n b m hl ha hseq hpend hseen hahead hb hn => ?_, fun l n b m hl h => ?_,
    fun l m hl ha hn hknown => ?_, fun l m hl ha hn hst hk hknown hbad hflag => ?_, fun l m hl ha hn hst hk hflag => ?_,
    fun l m hl h => ?_, fun l m hl hlink hnew => ?_, fun l m hl hseen => ?_⟩
  · intro t0 hr hu hb
    obtain ⟨t, ht, hend⟩ := beatsyncSend_sends hp hr hu hb
    have hout : t.out = _ := hend.same .out (by decide)
    have hlinks : t.links = _ := hend.same .links (by decide)
    refine ⟨t, ht, fun l hl hnew => ?_, fun hserved => ?_, ((touches_rootSyncs t0).mono rfl).trans (hend.mono rfl)⟩
    · have hsent := syncSent_rootSyncs hl hnew
      obtain ⟨args, hargs⟩ := hsent.sent
      exact ⟨args, by rwa [hout], by rw [linkAt, hlinks]; exact hsent.marked⟩
    · have hsame : rootSyncs t0 = t0 := rootSyncs_of_served hserved
      rwa [hsame] at hend
  · obtain ⟨hvalue, hregs, hfields⟩ := ceilUpdated_updateCeil { s with ceilReq := kset s.ceilReq l (n, s.beat) }
    have hreq := touches_ceilReq s (kset s.ceilReq l (n, s.beat))
    have hall := (hreq.mono (l' := [.ceilReq, .regs, .links, .out]) rfl).trans hfields
    obtain ⟨t, ht, hend⟩ := onLink_next hp hl hall (by decide)
    have hrg : ∀ i j, rg t i j = _ := hend.rg_eq (by decide) (by decide)
    exact ⟨t, (exec_fstepRequestRx_of_timing n hpart).trans ht, by rw [hrg, hvalue],
      ((OnlyRegs.of_regs (hreq.rg_eq (by decide) (by decide))).trans hregs).trans (.of_regs hrg), (hall.mono rfl).trans (hend.mono rfl)⟩
  · obtain ⟨hblobs, hnoted, hsent, hfields⟩ := announced_fstepAnnounceRx ha hseq hpend hseen hahead
    obtain ⟨t, ht, hend⟩ := onLink_next hp hl hfields (by decide)
    have hout : t.out = _ := hend.same .out (by decide)
    exact ⟨t, ht, pendingStep_of_set hb hn ((hend.same .blobs (by decide)).trans hblobs), (hend.same .fstepSeq (by decide)).trans hnoted,
      fun k hk => by rw [hout]; exact hsent k hk, (hfields.mono rfl).trans (hend.mono rfl)⟩
  · rw [exec_fstepAnnounceRx_eq, fstepAnnounceRx_of_known n b h]
    exact onLink_next_idle hp hl
  · intro e
    obtain ⟨t, ht, -, hkept, hmem, hcores⟩ := beatsyncRx_next m hp hl ha hn
    have herr : syncError s l m = some e := syncError_of_known hknown l
    refine ⟨t, ht, fun hlo hhi => ?_, rb_of_kget (hkept.pps.trans (kget_syncMeasured ..)), hmem, hcores⟩
    rw [hkept.phase, syncNoted, herr, rg_syncMeasured m hlo hhi]
  · obtain ⟨t, ht, hend, -, hmem, hcores⟩ := beatsyncRx_next m hp hl ha hn
    obtain ⟨hstate, hvalue, hleft⟩ := aligned_beatsyncRx ha hn hst hk hknown hbad hflag
    have hrg : ∀ i j, rg t i j = _ := hend.rg_eq (by decide) (by decide)
    exact ⟨t, ht, (hrg _ _).trans hstate, (hrg _ _).trans hvalue, (hend.same .phaseLeft (by decide)).trans hleft, hmem, hcores⟩
  · obtain ⟨t, ht, hend, -, hmem, -⟩ := beatsyncRx_next m hp hl ha hn
    obtain ⟨hstate, hbad, hbeat⟩ := fallen_beatsyncRx ha hn hst hk hflag
    exact ⟨t, ht, (hend.rg_eq (by decide) (by decide) _ _).trans hstate, (hend.same .phaseBad (by decide)).trans hbad,
      (hend.same .beat (by decide)).trans hbeat, hmem⟩
  · have hnoted := touches_bsyncAt s (kset s.bsyncAt l s.beat)
    rw [exec_beatsyncRx_eq, beatsyncRx_of_other m h]
    obtain ⟨t, ht, hend⟩ := onLink_next hp hl hnoted (by decide)
    have hat : t.bsyncAt = _ := hend.same .bsyncAt (by decide)
    exact ⟨t, ht, by rw [hat, kget_kset_same], (hnoted.mono rfl).trans (hend.mono rfl)⟩
  · intro p
    obtain ⟨hseen, halarm, hothers, hfields⟩ := alarmed_alarmRx (partLow_link_lt hl) hlink hnew
    obtain ⟨t, ht, hend⟩ := onLink_next hp hl hfields (by decide)
    have hpart := hend.partAt_eq (by decide) p
    exact ⟨t, ht, by rw [hpart]; exact hseen, fun hrun => by rw [hpart]; exact halarm hrun, hothers.ended hend,
      (hend.same .mem (by decide)).trans (hfields.same .mem (by decide)), (hend.same .cores (by decide)).trans (hfields.same .cores (by decide))⟩
  · rw [exec_alarmRx_eq, alarmRx_of_seen hseen]
    exact onLink_next_idle hp hl

end Sys2Proof
end

section
/-! SUPPORT. What leaves the byte memories and the storage errors as they are, operation by operation (O5). -/

namespace Sys2Proof

open Machine

/-- The byte memories and the storage errors are as they were. -/
@[simp] abbrev StoreKept (s t : State) : Prop := t.mem = s.mem ∧ t.ecc = s.ecc

theorem StoreKept.refl {s : State} : StoreKept s s := ⟨rfl, rfl⟩

theorem StoreKept.trans {s t r : State} (h : StoreKept s t) (g : StoreKept t r) : StoreKept s r := ⟨g.1.trans h.1, g.2.trans h.2⟩

/-- What touches neither the memories nor the errors. -/
theorem Touches.store {l : List Field} {s t : State} (h : Touches l s t) (hl : l.all (fun f => decide (f ≠ .mem ∧ f ≠ .ecc)) = true) :
    StoreKept s t := by
  have hnot : ∀ f ∈ l, f ≠ .mem ∧ f ≠ .ecc := fun f hf => by simpa using List.all_eq_true.1 hl f hf
  exact ⟨h.same .mem fun hf => (hnot _ hf).1 rfl, h.same .ecc fun hf => (hnot _ hf).2 rfl⟩

@[simp] theorem foldl_store {α : Type} {f : State → α → State} (h : ∀ t a, StoreKept t (f t a)) (l : List α) (s : State) :
    StoreKept s (l.foldl f s) :=
  List.foldlRecOn (motive := StoreKept s) l f .refl fun t ht a _ => ht.trans (h t a)

theorem StoreKept.ite {c : Prop} [Decidable c] {s a b : State} (h : StoreKept s a) (g : StoreKept s b) : StoreKept s (if c then a else b) := by
  split
  · exact h
  · exact g

/-! ### The shared operations of the state -/

@[simp] theorem setCore_store (s : State) (u : Nat) (x : CoreSt) : StoreKept s (setCore s u x) := (touches_setCore ..).store (by decide)

@[simp] theorem setLink_store (s : State) (l : Nat) (x : LinkSt) : StoreKept s (setLink s l x) := (touches_setLink ..).store (by decide)

@[simp] theorem setPart_store (s : State) (p : Nat) (x : PartSt) : StoreKept s (setPart s p x) := (touches_setPart ..).store (by decide)

@[simp] theorem setCtx_store (s : State) (c : Nat) (x : CtxSt) : StoreKept s (setCtx s c x) := (touches_setCtx ..).store (by decide)

@[simp] theorem wr_store (s : State) (idx sub v : Nat) : StoreKept s (wr s idx sub v) := (touches_wr ..).store (by decide)

@[simp] theorem wb_store (s : State) (idx sub : Nat) (b : List Byte) : StoreKept s (wb s idx sub b) := (touches_wb ..).store (by decide)

@[simp] theorem wtab_store (s : State) (idx sub n i v : Nat) : StoreKept s (wtab s idx sub n i v) := (touches_wtab ..).store (by decide)

@[simp] theorem toDefault_store (s : State) (idx sub : Nat) : StoreKept s (toDefault s idx sub) := (touches_toDefault ..).store (by decide)

@[simp] theorem resetEntries_store (s : State) (test : Nat → Entry → Bool) : StoreKept s (resetEntries s test) :=
  (touches_resetEntries ..).store (by decide)

@[simp] theorem setPlanState_store (s : State) (p v : Nat) : StoreKept s (setPlanState s p v) := by simp [Machine.setPlanState]

@[simp] theorem emit_store (s : State) (o : Out) : StoreKept s (emit s o) := (touches_emit ..).store (by decide)

@[simp] theorem draw_store (s : State) : StoreKept s (draw s).2 := (touches_draw ..).store (by decide)

@[simp] theorem setSes_store (s : State) (x : Session) : StoreKept s (setSes s x) := (touches_setSes ..).store (by decide)

@[simp] theorem wire_store (s : State) (b : Nat) (p : MctpPeer) (own : Bool) (m : List Byte) : StoreKept s (wire s b p own m) :=
  (touches_wire ..).store (by decide)

@[simp] theorem sendEvent_store (s : State) (x : Session) (ty : Nat) (body : List Byte) : StoreKept s (sendEvent s x ty body) :=
  (touches_sendEvent ..).store (by decide)

@[simp] theorem eventAll_store (s : State) (test : Session → Bool) (ty : Nat) (body : List Byte) : StoreKept s (eventAll s test ty body) :=
  (touches_eventAll ..).store (by decide)

@[simp] theorem countAct_store (s : State) (die cls ph n : Nat) : StoreKept s (countAct s die cls ph n) := (touches_countAct ..).store (by decide)

@[simp] theorem pushSat_store (s : State) (r : LogRec) : StoreKept s (pushSat s r) := (touches_pushSat ..).store (by decide)

@[simp] theorem bump_store (s : State) (idx sub ovfSub b n : Nat) : StoreKept s (bump s idx sub ovfSub b n) := (touches_bump ..).store (by decide)

@[simp] theorem bumpUnits_store (s : State) (idx sub ovfSub b k n : Nat) : StoreKept s (bumpUnits s idx sub ovfSub b k n) :=
  (touches_bumpUnits ..).store (by decide)

@[simp] theorem bumpTab_store (s : State) (idx sub i ovfSub b n : Nat) : StoreKept s (bumpTab s idx sub i ovfSub b n) :=
  (touches_bumpTab ..).store (by decide)

@[simp] theorem bumpLane_store (s : State) (l i n : Nat) : StoreKept s (bumpLane s l i n) := by
  simp [Machine.bumpLane, apply_ite State.mem, apply_ite State.ecc]

@[simp] theorem capture_store (s : State) (r : LogRec) : StoreKept s (capture s r) := (touches_capture ..).store (by decide)

@[simp] theorem logNow_store (s : State) (r : LogRec) : StoreKept s (logNow s r) := (touches_logNow ..).store (by decide)

@[simp] theorem logRec_store (s : State) (r : LogRec) : StoreKept s (logRec s r) := (touches_logRec ..).store (by decide)

@[simp] theorem sendMsg_store (s : State) (l mtype : Nat) (args : List Nat) : StoreKept s (sendMsg s l mtype args) :=
  (touches_sendMsg ..).store (by decide)

@[simp] theorem raiseAlarm_store (s : State) (r : LogRec) (p : Nat) : StoreKept s (raiseAlarm s r p) := (touches_raiseAlarm ..).store (by decide)

@[simp] theorem escalate_store (s : State) (r : LogRec) : StoreKept s (escalate s r) := by
  simp [Machine.escalate, apply_ite State.mem, apply_ite State.ecc]

@[simp] theorem raise_store (s : State) (r : LogRec) : StoreKept s (raise s r) := by simp [Machine.raise]

@[simp] theorem secLog_store (s : State) (code role part ses : Nat) (detail : List Byte) : StoreKept s (secLog s code role part ses detail) := by
  simp [Machine.secLog]

@[simp] theorem drawBytes_store (n : Nat) (s : State) : StoreKept s (drawBytes n s).2 := by
  induction n generalizing s with
  | zero => exact .refl
  | succ n ih => exact ih (draw s).2

@[simp] theorem secFree_store (s : State) (code role part ses : Nat) : StoreKept s (secFree s code role part ses) := by simp [Machine.secFree]

@[simp] theorem alert_store (s : State) (b : Nat) : StoreKept s (alert s b) := by simp [Machine.alert]

@[simp] theorem issue_store (s : State) (ty ses : Nat) (queued : Bool) : StoreKept s (issue s ty ses queued).2 := (touches_issue ..).store (by decide)

@[simp] theorem startHandle_store (s : State) (h : Nat) : StoreKept s (startHandle s h) := by
  unfold Machine.startHandle
  (repeat' split) <;> simp

@[simp] theorem progress_store (s : State) (h n : Nat) : StoreKept s (progress s h n) := by
  unfold Machine.progress
  split <;> simp

@[simp] theorem finishHandle_store (s : State) (h : Nat) (st : Status) (reason : Nat) (result : List Byte) :
    StoreKept s (finishHandle s h st reason result) :=
  (touches_finishHandle ..).store (by decide)

@[simp] theorem finishOpt_store (s : State) (h : Option Nat) (st : Status) (reason : Nat) (result : List Byte) :
    StoreKept s (finishOpt s h st reason result) := by
  unfold Machine.finishOpt
  split <;> simp

@[simp] theorem finishAll_store (s : State) (l : Nat) (hs : List Nat) (st : Status) : StoreKept s (finishAll s l hs st) := by simp [Machine.finishAll]

@[simp] theorem release_store (s : State) (l : Nat) (c : TClass) (ures ush : Nat) : StoreKept s (release s l c ures ush) :=
  (touches_release ..).store (by decide)

/-! ### Messages and their answers -/

@[simp] theorem dropHead_store (s : State) (ses : Nat) : StoreKept s (dropHead s ses) := (touches_dropHead ..).store (by decide)

@[simp] theorem carry_store (s : State) (b : Nat) (p : MctpPeer) (m : List Byte) : StoreKept s (carry s b p m) := (touches_carry ..).store (by decide)

@[simp] theorem sendSecured_store (s : State) (x : Session) (o : Out) (m : List Byte) : StoreKept s (sendSecured s x o m) :=
  (touches_sendSecured ..).store (by decide)

@[simp] theorem answer_store (s : State) (ses op idx sub : Nat) (st : Status) (val : List Byte) : StoreKept s (answer s ses op idx sub st val) := by
  simp [Machine.answer]

@[simp] theorem answerIn_store (s : State) (x : Session) (op idx sub : Nat) (st : Status) (val : List Byte) :
    StoreKept s (answerIn s x op idx sub st val) :=
  (touches_answerIn ..).store (by decide)

@[simp] theorem touch_store (s : State) (ses : Nat) : StoreKept s (touch s ses) := (touches_touch ..).store (by decide)

@[simp] theorem asked_store (s : State) (ses : Nat) : StoreKept s (asked s ses) := (touches_asked ..).store (by decide)

/-! ### Sticky flags, counters and the log -/

@[simp] theorem adderTo_store (s : State) (u c : Nat) : StoreKept s (adderTo s u c) := (touches_adderTo ..).store (by decide)

@[simp] theorem deliver_store (s : State) (u src ctr inc : Nat) : StoreKept s (deliver s u src ctr inc) := (touches_deliver ..).store (by decide)

@[simp] theorem completeAt_store (s : State) (u cnt t : Nat) : StoreKept s (completeAt s u cnt t) := (touches_completeAt ..).store (by decide)

@[simp] theorem signalDone_store (s : State) (u src : Nat) (d : QDesc) : StoreKept s (signalDone s u src d) :=
  (touches_signalDone ..).store (by decide)

@[simp] theorem settle_store (s : State) (u c : Nat) : StoreKept s (settle s u c) := (touches_settle ..).store (by decide)

@[simp] theorem meetThrottle_store (s : State) (u : Nat) : StoreKept s (meetThrottle s u) := (touches_meetThrottle ..).store (by decide)

@[simp] theorem bumpSlip_store (s : State) (u : Nat) (cat n : Nat) : StoreKept s (bumpSlip s u cat n) := (touches_bumpSlip ..).store (by decide)

@[simp] theorem countSlip_store (s : State) (u : Nat) (q : QDesc) (pcat : Nat) : StoreKept s (countSlip s u q pcat) :=
  (touches_countSlip ..).store (by decide)

@[simp] theorem bumpCorr_store (s : State) (a : Nat) : StoreKept s (bumpCorr s a) := (touches_bumpCorr ..).store (by decide)

@[simp] theorem bareErrors_store (s : State) (a n : Nat) : StoreKept s (bareErrors s a n) := (touches_bareErrors ..).store (by decide)

@[simp] theorem readErrors_store (s : State) (u eng a n cnt tag extra : Nat) : StoreKept s (readErrors s u eng a n cnt tag extra) :=
  (touches_readErrors ..).store (by decide)

/-! ### The banks of a core -/

@[simp] theorem useBanks_store (s : State) (l : List (Nat × Nat)) : StoreKept s (useBanks s l) := (touches_useBanks ..).store (by decide)

/-! ### Mover units -/

@[simp] theorem useChannels_store (s : State) (l : List Nat) : StoreKept s (useChannels s l) := (touches_useChannels ..).store (by decide)

/-! ### Cycles as they pass -/

@[simp] theorem countThrottle_store (s : State) (a : Nat) : StoreKept s (countThrottle s a) := (touches_countThrottle_regs ..).store (by decide)

/-! ### The stream unit -/

@[simp] theorem fetchOne_store (s : State) (u : Nat) : StoreKept s (fetchOne s u) := by
  unfold Machine.fetchOne
  dsimp only
  (repeat' split) <;> simp

@[simp] theorem breakMatch_store (s : State) (u cnt tag opc depth : Nat) : StoreKept s (breakMatch s u cnt tag opc depth) := by
  unfold Machine.breakMatch
  dsimp only
  split <;> simp

@[simp] theorem takeItem_store (s : State) (u : Nat) (i : PItem) : StoreKept s (takeItem s u i) := by
  unfold Machine.takeItem
  dsimp only
  split <;> simp

@[simp] theorem countPhase_store (s : State) (u : Nat) : StoreKept s (countPhase s u) := (touches_countPhase ..).store (by decide)

@[simp] theorem skipDesc_store (s : State) (u : Nat) (d : BitVec 512) : StoreKept s (skipDesc s u d) := by simp [Machine.skipDesc]

@[simp] theorem skipIllegal_store (s : State) (u : Nat) (d : BitVec 512) (code : Nat) : StoreKept s (skipIllegal s u d code) := by
  unfold Machine.skipIllegal
  split <;> simp

@[simp] theorem enqueue_store (s : State) (u : Nat) (q : QDesc) : StoreKept s (enqueue s u q) := by
  unfold Machine.enqueue
  dsimp only
  (repeat' split) <;> simp

@[simp] theorem acceptDesc_store (s : State) (u : Nat) (lm : Bool) (d : BitVec 512) : StoreKept s (acceptDesc s u lm d) := by
  simp [Machine.acceptDesc]

@[simp] theorem takeHead_store (s : State) (u : Nat) (i : PItem) : StoreKept s (takeHead s u i) := by
  unfold Machine.takeHead
  dsimp only
  (repeat' split) <;> simp

@[simp] theorem dispatchOne_store (s : State) (u : Nat) : StoreKept s (dispatchOne s u) := by
  unfold Machine.dispatchOne
  dsimp only
  (repeat' split) <;> simp

@[simp] theorem owe_store (s : State) (u : Nat) (q : QDesc) : StoreKept s (owe s u q) := by simp [Machine.owe]

@[simp] theorem heldSlip_store (s : State) (u : Nat) (q : QDesc) : StoreKept s (heldSlip s u q) := by simp [Machine.heldSlip]

@[simp] theorem openFrame_store (s : State) (u : Nat) (q : QDesc) : StoreKept s (openFrame s u q) := by simp [Machine.openFrame]

@[simp] theorem closeFrame_store (s : State) (u : Nat) : StoreKept s (closeFrame s u) := by
  unfold Machine.closeFrame
  dsimp only
  split <;> simp

@[simp] theorem callSignalNow_store (s : State) (u : Nat) : StoreKept s (callSignalNow s u) := by
  unfold Machine.callSignalNow
  dsimp only
  (repeat' split) <;> simp

@[simp] theorem addHint_store (s : State) (n : Hint) : StoreKept s (addHint s n) := (touches_addHint ..).store (by decide)

/-! ### Plans -/

@[simp] theorem mapCores_store (s : State) (p : Nat) (f : Nat → CoreSt → CoreSt) : StoreKept s (mapCores s p f) :=
  (touches_mapCores ..).store (by decide)

@[simp] theorem loadDefaults_store (s : State) (p : Nat) : StoreKept s (loadDefaults s p) := (touches_loadDefaults ..).store (by decide)

@[simp] theorem unloadPlan_store (s : State) (p : Nat) : StoreKept s (unloadPlan s p) := (touches_unloadPlan ..).store (by decide)

@[simp] theorem dropPlan_store (s : State) (p : Nat) : StoreKept s (dropPlan s p) := by
  unfold Machine.dropPlan
  split <;> simp

@[simp] theorem planLoad_store (s : State) (p h : Nat) (arg : List Byte) : StoreKept s (planLoad s p h arg) := (touches_planLoad ..).store (by decide)

@[simp] theorem clearRun_store (s : State) (p : Nat) : StoreKept s (clearRun s p) := (touches_clearRun ..).store (by decide)

/-! ### Contexts and flash -/

@[simp] theorem setCtxState_store (s : State) (c v : Nat) : StoreKept s (setCtxState s c v) := by simp [Machine.setCtxState]

@[simp] theorem cryptoErase_store (s : State) (c : Nat) : StoreKept s (cryptoErase s c) := by simp [Machine.cryptoErase]

@[simp] theorem countFlashUe_store (s : State) : StoreKept s (countFlashUe s) := by simp [Machine.countFlashUe]

@[simp] theorem ctxFinish_store (s : State) (c h reason : Nat) (st : Status) : StoreKept s (ctxFinish s c h reason st) := by simp [Machine.ctxFinish]

@[simp] theorem doInstall_store (s : State) (c h : Nat) : StoreKept s (doInstall s c h) := by
  simp [Machine.doInstall, apply_ite State.mem, apply_ite State.ecc]

@[simp] theorem failInstall_store (s : State) (c reason : Nat) (st : Status) : StoreKept s (failInstall s c reason st) := by
  unfold Machine.failInstall
  dsimp only
  split <;> simp

@[simp] theorem takeChunk_store (s : State) (c i : Nat) (data : List Byte) : StoreKept s (takeChunk s c i data).1 := by
  unfold Machine.takeChunk
  dsimp only
  (repeat' split) <;> simp

@[simp] theorem useBg_store (s : State) (a n : Nat) : StoreKept s (useBg s a n) := by simp [Machine.useBg]

@[simp] theorem failGraft_store (s : State) (g : Graft) (reason : Nat) (st : Status) (after : Nat) : StoreKept s (failGraft s g reason st after) :=
  (touches_failGraft ..).store (by decide)

@[simp] theorem graftStart_store (s : State) (ue : Bool) : StoreKept s (graftStart s ue) := by
  unfold Machine.graftStart
  dsimp only
  (repeat' split) <;> simp

@[simp] theorem scrubGrafts_store (s : State) (p : Nat) : StoreKept s (scrubGrafts s p) := (touches_scrubGrafts ..).store (by decide)

@[simp] theorem readJournal_store (s : State) (c : Nat) : StoreKept s (readJournal s c) := by
  unfold Machine.readJournal
  split <;> simp

@[simp] theorem resetContexts_store (s : State) : StoreKept s (resetContexts s) := by
  have hgrafts : ∀ (t : State) (l : List Graft), StoreKept t (l.foldl (fun t g => wr t (0x4440 + g.ctx) 9 15) t) :=
    fun t l => foldl_store (fun t g => wr_store ..) l t
  have hctx : ∀ (t : State) (c : Nat),
      StoreKept t (readJournal (if (ctxAt t c).handle.isSome then setCtx t c { ctxAt t c with handle := none } else t) c) := fun t c => by
    split <;> simp
  unfold resetContexts
  dsimp only
  simp only [StoreKept, foldl_store hctx, hgrafts, and_self]

@[simp] theorem ungraft_store (s : State) (c : Nat) : StoreKept s (ungraft s c) := by simp [Machine.ungraft]

@[simp] theorem eraseCtx_store (s : State) (c : Nat) : StoreKept s (eraseCtx s c) := by simp [Machine.eraseCtx]

@[simp] theorem flashSelftestEnd_store (s : State) (res : List Byte) : StoreKept s (flashSelftestEnd s res) := by
  unfold Machine.flashSelftestEnd
  split <;> simp

/-! ### The serving unit -/

@[simp] theorem putEnt_store (s : State) (e : Nat) (x : ServeEnt) : StoreKept s (putEnt s e x) := (touches_putEnt ..).store (by decide)

@[simp] theorem sendRec_store (s : State) (x : Session) (kind target : Nat) (plain : List Byte) : StoreKept s (sendRec s x kind target plain) :=
  (touches_sendRec ..).store (by decide)

@[simp] theorem flushRecords_store (s : State) : StoreKept s (flushRecords s) := (touches_flushRecords ..).store (by decide)

@[simp] theorem putRecord_store (s : State) (dest : Nat) (r : List Byte) : StoreKept s (putRecord s dest r) :=
  (touches_putRecord ..).store (by decide)

@[simp] theorem endEntIn_store (b : Nat) (s : State) (p e : Nat) (x : ServeEnt) (reason : Nat) : StoreKept s (endEntIn b s p e x reason).1 := by
  simp [Machine.endEntIn]

@[simp] theorem endEnt_store (s : State) (p e : Nat) (x : ServeEnt) (reason : Nat) : StoreKept s (endEnt s p e x reason).1 := by simp [Machine.endEnt]

@[simp] theorem freeEnded_store (s : State) (p : Nat) : StoreKept s (freeEnded s p) := (touches_freeEnded ..).store (by decide)

@[simp] theorem dropStep_store (s : State) (p : Nat) : StoreKept s (dropStep s p) := (touches_dropStep ..).store (by decide)

@[simp] theorem endServing_store (s : State) (p : Nat) : StoreKept s (endServing s p) := by
  simp [Machine.endServing, apply_ite State.mem, apply_ite State.ecc]

@[simp] theorem doCancel_store (s : State) (p e b : Nat) : StoreKept s (doCancel s p e b).1 := by
  unfold Machine.doCancel
  dsimp only
  (repeat' split) <;> simp

@[simp] theorem genAfterEmit_store (s : State) (g : Nat) : StoreKept s (genAfterEmit s g).2 := by
  unfold genAfterEmit
  split <;> exact .refl

@[simp] theorem storeRecords_store (p : Nat) (l : List (List Byte)) (s : State) : StoreKept s (storeRecords p l s).1 := by
  induction l generalizing s with
  | nil => exact .refl
  | cons r rs ih =>
    unfold storeRecords
    split
    · exact .refl
    · exact StoreKept.trans (putRecord_store ..) (ih _)

@[simp] theorem serveSelftestEnd_store (s : State) (pass : Bool) : StoreKept s (serveSelftestEnd s pass) := by
  unfold Machine.serveSelftestEnd
  split <;> simp

/-! ### Partitions -/

@[simp] theorem closeSession_store (s : State) (id : Nat) : StoreKept s (closeSession s id) := by simp [Machine.closeSession]

@[simp] theorem closeTenants_store (s : State) (p : Nat) : StoreKept s (closeTenants s p) := by simp [Machine.closeTenants]

@[simp] theorem setPartState_store (s : State) (p v : Nat) : StoreKept s (setPartState s p v) := by simp [Machine.setPartState]

@[simp] theorem storeRecord_store (s : State) (p : Nat) : StoreKept s (storeRecord s p) := (touches_storeRecord ..).store (by decide)

@[simp] theorem scrubDefaults_store (s : State) (p : Nat) : StoreKept s (scrubDefaults s p) := by simp [Machine.scrubDefaults]

@[simp] theorem clearQueues_store (s : State) (l : Nat) : StoreKept s (clearQueues s l) := by simp [Machine.clearQueues]

@[simp] theorem eraseNamed_store (s : State) (p : Nat) : StoreKept s (eraseNamed s p).1 := by
  unfold eraseNamed
  refine List.foldlRecOn (motive := fun r : State × Nat => StoreKept s r.1) _ _ .refl (fun r hr c _ => ?_)
  split
  · exact hr.trans (eraseCtx_store ..)
  · exact hr

@[simp] theorem scrubLast_store (s : State) (p res d ch us skipped : Nat) : StoreKept s (scrubLast s p res d ch us skipped) := by
  simp [Machine.scrubLast]

@[simp] theorem scrubHandles_store (s : State) (p : Nat) (st : Status) : StoreKept s (scrubHandles s p st) := by
  have hprogress : ∀ (t : State) (n : Nat) (l : List Nat), StoreKept t (l.foldl (fun t h => progress t h n) t) :=
    fun t n l => foldl_store (fun t h => progress_store ..) l t
  unfold scrubHandles
  dsimp only
  simp only [StoreKept, finishOpt_store, hprogress, setPart_store, and_self]

/-! ### Power, sensors and trips -/

@[simp] theorem noteInvalid_store (s : State) (d : Nat) (raw : List Int) : StoreKept s (noteInvalid s d raw) := by
  simp [Machine.noteInvalid, apply_ite State.mem, apply_ite State.ecc]

@[simp] theorem refreshThermal_store (s : State) : StoreKept s (refreshThermal s) := by simp [Machine.refreshThermal]

@[simp] theorem setRail_store (s : State) (r : Nat) (x : RailSt) : StoreKept s (setRail s r x) := by simp [Machine.setRail]

@[simp] theorem fitRail_store (s : State) (l : List (Rat × Nat)) : StoreKept s (fitRail s l).2.2 := by
  unfold fitRail
  dsimp only
  split <;> exact .refl

@[simp] theorem readRail_store (s : State) (r : Nat) (l : List (Nat × Nat)) : StoreKept s (readRail s r l) := by
  unfold Machine.readRail
  split <;> simp

@[simp] theorem bumpEnergy_store (s : State) (p sub ovf nj : Nat) : StoreKept s (bumpEnergy s p sub ovf nj) := by simp [Machine.bumpEnergy]

@[simp] theorem bumpPhase_store (s : State) (p ph nj : Nat) : StoreKept s (bumpPhase s p ph nj) := by simp [Machine.bumpPhase]

@[simp] theorem bumpSigned_store (s : State) (p sub ovf : Nat) (nj : Int) : StoreKept s (bumpSigned s p sub ovf nj) := by simp [Machine.bumpSigned]

@[simp] theorem shareEnergy_store (s : State) (r : Nat) : StoreKept s (shareEnergy s r) := by
  unfold Machine.shareEnergy
  split <;> simp

@[simp] theorem learnPhases_store (s : State) : StoreKept s (learnPhases s) := by
  simp [Machine.learnPhases, apply_ite State.mem, apply_ite State.ecc]

@[simp] theorem countPhases_store (s : State) : StoreKept s (countPhases s) := by
  simp [Machine.countPhases, apply_ite State.mem, apply_ite State.ecc]

@[simp] theorem calInterval_store (s : State) (r : Nat) (l : List (Nat × Nat)) : StoreKept s (calInterval s r l) := by
  unfold calInterval
  dsimp only
  split
  · simp
  · split
    · simp
    · split
      · exact .refl
      · split <;> simp

@[simp] theorem senseBit_store (s : State) (r : Nat) : StoreKept s (senseBit s r) := by simp [Machine.senseBit]

@[simp] theorem senseMismatch_store (s : State) (r : Nat) (above agreesEst : Bool) : StoreKept s (senseMismatch s r above agreesEst) := by
  simp [Machine.senseMismatch, apply_ite State.mem, apply_ite State.ecc]

@[simp] theorem doSenseState_store (s : State) (v : Nat) : StoreKept s (doSenseState s v) := by
  simp [Machine.doSenseState, apply_ite State.mem, apply_ite State.ecc]

@[simp] theorem capPredict_store (s : State) : StoreKept s (capPredict s) := by
  simp [Machine.capPredict, apply_ite State.mem, apply_ite State.ecc]

@[simp] theorem setThrottle_store (s : State) : StoreKept s (setThrottle s) := (touches_setThrottle ..).store (by decide)

@[simp] theorem capMiss_store (s : State) : StoreKept s (capMiss s) := (touches_capMiss ..).store (by decide)

@[simp] theorem showTripIn_store (s : State) : StoreKept s (showTripIn s) := by simp [Machine.showTripIn]

/-! ### Barriers, posts and arrivals -/

@[simp] theorem syncStart_store (s : State) (u : Nat) (q : QDesc) (k : Option Nat) : StoreKept s (syncStart s u q k) := by simp [Machine.syncStart]

@[simp] theorem sendPosts_store (s : State) (u : Nat) (d : BitVec 512) : StoreKept s (sendPosts s u d) := (touches_sendPosts ..).store (by decide)

@[simp] theorem postApply_store (s : State) (u : Nat) : StoreKept s (postApply s u) := by
  unfold Machine.postApply
  dsimp only
  (repeat' split) <;> simp

@[simp] theorem arrivalApply_store (s : State) (u : Nat) : StoreKept s (arrivalApply s u) := by
  unfold Machine.arrivalApply
  dsimp only
  (repeat' split) <;> simp

@[simp] theorem nodeFault_store (s : State) (p level die cluster code : Nat) (detail : List Byte) :
    StoreKept s (nodeFault s p level die cluster code detail) := by
  unfold Machine.nodeFault
  split <;> simp

@[simp] theorem closeInst_store (s : State) (p : Nat) (i : BInst) : StoreKept s (closeInst s p i) := by simp [Machine.closeInst]

@[simp] theorem compareAt_store (p u src : Nat) (a : BInst) (levels : List Nat) (s : State) : StoreKept s (compareAt p u src a levels s) :=
  foldl_store (fun t level => by
    split
    · exact .refl
    · split <;> simp) levels s

@[simp] theorem releaseKids_store (s : State) (p bid origin hops : Nat) : StoreKept s (releaseKids s p bid origin hops) :=
  (touches_releaseKids ..).store (by decide)

@[simp] theorem settleInst_store (s : State) (p : Nat) (key : BInst) (a : Nat) (fromKid : Bool) : StoreKept s (settleInst s p key a fromKid) := by
  unfold Machine.settleInst
  (repeat' split) <;> simp

@[simp] theorem joinInst_store (s : State) (p : Nat) (a : BInst) : StoreKept s (joinInst s p a) := by
  unfold Machine.joinInst
  dsimp only
  split <;> simp

@[simp] theorem barrierArrive_store (s : State) (p : Nat) : StoreKept s (barrierArrive s p) := by
  unfold Machine.barrierArrive
  (repeat' split) <;> simp

@[simp] theorem releaseCore_store (s : State) (bid : Nat) (k : Nat × Nat × Nat × Nat) : StoreKept s (releaseCore s bid k) :=
  (touches_releaseCore ..).store (by decide)

@[simp] theorem barrierRelease_store (s : State) (p bid scope node : Nat) : StoreKept s (barrierRelease s p bid scope node) := by
  unfold Machine.barrierRelease
  (repeat' split) <;> simp

@[simp] theorem canopyTimeout_store (s : State) (p bid scope node : Nat) : StoreKept s (canopyTimeout s p bid scope node) := by
  unfold Machine.canopyTimeout
  (repeat' split) <;> simp

@[simp] theorem arriveRx_store (s : State) (p l : Nat) (m : Arrive) : StoreKept s (arriveRx s p l m) := by
  unfold Machine.arriveRx
  split <;> simp

@[simp] theorem releaseRx_store (s : State) (p l : Nat) (m : ReleaseMsg) : StoreKept s (releaseRx s p l m) := by
  unfold Machine.releaseRx
  split <;> simp

/-! ### Clock, timing tree and frequency -/

@[simp] theorem countHold_store (s : State) : StoreKept s (countHold s) := (touches_countHold ..).store (by decide)

@[simp] theorem setTiming_store (s : State) (v : Nat) : StoreKept s (setTiming s v) := (touches_setTiming ..).store (by decide)

@[simp] theorem takeActive_store (s : State) (l : Nat) : StoreKept s (takeActive s l) := (touches_takeActive ..).store (by decide)

@[simp] theorem freerun_store (s : State) : StoreKept s (freerun s) := (touches_freerun ..).store (by decide)

@[simp] theorem timingLinkLost_store (s : State) (l : Nat) : StoreKept s (timingLinkLost s l) := by
  unfold Machine.timingLinkLost
  split <;> simp

@[simp] theorem doTimingWrite_store (s : State) (sub v : Nat) : StoreKept s (doTimingWrite s sub v) := (touches_doTimingWrite ..).store (by decide)

@[simp] theorem setStep_store (s : State) (o : Option (Nat × Nat)) : StoreKept s (setStep s o) := by simp [Machine.setStep]

@[simp] theorem sendSyncs_store (s : State) (origin hops : Nat) : StoreKept s (sendSyncs s origin hops) := (touches_sendSyncs ..).store (by decide)

@[simp] theorem rootSyncs_store (s : State) : StoreKept s (rootSyncs s) := (touches_rootSyncs ..).store (by decide)

@[simp] theorem sendRequest_store (s : State) : StoreKept s (sendRequest s) := (touches_sendRequest ..).store (by decide)

@[simp] theorem updateCeil_store (s : State) : StoreKept s (updateCeil s) := by
  unfold Machine.updateCeil
  dsimp only
  split <;> simp

@[simp] theorem leaveAligned_store (s : State) : StoreKept s (leaveAligned s) := (touches_leaveAligned ..).store (by decide)

@[simp] theorem syncFault_store (s : State) (code : Nat) : StoreKept s (syncFault s code) := by
  unfold Machine.syncFault
  split <;> simp

@[simp] theorem learnStep_store (s : State) (n at_ : Nat) : StoreKept s (learnStep s n at_) := by
  simp [Machine.learnStep, apply_ite State.mem, apply_ite State.ecc]

@[simp] theorem fstepAnnounceRx_store (s : State) (l n at_ : Nat) (m : StepSeq) : StoreKept s (fstepAnnounceRx s l n at_ m) := by
  unfold Machine.fstepAnnounceRx
  split <;> simp

@[simp] theorem keepMarker_store (s : State) (m : BeatSync) : StoreKept s (keepMarker s m) := by
  unfold Machine.keepMarker
  split <;> simp

@[simp] theorem notePhase_store (s : State) (e : Int) : StoreKept s (notePhase s e) := by
  unfold Machine.notePhase
  split <;> simp

@[simp] theorem adopt_store (s : State) (now : Int) (n : Nat) : StoreKept s (adopt s now n) := (touches_adopt ..).store (by decide)

@[simp] theorem syncCheck_store (s : State) (m : BeatSync) (e : Option Int) : StoreKept s (syncCheck s m e) := by
  unfold Machine.syncCheck
  dsimp only
  (repeat' split) <;> simp

@[simp] theorem syncLocked_store (s : State) (m : BeatSync) (now : Option Int) : StoreKept s (syncLocked s m now) := by
  unfold Machine.syncLocked
  (repeat' split) <;> simp

@[simp] theorem beatsyncRx_store (s : State) (l : Nat) (m : BeatSync) : StoreKept s (beatsyncRx s l m) := by
  unfold Machine.beatsyncRx
  dsimp only
  (repeat' split) <;> simp

@[simp] theorem endFreqChange_store (s : State) (n : Nat) : StoreKept s (endFreqChange s n) := by simp [Machine.endFreqChange]

@[simp] theorem joinFreqChange_store (s : State) : StoreKept s (joinFreqChange s) := by simp [Machine.joinFreqChange]

@[simp] theorem announce_store (s : State) : StoreKept s (announce s) := by
  simp [Machine.announce, apply_ite State.mem, apply_ite State.ecc]

@[simp] theorem fstepApply_store (s : State) : StoreKept s (fstepApply s) := by
  unfold Machine.fstepApply
  (repeat' split) <;> simp

@[simp] theorem doFreqChange_store (s : State) (h : Nat) : StoreKept s (doFreqChange s h) := by
  simp [Machine.doFreqChange, apply_ite State.mem, apply_ite State.ecc]

@[simp] theorem stretchCores_store (s : State) (g : Nat) : StoreKept s (stretchCores s g) :=
  foldl_store (fun t i => by
    dsimp only
    split
    · exact .refl
    · split <;> simp) _ s

@[simp] theorem shiftPosts_store (s : State) (g : Nat) : StoreKept s (shiftPosts s g) := by simp [Machine.shiftPosts]

@[simp] theorem shiftUnits_store (s : State) (g : Nat) : StoreKept s (shiftUnits s g) := by simp [Machine.shiftUnits]

@[simp] theorem stretchedCycle_store (s : State) (d r : Nat) : StoreKept s (stretchedCycle s d r) := by
  simp [Machine.stretchedCycle, apply_ite State.mem, apply_ite State.ecc]

@[simp] theorem fifoRange_store (s : State) (d x occ : Nat) : StoreKept s (fifoRange s d x occ) := by
  unfold Machine.fifoRange
  split <;> simp

/-! ### Coordinates, routes and ranks -/

@[simp] theorem refuse_store (s : State) (p d l reason : Nat) (k : Packet) : StoreKept s (refuse s p d l reason k) := by
  unfold Machine.refuse
  split <;> simp

@[simp] theorem deliverPacket_store (s : State) (p d l : Nat) (k : Packet) (ures ush : Nat) : StoreKept s (deliverPacket s p d l k ures ush) := by
  unfold Machine.deliverPacket
  (repeat' split) <;> simp

@[simp] theorem noRoute_store (s : State) (p d l : Nat) (k : Packet) : StoreKept s (noRoute s p d l k) := by simp [Machine.noRoute]

@[simp] theorem packetCrossing_store (s : State) (u die : Nat) (k : Packet) : StoreKept s (packetCrossing s u die k) := by
  unfold Machine.packetCrossing
  split <;> simp

/-! ### Links and frames -/

@[simp] theorem sendFrame_store (s : State) (l : Nat) (str : Stream) (k : Packet) (seq ures ush : Nat) :
    StoreKept s (sendFrame s l str k seq ures ush) :=
  by simp [Machine.sendFrame]

@[simp] theorem sendLink_store (s : State) (l ltype : Nat) (body : List Nat) : StoreKept s (sendLink s l ltype body) := by simp [Machine.sendLink]

@[simp] theorem sendKeepalive_store (s : State) (l : Nat) : StoreKept s (sendKeepalive s l) := by simp [Machine.sendKeepalive]

@[simp] theorem sendIdent_store (s : State) (l : Nat) : StoreKept s (sendIdent s l) := by simp [Machine.sendIdent]

@[simp] theorem heard_store (s : State) (l n : Nat) : StoreKept s (heard s l n) := by
  unfold Machine.heard
  split <;> simp

@[simp] theorem takeAck_store (s : State) (l a : Nat) : StoreKept s (takeAck s l a) := by
  unfold Machine.takeAck
  dsimp only
  split <;> simp

@[simp] theorem takeCredits_store (s : State) (l : Nat) (c : List Nat) : StoreKept s (takeCredits s l c) := by simp [Machine.takeCredits]

@[simp] theorem takeTrailer_store (s : State) (l : Nat) (t : Trailer) : StoreKept s (takeTrailer s l t) := by simp [Machine.takeTrailer]

@[simp] theorem clearLink_store (s : State) (l : Nat) : StoreKept s (clearLink s l) := by simp [Machine.clearLink]

@[simp] theorem setLinkState_store (s : State) (l v : Nat) : StoreKept s (setLinkState s l v) := by simp [Machine.setLinkState]

@[simp] theorem leaveFor_store (s : State) (l v : Nat) : StoreKept s (leaveFor s l v) := by
  unfold Machine.leaveFor
  dsimp only
  split <;> simp

@[simp] theorem startTraining_store (s : State) (l : Nat) : StoreKept s (startTraining s l) := by simp [Machine.startTraining]

@[simp] theorem failLink_store (s : State) (l cause : Nat) : StoreKept s (failLink s l cause) := by simp [Machine.failLink]

@[simp] theorem goDown_store (s : State) (l : Nat) : StoreKept s (goDown s l) := by
  unfold Machine.goDown
  split <;> simp

@[simp] theorem tryUp_store (s : State) (l : Nat) : StoreKept s (tryUp s l) := by
  simp [Machine.tryUp, apply_ite State.mem, apply_ite State.ecc]

@[simp] theorem enterProbing_store (s : State) (l : Nat) : StoreKept s (enterProbing s l) := by simp [Machine.enterProbing]

@[simp] theorem trainAttempt_store (s : State) (l : Nat) : StoreKept s (trainAttempt s l) := by
  unfold Machine.trainAttempt
  dsimp only
  split <;> simp

@[simp] theorem notePeer_store (s : State) (l : Nat) (m : Ident) : StoreKept s (notePeer s l m) := by simp [Machine.notePeer]

@[simp] theorem sendResume_store (s : State) (l : Nat) : StoreKept s (sendResume s l) := by simp [Machine.sendResume]

@[simp] theorem tryResume_store (s : State) (l : Nat) : StoreKept s (tryResume s l) := by
  unfold Machine.tryResume
  dsimp only
  (repeat' split) <;> simp

@[simp] theorem identRx_store (s : State) (l : Nat) (m : Ident) : StoreKept s (identRx s l m) := by
  unfold Machine.identRx
  dsimp only
  (repeat' split) <;> simp

@[simp] theorem identFrame_store (s : State) (l : Nat) (m : Ident) (t : Trailer) : StoreKept s (identFrame s l m t) := by
  unfold Machine.identFrame
  split <;> simp

@[simp] theorem rttWindowEnd_store (s : State) (l : Nat) (meas : List Nat) : StoreKept s (rttWindowEnd s l meas) := by
  unfold Machine.rttWindowEnd
  dsimp only
  split <;> simp

@[simp] theorem resumeRx_store (s : State) (l rxBase txNext : Nat) (t : Trailer) : StoreKept s (resumeRx s l rxBase txNext t) := by
  unfold Machine.resumeRx
  split <;> simp

@[simp] theorem endWait_store (s : State) (l key : Nat) (new : Option Bool) : StoreKept s (endWait s l key new) :=
  (touches_endWait ..).store (by decide)

@[simp] theorem startFrame_store (s : State) (l : Nat) (str : Stream) (k : Packet) : StoreKept s (startFrame s l str k) := by
  simp [Machine.startFrame]

@[simp] theorem replaySend_store (s : State) (l : Nat) : StoreKept s (replaySend s l) := by
  unfold Machine.replaySend
  dsimp only
  (repeat' split) <;> simp

@[simp] theorem lostAgain_store (s : State) (l : Nat) (test : HeldFrame → Bool) : StoreKept s (lostAgain s l test) := by
  unfold Machine.lostAgain
  dsimp only
  split <;> simp

@[simp] theorem nakRx_store (s : State) (l base miss : Nat) (t : Trailer) : StoreKept s (nakRx s l base miss t) := by
  unfold Machine.nakRx
  split <;> simp

@[simp] theorem sendNak_store (s : State) (l : Nat) : StoreKept s (sendNak s l) := by simp [Machine.sendNak]

@[simp] theorem markLost_store (s : State) (l q : Nat) (incl : Bool) : StoreKept s (markLost s l q incl) := by
  simp [Machine.markLost, apply_ite State.mem, apply_ite State.ecc]

@[simp] theorem keepaliveRx_store (s : State) (l : Nat) (txLast : Option Nat) (t : Trailer) : StoreKept s (keepaliveRx s l txLast t) := by
  unfold Machine.keepaliveRx
  dsimp only
  (repeat' split) <;> simp

@[simp] theorem ackRx_store (s : State) (l : Nat) (t : Trailer) : StoreKept s (ackRx s l t) := by
  unfold Machine.ackRx
  split <;> simp

@[simp] theorem sendAck_store (s : State) (l : Nat) : StoreKept s (sendAck s l) := by simp [Machine.sendAck]

@[simp] theorem takeLinkFrame_store (s : State) (l : Nat) (fr : List Byte) : StoreKept s (takeLinkFrame s l fr) := by
  unfold Machine.takeLinkFrame
  split <;> simp

@[simp] theorem abortForward_store (s : State) (l : Nat) (str : Stream) (age : Nat) (fr : List Byte) : StoreKept s (abortForward s l str age fr) := by
  unfold Machine.abortForward
  dsimp only
  (repeat' split) <;> simp

@[simp] theorem codewordLost_store (s : State) (m : LostWord) : StoreKept s (codewordLost s m) := by
  unfold Machine.codewordLost
  split <;> simp

@[simp] theorem doAdmin_store (s : State) (l v : Nat) : StoreKept s (doAdmin s l v) := by
  unfold Machine.doAdmin
  dsimp only
  (repeat' split) <;> simp

@[simp] theorem doMyCoord_store (s : State) (v : Nat) : StoreKept s (doMyCoord s v) := by
  simp [Machine.doMyCoord, apply_ite State.mem, apply_ite State.ecc]

/-! ### The beat and its edge -/

@[simp] theorem faultRecord_store (s : State) : StoreKept s (faultRecord s) := by
  unfold Machine.faultRecord
  split <;> simp

@[simp] theorem alarmRx_store (s : State) (p l : Nat) (m : CanopyMsg) : StoreKept s (alarmRx s p l m) := by
  simp [Machine.alarmRx, apply_ite State.mem, apply_ite State.ecc]

@[simp] theorem logOverruns_store (s : State) (p : Nat) : StoreKept s (logOverruns s p) := by
  simp [Machine.logOverruns, apply_ite State.mem, apply_ite State.ecc]

@[simp] theorem beatPassed_store (s : State) (p b : Nat) : StoreKept s (beatPassed s p b) := (touches_beatPassed ..).store (by decide)

@[simp] theorem beginSlice_store (s : State) (u : Nat) (seg rep : Bool) : StoreKept s (beginSlice s u seg rep) := by
  simp [Machine.beginSlice, apply_ite State.mem, apply_ite State.ecc]

@[simp] theorem beginBeat_store (s : State) (p : Nat) (seg rep : Bool) : StoreKept s (beginBeat s p seg rep) := by simp [Machine.beginBeat]

@[simp] theorem nextBeat_store (s : State) (p : Nat) : StoreKept s (nextBeat s p) := by
  simp [Machine.nextBeat, apply_ite State.mem, apply_ite State.ecc]

@[simp] theorem edgeAlarm_store (s : State) (p : Nat) : StoreKept s (edgeAlarm s p) := (touches_edgeAlarm ..).store (by decide)

@[simp] theorem movePhase_store (s : State) : StoreKept s (movePhase s) := by
  unfold Machine.movePhase
  split <;> simp

@[simp] theorem holdover_store (s : State) : StoreKept s (holdover s) := by
  simp [Machine.holdover, apply_ite State.mem, apply_ite State.ecc]

@[simp] theorem advanceBeat_store (s : State) : StoreKept s (advanceBeat s) := (touches_advanceBeat ..).store (by decide)

@[simp] theorem settlePart_store (s : State) (p : Nat) : StoreKept s (settlePart s p) := by
  simp [Machine.settlePart, apply_ite State.mem, apply_ite State.ecc]

@[simp] theorem planStart_store (s : State) (p : Nat) : StoreKept s (planStart s p) := by simp [Machine.planStart]

@[simp] theorem beatKChange_store (s : State) : StoreKept s (beatKChange s) := (touches_beatKChange ..).store (by decide)

/-! ### MCTP and SPDM -/

@[simp] theorem spdmOut_store (s : State) (b code : Nat) (val : List Byte) : StoreKept s (spdmOut s b code val) := by simp [Machine.spdmOut]

@[simp] theorem spdmIn_store (s : State) (x : Session) (code : Nat) (val : List Byte) : StoreKept s (spdmIn s x code val) := by simp [Machine.spdmIn]

@[simp] theorem spdmErr_store (s : State) (b err : Nat) : StoreKept s (spdmErr s b err) := by simp [Machine.spdmErr]

@[simp] theorem negotiate_store (s : State) (b need next code : Nat) (val : List Byte) : StoreKept s (negotiate s b need next code val) := by
  simp [Machine.negotiate, apply_ite State.mem, apply_ite State.ecc]

@[simp] theorem signNumber_store (s : State) : StoreKept s (signNumber s).2 := by simp [Machine.signNumber]

@[simp] theorem issueCert_store (s : State) (link issuer : Nat) (key meas : List Byte) : StoreKept s (issueCert s link issuer key meas).2 := by
  simp [Machine.issueCert]

@[simp] theorem deriveAk_store (s : State) : StoreKept s (deriveAk s) := by
  unfold Machine.deriveAk
  split <;> simp

@[simp] theorem bootDerive_store (s : State) : StoreKept s (bootDerive s) := by simp [Machine.bootDerive]

@[simp] theorem akSign_store (s : State) (body : List Byte) : StoreKept s (akSign s body).2 := by simp [Machine.akSign]

@[simp] theorem measurements_store (s : State) (x : Option Session) (nonce : List Byte) : StoreKept s (measurements s x nonce).2 := by
  simp [Machine.measurements]

@[simp] theorem newSession_store (s : State) : StoreKept s (newSession s).2 := by simp [Machine.newSession]

@[simp] theorem keyExchange_store (s : State) (b : Nat) (key : List Byte) (vendor mutualOk : Bool) :
    StoreKept s (keyExchange s b key vendor mutualOk) := by
  unfold Machine.keyExchange
  (repeat' split) <;> simp

@[simp] theorem newKeys_store (s : State) (x : Session) : StoreKept s (newKeys s x).2 := by simp [Machine.newKeys]

@[simp] theorem finishSession_store (s : State) (b ses : Nat) (ok : Bool) : StoreKept s (finishSession s b ses ok) := by
  unfold Machine.finishSession
  (repeat' split) <;> simp

/-! ### Ownership, debug and changes -/

@[simp] theorem setLifecycle_store (s : State) (v role ses : Nat) : StoreKept s (setLifecycle s v role ses) := by simp [Machine.setLifecycle]

@[simp] theorem newEpoch_store (s : State) : StoreKept s (newEpoch s) := by
  unfold newEpoch
  dsimp only
  refine StoreKept.trans ?_ (foldl_store (fun t c => ?_) _ _)
  · exact StoreKept.trans (t := wr s 0x6010 6 ((rg s 0x6010 6 + 1) % 2 ^ 32)) (wr_store ..) (foldl_store (fun t g => failGraft_store ..) _ _)
  · split
    · exact .refl
    · split <;> simp

@[simp] theorem newNonce_store (s : State) : StoreKept s (newNonce s) := by simp [Machine.newNonce]

@[simp] theorem discardChange_store (s : State) (cause role ses : Nat) : StoreKept s (discardChange s cause role ses) := by
  unfold Machine.discardChange
  split <;> simp

@[simp] theorem debugChallenge_store (s : State) (level : Nat) : StoreKept s (debugChallenge s level).2 := by simp [Machine.debugChallenge]

@[simp] theorem openDebug_store (s : State) (n : Nat) : StoreKept s (openDebug s n) := by simp [Machine.openDebug]

/-! ### The host's interface -/

@[simp] theorem lockLost_store (s : State) (ses cause : Nat) : StoreKept s (lockLost s ses cause) := by simp [Machine.lockLost]

@[simp] theorem freeLock_store (s : State) : StoreKept s (freeLock s) := by simp [Machine.freeLock]

@[simp] theorem takeLock_store (s : State) (ses : Nat) : StoreKept s (takeLock s ses) := by simp [Machine.takeLock]

@[simp] theorem doLock_store (s : State) (x : Session) : StoreKept s (doLock s x) := by
  unfold Machine.doLock
  (repeat' split) <;> simp

@[simp] theorem doUnlock_store (s : State) (x : Session) : StoreKept s (doUnlock s x) := by
  unfold Machine.doUnlock
  split <;> simp

@[simp] theorem readLog_store (s : State) (x : Session) : StoreKept s (readLog s x).2 := by
  unfold Machine.readLog
  dsimp only
  split <;> simp

@[simp] theorem msixWrite_store (s : State) (l : List (Nat × Nat)) : StoreKept s (msixWrite s l) := by
  simp [Machine.msixWrite, apply_ite State.mem, apply_ite State.ecc]

@[simp] theorem mbHostWrites_store (s : State) (len : Nat) (req : List Byte) (w : MbWrites) (ev : Nat) : StoreKept s (mbHostWrites s len req w ev) :=
  by simp [Machine.mbHostWrites]

@[simp] theorem mbGo_store (s : State) (len : Nat) (req : List Byte) (dict : Bool) : StoreKept s (mbGo s len req dict) := by
  simp [Machine.mbGo, apply_ite State.mem, apply_ite State.ecc]

@[simp] theorem readHost_store (s : State) (a n : Nat) : StoreKept s (readHost s a n).2 :=
  (bareErrors_store s a n).trans
    (List.foldlRecOn (motive := fun r : List Byte × State => StoreKept (bareErrors s a n) r.2) _ _ .refl fun r hr _ _ => hr.trans (draw_store r.2))

@[simp] theorem flushWaiting_store (n : Nat) (s : State) (id : Nat) : StoreKept s (flushWaiting n s id) := by
  induction n generalizing s with
  | zero => exact .refl
  | succ n ih =>
    unfold flushWaiting
    split
    · exact .refl
    · split
      · exact flushRecords_store s
      · split
        · exact .refl
        · split
          · exact StoreKept.trans (sendRec_store ..) (ih _)
          · dsimp only
            split
            · exact .refl
            · exact StoreKept.trans ((useBg_store ..).trans ((readHost_store ..).trans (sendRec_store ..))) (ih _)

@[simp] theorem flushSession_store (s : State) (id : Nat) : StoreKept s (flushSession s id) := by
  unfold Machine.flushSession
  split <;> simp

@[simp] theorem putWaiting_store (s : State) (id : Nat) (w : List Waiting) : StoreKept s (putWaiting s id w) := by
  unfold Machine.putWaiting
  split <;> simp

@[simp] theorem h2mTail_store (s : State) (x : Session) (tail : Nat) (ents : List (List Byte)) : StoreKept s (h2mTail s x tail ents) := by
  simp [Machine.h2mTail, apply_ite State.mem, apply_ite State.ecc]

@[simp] theorem setRing_store (s : State) (x : Session) (m2h : Bool) (val : List Byte) : StoreKept s (setRing s x m2h val) := by
  unfold Machine.setRing
  split <;> simp

@[simp] theorem useParts_store (s : State) (l : List Nat) : StoreKept s (useParts s l) := by simp [Machine.useParts]

@[simp] theorem sendMgmt_store (s : State) (dest : Nat) (mctp : List Byte) : StoreKept s (sendMgmt s dest mctp) := by
  unfold Machine.sendMgmt
  dsimp only
  split <;> simp

@[simp] theorem mctpArrives_store (s : State) (l : MctpFrom) (pk : Packet) : StoreKept s (mctpArrives s l pk) := by
  unfold Machine.mctpArrives
  dsimp only
  (repeat' split) <;> simp

@[simp] theorem mctpLeaves_store (s : State) : StoreKept s (mctpLeaves s) := by
  unfold Machine.mctpLeaves
  split <;> simp

/-! ### Start-up, resets and the management controller -/

@[simp] theorem recount_store (old s : State) : StoreKept s (recount old s) := by
  unfold recount
  dsimp only
  split <;> simp

@[simp] theorem markRetired_store (s : State) (v : Nat) : StoreKept s (markRetired s v) := by
  unfold Machine.markRetired
  split <;> simp

@[simp] theorem retire_store (s : State) (v cause : Nat) : StoreKept s (retire s v cause) := by
  unfold retire
  dsimp only
  split <;> split <;> simp

@[simp] theorem flushEvents_store (s : State) : StoreKept s (flushEvents s) := by
  refine foldl_store (fun t x => ?_) _ s
  split
  next y _ =>
    exact StoreKept.trans (setSes_store ..) (foldl_store (fun t e => by split <;> simp) _ _)
  · exact .refl

@[simp] theorem mcReturn_store (s : State) : StoreKept s (mcReturn s) := by
  unfold Machine.mcReturn
  dsimp only
  split <;> simp

@[simp] theorem dropSecurity_store (s : State) (role ses : Nat) : StoreKept s (dropSecurity s role ses) := by simp [Machine.dropSecurity]

@[simp] theorem countFail_store (s : State) : StoreKept s (countFail s) := by simp [Machine.countFail]

@[simp] theorem mcRestart_store (s : State) (cause : Nat) : StoreKept s (mcRestart s cause) := by
  unfold Machine.mcRestart
  dsimp only
  (repeat' split) <;> simp

@[simp] theorem setStage_store (s : State) (n : Nat) : StoreKept s (setStage s n) := by simp [Machine.setStage]

@[simp] theorem runImage_store (s : State) (ty : Nat) : StoreKept s (runImage s ty) := by
  unfold Machine.runImage
  (repeat' split) <;> simp

@[simp] theorem enterReady_store (s : State) : StoreKept s (enterReady s) := by
  simp [Machine.enterReady, apply_ite State.mem, apply_ite State.ecc]

@[simp] theorem retireSlot_store (s : State) (n : Nat) : StoreKept s (retireSlot s n) := by
  unfold Machine.retireSlot
  dsimp only
  split <;> simp

@[simp] theorem dropTests_store (s : State) : StoreKept s (dropTests s) := by
  unfold Machine.dropTests
  dsimp only
  (repeat' split) <;> simp [apply_ite State.mem, apply_ite State.ecc]

/-! ### Reads of the dictionary and of the log -/

@[simp] theorem dictRead_store (s : State) (x : Session) (idx sub : Nat) : StoreKept s (dictRead s x idx sub) := by
  unfold Machine.dictRead
  (repeat' split) <;> simp

/-! ### The matrix engine -/

@[simp] theorem mmStartNow_store (s : State) (u : Nat) (q : QDesc) : StoreKept s (mmStartNow s u q) := by simp [Machine.mmStartNow]

@[simp] theorem xaRange_store (s : State) (u eng : Nat) (q : QDesc) (kind row col : Nat) : StoreKept s (xaRange s u eng q kind row col) :=
  (touches_xaRange ..).store (by decide)

@[simp] theorem mmCompleteNow_store (s : State) (u : Nat) : StoreKept s (mmCompleteNow s u) := by
  unfold Machine.mmCompleteNow
  dsimp only
  (repeat' split) <;> simp

/-! ### The mover -/

@[simp] theorem moveStart_store (s : State) (u opc : Nat) : StoreKept s (moveStart s u opc) := by
  unfold Machine.moveStart
  split <;> simp

@[simp] theorem readIndex_store (s : State) (u : Nat) (m : MoveRun) : StoreKept s (readIndex s u m).2 := by
  unfold Machine.readIndex
  dsimp only
  split <;> simp

@[simp] theorem indexLine_store (s : State) (u : Nat) (m : MoveRun) : StoreKept s (indexLine s u m) := by
  unfold Machine.indexLine
  dsimp only
  split <;> simp

@[simp] theorem indexFault_store (s : State) (u : Nat) (m : MoveRun) (i : Nat) : StoreKept s (indexFault s u m i) := by
  unfold Machine.indexFault
  split <;> simp

@[simp] theorem moveUnit_store (s : State) (u : Nat) (m : MoveRun) (i : Nat) (empty : Bool) : StoreKept s (moveUnit s u m i empty) := by
  simp [Machine.moveUnit, apply_ite State.mem, apply_ite State.ecc]

@[simp] theorem sendUnit_store (s : State) (u : Nat) (m : MoveRun) (last : Bool) : StoreKept s (sendUnit s u m last).1 := by
  unfold Machine.sendUnit
  split <;> simp

@[simp] theorem d2dFail_store (s : State) (u n : Nat) (ranges : List (Nat × Nat)) : StoreKept s (d2dFail s u n ranges) := by
  unfold Machine.d2dFail
  (repeat' split) <;> simp

@[simp] theorem issueUnit_store (s : State) (u n : Nat) (m : MoveRun) : StoreKept s (issueUnit s u n m) := by
  unfold Machine.issueUnit
  dsimp only
  (repeat' split) <;> simp

theorem handOff_store {s t : State} {u : Nat} {k : Packet} {start : Nat} (h : handOff s u k start = some t) : StoreKept s t := by
  unfold handOff at h
  dsimp only at h
  split at h
  · cases h
    simp
  · cases h
    simp
  · split at h
    · cases h
    · cases h
      simp

@[simp] theorem handFirst_store (s : State) (u : Nat) (before l : List (Nat × Packet × Nat × Nat)) : StoreKept s (handFirst s u before l) := by
  induction l generalizing before with
  | nil => exact .refl
  | cons x r ih =>
    unfold handFirst
    split
    · exact ih _
    · split
      · exact ih _
      next t ht => exact (handOff_store ht).trans (setCore_store ..)

@[simp] theorem moveCompleteNow_store (s : State) (u : Nat) (send : Bool) : StoreKept s (moveCompleteNow s u send) := by
  unfold Machine.moveCompleteNow
  dsimp only
  split <;> simp

/-! ### The vector engine -/

@[simp] theorem vxStart_store (s : State) (u vop : Nat) : StoreKept s (vxStart s u vop) := by
  unfold Machine.vxStart
  split <;> simp

@[simp] theorem vxCompleteNow_store (s : State) (u : Nat) : StoreKept s (vxCompleteNow s u) := by
  unfold Machine.vxCompleteNow
  dsimp only
  (repeat' split) <;> simp

end Sys2Proof
end

section
/-! SUPPORT. The serving unit, STEP, scrubs, freezes, edges, patrols and received frames keep the form of the byte memories (O5). -/

namespace Sys2Proof

open Machine

theorem FormKept.of_store {s t : State} (h : StoreKept s t) : FormKept s t := ⟨fun w => by rwa [h.1], fun e he => by rwa [h.2] at he⟩

/-- A step that leaves the memories alone goes before or after one that keeps their form. -/
theorem FormKept.after {s t r : State} (g : FormKept t r) (h : StoreKept s t) : FormKept s r := (FormKept.of_store h).trans g

theorem FormKept.before {s t r : State} (g : FormKept s t) (h : StoreKept t r) : FormKept s r := g.trans (.of_store h)

/-- A state without memories and errors. -/
theorem FormKept.of_empty {s t : State} (h : t.mem = []) (g : t.ecc = []) : FormKept s t :=
  ⟨fun _ => by rw [h]; exact ⟨.nil, fun _ hc => by cases hc⟩, fun e he => by rw [g] at he; cases he⟩

theorem formKept_mzero (s : State) (a n : Nat) : FormKept s (mzero s a n) := ⟨mzero_wf a n, fun _ he => List.mem_of_mem_filter he⟩

theorem formKept_mcopy (s : State) (src dst n : Nat) : FormKept s (mcopy s src dst n) := by
  unfold mcopy
  refine (formKept_mzero s dst n).trans (FormKept.foldl _ ?_ _ _)
  exact fun t c => ⟨fun h => mset_wf _ _ h, fun _ he => he⟩

theorem formKept_elapse (s : State) (n : Nat) : FormKept s (elapse s n) := by
  unfold elapse
  exact (formKept_pass ..).before (countThrottle_store ..)

/-! ### The serving unit (R483, R490 to R495) -/

theorem formKept_doSubmit (s : State) (c : List Byte) : FormKept s (doSubmit s c).1 := (formKept_poke ..).before (putEnt_store ..)

theorem formKept_applyCommand (s : State) (q : Nat) (ses : Option Nat) (c : List Byte) (b : Nat) : FormKept s (applyCommand s q ses c b) := by
  unfold applyCommand
  dsimp only
  split
  · exact .of_store (putRecord_store ..)
  · split
    · exact (formKept_doSubmit s c).before (putRecord_store ..)
    · exact .of_store (((doCancel_store ..).trans (putRecord_store ..)).trans (foldl_store (fun t x => putRecord_store ..) _ _))

theorem formKept_drainCommands (s : State) (p b : Nat) : FormKept s (drainCommands s p b) := by
  unfold drainCommands
  dsimp only
  refine FormKept.before ?_ (setPart_store ..)
  refine FormKept.after (FormKept.foldPair (a := (_, [])) _ (fun r k => ?_) _) (setPart_store s p { Machine.partAt s p with cmdQ := [] })
  by_cases h : r.2.isEmpty = true ∧ recordNeed r.1 p (if k.1 = 0 then none else some (k.1 - 1)) k.2 ≤ recordRoom r.1
  · rw [if_pos h]
    exact formKept_applyCommand ..
  · rw [if_neg h]
    exact .refl

theorem formKept_planEnds (s : State) (p : Nat) : FormKept s (planEnds s p) := (formKept_drainCommands ..).after (endServing_store ..)

theorem formKept_planGone (s : State) (p : Nat) : FormKept s (planGone s p) :=
  (formKept_drainCommands ..).after ((dropStep_store ..).trans (freeEnded_store ..))

theorem formKept_commandAt (s : State) (q : Nat) (ses : Option Nat) (c : List Byte) : FormKept s (commandAt s q ses c) := by
  unfold commandAt
  exact .ite (.of_store (setPart_store ..)) (formKept_applyCommand ..)

theorem formKept_resumeUnit (s : State) : FormKept s (resumeUnit s) :=
  .foldl _ (fun _ _ => .ite (formKept_drainCommands ..) .refl) _ _

/-! ### STEP (R496 to R503) -/

theorem formKept_stepOutput (s : State) (u p slots sp addr : Nat) (new : List Nat) : FormKept s (stepOutput s u p slots sp addr new) := by
  unfold stepOutput
  exact (FormKept.foldl _ (fun t e => formKept_poke ..) _ _).trans (formKept_poke ..)

theorem stepResult_store (u p ahead sp addr cnt tag : Nat) (b : Bound) (e : Nat × ServeEnt) :
    StoreKept b.1 (stepResult u p ahead sp addr cnt tag b e).1 := by
  unfold stepResult
  dsimp only
  split
  · simp
  · split
    · simp
    · repeat' split
      all_goals simp

theorem stepDeadline_store (p : Nat) (b : Bound) (e : Nat × ServeEnt) : StoreKept b.1 (stepDeadline p b e).1 := by
  unfold stepDeadline
  split <;> simp

theorem topUp_store {s t : State} {p ahead e : Nat} {x : ServeEnt} (h : topUp s p ahead e x = some t) : StoreKept s t := by
  unfold topUp at h
  dsimp only at h
  split at h
  · cases h
  · cases h
    exact putEnt_store ..

theorem stepTop_store (p ahead : Nat) (b : Bound) (e : Nat × ServeEnt) : StoreKept b.1 (stepTop p ahead b e).1 := by
  unfold stepTop
  split
  · exact .refl
  · split
    next t ht => exact topUp_store ht
    · simp

theorem noteAdmission_store (s : State) (p e slot : Nat) : StoreKept s (noteAdmission s p e slot) := by simp [noteAdmission]

theorem stepAdmit_store (p ahead : Nat) (cs : List (Nat × ServeEnt)) (sls : List Nat) (b : Bound) (new : List Nat) :
    StoreKept b.1 (stepAdmit p ahead cs sls b new).1.1 := by
  fun_induction stepAdmit p ahead cs sls b new with
  | case1 => exact .refl
  | case2 => exact .refl
  | case3 c cs sl sls b new drop _ ih => exact StoreKept.trans (endEnt_store ..) ih
  | case4 c cs sl sls b new drop _ _ ih => exact StoreKept.trans (endEnt_store ..) ih
  | case5 => exact .refl
  | case6 =>
    rename_i ht ih
    exact ((topUp_store ht).trans (noteAdmission_store ..)).trans ih

/-- A fold over the serving unit's entries that leaves the memories alone at each entry. -/
theorem foldBound_store {α : Type} {f : Bound → α → Bound} (h : ∀ b e, StoreKept b.1 (f b e).1) (l : List α) (b : Bound) :
    StoreKept b.1 (l.foldl f b).1 :=
  List.foldlRecOn (motive := fun r : Bound => StoreKept b.1 r.1) l f .refl fun r hr e _ => hr.trans (h r e)

theorem boundEntries_store (t : State) (u p ahead sp addr cnt tag : Nat) (l₁ : List (Nat × ServeEnt)) (l₂ l₃ : Bound → List (Nat × ServeEnt)) :
    let b₁ := l₁.foldl (stepResult u p ahead sp addr cnt tag) (t, [])
    let b₂ := (l₂ b₁).foldl (stepDeadline p) b₁
    StoreKept t ((l₃ b₂).foldl (stepTop p ahead) b₂).1 :=
  (foldBound_store (b := (t, [])) (fun _ _ => stepResult_store ..) _).trans
    ((foldBound_store (stepDeadline_store p) _ _).trans (foldBound_store (stepTop_store p ahead) _ _))

theorem boundAdmit_store (down : Bool) (p ahead : Nat) (cs : List (Nat × ServeEnt)) (sls : List Nat) (b : Bound) :
    StoreKept b.1 (if down then (b, []) else stepAdmit p ahead cs sls b []).1.1 := by
  split
  · exact .refl
  · exact stepAdmit_store ..

theorem formKept_boundary (s : State) (u p : Nat) (q : QDesc) : FormKept s (boundary s u p q).1 :=
  (formKept_stepOutput ..).after
    ((freeEnded_store s p).trans
      ((boundEntries_store _ u p _ _ _ _ _ _ (fun b => partEnts b.1 p) (fun b => bySlot b.1 p)).trans (boundAdmit_store ..)))

theorem formKept_startStep (s : State) (u p : Nat) (q : QDesc) : FormKept s (startStep s u p q) := by
  unfold startStep
  exact ((formKept_boundary ..).after (setCore_store ..)).before (setPart_store ..)

theorem formKept_stepComplete (s : State) (p : Nat) : FormKept s (stepComplete s p) := by
  unfold stepComplete
  split
  · exact .refl
  · dsimp only
    split
    · exact .of_store ((storeRecords_store ..).trans (setPart_store ..))
    · refine (formKept_drainCommands ..).after ?_
      simp

/-! ### Scrubs, freezes and edges (R186, R241, R550 to R553) -/

theorem formKept_startScrub (s : State) (p : Nat) : FormKept s (startScrub s p) := by
  have hloading : ∀ t : State, StoreKept t (match (Machine.partAt t p).loading with
      | some r => finishHandle (setPart t p { Machine.partAt t p with loading := none }) r.handle .busy 0 []
      | none => t) := fun t => by split <;> simp
  unfold startScrub
  refine FormKept.before ?_ (foldl_store (fun t l => ?_) _ _)
  · refine (formKept_planGone ..).after (StoreKept.trans ?_ ((setPart_store ..).trans (unloadPlan_store ..)))
    refine StoreKept.trans ?_ (hloading _)
    simp
  · split <;> simp

theorem formKept_becomeDirty (s : State) (p : Nat) : FormKept s (becomeDirty s p) :=
  (formKept_startScrub (setPartState (setPart (closeTenants s p) p { Machine.partAt (closeTenants s p) p with relPending := false }) p 2) p).after
    ((closeTenants_store s p).trans ((setPart_store ..).trans (setPartState_store ..)))

theorem formKept_freeze (s : State) (p : Nat) : FormKept s (freeze s p) := by
  have hstopped : StoreKept s (freezeNoted (linksStopped (coresStopped s p) p) p (Machine.partAt s p)) :=
    ((touches_coresStopped s p).store (by decide)).trans
      (((touches_linksStopped ..).store (by decide)).trans ((touches_freezeNoted ..).store (by decide)))
  have hends := (formKept_planEnds _ p).after hstopped
  rw [freeze_steps]
  exact .ite (hends.trans (formKept_becomeDirty ..)) (.ite (hends.before (setPart_store ..)) hends)

theorem formKept_edgePart (b : Nat) (s : State) (p : Nat) : FormKept s (edgePart b s p) := by
  unfold edgePart
  refine .ite (formKept_freeze s p) (.ite (.of_store (edgeAlarm_store ..)) (.of_store ?_))
  dsimp only
  split <;> simp

theorem formKept_beatEdge (s : State) : FormKept s (beatEdge s) := by
  unfold beatEdge
  split
  · exact .refl
  · dsimp only
    have hstart : ∀ l : List Nat, FormKept s (advanceBeat (capMiss (l.foldl settlePart (elapse s (beatLen s - s.cyc))))) := fun l =>
      (formKept_elapse s (beatLen s - s.cyc)).before (by simp)
    have hparts : ∀ (l : List Nat) (t : State), FormKept t (l.foldl (edgePart s.beat) t) := fun l t => .foldl _ (formKept_edgePart _) _ _
    have hends : ∀ t : State, StoreKept t (announce (setThrottle (updateCeil (capPredict (holdover (movePhase (countHold t))))))) := fun t => by simp
    exact ((hstart _).trans (hparts _ _)).before (hends _)

theorem formKept_planComplete (s : State) (p : Nat) : FormKept s (planComplete s p) := by
  unfold planComplete
  refine ((formKept_planEnds ..).after (StoreKept.trans (foldl_store (fun t u => ?_) _ _) (setPlanState_store ..))).before (setThrottle_store ..)
  split <;> simp

/-! ### Patrols (R332) -/

theorem formKept_patrolLine (s : State) (d ch : Nat) : FormKept s (patrolLine s d ch) := by
  have hnext : ∀ m, StoreKept s { s with patrol := m } := fun m => .refl
  have hcorrected : ∀ m a, FormKept s { s with patrol := m, ecc := kdel s.ecc a } := fun m a => ⟨fun w => w, fun _ he => (kdel_sublist ..).subset he⟩
  unfold patrolLine
  dsimp only
  split
  · exact .of_store ((hnext _).trans (capture_store ..))
  · exact (hcorrected _ _).before ((bump_store ..).trans (bumpTab_store ..))
  · exact .of_store (hnext _)

theorem formKept_patrolFour (s : State) (d ch : Nat) : FormKept s (patrolFour s d ch) := by
  have hfour : ∀ t, FormKept t (patrolLine (patrolLine (patrolLine (patrolLine t d ch) d ch) d ch) d ch) := fun t =>
    ((formKept_patrolLine ..).trans (formKept_patrolLine ..)).trans ((formKept_patrolLine ..).trans (formKept_patrolLine ..))
  have hnoted : ∀ m, StoreKept s { s with patrolled := m } := fun m => .refl
  unfold patrolFour
  exact (hfour _).after (hnoted _)

/-! ### Frames as they are received (R345 to R373, R401) -/

theorem formKept_takePacket (s : State) (l : Nat) (str : Stream) (k : Packet) (ures ush age : Nat) :
    FormKept s (takePacket s l str k ures ush age) := by
  unfold takePacket
  dsimp only
  split
  · exact .of_store (by repeat' split
                        all_goals simp)
  · split
    · exact .of_store (release_store ..)
    · split
      · exact .of_store ((noRoute_store ..).trans (release_store ..))
      · split
        · exact .of_store (deliverPacket_store ..)
        · refine FormKept.before (.ite (.of_store (refuse_store ..)) ?_) (release_store ..)
          exact formKept_commandAt ..
        · exact .of_store (by split <;> simp)
        · exact .of_store (release_store ..)
      · exact .of_store (setLink_store ..)

theorem formKept_takeFrame (s : State) (l : Nat) (str : Stream) (k : Packet) (seq ures ush age : Nat) :
    FormKept s (takeFrame s l str k seq ures ush age) := by
  unfold takeFrame
  dsimp only
  split
  · have htaken : ∀ y, FormKept s (takePacket (setLink s l y) l str k ures ush age) := fun y => (formKept_takePacket ..).after (setLink_store ..)
    split
    · exact (htaken _).before (sendAck_store ..)
    · exact htaken _
  · exact (formKept_takePacket ..).after ((markLost_store ..).trans (setLink_store ..))

theorem formKept_dataFrameRx (s : State) (l : Nat) (str : Stream) (m : FrameHeads) (fr : List Byte) : FormKept s (dataFrameRx s l str m fr) := by
  unfold dataFrameRx
  dsimp only
  split
  · exact .of_store (by repeat' split
                        all_goals simp)
  · split
    · exact .refl
    · split
      · exact .of_store (by simp)
      · split
        · exact .of_store (by simp)
        · generalize ht : takeCredits (if isSv2 s l = true then s else takeAck s l _) l _ = t
          have hcredits : StoreKept s t := by
            rw [← ht]
            split <;> simp
          split
          · exact .of_store (hcredits.trans (by simp))
          · split
            · exact .of_store hcredits
            · split
              · refine .of_store (hcredits.trans ?_)
                split <;> simp
              · exact (formKept_takeFrame ..).after hcredits

end Sys2Proof
end

section
/-! SUPPORT. Loads, resets, scrubs, layouts, starts and power keep the form of the byte memories (O5). -/

namespace Sys2Proof

open Machine

/-! ### Plans as they are loaded and reset (R179, R635 to R637) -/

theorem formKept_zeroOnChip (s : State) (p : Nat) : FormKept s (zeroOnChip s p) :=
  .foldl _ (fun _ _ => ((formKept_mzero ..).trans ((formKept_mzero ..).trans (formKept_mzero ..))).trans
    ((formKept_mzero ..).trans (formKept_mzero ..))) _ _

theorem formKept_placeAll (s : State) (p : Nat) (img : List Byte) (dm hb : List Nat) : FormKept s (placeAll s p img dm hb) := by
  have hput : ∀ (t : State) (l : Option (List PRec)), FormKept t ((l.getD []).foldl (fun t r => poke t (r.dest dm) r.data) t) := fun t l =>
    .foldl _ (fun _ _ => formKept_poke ..) _ _
  unfold placeAll
  refine ((((formKept_zeroOnChip s p).trans (.foldl _ (fun _ _ => formKept_poke ..) _ _)).trans (hput ..)).trans (hput ..)).trans
    (.foldl _ (fun t r => ?_) _ _)
  exact .ite (formKept_poke ..) (formKept_mzero ..)

theorem formKept_saveRestore (s : State) (p : Nat) : FormKept s (saveRestore s p) :=
  .foldl _ (fun _ _ => .foldl _ (fun _ _ => formKept_mcopy ..) _ _) _ _

theorem formKept_loadRestore (s : State) (p : Nat) : FormKept s (loadRestore s p) :=
  .foldl _ (fun _ _ => .foldl _ (fun _ _ => formKept_mcopy ..) _ _) _ _

theorem formKept_loadDone (s : State) (p : Nat) (r : LoadReq) (raw img : List Byte) : FormKept s (loadDone s p r raw img) := by
  unfold loadDone
  extract_lets b ds dm q seg t u v w x y z
  have hmapped : StoreKept s u := (loadDefaults_store s p).trans (mapCores_store ..)
  have hplaced : FormKept u v := formKept_placeAll ..
  have hpart : StoreKept v w := setPart_store ..
  have hsaved : FormKept w x := formKept_saveRestore ..
  have hentries : StoreKept x z := (wb_store ..).trans ((wr_store ..).trans (wr_store ..))
  exact (((hplaced.after hmapped).before hpart).trans hsaved).before (hentries.trans (setPlanState_store ..))

theorem stageRead_store (s : State) (p : Nat) (r : LoadReq) : StoreKept s (if stageInside s p r then bareErrors s r.addr r.len else s) :=
  .ite (bareErrors_store ..) .refl

theorem formKept_loadEnds (s : State) (p : Nat) (r : LoadReq) (img : List Byte) (st : Status × List Byte) :
    FormKept s (if st.1 = .ok then finishHandle (loadDone s p r img st.2) r.handle .ok 0 [] else finishHandle s r.handle st.1 0 []) :=
  .ite ((formKept_loadDone ..).before (finishHandle_store ..)) (.of_store (finishHandle_store ..))

theorem formKept_planLoadComplete (s : State) (p : Nat) : FormKept s (planLoadComplete s p) := by
  cases h : (Machine.partAt s p).loading with
  | none =>
    rw [planLoadComplete, h]
    exact .refl
  | some r =>
    rw [planLoadComplete, h]
    exact (formKept_loadEnds ..).after (((setPart_store ..).trans (setPlanState_store ..)).trans (stageRead_store _ p r))

theorem formKept_planResetComplete (s : State) (p us : Nat) : FormKept s (planResetComplete s p us) := by
  unfold planResetComplete
  extract_lets t u v
  have hzero : FormKept s t := ((formKept_zeroOnChip ..).after (clearRun_store ..)).before (wr_store ..)
  refine .ite .refl ?_
  split
  · exact hzero.before ((logRec_store ..).trans (unloadPlan_store ..))
  · have hcorr : StoreKept t u := foldl_store (fun _ _ => bumpCorr_store ..) _ _
    refine ((hzero.before hcorr).trans (formKept_loadRestore u p)).before ?_
    exact (wr_store ..).trans ((wr_store ..).trans ((wr_store ..).trans ((wr_store ..).trans (setPlanState_store ..))))

/-! ### Library, firmware and release -/

theorem formKept_loadLibrary (s : State) (lib : List Byte) : FormKept s (loadLibrary s lib) := by
  unfold loadLibrary
  exact FormKept.before (.foldl _ (fun _ _ => formKept_poke ..) _ _) ((wb_store ..).trans ((wr_store ..).trans (wr_store ..)))

theorem formKept_storeImage (s : State) (ty : Nat) (img : FwImage) (lib : List Byte) : FormKept s (storeImage s ty img lib) := by
  unfold storeImage
  extract_lets t
  have hnoted : StoreKept s t := ⟨rfl, rfl⟩
  split
  · refine FormKept.before (t := { loadLibrary t lib with lmNext := some lib }) ?_ (deriveAk_store ..)
    exact ((formKept_loadLibrary t lib).after hnoted).before ⟨rfl, rfl⟩
  · exact .of_store hnoted

theorem formKept_doUpdate (s : State) (x : Session) (h : Nat) (arg : List Byte) (img : FwImage) : FormKept s (doUpdate s x h arg img) := by
  unfold doUpdate
  dsimp only
  refine .ite (.of_store ((secFree_store ..).trans (finishHandle_store ..))) ?_
  generalize ht : (if fwStatus s _ img _ = Status.denied then _ else s) = t
  have hdenied : StoreKept s t := by
    rw [← ht]
    split <;> simp
  exact (FormKept.ite ((formKept_storeImage ..).after hdenied) (.of_store hdenied)).before (finishHandle_store ..)

theorem formKept_doRelease (s : State) (p h : Nat) : FormKept s (doRelease s p h) := by
  unfold doRelease
  extract_lets t
  exact .ite (.of_store ((setPart_store ..).trans ((setPart_store ..).trans (raise_store ..)))) ((formKept_becomeDirty ..).after (setPart_store ..))

/-! ### Scrubs (R550 to R556) and layouts -/

theorem formKept_scrubClear (s : State) (p : Nat) : FormKept s (scrubClear s p) := by
  unfold scrubClear
  extract_lets q t u v w x y z
  have hchip : FormKept s u := (formKept_zeroOnChip ..).after (scrubDefaults_store ..)
  have hcores : StoreKept u v := ⟨rfl, rfl⟩
  have hdie : FormKept v w := by
    refine .foldl _ (fun r d => ?_) _ _
    exact FormKept.before (t := mzero r (d * dieHbm) dieHbm) (formKept_mzero ..) ⟨rfl, rfl⟩
  have hrecords : StoreKept w x := ⟨rfl, rfl⟩
  have hpart : StoreKept x z := (setPart_store ..).trans ((setPlanState_store ..).trans ((wr_store ..).trans (toDefault_store ..)))
  refine (((hchip.before hcores).trans hdie).before (hrecords.trans hpart)).before (foldl_store (fun r l => ?_) _ _)
  split <;> simp

theorem formKept_scrubWhole (s : State) (p : Nat) : FormKept s (scrubWhole s p) := by
  unfold scrubWhole
  extract_lets t u v w
  have hstarted : FormKept s t := formKept_startScrub ..
  have hleft : StoreKept t u := foldl_store (fun _ _ => .ite (leaveFor_store ..) .refl) _ _
  have hclear : FormKept u v := (formKept_scrubClear ..).before (scrubHandles_store ..)
  clear_value v
  have hforgot : StoreKept v w := ⟨rfl, rfl⟩
  clear_value w
  exact ((hstarted.before hleft).trans hclear).before (hforgot.trans ((wr_store ..).trans ((setPartState_store ..).trans (wr_store ..))))

theorem formKept_enterRma (s : State) (role ses : Nat) : FormKept s (enterRma s role ses) := by
  unfold enterRma
  extract_lets t u v w
  have hclosed : StoreKept s u := (newEpoch_store s).trans (foldl_store (fun _ _ => closeSession_store ..) _ _)
  have hscrubbed : FormKept u v := .foldl _ (fun _ _ => formKept_scrubWhole ..) _ _
  refine (hscrubbed.after hclosed).before (StoreKept.trans (t := w) (foldl_store (fun _ _ => toDefault_store ..) _ _) ?_)
  exact (deriveAk_store ..).trans (setLifecycle_store ..)

theorem formKept_setLayout (s : State) (v : Nat) : FormKept s (setLayout s v) := by
  unfold setLayout
  extract_lets gone t u
  have hgone : FormKept s t :=
    (FormKept.foldl _ (fun _ _ => (formKept_planGone ..).after (setPlanState_store ..)) _ _).before (wr_store ..)
  have hmoved : StoreKept t u := foldl_store (fun r p => by simp) _ _
  refine (hgone.before hmoved).before (foldl_store (fun r p => ?_) _ _)
  dsimp only
  split <;> simp

theorem formKept_applyChange (s : State) (x : Session) (idx sub : Nat) (val : List Byte) : FormKept s (applyChange s x idx sub val) := by
  unfold applyChange
  split
  · exact formKept_enterRma ..
  · exact formKept_setLayout ..
  all_goals exact .of_store (by simp)

/-! ### Resets -/

theorem formKept_warmPart (s : State) (p : Nat) : FormKept s (warmPart s p) := by
  unfold warmPart
  extract_lets t u
  have hended : FormKept s t := (formKept_zeroOnChip s p).before ((unloadPlan_store ..).trans (endServing_store ..))
  have hfresh : StoreKept t u := ⟨rfl, rfl⟩
  split
  all_goals exact (hended.before hfresh).before (by simp)

theorem formKept_warmReset (s : State) (cause : Nat) : FormKept s (warmReset s cause) := by
  unfold warmReset
  extract_lets t u v w x y z
  have hclosed : StoreKept s u := StoreKept.trans (t := t) (foldl_store (fun _ _ => closeSession_store ..) _ _) (dropSecurity_store ..)
  have hdropped : StoreKept u v :=
    StoreKept.trans (t := { u with handles := [], freqHandle := [], freqLater := [], bankUse := [] }) ⟨rfl, rfl⟩
      ((dropTests_store ..).trans (resetContexts_store ..))
  have hparts : FormKept v w := .foldl _ formKept_warmPart _ _
  have hlinks : StoreKept w x := foldl_store (fun r l => by
    dsimp only
    split <;> simp) _ _
  clear_value w x
  have hempty : StoreKept x y := ⟨rfl, rfl⟩
  have hmc : StoreKept y z := by
    simp only [z]
    split <;> simp
  refine (((hparts.after (hclosed.trans hdropped)).before hlinks).before (hempty.trans hmc)).before ?_
  split
  · exact StoreKept.trans (t := wr (setStage z 0) 0x7008 2 cause) (by simp) ⟨rfl, rfl⟩
  · exact .refl

/-- Where the rails go off, memories and errors are gone (R294). -/
theorem railsOff_empty (s : State) : (railsOff s).mem = [] ∧ (railsOff s).ecc = [] := ⟨rfl, rfl⟩

theorem formKept_railsOff (s : State) : FormKept s (railsOff s) := .of_empty (railsOff_empty s).1 (railsOff_empty s).2

/-- A cold start begins with memories and errors gone (R294). -/
theorem formKept_coldStart (s : State) : FormKept s (coldStart s) := by
  unfold coldStart
  extract_lets t busy u v w x y z
  have hempty : v.mem = [] ∧ v.ecc = [] := ⟨rfl, rfl⟩
  have hw : StoreKept v w := (showTripIn_store v).trans (foldl_store (fun _ _ => .ite (ungraft_store ..) .refl) _ _)
  have hz : StoreKept w z := (foldl_store (fun _ _ => wr_store ..) busy w).trans
    ((wr_store ..).trans (foldl_store (fun _ _ => setPartState_store ..) _ _))
  have hend : StoreKept z (newNonce (z.stateStore.foldl (fun t r => wr t (0x6040 + r.1) 8 r.2.2) z)) :=
    (foldl_store (fun _ _ => wr_store ..) _ _).trans (newNonce_store _)
  clear_value v w z
  have hkept := (hw.trans hz).trans hend
  exact .of_empty (hkept.1.trans hempty.1) (hkept.2.trans hempty.2)

theorem formKept_powerFail (s : State) : FormKept s (powerFail s) := by
  unfold powerFail
  extract_lets t u
  have hempty : t.mem = [] ∧ t.ecc = [] := railsOff_empty s
  have hctxs : StoreKept t u := foldl_store (fun _ _ => .ite (setCtxState_store ..) .refl) _ _
  clear_value u
  exact .of_empty (hctxs.1.trans hempty.1) (hctxs.2.trans hempty.2)

theorem formKept_trip (s : State) (cause : Nat) : FormKept s (trip s cause) := by
  unfold trip
  extract_lets t
  have hlogged : StoreKept s t := ⟨(logRec_store ..).1, (logRec_store ..).2⟩
  exact .ite .refl (.ite .refl (.ite (.of_store hlogged) (.of_empty rfl rfl)))

theorem formKept_sensorSample (s : State) (d : Nat) (raw hbm : List Int) : FormKept s (sensorSample s d raw hbm) := by
  unfold sensorSample
  extract_lets t u v w x y
  have hquiet : StoreKept s w := by
    have h₁ : StoreKept t u := noteInvalid_store ..
    have h₂ : StoreKept u v := .ite (alert_store ..) .refl
    have h₃ : StoreKept v w := .ite (alert_store ..) .refl
    exact ((StoreKept.trans (t := t) ⟨rfl, rfl⟩ h₁).trans h₂).trans h₃
  have hx : FormKept w x := .ite (formKept_trip ..) .refl
  have hy : FormKept x y := .ite (formKept_trip ..) .refl
  exact ((hx.after hquiet).trans hy).trans (.ite (formKept_trip ..) .refl)

theorem formKept_scrubComplete (s : State) (p us : Nat) (bad : Option (Nat × Nat)) : FormKept s (scrubComplete s p us bad) := by
  unfold scrubComplete
  split
  · exact .refl
  · extract_lets e v w x y z
    have herased : StoreKept s e.1 := eraseNamed_store ..
    split
    · extract_lets t u
      have hlast : StoreKept e.1 t := (scrubLast_store ..).trans ((wr_store ..).trans (setPartState_store ..))
      have hu : StoreKept t u := ⟨rfl, rfl⟩
      exact .of_store (herased.trans (hlast.trans (hu.trans ((secLog_store ..).trans (scrubHandles_store ..)))))
    · have hclear : FormKept e.1 v := formKept_scrubClear ..
      have hlast : StoreKept v w := (scrubLast_store ..).trans (wr_store ..)
      clear_value w
      have hx : StoreKept w x := ⟨rfl, rfl⟩
      have hz : StoreKept x z := (wr_store ..).trans (setPartState_store ..)
      exact (hclear.after herased).before (hlast.trans (hx.trans (hz.trans ((secFree_store ..).trans (scrubHandles_store ..)))))

theorem formKept_haltWith (s : State) (codes : List Nat) : FormKept s (haltWith s codes) := by
  unfold haltWith
  extract_lets t u
  have hlogged : StoreKept s t := foldl_store (fun _ _ => logRec_store ..) _ _
  have hu : FormKept t u := FormKept.before (.ite (formKept_railsOff ..) .refl) (setStage_store ..)
  exact (hu.after hlogged).before ⟨rfl, rfl⟩

theorem formKept_scrubStage (s : State) (bad : Option (Nat × Nat)) : FormKept s (scrubStage s bad) := by
  unfold scrubStage
  extract_lets cold
  refine .foldl _ (fun r p => ?_) _ _
  extract_lets us t
  have ht : StoreKept r t := ⟨rfl, rfl⟩
  split
  · exact (formKept_scrubComplete ..).after (ht.trans (StoreKept.trans (.ite .refl (storeRecord_store ..)) (setPartState_store ..)))
  · have hscrubbed : FormKept t (if recorded t p then scrubComplete (setPartState t p 3) p us none else scrubClear t p) :=
      .ite ((formKept_scrubComplete ..).after (setPartState_store ..)) (formKept_scrubClear ..)
    exact (hscrubbed.after ht).trans (.ite (.of_store ((setPartState_store ..).trans (wr_store ..))) .refl)

theorem formKept_startUpStage (s : State) (ok : Bool) (slots : List Nat) : FormKept s (startUpStage s ok slots) := by
  unfold startUpStage
  split
  · exact .refl
  · split
    · have hdead : StoreKept s { s with mcDown := true, mcDead := true } := ⟨rfl, rfl⟩
      exact .ite .refl (.ite ((formKept_haltWith ..).after hdead)
        (.ite (.of_store (setStage_store ..)) (.of_store ((runImage_store ..).trans (setStage_store ..)))))
    · refine .ite .refl (.ite (formKept_haltWith ..) (.of_store ?_))
      exact StoreKept.trans (setStage_store s 2) ⟨rfl, rfl⟩
    · have hderived : StoreKept s (if s.warmBoot then s else bootDerive (runImage s 0)) :=
        .ite .refl ((runImage_store s 0).trans (bootDerive_store _))
      exact .ite .refl (.ite (formKept_haltWith ..) (.of_store (hderived.trans ((deriveAk_store ..).trans (setStage_store ..)))))
    · refine .ite (formKept_haltWith ..) ?_
      extract_lets t
      have ht : FormKept s t := by
        refine .ite .refl ?_
        split
        · exact ((formKept_loadLibrary ..).after (runImage_store ..)).before (deriveAk_store ..)
        · exact .refl
      exact ht.before ((foldl_store (fun _ _ => retireSlot_store ..) _ _).trans (setStage_store ..))
    · exact (formKept_scrubStage ..).before (enterReady_store ..)
    · exact .refl

end Sys2Proof
end

section
/-! SUPPORT. Messages, records of the host, grafts and tests keep the form of the byte memories, and so does an outcome (O5). -/

namespace Sys2Proof

open Machine

/-! ### The forms of a message's answer (R600 to R610) -/

theorem formKept_inSes {k : State → Session → State} (h : ∀ t x, FormKept t (k t x)) (s : State) (ses op idx sub : Nat) :
    FormKept s (inSes s ses op idx sub k) := by
  have hasked : StoreKept s (touch (asked s ses) ses) := (asked_store ..).trans (touch_store ..)
  unfold inSes
  refine .ite (.of_store (dropHead_store ..)) ?_
  split
  · exact .of_store (answer_store ..)
  · exact .ite (.of_store (answer_store ..)) (.ite (.of_store (hasked.trans (answerIn_store ..)))
      (.ite (.of_store (hasked.trans (answerIn_store ..))) ((h _ _).after hasked)))

theorem formKept_setting {eff : State → Session → State} (h : ∀ t x, FormKept t (eff t x)) (s : State) (ses idx sub : Nat)
    (st : State → Session → Status) : FormKept s (setting s ses idx sub st eff) :=
  formKept_inSes (fun _ _ => (FormKept.ite (h _ _) .refl).before (answerIn_store ..)) ..

theorem formKept_settingElse {eff : State → Session → State} {els : State → Session → Status → State} (h : ∀ t x, FormKept t (eff t x))
    (g : ∀ t x st, FormKept t (els t x st)) (s : State) (ses idx sub : Nat) (st : State → Session → Status) :
    FormKept s (settingElse s ses idx sub st eff els) :=
  formKept_inSes (fun _ _ => (FormKept.ite (h _ _) (g _ _ _)).before (answerIn_store ..)) ..

theorem formKept_invoking {eff : State → Session → Nat → State} (h : ∀ t x n, FormKept t (eff t x n)) (s : State) (ses idx sub ty : Nat)
    (queued : Bool) (st : State → Session → Status) : FormKept s (invoking s ses idx sub ty queued st eff) :=
  formKept_inSes (fun _ _ => .ite (((h _ _ _).after (issue_store ..)).before (answerIn_store ..)) (.of_store (answerIn_store ..))) ..

theorem formKept_bareMessage {f : State → Session → State} (h : ∀ t x, FormKept t (f t x)) (s : State) (ses op : Nat) (val : List Byte) (len : Nat) :
    FormKept s (bareMessage s ses op val len f) :=
  formKept_inSes (fun _ _ => .ite (.of_store (answerIn_store ..)) (h _ _)) ..

theorem formKept_inSession {f : State → Session → State} (h : ∀ t x, FormKept t (f t x)) (s : State) (b ses : Nat) :
    FormKept s (inSession s b ses f) := by
  unfold inSession
  split
  · exact .of_store (spdmErr_store ..)
  · exact .ite ((h _ _).after (touch_store ..)) .refl

theorem formKept_ownRequest {f : State → Session → State} (h : ∀ t x, FormKept t (f t x)) (s : State) (ses : Nat) :
    FormKept s (ownRequest s ses f) := by
  unfold ownRequest
  split
  · exact .refl
  · exact formKept_inSession h ..

theorem formKept_plainWrite (s : State) (x : Session) (idx sub : Nat) (val : List Byte) : FormKept s (plainWrite s x idx sub val) := by
  unfold plainWrite
  dsimp only
  split
  · split
    · exact .of_store (setSes_store ..)
    · exact .of_store (setSes_store ..)
    · exact (formKept_resumeUnit ..).after ((setSes_store ..).trans (flushRecords_store ..))
    · exact .refl
  · refine .ite (.of_store (setSes_store ..)) ?_
    split
    · exact .refl
    · refine .ite (.of_store (wr_store ..)) (.ite (.of_store ((wr_store ..).trans (wr_store ..))) (.of_store ?_))
      split <;> simp

/-! ### The host's records (R588 to R596) -/

theorem formKept_takeRecord {act : State → Session → List Byte → State} (h : ∀ t x l, FormKept t (act t x l)) (s : State) (slot kind : Nat)
    (hdr : List Byte) (hr : HostRec) (form : List Byte → Bool) (held out busy : State → Session → List Byte → Bool) :
    FormKept s (takeRecord s slot kind hdr hr form held out busy act) := by
  have htaken : ∀ y, StoreKept s { setSes s y with rrSlot := (slot + 1) % 16 } := fun y => setSes_store s y
  unfold takeRecord
  split
  · exact .refl
  · split
    · exact .refl
    · dsimp only
      refine .ite (.of_store (flushSession_store ..)) (.ite .refl ?_)
      refine .ite (.of_store ((htaken _).trans ((secFree_store ..).trans (putWaiting_store ..)))) ?_
      refine .ite (.of_store ((htaken _).trans (secFree_store ..))) ?_
      split
      · exact .of_store ((htaken _).trans ((closeSession_store ..).trans (secFree_store ..)))
      · have hseq : ∀ y z, StoreKept s (setSes { setSes s y with rrSlot := (slot + 1) % 16 } z) := fun y z => (htaken y).trans (setSes_store ..)
        refine .ite (.of_store ((htaken _).trans (secFree_store ..))) (.ite (.of_store ((hseq ..).trans (putWaiting_store ..))) ?_)
        exact .ite (.of_store ((hseq ..).trans (putWaiting_store ..)))
          (.ite (.of_store ((hseq ..).trans (putWaiting_store ..))) ((h ..).after (hseq ..)))

theorem formKept_m2hTail (s : State) (x : Session) (tail : Nat) (ents : List (List Byte)) : FormKept s (m2hTail s x tail ents) := by
  unfold m2hTail
  dsimp only
  refine .ite (.of_store (setSes_store ..)) (.ite (.of_store ((setSes_store ..).trans (secFree_store ..))) (.ite (.of_store (setSes_store ..)) ?_))
  exact (formKept_resumeUnit ..).after
    ((setSes_store ..).trans ((foldl_store (fun t _ => secFree_store t 4 (Role.code x.role) 0xFF x.id) _ _).trans (flushSession_store ..)))

theorem formKept_serveCommand (s : State) (ses : Option Nat) (c : List Byte) : FormKept s (serveCommand s ses c) := formKept_commandAt ..

/-! ### Grafts and tests of HBM (R309, R463 to R468) -/

theorem formKept_landChunks (s : State) (g : Graft) (n : Nat) : FormKept s (landChunks s g n) := .foldl _ (fun _ _ => formKept_poke ..) _ _

theorem formKept_landBad (s : State) (a : Nat) : FormKept s (landBad s a) :=
  .foldl _ (fun t _ => (formKept_poke ..).after (draw_store t)) _ _

theorem formKept_graftComplete (s : State) (bad : Option Nat) (ue : Bool) : FormKept s (graftComplete s bad ue) := by
  unfold graftComplete
  split
  · exact .refl
  next g _ =>
    extract_lets t u v n w x
    have ht : StoreKept s u := ⟨(useBg_store ..).1, (useBg_store ..).2⟩
    have hv : StoreKept u v := .ite (bump_store ..) .refl
    have hfail : ∀ r e st z, FormKept z (failGraft z g r st e) := fun r e st z => .of_store (failGraft_store ..)
    refine FormKept.after (.ite (hfail ..) (.ite (hfail ..) ?_)) (ht.trans hv)
    split
    next i =>
      extract_lets w' x'
      have hw : FormKept v w' := formKept_landChunks ..
      have hx : StoreKept w' x' := (progress_store ..).trans (wr_store ..)
      exact (hw.before hx).trans (.ite (hfail ..) (FormKept.trans (.ite (formKept_landBad ..) .refl) (hfail ..)))
    · have hw : FormKept v w := formKept_landChunks ..
      have hx : StoreKept w x := (progress_store ..).trans (wr_store ..)
      exact .ite (hfail ..) ((hw.before hx).before ((setCtxState_store ..).trans ((wr_store ..).trans (ctxFinish_store ..))))

theorem formKept_hbmSelftestEnd (s : State) (fail : List Nat) : FormKept s (hbmSelftestEnd s fail) := by
  unfold hbmSelftestEnd
  split
  · exact .refl
  · extract_lets t
    have hdie : ∀ (r : State) (d : Nat), FormKept r (mzero r (d * dieHbm) dieHbm) := fun r d => formKept_mzero ..
    have ht : FormKept { s with hbmTest := none } t := .foldl _ (fun r d => .ite ((hdie ..).before (wb_store ..)) .refl) _ _
    exact (ht.after ⟨rfl, rfl⟩).before (finishHandle_store ..)

/-! ### What an outcome keeps -/

/-- Where a command answers a next state, the memories keep their form in it. -/
structure Keeps (s : State) (o : Host.Outcome State Fault Refusal) : Prop where
  next : ∀ t, o = .next t → FormKept s t

theorem keeps_fault {s : State} {f : Fault} : Keeps s (.fault f) := ⟨fun _ h => by cases h⟩

theorem keeps_next {s t : State} (h : FormKept s t) : Keeps s (.next t) := ⟨fun r hr => by
  cases hr
  exact h⟩

theorem keeps_doneAny {s t : State} (h : FormKept s t) : Keeps s (doneAny s t) := keeps_next ⟨h.1, h.2⟩

theorem keeps_done {s t : State} (h : FormKept s t) : Keeps s (done s t) := by
  unfold done
  split
  · exact keeps_doneAny h
  · exact keeps_next .refl

theorem Keeps.guard {s : State} {c : Prop} [Decidable c] {o : Host.Outcome State Fault Refusal} (h : Keeps s o) (f : Fault) :
    Keeps s (if c then o else .fault f) := by
  split
  · exact h
  · exact keeps_fault

theorem keeps_onCore {s t : State} {u : Nat} (h : FormKept s t) : Keeps s (onCore s u t) := (keeps_done h).guard _

theorem keeps_onLink {s t : State} {l : Nat} (h : FormKept s t) : Keeps s (onLink s l t) := (keeps_done h).guard _

theorem keeps_onDie {s t : State} {d : Nat} (h : FormKept s t) : Keeps s (onDie s d t) := (keeps_done h).guard _

theorem keeps_onPart {s t : State} {p : Nat} (h : FormKept s t) : Keeps s (onPart s p t) := (keeps_done h).guard _

theorem keeps_onServe {s t : State} (h : FormKept s t) : Keeps s (onServe s t) := (keeps_done h).guard _

theorem Keeps.stateOf {s : State} {o : Host.Outcome State Fault Refusal} (h : Keeps s o) : FormKept s (stateOf s o) := by
  cases o with
  | next t => exact h.next t rfl
  | fault => exact .refl
  | refused => exact .refl

end Sys2Proof
end

section
/-! SUPPORT. Every command keeps the form of the byte memories, one lemma per command (O5). -/

namespace Sys2Proof

open Machine

theorem keeps_coreTick {s t : State} {u : Nat} (c : Nat) (h : FormKept (coreTick s u c) t) : Keeps s (onCore s u t) :=
  keeps_onCore ((formKept_coreTick ..).trans h)

theorem formKept_vxStart (s : State) (u op : Nat) : FormKept s (vxStart s u op) := .of_store (vxStart_store ..)

theorem formKept_moveStart (s : State) (u op : Nat) : FormKept s (moveStart s u op) := .of_store (moveStart_store ..)

theorem formKept_trySend {taken : State → State} (h : ∀ t, StoreKept t (taken t)) (s : State) (l key : Nat) (str : Stream) (k : Packet) :
    FormKept s (trySend s l key str k taken) := by
  unfold trySend
  split
  · exact .of_store (endWait_store ..)
  · exact .of_store (((endWait_store ..).trans (startFrame_store ..)).trans (h _))

theorem formKept_frameStart (s : State) (l : Nat) (c : TClass) : FormKept s (frameStart s l c) := by
  unfold frameStart
  dsimp only
  refine .ite .refl ?_
  split
  · exact .refl
  · exact .ite (.ite (formKept_trySend (fun _ => setLink_store ..) ..) .refl) (.ite .refl (formKept_trySend (fun _ => setLink_store ..) ..))

theorem formKept_frameForward (s : State) (l : Nat) : FormKept s (frameForward s l) := by
  unfold frameForward
  dsimp only
  refine .ite .refl ?_
  split
  · exact .refl
  · exact .ite .refl (formKept_trySend (fun _ => (setLink_store ..).trans ((release_store ..).trans (bump_store ..))) ..)

/-! ### Requests of MCTP and SPDM (R597 to R599) -/

theorem formKept_control {eff : State → State} (h : ∀ t, FormKept t (eff t)) (s : State) (b : Nat) (val : State → List Byte) :
    FormKept s (Machine.control s b val eff) := by
  have hsent : ∀ (t : State) (p : MctpPeer) (m o : List Byte), StoreKept t (wire (emit t (.mctp b o)) b p false m) := fun t p m o =>
    (emit_store ..).trans (wire_store ..)
  unfold Machine.control
  exact .ite .refl ((h s).before (hsent ..))

theorem formKept_negotiated {f : State → State} (h : ∀ t, FormKept t (f t)) (s : State) (b : Nat) : FormKept s (negotiated s b f) :=
  .ite .refl (.ite (.of_store (spdmErr_store ..)) (h s))

/-! ### Commands at a core -/

theorem keeps_descriptorFetch (s : State) (u c : Nat) : Keeps s (execDescriptorFetch u c s) :=
  keeps_coreTick c (.ite (.of_store (fetchOne_store ..)) .refl)

theorem keeps_descriptorDispatch (s : State) (u c : Nat) : Keeps s (execDescriptorDispatch u c s) :=
  keeps_coreTick c (.of_store (dispatchOne_store ..))

theorem keeps_call (s : State) (u c : Nat) : Keeps s (execCall u c s) := by
  unfold execCall
  refine keeps_coreTick c (.of_store ?_)
  split
  · exact .ite ((heldSlip_store ..).trans (openFrame_store ..)) .refl
  · exact .refl

theorem keeps_ret (s : State) (u c : Nat) : Keeps s (execRet u c s) := by
  unfold execRet
  refine keeps_coreTick c (.of_store ?_)
  split
  · exact ((heldSlip_store ..).trans (owe_store ..)).trans (closeFrame_store ..)
  · exact .refl

theorem keeps_callSignal (s : State) (u c : Nat) : Keeps s (execCallSignal u c s) :=
  keeps_coreTick c (.ite .refl (.of_store (callSignalNow_store ..)))

theorem keeps_seed (s : State) (u c : Nat) : Keeps s (execSeed u c s) := by
  unfold execSeed
  refine keeps_coreTick c (.of_store ?_)
  split
  · exact ((heldSlip_store ..).trans (owe_store ..)).trans (setCore_store ..)
  · exact .refl

theorem keeps_hint (s : State) (u c : Nat) : Keeps s (execHint u c s) := by
  unfold execHint
  refine keeps_coreTick c (.of_store ?_)
  split
  · exact ((heldSlip_store ..).trans (owe_store ..)).trans (addHint_store ..)
  · exact .refl

theorem keeps_mm (s : State) (u c : Nat) : Keeps s (execMm u c s) := by
  unfold execMm
  refine keeps_coreTick c (.of_store ?_)
  split
  · exact mmStartNow_store ..
  · exact .refl

theorem keeps_mmComplete (s : State) (u c : Nat) : Keeps s (execMmComplete u c s) :=
  keeps_coreTick c (.ite (.of_store (mmCompleteNow_store ..)) .refl)

theorem keeps_add (s : State) (u c : Nat) : Keeps s (execAdd u c s) := keeps_coreTick c (formKept_vxStart ..)

theorem keeps_mul (s : State) (u c : Nat) : Keeps s (execMul u c s) := keeps_coreTick c (formKept_vxStart ..)

theorem keeps_fma (s : State) (u c : Nat) : Keeps s (execFma u c s) := keeps_coreTick c (formKept_vxStart ..)

theorem keeps_min (s : State) (u c : Nat) : Keeps s (execMin u c s) := keeps_coreTick c (formKept_vxStart ..)

theorem keeps_max (s : State) (u c : Nat) : Keeps s (execMax u c s) := keeps_coreTick c (formKept_vxStart ..)

theorem keeps_cmp (s : State) (u c : Nat) : Keeps s (execCmp u c s) := keeps_coreTick c (formKept_vxStart ..)

theorem keeps_sel (s : State) (u c : Nat) : Keeps s (execSel u c s) := keeps_coreTick c (formKept_vxStart ..)

theorem keeps_cvt (s : State) (u c : Nat) : Keeps s (execCvt u c s) := keeps_coreTick c (formKept_vxStart ..)

theorem keeps_lut (s : State) (u c : Nat) : Keeps s (execLut u c s) := keeps_coreTick c (formKept_vxStart ..)

theorem keeps_rsum (s : State) (u c : Nat) : Keeps s (execRsum u c s) := keeps_coreTick c (formKept_vxStart ..)

theorem keeps_rdot (s : State) (u c : Nat) : Keeps s (execRdot u c s) := keeps_coreTick c (formKept_vxStart ..)

theorem keeps_rmax (s : State) (u c : Nat) : Keeps s (execRmax u c s) := keeps_coreTick c (formKept_vxStart ..)

theorem keeps_rmin (s : State) (u c : Nat) : Keeps s (execRmin u c s) := keeps_coreTick c (formKept_vxStart ..)

theorem keeps_xadd (s : State) (u c : Nat) : Keeps s (execXadd u c s) := keeps_coreTick c (formKept_vxStart ..)

theorem keeps_xsum (s : State) (u c : Nat) : Keeps s (execXsum u c s) := keeps_coreTick c (formKept_vxStart ..)

theorem keeps_qnt (s : State) (u c : Nat) : Keeps s (execQnt u c s) := keeps_coreTick c (formKept_vxStart ..)

theorem keeps_dqs (s : State) (u c : Nat) : Keeps s (execDqs u c s) := keeps_coreTick c (formKept_vxStart ..)

theorem keeps_vxComplete (s : State) (u c : Nat) : Keeps s (execVxComplete u c s) :=
  keeps_coreTick c (.ite (.of_store (vxCompleteNow_store ..)) .refl)

theorem keeps_mov (s : State) (u c : Nat) : Keeps s (execMov u c s) := keeps_coreTick c (formKept_moveStart ..)

theorem keeps_gather (s : State) (u c : Nat) : Keeps s (execGather u c s) := keeps_coreTick c (formKept_moveStart ..)

theorem keeps_scatter (s : State) (u c : Nat) : Keeps s (execScatter u c s) := keeps_coreTick c (formKept_moveStart ..)

theorem keeps_send (s : State) (u c : Nat) : Keeps s (execSend u c s) := keeps_coreTick c (formKept_moveStart ..)

theorem keeps_sendx (s : State) (u c : Nat) : Keeps s (execSendx u c s) := keeps_coreTick c (formKept_moveStart ..)

theorem keeps_moverUnitIssue (s : State) (u : Nat) (c : UnitTick) : Keeps s (execMoverUnitIssue u c s) := by
  unfold execMoverUnitIssue
  refine keeps_coreTick c.cyc (.ite (.of_store ?_) .refl)
  split
  · exact issueUnit_store ..
  · exact .refl

theorem keeps_moveComplete (s : State) (u c : Nat) : Keeps s (execMoveComplete u c s) :=
  keeps_coreTick c (.ite (.of_store (moveCompleteNow_store ..)) .refl)

theorem keeps_packetHandoff (s : State) (u c : Nat) : Keeps s (execPacketHandoff u c s) :=
  keeps_coreTick c (.ite (.of_store (handFirst_store ..)) .refl)

theorem keeps_sendComplete (s : State) (u c : Nat) : Keeps s (execSendComplete u c s) :=
  keeps_coreTick c (.ite (.of_store (moveCompleteNow_store ..)) .refl)

theorem keeps_sync (s : State) (u c : Nat) : Keeps s (execSync u c s) := by
  unfold execSync
  refine keeps_coreTick c (.of_store ?_)
  split
  · exact .ite (syncStart_store ..) ((syncStart_store ..).trans (sendPosts_store ..))
  · exact .refl

theorem keeps_syncPostApply (s : State) (u c : Nat) : Keeps s (execSyncPostApply u c s) :=
  keeps_coreTick c (.ite (.of_store (postApply_store ..)) .refl)

theorem keeps_arrivalApply (s : State) (u c : Nat) : Keeps s (execArrivalApply u c s) :=
  keeps_coreTick c (.ite (.of_store (arrivalApply_store ..)) .refl)

theorem keeps_barrier (s : State) (u c : Nat) : Keeps s (execBarrier u c s) := by
  unfold execBarrier
  refine keeps_coreTick c (.of_store ?_)
  split
  · exact .ite (syncStart_store ..) ((syncStart_store ..).trans ((setPart_store ..).trans (bump_store ..)))
  · exact .refl

theorem keeps_step (s : State) (u c : Nat) : Keeps s (execStep u c s) := by
  unfold execStep
  refine keeps_coreTick c ?_
  split
  · exact .ite .refl ((formKept_startStep ..).after (heldSlip_store ..))
  · exact .refl

/-! ### Commands at a partition -/

theorem keeps_barrierArrive (s : State) (p c : Nat) : Keeps s (execBarrierArrive p c s) :=
  keeps_onPart ((formKept_tick ..).trans (.ite (.of_store (barrierArrive_store ..)) .refl))

theorem keeps_barrierRelease (s : State) (p bid scope node c : Nat) : Keeps s (execBarrierRelease p bid scope node c s) :=
  keeps_onPart ((formKept_tick ..).trans (.ite (.of_store (barrierRelease_store ..)) .refl))

theorem keeps_canopyTimeout (s : State) (p bid scope node : Nat) : Keeps s (execCanopyTimeout p bid scope node s) :=
  keeps_onPart (.ite (.of_store (canopyTimeout_store ..)) .refl)

theorem keeps_stepComplete (s : State) (p c : Nat) : Keeps s (execStepComplete p c s) :=
  keeps_onPart ((formKept_tick ..).trans (.ite (formKept_stepComplete ..) .refl))

theorem keeps_planStart (s : State) (p : Nat) : Keeps s (execPlanStart p s) := keeps_onPart (.ite (.of_store (planStart_store ..)) .refl)

theorem keeps_planComplete (s : State) (p : Nat) : Keeps s (execPlanComplete p s) := keeps_onPart (.ite (formKept_planComplete ..) .refl)

theorem keeps_planLoadComplete (s : State) (p : Nat) (r : Unit) : Keeps s (execPlanLoadComplete p r s) :=
  keeps_onPart (formKept_planLoadComplete ..)

theorem keeps_planResetComplete (s : State) (p us : Nat) : Keeps s (execPlanResetComplete p us s) :=
  keeps_onPart (formKept_planResetComplete ..)

theorem keeps_scrubComplete (s : State) (p us : Nat) (bad : Option (Nat × Nat)) : Keeps s (execScrubComplete p us bad s) :=
  keeps_onPart (formKept_scrubComplete ..)

/-! ### Time, monitors and records -/

theorem keeps_beatEdge (s : State) : Keeps s (execBeatEdge s) := keeps_done (formKept_beatEdge s)

theorem keeps_beatKChange (s : State) : Keeps s (execBeatKChange s) := keeps_done (.ite (.of_store (beatKChange_store ..)) .refl)

theorem keeps_fstepApply (s : State) : Keeps s (execFstepApply s) := keeps_done (.of_store (fstepApply_store ..))

theorem keeps_beatsyncSend (s : State) (c : Nat) : Keeps s (execBeatsyncSend c s) :=
  keeps_done ((formKept_tick ..).trans (.ite (.of_store (rootSyncs_store ..)) .refl))

theorem keeps_faultRecord (s : State) : Keeps s (execFaultRecord s) := keeps_done (.of_store (faultRecord_store ..))

theorem keeps_hbmPatrol (s : State) (d ch c : Nat) : Keeps s (execHbmPatrol d ch c s) := by
  unfold execHbmPatrol
  dsimp only
  split
  · exact keeps_fault
  · exact keeps_onDie ((formKept_tick ..).trans (.ite (formKept_patrolFour ..) .refl))

theorem keeps_stretchedCycle (s : State) (d r c : Nat) : Keeps s (execStretchedCycle d r c s) := by
  unfold execStretchedCycle
  split
  · exact keeps_fault
  · exact keeps_onDie ((formKept_tick ..).before (stretchedCycle_store ..))

theorem keeps_fifoRange (s : State) (d x occ c : Nat) : Keeps s (execFifoRange d x occ c s) := by
  unfold execFifoRange
  split
  · exact keeps_fault
  · exact keeps_onDie ((formKept_tick ..).before (fifoRange_store ..))

theorem keeps_locking (s : State) : Keeps s (execLocking s) :=
  keeps_done (.ite (.of_store ((setTiming_store ..).trans (takeActive_store ..))) .refl)

theorem keeps_pllLock (s : State) (us : Nat) : Keeps s (execPllLock us s) := keeps_done (.ite (.of_store (setTiming_store ..)) .refl)

theorem keeps_timingLost (s : State) (us : Nat) : Keeps s (execTimingLost us s) :=
  keeps_done (.ite (.of_store ((freerun_store ..).trans (raise_store ..))) .refl)

theorem keeps_refclkLoss (s : State) (ns : Nat) : Keeps s (execRefclkLoss ns s) := by
  have hlost : StoreKept s { s with refLost := true } := ⟨rfl, rfl⟩
  exact keeps_done (.ite (.of_store (hlost.trans (.ite (raise_store ..) .refl))) .refl)

theorem keeps_timePps (s : State) (c frac ms : Nat) : Keeps s (execTimePps c frac ms s) := by
  have hwritten : ∀ (t : State) (b : List Byte) (v : Nat), StoreKept t { wr (wb t 0x2000 19 b) 0x2000 18 v with ppsSeen := true } := fun t b v =>
    (wb_store t 0x2000 19 b).trans (wr_store _ 0x2000 18 v)
  exact keeps_done ((formKept_tick ..).trans (.ite (.of_store (hwritten ..)) .refl))

theorem keeps_ppsTimeout (s : State) (ms : Nat) : Keeps s (execPpsTimeout ms s) := keeps_done (.ite (.of_store (wb_store ..)) .refl)

/-! ### Commands at a link -/

theorem keeps_beatsyncRx (s : State) (l : Nat) (m : BeatSync) : Keeps s (execBeatsyncRx l m s) :=
  keeps_onLink (.of_store (beatsyncRx_store ..))

theorem keeps_fstepRequestRx (s : State) (l n : Nat) : Keeps s (execFstepRequestRx l n s) := by
  have hreq : ∀ q, StoreKept s { s with ceilReq := q } := fun q => ⟨rfl, rfl⟩
  exact keeps_onLink (.ite (.of_store ((hreq _).trans (updateCeil_store ..))) .refl)

theorem keeps_fstepAnnounceRx (s : State) (l n atBeat : Nat) (seq : StepSeq) : Keeps s (execFstepAnnounceRx l n atBeat seq s) :=
  keeps_onLink (.of_store (fstepAnnounceRx_store ..))

theorem keeps_alarmRx (s : State) (l : Nat) (m : CanopyMsg) : Keeps s (execAlarmRx l m s) := keeps_onLink (.of_store (alarmRx_store ..))

theorem keeps_arriveRx (s : State) (l c : Nat) (m : Arrive) : Keeps s (execArriveRx l c m s) :=
  keeps_onLink ((formKept_tick s c).trans (.ite (.of_store (arriveRx_store ..)) .refl))

theorem keeps_releaseRx (s : State) (l : Nat) (bid : ReleaseMsg) (c : Nat) : Keeps s (execReleaseRx l bid c s) :=
  keeps_onLink ((formKept_tick s c).trans (.ite (.of_store (releaseRx_store ..)) .refl))

theorem keeps_frameStart (s : State) (l : Nat) (cls : TClass) (c : Nat) : Keeps s (execFrameStart l cls c s) :=
  keeps_onLink ((formKept_tick ..).trans (formKept_frameStart ..))

theorem keeps_replaySend (s : State) (l c : Nat) : Keeps s (execReplaySend l c s) :=
  keeps_onLink ((formKept_tick ..).before (replaySend_store ..))

theorem keeps_frameForward (s : State) (l c : Nat) : Keeps s (execFrameForward l c s) :=
  keeps_onLink ((formKept_tick ..).trans (formKept_frameForward ..))

theorem keeps_dataFrameRx (s : State) (l c : Nat) (str : Stream) (order : FrameHeads) (fr : List Byte) :
    Keeps s (execDataFrameRx l c str order fr s) :=
  keeps_onLink ((formKept_tick s c).trans ((formKept_dataFrameRx ..).after (heard_store ..)))

theorem keeps_keepalive (s : State) (l : Nat) (txLast : Option Nat) (t : Trailer) : Keeps s (execKeepalive l txLast t s) :=
  keeps_onLink (.of_store ((heard_store ..).trans (keepaliveRx_store ..)))

theorem keeps_nak (s : State) (l base miss : Nat) (t : Trailer) : Keeps s (execNak l base miss t s) :=
  keeps_onLink (.of_store ((heard_store ..).trans (nakRx_store ..)))

theorem keeps_ident (s : State) (l : Nat) (m : Ident) (t : Trailer) : Keeps s (execIdent l m t s) :=
  keeps_onLink (.of_store ((heard_store ..).trans (identFrame_store ..)))

theorem keeps_resume (s : State) (l rxBase txNext : Nat) (t : Trailer) : Keeps s (execResume l rxBase txNext t s) :=
  keeps_onLink (.of_store ((heard_store ..).trans (resumeRx_store ..)))

theorem keeps_ack (s : State) (l : Nat) (t : Trailer) : Keeps s (execAck l t s) :=
  keeps_onLink (.of_store ((heard_store ..).trans (ackRx_store ..)))

theorem keeps_sv2AckTimer (s : State) (l ns : Nat) : Keeps s (execSv2AckTimer l ns s) :=
  keeps_onLink (.ite (.of_store (sendAck_store ..)) .refl)

theorem keeps_keepaliveIdle (s : State) (l ns : Nat) : Keeps s (execKeepaliveIdle l ns s) :=
  keeps_onLink (.ite (.of_store (sendKeepalive_store ..)) .refl)

theorem keeps_ackRefresh (s : State) (l ns : Nat) : Keeps s (execAckRefresh l ns s) :=
  keeps_onLink (.ite (.of_store (sendKeepalive_store ..)) .refl)

theorem keeps_down (s : State) (l ns : Nat) : Keeps s (execDown l ns s) := keeps_onLink (.ite (.of_store (goDown_store ..)) .refl)

theorem keeps_alignmentLost (s : State) (l n : Nat) : Keeps s (execAlignmentLost l n s) :=
  keeps_onLink (.ite (.of_store (goDown_store ..)) .refl)

theorem keeps_laneSignalLoss (s : State) (l lane : Nat) : Keeps s (execLaneSignalLoss l lane s) :=
  keeps_onLink (.ite (.of_store (goDown_store ..)) .refl)

theorem keeps_nakRepeat (s : State) (l ns : Nat) : Keeps s (execNakRepeat l ns s) :=
  keeps_onLink (.ite (.of_store (sendNak_store ..)) .refl)

theorem keeps_creditTimeout (s : State) (l ns : Nat) : Keeps s (execCreditTimeout l ns s) :=
  keeps_onLink (.ite (.of_store (failLink_store ..)) .refl)

theorem keeps_holdExpired (s : State) (l ns : Nat) : Keeps s (execHoldExpired l ns s) :=
  keeps_onLink (.ite (.of_store (failLink_store ..)) .refl)

theorem keeps_trainAttempt (s : State) (l ms : Nat) : Keeps s (execTrainAttempt l ms s) :=
  keeps_onLink (.ite (.of_store (trainAttempt_store ..)) .refl)

theorem keeps_rttWindowEnd (s : State) (l : Nat) (meas : List Nat) : Keeps s (execRttWindowEnd l meas s) :=
  keeps_onLink (.ite (.of_store (rttWindowEnd_store ..)) .refl)

theorem keeps_replayTimer (s : State) (l seq ns : Nat) : Keeps s (execReplayTimer l seq ns s) :=
  keeps_onLink (.ite (.ite (.of_store (lostAgain_store ..)) (.ite (.of_store (failLink_store ..)) (.of_store (setLink_store ..)))) .refl)

theorem keeps_trainingDone (s : State) (l : Nat) : Keeps s (execTrainingDone l s) := by
  have htrained : ∀ x, StoreKept s (sendIdent (setLink s l x) l) := fun x => (setLink_store ..).trans (sendIdent_store ..)
  exact keeps_onLink (.ite (.of_store ((htrained _).trans (.ite (enterProbing_store ..) .refl))) .refl)

theorem keeps_holdRetrainDone (s : State) (l : Nat) : Keeps s (execHoldRetrainDone l s) := by
  have htrained : ∀ t, StoreKept t (if (linkAt t l).identRx then sendResume t l else t) := fun t => .ite (sendResume_store ..) .refl
  exact keeps_onLink (.ite (.of_store ((setLink_store ..).trans ((htrained _).trans ((sendIdent_store ..).trans (tryResume_store ..))))) .refl)

theorem keeps_linkSelftestEnd (s : State) (l : Nat) (res : LinkTest) : Keeps s (execLinkSelftestEnd l res s) :=
  keeps_onLink (.ite (.of_store ((setLink_store ..).trans ((setLinkState_store ..).trans ((wb_store ..).trans (finishAll_store ..))))) .refl)

theorem keeps_scrubLinkDrain (s : State) (l us : Nat) : Keeps s (execScrubLinkDrain l us s) :=
  keeps_onLink (.ite (.of_store (leaveFor_store ..)) .refl)

theorem keeps_codewordDecodeFailure (s : State) (l : LostWord) : Keeps s (execCodewordDecodeFailure l s) :=
  keeps_onLink (.of_store (codewordLost_store ..))

/-! ### Accepted SETs -/

theorem keeps_linkAdmin (s : State) (ses l : Nat) (val : List Byte) : Keeps s (execLinkAdmin ses l val s) :=
  keeps_done (formKept_setting (fun _ _ => .of_store (doAdmin_store ..)) ..)

theorem keeps_myCoord (s : State) (ses : Nat) (val : List Byte) : Keeps s (execMyCoord ses val s) :=
  keeps_done (formKept_setting (fun _ _ => .of_store (doMyCoord_store ..)) ..)

theorem keeps_bundles (s : State) (ses p : Nat) (val : List Byte) : Keeps s (execBundles ses p val s) :=
  keeps_done (formKept_setting (fun _ _ => .of_store ((wb_store ..).trans (dropPlan_store ..))) ..)

theorem keeps_routeTableWrite (s : State) (ses p dim : Nat) (val : List Byte) : Keeps s (execRouteTableWrite ses p dim val s) :=
  keeps_done (.ite (formKept_setting (fun _ _ => .of_store ((wb_store ..).trans (dropPlan_store ..))) ..) .refl)

theorem keeps_rankWindowWrite (s : State) (ses p : Nat) (len : Bool) (val : List Byte) : Keeps s (execRankWindowWrite ses p len val s) :=
  keeps_done (formKept_setting (fun _ _ => .of_store ((wr_store ..).trans (dropPlan_store ..))) ..)

theorem keeps_rankTableWrite (s : State) (ses q : Nat) (val : List Byte) : Keeps s (execRankTableWrite ses q val s) := by
  have hdropped : ∀ (t : State) (b : List Byte) (ps : List Nat), StoreKept t (ps.foldl dropPlan (wb t (0x3800 + q) 1 b)) := fun t b ps =>
    (wb_store ..).trans (foldl_store (fun _ _ => dropPlan_store ..) _ _)
  exact keeps_done (.ite (formKept_setting (fun _ _ => .of_store (hdropped ..)) ..) .refl)

theorem keeps_timingConfigWrite (s : State) (ses sub : Nat) (val : List Byte) : Keeps s (execTimingConfigWrite ses sub val s) :=
  keeps_done (.ite (formKept_setting (fun _ _ => .of_store (doTimingWrite_store ..)) ..) .refl)

theorem keeps_stretchFrac (s : State) (ses : Nat) (val : List Byte) : Keeps s (execStretchFrac ses val s) :=
  keeps_done (formKept_setting (fun _ _ => .of_store ((wr_store ..).trans (wr_store ..))) ..)

theorem keeps_beatKAt (s : State) (ses : Nat) (val : List Byte) : Keeps s (execBeatKAt ses val s) :=
  keeps_done (formKept_setting (fun _ _ => .of_store (wr_store ..)) ..)

theorem keeps_planStartBeat (s : State) (ses p : Nat) (val : List Byte) : Keeps s (execPlanStartBeat ses p val s) :=
  keeps_done (formKept_setting (fun _ _ => .of_store (wr_store ..)) ..)

theorem keeps_brkCtl (s : State) (ses : Nat) (val : List Byte) : Keeps s (execBrkCtl ses val s) := by
  have hbrk : ∀ t : State, StoreKept t { wr t 0x7810 1 (leNat val) with blobs := kdel (wr t 0x7810 1 (leNat val)).blobs (rkey 0x7810 6) } :=
    fun t => wr_store t 0x7810 1 (leNat val)
  exact keeps_done (formKept_setting (fun t _ => .of_store (hbrk t)) ..)

theorem keeps_planReset (s : State) (ses p : Nat) (val : List Byte) : Keeps s (execPlanReset ses p val s) :=
  keeps_done (formKept_setting (fun _ _ => .of_store (setPart_store ..)) ..)

theorem keeps_ringWrite (s : State) (ses : Nat) (m2h : Bool) (val : List Byte) : Keeps s (execRingWrite ses m2h val s) :=
  keeps_done (formKept_setting (fun _ _ => .of_store (setRing_store ..)) ..)

theorem keeps_serveMaint (s : State) (ses : Nat) (val : List Byte) : Keeps s (execServeMaint ses val s) :=
  keeps_done (formKept_setting (fun _ _ => .of_store (wr_store ..)) ..)

theorem keeps_flashMaint (s : State) (ses : Nat) (val : List Byte) : Keeps s (execFlashMaint ses val s) :=
  keeps_done (formKept_setting (fun _ _ => .of_store (wr_store ..)) ..)

theorem keeps_senseState (s : State) (ses : Nat) (val : List Byte) : Keeps s (execSenseState ses val s) :=
  keeps_done (formKept_setting (fun _ _ => .of_store (doSenseState_store ..)) ..)

theorem keeps_lifecycleNext (s : State) (ses : Nat) (val : List Byte) : Keeps s (execLifecycleNext ses val s) :=
  keeps_done (formKept_setting (fun _ _ => .of_store (StoreKept.trans (.ite (wr_store ..) .refl) (setLifecycle_store ..))) ..)

theorem keeps_debugReq (s : State) (ses : Nat) (val : List Byte) : Keeps s (execDebugReq ses val s) := by
  have hasked : ∀ (t : State) (n : Nat), StoreKept t { wb (debugChallenge t n).2 0x6020 5 (debugChallenge t n).1 with debugReq := some n } :=
    fun t n =>
    (debugChallenge_store t n).trans (wb_store _ 0x6020 5 (debugChallenge t n).1)
  exact keeps_done (formKept_setting (fun t _ => .of_store (hasked t (leNat val))) ..)

theorem keeps_debugClose (s : State) (ses : Nat) (val : List Byte) : Keeps s (execDebugClose ses val s) :=
  keeps_done (formKept_setting (fun _ _ => .of_store ((wr_store ..).trans (secFree_store ..))) ..)

theorem keeps_partMaint (s : State) (ses p : Nat) (val : List Byte) : Keeps s (execPartMaint ses p val s) :=
  keeps_done (formKept_setting (fun _ _ => .of_store ((wr_store ..).trans
    (.ite (setPartState_store ..) (.ite ((setPartState_store ..).trans (wr_store ..)) .refl)))) ..)

theorem keeps_partEraseCtx (s : State) (ses p : Nat) (val : List Byte) : Keeps s (execPartEraseCtx ses p val s) :=
  keeps_done (formKept_setting (fun _ _ => .of_store (wr_store ..)) ..)

theorem keeps_slotRetire (s : State) (ses : Nat) (val : List Byte) : Keeps s (execSlotRetire ses val s) :=
  keeps_done (formKept_setting (fun _ _ => .of_store (retire_store ..)) ..)

theorem keeps_retireClear (s : State) (ses : Nat) (val : List Byte) : Keeps s (execRetireClear ses val s) :=
  keeps_done (formKept_setting (fun _ _ => .of_store ((toDefault_store ..).trans ((wr_store ..).trans (recount_store ..)))) ..)

theorem keeps_mcReset (s : State) (ses : Nat) (val : List Byte) : Keeps s (execMcReset ses val s) :=
  keeps_done (formKept_setting (fun _ _ => .of_store (mcRestart_store ..)) ..)

theorem keeps_warmReset (s : State) (ses : Nat) (val : List Byte) : Keeps s (execWarmReset ses val s) :=
  keeps_done (formKept_inSes (fun _ _ => FormKept.after (.ite (formKept_warmReset ..) .refl) (answerIn_store ..)) ..)

theorem keeps_ownerClaim (s : State) (ses : Nat) (val secret : List Byte) : Keeps s (execOwnerClaim ses val secret s) :=
  keeps_done (formKept_settingElse (fun _ _ => .of_store ((wb_store ..).trans ((wb_store ..).trans (setLifecycle_store ..))))
  (fun _ _ _ => .ite (.of_store (secFree_store ..)) .refl) ..)

theorem keeps_rw2pWrite (s : State) (ses idx sub : Nat) (val nonce sig : List Byte) : Keeps s (execRw2pWrite ses idx sub val nonce sig s) := by
  have hnone : ∀ t : State, StoreKept t { t with change := none } := fun t => ⟨rfl, rfl⟩
  have hfirst : ∀ (t : State) (k : Option Change), StoreKept t { t with change := k } := fun t k => ⟨rfl, rfl⟩
  refine keeps_done (formKept_settingElse (fun t x => ?_) (fun t x st => .of_store ?_) ..)
  · exact ((formKept_applyChange ..).after (hnone t)).before ((secFree_store ..).trans (newNonce_store ..))
  · split
    · exact .ite ((hfirst ..).trans (secFree_store ..)) .refl
    · exact .ite (discardChange_store ..) .refl

theorem keeps_debugResponse (s : State) (ses : Nat) (val ownerKey vendorKey : List Byte) :
    Keeps s (execDebugResponse ses val ownerKey vendorKey s) := by
  have hnone : ∀ t : State, StoreKept t { t with debugReq := none } := fun t => ⟨rfl, rfl⟩
  exact keeps_done (formKept_settingElse (fun _ _ => .of_store ((openDebug_store ..).trans (secFree_store ..)))
    (fun t _ _ => .ite (.of_store ((hnone t).trans (secFree_store ..))) .refl) ..)

/-! ### Accepted INVOKEs -/

theorem keeps_linkRetrain (s : State) (ses l : Nat) : Keeps s (execLinkRetrain ses l s) :=
  keeps_done (formKept_invoking (fun _ _ _ => .of_store ((doAdmin_store ..).trans (setLink_store ..))) ..)

theorem keeps_linkSelftest (s : State) (ses l : Nat) : Keeps s (execLinkSelftest ses l s) :=
  keeps_done (formKept_invoking (fun _ _ _ => .of_store ((setLink_store ..).trans (setLinkState_store ..))) ..)

theorem keeps_planLoad (s : State) (ses p : Nat) (arg : List Byte) : Keeps s (execPlanLoad ses p arg s) :=
  keeps_done (formKept_invoking (fun _ _ _ => .of_store (planLoad_store ..)) ..)

theorem keeps_serveSelftest (s : State) (ses : Nat) : Keeps s (execServeSelftest ses s) := by
  have htest : ∀ (t : State) (h : Nat), StoreKept t { t with serveTest := some h } := fun t h => ⟨rfl, rfl⟩
  exact keeps_done (formKept_invoking (fun _ _ _ => .of_store (htest ..)) ..)

theorem keeps_ctxInstall (s : State) (ses c : Nat) (arg : List Byte) : Keeps s (execCtxInstall ses c arg s) :=
  keeps_done (formKept_invoking (fun _ _ _ => .of_store (doInstall_store ..)) ..)

theorem keeps_ctxGraft (s : State) (ses c : Nat) : Keeps s (execCtxGraft ses c s) := by
  have hqueued : ∀ (t : State) (q : List Graft) (i : Nat), StoreKept t (wr { t with grafts := q } i 2 1) := fun t q i =>
    wr_store { t with grafts := q } i 2 1
  exact keeps_done (formKept_invoking (fun _ _ _ => .of_store (hqueued ..)) ..)

theorem keeps_ctxRelease (s : State) (ses c : Nat) : Keeps s (execCtxRelease ses c s) :=
  keeps_done (formKept_invoking (fun _ _ _ => .of_store ((ungraft_store ..).trans (ctxFinish_store ..))) ..)

theorem keeps_ctxErase (s : State) (ses c : Nat) : Keeps s (execCtxErase ses c s) :=
  keeps_done (formKept_invoking (fun _ _ _ => .of_store ((eraseCtx_store ..).trans (ctxFinish_store ..))) ..)

theorem keeps_flashSelftest (s : State) (ses : Nat) : Keeps s (execFlashSelftest ses s) := by
  have htest : ∀ (t : State) (h : Nat × Nat), StoreKept t { t with flashTest := some h } := fun t h => ⟨rfl, rfl⟩
  exact keeps_done (formKept_invoking (fun _ _ _ => .of_store (htest ..)) ..)

theorem keeps_hbmSelftest (s : State) (ses : Nat) : Keeps s (execHbmSelftest ses s) := by
  have htest : ∀ (t : State) (h : Nat × Nat), StoreKept t { t with hbmTest := some h } := fun t h => ⟨rfl, rfl⟩
  exact keeps_done (formKept_invoking (fun _ _ _ => .of_store (htest ..)) ..)

theorem keeps_partAssign (s : State) (ses p : Nat) : Keeps s (execPartAssign ses p s) :=
  keeps_done (formKept_invoking (fun _ _ _ => .ite (.of_store ((setPartState_store ..).trans (finishHandle_store ..)))
    ((formKept_startScrub ..).after (setPart_store ..))) ..)

theorem keeps_partRelease (s : State) (ses p : Nat) : Keeps s (execPartRelease ses p s) :=
  keeps_done (formKept_invoking (fun _ _ _ => formKept_doRelease ..) ..)

theorem keeps_partScrub (s : State) (ses p : Nat) : Keeps s (execPartScrub ses p s) :=
  keeps_done (formKept_invoking (fun _ _ _ => (formKept_startScrub ..).after (setPart_store ..)) ..)

theorem keeps_fwUpdate (s : State) (ses : Nat) (arg : List Byte) (img : FwImage) : Keeps s (execFwUpdate ses arg img s) :=
  keeps_done (formKept_invoking (fun _ _ _ => formKept_doUpdate ..) ..)

theorem keeps_attest (s : State) (ses : Nat) (nonce : List Byte) : Keeps s (execAttest ses nonce s) :=
  keeps_done (formKept_invoking (fun _ _ _ => .of_store ((measurements_store ..).trans (finishHandle_store ..))) ..)

theorem keeps_freqChange (s : State) (ses : Nat) : Keeps s (execFreqChange ses s) :=
  keeps_done (formKept_invoking (fun _ _ _ => .of_store (doFreqChange_store ..)) ..)

/-! ### Messages, handles and the lock -/

theorem keeps_dictGet (s : State) (ses idx sub : Nat) : Keeps s (execDictGet ses idx sub s) :=
  keeps_done (formKept_inSes (fun _ _ => .of_store (dictRead_store ..)) ..)

theorem keeps_poll (s : State) (ses h : Nat) : Keeps s (execPoll ses h s) := by
  refine keeps_done (formKept_bareMessage (fun _ _ => .of_store ?_) ..)
  split
  · exact answerIn_store ..
  · exact answerIn_store ..

theorem keeps_lock (s : State) (ses : Nat) : Keeps s (execLock ses s) :=
  keeps_done (formKept_bareMessage (fun _ _ => .of_store (doLock_store ..)) ..)

theorem keeps_unlock (s : State) (ses : Nat) : Keeps s (execUnlock ses s) :=
  keeps_done (formKept_bareMessage (fun _ _ => .of_store (doUnlock_store ..)) ..)

theorem keeps_lockLeaseExpiry (s : State) (ms : Nat) : Keeps s (execLockLeaseExpiry ms s) := by
  unfold execLockLeaseExpiry
  refine keeps_done (.of_store ?_)
  split
  · exact .ite ((freeLock_store ..).trans (lockLost_store ..)) .refl
  · exact .refl

theorem keeps_handleExpiry (s : State) (h sec : Nat) : Keeps s (execHandleExpiry h sec s) := by
  have hgone : ∀ l, StoreKept s { s with handles := l } := fun l => ⟨rfl, rfl⟩
  unfold execHandleExpiry
  refine keeps_done (.of_store ?_)
  split
  · exact .ite (hgone _) .refl
  · exact .refl

theorem keeps_logRead (s : State) (ses : Nat) : Keeps s (execLogRead ses s) := by
  refine keeps_done (formKept_inSes (fun _ _ => .of_store ?_) ..)
  split
  · exact (readLog_store ..).trans (answerIn_store ..)
  · exact answerIn_store ..

/-! ### The host's interface -/

theorem keeps_mbGo (s : State) (len : Nat) (req : List Byte) (dict : Bool) (clr : MbWrites) (ev : Nat) : Keeps s (execMbGo len req dict clr ev s) :=
  keeps_done (.of_store ((mbHostWrites_store ..).trans (.ite (mbGo_store ..) .refl)))

theorem keeps_h2mTail (s : State) (slot tail : Nat) (ents : List (List Byte)) : Keeps s (execH2mTail slot tail ents s) := by
  unfold execH2mTail
  refine keeps_done (.of_store ?_)
  split
  · exact h2mTail_store ..
  · exact .refl

theorem keeps_m2hTail (s : State) (slot tail : Nat) (ents : List (List Byte)) : Keeps s (execM2hTail slot tail ents s) := by
  unfold execM2hTail
  refine keeps_done ?_
  split
  · exact formKept_m2hTail ..
  · exact .refl

theorem keeps_hostWrite (s : State) (slot : Nat) (hdr : List Byte) (hr : HostRec) : Keeps s (execHostWrite slot hdr hr s) :=
  keeps_done (formKept_takeRecord (fun _ _ _ => ((formKept_poke ..).after (useBg_store ..)).before
    ((useParts_store ..).trans (putWaiting_store ..))) ..)

theorem keeps_hostReadRequest (s : State) (slot : Nat) (hdr : List Byte) (hr : HostRec) : Keeps s (execHostReadRequest slot hdr hr s) :=
  keeps_done (formKept_takeRecord (fun _ _ _ => .of_store ((useParts_store ..).trans (putWaiting_store ..))) ..)

theorem keeps_serveCommandRecord (s : State) (slot : Nat) (hdr : List Byte) (hr : HostRec) : Keeps s (execServeCommandRecord slot hdr hr s) :=
  keeps_done (formKept_takeRecord (fun _ _ _ => .foldl _ (fun _ _ => formKept_serveCommand ..) _ _) ..)

theorem keeps_installChunk (s : State) (slot : Nat) (hdr : List Byte) (hr : HostRec) : Keeps s (execInstallChunk slot hdr hr s) :=
  keeps_done (formKept_takeRecord (fun _ _ _ => .of_store ((takeChunk_store ..).trans (putWaiting_store ..))) ..)

theorem keeps_perstN (s : State) : Keeps s (execPerstN s) := by
  unfold execPerstN
  extract_lets t
  have hclosed : StoreKept s t := foldl_store (fun _ _ => closeSession_store ..) _ _
  clear_value t
  exact keeps_done (.of_store ⟨hclosed.1, hclosed.2⟩)

theorem keeps_mgmtPacketRx (s : State) (l : MctpFrom) (pk : Packet) : Keeps s (execMgmtPacketRx l pk s) := by
  unfold execMgmtPacketRx
  split
  · exact keeps_done (.of_store (mctpLeaves_store ..))
  · exact keeps_onLink (.of_store (mctpArrives_store ..))
  · exact keeps_done (.of_store (mctpArrives_store ..))
  · exact keeps_done (.of_store (mctpArrives_store ..))

theorem keeps_setEndpointId (s : State) (b eid : Nat) : Keeps s (execSetEndpointId b eid s) := by
  have heid : ∀ t : State, StoreKept t { t with eids := kset t.eids b eid } := fun t => ⟨rfl, rfl⟩
  exact keeps_done (formKept_control (fun t => .ite (.of_store (heid t)) .refl) ..)

theorem keeps_getEndpointId (s : State) (b : Nat) : Keeps s (execGetEndpointId b s) := keeps_done (formKept_control (fun _ => .refl) ..)

theorem keeps_getMctpVersionSupport (s : State) (b : Nat) : Keeps s (execGetMctpVersionSupport b s) :=
  keeps_done (formKept_control (fun _ => .refl) ..)

theorem keeps_getMessageTypeSupport (s : State) (b : Nat) : Keeps s (execGetMessageTypeSupport b s) :=
  keeps_done (formKept_control (fun _ => .refl) ..)

theorem keeps_getVendorDefinedMsgSupport (s : State) (b : Nat) : Keeps s (execGetVendorDefinedMsgSupport b s) :=
  keeps_done (formKept_control (fun _ => .refl) ..)

theorem keeps_getVersion (s : State) (b : Nat) : Keeps s (execGetVersion b s) := keeps_done (.of_store (negotiate_store ..))

theorem keeps_getCapabilities (s : State) (b : Nat) : Keeps s (execGetCapabilities b s) := keeps_done (.of_store (negotiate_store ..))

theorem keeps_negotiateAlgorithms (s : State) (b : Nat) : Keeps s (execNegotiateAlgorithms b s) :=
  keeps_done (.of_store (negotiate_store ..))

theorem keeps_getDigests (s : State) (b : Nat) : Keeps s (execGetDigests b s) :=
  keeps_done (formKept_negotiated (fun _ => .of_store (spdmOut_store ..)) ..)

theorem keeps_getCertificate (s : State) (b slot off len : Nat) : Keeps s (execGetCertificate b slot off len s) :=
  keeps_done (formKept_negotiated (fun _ => .ite (.of_store (spdmErr_store ..)) (.of_store (spdmOut_store ..))) ..)

theorem keeps_challenge (s : State) (b : Nat) (nonce : List Byte) : Keeps s (execChallenge b nonce s) :=
  keeps_done (formKept_negotiated (fun _ => .of_store ((akSign_store ..).trans (spdmOut_store ..))) ..)

theorem keeps_getMeasurements (s : State) (b : Nat) (ses : Option Nat) (nonce : List Byte) : Keeps s (execGetMeasurements b ses nonce s) := by
  refine keeps_done (formKept_negotiated (fun _ => ?_) ..)
  split
  · exact .of_store ((measurements_store ..).trans (spdmOut_store ..))
  · exact formKept_inSession (fun _ _ => .of_store ((measurements_store ..).trans (spdmIn_store ..))) ..

theorem keeps_keyExchange (s : State) (b : Nat) (key : List Byte) (vendor mutualOk : Bool) : Keeps s (execKeyExchange b key vendor mutualOk s) :=
  keeps_done (formKept_negotiated (fun _ => .of_store (keyExchange_store ..)) ..)

theorem keeps_finish (s : State) (b ses : Nat) (ok : Bool) : Keeps s (execFinish b ses ok s) :=
  keeps_done (.ite .refl (.of_store (finishSession_store ..)))

theorem keeps_keyUpdate (s : State) (ses : Nat) : Keeps s (execKeyUpdate ses s) :=
  keeps_done (formKept_ownRequest (fun _ _ => .of_store ((newKeys_store ..).trans ((setSes_store ..).trans (spdmIn_store ..)))) ..)

theorem keeps_heartbeat (s : State) (ses : Nat) : Keeps s (execHeartbeat ses s) :=
  keeps_done (formKept_ownRequest (fun _ _ => .of_store (spdmIn_store ..)) ..)

theorem keeps_endSession (s : State) (ses : Nat) : Keeps s (execEndSession ses s) :=
  keeps_done (formKept_ownRequest (fun _ _ => .of_store ((closeSession_store ..).trans (spdmIn_store ..))) ..)

theorem keeps_submit (s : State) (ses : Option Nat) (cmd : List Byte) : Keeps s (execSubmit ses cmd s) :=
  keeps_done (formKept_serveCommand ..)

theorem keeps_cancel (s : State) (ses : Option Nat) (cmd : List Byte) : Keeps s (execCancel ses cmd s) :=
  keeps_done (formKept_serveCommand ..)

theorem keeps_entdaa (s : State) (addr : Nat) : Keeps s (execEntdaa addr s) := by
  have haddr : ∀ a, StoreKept s { s with i3cAddr := a } := fun a => ⟨rfl, rfl⟩
  exact keeps_done (.ite .refl (.of_store (haddr _)))

/-! ### Contexts and tests as they end -/

theorem keeps_hostIdle (s : State) (c ms : Nat) : Keeps s (execHostIdle c ms s) :=
  keeps_done (.ite (.of_store (failInstall_store ..)) .refl)

theorem keeps_graftStart (s : State) (ue : Bool) : Keeps s (execGraftStart ue s) := keeps_done (.of_store (graftStart_store ..))

theorem keeps_graftComplete (s : State) (bad : Option Nat) (ue : Bool) : Keeps s (execGraftComplete bad ue s) :=
  keeps_done (formKept_graftComplete ..)

theorem keeps_flashSelftestEnd (s : State) (res : List Byte) : Keeps s (execFlashSelftestEnd res s) :=
  keeps_done (.of_store (flashSelftestEnd_store ..))

theorem keeps_hbmSelftestEnd (s : State) (fail : List Nat) : Keeps s (execHbmSelftestEnd fail s) := keeps_done (formKept_hbmSelftestEnd ..)

theorem keeps_serveSelftestEnd (s : State) (pass : Bool) : Keeps s (execServeSelftestEnd pass s) :=
  keeps_onServe (.of_store (serveSelftestEnd_store ..))

theorem keeps_flashBlockReturn (s : State) (c : Nat) : Keeps s (execFlashBlockReturn c s) :=
  keeps_done (.of_store ((setCtx_store ..).trans (wr_store ..)))

/-! ### Power, sensors and trips -/

theorem keeps_powerFail (s : State) (mv us : Nat) (pwrEn : Bool) : Keeps s (execPowerFail mv us pwrEn s) :=
  keeps_done (.ite (formKept_powerFail ..) .refl)

theorem keeps_holdupEnd (s : State) (mv : Nat) (pwrEn : Bool) : Keeps s (execHoldupEnd mv pwrEn s) :=
  keeps_done (.ite .refl (.ite (formKept_coldStart ..) (.of_store ⟨rfl, rfl⟩)))

theorem keeps_sensorSample (s : State) (d : Nat) (raw hbm : List Int) : Keeps s (execSensorSample d raw hbm s) :=
  keeps_onDie (formKept_sensorSample ..)

theorem keeps_calibrationInterval (s : State) (r : Nat) (meas : List (Nat × Nat)) (coolant : Int × Int) (board : List Int) :
    Keeps s (execCalibrationInterval r meas coolant board s) := by
  have ht : StoreKept s { s with coolant := coolant, board := board } := ⟨rfl, rfl⟩
  exact keeps_done (.of_store (.ite (.ite (ht.trans (calInterval_store ..)) ht) .refl))

theorem keeps_senseOpen (s : State) (r n : Nat) : Keeps s (execSenseOpen r n s) :=
  keeps_done (.ite (.of_store ((setRail_store ..).trans ((senseBit_store ..).trans (logRec_store ..)))) .refl)

theorem keeps_senseMismatch (s : State) (r n : Nat) (above agreesEst : Bool) : Keeps s (execSenseMismatch r n above agreesEst s) :=
  keeps_done (.ite (.of_store (senseMismatch_store ..)) .refl)

theorem keeps_thermtrip (s : State) (b : Bool) (ns : Nat) : Keeps s (execThermtrip b ns s) := by
  have hshown : ∀ m, StoreKept s (showTripIn { s with tripAt := m }) := fun m => showTripIn_store { s with tripAt := m }
  exact keeps_done (.ite .refl (FormKept.after (.ite (formKept_trip ..) .refl) (hshown _)))

theorem keeps_tripDiscrepancy (s : State) (us : Nat) : Keeps s (execTripDiscrepancy us s) := keeps_done (.ite (formKept_trip ..) .refl)

theorem keeps_capMissTrip (s : State) (avgMw ms : Nat) : Keeps s (execCapMissTrip avgMw ms s) := by
  have ht : ∀ i v, StoreKept s (wr { s with avg10 := avgMw } 0x5008 i v) := fun i v => wr_store { s with avg10 := avgMw } 0x5008 i v
  exact keeps_done (FormKept.after (.ite (formKept_trip ..) .refl) (ht ..))

theorem keeps_envelopeLimit (s : State) (avgMw : Nat) : Keeps s (execEnvelopeLimit avgMw s) := by
  have ht : ∀ i v, StoreKept s (wr { s with avg1 := avgMw } 0x5008 i v) := fun i v => wr_store { s with avg1 := avgMw } 0x5008 i v
  exact keeps_done (FormKept.after (.ite (formKept_trip ..) .refl) (ht ..))

theorem keeps_tripInputDeassert (s : State) (b : Bool) (us : Nat) : Keeps s (execTripInputDeassert b us s) := by
  have hshown : ∀ m, StoreKept s (showTripIn { s with tripAt := m }) := fun m => showTripIn_store { s with tripAt := m }
  exact keeps_done (.ite .refl (.of_store ((hshown _).trans (.ite ((alert_store ..).trans (logRec_store ..)) .refl))))

/-! ### Changes under two roles, debug and windows -/

theorem keeps_changeWindowExpiry (s : State) (sec : Nat) : Keeps s (execChangeWindowExpiry sec s) :=
  keeps_done (.ite (.of_store (discardChange_store ..)) .refl)

theorem keeps_debugChallengeExpiry (s : State) (sec : Nat) : Keeps s (execDebugChallengeExpiry sec s) := by
  have hnone : StoreKept s { s with debugReq := none } := ⟨rfl, rfl⟩
  exact keeps_done (.ite (.of_store hnone) .refl)

/-! ### Starts, resets and the management controller -/

theorem keeps_coldStart (s : State) (mv ms : Nat) (pwrEn : Bool) : Keeps s (execColdStart mv ms pwrEn s) :=
  keeps_doneAny (.ite (formKept_coldStart ..) .refl)

theorem keeps_startUpStage (s : State) (ok : Bool) (slots : List Nat) : Keeps s (execStartUpStage ok slots s) :=
  keeps_done (formKept_startUpStage ..)

theorem keeps_moduleRstN (s : State) (level : Bool) (ns : Nat) : Keeps s (execModuleRstN level ns s) := by
  have hpin : ∀ (t : State) (b : Bool), StoreKept t { t with moduleRst := b } := fun t b => ⟨rfl, rfl⟩
  exact keeps_done (.ite (.of_store (hpin ..)) (.ite .refl (.ite ((formKept_warmReset s 1).before (hpin ..)) (.of_store (hpin ..)))))

theorem keeps_mcLockstepMismatch (s : State) : Keeps s (execMcLockstepMismatch s) := keeps_done (.of_store (mcRestart_store ..))

theorem keeps_mcWatchdog (s : State) (ms : Nat) : Keeps s (execMcWatchdog ms s) := keeps_done (.ite (.of_store (mcRestart_store ..)) .refl)

theorem keeps_mcRestartDone (s : State) (ms : Nat) : Keeps s (execMcRestartDone ms s) := by
  have hup : ∀ t : State, StoreKept t { t with mcUpAt := some (timePs t) } := fun t => ⟨rfl, rfl⟩
  exact keeps_done (.ite .refl (.of_store ((mcReturn_store s).trans (hup _))))

theorem keeps_mcFailed (s : State) (ms : Nat) : Keeps s (execMcFailed ms s) := by
  have hdead : StoreKept s { s with mcDown := true, mcDead := true, faultN := true, asks := [] } := ⟨rfl, rfl⟩
  exact keeps_done (.ite .refl (.of_store (hdead.trans (raise_store ..))))

theorem keeps_refclkReturn (s : State) : Keeps s (execRefclkReturn s) := by
  have hback : StoreKept s { s with refLost := false } := ⟨rfl, rfl⟩
  exact keeps_done (.of_store hback)

end Sys2Proof
end

section
/-! SUPPORT. Messages by index, and the settlement of O5. -/

namespace Sys2Proof

open Machine

/-! ### Messages by index (R16, R601, R604) -/

theorem keeps_twoParty (ses idx sub : Nat) (val : List Byte) (s : State) : Keeps s (twoParty ses idx sub val s) := keeps_rw2pWrite ..

theorem keeps_lifecycleWrite (ses : Nat) (val : List Byte) (s : State) : Keeps s (lifecycleWrite ses val s) := by
  have hboth : ∀ c : Prop, ∀ _ : Decidable c, Keeps s (if c then twoParty ses 0x6000 2 val s else execLifecycleNext ses val s) := fun c _ => by
    split
    · exact keeps_twoParty ..
    · exact keeps_lifecycleNext ..
  unfold lifecycleWrite
  split
  · exact hboth _ _
  · exact keeps_lifecycleNext ..

theorem keeps_ownInvoke (ses idx sub : Nat) (arg : List Byte) (s : State) : ∀ o, ownInvoke ses idx sub arg s = some o → Keeps s o := by
  unfold ownInvoke
  generalize locate idx = at_
  obtain ⟨base, _, n⟩ := at_
  intro o ho
  dsimp only at ho
  split at ho
  · exact (Option.some.inj ho) ▸ keeps_attest ..
  · exact (Option.some.inj ho) ▸ keeps_freqChange ..
  · exact (Option.some.inj ho) ▸ keeps_planLoad ..
  · exact (Option.some.inj ho) ▸ keeps_linkRetrain ..
  · exact (Option.some.inj ho) ▸ keeps_linkSelftest ..
  · exact (Option.some.inj ho) ▸ keeps_hbmSelftest ..
  · exact (Option.some.inj ho) ▸ keeps_flashSelftest ..
  · exact (Option.some.inj ho) ▸ keeps_ctxInstall ..
  · exact (Option.some.inj ho) ▸ keeps_ctxGraft ..
  · exact (Option.some.inj ho) ▸ keeps_ctxRelease ..
  · exact (Option.some.inj ho) ▸ keeps_ctxErase ..
  · exact (Option.some.inj ho) ▸ keeps_serveSelftest ..
  · exact (Option.some.inj ho) ▸ keeps_fwUpdate ..
  · exact (Option.some.inj ho) ▸ keeps_partAssign ..
  · exact (Option.some.inj ho) ▸ keeps_partRelease ..
  · exact (Option.some.inj ho) ▸ keeps_partScrub ..
  · cases ho

theorem keeps_ownWrite (ses idx sub : Nat) (val : List Byte) (s : State) : ∀ o, ownWrite ses idx sub val s = some o → Keeps s o := by
  unfold ownWrite
  generalize locate idx = at_
  obtain ⟨base, _, n⟩ := at_
  intro o ho
  dsimp only at ho
  split at ho
  · exact (Option.some.inj ho) ▸ keeps_stretchFrac ..
  · exact (Option.some.inj ho) ▸ keeps_timingConfigWrite ..
  · exact (Option.some.inj ho) ▸ keeps_timingConfigWrite ..
  · exact (Option.some.inj ho) ▸ keeps_timingConfigWrite ..
  · exact (Option.some.inj ho) ▸ keeps_timingConfigWrite ..
  · exact (Option.some.inj ho) ▸ keeps_beatKAt ..
  · exact (Option.some.inj ho) ▸ keeps_planStartBeat ..
  · exact (Option.some.inj ho) ▸ keeps_linkAdmin ..
  · exact (Option.some.inj ho) ▸ keeps_myCoord ..
  · exact (Option.some.inj ho) ▸ keeps_bundles ..
  · exact (Option.some.inj ho) ▸ keeps_routeTableWrite ..
  · exact (Option.some.inj ho) ▸ keeps_routeTableWrite ..
  · exact (Option.some.inj ho) ▸ keeps_routeTableWrite ..
  · exact (Option.some.inj ho) ▸ keeps_routeTableWrite ..
  · exact (Option.some.inj ho) ▸ keeps_rankWindowWrite ..
  · exact (Option.some.inj ho) ▸ keeps_rankWindowWrite ..
  · exact (Option.some.inj ho) ▸ keeps_rankTableWrite ..
  · exact (Option.some.inj ho) ▸ keeps_flashMaint ..
  · exact (Option.some.inj ho) ▸ keeps_serveMaint ..
  · exact (Option.some.inj ho) ▸ keeps_senseState ..
  · exact (Option.some.inj ho) ▸ keeps_lifecycleWrite ..
  · exact (Option.some.inj ho) ▸ keeps_twoParty ..
  · exact (Option.some.inj ho) ▸ keeps_ownerClaim ..
  · exact (Option.some.inj ho) ▸ keeps_twoParty ..
  · exact (Option.some.inj ho) ▸ keeps_twoParty ..
  · exact (Option.some.inj ho) ▸ keeps_twoParty ..
  · exact (Option.some.inj ho) ▸ keeps_twoParty ..
  · exact (Option.some.inj ho) ▸ keeps_twoParty ..
  · exact (Option.some.inj ho) ▸ keeps_twoParty ..
  · exact (Option.some.inj ho) ▸ keeps_debugReq ..
  · exact (Option.some.inj ho) ▸ keeps_debugResponse ..
  · exact (Option.some.inj ho) ▸ keeps_debugClose ..
  · exact (Option.some.inj ho) ▸ keeps_partMaint ..
  · exact (Option.some.inj ho) ▸ keeps_partEraseCtx ..
  · exact (Option.some.inj ho) ▸ keeps_warmReset ..
  · exact (Option.some.inj ho) ▸ keeps_mcReset ..
  · exact (Option.some.inj ho) ▸ keeps_slotRetire ..
  · exact (Option.some.inj ho) ▸ keeps_retireClear ..
  · exact (Option.some.inj ho) ▸ keeps_planReset ..
  · exact (Option.some.inj ho) ▸ keeps_brkCtl ..
  · exact (Option.some.inj ho) ▸ keeps_ringWrite ..
  · exact (Option.some.inj ho) ▸ keeps_ringWrite ..
  · cases ho

theorem keeps_dictSet (s : State) (ses idx sub : Nat) (val : List Byte) : Keeps s (execDictSet ses idx sub val s) := by
  unfold execDictSet
  refine keeps_done (.ite ?_ ?_)
  · split
    next o ho => exact (keeps_ownInvoke _ _ _ _ s o ho).stateOf
    · exact formKept_inSes (fun _ _ => .of_store (answerIn_store ..)) ..
  · split
    next o ho => exact (keeps_ownWrite _ _ _ _ s o ho).stateOf
    · exact formKept_setting (fun _ _ => formKept_plainWrite ..) ..

/-! ### Every command, and every step -/

theorem exec_keeps (i : Instr) (s : State) : Keeps s (exec i s) :=
  match i with
  | .descriptorFetch .. => keeps_descriptorFetch ..
  | .descriptorDispatch .. => keeps_descriptorDispatch ..
  | .call .. => keeps_call ..
  | .ret .. => keeps_ret ..
  | .callSignal .. => keeps_callSignal ..
  | .seed .. => keeps_seed ..
  | .hint .. => keeps_hint ..
  | .mm .. => keeps_mm ..
  | .mmComplete .. => keeps_mmComplete ..
  | .add .. => keeps_add ..
  | .mul .. => keeps_mul ..
  | .fma .. => keeps_fma ..
  | .min .. => keeps_min ..
  | .max .. => keeps_max ..
  | .cmp .. => keeps_cmp ..
  | .sel .. => keeps_sel ..
  | .cvt .. => keeps_cvt ..
  | .lut .. => keeps_lut ..
  | .rsum .. => keeps_rsum ..
  | .rdot .. => keeps_rdot ..
  | .rmax .. => keeps_rmax ..
  | .rmin .. => keeps_rmin ..
  | .xadd .. => keeps_xadd ..
  | .xsum .. => keeps_xsum ..
  | .qnt .. => keeps_qnt ..
  | .dqs .. => keeps_dqs ..
  | .vxComplete .. => keeps_vxComplete ..
  | .mov .. => keeps_mov ..
  | .gather .. => keeps_gather ..
  | .scatter .. => keeps_scatter ..
  | .moverUnitIssue .. => keeps_moverUnitIssue ..
  | .moveComplete .. => keeps_moveComplete ..
  | .send .. => keeps_send ..
  | .sendx .. => keeps_sendx ..
  | .packetHandoff .. => keeps_packetHandoff ..
  | .sendComplete .. => keeps_sendComplete ..
  | .sync .. => keeps_sync ..
  | .syncPostApply .. => keeps_syncPostApply ..
  | .arrivalApply .. => keeps_arrivalApply ..
  | .barrier .. => keeps_barrier ..
  | .barrierArrive .. => keeps_barrierArrive ..
  | .barrierRelease .. => keeps_barrierRelease ..
  | .canopyTimeout .. => keeps_canopyTimeout ..
  | .step .. => keeps_step ..
  | .stepComplete .. => keeps_stepComplete ..
  | .beatEdge => keeps_beatEdge ..
  | .planStart .. => keeps_planStart ..
  | .planComplete .. => keeps_planComplete ..
  | .beatKChange => keeps_beatKChange ..
  | .fstepApply => keeps_fstepApply ..
  | .beatsyncSend .. => keeps_beatsyncSend ..
  | .beatsyncRx .. => keeps_beatsyncRx ..
  | .fstepRequestRx .. => keeps_fstepRequestRx ..
  | .fstepAnnounceRx .. => keeps_fstepAnnounceRx ..
  | .alarmRx .. => keeps_alarmRx ..
  | .arriveRx .. => keeps_arriveRx ..
  | .releaseRx .. => keeps_releaseRx ..
  | .faultRecord => keeps_faultRecord ..
  | .hbmPatrol .. => keeps_hbmPatrol ..
  | .stretchedCycle .. => keeps_stretchedCycle ..
  | .fifoRange .. => keeps_fifoRange ..
  | .locking => keeps_locking ..
  | .pllLock .. => keeps_pllLock ..
  | .timingLost .. => keeps_timingLost ..
  | .refclkLoss .. => keeps_refclkLoss ..
  | .timePps .. => keeps_timePps ..
  | .ppsTimeout .. => keeps_ppsTimeout ..
  | .frameStart .. => keeps_frameStart ..
  | .replaySend .. => keeps_replaySend ..
  | .frameForward .. => keeps_frameForward ..
  | .dataFrameRx .. => keeps_dataFrameRx ..
  | .keepalive .. => keeps_keepalive ..
  | .nak .. => keeps_nak ..
  | .ident .. => keeps_ident ..
  | .resume .. => keeps_resume ..
  | .ack .. => keeps_ack ..
  | .sv2AckTimer .. => keeps_sv2AckTimer ..
  | .keepaliveIdle .. => keeps_keepaliveIdle ..
  | .ackRefresh .. => keeps_ackRefresh ..
  | .down .. => keeps_down ..
  | .alignmentLost .. => keeps_alignmentLost ..
  | .laneSignalLoss .. => keeps_laneSignalLoss ..
  | .nakRepeat .. => keeps_nakRepeat ..
  | .replayTimer .. => keeps_replayTimer ..
  | .creditTimeout .. => keeps_creditTimeout ..
  | .holdExpired .. => keeps_holdExpired ..
  | .trainAttempt .. => keeps_trainAttempt ..
  | .trainingDone .. => keeps_trainingDone ..
  | .holdRetrainDone .. => keeps_holdRetrainDone ..
  | .rttWindowEnd .. => keeps_rttWindowEnd ..
  | .linkAdmin .. => keeps_linkAdmin ..
  | .linkRetrain .. => keeps_linkRetrain ..
  | .linkSelftest .. => keeps_linkSelftest ..
  | .linkSelftestEnd .. => keeps_linkSelftestEnd ..
  | .myCoord .. => keeps_myCoord ..
  | .bundles .. => keeps_bundles ..
  | .routeTableWrite .. => keeps_routeTableWrite ..
  | .rankWindowWrite .. => keeps_rankWindowWrite ..
  | .rankTableWrite .. => keeps_rankTableWrite ..
  | .timingConfigWrite .. => keeps_timingConfigWrite ..
  | .stretchFrac .. => keeps_stretchFrac ..
  | .beatKAt .. => keeps_beatKAt ..
  | .planStartBeat .. => keeps_planStartBeat ..
  | .brkCtl .. => keeps_brkCtl ..
  | .planLoad .. => keeps_planLoad ..
  | .planLoadComplete p r => keeps_planLoadComplete s p r
  | .planReset .. => keeps_planReset ..
  | .planResetComplete .. => keeps_planResetComplete ..
  | .dictGet .. => keeps_dictGet ..
  | .dictSet .. => keeps_dictSet ..
  | .poll .. => keeps_poll ..
  | .lock .. => keeps_lock ..
  | .unlock .. => keeps_unlock ..
  | .lockLeaseExpiry .. => keeps_lockLeaseExpiry ..
  | .handleExpiry .. => keeps_handleExpiry ..
  | .logRead .. => keeps_logRead ..
  | .mbGo .. => keeps_mbGo ..
  | .h2mTail .. => keeps_h2mTail ..
  | .m2hTail .. => keeps_m2hTail ..
  | .ringWrite .. => keeps_ringWrite ..
  | .hostWrite .. => keeps_hostWrite ..
  | .hostReadRequest .. => keeps_hostReadRequest ..
  | .serveCommandRecord .. => keeps_serveCommandRecord ..
  | .installChunk .. => keeps_installChunk ..
  | .perstN => keeps_perstN ..
  | .mgmtPacketRx .. => keeps_mgmtPacketRx ..
  | .setEndpointId .. => keeps_setEndpointId ..
  | .getEndpointId .. => keeps_getEndpointId ..
  | .getMctpVersionSupport .. => keeps_getMctpVersionSupport ..
  | .getMessageTypeSupport .. => keeps_getMessageTypeSupport ..
  | .getVendorDefinedMsgSupport .. => keeps_getVendorDefinedMsgSupport ..
  | .getVersion .. => keeps_getVersion ..
  | .getCapabilities .. => keeps_getCapabilities ..
  | .negotiateAlgorithms .. => keeps_negotiateAlgorithms ..
  | .getDigests .. => keeps_getDigests ..
  | .getCertificate .. => keeps_getCertificate ..
  | .challenge .. => keeps_challenge ..
  | .getMeasurements .. => keeps_getMeasurements ..
  | .keyExchange .. => keeps_keyExchange ..
  | .finish .. => keeps_finish ..
  | .keyUpdate .. => keeps_keyUpdate ..
  | .heartbeat .. => keeps_heartbeat ..
  | .endSession .. => keeps_endSession ..
  | .submit .. => keeps_submit ..
  | .cancel .. => keeps_cancel ..
  | .serveMaint .. => keeps_serveMaint ..
  | .serveSelftest .. => keeps_serveSelftest ..
  | .ctxInstall .. => keeps_ctxInstall ..
  | .hostIdle .. => keeps_hostIdle ..
  | .ctxGraft .. => keeps_ctxGraft ..
  | .graftStart .. => keeps_graftStart ..
  | .graftComplete .. => keeps_graftComplete ..
  | .ctxRelease .. => keeps_ctxRelease ..
  | .ctxErase .. => keeps_ctxErase ..
  | .flashMaint .. => keeps_flashMaint ..
  | .flashSelftest .. => keeps_flashSelftest ..
  | .flashSelftestEnd .. => keeps_flashSelftestEnd ..
  | .hbmSelftest .. => keeps_hbmSelftest ..
  | .hbmSelftestEnd .. => keeps_hbmSelftestEnd ..
  | .powerFail .. => keeps_powerFail ..
  | .holdupEnd .. => keeps_holdupEnd ..
  | .sensorSample .. => keeps_sensorSample ..
  | .calibrationInterval .. => keeps_calibrationInterval ..
  | .senseOpen .. => keeps_senseOpen ..
  | .senseMismatch .. => keeps_senseMismatch ..
  | .senseState .. => keeps_senseState ..
  | .thermtrip .. => keeps_thermtrip ..
  | .tripDiscrepancy .. => keeps_tripDiscrepancy ..
  | .capMissTrip .. => keeps_capMissTrip ..
  | .ownerClaim .. => keeps_ownerClaim ..
  | .lifecycleNext .. => keeps_lifecycleNext ..
  | .rw2pWrite .. => keeps_rw2pWrite ..
  | .changeWindowExpiry .. => keeps_changeWindowExpiry ..
  | .debugReq .. => keeps_debugReq ..
  | .debugResponse .. => keeps_debugResponse ..
  | .debugChallengeExpiry .. => keeps_debugChallengeExpiry ..
  | .debugClose .. => keeps_debugClose ..
  | .partAssign .. => keeps_partAssign ..
  | .partRelease .. => keeps_partRelease ..
  | .partMaint .. => keeps_partMaint ..
  | .partEraseCtx .. => keeps_partEraseCtx ..
  | .partScrub .. => keeps_partScrub ..
  | .scrubLinkDrain .. => keeps_scrubLinkDrain ..
  | .scrubComplete .. => keeps_scrubComplete ..
  | .fwUpdate .. => keeps_fwUpdate ..
  | .attest .. => keeps_attest ..
  | .freqChange .. => keeps_freqChange ..
  | .slotRetire .. => keeps_slotRetire ..
  | .retireClear .. => keeps_retireClear ..
  | .coldStart .. => keeps_coldStart ..
  | .startUpStage .. => keeps_startUpStage ..
  | .moduleRstN .. => keeps_moduleRstN ..
  | .warmReset .. => keeps_warmReset ..
  | .mcReset .. => keeps_mcReset ..
  | .mcLockstepMismatch => keeps_mcLockstepMismatch ..
  | .mcWatchdog .. => keeps_mcWatchdog ..
  | .mcRestartDone .. => keeps_mcRestartDone ..
  | .mcFailed .. => keeps_mcFailed ..
  | .refclkReturn => keeps_refclkReturn ..
  | .tripInputDeassert .. => keeps_tripInputDeassert ..
  | .envelopeLimit .. => keeps_envelopeLimit ..
  | .codewordDecodeFailure .. => keeps_codewordDecodeFailure ..
  | .serveSelftestEnd .. => keeps_serveSelftestEnd ..
  | .flashBlockReturn .. => keeps_flashBlockReturn ..
  | .entdaa .. => keeps_entdaa ..

/-- Settles O5: every command keeps the form of the memories, and so does an idle step. -/
theorem memoryFormKeptByEveryStep : Obligations.MemoryFormKeptByEveryStep := by
  intro s t hs hstep
  cases hq : s.pending with
  | nil =>
    rw [step, hq] at hstep
    cases hstep
    exact hs
  | cons i r =>
    rw [step, hq] at hstep
    exact ((exec_keeps i { s with pending := r }).next t hstep).inv hs

end Sys2Proof
end

section
/-! SUPPORT. A record in the log leaves the layout of the dies alone, and alarms whom it concerns (R549, R628 to R646). -/

namespace Sys2Proof

open Machine

/-! ### The fault log leaves the layout alone (R549, R628) -/

/-- Every entry but LAYOUT. -/
def offLayout (k : Nat) : Bool := k != rkey 0x6000 3

theorem offLayout_of_ne {i j : Nat} (hj : j < 256) (h : i ≠ 0x6000) : offLayout (rkey i j) = true := by
  simp only [offLayout, bne_iff_ne, rkey]
  omega

theorem leNat_lt (l : List Byte) : leNat l < 256 ^ l.length := by
  induction l with
  | nil => decide
  | cons b r ih =>
    have hb : b.toNat < 256 := b.isLt
    rw [List.length_cons, Nat.pow_succ]
    simp only [leNat]
    omega

theorem leAt_lt (l : List Byte) (o n : Nat) : leAt l o n < 256 ^ n :=
  Nat.lt_of_lt_of_le (leNat_lt _) (Nat.pow_le_pow_right (by decide) (List.length_take_le ..))

theorem recPart_lt (s : State) (r : LogRec) : recPart s r < 256 := by
  have hfind : ∀ f : Nat → Bool, (List.range 4).findIdx f ≤ 4 := fun f => List.findIdx_le_length
  have hlow := partLow_le s (r.unit / 256 % 4)
  unfold recPart
  split
  · omega
  · split
    case h_1 | h_2 | h_3 => exact leAt_lt _ _ 1
    case h_4 | h_5 => exact Nat.lt_of_le_of_lt (hfind _) (by decide)
    case h_6 => decide

/-- The counts and the records of each code lie at its own index. -/
theorem layoutKept_noteEntry (s : State) (r : LogRec) : RegsKept offLayout s (noteEntry s r) := by
  have hd : r.unit / 256 % 4 < 4 := Nat.mod_lt _ (by decide)
  have hp := recPart_lt s r
  have hb : ∀ {i j oi oj : Nat} (b : Nat), j < 256 → oj < 256 → i ≠ 0x6000 → oi ≠ 0x6000 → RegsKept offLayout s (bumpAt s i j oi oj b 1) :=
    fun b hj hoj hi hoi => regsKept_bumpAt _ _ _ _ _ _ _ (offLayout_of_ne hj hi) (offLayout_of_ne hoj hoi)
  have hw : ∀ {t : State} {i j : Nat} {m : List Byte}, RegsKept offLayout s t → RegsKept offLayout s (wb t i j m) := fun ht => ht.trans (.of_eq rfl)
  unfold noteEntry
  dsimp only
  split
  -- a code that none counts
  case h_21 => exact .refl
  -- the last record alone
  case h_1 | h_12 | h_13 | h_14 => exact hw .refl
  -- a count and the last record
  case h_4 | h_5 | h_15 | h_16 | h_17 | h_20 => exact hw (hb _ (by decide) (by decide) (by omega) (by omega))
  -- a count alone
  all_goals exact hb _ (by decide) (by decide) (by omega) (by omega)

theorem layoutKept_logNow (s : State) (r : LogRec) : RegsKept offLayout s (logNow s r) := by
  have hadd : ∀ (l : List LogRec) (n : Nat), RegsKept offLayout s { s with logNum := n, log := l } := fun l n => .of_eq rfl
  have hevent : ∀ (t : State) (f : Session → Bool) (ty : Nat) (b : List Byte), RegsKept offLayout t (eventAll t f ty b) := fun t f ty b =>
    .of_eq ((touches_eventAll ..).same .regs (by decide))
  have hor : ∀ {w v : State} {c : Prop} [Decidable c], RegsKept offLayout s w → RegsKept offLayout w v → RegsKept offLayout s (if c then v else w) :=
    fun h g => by
      split
      · exact h.trans g
      · exact h
  unfold logNow
  dsimp only
  refine RegsKept.trans ?_ (layoutKept_noteEntry _ _)
  refine hor (RegsKept.trans ?_ (hevent _ _ _ _)) (hevent _ _ _ _)
  exact hor ((hadd _ _).trans (regsKept_bump _ _ _ _ _ _ rfl rfl rfl rfl)) (.of_eq rfl)

theorem layoutKept_logRec (s : State) (r : LogRec) : RegsKept offLayout s (logRec s r) := by
  unfold logRec
  split
  · split
    · exact .of_eq rfl
    · exact regsKept_bump _ _ _ _ _ _ rfl rfl rfl rfl
  · exact layoutKept_logNow s r

theorem partLow_logRec (s : State) (r : LogRec) (d : Nat) : partLow (logRec s r) d = partLow s d := by
  unfold partLow
  rw [(layoutKept_logRec s r).rg ((touches_logRec s r).same .variant (by decide)) _ _ (by decide)]

theorem concerns_logRec (s : State) (r q : LogRec) : concerns (logRec s r) q = concerns s q := by
  have hlow : partLow (logRec s r) = partLow s := funext (partLow_logRec s r)
  have hvariant : (logRec s r).variant = s.variant := (touches_logRec s r).same .variant (by decide)
  have hparts : partitions (logRec s r) = partitions s := by rw [partitions, partitions, hlow, hvariant]
  rw [concerns, concerns, hlow, hparts]

/-! ### What the log holds after an entry (R630) -/

/-- The log with one more entry, the last 1024 of them. -/
def appended (s : State) (r : LogRec) : State :=
  { s with logNum := s.logNum + 1, log := (s.log ++ [{ r with num := s.logNum + 1 }]).drop (s.log.length + 1 - 1024) }

theorem touches_logNow_appended (s : State) (r : LogRec) : Touches ([.regs, .blobs, .faultq] ++ eventFields) (appended s r) (logNow s r) := by
  unfold logNow
  dsimp only
  refine Touches.trans ?_ ((touches_noteEntry ..).mono rfl)
  refine .orKept (Touches.trans ?_ ((touches_eventAll ..).mono rfl)) ((touches_eventAll ..).mono rfl)
  exact .orKept ((touches_bump ..).mono rfl) ((touches_wb ..).mono rfl)

theorem getLast?_appended (s : State) (r : LogRec) : (appended s r).log.getLast? = some { r with num := s.logNum + 1 } := by
  have hle : s.log.length + 1 - 1024 ≤ s.log.length := by omega
  rw [appended, List.drop_append_of_le_length hle, List.getLast?_concat]

theorem logRec_appends {s : State} (h : s.mcDown = false) (r : LogRec) :
    (logRec s r).logNum = s.logNum + 1 ∧ (logRec s r).log.getLast? = some { r with num := s.logNum + 1 } := by
  have hfields := touches_logNow_appended s r
  have hlog : (logNow s r).log = (appended s r).log := hfields.same .log (by decide)
  rw [logRec, h, if_neg Bool.false_ne_true, hlog]
  exact ⟨hfields.same .logNum (by decide), getLast?_appended s r⟩

/-! ### Fleet alarms (R631 to R633) -/

/-- The records that raise the alarm of the partitions they concern. -/
def alarms (r : LogRec) : Prop := r.cls ≠ 2 ∧ (3 ≤ r.cls ∧ r.cls ≤ 5 ∨ r.cls = 7 ∧ r.code ≠ 0x0701)

theorem escalate_of_alarms {r : LogRec} (h : alarms r) (s : State) : escalate s r = (concerns s r).foldl (fun t p => raiseAlarm t r p) s := by
  rw [escalate, if_neg h.1, if_pos h.2]

theorem touches_escalate (s : State) (r : LogRec) : Touches alarmFields s (escalate s r) :=
  .ite (.foldl _ (fun _ _ => .ite ((touches_setPart ..).mono rfl) .refl) _ _) (.ite (.foldl _ (fun _ _ => touches_raiseAlarm ..) _ _) .refl)

theorem touches_raise_any (s : State) (r : LogRec) : Touches (.parts :: .links :: logFields) s (raise s r) :=
  ((touches_logRec s r).mono rfl).trans ((touches_escalate ..).mono rfl)

theorem planState_raiseAlarm (s : State) (r : LogRec) (p q : Nat) : planState (raiseAlarm s r p) q = planState s q := by
  by_cases h : planState s p ≠ 3 ∨ (Machine.partAt s p).alarm = true
  · rw [raiseAlarm, if_pos h]
  · have hsent : Touches [.links, .out] (alarmRaised s r p) (raiseAlarm s r p) := by
      rw [raiseAlarm, if_neg h]
      exact .foldl _ (fun t l => touches_sendMsg ..) _ _
    have hne : ∀ i j, j ≠ 1 → j < 256 → rkey i j ≠ rkey (0x2120 + q) 1 := fun i j hj hl => by unfold rkey; omega
    rw [planState, hsent.rg_eq (by decide) (by decide), alarmRaised,
      rg_bump_other (hne _ _ (by decide) (by decide)) (hne _ _ (by decide) (by decide)) (hne _ _ (by decide) (by decide))
        (hne _ _ (by decide) (by decide)),
      (touches_setPart ..).rg_eq (by decide) (by decide), planState]

theorem otherParts_raiseAlarm (s : State) (r : LogRec) (p : Nat) : OtherParts p s (raiseAlarm s r p) := by
  intro q hq
  by_cases h : planState s p ≠ 3 ∨ (Machine.partAt s p).alarm = true
  · rw [raiseAlarm, if_pos h]
  · have hsent : Touches [.links, .out] (alarmRaised s r p) (raiseAlarm s r p) := by
      rw [raiseAlarm, if_neg h]
      exact .foldl _ (fun t l => touches_sendMsg ..) _ _
    rw [hsent.partAt_eq (by decide), alarmRaised, (touches_bump ..).partAt_eq (by decide), partAt_setPart_other _ _ _ _ hq]

theorem alarm_escalate {s : State} {r : LogRec} {p : Nat} (h : alarms r) (hp : p ∈ concerns s r) (hrun : planState s p = 3) :
    (Machine.partAt (escalate s r) p).alarm = true := by
  rw [escalate_of_alarms h]
  refine foldl_reaches (Q := fun t => planState t p = 3) (P := fun t => (Machine.partAt t p).alarm = true) hp ?_ ?_ ?_ hrun
  · intro t q ht
    rw [planState_raiseAlarm, ht]
  · intro t ht
    exact (partAt_raiseAlarm r ht).1
  · intro t q ht
    by_cases hq : p = q
    · subst hq
      rwa [raiseAlarm, if_pos (.inr ht)]
    · rwa [otherParts_raiseAlarm t r q p hq]

theorem concerns_lt {s : State} {r : LogRec} {p : Nat} (hp : p ∈ concerns s r) : p < 4 := by
  unfold concerns at hp
  split at hp
  · exact partition_lt hp
  · split at hp
    · have hle := partLow_le s (r.unit / 256 % 4)
      rw [List.mem_singleton] at hp
      omega
    · exact partition_lt (List.mem_filter.1 hp).1

/-- While a partition that a record concerns is RUNNING, the record raises its alarm. -/
theorem alarm_raise {s : State} {r : LogRec} {p : Nat} (h : alarms r) (hp : p ∈ concerns s r) (hrun : planState s p = 3) :
    (Machine.partAt (raise s r) p).alarm = true := by
  refine alarm_escalate h (by rwa [concerns_logRec]) ?_
  rwa [planState, (logKept_logRec s r).rg_eq (by decide) (by have := concerns_lt hp; omega)]

end Sys2Proof
end

section
/-! SUPPORT. What a mover unit does with its lines, and when its write lands (O22). -/

namespace Sys2Proof

open Machine

/-! ### Channels -/

/-- A channel accepts its next request 2 cycles on for each line taken of it (R303). -/
theorem kget_useChannels (s : State) (l : List Nat) (k : Nat) : kget (useChannels s l).chReady k =
    if k ∈ l then some (max ((kget s.chReady k).getD 0) (absNow s) + 2 * l.count k) else kget s.chReady k := by
  have hfold : ∀ (l : List Nat) (m : KMap Nat), kget (l.foldl (fun m k => kset m k (max ((kget m k).getD 0) (absNow s) + 2)) m) k =
      if k ∈ l then some (max ((kget m k).getD 0) (absNow s) + 2 * l.count k) else kget m k := by
    intro l
    induction l with
    | nil => intro m; rfl
    | cons a r ih =>
      intro m
      rw [List.foldl_cons, ih]
      by_cases ha : a = k
      · subst ha
        have hsame := kget_kset_same m a (max ((kget m a).getD 0) (absNow s) + 2)
        simp only [hsame, List.mem_cons_self, if_true, List.count_cons_self, Option.getD_some]
        split
        · congr 1
          omega
        next hr => rw [List.count_eq_zero.2 hr]
      · have hother := kget_kset_other m a (max ((kget m a).getD 0) (absNow s) + 2) k (Ne.symm ha)
        simp only [hother, List.mem_cons, Ne.symm ha, false_or, List.count_cons_of_ne ha]
  exact hfold l s.chReady

/-! ### The issue of a unit, step by step (R317, R325, R326) -/

/-- The unit's index is fixed, and it takes its channels and its banks. -/
def unitClaimed (s : State) (u : Nat) (m : MoveRun) (i : Nat) (e : Bool) : State :=
  useBanks (useChannels (readIndex s u m).2 (unitChannels m.d.raw m i e)) (unitAccesses u m.d.raw m i e)

/-- The unit's activity and cycles are counted, the line of its index is read, and an index out of range is noted. -/
def unitNoted (s : State) (u : Nat) (m : MoveRun) (i : Nat) (e bad : Bool) : State :=
  let d := m.d.raw
  let t := [(48, (unitAccesses u d m i e).length), (49, 1), (50, (unitChannels d m i e).length), (52, unitCrossing u d m i e)].foldl
    (fun t k => countAct t (dieOf u) k.1 (dPhase d) k.2) s
  let t := indexLine (bumpUnits t (0x4010 + dieOf u) 9 12 8 1024 1) u m
  if m.unit = 0 ∧ bad then indexFault t u m i else t

/-- What the unit does of its lines but for the lines themselves. -/
def unitReady (s : State) (u n : Nat) (m : MoveRun) (i : Nat) (e bad : Bool) : State :=
  unitNoted (d2dFail (unitClaimed s u m i e) u n (unitRanges u m.d.raw m i e)) u m i e bad

/-- The descriptor after a unit of `n` in its row, of a MOV, GATHER or SCATTER, in cycle `now`. -/
def unitAfter (now u n : Nat) (m : MoveRun) (i : Nat) (bad : Bool) : MoveRun :=
  { m with row := if m.unit + 1 = n then m.row + 1 else m.row, unit := if m.unit + 1 = n then 0 else m.unit + 1, lastQ := now,
           lastWr := now + unitLat u m.d.raw, logged := m.logged || bad, idx := m.idx.set m.row i, buf := [] }

/-- The core once the unit of a descriptor has issued. -/
def unitIssuedCore (x : CoreSt) (now : Nat) (m m' : MoveRun) : CoreSt :=
  { x with drun := x.drun.map (fun k => if k.d.cnt = m.d.cnt then m' else k), lastD := now + 1 }

/-- A unit of a MOV, GATHER or SCATTER has issued. -/
def unitIssued (s : State) (u n : Nat) (m : MoveRun) : State :=
  let i := (readIndex s u m).1
  let e := rowEmpty (coreAt s u) m.d.raw i
  let t := moveUnit (unitReady s u n m i e.1 e.2) u m i e.1
  setCore t u (unitIssuedCore (coreAt t u) (absNow s) m (unitAfter (absNow s) u (rowUnits m.d.raw m.row i e.1) m i e.2))

theorem issueUnit_of_free {s : State} {u : Nat} {m : MoveRun} (n : Nat) (hs : isSend m.d.raw = false) (hc : unitEarliest m ≤ absNow s)
    (hh : unitHeldUp s u m (readIndex s u m).1 = false) : issueUnit s u n m = unitIssued s u n m := by
  unfold issueUnit
  dsimp only
  rw [if_neg (by simp [hh, hc])]
  simp only [hs, Bool.false_eq_true, if_false]
  rfl

theorem issueUnit_of_held {s : State} {u : Nat} {m : MoveRun} (n : Nat)
    (h : ¬(unitEarliest m ≤ absNow s ∧ unitHeldUp s u m (readIndex s u m).1 = false)) : issueUnit s u n m = s := by
  unfold issueUnit
  dsimp only
  rw [if_pos]
  rw [not_and_or, Nat.not_le, Bool.not_eq_false] at h
  exact h

/-! ### What each step leaves -/

theorem touches_readIndex (s : State) (u : Nat) (m : MoveRun) : Touches [.fresh] s (readIndex s u m).2 := by
  unfold readIndex
  dsimp only
  split
  · exact .refl
  · exact touches_draw s

theorem touches_unitClaimed (s : State) (u : Nat) (m : MoveRun) (i : Nat) (e : Bool) :
    Touches [.fresh, .chReady, .bankUse] s (unitClaimed s u m i e) :=
  ((touches_readIndex ..).mono rfl).trans (((touches_useChannels ..).mono rfl).trans ((touches_useBanks ..).mono rfl))

theorem touches_indexLine (s : State) (u : Nat) (m : MoveRun) : Touches [.parts, .capSeen, .faultq, .regs, .blobs] s (indexLine s u m) :=
  .ite (touches_readErrors ..) .refl

theorem touches_indexFault (s : State) (u : Nat) (m : MoveRun) (i : Nat) : Touches [.parts, .capSeen, .faultq, .regs] s (indexFault s u m i) :=
  .ite ((touches_bump ..).mono rfl) (((touches_bump ..).mono rfl).trans (touches_capture ..))

theorem touches_unitNoted (s : State) (u : Nat) (m : MoveRun) (i : Nat) (e bad : Bool) :
    Touches [.act, .rems, .parts, .capSeen, .faultq, .regs, .blobs] s (unitNoted s u m i e bad) := by
  have hact : ∀ (l : List (Nat × Nat)) (ph : Nat), Touches [.act, .rems, .parts, .capSeen, .faultq, .regs, .blobs] s
      (l.foldl (fun t k => countAct t (dieOf u) k.1 ph k.2) s) := fun l ph => .foldl _ (fun _ _ => (touches_countAct ..).mono rfl) _ _
  unfold unitNoted
  dsimp only
  exact .orKept ((hact ..).trans (((touches_bumpUnits ..).mono rfl).trans ((touches_indexLine ..).mono rfl))) ((touches_indexFault ..).mono rfl)

theorem touches_d2dFail (s : State) (u n : Nat) (l : List (Nat × Nat)) : Touches (.parts :: .links :: logFields) s (d2dFail s u n l) := by
  unfold d2dFail
  split
  · exact .ite (touches_raise_any ..) .refl
  · exact .refl

theorem touches_unitReady (s : State) (u n : Nat) (m : MoveRun) (i : Nat) (e bad : Bool) :
    Touches ([.act, .rems, .capSeen, .fresh, .chReady, .bankUse, .parts, .links] ++ logFields) s (unitReady s u n m i e bad) :=
  ((touches_unitClaimed ..).mono rfl).trans (((touches_d2dFail ..).mono rfl).trans ((touches_unitNoted ..).mono rfl))

/-- A write of the unit that was sent. -/
def unitLanding (s : State) (u : Nat) (m : MoveRun) (i : Nat) (e : Bool) : Landing :=
  let d := m.d.raw
  let a := rowDst d m.row i e
  let span := unitSpan a (dstBytes d) (rowUnits d m.row i e) m.unit
  { due := absNow s + unitLat u d, addr := flatAddr u (mDSP d) span.1,
    bytes := ((rowBytes s u m.d m.row i e).drop (span.1 - a)).take (span.2 - span.1), acc := fld d 424 1 == 1, cnt := m.d.cnt,
    tag := dTag d, pkt := none }

/-- What a unit reads and where it writes depend on the memories, their errors and the time. -/
theorem unitLanding_congr {l : List Field} {s t : State} (h : Touches l s t) (hl : ∀ f ∈ [Field.mem, .ecc, .edge, .cyc], f ∉ l) (u : Nat)
    (m : MoveRun)
    (i : Nat) (e : Bool) : unitLanding t u m i e = unitLanding s u m i e := by
  have hpeek : ∀ a n, peek t a n = peek s a n := peek_congr (h.same .mem (hl _ (by decide))) (h.same .ecc (hl _ (by decide)))
  have hbytes : rowBytes t u m.d m.row i e = rowBytes s u m.d m.row i e := by
    unfold rowBytes
    dsimp only
    rw [hpeek]
  rw [unitLanding, unitLanding, hbytes, h.absNow_eq (hl _ (by decide)) (hl _ (by decide))]

theorem coreAt_moveUnit (s : State) (u : Nat) (m : MoveRun) (i : Nat) (e : Bool) : coreAt (moveUnit s u m i e) u =
    { coreAt s u with lands := (coreAt s u).lands ++ if e = true ∧ dOpc m.d.raw = 0x32 then [] else [unitLanding s u m i e] } := by
  have hread : ∀ (c : Prop) [Decidable c] (a n : Nat), coreAt (if c then s else readErrors s u 3 a n m.d.cnt (dTag m.d.raw) 0) u = coreAt s u := by
    intro c _ a n
    split
    · rfl
    · exact coreAt_readErrors ..
  unfold moveUnit
  dsimp only
  split
  · rw [hread, List.append_nil]
  · rw [coreAt_setCore, hread]
    rfl

theorem touches_moveUnit (s : State) (u : Nat) (m : MoveRun) (i : Nat) (e : Bool) :
    Touches [.cores, .parts, .capSeen, .faultq, .regs, .blobs] s (moveUnit s u m i e) := by
  unfold moveUnit
  dsimp only
  have hread : ∀ (c : Prop) [Decidable c] (a n : Nat),
      Touches [.cores, .parts, .capSeen, .faultq, .regs, .blobs] s (if c then s else readErrors s u 3 a n m.d.cnt (dTag m.d.raw) 0) :=
    fun c _ a n => .ite .refl ((touches_readErrors ..).mono rfl)
  exact .ite (hread ..) ((hread ..).trans ((touches_setCore ..).mono rfl))

theorem touches_unitIssued (s : State) (u n : Nat) (m : MoveRun) :
    Touches ([.cores, .act, .rems, .capSeen, .fresh, .chReady, .bankUse, .parts, .links] ++ logFields) s (unitIssued s u n m) :=
  ((touches_unitReady ..).mono rfl).trans (((touches_moveUnit ..).mono rfl).trans ((touches_setCore ..).mono rfl))

/-- The core of the unit: its write is under way, and its descriptor has moved on. -/
theorem coreAt_unitIssued (s : State) (u n : Nat) (m : MoveRun) :
    let i := (readIndex s u m).1
    let e := rowEmpty (coreAt s u) m.d.raw i
    let x := coreAt (unitIssued s u n m) u
    x.lands = (coreAt s u).lands ++ (if e.1 = true ∧ dOpc m.d.raw = 0x32 then [] else [unitLanding s u m i e.1]) ∧
      x.drun = (coreAt s u).drun.map (fun k => if k.d.cnt = m.d.cnt then
        unitAfter (absNow s) u (rowUnits m.d.raw m.row i e.1) m i e.2 else k) := by
  intro i e x
  have hready := touches_unitReady s u n m i e.1 e.2
  have hx : x = unitIssuedCore (coreAt (moveUnit (unitReady s u n m i e.1 e.2) u m i e.1) u) (absNow s) m
      (unitAfter (absNow s) u (rowUnits m.d.raw m.row i e.1) m i e.2) := coreAt_setCore ..
  rw [hx, coreAt_moveUnit, hready.coreAt_eq (by decide), unitLanding_congr hready (by decide)]
  exact ⟨rfl, rfl⟩

/-- The fields that the issue of a unit may change beside those of every core. -/
def moverFields : List Field := [.blobs, .chReady, .rems, .fresh, .bankUse, .act]

theorem coreFrame_moveUnit {u : Nat} (s : State) (m : MoveRun) (i : Nat) (e : Bool) : CoreFrame u moverFields s (moveUnit s u m i e) := by
  have hread : ∀ (c : Prop) [Decidable c] (a n : Nat),
      CoreFrame u moverFields s (if c then s else readErrors s u 3 a n m.d.cnt (dTag m.d.raw) 0) := fun c _ a n => by
    split
    · exact .refl
    · exact coreFrame_readErrors _ _ _ _ _ _ _ (by decide)
  unfold moveUnit
  dsimp only
  split
  · exact hread _ _ _
  · exact (hread _ _ _).trans (coreFrame_setCore ..)

theorem coreFrame_unitNoted {u : Nat} (hd : dieOf u < 4) (s : State) (m : MoveRun) (i : Nat) (e bad : Bool) :
    CoreFrame u moverFields s (unitNoted s u m i e bad) := by
  have hact : ∀ (l : List (Nat × Nat)) (ph : Nat), CoreFrame u moverFields s (l.foldl (fun t k => countAct t (dieOf u) k.1 ph k.2) s) :=
    fun l ph => .foldl _ (fun t k => .fieldsOnly (touches_countAct ..) (by decide) (by decide)) _ _
  have hbump : ∀ (t : State) (j oj b n : Nat), j < 256 → oj < 256 → CoreFrame u moverFields t (bump t (0x4010 + dieOf u) j oj b n) :=
    fun t j oj b n hj hoj => coreFrame_bump _ _ _ _ _ _ (countKey_of hj (by simp; omega)) (countKey_of hoj (by simp; omega))
  have hunits : ∀ t : State, CoreFrame u moverFields t (bumpUnits t (0x4010 + dieOf u) 9 12 8 1024 1) := fun t => by
    have hrems : ∀ q, CoreFrame u moverFields t { t with rems := q } := fun q =>
      .fieldsOnly (k := [.rems]) ⟨fun f hf => by cases f <;> first | rfl | simp at hf⟩ (by decide) (by decide)
    exact (hrems _).trans (hbump _ _ _ _ _ (by decide) (by decide))
  have hline : ∀ t : State, CoreFrame u moverFields t (indexLine t u m) := fun t => by
    unfold indexLine
    dsimp only
    split
    · exact coreFrame_readErrors _ _ _ _ _ _ _ (by decide)
    · exact .refl
  have hfault : ∀ t : State, CoreFrame u moverFields t (indexFault t u m i) := fun t => by
    have hb := hbump t 10 12 9 1 (by decide) (by decide)
    unfold indexFault
    dsimp only
    split
    · exact hb
    · exact hb.trans (coreFrame_capture ..)
  unfold unitNoted
  dsimp only
  have hread := (hact [(48, (unitAccesses u m.d.raw m i e).length), (49, 1), (50, (unitChannels m.d.raw m i e).length),
    (52, unitCrossing u m.d.raw m i e)] (dPhase m.d.raw)).trans ((hunits _).trans (hline _))
  split
  · exact hread.trans (hfault _)
  · exact hread

theorem otherCores_unitIssued (s : State) (u n : Nat) (m : MoveRun) : OtherCores u s (unitIssued s u n m) := by
  intro v hv
  unfold unitIssued
  dsimp only
  rw [coreAt_setCore_other _ _ _ _ hv, (coreFrame_moveUnit ..).others v hv, (touches_unitReady ..).coreAt_eq (by decide)]

theorem chReady_unitIssued (s : State) (u n : Nat) (m : MoveRun) (k : Nat) :
    let ch := unitChannels m.d.raw m (readIndex s u m).1 (rowEmpty (coreAt s u) m.d.raw (readIndex s u m).1).1
    kget (unitIssued s u n m).chReady k =
      if k ∈ ch then some (max ((kget s.chReady k).getD 0) (absNow s) + 2 * ch.count k) else kget s.chReady k := by
  intro ch
  have hread := touches_readIndex s u m
  have hrest : Touches ([.cores, .act, .rems, .capSeen, .bankUse, .parts, .links] ++ logFields) (useChannels (readIndex s u m).2 ch)
    (unitIssued s u n m) :=
    ((touches_useBanks ..).mono rfl).trans (((touches_d2dFail ..).mono rfl).trans (((touches_unitNoted ..).mono rfl).trans
      (((touches_moveUnit ..).mono rfl).trans ((touches_setCore ..).mono rfl))))
  have hch : (readIndex s u m).2.chReady = s.chReady := hread.same .chReady (by decide)
  rw [show (unitIssued s u n m).chReady = _ from hrest.same .chReady (by decide), kget_useChannels, hch,
    hread.absNow_eq (by decide) (by decide)]

/-! ### A transfer between dies that fails (R631) -/

/-- One of the unit's ranges lies on another die, and its transfer failed on 8 retries. -/
def unitFails (u n : Nat) (m : MoveRun) (i : Nat) (e : Bool) : Prop := 8 ≤ n ∧ ∃ k ∈ unitRanges u m.d.raw m i e, dieAt k.1 ≠ dieOf u

theorem d2dFail_of_sound {s : State} {u n : Nat} {l : List (Nat × Nat)} (h : ¬(8 ≤ n ∧ ∃ k ∈ l, dieAt k.1 ≠ dieOf u)) : d2dFail s u n l = s := by
  unfold d2dFail
  split
  next k hk =>
    have hd : dieAt k.1 ≠ dieOf u := by simpa using List.find?_some hk
    rw [if_neg fun hn => h ⟨hn, k, List.mem_of_find?_eq_some hk, hd⟩]
  · rfl

theorem d2dFail_of_failed {s : State} {u n : Nat} {l : List (Nat × Nat)} (hn : 8 ≤ n) (h : ∃ k ∈ l, dieAt k.1 ≠ dieOf u) :
    ∃ k ∈ l, dieAt k.1 ≠ dieOf u ∧ d2dFail s u n l = raise s (pkgRec s 4 0x0705 (leBytes 1 (dieOf u) ++ leBytes 1 (dieAt k.1))) := by
  unfold d2dFail
  split
  next k hk => exact ⟨k, List.mem_of_find?_eq_some hk, by simpa using List.find?_some hk, if_pos hn⟩
  next hk =>
    obtain ⟨k, hmem, hd⟩ := h
    exact absurd (by simpa using hd) (List.find?_eq_none.1 hk k hmem)

theorem coreFrame_unitIssued {s : State} {u n : Nat} {m : MoveRun} (hd : dieOf u < 4)
    (h : ¬unitFails u n m (readIndex s u m).1 (rowEmpty (coreAt s u) m.d.raw (readIndex s u m).1).1) :
    CoreFrame u moverFields s (unitIssued s u n m) := by
  have hclaimed : ∀ i e, CoreFrame u moverFields s (unitClaimed s u m i e) := fun i e =>
    .fieldsOnly (touches_unitClaimed ..) (by decide) (by decide)
  unfold unitIssued unitReady
  dsimp only
  rw [d2dFail_of_sound h]
  exact ((hclaimed ..).trans (coreFrame_unitNoted hd ..)).trans ((coreFrame_moveUnit ..).trans (coreFrame_setCore ..))

theorem alarms_of_d2d (s : State) (d : List Byte) : alarms (pkgRec s 4 0x0705 d) :=
  ⟨show 0x0705 / 256 ≠ 2 by decide, .inr ⟨rfl, show 0x0705 ≠ 0x0701 by decide⟩⟩

theorem Touches.partitions_eq {l : List Field} {s t : State} (h : Touches l s t) (hr : Field.regs ∉ l) (hv : Field.variant ∉ l) :
    partitions t = partitions s := by
  have hlow : partLow t = partLow s := funext fun d => by rw [partLow, partLow, h.rg_eq hr hv]
  rw [partitions, partitions, hlow, show t.variant = s.variant from h.same .variant hv]

theorem concerns_of_d2d (s : State) (d : List Byte) : concerns s (pkgRec s 4 0x0705 d) = partitions s := if_pos (.inr (.inr (.inl rfl)))

/-- What a failed transfer leaves: it is in the log, and every RUNNING partition has its alarm. -/
theorem d2dFailed_unitIssued {s : State} {u n : Nat} {m : MoveRun} (hd : dieOf u < 4)
    (h : unitFails u n m (readIndex s u m).1 (rowEmpty (coreAt s u) m.d.raw (readIndex s u m).1).1) :
    D2dFailed u m (readIndex s u m).1 (rowEmpty (coreAt s u) m.d.raw (readIndex s u m).1).1 s (unitIssued s u n m) := by
  have hclaimed := touches_unitClaimed s u m (readIndex s u m).1 (rowEmpty (coreAt s u) m.d.raw (readIndex s u m).1).1
  obtain ⟨k, hk, hdie, hfail⟩ := d2dFail_of_failed
    (s := unitClaimed s u m (readIndex s u m).1 (rowEmpty (coreAt s u) m.d.raw (readIndex s u m).1).1) h.1 h.2
  have hafter : CoreFrame u moverFields (d2dFail (unitClaimed s u m (readIndex s u m).1 (rowEmpty (coreAt s u) m.d.raw (readIndex s u m).1).1) u n
      (unitRanges u m.d.raw m (readIndex s u m).1 (rowEmpty (coreAt s u) m.d.raw (readIndex s u m).1).1)) (unitIssued s u n m) :=
    (coreFrame_unitNoted hd ..).trans ((coreFrame_moveUnit ..).trans (coreFrame_setCore ..))
  have hfields := touches_unitIssued s u n m
  have hothers := otherCores_unitIssued s u n m
  rw [hfail] at hafter
  generalize unitIssued s u n m = w at *
  generalize unitClaimed s u m _ _ = t at *
  refine ⟨hfields.mono rfl, hothers, fun hmc => ?_, fun p hp hrun => ?_⟩
  · have hdown : t.mcDown = false := (hclaimed.same .mcDown (by decide)).trans hmc
    have hlog : w.log = (logRec t _).log := (hafter.fields.same .log (by decide)).trans ((touches_escalate ..).same .log (by decide))
    refine ⟨{ pkgRec t 4 0x0705 (leBytes 1 (dieOf u) ++ leBytes 1 (dieAt k.1)) with num := t.logNum + 1 }, ?_, k, hk, hdie, rfl, rfl, rfl⟩
    rw [hlog]
    exact List.mem_of_getLast? (logRec_appends hdown _).2
  · obtain ⟨b, hpart⟩ := hafter.parts p
    rw [hpart]
    refine alarm_raise (p := p) (alarms_of_d2d ..) ?_ ?_
    · rwa [concerns_of_d2d, hclaimed.partitions_eq (by decide) (by decide)]
    · rwa [planState, hclaimed.rg_eq (by decide) (by decide)]

theorem D2dFailed.ended {u : Nat} {m : MoveRun} {i : Nat} {e : Bool} {s w t : State} (h : D2dFailed u m i e s w) (g : Touches [.alertN] w t) :
    D2dFailed u m i e s t := by
  have hlog : t.log = w.log := g.same .log (by decide)
  refine ⟨h.fields.trans (g.mono rfl), fun v hv => (g.coreAt_eq (by decide) v).trans (h.others v hv), fun hmc => ?_, fun p hp hrun => ?_⟩
  · rw [hlog]
    exact h.logged hmc
  · rw [g.partAt_eq (by decide)]
    exact h.alarms p hp hrun

/-! ### O22 -/

theorem exec_moverUnitIssue_eq {s : State} {u : Nat} {c : UnitTick} {m : MoveRun} (hw : coreWorks (coreTick s u c.cyc) u = true)
    (hm : (coreAt (coreTick s u c.cyc) u).drun.find? (fun m => !allIssued m) = some m) :
    exec (.moverUnitIssue u c) s = onCore s u (issueUnit (coreTick s u c.cyc) u c.retries m) := by
  have hexec : exec (.moverUnitIssue u c) s = onCore s u (if coreWorks (coreTick s u c.cyc) u then
      match (coreAt (coreTick s u c.cyc) u).drun.find? (fun m => !allIssued m) with
      | some m => issueUnit (coreTick s u c.cyc) u c.retries m
      | none => coreTick s u c.cyc
    else coreTick s u c.cyc) := rfl
  rw [hexec, if_pos hw, hm]

theorem landOne_of_early {s : State} {u : Nat} {l : Landing} (h : absNow s < l.due) : landOne s u l = (s, some l) := if_pos h

theorem landOne_of_write {s : State} {u : Nat} {l : Landing} (hp : l.pkt = none) (h : l.due ≤ absNow s) : landOne s u l = (commit s u l, none) := by
  rw [landOne, if_neg (Nat.not_lt.2 h), hp]

/-- What a landing write stores. -/
def landed (s : State) (l : Landing) : List Byte := if l.acc then xaccBytes (peek s l.addr l.bytes.length) l.bytes else l.bytes

/-- A landing write stores its bytes over a state that differs from the one before in the errors that it has met. -/
theorem commit_eq (s : State) (u : Nat) (l : Landing) : ∃ t, Touches [.parts, .capSeen, .faultq, .regs, .blobs] s t ∧
    commit s u l = poke t l.addr (landed s l) := by
  unfold commit landed
  split
  · exact ⟨_, .ite (touches_bareErrors ..) (touches_readErrors ..), rfl⟩
  · exact ⟨s, .refl, rfl⟩

theorem mget_commit_in (s : State) (u : Nat) (l : Landing) (k : Nat) (h : k < (landed s l).length) :
    mget (commit s u l).mem (l.addr + k) = (landed s l)[k] := by
  obtain ⟨t, -, heq⟩ := commit_eq s u l
  rw [heq]
  exact mget_mwrite_in ..

theorem bytesKept_commit (s : State) (u : Nat) (l : Landing) : BytesKept l.addr (landed s l).length s (commit s u l) := by
  obtain ⟨t, ht, heq⟩ := commit_eq s u l
  intro b hb
  have hmem : t.mem = s.mem := ht.same .mem (by decide)
  rw [heq, poke, mget_mwrite_out _ _ _ _ hb, hmem]

theorem touches_commit_write (s : State) (u : Nat) (l : Landing) : Touches [.parts, .capSeen, .faultq, .regs, .blobs, .mem, .ecc] s
    (commit s u l) := by
  obtain ⟨t, ht, heq⟩ := commit_eq s u l
  rw [heq]
  exact (ht.mono rfl).trans ((touches_poke ..).mono rfl)

/-- Settles O22: a free unit issues (`coreAt_unitIssued`, `chReady_unitIssued`), a failed transfer is logged (`d2dFailed_unitIssued`), and a
write that is due stores its bytes and no others (`mget_commit_in`, `bytesKept_commit`). -/
theorem moverUnitMovesItsLines : Obligations.MoverUnitMovesItsLines := by
  refine ⟨fun s u c m hp hu => ?_, fun s u l hpkt => ?_⟩
  · intro t x d i e n a span sent ch free fails hw hm hs
    have hd : dieOf u < 4 := dieOf_lt hu
    have hexec : exec (.moverUnitIssue u c) s = onCore s u (issueUnit t u c.retries m) := exec_moverUnitIssue_eq hw hm
    have hidle : ∃ t', onCore s u t = .next t' ∧ Touches [.alertN] t t' := onCore_next_idle hp hu
    refine ⟨fun hfree => ?_, fun hfree => ?_⟩
    · have hissue : issueUnit t u c.retries m = unitIssued t u c.retries m := issueUnit_of_free _ hs hfree.1 hfree.2
      have htouch := touches_unitIssued t u c.retries m
      obtain ⟨hlands, hdrun⟩ := coreAt_unitIssued t u c.retries m
      have hch := chReady_unitIssued t u c.retries m
      have hsound : ¬fails → CoreFrame u moverFields t (unitIssued t u c.retries m) := coreFrame_unitIssued hd
      have hfailed : fails → D2dFailed u m i e t (unitIssued t u c.retries m) := d2dFailed_unitIssued hd
      obtain ⟨t', ht, hend⟩ := onCore_next_touches hp hu htouch (by decide)
      have hcore := hend.coreAt_eq (by decide) u
      have hready : t'.chReady = (unitIssued t u c.retries m).chReady := hend.same .chReady (by decide)
      refine ⟨t', by rw [hexec, hissue, ht], ?_, fun k => ?_, ⟨unitAfter (absNow t) u n m i (rowEmpty x d i).2, ?_, rfl, ?_, rfl, rfl⟩,
        fun hf => (hsound hf).trans (.fieldsOnly hend (by decide) (by decide)), fun hf => (hfailed hf).ended hend⟩
      · rw [hcore, hlands]
        rfl
      · rw [hready, hch]
      · rw [hcore, hdrun]
      · by_cases hlast : m.unit + 1 = n
        · simp only [unitAfter, if_pos hlast]
        · simp only [unitAfter, if_neg hlast]
    · rw [hexec, issueUnit_of_held _ hfree]
      exact hidle
  · refine ⟨fun h => landOne_of_early h, fun h => ?_⟩
    rw [landOne_of_write hpkt h]
    have hfields := touches_commit_write s u l
    exact ⟨rfl, fun k hk => mget_commit_in s u l k hk, bytesKept_commit s u l, hfields.same .cores (by decide), hfields.same .links (by decide)⟩

end Sys2Proof
end

section
/-! SUPPORT. The landing of a packet's write counts activity too (O24). -/

namespace Sys2Proof

open Machine

/-- A packet of 64 bytes whose write to the first line of die 0's HBM asks for its channel. -/
def lineWriteEnd : PktEnd := ⟨0, 64, 0, 0, 0, false, 0, 0, true, false, false⟩

def lineWrite : Landing := ⟨0, 0, List.replicate 64 1, false, 0, 0, some lineWriteEnd⟩

/-- The channel is ready and clear, and its line counts as HBM activity (R516). -/
theorem lineWrite_counts :
    channelsReady State.reset (channelKeys 3 lineWrite.addr (lineWrite.addr + lineWrite.bytes.length)) = true ∧
      channelsClear State.reset lineWrite.due 4 (channelKeys 3 lineWrite.addr (lineWrite.addr + lineWrite.bytes.length)) = true ∧
      State.reset.act = [] ∧ (landOne State.reset 0 lineWrite).1.act ≠ [] := by decide +kernel

/-- Refutes O24: in `State.reset` the channel of `lineWrite` is ready and clear, and taking it changes the activity of the line's die beside
the channel, which the statement's frame leaves as it is. -/
theorem not_packetsAreDeliveredOrRefused : ¬ Obligations.PacketsAreDeliveredOrRefused := by
  intro h
  obtain ⟨hready, hclear, hbefore, hafter⟩ := lineWrite_counts
  obtain ⟨hask, -⟩ := h.2 State.reset 0 lineWrite lineWriteEnd (by decide) (by decide) rfl (by decide)
  have hkept : (landOne State.reset 0 lineWrite).1.act = State.reset.act := (hask rfl hready hclear).2.same .act (by decide)
  exact hafter (hkept.trans hbefore)

end Sys2Proof
end

section
/-! SUPPORT. What a stretched cycle remembers, counts and records (O36). -/

namespace Sys2Proof

open Machine

/-- The outcome of a die's command that is carried out at its cycle. -/
theorem onDie_next_tick {s w : State} {d c : Nat} {l : List Field} (hp : s.powered = true) (hd : d < dies s.variant) (h : Touches l (tick s c) w)
    (hl : l.all (fun f => decide (f ≠ .pending ∧ f ≠ .variant)) = true) : ∃ t, onDie s d w = .next t ∧ Touches [.alertN] w t := by
  obtain ⟨t, ht, hend⟩ := done_next_tick hp h hl
  exact ⟨t, by rw [onDie, if_pos hd, ht], hend⟩

/-! ### A stretched cycle (R446) -/

/-- The entries that a record on its way may count: those of dropped records. -/
def dropKey (k : Nat) : Bool := k == rkey 0x7000 5 || k == rkey 0x7000 6

theorem dropsOnly_capture (s : State) (r : LogRec) : RegsKept dropKey s (capture s r) := regsKept_capture s r rfl rfl

theorem dropsOnly_closeCycle (s : State) (u : Nat) : RegsKept dropKey s (closeCycle s u) := by
  have hports : ∀ (t : State) (c : Nat) (l : List AddInc), RegsKept dropKey t (portsFault t u c l) := fun t c l =>
    .foldl (fun y k => by
      dsimp only
      split
      · exact .refl
      · exact dropsOnly_capture _ _) _ _
  have hcore : ∀ y, RegsKept dropKey s (setCore s u y) := fun y => .of_eq ((touches_setCore ..).same .regs (by decide))
  unfold closeCycle
  extract_lets x r y t
  split
  · exact hcore _
  · exact (hcore _).trans (hports t _ _)

theorem dropsOnly_closeCycles (u c n : Nat) : ∀ s : State, RegsKept dropKey s (closeCycles s u c n) := by
  induction n with
  | zero => exact fun _ => .refl
  | succ n ih =>
    intro s
    unfold closeCycles
    dsimp only
    split
    · exact (dropsOnly_closeCycle s u).trans (ih _)
    · exact .refl

theorem dropsOnly_adderTo (s : State) (u c : Nat) : RegsKept dropKey s (adderTo s u c) :=
  (dropsOnly_closeCycles u c _ s).trans (.of_eq ((touches_setCore ..).same .regs (by decide)))

theorem dropsOnly_settle (s : State) (u c : Nat) : RegsKept dropKey s (settle s u c) := by
  have hsignal : ∀ (t : State) (a : Nat) (d : QDesc), RegsKept dropKey t (signalDone t u a d) := fun t a d =>
    .of_eq ((touches_signalDone ..).same .regs (by decide))
  have hcore : ∀ y, RegsKept dropKey s (setCore s u y) := fun y => .of_eq ((touches_setCore ..).same .regs (by decide))
  unfold settle
  extract_lets x due t
  refine ((hcore _).trans (.foldl (fun t a => ?_) _ _)).trans (dropsOnly_adderTo _ _ _)
  exact (dropsOnly_adderTo _ _ _).trans (hsignal _ _ _)

theorem dropsOnly_stretchCores (s : State) (g : Nat) : RegsKept dropKey s (stretchCores s g) := by
  unfold stretchCores
  refine .foldl (fun t i => ?_) _ _
  dsimp only
  split
  · exact .refl
  · have hsettled : ∀ u c, RegsKept dropKey t (settle (meetThrottle t u) u c) := fun u c =>
      RegsKept.trans (.of_eq ((touches_meetThrottle ..).same .regs (by decide))) (dropsOnly_settle _ _ _)
    split
    · exact hsettled _ _
    · exact (hsettled _ _).trans (.of_eq ((touches_setCore ..).same .regs (by decide)))

theorem touches_stretchCores (s : State) (g : Nat) : Touches settleFields s (stretchCores s g) := by
  unfold stretchCores
  refine .foldl _ (fun t i => ?_) _ _
  dsimp only
  split
  · exact .refl
  · have hsettled : ∀ u c, Touches settleFields t (settle (meetThrottle t u) u c) := fun u c =>
      ((touches_meetThrottle ..).mono rfl).trans (touches_settle ..)
    exact .ite (hsettled ..) ((hsettled ..).trans ((touches_setCore ..).mono rfl))

theorem touches_shiftPosts (s : State) (g : Nat) : Touches [.cores, .chReady] s (shiftPosts s g) := by
  refine ⟨fun f hf => ?_⟩
  cases f
  case cores | chReady => simp at hf
  all_goals rfl

theorem touches_shiftUnits (s : State) (g : Nat) : Touches [.parts] s (shiftUnits s g) := by
  refine ⟨fun f hf => ?_⟩
  cases f
  case parts => simp at hf
  all_goals rfl

/-- A state in which other cycles are the stretched ones of the beat. -/
def remembering (s : State) (m : KMap (List Nat)) : State := { s with stretchNow := m }

theorem touches_remembering (s : State) (m : KMap (List Nat)) : Touches [.stretchNow] s (remembering s m) := by
  refine ⟨fun f hf => ?_⟩
  cases f
  case stretchNow => simp at hf
  all_goals rfl

/-- What stands still in region `g` waits. -/
def stretchShifted (s : State) (g : Nat) : State := shiftUnits (shiftPosts (stretchCores s g) g) g

theorem touches_stretchShifted (s : State) (g : Nat) : Touches (.chReady :: settleFields) s (stretchShifted s g) :=
  ((touches_stretchCores s g).mono rfl).trans (((touches_shiftPosts (stretchCores s g) g).mono rfl).trans ((touches_shiftUnits _ g).mono rfl))

theorem dropsOnly_stretchShifted (s : State) (g : Nat) : RegsKept dropKey s (stretchShifted s g) := by
  have hregs : (stretchShifted s g).regs = (stretchCores s g).regs :=
    ((touches_shiftUnits (shiftPosts (stretchCores s g) g) g).same .regs (by decide)).trans
      ((touches_shiftPosts (stretchCores s g) g).same .regs (by decide))
  exact RegsKept.trans (dropsOnly_stretchCores s g) (RegsKept.of_eq hregs)

/-- What stands still in region `g` waits, and the cycle is remembered after those of the beat so far. -/
def stretchHeld (s : State) (g : Nat) (old : List Nat) : State :=
  remembering (stretchShifted s g) (kset s.stretchNow g (old ++ [absNow s]))

theorem touches_stretchHeld (s : State) (g : Nat) (old : List Nat) : Touches (.stretchNow :: .chReady :: settleFields) s (stretchHeld s g old) :=
  ((touches_stretchShifted s g).mono rfl).trans ((touches_remembering ..).mono rfl)

theorem dropsOnly_stretchHeld (s : State) (g : Nat) (old : List Nat) : RegsKept dropKey s (stretchHeld s g old) :=
  RegsKept.trans (dropsOnly_stretchShifted s g) (RegsKept.of_eq ((touches_remembering (stretchShifted s g) _).same .regs (by decide)))

/-- The stretched cycle is counted and widens the table of the most of a beat. -/
def stretchCounted (s : State) (d r n : Nat) : State :=
  let t := bump s (0x7858 + d) 6 8 5 1
  wtab t (0x2010 + d) 4 2 r (max n (rtab t (0x2010 + d) 4 2 r))

theorem touches_stretchCounted (s : State) (d r n : Nat) : Touches [.regs, .faultq, .blobs] s (stretchCounted s d r n) :=
  ((touches_bump ..).mono rfl).trans ((touches_wtab ..).mono rfl)

/-- More cycles than the beat may have are recorded, once in a beat. -/
def stretchRecorded (s : State) (d r n : Nat) : State :=
  if rg s 0x2000 8 < n ∧ 4 * d + r ∉ s.stretchHit then
    capture { s with stretchHit := s.stretchHit ++ [4 * d + r] }
      (mkRec s 3 0x0501 (d * 256) (leBytes 1 d ++ leBytes 1 r ++ leBytes 2 (rg s 0x2000 8)) (2 ^ d))
  else s

theorem touches_with_stretchHit (s : State) (l : List Nat) : Touches [.stretchHit] s { s with stretchHit := l } := by
  refine ⟨fun f hf => ?_⟩
  cases f
  case stretchHit => simp at hf
  all_goals rfl

theorem touches_stretchRecorded (s : State) (d r n : Nat) :
    Touches [.parts, .capSeen, .faultq, .regs, .stretchHit] s (stretchRecorded s d r n) :=
  .ite (((touches_with_stretchHit ..).mono rfl).trans ((touches_capture ..).mono rfl)) .refl

theorem dropsOnly_stretchRecorded (s : State) (d r n : Nat) : RegsKept dropKey s (stretchRecorded s d r n) := by
  unfold stretchRecorded
  split
  · exact (RegsKept.of_eq ((touches_with_stretchHit s _).same .regs (by decide))).trans (dropsOnly_capture _ _)
  · exact .refl

/-- The cycles of the beat in which a region was stretched. -/
def stretchedSoFar (s : State) (g : Nat) : List Nat := (kget s.stretchNow g).getD []

theorem stretchedCycle_of_new {s : State} {d r : Nat} (h : absNow s ∉ stretchedSoFar s (4 * d + r)) :
    stretchedCycle s d r =
      let old := stretchedSoFar s (4 * d + r)
      stretchRecorded (stretchCounted (stretchHeld s (4 * d + r) old) d r (old.length + 1)) d r (old.length + 1) := by
  unfold stretchedCycle
  exact if_neg h

theorem stretchedCycle_of_known {s : State} {d r : Nat} (h : absNow s ∈ stretchedSoFar s (4 * d + r)) : stretchedCycle s d r = s := if_pos h

/-- What a new stretched cycle leaves: it is remembered, counted, and nothing else changes but what waits for it. -/
theorem stretched_of_new {s : State} {d r : Nat} (h : absNow s ∉ stretchedSoFar s (4 * d + r)) :
    (stretchedCycle s d r).stretchNow = kset s.stretchNow (4 * d + r) (stretchedSoFar s (4 * d + r) ++ [absNow s]) ∧
      rg (stretchedCycle s d r) (0x7858 + d) 6 = counted (rg s (0x7858 + d) 6) 1 ∧
      Touches (.stretchHit :: .blobs :: .regs :: .stretchNow :: .chReady :: settleFields) s (stretchedCycle s d r) := by
  rw [stretchedCycle_of_new h]
  have hheld := touches_stretchHeld s (4 * d + r) (stretchedSoFar s (4 * d + r))
  have hdrop := dropsOnly_stretchHeld s (4 * d + r) (stretchedSoFar s (4 * d + r))
  have hnow : (stretchHeld s (4 * d + r) (stretchedSoFar s (4 * d + r))).stretchNow =
      kset s.stretchNow (4 * d + r) (stretchedSoFar s (4 * d + r) ++ [absNow s]) := rfl
  extract_lets old
  generalize stretchHeld s (4 * d + r) old = w at hheld hdrop hnow ⊢
  have hcounted := touches_stretchCounted w d r (old.length + 1)
  have hrec := touches_stretchRecorded (stretchCounted w d r (old.length + 1)) d r (old.length + 1)
  refine ⟨?_, ?_, (hheld.mono rfl).trans ((hcounted.mono rfl).trans (hrec.mono rfl))⟩
  · rw [hrec.same .stretchNow (by decide), hcounted.same .stretchNow (by decide), hnow]
  · have hkey : dropKey (rkey (0x7858 + d) 6) = false := by
      simp only [dropKey, Bool.or_eq_false_iff, beq_eq_false_iff_ne, rkey]
      omega
    have hrecorded := (dropsOnly_stretchRecorded (stretchCounted w d r (old.length + 1)) d r (old.length + 1)).rg
      (hrec.same .variant (by decide)) _ _ hkey
    have hbump : rg (stretchCounted w d r (old.length + 1)) (0x7858 + d) 6 = rg (bump w (0x7858 + d) 6 8 5 1) (0x7858 + d) 6 :=
      (touches_wtab ..).rg_eq (by decide) (by decide) _ _
    rw [hrecorded, hbump, rg_bump_same (by decide) (by decide) (by decide) (by omega), hdrop.rg (hheld.same .variant (by decide)) _ _ hkey]

end Sys2Proof
end

section
/-! SUPPORT. What crossings, patrols and records do, and the settlement of O36. -/

namespace Sys2Proof

open Machine

/-! ### A stretched cycle (R446) -/

theorem exec_stretchedCycle {s : State} {d r c : Nat} (hr : r < 4) : exec (.stretchedCycle d r c) s = onDie s d (stretchedCycle (tick s c) d r) :=
  if_neg (by omega)

theorem stretchedCycle_remembers {s : State} {d r c : Nat} (hp : s.powered = true) (hd : d < dies s.variant) (hr : r < 4)
    (h : absNow (tick s c) ∉ (kget (tick s c).stretchNow (4 * d + r)).getD []) : ∃ t, exec (.stretchedCycle d r c) s = .next t ∧
      kget t.stretchNow (4 * d + r) = some ((kget (tick s c).stretchNow (4 * d + r)).getD [] ++ [absNow (tick s c)]) ∧
      (∀ g, g ≠ 4 * d + r → kget t.stretchNow g = kget (tick s c).stretchNow g) ∧
      rg t (0x7858 + d) 6 = counted (rg (tick s c) (0x7858 + d) 6) 1 ∧
      Touches [.cores, .chReady, .faultq, .capSeen, .regs, .blobs, .parts, .stretchNow, .stretchHit, .alertN] (tick s c) t := by
  obtain ⟨hnow, hcount, htouch⟩ := stretched_of_new (d := d) (r := r) h
  obtain ⟨t, ht, hend⟩ := onDie_next_tick hp hd htouch (by decide)
  have hsame : t.stretchNow = _ := (hend.same .stretchNow (by decide)).trans hnow
  refine ⟨t, (exec_stretchedCycle hr).trans ht, ?_, ?_, ?_, (htouch.mono rfl).trans (hend.mono rfl)⟩
  · rw [hsame, kget_kset_same]
    rfl
  · intro g hg
    rw [hsame, kget_kset_other _ _ _ _ hg]
  · rw [hend.rg_eq (by decide) (by decide), hcount]

theorem stretchedCycle_again {s : State} {d r c : Nat} (hp : s.powered = true) (hd : d < dies s.variant) (hr : r < 4)
    (h : absNow (tick s c) ∈ (kget (tick s c).stretchNow (4 * d + r)).getD []) :
    ∃ t, exec (.stretchedCycle d r c) s = .next t ∧ Touches [.alertN] (tick s c) t := by
  obtain ⟨t, ht, hend⟩ := onDie_next_tick (l := []) (w := tick s c) hp hd .refl rfl
  rw [exec_stretchedCycle hr, stretchedCycle_of_known h]
  exact ⟨t, ht, hend⟩

/-! ### A record on its way -/

theorem capFull_of_room {s : State} {r : LogRec} (hlevel : 1 < r.level) (hroom : s.faultq.length < 64) : capFull s r = false := by
  have hle := List.length_filter_le (fun x : LogRec => decide (x.level ≤ 3) && x.unit / 256 % 4 == r.unit / 256 % 4) s.faultq
  simp only [capFull, Bool.or_eq_false_iff, Bool.and_eq_false_iff, decide_eq_false_iff_not]
  exact ⟨.inl (by omega), by omega⟩

theorem faultq_capture_of_room {s : State} {r : LogRec} (hlevel : 1 < r.level) (hroom : s.faultq.length < 64) :
    (capture s r).faultq = s.faultq ++ [r] := by
  have hnoted : (notePlanFault s r).faultq = s.faultq := (touches_notePlanFault s r).same .faultq (by decide)
  have hfull : capFull (notePlanFault s r) r = false := capFull_of_room hlevel (by rwa [hnoted])
  rw [capture, hfull, if_pos (.inr (by decide)), pushRec, hnoted]

/-! ### Elements of a table -/

theorem leAt_patch_self (l : List Byte) (o n v : Nat) : leAt (patch l o (leBytes n v)) o n = v % 256 ^ n := by
  have hpad : ((padTo o l).take o).length = o := by
    rw [List.length_take, padTo, List.length_append, List.length_replicate]
    omega
  have hskip : ((padTo o l).take o ++ leBytes n v).length = o + n := by rw [List.length_append, hpad, leBytes_length]
  rw [patch, leAt_append_left (by rw [hskip]), leAt_append_right (by rw [hpad]), hpad, Nat.sub_self, leAt_leBytes]
  simp

theorem rb_wb_same (s : State) (i j : Nat) (b : List Byte) : rb (wb s i j b) i j = b := by
  rw [rb, wb, kget_kset_same]

theorem rb_wb_other (s : State) {i j k l : Nat} (b : List Byte) (h : rkey k l ≠ rkey i j) : rb (wb s i j b) k l = rb s k l := by
  rw [rb, wb, kget_kset_other _ _ _ _ h]
  rfl

theorem rtab_wtab_same (s : State) (i j n k v : Nat) : rtab (wtab s i j n k v) i j n k = v % 256 ^ n := by
  rw [rtab, wtab, rb_wb_same, leAt_patch_self]

theorem rtab_wtab_other (s : State) {i j n k v i' j' : Nat} (n' k' : Nat) (h : rkey i' j' ≠ rkey i j) :
    rtab (wtab s i j n k v) i' j' n' k' = rtab s i' j' n' k' := by
  rw [rtab, wtab, rb_wb_other _ _ h, rtab]

theorem rtab_lt (s : State) (i j n k : Nat) : rtab s i j n k < 256 ^ n := leAt_lt ..

theorem Touches.rtab_eq {l : List Field} {s t : State} (h : Touches l s t) (hb : Field.blobs ∉ l) (hr : Field.regs ∉ l) (hv : Field.variant ∉ l)
    (i j n k : Nat) : rtab t i j n k = rtab s i j n k := by rw [rtab, h.rb_eq hb hr hv, rtab]

/-! ### The occupancy of a crossing (R445) -/

/-- The occupancy is kept with the cycle in which it was read. -/
def occupied (s : State) (d x occ : Nat) : State := { s with fifos := kset s.fifos (16 * d + x) (occ, absNow s) }

theorem touches_occupied (s : State) (d x occ : Nat) : Touches [.fifos] s (occupied s d x occ) := by
  refine ⟨fun f hf => ?_⟩
  cases f
  case fifos => simp at hf
  all_goals rfl

/-- OCC_MIN takes the occupancy in. -/
def occLow (s : State) (d x occ : Nat) : State := wtab s (0x2010 + d) 2 1 x (min occ (rtab s (0x2010 + d) 2 1 x))

/-- OCC_MAX takes the occupancy in. -/
def occHigh (s : State) (d x occ : Nat) : State := wtab s (0x2010 + d) 3 1 x (max occ (rtab s (0x2010 + d) 3 1 x))

/-- The record of a crossing that ran empty or full. -/
def slipRecord (s : State) (d x occ : Nat) : LogRec :=
  mkRec s 3 0x0502 (d * 256) (leBytes 1 d ++ leBytes 1 x ++ leBytes 1 occ) (2 ^ d)

/-- A state whose crossing's occupancy is kept and has widened the tables. -/
def occWidened (s : State) (d x occ : Nat) : State := occHigh (occLow (occupied s d x occ) d x occ) d x occ

theorem fifoRange_eq (s : State) (d x occ : Nat) : fifoRange s d x occ =
    if occ = 0 ∨ 8 ≤ occ then capture (occWidened s d x occ) (slipRecord (occWidened s d x occ) d x occ) else occWidened s d x occ := rfl

theorem touches_occWidened (s : State) (d x occ : Nat) : Touches [.fifos, .blobs] s (occWidened s d x occ) :=
  ((touches_occupied s d x occ).mono rfl).trans (((touches_wtab ..).mono rfl).trans ((touches_wtab ..).mono rfl))

theorem touches_fifoRange_widened (s : State) (d x occ : Nat) :
    Touches [.parts, .capSeen, .faultq, .regs] (occWidened s d x occ) (fifoRange s d x occ) := by
  rw [fifoRange_eq]
  exact .orKept .refl (touches_capture ..)

/-- An entry that is listed does not look at the configuration. -/
theorem rtab_of_listed {s t : State} {i j : Nat} (h : t.blobs = s.blobs) (hl : (kget s.blobs (rkey i j)).isSome = true) (n k : Nat) :
    rtab t i j n k = rtab s i j n k := by
  obtain ⟨b, hb⟩ := Option.isSome_iff_exists.1 hl
  rw [rtab, rtab, rb, rb, h, hb]

theorem listed_wtab (s : State) (i j n k v i' j' : Nat) (h : rkey i' j' = rkey i j ∨ (kget s.blobs (rkey i' j')).isSome = true) :
    (kget (wtab s i j n k v).blobs (rkey i' j')).isSome = true := by
  rw [wtab, wb, kget_kset]
  split
  · rfl
  · exact h.resolve_left ‹_›

theorem key_low_ne_high (d : Nat) : rkey (0x2010 + d) 2 ≠ rkey (0x2010 + d) 3 := by
  simp only [rkey]
  omega

theorem rtab_occWidened_low (s : State) {d x occ : Nat} (h : occ < 256) :
    rtab (occWidened s d x occ) (0x2010 + d) 2 1 x = min occ (rtab s (0x2010 + d) 2 1 x) := by
  have hlt := rtab_lt s (0x2010 + d) 2 1 x
  rw [occWidened, occHigh, rtab_wtab_other _ _ _ (key_low_ne_high d), occLow, rtab_wtab_same,
    (touches_occupied s d x occ).rtab_eq (by decide) (by decide) (by decide)]
  exact Nat.mod_eq_of_lt (by omega)

theorem rtab_occWidened_high (s : State) {d x occ : Nat} (h : occ < 256) :
    rtab (occWidened s d x occ) (0x2010 + d) 3 1 x = max occ (rtab s (0x2010 + d) 3 1 x) := by
  have hlt := rtab_lt s (0x2010 + d) 3 1 x
  rw [occWidened, occHigh, rtab_wtab_same, occLow, rtab_wtab_other _ _ _ (key_low_ne_high d).symm,
    (touches_occupied s d x occ).rtab_eq (by decide) (by decide) (by decide)]
  exact Nat.mod_eq_of_lt (by omega)

theorem fifoNow_of_kept {s : State} {d x occ : Nat} (h : kget s.fifos (16 * d + x) = some (occ, absNow s)) : fifoNow s d x = occ := by
  rw [fifoNow, h]
  dsimp only
  split <;> omega

theorem fifoRange_widens {s : State} {d x occ c : Nat} (hp : s.powered = true) (hd : d < dies s.variant) (hx : x < 6 + 2 * dies s.variant)
    (ho : occ < 256) : ∃ t, exec (.fifoRange d x occ c) s = .next t ∧
      rtab t (0x2010 + d) 2 1 x = min occ (rtab (tick s c) (0x2010 + d) 2 1 x) ∧
      rtab t (0x2010 + d) 3 1 x = max occ (rtab (tick s c) (0x2010 + d) 3 1 x) ∧ fifoNow t d x = occ ∧
      (0 < occ → occ < 8 → t.faultq = (tick s c).faultq) ∧
      (occ = 0 ∨ 8 ≤ occ → (tick s c).faultq.length < 64 → ∃ r : LogRec, t.faultq = (tick s c).faultq ++ [r] ∧ r.code = 0x0502 ∧ r.level = 3 ∧
        r.detail = [BitVec.ofNat 8 d, BitVec.ofNat 8 x, BitVec.ofNat 8 occ]) ∧
      Touches [.fifos, .blobs, .faultq, .capSeen, .regs, .parts, .alertN] (tick s c) t := by
  have hwide := touches_occWidened (tick s c) d x occ
  have hrange := touches_fifoRange_widened (tick s c) d x occ
  have hframe : Touches [.fifos, .blobs, .faultq, .capSeen, .regs, .parts] (tick s c) (fifoRange (tick s c) d x occ) :=
    (hwide.mono rfl).trans (hrange.mono rfl)
  obtain ⟨t, ht, hend⟩ := onDie_next_tick hp hd hframe (by decide)
  have hblobs : t.blobs = (occWidened (tick s c) d x occ).blobs := (hend.same .blobs (by decide)).trans (hrange.same .blobs (by decide))
  have hfifos : t.fifos = (occWidened (tick s c) d x occ).fifos := (hend.same .fifos (by decide)).trans (hrange.same .fifos (by decide))
  have hqueue : t.faultq = (fifoRange (tick s c) d x occ).faultq := hend.same .faultq (by decide)
  have hbefore : (occWidened (tick s c) d x occ).faultq = (tick s c).faultq := hwide.same .faultq (by decide)
  refine ⟨t, (if_neg (by omega)).trans ht, ?_, ?_, ?_, ?_, ?_, (hframe.mono rfl).trans (hend.mono rfl)⟩
  · rw [rtab_of_listed hblobs (listed_wtab _ _ _ _ _ _ _ _ (.inr (listed_wtab _ _ _ _ _ _ _ _ (.inl rfl)))), rtab_occWidened_low _ ho]
  · rw [rtab_of_listed hblobs (listed_wtab _ _ _ _ _ _ _ _ (.inl rfl)), rtab_occWidened_high _ ho]
  · have hkept : kget t.fifos (16 * d + x) = some (occ, absNow (tick s c)) := by
      rw [hfifos]
      exact kget_kset_same ..
    refine fifoNow_of_kept ?_
    rwa [hend.absNow_eq (by decide) (by decide), hframe.absNow_eq (by decide) (by decide)]
  · intro hlow hhigh
    rw [hqueue, fifoRange_eq, if_neg (by omega), hbefore]
  · intro hslip hroom
    rw [← hbefore] at hroom ⊢
    refine ⟨slipRecord (occWidened (tick s c) d x occ) d x occ, ?_, rfl, rfl, rfl⟩
    rw [hqueue, fifoRange_eq, if_pos hslip, faultq_capture_of_room (show 1 < 3 by decide) hroom]

/-! ### The patrol (R332) -/

/-- The line of its bank that the patrol stands at. -/
def patrolAt (s : State) (d ch : Nat) : Nat := (kget s.patrol (64 * d + ch)).getD 0

/-- The address of line `i` of channel `ch` in the die's HBM. -/
def lineAt (d ch i : Nat) : Nat := d * dieHbm + i * 4096 + ch * 64

/-- The channel's patrol moves on to the next line. -/
def patrolOn (s : State) (d ch : Nat) : State :=
  { s with patrol := kput 0 s.patrol (64 * d + ch) ((patrolAt s d ch + 1) % (dieHbm / 4096)) }

/-- What the patrol does with the line it read. -/
def patrolFound (s : State) (d ch a : Nat) : State :=
  match kget s.ecc a with
  | some 2 => capture s (mkRec s 3 0x0303 (d * 256) (leBytes 1 3 ++ leBytes 5 a ++ leBytes 1 ch ++ leBytes 8 0) (2 ^ d))
  | some _ => bumpTab (bump { s with ecc := kdel s.ecc a } (0x4010 + d) 6 12 5 1) (0x4010 + d) 11 ch 12 10 1
  | none => s

theorem patrolLine_eq (s : State) (d ch : Nat) : patrolLine s d ch = patrolFound (patrolOn s d ch) d ch (lineAt d ch (patrolAt s d ch)) := rfl

theorem touches_patrolOn (s : State) (d ch : Nat) : Touches [.patrol] s (patrolOn s d ch) := by
  refine ⟨fun f hf => ?_⟩
  cases f
  case patrol => simp at hf
  all_goals rfl

theorem touches_with_ecc (s : State) (m : KMap Nat) : Touches [.ecc] s { s with ecc := m } := by
  refine ⟨fun f hf => ?_⟩
  cases f
  case ecc => simp at hf
  all_goals rfl

/-- The patrol's one effect on the storage errors: a correctable error of the line it read is gone. -/
theorem patrolFound_spec (s : State) (d ch a : Nat) :
    Touches [.ecc, .regs, .blobs, .faultq, .capSeen, .parts] s (patrolFound s d ch a) ∧
      (∀ k, kget s.ecc k = none → kget (patrolFound s d ch a).ecc k = none) ∧
      (∀ k, k ≠ a → kget (patrolFound s d ch a).ecc k = kget s.ecc k) ∧
      (kget s.ecc a = some 1 → kget (patrolFound s d ch a).ecc a = none) := by
  have hcorrected : ∀ t : State, t = bumpTab (bump { s with ecc := kdel s.ecc a } (0x4010 + d) 6 12 5 1) (0x4010 + d) 11 ch 12 10 1 →
      Touches [.ecc, .regs, .blobs, .faultq, .capSeen, .parts] s t ∧ t.ecc = kdel s.ecc a := by
    rintro t rfl
    have hcount : Touches [.regs, .blobs, .faultq] { s with ecc := kdel s.ecc a }
        (bumpTab (bump { s with ecc := kdel s.ecc a } (0x4010 + d) 6 12 5 1) (0x4010 + d) 11 ch 12 10 1) :=
      ((touches_bump ..).mono rfl).trans (touches_bumpTab ..)
    exact ⟨((touches_with_ecc s _).mono rfl).trans (hcount.mono rfl), hcount.same .ecc (by decide)⟩
  unfold patrolFound
  split
  next h2 =>
    have hrec := touches_capture s (mkRec s 3 0x0303 (d * 256) (leBytes 1 3 ++ leBytes 5 a ++ leBytes 1 ch ++ leBytes 8 0) (2 ^ d))
    have hecc := hrec.same .ecc (by decide)
    refine ⟨hrec.mono rfl, fun k hk => ?_, fun k _ => ?_, fun h => ?_⟩
    · exact (congrArg (kget · k) hecc).trans hk
    · exact congrArg (kget · k) hecc
    · simp [h2] at h
  next v h2 =>
    obtain ⟨htouch, hecc⟩ := hcorrected _ rfl
    refine ⟨htouch, fun k hk => ?_, fun k hk => ?_, fun _ => ?_⟩ <;> rw [hecc, kget_kdel]
    · rw [hk, ite_self]
    · rw [if_neg hk]
    · rw [if_pos rfl]
  next h0 => exact ⟨.refl, fun _ h => h, fun _ _ => rfl, fun _ => h0⟩

theorem patrolAt_patrolOn (s : State) (d ch : Nat) : patrolAt (patrolOn s d ch) d ch = (patrolAt s d ch + 1) % (dieHbm / 4096) := by
  unfold patrolAt patrolOn
  rw [kget_kput, if_pos rfl, ← patrolAt]

theorem patrolAt_patrolLine (s : State) (d ch : Nat) : patrolAt (patrolLine s d ch) d ch = (patrolAt s d ch + 1) % (dieHbm / 4096) := by
  have hpatrol : (patrolLine s d ch).patrol = (patrolOn s d ch).patrol := (patrolFound_spec (patrolOn s d ch) d ch _).1.same .patrol (by decide)
  rw [patrolAt, hpatrol, ← patrolAt, patrolAt_patrolOn]

/-- One line of the patrol: the line it stands at is corrected, no error comes, and no other line changes. -/
theorem patrolLine_spec (s : State) (d ch : Nat) :
    Touches [.patrol, .ecc, .regs, .blobs, .faultq, .capSeen, .parts] s (patrolLine s d ch) ∧
      (∀ k, kget s.ecc k = none → kget (patrolLine s d ch).ecc k = none) ∧
      (∀ k, k ≠ lineAt d ch (patrolAt s d ch) → kget (patrolLine s d ch).ecc k = kget s.ecc k) ∧
      (kget s.ecc (lineAt d ch (patrolAt s d ch)) = some 1 → kget (patrolLine s d ch).ecc (lineAt d ch (patrolAt s d ch)) = none) := by
  obtain ⟨htouch, hnone, hother, hfixed⟩ := patrolFound_spec (patrolOn s d ch) d ch (lineAt d ch (patrolAt s d ch))
  exact ⟨((touches_patrolOn s d ch).mono rfl).trans (htouch.mono rfl), hnone, hother, hfixed⟩

/-- The lines of the channel, `n` of them, one after another. -/
def patrolLines (s : State) (d ch : Nat) : Nat → State
  | 0 => s
  | n + 1 => patrolLine (patrolLines s d ch n) d ch

/-- Lines in sequence: the patrol stands `n` further, and a correctable error of the lines it passed is gone. -/
theorem patrolLines_spec {s : State} {d ch : Nat} (hi : patrolAt s d ch < dieHbm / 4096) (n : Nat) :
    Touches [.patrol, .ecc, .regs, .blobs, .faultq, .capSeen, .parts] s (patrolLines s d ch n) ∧
      patrolAt (patrolLines s d ch n) d ch = (patrolAt s d ch + n) % (dieHbm / 4096) ∧
      (∀ a, kget s.ecc a = some 1 → kget (patrolLines s d ch n).ecc a = some 1 ∨ kget (patrolLines s d ch n).ecc a = none) ∧
      ∀ k, k < n → kget s.ecc (lineAt d ch ((patrolAt s d ch + k) % (dieHbm / 4096))) = some 1 →
        kget (patrolLines s d ch n).ecc (lineAt d ch ((patrolAt s d ch + k) % (dieHbm / 4096))) = none := by
  induction n with
  | zero => exact ⟨.refl, (Nat.mod_eq_of_lt hi).symm, fun a h => .inl h, fun k hk => absurd hk (Nat.not_lt_zero k)⟩
  | succ n ih =>
    obtain ⟨htouch, hat, hone, hgone⟩ := ih
    obtain ⟨htouch', hnone, hother, hfixed⟩ := patrolLine_spec (patrolLines s d ch n) d ch
    rw [hat] at hother hfixed
    have hstep : ∀ a, kget s.ecc a = some 1 →
        kget (patrolLines s d ch (n + 1)).ecc a = some 1 ∨ kget (patrolLines s d ch (n + 1)).ecc a = none := by
      intro a ha
      obtain h1 | h0 := hone a ha
      · by_cases hline : a = lineAt d ch ((patrolAt s d ch + n) % (dieHbm / 4096))
        · exact .inr (hline ▸ hfixed (hline ▸ h1))
        · exact .inl ((hother a hline).trans h1)
      · exact .inr (hnone a h0)
    refine ⟨htouch.trans htouch', ?_, hstep, fun k hk hk1 => ?_⟩
    · rw [patrolLines, patrolAt_patrolLine, hat, Nat.mod_add_mod, Nat.add_assoc]
    · obtain hlt | rfl := Nat.lt_succ_iff_lt_or_eq.1 hk
      · exact hnone _ (hgone k hlt hk1)
      · obtain h1 | h0 := hone _ hk1
        · exact hfixed h1
        · exact hnone _ h0

/-- The window in which the channel was last patrolled is this one. -/
def patrolNoted (s : State) (d ch : Nat) : State := { s with patrolled := kset s.patrolled (64 * d + ch) ((refreshWindow s).getD 0) }

theorem touches_patrolNoted (s : State) (d ch : Nat) : Touches [.patrolled] s (patrolNoted s d ch) := by
  refine ⟨fun f hf => ?_⟩
  cases f
  case patrolled => simp at hf
  all_goals rfl

theorem patrolFour_eq (s : State) (d ch : Nat) : patrolFour s d ch = patrolLines (patrolNoted s d ch) d ch 4 := rfl

theorem exec_hbmPatrol {s : State} {d ch c : Nat} (hc : ch < 64) :
    exec (.hbmPatrol d ch c) s = onDie s d (if patrols (tick s c) d ch then patrolFour (tick s c) d ch else tick s c) := if_neg (by omega)

theorem hbmPatrol_of_due {s : State} {d ch c : Nat} (hp : s.powered = true) (hd : d < dies s.variant) (hc : ch < 64)
    (hdue : patrols (tick s c) d ch = true) (hi : patrolAt (tick s c) d ch < dieHbm / 4096) : ∃ t, exec (.hbmPatrol d ch c) s = .next t ∧
      kget t.patrolled (64 * d + ch) = refreshWindow (tick s c) ∧
      (∀ k, k < 4 → kget (tick s c).ecc (lineAt d ch ((patrolAt (tick s c) d ch + k) % (dieHbm / 4096))) = some 1 →
        kget t.ecc (lineAt d ch ((patrolAt (tick s c) d ch + k) % (dieHbm / 4096))) = none) ∧
      patrolAt t d ch = (patrolAt (tick s c) d ch + 4) % (dieHbm / 4096) ∧
      Touches [.patrol, .patrolled, .ecc, .regs, .blobs, .faultq, .capSeen, .parts, .alertN] (tick s c) t := by
  have hnoted := touches_patrolNoted (tick s c) d ch
  obtain ⟨htouch, hat, -, hgone⟩ := patrolLines_spec (s := patrolNoted (tick s c) d ch) hi 4
  obtain ⟨t, ht, hend⟩ := onDie_next_tick hp hd ((hnoted.mono rfl).trans (htouch.mono rfl) :
    Touches [.patrol, .patrolled, .ecc, .regs, .blobs, .faultq, .capSeen, .parts] (tick s c) _) (by decide)
  have hpatrol : patrolAt t d ch = patrolAt (patrolLines (patrolNoted (tick s c) d ch) d ch 4) d ch := by
    rw [patrolAt, hend.same .patrol (by decide), patrolAt]
  have hwindow : (refreshWindow (tick s c)).isSome = true := by
    simp only [patrols, Bool.and_eq_true] at hdue
    exact hdue.1.1
  refine ⟨t, ?_, ?_, fun k hk h1 => ?_, hpatrol.trans hat, (hnoted.mono rfl).trans ((htouch.mono rfl).trans (hend.mono rfl))⟩
  · rw [exec_hbmPatrol hc, if_pos hdue, patrolFour_eq, ht]
  · obtain ⟨n, hn⟩ := Option.isSome_iff_exists.1 hwindow
    rw [hend.same .patrolled (by decide), htouch.same .patrolled (by decide), patrolNoted, kget_kset_same, hn, Option.getD_some]
  · rw [hend.same .ecc (by decide)]
    exact hgone k hk h1

theorem hbmPatrol_idle {s : State} {d ch c : Nat} (hp : s.powered = true) (hd : d < dies s.variant) (hc : ch < 64)
    (hdue : patrols (tick s c) d ch = false) : ∃ t, exec (.hbmPatrol d ch c) s = .next t ∧ Touches [.alertN] (tick s c) t := by
  obtain ⟨t, ht, hend⟩ := onDie_next_tick (l := []) (w := tick s c) hp hd .refl rfl
  exact ⟨t, by rw [exec_hbmPatrol hc, hdue, if_neg Bool.false_ne_true, ht], hend⟩

/-! ### Records reach the log (R630 to R646) -/

theorem done_next_of {s w : State} {l : List Field} (hp : s.powered = true) (h : Touches l s w)
    (hl : l.all (fun f => decide (f ≠ .pending ∧ f ≠ .variant)) = true) : ∃ t, done s w = .next t ∧ Touches [.alertN] w t := by
  have hnot : ∀ f ∈ l, f ≠ .pending ∧ f ≠ .variant := fun f hf => by simpa using List.all_eq_true.1 hl f hf
  exact done_next hp (h.same .pending fun hf => (hnot _ hf).1 rfl) (h.same .variant fun hf => (hnot _ hf).2 rfl)

/-- The record leaves the queue. -/
def recordTaken (s : State) (r : LogRec) : State := { s with faultq := s.faultq.erase r }

theorem touches_recordTaken (s : State) (r : LogRec) : Touches [.faultq] s (recordTaken s r) := by
  refine ⟨fun f hf => ?_⟩
  cases f
  case faultq => simp at hf
  all_goals rfl

theorem faultRecord_of_first {s : State} {r : LogRec} (h : firstRec s s.faultq = some r) : faultRecord s = raise (recordTaken s r) r := by
  rw [faultRecord, h]
  rfl

theorem touches_faultRecord_first {s : State} {r : LogRec} (h : firstRec s s.faultq = some r) :
    Touches (.parts :: .links :: logFields) s (faultRecord s) := by
  rw [faultRecord_of_first h]
  exact ((touches_recordTaken s r).mono rfl).trans (touches_raise_any ..)

theorem faultRecord_logs {s : State} {r : LogRec} (hp : s.powered = true) (h : firstRec s s.faultq = some r) (hmc : s.mcDown = false) :
    ∃ t, exec .faultRecord s = .next t ∧ t.logNum = s.logNum + 1 ∧ t.log.getLast? = some { r with num := s.logNum + 1 } ∧
      (3 ≤ r.cls → r.cls ≤ 5 → ∀ p ∈ concerns s r, planState s p = 3 → (Machine.partAt t p).alarm = true) ∧ t.mem = s.mem ∧
      t.cores = s.cores := by
  have hframe := touches_faultRecord_first h
  obtain ⟨t, ht, hend⟩ := done_next_of hp hframe (by decide)
  have hescalate := touches_escalate (logRec (recordTaken s r) r) r
  obtain ⟨hnum, hlast⟩ := logRec_appends (s := recordTaken s r) hmc r
  have heq : faultRecord s = escalate (logRec (recordTaken s r) r) r := faultRecord_of_first h
  refine ⟨t, ht, ?_, ?_, fun h3 h5 p hp hrun => ?_, (hend.same .mem (by decide)).trans (hframe.same .mem (by decide)),
    (hend.same .cores (by decide)).trans (hframe.same .cores (by decide))⟩
  · rw [hend.same .logNum (by decide), heq, hescalate.same .logNum (by decide), hnum]
    rfl
  · rw [hend.same .log (by decide), heq, hescalate.same .log (by decide), hlast]
    rfl
  · rw [hend.partAt_eq (by decide), faultRecord_of_first h]
    exact alarm_raise ⟨by omega, .inl ⟨h3, h5⟩⟩ hp hrun

theorem faultRecord_keeps {s : State} {r : LogRec} (hp : s.powered = true) (h : firstRec s s.faultq = some r) (hmc : s.mcDown = true)
    (hroom : s.kept.length < 256) : ∃ t, exec .faultRecord s = .next t ∧ t.kept = s.kept ++ [r] ∧ t.log = s.log ∧ t.mem = s.mem ∧
      t.cores = s.cores := by
  have hframe := touches_faultRecord_first h
  obtain ⟨t, ht, hend⟩ := done_next_of hp hframe (by decide)
  have hescalate := touches_escalate (logRec (recordTaken s r) r) r
  have heq : faultRecord s = escalate (logRec (recordTaken s r) r) r := faultRecord_of_first h
  have hkept : logRec (recordTaken s r) r = { recordTaken s r with kept := s.kept ++ [r] } := by
    unfold logRec
    exact (if_pos hmc).trans (if_pos hroom)
  refine ⟨t, ht, ?_, ?_, (hend.same .mem (by decide)).trans (hframe.same .mem (by decide)), (hend.same .cores (by decide)).trans
    (hframe.same .cores (by decide))⟩
  · rw [hend.same .kept (by decide), heq, hescalate.same .kept (by decide), hkept]
  · rw [hend.same .log (by decide), heq, hescalate.same .log (by decide), hkept]
    rfl

theorem faultRecord_idle {s : State} (hp : s.powered = true) (h : s.faultq = []) : ∃ t, exec .faultRecord s = .next t ∧ Touches [.alertN] s t := by
  have hsame : faultRecord s = s := by
    rw [faultRecord, h]
    rfl
  obtain ⟨t, ht, hend⟩ := done_next_of hp (Touches.refl (l := []) (s := s)) rfl
  exact ⟨t, (congrArg (done s) hsame).trans ht, hend⟩

/-- Settles O36, one clause for each of the four monitors and of the record's ends. -/
theorem monitorsAndFaultRecords : Obligations.MonitorsAndFaultRecords := fun _ hp =>
  ⟨fun _ _ _ hd hr => ⟨stretchedCycle_remembers hp hd hr, stretchedCycle_again hp hd hr⟩, fun _ _ _ _ hd hx ho => fifoRange_widens hp hd hx ho,
    fun _ _ _ hd hc => ⟨hbmPatrol_of_due hp hd hc, hbmPatrol_idle hp hd hc⟩, fun _ h hmc => faultRecord_logs hp h hmc,
    fun _ h hmc hroom => faultRecord_keeps hp h hmc hroom, faultRecord_idle hp⟩

end Sys2Proof
end

section
/-! SUPPORT. What tells whether a plan uses a range of HBM reads neither counts nor channels (R466). -/

namespace Sys2Proof

open Machine

/-! ### What tells whether a plan uses a range of HBM (R466) -/

/-- The counts of flash errors, with their saturation, and of dropped records. -/
def flashCount (k : Nat) : Bool := k == rkey 0x4400 10 || k == rkey 0x4400 11 || k == rkey 0x7000 5 || k == rkey 0x7000 6

/-- An entry of another sub-index is no such count. -/
theorem not_flashCount (i : Nat) {j : Nat} (hj : j < 256) (h : j ∉ [5, 6, 10, 11]) : flashCount (rkey i j) = false := by
  simp only [List.mem_cons, List.not_mem_nil, or_false, not_or] at h
  simp only [flashCount, Bool.or_eq_false_iff, beq_eq_false_iff_ne, rkey]
  omega

/-- The entries of contexts are none either. -/
theorem not_flashCount_ctx (c : Nat) : flashCount (rkey (0x4440 + c) 10) = false := by
  simp only [flashCount, Bool.or_eq_false_iff, beq_eq_false_iff_ne, rkey]
  omega

/-- What plans hold is as it was: memories, cores, partitions and every entry but those counts. -/
structure UseRead (s t : State) : Prop where
  variant : t.variant = s.variant
  blobs : t.blobs = s.blobs
  cores : t.cores = s.cores
  parts : t.parts = s.parts
  mem : t.mem = s.mem
  ecc : t.ecc = s.ecc
  regs : RegsKept flashCount s t

theorem UseRead.of_touches {l : List Field} {s t : State} (h : Touches l s t)
    (hl : l.all (fun f => decide (f ∉ [Field.variant, .blobs, .cores, .parts, .mem, .ecc])) = true) (hr : RegsKept flashCount s t) : UseRead s t := by
  have hnot : ∀ f ∈ [Field.variant, .blobs, .cores, .parts, .mem, .ecc], f ∉ l := fun f hf hm => by
    have hout := List.all_eq_true.1 hl f hm
    exact (of_decide_eq_true hout) hf
  exact ⟨h.same .variant (hnot _ (by decide)), h.same .blobs (hnot _ (by decide)), h.same .cores (hnot _ (by decide)),
    h.same .parts (hnot _ (by decide)), h.same .mem (hnot _ (by decide)), h.same .ecc (hnot _ (by decide)), hr⟩

section Read

variable {s t : State} (h : UseRead s t)

include h

theorem UseRead.rg_sub (i : Nat) {j : Nat} (hj : j < 256) (hn : j ∉ [5, 6, 10, 11]) : rg t i j = rg s i j :=
  h.regs.rg h.variant i j (not_flashCount i hj hn)

theorem UseRead.rb_eq : rb t = rb s := by
  funext i j
  rw [rb, rb, h.blobs, h.variant, ownComp, ownComp, h.rg_sub 0x3400 (j := 1) (by decide) (by decide)]

theorem UseRead.partAt_eq : Machine.partAt t = Machine.partAt s := by
  funext p
  rw [Machine.partAt, Machine.partAt, h.parts]

theorem UseRead.coreAt_eq : coreAt t = coreAt s := by
  funext u
  rw [coreAt, coreAt, h.cores]

theorem UseRead.planState_eq : planState t = planState s := by
  funext p
  exact h.rg_sub _ (by decide) (by decide)

theorem UseRead.ctxState_eq : ctxState t = ctxState s := by
  funext c
  exact h.rg_sub _ (by decide) (by decide)

theorem UseRead.partLow_eq : partLow t = partLow s := by
  funext d
  rw [partLow, partLow, h.rg_sub 0x6000 (j := 3) (by decide) (by decide)]

theorem UseRead.partDies_eq : partDies t = partDies s := by
  funext p
  rw [partDies, partDies, h.variant, h.partLow_eq]

theorem UseRead.partitions_eq : partitions t = partitions s := by rw [partitions, partitions, h.variant, h.partLow_eq]

theorem UseRead.bindOf_eq : bindOf t = bindOf s := by
  funext p
  rw [bindOf, bindOf, h.rb_eq]

theorem UseRead.peek_eq : peek t = peek s := by
  funext a n
  rw [peek, peek, h.mem, h.ecc]

theorem UseRead.planHbm_eq : planHbm t = planHbm s := by
  funext p
  rw [planHbm, planHbm, regionHbm, regionHbm, partCores, partCores, h.partDies_eq, h.coreAt_eq, h.partAt_eq]

theorem UseRead.guardedHbm_eq : guardedHbm t = guardedHbm s := by
  funext p
  rw [guardedHbm, guardedHbm, h.partDies_eq, h.partAt_eq]

theorem UseRead.planHeld_eq : planHeld t = planHeld s := by
  funext p
  rw [planHeld, planHeld, h.planState_eq, h.partAt_eq]

theorem UseRead.stageInside_eq : stageInside t = stageInside s := by
  funext p r
  rw [stageInside, stageInside, h.partDies_eq]

theorem UseRead.bindDiesBad_eq : bindDiesBad t = bindDiesBad s := by
  funext p dm
  rw [bindDiesBad, bindDiesBad, h.partDies_eq]

theorem UseRead.dieStock_eq : dieStock t = dieStock s := by
  funext p n
  rw [dieStock, dieStock, h.partDies_eq]

theorem UseRead.bindCtxBad_eq : bindCtxBad t = bindCtxBad s := by
  funext b i
  rw [bindCtxBad, bindCtxBad, h.rg_sub _ (j := 1) (by decide) (by decide)]

theorem UseRead.mendBind_eq : mendBind t = mendBind s := by
  funext p img b
  rw [mendBind, mendBind, h.bindDiesBad_eq, h.dieStock_eq, h.bindCtxBad_eq]

theorem UseRead.relocOpen_eq : relocOpen t = relocOpen s := by
  funext p b img r
  unfold relocOpen
  rw [h.bindDiesBad_eq, h.bindCtxBad_eq]

theorem UseRead.ctxRange_eq : ctxRange t = ctxRange s := by
  funext c
  rw [ctxRange, ctxRange, h.regs.rg h.variant _ _ (not_flashCount_ctx c), h.rb_eq]

theorem UseRead.ctxLen_eq : ctxLen t = ctxLen s := by
  funext c
  rw [ctxLen, ctxLen, manifest, manifest, h.rb_eq]

end Read

theorem UseRead.relocate_eq {s t : State} (h : UseRead s t) : relocate t = relocate s := by
  funext b o img r
  unfold relocate
  rw [h.ctxRange_eq]

theorem UseRead.relocateAll_eq {s t : State} (h : UseRead s t) (b : List Byte) (o : Nat → Bool) (l : List Nat) :
    ∀ img, relocateAll t b o l img = relocateAll s b o l img := by
  induction l with
  | nil => exact fun _ => rfl
  | cons r rs ih =>
    intro img
    rw [relocateAll, relocateAll, h.relocate_eq]
    cases relocate s b o img r with
    | none => rfl
    | some i => exact ih i

theorem UseRead.loadingHbm_eq {s t : State} (h : UseRead s t) : loadingHbm t = loadingHbm s := by
  funext p
  unfold loadingHbm
  simp only [h.partAt_eq, h.peek_eq, h.stageInside_eq, h.mendBind_eq, h.bindOf_eq, h.relocOpen_eq, h.relocateAll_eq]

theorem UseRead.plansUse_eq {s t : State} (h : UseRead s t) : plansUse t = plansUse s := by
  funext a n
  unfold plansUse planInUse
  simp only [h.partitions_eq, h.guardedHbm_eq, h.planHeld_eq, h.planHbm_eq, h.planState_eq, h.loadingHbm_eq]

theorem UseRead.targetUse_eq {s t : State} (h : UseRead s t) (hg : t.grafts = s.grafts) (hr : t.graftRun = s.graftRun) :
    targetUse t = targetUse s := by
  funext c a n
  rw [targetUse, targetUse, otherCopies, otherCopies, h.ctxState_eq, h.ctxRange_eq, h.ctxLen_eq, hg, hr, h.plansUse_eq]

end Sys2Proof
end

section
/-! SUPPORT. Handles that wait in a queue, ends of context operations, and CTX_GRAFT (O52). -/

namespace Sys2Proof

open Machine

/-! ### Handles as they start and progress (R611) -/

theorem Touches.symm {l : List Field} {s t : State} (h : Touches l s t) : Touches l t s := by
  refine ⟨fun f hf => ?_⟩
  have hsame := h.same f hf
  cases f <;> exact hsame.symm

theorem touches_startHandle (s : State) (h : Nat) : Touches [.handles] s (startHandle s h) := by
  unfold startHandle
  split
  · exact .ite (touches_setHandle ..) .refl
  · exact .refl

theorem touches_progress (s : State) (h n : Nat) : Touches [.handles] s (progress s h n) := by
  unfold progress
  split
  · exact touches_setHandle ..
  · exact .refl

/-- A handle's record stays under its number when it is replaced. -/
theorem handleAt_setHandle {s : State} {h : Nat} {x y : Handle} (hx : handleAt s h = some x) (hy : y.h = x.h) :
    handleAt (setHandle s y) h = some y := by
  have hnum : x.h = h := (mem_handles_of_handleAt hx).2
  rw [handleAt, setHandle, List.find?_map]
  have htest : (fun z : Handle => z.h == h) ∘ (fun z => if z.h == y.h then y else z) = fun z => z.h == h := by
    funext z
    simp only [Function.comp, hy, hnum, beq_iff_eq]
    split <;> simp_all
  rw [htest, ← handleAt, hx, Option.map_some, hy, beq_self_eq_true, if_pos rfl]

theorem handleAt_progress {s : State} {h n : Nat} (hs : (handleAt s h).isSome = true) : (handleAt (progress s h n) h).isSome = true := by
  obtain ⟨x, hx⟩ := Option.isSome_iff_exists.1 hs
  rw [progress, hx]
  exact Option.isSome_iff_exists.2 ⟨_, handleAt_setHandle hx rfl⟩

theorem HandleWaits.progress {s : State} {h n : Nat} (hw : HandleWaits s h) : HandleWaits (progress s h n) h :=
  ⟨((touches_progress s h n).same .mcDown (by decide)).trans hw.1, handleAt_progress hw.2⟩

/-! ### What the end of a context operation leaves (R463, R468) -/

theorem rg_wr_sub (s : State) {i j v k l : Nat} (hj : j < 256) (hl : l < 256) (h : l ≠ j) : rg (wr s i j v) k l = rg s k l :=
  rg_wr_other _ _ _ _ _ _ (rkey_ne_of_sub hl hj h)

theorem touches_ctxFinish (s : State) (c h reason : Nat) (st : Status) :
    Touches (.regs :: .handles :: eventFields) s (ctxFinish s c h reason st) :=
  ((touches_wr ..).mono rfl).trans ((touches_finishHandle ..).mono rfl)

theorem rg_ctxFinish (s : State) (c h reason : Nat) (st : Status) (i j : Nat) :
    rg (ctxFinish s c h reason st) i j = rg (wr s (0x4440 + c) 9 reason) i j := (touches_finishHandle ..).rg_eq (by decide) (by decide) i j

theorem rg_ctxFinish_reason (s : State) (c h reason : Nat) (st : Status) : rg (ctxFinish s c h reason st) (0x4440 + c) 9 = reason := by
  rw [rg_ctxFinish, rg_wr_same]

theorem rg_ctxFinish_other (s : State) (c h reason : Nat) (st : Status) (i : Nat) {j : Nat} (hj : j < 256) (h9 : j ≠ 9) :
    rg (ctxFinish s c h reason st) i j = rg s i j := by rw [rg_ctxFinish, rg_wr_sub _ (by decide) hj h9]

theorem handleDone_ctxFinish {s : State} {c h reason : Nat} {st : Status} (hw : HandleWaits s h) :
    HandleDone (ctxFinish s c h reason st) h st reason [] :=
  handleDone_finishHandle (hw.of_touches (touches_wr ..) (by decide) (by decide)) st reason []

/-- The state of a context whose graft failed. -/
theorem ctxState_failGraft {s : State} {g : Graft} {reason after : Nat} {st : Status} (hc : ctxState s g.ctx = 3) :
    ctxState (failGraft s g reason st after) g.ctx = after := by
  rw [failGraft, if_pos hc, ctxState, rg_ctxFinish_other _ _ _ _ _ _ (by decide) (by decide), setCtxState, rg_wr_same]

theorem rg_failGraft_reason (s : State) (g : Graft) (reason : Nat) (st : Status) (after : Nat) :
    rg (failGraft s g reason st after) (0x4440 + g.ctx) 9 = reason := rg_ctxFinish_reason ..

theorem rg_failGraft_other (s : State) (g : Graft) (reason : Nat) (st : Status) (after i : Nat) {j : Nat} (hj : j < 256) (h9 : j ≠ 9)
    (h1 : j ≠ 1) : rg (failGraft s g reason st after) i j = rg s i j := by
  rw [failGraft, rg_ctxFinish_other _ _ _ _ _ _ hj h9]
  split
  · exact rg_wr_sub _ (by decide) hj h1
  · rfl

theorem handleDone_failGraft {s : State} {g : Graft} {reason after : Nat} {st : Status} (hw : HandleWaits s g.handle) :
    HandleDone (failGraft s g reason st after) g.handle st reason [] := by
  unfold failGraft
  refine handleDone_ctxFinish ?_
  split
  · exact hw.of_touches (touches_wr ..) (by decide) (by decide)
  · exact hw

/-! ### An INVOKE whose handle waits in a queue (R610, R611) -/

/-- An accepted INVOKE whose handle is QUEUED, as `invokeTakes_of_invoking` has it for one that runs at once. -/
theorem invokeTakes_of_invoking_queued {s : State} {i : Instr} {ses idx sub ty : Nat} {x : Session} {more : List Field} {P : State → Nat → Prop}
    {st : State → Session → Status} {eff : State → Session → Nat → State} (ho : OpenSession s ses 3 x)
    (hexec : exec i s = Machine.done s (invoking s ses idx sub ty true st eff)) (hst : st (admitted s ses) x = .ok)
    (hf : let w := (issue (admitted s ses) ty ses true).2
      Touches (more ++ [.handles, .handleSeq, .regs, .faultq]) w (eff w x (ty * 2 ^ 24 + s.handleSeq)))
    (hm : more.all (fun f => decide (f ≠ .pending ∧ f ≠ .variant ∧ f ≠ .heads)) = true)
    (hen : let w := (issue (admitted s ses) ty ses true).2
      rg (eff w x (ty * 2 ^ 24 + s.handleSeq)) 0x1000 8 = rg w 0x1000 8)
    (hh : ∃ r ∈ (eff (issue (admitted s ses) ty ses true).2 x (ty * 2 ^ 24 + s.handleSeq)).handles,
      r.h = ty * 2 ^ 24 + s.handleSeq ∧ ((∀ k ∈ s.handles, k.h ≠ ty * 2 ^ 24 + s.handleSeq) → r.ses = ses))
    (hP : ∀ t, Touches replyFields (eff (issue (admitted s ses) ty ses true).2 x (ty * 2 ^ 24 + s.handleSeq)) t →
      P t (ty * 2 ^ 24 + s.handleSeq)) : InvokeTakes s i ses idx sub ty more P := by
  have hrun : invoking s ses idx sub ty true st eff =
      invoking s ses idx sub ty false st (fun _ y h => eff (issue (admitted s ses) ty ses true).2 y h) := by
    rw [invoking, inSes_of_open ho, invoking, inSes_of_open ho]
    rfl
  have hissued : ∀ q, Touches (more ++ [.handles, .handleSeq, .regs, .faultq]) (admitted s ses) (issue (admitted s ses) ty ses q).2 :=
    fun q => (touches_issue ..).subset (List.subset_append_right ..)
  have hcount : ∀ q, rg (issue (admitted s ses) ty ses q).2 0x1000 8 = rg (admitted s ses) 0x1000 8 :=
    fun q => rg_issue _ _ _ _ (by decide) (by decide) (by decide)
  refine invokeTakes_of_invoking ho (hexec.trans (congrArg _ hrun)) hst ?_ hm ?_ hh hP
  · exact (hissued false).symm.trans ((hissued true).trans hf)
  · exact hen.trans ((hcount true).trans (hcount false).symm)

/-! ### CTX_GRAFT (R467, R548) -/

/-- The graft stands last in the queue, and its target partition is used. -/
def graftQueued (s : State) (c h : Nat) : State :=
  wr { s with grafts := s.grafts ++ [{ ctx := c, handle := h, target := rg s (0x4440 + c) 4, part := hbmPart s (rg s (0x4440 + c) 4) }] }
    (0x6040 + hbmPart s (rg s (0x4440 + c) 4)) 2 1

theorem touches_with_grafts (s : State) (l : List Graft) : Touches [.grafts] s { s with grafts := l } := by
  refine ⟨fun f hf => ?_⟩
  cases f
  case grafts => simp at hf
  all_goals rfl

theorem touches_graftQueued (s : State) (c h : Nat) : Touches [.grafts, .regs] s (graftQueued s c h) :=
  ((touches_with_grafts ..).mono rfl).trans ((touches_wr ..).mono rfl)

theorem hbmPart_congr {s t : State} (h : rg t 0x6000 3 = rg s 0x6000 3) (a : Nat) : hbmPart t a = hbmPart s a := by
  rw [hbmPart, hbmPart, partLow, partLow, h]

theorem ctxGraft_takes {s : State} {ses c : Nat} {x : Session} (ho : OpenSession s ses 3 x) (hc : c < 64)
    (hst : invStatus s x (0x4440 + c) 5 [] 0 (ctxState s c != 3 || targetUse s c (rg s (0x4440 + c) 4) (ctxLen s c))
      (targetBad s (rg s (0x4440 + c) 4) (ctxLen s c))
      (targetBusy s (rg s (0x4440 + c) 4) (ctxLen s c) || decide (8 ≤ s.grafts.length)) = .ok) :
    InvokeTakes s (.ctxGraft ses c) ses (0x4440 + c) 5 3 [.grafts] (fun t h =>
      rg t (0x6040 + hbmPart s (rg s (0x4440 + c) 4)) 2 = 1 ∧ t.grafts = s.grafts ++
        [{ ctx := c, handle := h, target := rg s (0x4440 + c) 4, part := hbmPart s (rg s (0x4440 + c) 4) }]) := by
  have hadm := touches_admitted s ses
  have hread : UseRead s (admitted s ses) := .of_touches hadm rfl (.of_eq (hadm.same .regs (by decide)))
  have hok : invStatus (admitted s ses) x (0x4440 + c) 5 [] 0
      (ctxState (admitted s ses) c != 3 ||
        targetUse (admitted s ses) c (rg (admitted s ses) (0x4440 + c) 4) (ctxLen (admitted s ses) c))
      (targetBad (admitted s ses) (rg (admitted s ses) (0x4440 + c) 4) (ctxLen (admitted s ses) c))
      (targetBusy (admitted s ses) (rg (admitted s ses) (0x4440 + c) 4) (ctxLen (admitted s ses) c) ||
        decide (8 ≤ (admitted s ses).grafts.length)) = .ok := by
    rw [hread.ctxState_eq, hread.targetUse_eq (hadm.same .grafts (by decide)) (hadm.same .graftRun (by decide)), rg_admitted, hread.ctxLen_eq]
    obtain ⟨a, n, heq⟩ := admitted_eq s ses
    rw [heq]
    exact hst
  have hissue := touches_issue (admitted s ses) 3 ses true
  have hgrafts : (issue (admitted s ses) 3 ses true).2.grafts = s.grafts :=
    (hissue.same .grafts (by decide)).trans ((touches_admitted s ses).same .grafts (by decide))
  have hrg : ∀ i j, j < 256 → i ≠ 0x8000 → i ≠ 0x7000 → rg (issue (admitted s ses) 3 ses true).2 i j = rg s i j :=
    fun i j hj h8 h7 => (rg_issue _ _ _ _ hj h8 h7).trans (rg_admitted ..)
  have htarget : rg (issue (admitted s ses) 3 ses true).2 (0x4440 + c) 4 = rg s (0x4440 + c) 4 := hrg _ _ (by decide) (by omega) (by omega)
  have hpart := hbmPart_congr (hrg 0x6000 3 (by decide) (by decide) (by decide)) (rg s (0x4440 + c) 4)
  have hseq : (admitted s ses).handleSeq = s.handleSeq := (touches_admitted s ses).same .handleSeq (by decide)
  have hhandles : (admitted s ses).handles = s.handles := (touches_admitted s ses).same .handles (by decide)
  obtain ⟨r, hr, hses⟩ := handleAt_issue (admitted s ses) 3 ses true
  rw [hseq] at hr hses
  rw [hhandles] at hses
  generalize hw : (issue (admitted s ses) 3 ses true).2 = w at *
  have hqueued := touches_graftQueued w c (3 * 2 ^ 24 + s.handleSeq)
  refine invokeTakes_of_invoking_queued (eff := fun v _ h => graftQueued v c h) ho rfl hok ?_ rfl ?_ ?_ fun t ht => ?_
  · rw [hw]
    exact hqueued.mono rfl
  · rw [hw]
    exact rg_wr_sub _ (by decide) (by decide) (by decide)
  · rw [hw, hqueued.same .handles (by decide)]
    obtain ⟨hmem, hnum⟩ := mem_handles_of_handleAt hr
    exact ⟨r, hmem, hnum, hses⟩
  · rw [hw] at ht
    have hlist : t.grafts = (graftQueued w c (3 * 2 ^ 24 + s.handleSeq)).grafts := ht.same .grafts (by decide)
    refine ⟨?_, ?_⟩
    · rw [ht.rg_eq (by decide) (by decide), graftQueued, htarget, hpart, rg_wr_same]
    · rw [hlist, ← hgrafts, ← hpart, ← htarget]
      rfl

end Sys2Proof
end

section
/-! SUPPORT. The checks of a graft as it starts (O52). -/

namespace Sys2Proof

open Machine

/-! ### GRAFT_START (R464, R467) -/

/-- The first graft has left the queue, its handle runs, and no chunk of it has landed. -/
def graftBegun (s : State) (g : Graft) (r : List Graft) : State := wr (startHandle { s with grafts := r } g.handle) (0x4440 + g.ctx) 8 0

theorem touches_graftBegun (s : State) (g : Graft) (r : List Graft) : Touches [.grafts, .handles, .regs] s (graftBegun s g r) :=
  ((touches_with_grafts s r).mono rfl).trans (((touches_startHandle ..).mono rfl).trans ((touches_wr ..).mono rfl))

theorem rg_graftBegun (s : State) (g : Graft) (r : List Graft) (i : Nat) {j : Nat} (hj : j < 256) (h : j ≠ 8) :
    rg (graftBegun s g r) i j = rg s i j := by
  have hstart : Touches [.grafts, .handles] s (startHandle { s with grafts := r } g.handle) :=
    ((touches_with_grafts s r).mono rfl).trans ((touches_startHandle ..).mono rfl)
  rw [graftBegun, rg_wr_sub _ (by decide) hj h, hstart.rg_eq (by decide) (by decide)]

theorem rb_graftBegun (s : State) (g : Graft) (r : List Graft) : rb (graftBegun s g r) = rb s := by
  have h := touches_graftBegun s g r
  funext i j
  rw [rb, rb, h.same .blobs (by decide), h.same .variant (by decide), ownComp, ownComp, rg_graftBegun s g r _ (by decide) (by decide)]

/-- The checks of a graft, in their order. -/
def graftChecked (w : State) (g : Graft) (ue : Bool) : State :=
  if w.keysBlocked ∨ ctxState w g.ctx ≠ 3 then failGraft w g 1 .state 3
  else if ue then failGraft (bump w 0x4400 10 11 0 1) g 9 .state 2
  else if !installerOk w (manifest w g.ctx) then failGraft w g 3 .denied 3
  else if merkleRoot (ctxAt w g.ctx).leaves ≠ ((manifest w g.ctx).drop 32).take 48 then failGraft w g 7 .state 2
  else { w with graftRun := some g }

/-- A graft may start: none runs, the rails are up, no flash test runs, and the MC takes it. -/
structure GraftStarts (s : State) (g : Graft) (r : List Graft) : Prop where
  run : s.graftRun = none
  queue : s.grafts = g :: r
  rails : s.railsUp = true
  test : s.flashTest = none
  mc : s.mcDown = false
  traffic : trafficHeld s g.target (ctxLen s g.ctx) = false

theorem graftStart_of_starts {s : State} {g : Graft} {r : List Graft} (h : GraftStarts s g r) (ue : Bool) :
    graftStart s ue = graftChecked (graftBegun s g r) g ue := by
  have hgo : ¬(!s.railsUp ∨ s.flashTest.isSome ∨ trafficHeld s g.target (ctxLen s g.ctx) ∨ s.mcDown) := by
    simp [h.rails, h.test, h.mc, h.traffic]
  unfold graftStart
  split
  next g' r' _ hqueue =>
    obtain ⟨rfl, rfl⟩ : g' = g ∧ r' = r := by simpa using hqueue.symm.trans h.queue
    exact if_neg hgo
  next hrun => simp [h.run] at hrun
  next hqueue => simp [h.queue] at hqueue

/-- What the checks read is as it was before the graft left the queue. -/
theorem checks_graftBegun (s : State) (g : Graft) (r : List Graft) :
    (graftBegun s g r).keysBlocked = s.keysBlocked ∧ ctxState (graftBegun s g r) g.ctx = ctxState s g.ctx ∧
      manifest (graftBegun s g r) g.ctx = manifest s g.ctx ∧ (∀ m, installerOk (graftBegun s g r) m = installerOk s m) ∧
      ctxAt (graftBegun s g r) g.ctx = ctxAt s g.ctx := by
  have hw := touches_graftBegun s g r
  refine ⟨hw.same .keysBlocked (by decide), rg_graftBegun s g r _ (by decide) (by decide), ?_, fun m => ?_, ?_⟩
  · rw [manifest, rb_graftBegun, manifest]
  · rw [installerOk, installerOk, rb_graftBegun, rg_graftBegun s g r _ (by decide) (by decide)]
  · rw [ctxAt, ctxAt, hw.same .ctxs (by decide)]

theorem touches_with_graftRun (s : State) (o : Option Graft) : Touches [.graftRun] s { s with graftRun := o } := by
  refine ⟨fun f hf => ?_⟩
  cases f
  case graftRun => simp at hf
  all_goals rfl

theorem touches_graftChecked (w : State) (g : Graft) (ue : Bool) :
    Touches ([.graftRun, .regs, .handles, .faultq] ++ eventFields) w (graftChecked w g ue) := by
  have hfail : ∀ (v : State) (reason : Nat) (st : Status) (after : Nat),
      Touches ([.graftRun, .regs, .handles, .faultq] ++ eventFields) v (failGraft v g reason st after) := fun _ _ _ _ =>
        (touches_failGraft ..).mono rfl
  unfold graftChecked
  exact .ite (hfail ..) (.ite (((touches_bump ..).mono rfl).trans (hfail ..))
    (.ite (hfail ..) (.ite (hfail ..) ((touches_with_graftRun ..).mono rfl))))

section Checked

variable {s : State} {g : Graft} {r : List Graft}

/-- The graft ends at once when the key engine blocks the keys or the context is not READY. -/
theorem graftChecked_blocked (h : s.keysBlocked = true ∨ ctxState s g.ctx ≠ 3) (ue : Bool) :
    graftChecked (graftBegun s g r) g ue = failGraft (graftBegun s g r) g 1 .state 3 := by
  obtain ⟨hkeys, hstate, -⟩ := checks_graftBegun s g r
  exact if_pos (by rwa [hkeys, hstate])

section Ready

variable (hk : s.keysBlocked = false) (hc : ctxState s g.ctx = 3)

include hk hc

theorem graftChecked_unread : graftChecked (graftBegun s g r) g true = failGraft (bump (graftBegun s g r) 0x4400 10 11 0 1) g 9 .state 2 := by
  obtain ⟨hkeys, hstate, -⟩ := checks_graftBegun s g r
  exact (if_neg (by simp [hkeys, hstate, hk, hc])).trans (if_pos rfl)

theorem graftChecked_denied (hi : installerOk s (manifest s g.ctx) = false) :
    graftChecked (graftBegun s g r) g false = failGraft (graftBegun s g r) g 3 .denied 3 := by
  obtain ⟨hkeys, hstate, hman, hinst, -⟩ := checks_graftBegun s g r
  refine (if_neg (by simp [hkeys, hstate, hk, hc])).trans ((if_neg (by decide)).trans (if_pos ?_))
  rw [hman, hinst, hi]
  rfl

theorem graftChecked_leaves (hi : installerOk s (manifest s g.ctx) = true) : graftChecked (graftBegun s g r) g false =
    if merkleRoot (ctxAt s g.ctx).leaves ≠ ((manifest s g.ctx).drop 32).take 48 then failGraft (graftBegun s g r) g 7 .state 2
    else { graftBegun s g r with graftRun := some g } := by
  obtain ⟨hkeys, hstate, hman, hinst, hctx⟩ := checks_graftBegun s g r
  refine (if_neg (by simp [hkeys, hstate, hk, hc])).trans ((if_neg (by decide)).trans ((if_neg ?_).trans ?_))
  · rw [hman, hinst, hi]
    decide
  · rw [hman, hctx]

end Ready

end Checked

theorem graftStart_checks {s : State} (hp : s.powered = true) {g : Graft} {r : List Graft} (h : GraftStarts s g r) (ue : Bool) :
    ∃ t, exec (.graftStart ue) s = .next t ∧ t.grafts = r ∧ rg t (0x4440 + g.ctx) 8 = 0 ∧
      Touches ([Field.grafts, .graftRun, .regs, .handles, .alertN, .faultq] ++ eventFields) s t ∧
      (s.keysBlocked = true ∨ ctxState s g.ctx ≠ 3 → t.graftRun = none ∧ rg t (0x4440 + g.ctx) 9 = 1) ∧
      (s.keysBlocked = false → ctxState s g.ctx = 3 → ue = false → installerOk s (manifest s g.ctx) = false →
        t.graftRun = none ∧ ctxState t g.ctx = 3 ∧ rg t (0x4440 + g.ctx) 9 = 3) ∧
      (s.keysBlocked = false → ctxState s g.ctx = 3 → ue = false → installerOk s (manifest s g.ctx) = true →
        (merkleRoot (ctxAt s g.ctx).leaves ≠ ((manifest s g.ctx).drop 32).take 48 →
          t.graftRun = none ∧ ctxState t g.ctx = 2 ∧ rg t (0x4440 + g.ctx) 9 = 7) ∧
        (merkleRoot (ctxAt s g.ctx).leaves = ((manifest s g.ctx).drop 32).take 48 → t.graftRun = some g ∧ ctxState t g.ctx = 3)) ∧
      (s.keysBlocked = false → ctxState s g.ctx = 3 → ue = true → t.graftRun = none ∧ ctxState t g.ctx = 2 ∧
        rg t (0x4440 + g.ctx) 9 = 9 ∧ rg t 0x4400 10 = counted (rg s 0x4400 10) 1) := by
  have hbegun := touches_graftBegun s g r
  have hchecked := touches_graftChecked (graftBegun s g r) g ue
  have hrun : (graftBegun s g r).graftRun = none := (hbegun.same .graftRun (by decide)).trans h.run
  have hall : Touches ([Field.grafts, .graftRun, .regs, .handles, .alertN, .faultq] ++ eventFields) s (graftStart s ue) := by
    rw [graftStart_of_starts h]
    exact (hbegun.mono rfl).trans (hchecked.mono rfl)
  obtain ⟨t, ht, hend⟩ := done_next_of hp hall (by decide)
  have hout : Touches [.alertN] (graftChecked (graftBegun s g r) g ue) t := by rwa [← graftStart_of_starts h]
  have hrg : ∀ i j, rg t i j = rg (graftChecked (graftBegun s g r) g ue) i j := hout.rg_eq (by decide) (by decide)
  have hnow : t.graftRun = (graftChecked (graftBegun s g r) g ue).graftRun := hout.same .graftRun (by decide)
  have hnone : ∀ (w : State) (reason : Nat) (st : Status) (after : Nat), w.graftRun = none → (failGraft w g reason st after).graftRun = none :=
    fun w _ _ _ hw => ((touches_failGraft ..).same .graftRun (by decide)).trans hw
  have hstate : ctxState (graftBegun s g r) g.ctx = ctxState s g.ctx := (checks_graftBegun s g r).2.1
  have hlanded : rg (graftBegun s g r) (0x4440 + g.ctx) 8 = 0 := rg_wr_same ..
  have hbump : ∀ {i j}, flashCount (rkey i j) = false → rg (bump (graftBegun s g r) 0x4400 10 11 0 1) i j = rg (graftBegun s g r) i j :=
    fun {i j} hk => (regsKept_bump (m := flashCount) _ _ _ _ _ _ rfl rfl).rg ((touches_bump ..).same .variant (by decide)) i j hk
  have hkept : ∀ (w : State) (reason : Nat) (st : Status) (after : Nat), rg w (0x4440 + g.ctx) 8 = 0 →
      rg (failGraft w g reason st after) (0x4440 + g.ctx) 8 = 0 := fun w _ _ _ hw =>
        (rg_failGraft_other _ _ _ _ _ _ (by decide) (by decide) (by decide)).trans hw
  refine ⟨t, ht, ?_, ?_, hall.trans (hend.mono rfl), fun hb => ?_, fun hk hc hu hi => ?_, fun hk hc hu hi => ⟨fun hm => ?_, fun hm => ?_⟩,
    fun hk hc hu => ?_⟩
  · rw [hout.same .grafts (by decide), hchecked.same .grafts (by decide)]
    exact ((touches_wr ..).same .grafts (by decide)).trans ((touches_startHandle ..).same .grafts (by decide))
  · rw [hrg]
    unfold graftChecked
    split
    · exact hkept _ _ _ _ hlanded
    split
    · exact hkept _ _ _ _ ((hbump (not_flashCount _ (by decide) (by decide))).trans hlanded)
    split
    · exact hkept _ _ _ _ hlanded
    split
    · exact hkept _ _ _ _ hlanded
    · exact hlanded
  · rw [hrg, hnow, graftChecked_blocked hb]
    exact ⟨hnone _ _ _ _ hrun, rg_failGraft_reason ..⟩
  · subst hu
    rw [ctxState, hrg, hrg, hnow, graftChecked_denied hk hc hi]
    exact ⟨hnone _ _ _ _ hrun, ctxState_failGraft (hstate.trans hc), rg_failGraft_reason ..⟩
  · subst hu
    rw [ctxState, hrg, hrg, hnow, graftChecked_leaves hk hc hi, if_pos hm]
    exact ⟨hnone _ _ _ _ hrun, ctxState_failGraft (hstate.trans hc), rg_failGraft_reason ..⟩
  · subst hu
    rw [ctxState, hrg, hnow, graftChecked_leaves hk hc hi, if_neg (not_not.2 hm)]
    exact ⟨rfl, hstate.trans hc⟩
  · subst hu
    have hready : ctxState (bump (graftBegun s g r) 0x4400 10 11 0 1) g.ctx = 3 :=
      (hbump (not_flashCount _ (by decide) (by decide))).trans (hstate.trans hc)
    rw [ctxState, hrg, hrg, hrg, hnow, graftChecked_unread hk hc]
    refine ⟨hnone _ _ _ _ (((touches_bump ..).same .graftRun (by decide)).trans hrun), ctxState_failGraft hready, rg_failGraft_reason .., ?_⟩
    rw [rg_failGraft_other _ _ _ _ _ _ (by decide) (by decide) (by decide), rg_bump_same (by decide) (by decide) (by decide) (by decide),
      rg_graftBegun _ _ _ _ (by decide) (by decide)]

theorem graftStart_idle {s : State} (hp : s.powered = true) (h : s.graftRun.isSome = true ∨ s.grafts = []) (ue : Bool) :
    ∃ t, exec (.graftStart ue) s = .next t ∧ Touches [.alertN] s t := by
  have hsame : graftStart s ue = s := by
    unfold graftStart
    split
    next hrun hqueue =>
      rw [hrun, hqueue] at h
      simp at h
    · rfl
    · rfl
  obtain ⟨t, ht, hend⟩ := done_next_of hp (Touches.refl (l := []) (s := s)) rfl
  exact ⟨t, (congrArg (done s) hsame).trans ht, hend⟩

end Sys2Proof
end

section
/-! SUPPORT. The end of a graft (O52). -/

namespace Sys2Proof

open Machine

/-! ### GRAFT_COMPLETE (R464, R468) -/

theorem touches_with_chReady (s : State) (m : KMap Nat) : Touches [.chReady] s { s with chReady := m } := by
  refine ⟨fun f hf => ?_⟩
  cases f
  case chReady => simp at hf
  all_goals rfl

theorem touches_useBg (s : State) (a n : Nat) : Touches [.act, .chReady] s (useBg s a n) := by
  have hcount : Touches [.act, .chReady] s ((diesOf s a n).foldl (fun t d => countAct t d 50 256 (lineCount a n)) s) :=
    .foldl _ (fun t d => (touches_countAct ..).mono rfl) _ _
  unfold useBg
  extract_lets keys t
  exact hcount.trans ((touches_with_chReady t _).mono rfl)

theorem touches_landChunks (s : State) (g : Graft) (n : Nat) : Touches [.mem, .ecc] s (landChunks s g n) :=
  .foldl _ (fun _ _ => touches_poke ..) _ _

theorem touches_landBad (s : State) (a : Nat) : Touches [.fresh, .mem, .ecc] s (landBad s a) :=
  .foldl _ (fun t _ => ((touches_draw t).mono rfl).trans ((touches_poke ..).mono rfl)) _ _

/-- The graft has taken its channels for its last lines and runs no more. -/
def graftMoved (s : State) (g : Graft) : State := { useBg s g.target (ctxLen s g.ctx) with graftRun := none }

/-- An uncorrectable read of flash is counted. -/
def flashRead (s : State) (ue : Bool) : State := if ue then bump s 0x4400 10 11 0 1 else s

/-- The first `i` chunks stand at the target, and so many are counted. -/
def graftLanded (s : State) (g : Graft) (i : Nat) (k : Nat) : State :=
  wr (progress (landChunks s g i) g.handle k) (0x4440 + g.ctx) 8 k

/-- The chunks before chunk `i` stand at the target, and what that one leaves there is free. -/
def graftDiffered (s : State) (g : Graft) (i : Nat) : State :=
  if i < ctxChunks s g.ctx then landBad (graftLanded s g i (min i (ctxChunks s g.ctx))) (g.target + i * 2 ^ 20)
  else graftLanded s g i (min i (ctxChunks s g.ctx))

/-- How a graft ends whose context is READY and whose target no plan uses. -/
def graftEnded (s : State) (g : Graft) (bad : Option Nat) (ue : Bool) : State :=
  match bad with
  | some i =>
    if ue then failGraft (graftLanded s g i (min i (ctxChunks s g.ctx))) g 9 .state 2
    else failGraft (graftDiffered s g i) g 8 .state 2
  | none =>
    if ue then failGraft s g 9 .state 2
    else ctxFinish (wr (setCtxState (graftLanded s g (ctxChunks s g.ctx) (ctxChunks s g.ctx)) g.ctx 4) (0x4440 + g.ctx) 10 (g.target + 2 ^ 63))
      g.ctx g.handle 0 .ok

theorem touches_graftMoved (s : State) (g : Graft) : Touches [.act, .chReady, .graftRun] s (graftMoved s g) :=
  ((touches_useBg ..).mono rfl).trans ((touches_with_graftRun ..).mono rfl)

theorem touches_flashRead (s : State) (ue : Bool) : Touches [.regs, .faultq] s (flashRead s ue) := .ite (touches_bump ..) .refl

theorem flashCounts_flashRead (s : State) (ue : Bool) : RegsKept flashCount s (flashRead s ue) := by
  unfold flashRead
  split
  · exact regsKept_bump _ _ _ _ _ _ rfl rfl
  · exact .refl

/-- The state from which a graft ends. -/
def graftReady (s : State) (g : Graft) (ue : Bool) : State := flashRead (graftMoved s g) ue

theorem touches_graftReady (s : State) (g : Graft) (ue : Bool) : Touches [.act, .chReady, .graftRun, .regs, .faultq] s (graftReady s g ue) :=
  ((touches_graftMoved ..).mono rfl).trans ((touches_flashRead ..).mono rfl)

theorem useRead_graftReady (s : State) (g : Graft) (ue : Bool) : UseRead s (graftReady s g ue) := by
  have hmoved : RegsKept flashCount s (graftMoved s g) := .of_eq ((touches_graftMoved s g).same .regs (by decide))
  exact .of_touches (touches_graftReady s g ue) rfl (hmoved.trans (flashCounts_flashRead _ _))

/-- A graft may end: it runs, the rails are up, and background traffic reaches its target. -/
structure GraftEnds (s : State) (g : Graft) : Prop where
  run : s.graftRun = some g
  rails : s.railsUp = true
  ready : ctxState s g.ctx = 3
  unused : plansUse s g.target (ctxLen s g.ctx) = false
  traffic : bgHeld s g.target (ctxLen s g.ctx) = false

theorem graftComplete_of_ends {s : State} {g : Graft} (h : GraftEnds s g) (bad : Option Nat) (ue : Bool) :
    graftComplete s bad ue = graftEnded (graftReady s g ue) g bad ue := by
  have hread := useRead_graftReady s g ue
  have hready : ¬ctxState (graftReady s g ue) g.ctx ≠ 3 := by rw [hread.ctxState_eq, h.ready]; decide
  have hunused : ¬plansUse (graftReady s g ue) g.target (ctxLen (graftReady s g ue) g.ctx) := by
    rw [hread.plansUse_eq, hread.ctxLen_eq, h.unused]
    decide
  have hgo : s.graftRun.filter (fun g => s.railsUp && !bgHeld s g.target (ctxLen s g.ctx)) = some g := by
    rw [h.run]
    simp [h.rails, h.traffic]
  unfold graftComplete
  split
  next hno => simp [hgo] at hno
  next g' hg =>
    obtain rfl : g = g' := by simpa using hgo.symm.trans hg
    exact (if_neg hready).trans (if_neg hunused)

/-- The bytes that the chunks land depend on the memory, the contexts and the keys alone. -/
theorem mem_landChunks_congr {s t : State} (hm : t.mem = s.mem) (hc : t.ctxs = s.ctxs) (hk : kwkBytes t = kwkBytes s) (g : Graft) (n : Nat) :
    (landChunks t g n).mem = (landChunks s g n).mem := by
  have hland : ∀ v : State, (landChunks v g n).mem = (List.range (min n (storedChunks (ctxAt v g.ctx)))).foldl
      (fun m i => mwrite m (g.target + i * 2 ^ 20) (readChunk (kwkBytes v) (ctxAt v g.ctx) i)) v.mem := fun v =>
    (List.foldl_hom State.mem fun _ _ => rfl).symm
  rw [hland, hland, hm, hk, ctxAt, ctxAt, hc]

theorem kwkBytes_graftReady (s : State) (g : Graft) (ue : Bool) : kwkBytes (graftReady s g ue) = kwkBytes s := by
  have hread := useRead_graftReady s g ue
  rw [kwkBytes, kwkBytes, hread.regs.rg hread.variant 0x6010 6 rfl, (touches_graftReady s g ue).same .fuseUds (by decide)]

theorem touches_graftLanded (s : State) (g : Graft) (i k : Nat) : Touches [.mem, .ecc, .handles, .regs] s (graftLanded s g i k) :=
  ((touches_landChunks ..).mono rfl).trans (((touches_progress ..).mono rfl).trans ((touches_wr ..).mono rfl))

theorem rg_graftLanded (s : State) (g : Graft) (i k m : Nat) {j : Nat} (hj : j < 256) (h8 : j ≠ 8) : rg (graftLanded s g i k) m j = rg s m j := by
  have h : Touches [.mem, .ecc, .handles] s (progress (landChunks s g i) g.handle k) :=
    ((touches_landChunks ..).mono rfl).trans ((touches_progress ..).mono rfl)
  rw [graftLanded, rg_wr_sub _ (by decide) hj h8, h.rg_eq (by decide) (by decide)]

theorem HandleWaits.graftLanded {s : State} {g : Graft} (h : HandleWaits s g.handle) (i k : Nat) : HandleWaits (graftLanded s g i k) g.handle :=
  (h.of_touches (touches_landChunks s g i) (by decide) (by decide)).progress.of_touches (touches_wr ..) (by decide) (by decide)

theorem touches_graftDiffered (s : State) (g : Graft) (i : Nat) :
    Touches [.fresh, .mem, .ecc] (graftLanded s g i (min i (ctxChunks s g.ctx))) (graftDiffered s g i) := .ite (touches_landBad ..) .refl

theorem touches_graftEnded (s : State) (g : Graft) (bad : Option Nat) (ue : Bool) :
    Touches ([.regs, .mem, .ecc, .handles, .fresh] ++ eventFields) s (graftEnded s g bad ue) := by
  have hfail : ∀ (v : State) (reason : Nat), Touches ([.regs, .mem, .ecc, .handles, .fresh] ++ eventFields) v (failGraft v g reason .state 2) :=
    fun _ _ => (touches_failGraft ..).mono rfl
  have hland : ∀ i k, Touches ([.regs, .mem, .ecc, .handles, .fresh] ++ eventFields) s (graftLanded s g i k) :=
    fun _ _ => (touches_graftLanded ..).mono rfl
  unfold graftEnded
  split
  · exact .ite ((hland ..).trans (hfail ..)) (Touches.trans ((hland ..).trans ((touches_graftDiffered ..).mono rfl)) (hfail ..))
  · exact .ite (hfail ..) ((hland ..).trans (((touches_wr ..).mono rfl).trans (((touches_wr ..).mono rfl).trans
      ((touches_ctxFinish ..).mono rfl))))

/-- A graft whose chunks all agree: the context is GRAFTED at the target. -/
theorem graftEnded_grafted (s : State) (g : Graft) :
    (graftEnded s g none false).mem = (landChunks s g (ctxChunks s g.ctx)).mem ∧ ctxState (graftEnded s g none false) g.ctx = 4 ∧
      rg (graftEnded s g none false) (0x4440 + g.ctx) 10 = g.target + 2 ^ 63 ∧
      rg (graftEnded s g none false) (0x4440 + g.ctx) 8 = ctxChunks s g.ctx ∧ rg (graftEnded s g none false) (0x4440 + g.ctx) 9 = 0 ∧
      (HandleWaits s g.handle → HandleDone (graftEnded s g none false) g.handle .ok 0 []) := by
  have hdef : graftEnded s g none false = ctxFinish (wr (setCtxState (graftLanded s g (ctxChunks s g.ctx) (ctxChunks s g.ctx)) g.ctx 4)
    (0x4440 + g.ctx) 10 (g.target + 2 ^ 63)) g.ctx g.handle 0 .ok := rfl
  have hmem : (graftLanded s g (ctxChunks s g.ctx) (ctxChunks s g.ctx)).mem = (landChunks s g (ctxChunks s g.ctx)).mem :=
    ((touches_wr ..).same .mem (by decide)).trans ((touches_progress ..).same .mem (by decide))
  rw [hdef]
  refine ⟨?_, ?_, ?_, ?_, rg_ctxFinish_reason .., fun hw => ?_⟩
  · rw [(touches_ctxFinish ..).same .mem (by decide), ← hmem]
    rfl
  · rw [ctxState, rg_ctxFinish_other _ _ _ _ _ _ (by decide) (by decide), rg_wr_sub _ (by decide) (by decide) (by decide), setCtxState, rg_wr_same]
  · rw [rg_ctxFinish_other _ _ _ _ _ _ (by decide) (by decide), rg_wr_same]
  · rw [rg_ctxFinish_other _ _ _ _ _ _ (by decide) (by decide), rg_wr_sub _ (by decide) (by decide) (by decide), setCtxState,
      rg_wr_sub _ (by decide) (by decide) (by decide), graftLanded, rg_wr_same]
  · exact handleDone_ctxFinish (((hw.graftLanded _ _).of_touches (touches_wr ..) (by decide) (by decide)).of_touches (touches_wr ..)
      (by decide) (by decide))

/-- A graft that meets a chunk that differs from its leaf. -/
theorem graftEnded_differs {s : State} {g : Graft} (hc : ctxState s g.ctx = 3) (i : Nat) :
    ctxState (graftEnded s g (some i) false) g.ctx = 2 ∧ rg (graftEnded s g (some i) false) (0x4440 + g.ctx) 9 = 8 ∧
      (HandleWaits s g.handle → HandleDone (graftEnded s g (some i) false) g.handle .state 8 []) := by
  have hland : ctxState (graftLanded s g i (min i (ctxChunks s g.ctx))) g.ctx = 3 := (rg_graftLanded _ _ _ _ _ (by decide) (by decide)).trans hc
  have hfree := touches_graftDiffered s g i
  refine ⟨ctxState_failGraft ?_, rg_failGraft_reason .., fun hw => handleDone_failGraft ?_⟩
  · exact (hfree.rg_eq (by decide) (by decide) _ _).trans hland
  · exact (hw.graftLanded _ _).of_touches hfree (by decide) (by decide)

/-- A graft that cannot read its context. -/
theorem graftEnded_unread {s : State} {g : Graft} (hc : ctxState s g.ctx = 3) (bad : Option Nat) :
    ctxState (graftEnded s g bad true) g.ctx = 2 ∧ rg (graftEnded s g bad true) (0x4440 + g.ctx) 9 = 9 ∧
      rg (graftEnded s g bad true) 0x4400 10 = rg s 0x4400 10 := by
  cases bad with
  | none => exact ⟨ctxState_failGraft hc, rg_failGraft_reason .., rg_failGraft_other _ _ _ _ _ _ (by decide) (by decide) (by decide)⟩
  | some i =>
    have hland : ctxState (graftLanded s g i (min i (ctxChunks s g.ctx))) g.ctx = 3 := (rg_graftLanded _ _ _ _ _ (by decide) (by decide)).trans hc
    exact ⟨ctxState_failGraft hland, rg_failGraft_reason ..,
      (rg_failGraft_other _ _ _ _ _ _ (by decide) (by decide) (by decide)).trans (rg_graftLanded _ _ _ _ _ (by decide) (by decide))⟩

/-- The fields that the end of a graft may change. -/
def graftEndFields : List Field := [Field.graftRun, .regs, .mem, .ecc, .chReady, .act, .handles, .fresh, .faultq, .alertN] ++ eventFields

/-- GRAFT_COMPLETE carries its end out. -/
theorem graftComplete_next {s : State} (hp : s.powered = true) {g : Graft} (h : GraftEnds s g) (bad : Option Nat) (ue : Bool) :
    ∃ t, exec (.graftComplete bad ue) s = .next t ∧ t.graftRun = none ∧ Touches [.alertN] (graftEnded (graftReady s g ue) g bad ue) t ∧
      Touches graftEndFields s t := by
  have hready := touches_graftReady s g ue
  have hended := touches_graftEnded (graftReady s g ue) g bad ue
  have hall : Touches graftEndFields s (graftEnded (graftReady s g ue) g bad ue) := (hready.mono rfl).trans (hended.mono rfl)
  obtain ⟨t, ht, hend⟩ := done_next_of hp hall (by decide)
  refine ⟨t, (congrArg (done s) (graftComplete_of_ends h bad ue)).trans ht, ?_, hend, hall.trans (hend.mono rfl)⟩
  have hnone : (graftReady s g ue).graftRun = none := (touches_flashRead ..).same .graftRun (by decide)
  rw [hend.same .graftRun (by decide), hended.same .graftRun (by decide), hnone]

theorem graftComplete_ends {s : State} (hp : s.powered = true) {g : Graft} (h : GraftEnds s g) :
    (∃ t, exec (.graftComplete none false) s = .next t ∧ t.graftRun = none ∧ t.mem = (landChunks s g (ctxChunks s g.ctx)).mem ∧
      ctxState t g.ctx = 4 ∧ rg t (0x4440 + g.ctx) 10 = g.target + 2 ^ 63 ∧ rg t (0x4440 + g.ctx) 8 = ctxChunks s g.ctx ∧
      rg t (0x4440 + g.ctx) 9 = 0 ∧ (HandleWaits s g.handle → HandleDone t g.handle .ok 0 []) ∧ Touches graftEndFields s t) ∧
    (∀ i, ∃ t, exec (.graftComplete (some i) false) s = .next t ∧ t.graftRun = none ∧ ctxState t g.ctx = 2 ∧
      rg t (0x4440 + g.ctx) 9 = 8 ∧ (HandleWaits s g.handle → HandleDone t g.handle .state 8 []) ∧ Touches graftEndFields s t) ∧
    (∀ bad, ∃ t, exec (.graftComplete bad true) s = .next t ∧ t.graftRun = none ∧ ctxState t g.ctx = 2 ∧
      rg t (0x4440 + g.ctx) 9 = 9 ∧ rg t 0x4400 10 = counted (rg s 0x4400 10) 1 ∧ Touches graftEndFields s t) := by
  have hstate : ∀ ue, ctxState (graftReady s g ue) g.ctx = 3 := fun ue => by rw [(useRead_graftReady s g ue).ctxState_eq, h.ready]
  have hwaits : ∀ ue, HandleWaits s g.handle → HandleWaits (graftReady s g ue) g.handle :=
    fun ue hw => hw.of_touches (touches_graftReady s g ue) (by decide) (by decide)
  refine ⟨?_, fun i => ?_, fun bad => ?_⟩
  · obtain ⟨t, ht, hnone, hend, hall⟩ := graftComplete_next hp h none false
    obtain ⟨hmem, hgrafted, haddr, hdone, hreason, hhandle⟩ := graftEnded_grafted (graftReady s g false) g
    have hready := touches_graftReady s g false
    have hchunks : ctxChunks (graftReady s g false) g.ctx = ctxChunks s g.ctx := by
      rw [ctxChunks, ctxChunks, manifest, manifest, (useRead_graftReady s g false).rb_eq]
    rw [hchunks] at hmem hdone
    have hrg := hend.rg_eq (by decide) (by decide)
    refine ⟨t, ht, hnone, ?_, ?_, ?_, ?_, ?_, fun hw => ?_, hall⟩
    · rw [hend.same .mem (by decide), hmem]
      exact mem_landChunks_congr (hready.same .mem (by decide)) (hready.same .ctxs (by decide)) (kwkBytes_graftReady ..) _ _
    · exact (hrg _ _).trans hgrafted
    · exact (hrg _ _).trans haddr
    · exact (hrg _ _).trans hdone
    · exact (hrg _ _).trans hreason
    · exact (hhandle (hwaits _ hw)).of_handles (hend.same .handles (by decide))
  · obtain ⟨t, ht, hnone, hend, hall⟩ := graftComplete_next hp h (some i) false
    obtain ⟨hfailed, hreason, hhandle⟩ := graftEnded_differs (hstate false) i
    have hrg := hend.rg_eq (by decide) (by decide)
    exact ⟨t, ht, hnone, (hrg _ _).trans hfailed, (hrg _ _).trans hreason,
      fun hw => (hhandle (hwaits _ hw)).of_handles (hend.same .handles (by decide)), hall⟩
  · obtain ⟨t, ht, hnone, hend, hall⟩ := graftComplete_next hp h bad true
    obtain ⟨hfailed, hreason, hcount⟩ := graftEnded_unread (hstate true) bad
    have hrg := hend.rg_eq (by decide) (by decide)
    refine ⟨t, ht, hnone, (hrg _ _).trans hfailed, (hrg _ _).trans hreason, ?_, hall⟩
    have hmoved : rg (graftMoved s g) 0x4400 10 = rg s 0x4400 10 := (touches_graftMoved s g).rg_eq (by decide) (by decide) _ _
    have hbump : rg (graftReady s g true) 0x4400 10 = counted (rg (graftMoved s g) 0x4400 10) 1 :=
      rg_bump_same (by decide) (by decide) (by decide) (by decide)
    rw [hrg, hcount, hbump, hmoved]

theorem graftComplete_waits {s : State} (hp : s.powered = true) {g : Graft} (hg : s.graftRun = some g)
    (hheld : bgHeld s g.target (ctxLen s g.ctx) = true) (bad : Option Nat) (ue : Bool) :
    ∃ t, exec (.graftComplete bad ue) s = .next t ∧ Touches [.alertN] s t := by
  have hno : s.graftRun.filter (fun g => s.railsUp && !bgHeld s g.target (ctxLen s g.ctx)) = none := by
    rw [hg]
    simp [hheld]
  have hsame : graftComplete s bad ue = s := by
    unfold graftComplete
    split
    · rfl
    next g' hsome => simp [hno] at hsome
  obtain ⟨t, ht, hend⟩ := done_next_of hp (Touches.refl (l := []) (s := s)) rfl
  exact ⟨t, (congrArg (done s) hsame).trans ht, hend⟩

end Sys2Proof
end

section
/-! SUPPORT. FLASH_MAINT, the tests of flash and HBM, and the settlement of O52. -/

namespace Sys2Proof

open Machine

/-! ### FLASH_MAINT and the start of the tests (R336, R476, R477) -/

theorem flashMaint_takes {s : State} {ses : Nat} {x : Session} {val : List Byte} (ho : OpenSession s ses 2 x)
    (hst : setStatus s x 0x4400 6 val false false
      ((List.range 4).any (fun i => bit (leNat val) i && !bit (rg s 0x4400 6) i) && (List.range 64).any (fun c => ctxState s c == 1))
      s.flashTest.isSome = .ok) :
    SetTakes s (.flashMaint ses val) ses 0x4400 6 [.regs] (fun t => rg t 0x4400 6 = leNat val ∧ OnlyRegs [(0x4400, 6)] s t) := by
  obtain ⟨a, n, hadm⟩ := admitted_eq s ses
  exact setTakes_of_onlyRegs ho rfl (by rw [hadm]; exact hst) (touches_wr ..) (onlyRegs_wr _ _ (by decide)) (by decide)
    fun t ht hl => ⟨by rw [ht.rg_eq (by decide) (by decide), rg_wr_same], hl⟩

theorem touches_with_flashTest (s : State) (o : Option (Nat × Nat)) : Touches [.flashTest] s { s with flashTest := o } := by
  refine ⟨fun f hf => ?_⟩
  cases f
  case flashTest => simp at hf
  all_goals rfl

theorem touches_with_hbmTest (s : State) (o : Option (Nat × Nat)) : Touches [.hbmTest] s { s with hbmTest := o } := by
  refine ⟨fun f hf => ?_⟩
  cases f
  case hbmTest => simp at hf
  all_goals rfl

/-- The handle of an INVOKE that runs at once is in the table. -/
theorem handle_issued (s : State) (ty ses : Nat) : ∃ r ∈ (issue (admitted s ses) ty ses false).2.handles, r.h = ty * 2 ^ 24 + s.handleSeq ∧
    ((∀ k ∈ s.handles, k.h ≠ ty * 2 ^ 24 + s.handleSeq) → r.ses = ses) := by
  have hadm := touches_admitted s ses
  have hseq : (admitted s ses).handleSeq = s.handleSeq := hadm.same .handleSeq (by decide)
  have hhandles : (admitted s ses).handles = s.handles := hadm.same .handles (by decide)
  obtain ⟨r, hr, hses⟩ := handleAt_issue (admitted s ses) ty ses false
  rw [hseq] at hr hses
  rw [hhandles] at hses
  obtain ⟨hmem, hnum⟩ := mem_handles_of_handleAt hr
  exact ⟨r, hmem, hnum, hses⟩

theorem rg_issued (s : State) (ty ses : Nat) {i j : Nat} (hj : j < 256) (h8 : i ≠ 0x8000) (h7 : i ≠ 0x7000) :
    rg (issue (admitted s ses) ty ses false).2 i j = rg s i j := (rg_issue _ _ _ _ hj h8 h7).trans (rg_admitted ..)

theorem flashSelftest_takes {s : State} {ses : Nat} {x : Session} (ho : OpenSession s ses 3 x)
    (hst : invStatus s x 0x4400 7 [] 0 (rg s 0x4400 6 == 0) false s.flashTest.isSome = .ok) :
    InvokeTakes s (.flashSelftest ses) ses 0x4400 7 10 [.flashTest] (fun t h => t.flashTest = some (h, rg s 0x4400 6)) := by
  obtain ⟨a, n, hadm⟩ := admitted_eq s ses
  refine invokeTakes_of_invoking ho rfl (by rw [hadm]; exact hst) ((touches_with_flashTest ..).mono rfl) rfl rfl
    (handle_issued s 10 ses) fun t ht => ?_
  have hrun : t.flashTest = some (10 * 2 ^ 24 + s.handleSeq, rg (issue (admitted s ses) 10 ses false).2 0x4400 6) := ht.same .flashTest (by decide)
  rw [hrun, rg_issued s 10 ses (by decide) (by decide) (by decide)]

theorem hbmSelftest_takes {s : State} {ses : Nat} {x : Session} (ho : OpenSession s ses 3 x)
    (hst : invStatus s x 0x4008 2 [] 0
      ((List.range (dies s.variant)).any (fun d => bit (rg s 0x4008 1) d && partState s (partLow s d) != 1))
      (rg s 0x4008 1 == 0 || decide (2 ^ dies s.variant ≤ rg s 0x4008 1)) s.hbmTest.isSome = .ok) :
    InvokeTakes s (.hbmSelftest ses) ses 0x4008 2 9 [.hbmTest] (fun t h => t.hbmTest = some (h, rg s 0x4008 1)) := by
  obtain ⟨a, n, hadm⟩ := admitted_eq s ses
  refine invokeTakes_of_invoking ho rfl (by rw [hadm]; exact hst) ((touches_with_hbmTest ..).mono rfl) rfl rfl (handle_issued s 9 ses) fun t ht => ?_
  have hrun : t.hbmTest = some (9 * 2 ^ 24 + s.handleSeq, rg (issue (admitted s ses) 9 ses false).2 0x4008 1) := ht.same .hbmTest (by decide)
  rw [hrun, rg_issued s 9 ses (by decide) (by decide) (by decide)]

/-! ### The end of the flash test (R477) -/

theorem leAt_patch_before {l b : List Byte} {o p n : Nat} (h : p + n ≤ o) (hl : p + n ≤ l.length) : leAt (patch l o b) p n = leAt l p n := by
  have hfirst : p + n ≤ ((padTo o l).take o).length := by
    rw [List.length_take, padTo, List.length_append]
    omega
  have hpad : leAt ((padTo o l).take o) p n = leAt (padTo o l) p n := by rw [leAt, leAt, List.drop_take, List.take_take, Nat.min_eq_left (by omega)]
  rw [patch, leAt_append_left (by rw [List.length_append]; omega), leAt_append_left hfirst, hpad, padTo, leAt_append_left hl]

/-- A byte that is not 0 lies inside its list. -/
theorem lt_length_of_leAt {l : List Byte} {p : Nat} (h : leAt l p 1 ≠ 0) : p < l.length := by
  by_contra hle
  rw [leAt, List.drop_eq_nil_of_le (by omega)] at h
  exact h rfl

theorem leAt_patch_after {l b : List Byte} {o p n : Nat} (h : o + b.length ≤ p) : leAt (patch l o b) p n = leAt l p n := by
  have hpad : ((padTo o l).take o).length = o := by
    rw [List.length_take, padTo, List.length_append, List.length_replicate]
    omega
  have hlen : ((padTo o l).take o ++ b).length = o + b.length := by rw [List.length_append, hpad]
  rw [patch, leAt_append_right (by rw [hlen]; exact h), hlen, leAt, leAt, List.drop_drop]
  congr 3
  omega

theorem leAt_patch_in {l b : List Byte} {o p n : Nat} (h : o ≤ p) (hb : p + n ≤ o + b.length) : leAt (patch l o b) p n = leAt b (p - o) n := by
  have hpad : ((padTo o l).take o).length = o := by
    rw [List.length_take, padTo, List.length_append, List.length_replicate]
    omega
  rw [patch, leAt_append_left (by rw [List.length_append, hpad]; exact hb), leAt_append_right (by rw [hpad]; exact h), hpad]

/-- The element of controller `i` in FLASH_SELFTEST's result: 1 pass or 2 fail, and its pages of flash UE. -/
def flashElem (res : List Byte) (i : Nat) : List Byte :=
  leBytes 1 (if leAt res (16 * i) 1 = 1 then 1 else 2) ++ leBytes 7 0 ++ leBytes 8 (leAt res (16 * i + 8) 8)

/-- The table with the element of a controller under test. -/
def flashPut (m : Nat) (res l : List Byte) (i : Nat) : List Byte := if bit m i then patch l (16 * i) (flashElem res i) else l

theorem length_flashElem (res : List Byte) (i : Nat) : (flashElem res i).length = 16 := by
  simp only [flashElem, List.length_append, leBytes_length]

/-- What an element tells first: 1 pass, 2 fail. -/
def flashPass (res : List Byte) (i : Nat) : Nat := if leAt res (16 * i) 1 = 1 then 1 else 2

theorem leAt_flashPut_same {m i : Nat} (hm : bit m i = true) (res l : List Byte) : leAt (flashPut m res l i) (16 * i) 1 = flashPass res i := by
  rw [flashPut, if_pos hm, leAt_patch_in le_rfl (by rw [length_flashElem]; omega), Nat.sub_self, flashElem, List.append_assoc,
    leAt_append_left (by rw [leBytes_length]), leAt_leBytes, flashPass]
  split <;> rfl

theorem leAt_flashPut_other {m i j : Nat} (hj : j ≠ i) {res l : List Byte} (h : leAt l (16 * i) 1 = flashPass res i) :
    leAt (flashPut m res l j) (16 * i) 1 = flashPass res i := by
  have hlen : 16 * i < l.length := by
    refine lt_length_of_leAt ?_
    rw [h, flashPass]
    split <;> decide
  rw [flashPut]
  split
  · obtain hlt | hgt := Nat.lt_or_gt_of_ne hj
    · rw [leAt_patch_after (by rw [length_flashElem]; omega), h]
    · rw [leAt_patch_before (by omega) (by omega), h]
  · exact h

/-- An element that is written holds its result, whatever others are written. -/
theorem leAt_flashResult {m i : Nat} (hm : bit m i = true) (res : List Byte) (is : List Nat) : ∀ l,
    i ∈ is ∨ leAt l (16 * i) 1 = flashPass res i → leAt (is.foldl (flashPut m res) l) (16 * i) 1 = flashPass res i := by
  induction is with
  | nil => exact fun l h => h.resolve_left List.not_mem_nil
  | cons j r ih =>
    intro l h
    refine ih _ ?_
    by_cases hj : j = i
    · exact .inr (hj ▸ leAt_flashPut_same hm res l)
    · obtain hmem | hset := h
      · exact .inl ((List.mem_cons.1 hmem).resolve_left (Ne.symm hj))
      · exact .inr (leAt_flashPut_other hj hset)

/-- The pages of flash UE that the test found. -/
def flashPages (m : Nat) (res : List Byte) : Nat := ((List.range 4).map (fun i => if bit m i then leAt res (16 * i + 8) 8 else 0)).sum

/-- The test's results stand in the table, and its pages are counted. -/
def flashTested (s : State) (m : Nat) (res : List Byte) : State :=
  bump (wb { s with flashTest := none } 0x4400 8 ((List.range 4).foldl (flashPut m res) (rb s 0x4400 8))) 0x4400 10 11 0 (flashPages m res)

theorem flashSelftestEnd_eq {s : State} {h m : Nat} (hrun : s.flashTest = some (h, m)) (res : List Byte) :
    flashSelftestEnd s res = finishHandle (flashTested s m res) h .ok 0 [] := by
  rw [flashSelftestEnd, hrun]
  rfl

theorem touches_flashTested (s : State) (m : Nat) (res : List Byte) : Touches [.flashTest, .regs, .blobs, .faultq] s (flashTested s m res) :=
  ((touches_with_flashTest ..).mono rfl).trans (((touches_wb ..).mono rfl).trans ((touches_bump ..).mono rfl))

theorem flashSelftestEnd_ends {s : State} (hp : s.powered = true) {h m : Nat} (hrun : s.flashTest = some (h, m)) (res : List Byte) :
    ∃ t, exec (.flashSelftestEnd res) s = .next t ∧ t.flashTest = none ∧
      rg t 0x4400 10 = counted (rg s 0x4400 10) (flashPages m res) ∧
      (∀ i, i < 4 → bit m i = true → leAt (rb t 0x4400 8) (16 * i) 1 = flashPass res i) ∧
      (HandleWaits s h → HandleDone t h .ok 0 []) ∧
      Touches ([Field.flashTest, .regs, .blobs, .faultq, .handles, .alertN] ++ eventFields) s t := by
  have htest := touches_flashTested s m res
  have hfinish := touches_finishHandle (flashTested s m res) h .ok 0 []
  have hall : Touches ([Field.flashTest, .regs, .blobs, .faultq, .handles, .alertN] ++ eventFields) s
    (finishHandle (flashTested s m res) h .ok 0 []) :=
    (htest.mono rfl).trans (hfinish.mono rfl)
  obtain ⟨t, ht, hend⟩ := done_next_of hp hall (by decide)
  have hafter : Touches (.alertN :: .handles :: eventFields) (flashTested s m res) t := (hfinish.mono rfl).trans (hend.mono rfl)
  refine ⟨t, (congrArg (done s) (flashSelftestEnd_eq hrun res)).trans ht, ?_, ?_, fun i hi hm => ?_, fun hw => ?_, hall.trans (hend.mono rfl)⟩
  · rw [hafter.same .flashTest (by decide), flashTested, (touches_bump ..).same .flashTest (by decide)]
    rfl
  · rw [hafter.rg_eq (by decide) (by decide), flashTested, rg_bump_same (by decide) (by decide) (by decide) (by decide)]
    rfl
  · have hblobs : t.blobs = _ := (hafter.same .blobs (by decide)).trans ((touches_bump ..).same .blobs (by decide))
    rw [rb_of_kget (by rw [hblobs, wb, kget_kset_same])]
    exact leAt_flashResult hm res _ _ (.inl (List.mem_range.2 hi))
  · exact (handleDone_finishHandle (hw.of_touches htest (by decide) (by decide)) .ok 0 []).of_handles (hend.same .handles (by decide))

/-! ### The end of the HBM test (R336) -/

/-- HBM reads 0 where nothing has written it. -/
theorem memDefault_hbm {b : Nat} (h : b < 4 * dieHbm) : memDefault b = 0 := by
  refine if_neg fun hlm => ?_
  have hbase : 4 * dieHbm ≤ lmBase := by decide
  omega

theorem mget_mzero (s : State) (a n b : Nat) : mget (mzero s a n).mem b = if a ≤ b ∧ b < a + n then memDefault b else mget s.mem b := by
  have hget := kget_filter s.mem (fun k => !decide (a ≤ k ∧ k < a + n)) b
  have hmem : (mzero s a n).mem = s.mem.filter (fun p => !decide (a ≤ p.1 ∧ p.1 < a + n)) := rfl
  rw [mget, hmem, hget, mget]
  by_cases hin : a ≤ b ∧ b < a + n
  · simp [hin]
  · simp [hin]

/-- A tested die's HBM is zero, and its result stands in the table. -/
def hbmDieTested (m : Nat) (fail : List Nat) (s : State) (d : Nat) : State :=
  if bit m d then
    wb (mzero s (d * dieHbm) dieHbm) 0x4008 3
      (patch (rb s 0x4008 3) (16 * d) (leBytes 1 (if fail.getD d 0 % 2 ^ 64 = 0 then 1 else 2) ++ leBytes 7 0 ++ leBytes 8 (fail.getD d 0)))
  else s

/-- The test has ended, the dies named before die `n` being done. -/
def hbmTested (s : State) (m : Nat) (fail : List Nat) (n : Nat) : State :=
  (List.range n).foldl (hbmDieTested m fail) { s with hbmTest := none }

theorem hbmSelftestEnd_eq {s : State} {h m : Nat} (hrun : s.hbmTest = some (h, m)) (fail : List Nat) :
    hbmSelftestEnd s fail = finishHandle (hbmTested s m fail (dies s.variant)) h .ok 0 [] := by
  rw [hbmSelftestEnd, hrun]
  rfl

theorem touches_hbmDieTested (m : Nat) (fail : List Nat) (s : State) (d : Nat) : Touches [.mem, .ecc, .blobs] s (hbmDieTested m fail s d) :=
  .ite (((touches_mzero ..).mono rfl).trans ((touches_wb ..).mono rfl)) .refl

theorem touches_hbmTested (s : State) (m : Nat) (fail : List Nat) (n : Nat) : Touches [.hbmTest, .mem, .ecc, .blobs] s (hbmTested s m fail n) :=
  ((touches_with_hbmTest ..).mono rfl).trans (.foldl _ (fun _ _ => (touches_hbmDieTested ..).mono rfl) _ _)

theorem mget_hbmDieTested (m : Nat) (fail : List Nat) (s : State) (d b : Nat) : mget (hbmDieTested m fail s d).mem b =
    if bit m d = true ∧ d * dieHbm ≤ b ∧ b < d * dieHbm + dieHbm then memDefault b else mget s.mem b := by
  unfold hbmDieTested
  split
  next hd =>
    have hmem := mget_mzero s (d * dieHbm) dieHbm b
    simpa [hd] using hmem
  next hd => simp [hd]

/-- The memory after the tests of the dies before `n`: the named ones' HBM is as if nothing had written it. -/
theorem mget_hbmTested (s : State) (m : Nat) (fail : List Nat) (n b : Nat) : mget (hbmTested s m fail n).mem b =
    if ∃ d < n, bit m d = true ∧ d * dieHbm ≤ b ∧ b < d * dieHbm + dieHbm then memDefault b else mget s.mem b := by
  induction n with
  | zero => simp [hbmTested]
  | succ n ih =>
    have hstep : hbmTested s m fail (n + 1) = hbmDieTested m fail (hbmTested s m fail n) n := by
      rw [hbmTested, List.range_succ, List.foldl_append]
      rfl
    rw [hstep, mget_hbmDieTested, ih]
    simp only [Nat.lt_succ_iff_lt_or_eq, or_and_right, exists_or, exists_eq_left]
    by_cases hnow : bit m n = true ∧ n * dieHbm ≤ b ∧ b < n * dieHbm + dieHbm
    · rw [if_pos hnow, if_pos (.inr hnow)]
    · simp only [if_neg hnow, or_iff_left hnow]

theorem dies_le_four (v : Variant) : dies v ≤ 4 := by cases v <;> decide

theorem hbmSelftestEnd_ends {s : State} (hp : s.powered = true) {h m : Nat} (hrun : s.hbmTest = some (h, m)) (fail : List Nat) :
    ∃ t, exec (.hbmSelftestEnd fail) s = .next t ∧ t.hbmTest = none ∧
      (∀ d b, d < dies s.variant → bit m d = true → d * dieHbm ≤ b → b < d * dieHbm + dieHbm → mget t.mem b = 0) ∧
      (∀ b, (∀ d, d < dies s.variant → bit m d = true → b < d * dieHbm ∨ d * dieHbm + dieHbm ≤ b) → mget t.mem b = mget s.mem b) ∧
      (HandleWaits s h → HandleDone t h .ok 0 []) ∧
      Touches ([Field.hbmTest, .mem, .ecc, .blobs, .handles, .alertN] ++ eventFields) s t := by
  have htest := touches_hbmTested s m fail (dies s.variant)
  have hfinish := touches_finishHandle (hbmTested s m fail (dies s.variant)) h .ok 0 []
  have hall : Touches ([Field.hbmTest, .mem, .ecc, .blobs, .handles, .alertN] ++ eventFields) s
    (finishHandle (hbmTested s m fail (dies s.variant)) h .ok 0 []) :=
    (htest.mono rfl).trans (hfinish.mono rfl)
  obtain ⟨t, ht, hend⟩ := done_next_of hp hall (by decide)
  have hafter : Touches (.alertN :: .handles :: eventFields) (hbmTested s m fail (dies s.variant)) t := (hfinish.mono rfl).trans (hend.mono rfl)
  have hnone : (hbmTested s m fail (dies s.variant)).hbmTest = none :=
    (Touches.foldl (l := [.mem, .ecc, .blobs]) _ (touches_hbmDieTested m fail) _ _).same .hbmTest (by decide)
  have hmem : t.mem = _ := hafter.same .mem (by decide)
  refine ⟨t, (congrArg (done s) (hbmSelftestEnd_eq hrun fail)).trans ht, (hafter.same .hbmTest (by decide)).trans hnone, fun d b hd hm hlo hhi =>
    ?_, fun b hout => ?_, fun hw => ?_,
    hall.trans (hend.mono rfl)⟩
  · have htop : (d + 1) * dieHbm ≤ 4 * dieHbm := Nat.mul_le_mul_right _ (by have := dies_le_four s.variant; omega)
    rw [hmem, mget_hbmTested, if_pos ⟨d, hd, hm, hlo, hhi⟩, memDefault_hbm (by rw [Nat.add_mul] at htop; omega)]
  · rw [hmem, mget_hbmTested, if_neg]
    rintro ⟨d, hd, hm, hlo, hhi⟩
    have := hout d hd hm
    omega
  · exact (handleDone_finishHandle (hw.of_touches htest (by decide) (by decide)) .ok 0 []).of_handles (hend.same .handles (by decide))

/-- Settles O52: the queue and the checks of a graft, its end, FLASH_MAINT, and the start and the end of each test. -/
theorem graftsAndMemoryTests : Obligations.GraftsAndMemoryTests := fun _ hp =>
  ⟨fun _ _ _ ho hc hst => ctxGraft_takes ho hc hst,
    fun ue _ _ hrun hqueue hrails htest hmc htraffic => graftStart_checks hp ⟨hrun, hqueue, hrails, htest, hmc, htraffic⟩ ue,
    fun ue h => graftStart_idle hp h ue,
    fun _ hrun hrails hready hunused htraffic => graftComplete_ends hp ⟨hrun, hrails, hready, hunused, htraffic⟩,
    fun _ bad ue hrun hheld => graftComplete_waits hp hrun hheld bad ue, fun _ _ _ ho hst => flashMaint_takes ho hst,
    fun _ _ ho hst => flashSelftest_takes ho hst, fun res _ _ hrun => flashSelftestEnd_ends hp hrun res,
    fun _ _ ho hst => hbmSelftest_takes ho hst, fun fail _ _ hrun => hbmSelftestEnd_ends hp hrun fail⟩

end Sys2Proof
end

section
/-! SUPPORT. Sessions that keep what is said of them while records and events go out (O58). -/

namespace Sys2Proof

open Machine

/-! ### Sessions that keep what is said of them while records and events go out (R564, R587, R615) -/

/-- There are sessions of a number, and all of them are as `P` says. -/
structure SesAll (id : Nat) (P : Session → Prop) (s : State) : Prop where
  known : ∃ y ∈ s.sessions, y.id = id
  each : ∀ y ∈ s.sessions, y.id = id → P y

/-- A session once a record has gone out into its next buffer. -/
def recSent (x : Session) : Session := { (takeBuf x).2 with seqOut := x.seqOut + 1 }

variable {id : Nat} {P : Session → Prop} {s t : State}

theorem SesAll.congr (h : SesAll id P s) (he : t.sessions = s.sessions) : SesAll id P t := by
  obtain ⟨hsome, hall⟩ := h
  exact ⟨by rwa [he], by rwa [he]⟩

theorem SesAll.of_touches {l : List Field} (h : SesAll id P s) (ht : Touches l s t) (hl : Field.sessions ∉ l) : SesAll id P t :=
  h.congr (ht.same .sessions hl)

theorem SesAll.found (h : SesAll id P s) : ∃ y, sesAt s id = some y ∧ P y := by
  obtain ⟨⟨z, hz, hid⟩, hall⟩ := h
  cases hy : sesAt s id with
  | none =>
    have hno := List.find?_eq_none.1 hy z hz
    simp [hid] at hno
  | some y => exact ⟨y, rfl, hall y (List.mem_of_find?_eq_some hy) (sesAt_id hy)⟩

theorem SesAll.imp {Q : Session → Prop} (h : SesAll id P s) (hq : ∀ y, P y → Q y) : SesAll id Q s := ⟨h.known, fun y hy hid => hq y (h.each y hy hid)⟩

/-- Setting a session keeps what is said of the others, and of its own number if the new record says it too. -/
theorem SesAll.setSes (h : SesAll id P s) {z : Session} (hz : z.id = id → P z) : SesAll id P (setSes s z) := by
  obtain ⟨⟨y, hy, hid⟩, hall⟩ := h
  refine ⟨⟨if y.id == z.id then z else y, List.mem_map_of_mem hy, ?_⟩, fun w hw hwid => ?_⟩
  · split
    next he => exact (beq_iff_eq.1 he).symm.trans hid
    next => exact hid
  · obtain ⟨v, hv, rfl⟩ := List.mem_map.1 hw
    by_cases he : v.id == z.id
    · rw [if_pos he] at hwid ⊢
      exact hz hwid
    · rw [if_neg he] at hwid ⊢
      exact hall v hv hwid

/-- A session that is set is so. -/
theorem sesAll_setSes {x : Session} (hx : x ∈ s.sessions) {z : Session} (hid : z.id = x.id) : SesAll x.id (· = z) (setSes s z) := by
  refine ⟨⟨z, List.mem_map.2 ⟨x, hx, if_pos (beq_iff_eq.2 hid.symm)⟩, hid⟩, fun w hw hwid => ?_⟩
  obtain ⟨v, hv, rfl⟩ := List.mem_map.1 hw
  by_cases he : v.id == z.id
  · exact if_pos he
  · rw [if_neg he] at hwid
    exact absurd (beq_iff_eq.2 (hwid.trans hid.symm)) he

theorem sesAll_set {x : Session} (hx : x ∈ s.sessions) {z : Session} (hid : z.id = x.id) (h : P z) : SesAll x.id P (Machine.setSes s z) :=
  (sesAll_setSes hx hid).imp fun _ hy => hy ▸ h

theorem mem_of_sesAt {x : Session} (h : sesAt s id = some x) : x ∈ s.sessions := List.mem_of_find?_eq_some h

theorem SesAll.of_sesAt (h : SesAll id P s) {x : Session} (hx : sesAt s id = some x) : P x := h.each x (mem_of_sesAt hx) (sesAt_id hx)

theorem slotSes_mem {slot : Nat} {x : Session} (h : slotSes s slot = some x) : x ∈ s.sessions := List.mem_of_find?_eq_some h

/-! ### Records that go out (R491, R591) -/

theorem SesAll.sendRec (h : SesAll id P s) {x : Session} (hx : x.id = id → P (recSent x)) (kind target : Nat) (plain : List Byte) :
    SesAll id P (sendRec s x kind target plain) :=
  (h.setSes (z := recSent x) fun he => hx he).of_touches
    (((touches_emit ..).mono rfl).trans (touches_vector ..) : Touches [.out, .msixPba] (Machine.setSes s (recSent x)) _) (by decide)

theorem recSession_mem {dest : Nat} {x : Session} (h : recSession s dest = some x) : x ∈ s.sessions := by
  unfold recSession at h
  split at h
  · exact mem_of_sesAt h
  · exact List.mem_of_find?_eq_some h

/-- The records of the store go out; a session whose ring takes none stays as it is. -/
theorem SesAll.flushRecords (hsent : ∀ y, P y → m2hReady y = true → P (recSent y)) (h : SesAll id P s) : SesAll id P (flushRecords s) := by
  refine List.foldlRecOn (motive := SesAll id P) _ _ (h.of_touches (touches_records s []) (by decide)) fun t ht r _ => ?_
  split
  · exact ht.of_touches (touches_records t _) (by decide)
  next x hx =>
    split
    next hready => exact ht.sendRec (fun hid => hsent x (ht.each x (recSession_mem hx) hid) hready.1) _ _ _
    · exact ht.of_touches (touches_records t _) (by decide)

theorem mem_out_sendRec {o : Out} (h : o ∈ s.out) (x : Session) (kind target : Nat) (plain : List Byte) : o ∈ (sendRec s x kind target plain).out :=
  mem_out_vector _ (List.mem_append_left _ h)

theorem mem_out_flushRecords {o : Out} (h : o ∈ s.out) : o ∈ (flushRecords s).out := by
  refine List.foldlRecOn (motive := fun t : State => o ∈ t.out) _ _ h fun t ht r _ => ?_
  split
  · exact ht
  · split
    · exact mem_out_sendRec ht ..
    · exact ht

/-- With an empty store nothing goes out. -/
theorem flushRecords_nil (h : s.records = []) : flushRecords s = s := by
  have hnil : flushRecords s = { s with records := [] } := by
    rw [flushRecords, h]
    rfl
  exact hnil.trans (congrArg (fun l => ({ s with records := l } : State)) h.symm)

/-! ### Events that go out (R587, R615) -/

/-- What an event leaves of a session: its waiting events and their loss alone change. -/
def EventKeeps (P : Session → Prop) : Prop := ∀ y e l, P y → P { y with events := e, lost := l }

theorem SesAll.sendEvent (hP : EventKeeps P) (h : SesAll id P s) {x : Session} (hx : x.id = id → P x) (ty : Nat) (body : List Byte) :
    SesAll id P (sendEvent s x ty body) := by
  have hset : ∀ (e : List (List Byte)) (l : Bool), SesAll id P (Machine.setSes s { x with events := e, lost := l }) :=
    fun e l => h.setSes fun he => hP _ _ _ (hx he)
  have hsecured : ∀ m o, SesAll id P (emit (Machine.setSes (secure s x m).2 { x with lost := false }) o) := fun m o =>
    ((h.of_touches (touches_secure s x m) (by decide)).setSes fun he => hP x x.events false (hx he)).of_touches (touches_emit ..) (by decide)
  unfold Machine.sendEvent
  split
  · exact h
  split
  · dsimp only
    split
    · exact hset _ _
    · exact hset _ x.lost
  · dsimp only
    split
    · exact ((hsecured _ _).of_touches (touches_eventFifo ..) (by decide)).of_touches (touches_vector ..) (by decide)
    · exact (hsecured _ _).of_touches (touches_wire ..) (by decide)

theorem SesAll.eventAll (hP : EventKeeps P) (h : SesAll id P s) (test : Session → Bool) (ty : Nat) (body : List Byte) :
    SesAll id P (eventAll s test ty body) := by
  refine List.foldlRecOn (motive := SesAll id P) _ _ h fun t ht x _ => ?_
  split
  next y hy =>
    split
    · exact ht.sendEvent hP (fun he => ht.each y (mem_of_sesAt hy) he) _ _
    · exact ht
  · exact ht

theorem touches_secFree (s : State) (code role part ses : Nat) : Touches secFields s (secFree s code role part ses) := by
  have hlog : ∀ (t : State) (d : List Byte), Touches secFields t (secLog t code role part ses d) := fun t d =>
    ((touches_wb ..).mono rfl).trans (((touches_bump ..).mono rfl).trans ((touches_eventAll ..).mono rfl))
  exact ((touches_draw s).mono rfl).trans (hlog _ _)

theorem SesAll.secFree (hP : EventKeeps P) (h : SesAll id P s) (code role part ses : Nat) : SesAll id P (secFree s code role part ses) := by
  have hlog : ∀ (t : State) (d : List Byte), SesAll id P t → SesAll id P (secLog t code role part ses d) := fun t d ht => by
    refine SesAll.eventAll hP (SesAll.of_touches (l := [.blobs, .regs, .faultq]) ht ?_ (by decide)) _ _ _
    exact ((touches_wb ..).mono rfl).trans ((touches_bump ..).mono rfl)
  exact hlog _ _ (h.of_touches (touches_draw s) (by decide))

end Sys2Proof
end

section
/-! SUPPORT. The host's writes into BAR0, GO, and PERST_N (O58). -/

namespace Sys2Proof

open Machine

/-! ### The host's writes into BAR0 (R584, R585) -/

/-- The registers of BAR0 that the host writes. -/
theorem touches_barWrites (s : State) (st n len : Nat) (req : List Byte) (tab : List Nat) :
    Touches [.mbStatus, .evHead, .mbReqLen, .mbReq, .msixTab] s
    { s with mbStatus := st, evHead := n, mbReqLen := len, mbReq := req, msixTab := tab } := by
  refine ⟨fun f hf => ?_⟩
  cases f
  case mbStatus | evHead | mbReqLen | mbReq | msixTab => simp at hf
  all_goals rfl

theorem touches_msixPba (s : State) (v : Nat) : Touches [.msixPba] s { s with msixPba := v } := by
  refine ⟨fun f hf => ?_⟩
  cases f
  case msixPba => simp at hf
  all_goals rfl

/-- A vector that is pending and not masked is signalled. -/
def msixSignal (u : State) (v : Nat) : State :=
  if bit u.msixPba v ∧ u.msixTab.getD (4 * v + 3) 1 % 2 = 0 then emit { u with msixPba := u.msixPba - 2 ^ v } (.msix v) else u

/-- The table as the host leaves it. -/
def msixSet (s : State) (l : List (Nat × Nat)) : State :=
  { s with msixTab := l.foldl (fun m w => m.set w.1 (if w.1 % 4 = 3 then w.2 % 2 else w.2 % 2 ^ 32)) s.msixTab }

theorem msixWrite_eq (s : State) (l : List (Nat × Nat)) : msixWrite s l = (List.range 18).foldl msixSignal (msixSet s l) := rfl

theorem touches_msixSignal (u : State) (v : Nat) : Touches [.out, .msixPba] u (msixSignal u v) :=
  .ite (((touches_msixPba ..).mono rfl).trans ((touches_emit ..).mono rfl)) .refl

theorem touches_msixSignals (u : State) (l : List Nat) : Touches [.out, .msixPba] u (l.foldl msixSignal u) := .foldl _ touches_msixSignal _ _

theorem bit_eq_testBit (n v : Nat) : bit n v = n.testBit v := by
  rw [bit, Nat.testBit_eq_decide_div_mod_eq]
  rfl

/-- Taking one pending bit away leaves the others. -/
theorem bit_sub_two_pow {n v w : Nat} (hv : bit n v = true) (hw : v ≠ w) : bit (n - 2 ^ v) w = bit n w := by
  have hodd : n / 2 ^ v % 2 = 1 := by simpa [bit] using hv
  have hle : 2 ^ v ≤ n := by
    by_contra hlt
    rw [Nat.div_eq_of_lt (by omega)] at hodd
    omega
  obtain hlow | hhigh := Nat.lt_or_gt_of_ne hw
  · obtain ⟨d, rfl⟩ := Nat.exists_eq_add_of_lt hlow
    have hhalf : (n - 2 ^ v) / 2 ^ v = n / 2 ^ v - 1 := by simpa using Nat.sub_mul_div n (2 ^ v) 1
    have hdiv : ∀ m : Nat, m / 2 ^ (v + d + 1) = m / 2 ^ v / 2 / 2 ^ d := fun m => by
      rw [Nat.div_div_eq_div_mul, Nat.div_div_eq_div_mul]
      congr 1
      ring
    have hpair : (n / 2 ^ v - 1) / 2 = n / 2 ^ v / 2 := by
      generalize n / 2 ^ v = q at hodd
      omega
    rw [bit, bit, hdiv, hdiv, hhalf, hpair]
  · have hadd := Nat.testBit_two_pow_add_gt hhigh (n - 2 ^ v)
    rw [Nat.add_sub_cancel' hle] at hadd
    rw [bit_eq_testBit, bit_eq_testBit, hadd]

/-- The signals of the vectors before `n`: each that was pending and is not masked has gone out, and the later ones are pending as before. -/
theorem msixSignals_spec (u : State) (n : Nat) :
    (∀ v < n, bit u.msixPba v = true → u.msixTab.getD (4 * v + 3) 1 % 2 = 0 → Out.msix v ∈ ((List.range n).foldl msixSignal u).out) ∧
      ∀ v, n ≤ v → bit ((List.range n).foldl msixSignal u).msixPba v = bit u.msixPba v := by
  induction n with
  | zero => exact ⟨fun v hv => absurd hv (Nat.not_lt_zero v), fun _ _ => rfl⟩
  | succ n ih =>
    obtain ⟨hsent, hlater⟩ := ih
    have htab : ((List.range n).foldl msixSignal u).msixTab = u.msixTab := (touches_msixSignals u _).same .msixTab (by decide)
    rw [List.range_succ, List.foldl_append, List.foldl_cons, List.foldl_nil]
    generalize (List.range n).foldl msixSignal u = w at hsent hlater htab ⊢
    refine ⟨fun v hv hpend hmask => ?_, fun v hv => ?_⟩
    · obtain hlt | rfl := Nat.lt_succ_iff_lt_or_eq.1 hv
      · have hmem := hsent v hlt hpend hmask
        unfold msixSignal
        split
        · exact List.mem_append_left _ hmem
        · exact hmem
      · rw [← hlater v le_rfl] at hpend
        rw [← htab] at hmask
        rw [msixSignal, if_pos ⟨hpend, hmask⟩]
        exact List.mem_append_right _ (List.mem_singleton.2 rfl)
    · rw [← hlater v (by omega)]
      unfold msixSignal
      split
      next hgo => exact bit_sub_two_pow hgo.1 (by omega)
      · rfl

/-- BAR0 as the host has written it, before the vectors that it unmasked go out. -/
def barWritten (s : State) (len : Nat) (req : List Byte) (w : MbWrites) (ev : Nat) : State :=
  msixSet { s with mbStatus := s.mbStatus - (s.mbStatus &&& w.clr &&& 9), evHead := min s.evTail (s.evHead + ev), mbReqLen := len,
                   mbReq := req } w.msix

theorem mbHostWrites_eq (s : State) (len : Nat) (req : List Byte) (w : MbWrites) (ev : Nat) :
    mbHostWrites s len req w ev = (List.range 18).foldl msixSignal (barWritten s len req w ev) := rfl

theorem touches_barWritten (s : State) (len : Nat) (req : List Byte) (w : MbWrites) (ev : Nat) :
    Touches [.mbStatus, .evHead, .mbReqLen, .mbReq, .msixTab] s (barWritten s len req w ev) := touches_barWrites ..

theorem touches_mbHostWrites (s : State) (len : Nat) (req : List Byte) (w : MbWrites) (ev : Nat) :
    Touches [.mbStatus, .evHead, .mbReqLen, .mbReq, .msixTab, .out, .msixPba] s (mbHostWrites s len req w ev) := by
  rw [mbHostWrites_eq]
  exact ((touches_barWritten ..).mono rfl).trans ((touches_msixSignals ..).mono rfl)

/-- What the host's writes leave in BAR0. -/
theorem mbHostWrites_bar (s : State) (len : Nat) (req : List Byte) (w : MbWrites) (ev : Nat) :
    let t := mbHostWrites s len req w ev
    t.mbReq = req ∧ t.mbReqLen = len ∧ t.evHead = min s.evTail (s.evHead + ev) ∧ t.mbStatus = s.mbStatus - (s.mbStatus &&& w.clr &&& 9) ∧
      (∀ v, v < 18 → bit s.msixPba v = true → t.msixTab.getD (4 * v + 3) 1 % 2 = 0 → Out.msix v ∈ t.out) := by
  intro t
  have hsig : Touches [.out, .msixPba] (barWritten s len req w ev) t := touches_msixSignals ..
  refine ⟨hsig.same .mbReq (by decide), hsig.same .mbReqLen (by decide), hsig.same .evHead (by decide), hsig.same .mbStatus (by decide),
    fun v hv hpend hmask => ?_⟩
  rw [hsig.same .msixTab (by decide)] at hmask
  exact (msixSignals_spec (barWritten s len req w ev) 18).1 v hv hpend hmask

/-! ### GO (R585, R586) -/

theorem touches_mbStatus (s : State) (n k : Nat) : Touches [.mbStatus, .mbRspLen] s { s with mbStatus := n, mbRspLen := k } := by
  refine ⟨fun f hf => ?_⟩
  cases f
  case mbStatus | mbRspLen => simp at hf
  all_goals rfl

/-- A submission that ends with a transport error. -/
def mbFailed (s : State) (x : Nat) : State := emit { s with mbStatus := mbWith s x false, mbRspLen := 0 } (.mailbox x 0)

/-- What GO does on a free mailbox. -/
theorem mbGo_of_free {s : State} (h : bit s.mbStatus 1 = false) (len : Nat) (req : List Byte) (dict : Bool) : mbGo s len req dict =
    if 16384 < len then mbFailed s 2
    else if ¬(leAt req 0 1 = 5 ∨ leAt req 0 1 = 6) then mbFailed s 3
    else if leAt req 0 1 = 6 ∧ dict ∧ s.mcDown then mbFailed s 1
    else { s with mbStatus := mbWith s 0 true } := if_neg (by simp [h])

theorem mbGo_of_busy {s : State} (h : bit s.mbStatus 1 = true) (len : Nat) (req : List Byte) (dict : Bool) :
    mbGo s len req dict = { s with mbStatus := s.mbStatus ||| 8 } := if_pos h

theorem touches_mbFailed (s : State) (x : Nat) : Touches [.mbStatus, .mbRspLen, .out] s (mbFailed s x) :=
  ((touches_mbStatus ..).mono rfl).trans ((touches_emit ..).mono rfl)

theorem touches_mbGo (s : State) (len : Nat) (req : List Byte) (dict : Bool) : Touches [.mbStatus, .mbRspLen, .out] s (mbGo s len req dict) := by
  have hset : ∀ n, Touches [.mbStatus, .mbRspLen, .out] s { s with mbStatus := n } := fun n => (touches_mbStatus s n s.mbRspLen).mono rfl
  exact .ite (hset _) (.ite (touches_mbFailed ..) (.ite (touches_mbFailed ..) (.ite (touches_mbFailed ..) (hset _))))

theorem mem_out_mbGo {s : State} {o : Out} (h : o ∈ s.out) (len : Nat) (req : List Byte) (dict : Bool) : o ∈ (mbGo s len req dict).out := by
  have hfail : ∀ x, o ∈ (mbFailed s x).out := fun x => List.mem_append_left _ h
  unfold mbGo
  split
  · exact h
  dsimp only
  split
  · exact hfail 2
  split
  · exact hfail 3
  split
  · exact hfail 1
  · exact h

/-- What a submission leaves in MB_STATUS, and what it tells the host. -/
theorem mbGo_spec {w : State} (h : bit w.mbStatus 1 = false) (len : Nat) (req : List Byte) (dict : Bool) :
    (len ≤ 16384 → (leAt req 0 1 = 5 ∨ leAt req 0 1 = 6 ∧ (dict = false ∨ w.mcDown = false)) → (mbGo w len req dict).mbStatus = mbWith w 0 true) ∧
      (16384 < len → (mbGo w len req dict).mbStatus = mbWith w 2 false ∧ Out.mailbox 2 0 ∈ (mbGo w len req dict).out) ∧
      (len ≤ 16384 → leAt req 0 1 ≠ 5 → leAt req 0 1 ≠ 6 →
        (mbGo w len req dict).mbStatus = mbWith w 3 false ∧ Out.mailbox 3 0 ∈ (mbGo w len req dict).out) ∧
      (len ≤ 16384 → leAt req 0 1 = 6 → dict = true → w.mcDown = true →
        (mbGo w len req dict).mbStatus = mbWith w 1 false ∧ Out.mailbox 1 0 ∈ (mbGo w len req dict).out) := by
  have hfail : ∀ x, (mbFailed w x).mbStatus = mbWith w x false ∧ Out.mailbox x 0 ∈ (mbFailed w x).out :=
    fun x => ⟨rfl, List.mem_append_right _ (List.mem_singleton.2 rfl)⟩
  rw [mbGo_of_free h]
  refine ⟨fun hlen htype => ?_, fun hlen => ?_, fun hlen h5 h6 => ?_, fun hlen h6 hd hmc => ?_⟩
  · rw [if_neg (by omega), if_neg (by tauto), if_neg]
    rintro ⟨h6, hd, hmc⟩
    obtain h5 | ⟨-, hno | hno⟩ := htype
    · omega
    · simp [hno] at hd
    · simp [hno] at hmc
  · rw [if_pos hlen]
    exact hfail 2
  · rw [if_neg (by omega), if_pos (by tauto)]
    exact hfail 3
  · rw [if_neg (by omega), if_neg (by tauto), if_pos ⟨h6, hd, hmc⟩]
    exact hfail 1

theorem mbGo_takes {s : State} (hp : s.powered = true) (len : Nat) (req : List Byte) (dict : Bool) (clr : MbWrites) (ev : Nat) :
    ∃ t, exec (.mbGo len req dict clr ev) s = .next t ∧
      let w := mbHostWrites s len req clr ev
      t.mbReq = req ∧ t.mbReqLen = len ∧ t.evHead = min s.evTail (s.evHead + ev) ∧ t.msixTab = w.msixTab ∧
      (∀ v, v < 18 → bit s.msixPba v = true → t.msixTab.getD (4 * v + 3) 1 % 2 = 0 → Out.msix v ∈ t.out) ∧
      (clr.ctl % 2 ≠ 1 → t.mbStatus = s.mbStatus - (s.mbStatus &&& clr.clr &&& 9) ∧ t.mbRspLen = s.mbRspLen) ∧
      (clr.ctl % 2 = 1 → bit w.mbStatus 1 = true → t.mbStatus = w.mbStatus ||| 8 ∧ t.mbRspLen = s.mbRspLen) ∧
      (clr.ctl % 2 = 1 → bit w.mbStatus 1 = false →
        (len ≤ 16384 → (leAt req 0 1 = 5 ∨ leAt req 0 1 = 6 ∧ (dict = false ∨ s.mcDown = false)) → t.mbStatus = mbWith w 0 true) ∧
        (16384 < len → t.mbStatus = mbWith w 2 false ∧ Out.mailbox 2 0 ∈ t.out) ∧
        (len ≤ 16384 → leAt req 0 1 ≠ 5 → leAt req 0 1 ≠ 6 → t.mbStatus = mbWith w 3 false ∧ Out.mailbox 3 0 ∈ t.out) ∧
        (len ≤ 16384 → leAt req 0 1 = 6 → dict = true → s.mcDown = true → t.mbStatus = mbWith w 1 false ∧ Out.mailbox 1 0 ∈ t.out)) ∧
      Touches [.mbStatus, .evHead, .mbReq, .mbReqLen, .mbRspLen, .msixTab, .msixPba, .out, .alertN] s t := by
  obtain ⟨hreq, hlen, hhead, hstatus, hmsix⟩ := mbHostWrites_bar s len req clr ev
  have hw := touches_mbHostWrites s len req clr ev
  generalize hwd : mbHostWrites s len req clr ev = w at *
  have hgo : Touches [.mbStatus, .mbRspLen, .out] w (if clr.ctl % 2 = 1 then mbGo w len req dict else w) := .ite (touches_mbGo ..) .refl
  have hall : Touches [.mbStatus, .evHead, .mbReq, .mbReqLen, .mbRspLen, .msixTab, .msixPba, .out] s
      (if clr.ctl % 2 = 1 then mbGo w len req dict else w) := (hw.mono rfl).trans (hgo.mono rfl)
  obtain ⟨t, ht, hend⟩ := done_next_of hp hall (by decide)
  have hafter : Touches [.mbStatus, .mbRspLen, .out, .alertN] w t := (hgo.mono rfl).trans (hend.mono rfl)
  have htab : t.msixTab = w.msixTab := hafter.same .msixTab (by decide)
  have hout : t.out = _ := hend.same .out (by decide)
  have hst : t.mbStatus = _ := hend.same .mbStatus (by decide)
  have hrsp : t.mbRspLen = _ := hend.same .mbRspLen (by decide)
  have hmc : w.mcDown = s.mcDown := hw.same .mcDown (by decide)
  have hrspw : w.mbRspLen = s.mbRspLen := hw.same .mbRspLen (by decide)
  have hexec : exec (.mbGo len req dict clr ev) s = .next t := by
    rw [← ht, ← hwd]
    rfl
  refine ⟨t, hexec, (hafter.same .mbReq (by decide)).trans hreq, (hafter.same .mbReqLen (by decide)).trans hlen,
    (hafter.same .evHead (by decide)).trans hhead, htab, fun v hv hpend hmask => ?_, fun hc => ?_, fun hc hbusy => ?_, fun hc hfree => ?_,
    (hall.mono rfl).trans (hend.mono rfl)⟩
  · have hmem := hmsix v hv hpend (htab ▸ hmask)
    rw [hout]
    split
    · exact mem_out_mbGo hmem ..
    · exact hmem
  · rw [hst, hrsp, if_neg hc]
    exact ⟨hstatus, hrspw⟩
  · rw [hst, hrsp, if_pos hc, mbGo_of_busy hbusy]
    exact ⟨rfl, hrspw⟩
  · rw [hst, hout, if_pos hc, ← hmc]
    exact mbGo_spec hfree len req dict

/-! ### PERST_N (R583) -/

theorem touches_closeSession (s : State) (id : Nat) : Touches [.sessions, .records, .asks, .lockBy, .lockLeft] s (closeSession s id) := by
  refine ⟨fun f hf => ?_⟩
  cases f
  case sessions | records | asks | lockBy | lockLeft => simp at hf
  all_goals rfl

theorem sessions_closeSessions (l : List Nat) : ∀ s : State, (l.foldl closeSession s).sessions = s.sessions.filter (fun x => !l.contains x.id) := by
  induction l with
  | nil => exact fun s => (List.filter_eq_self.2 fun _ _ => rfl).symm
  | cons a r ih =>
    intro s
    rw [List.foldl_cons, ih, closeSession, List.filter_filter]
    refine List.filter_congr fun x _ => ?_
    rw [List.contains_cons, Bool.not_or, Bool.and_comm]
    rfl

/-- The function's registers at reset. -/
def barReset (s : State) : State :=
  { s with mbStatus := 0, mbRspLen := 0, mbReqLen := 0, mbReq := [], mbRsp := [], evHead := 0, evTail := 0, evFifo := [],
           evLost := false, msixTab := State.reset.msixTab, msixPba := 0, rrSlot := 0 }

theorem touches_barReset (s : State) : Touches [.mbStatus, .mbRspLen, .mbReqLen, .mbReq, .mbRsp, .evHead, .evTail, .evFifo, .evLost, .msixTab,
    .msixPba, .rrSlot] s (barReset s) := by
  refine ⟨fun f hf => ?_⟩
  cases f
  case mbStatus | mbRspLen | mbReqLen | mbReq | mbRsp | evHead | evTail | evFifo | evLost | msixTab | msixPba | rrSlot => simp at hf
  all_goals rfl

/-- The sessions of the host's transports, closed. -/
def hostClosed (s : State) : State := ((s.sessions.filter (fun x => decide (x.transport ≤ 1))).map Session.id).foldl closeSession s

theorem transport_of_hostClosed {s : State} {y : Session} (h : y ∈ (hostClosed s).sessions) : 1 < y.transport := by
  rw [hostClosed, sessions_closeSessions, List.mem_filter] at h
  obtain ⟨hy, hno⟩ := h
  by_contra hle
  have hmem : y.id ∈ (s.sessions.filter (fun x => decide (x.transport ≤ 1))).map Session.id :=
    List.mem_map.2 ⟨y, List.mem_filter.2 ⟨hy, decide_eq_true (by omega)⟩, rfl⟩
  rw [List.contains_iff_mem.2 hmem] at hno
  exact Bool.noConfusion hno

theorem perstN_ends {s : State} (hp : s.powered = true) : ∃ t, exec .perstN s = .next t ∧ (∀ y ∈ t.sessions, 1 < y.transport) ∧ t.mbStatus = 0 ∧
    t.mbRspLen = 0 ∧ t.evHead = 0 ∧ t.evTail = 0 ∧ t.evFifo = [] ∧ t.mbReq = [] ∧ t.mbRsp = [] ∧ t.msixTab = State.reset.msixTab ∧ t.msixPba = 0 ∧
    Touches [.sessions, .asks, .records, .lockBy, .lockLeft, .mbStatus, .mbRspLen, .mbReqLen, .mbReq, .mbRsp, .evHead, .evTail, .evFifo,
      .evLost, .msixTab, .msixPba, .rrSlot, .alertN] s t := by
  have hclosed : Touches [.sessions, .records, .asks, .lockBy, .lockLeft] s (hostClosed s) := .foldl _ touches_closeSession _ _
  have hreset := touches_barReset (hostClosed s)
  have hall : Touches [.sessions, .asks, .records, .lockBy, .lockLeft, .mbStatus, .mbRspLen, .mbReqLen, .mbReq, .mbRsp, .evHead, .evTail, .evFifo,
      .evLost, .msixTab, .msixPba, .rrSlot] s (barReset (hostClosed s)) := (hclosed.mono rfl).trans (hreset.mono rfl)
  obtain ⟨t, ht, hend⟩ := done_next_of hp hall (by decide)
  refine ⟨t, ht, fun y hy => ?_, hend.same .mbStatus (by decide), hend.same .mbRspLen (by decide), hend.same .evHead (by decide),
    hend.same .evTail (by decide), hend.same .evFifo (by decide), hend.same .mbReq (by decide), hend.same .mbRsp (by decide),
    hend.same .msixTab (by decide), hend.same .msixPba (by decide), (hall.mono rfl).trans (hend.mono rfl)⟩
  rw [hend.same .sessions (by decide)] at hy
  exact transport_of_hostClosed hy

end Sys2Proof
end

section
/-! SUPPORT. The tails of the rings and RING_WRITE (O58). -/

namespace Sys2Proof

open Machine

/-! ### A session as it is set, by itself or with an entry in the security log -/

section Set

variable {s : State} {x z : Session} (hp : s.powered = true) (hx : x ∈ s.sessions) (hz : z.id = x.id)

include hx hz in
theorem sesAt_set : sesAt (setSes s z) x.id = some z := by
  obtain ⟨y, hy, rfl⟩ := (sesAll_setSes hx hz).found
  exact hy

include hp hx hz

theorem set_next : ∃ t, done s (setSes s z) = .next t ∧ sesAt t x.id = some z ∧ Touches [.sessions, .alertN] s t := by
  obtain ⟨t, ht, hend⟩ := done_next_of hp (touches_setSes s z) rfl
  refine ⟨t, ht, ?_, ((touches_setSes s z).mono rfl).trans (hend.mono rfl)⟩
  rw [sesAt_congr (hend.same .sessions (by decide)), sesAt_set hx hz]

theorem setLogged_next {P : Session → Prop} (hP : EventKeeps P) (h : P z) (code role part ses : Nat) :
    ∃ t y, done s (secFree (setSes s z) code role part ses) = .next t ∧ sesAt t x.id = some y ∧ P y ∧ Touches (.alertN :: secFields) s t := by
  have hall : Touches secFields s (secFree (setSes s z) code role part ses) := ((touches_setSes s z).mono rfl).trans (touches_secFree ..)
  obtain ⟨t, ht, hend⟩ := done_next_of hp hall (by decide)
  have hset : SesAll x.id P (setSes s z) := sesAll_set hx hz h
  obtain ⟨y, hy, hkept⟩ := ((hset.secFree hP code role part ses).of_touches hend (by decide)).found
  exact ⟨t, y, ht, hy, hkept, (hall.mono rfl).trans (hend.mono rfl)⟩

end Set

/-! ### H2M_TAIL (R588 to R590) -/

/-- Entries that a tail posts. -/
def postedBy (tail old : Nat) : Nat := (tail + 2 ^ 32 - old % 2 ^ 32) % 2 ^ 32

/-- The posted entries' bytes. -/
def postedEnts (n : Nat) (ents : List (List Byte)) : List (List Byte) := (List.range n).map (fun i => ents.getD i [])

theorem exec_h2mTail {s : State} {slot : Nat} {x : Session} (h : slotSes s slot = some x) (tail : Nat) (ents : List (List Byte)) :
    exec (.h2mTail slot tail ents) s = done s (h2mTail s x tail ents) := by
  have hexec : exec (.h2mTail slot tail ents) s = done s (match slotSes s slot with
    | some x => h2mTail s x tail ents
    | none => s) := rfl
  rw [hexec, h]

theorem h2mTail_of_stopped {s : State} {x : Session} (h : ringLen x.ringH = 0 ∨ x.errH ≠ 0) (tail : Nat) (ents : List (List Byte)) :
    h2mTail s x tail ents = setSes s { x with h2mTail := tail % 2 ^ 32 } := if_pos h

section H2m

variable {s : State} {x : Session} (hlen : ringLen x.ringH ≠ 0) (herr : x.errH = 0)

include hlen herr

theorem h2mTail_of_outside (h : ringOutside x x.ringH = true) (tail : Nat) (ents : List (List Byte)) :
    h2mTail s x tail ents = secFree (setSes s { x with h2mTail := tail % 2 ^ 32, errH := 3 }) 4 (Role.code x.role) 0xFF x.id :=
  (if_neg (by tauto)).trans (if_pos h)

theorem h2mTail_of_inside (h : ringOutside x x.ringH = false) (tail : Nat) (ents : List (List Byte)) : h2mTail s x tail ents =
    if ringLen x.ringH < x.h2mEnts.length + postedBy tail x.h2mTail then setSes s { x with h2mTail := tail % 2 ^ 32, errH := 1 }
    else setSes s { x with h2mTail := tail % 2 ^ 32, h2mEnts := x.h2mEnts ++ postedEnts (postedBy tail x.h2mTail) ents } :=
  (if_neg (by tauto)).trans (if_neg (by simp [h]))

end H2m

/-- What a session says once H2M_TAIL has been written. -/
def H2mPosted (s : State) (x : Session) (tail : Nat) (ents : List (List Byte)) (t : State) (y : Session) : Prop :=
  let n := (tail + 2 ^ 32 - x.h2mTail % 2 ^ 32) % 2 ^ 32
  y.h2mTail = tail % 2 ^ 32 ∧ y.errM = x.errM ∧
    (ringLen x.ringH = 0 ∨ x.errH ≠ 0 → y = { x with h2mTail := tail % 2 ^ 32 } ∧ Touches [.sessions, .alertN] s t) ∧
    (ringLen x.ringH ≠ 0 → x.errH = 0 → ringOutside x x.ringH = true → y.errH = 3 ∧ y.h2mEnts = x.h2mEnts ∧ Touches (.alertN :: secFields) s t) ∧
    (ringLen x.ringH ≠ 0 → x.errH = 0 → ringOutside x x.ringH = false → Touches [.sessions, .alertN] s t ∧
      (x.h2mEnts.length + n ≤ ringLen x.ringH →
        y = { x with h2mTail := tail % 2 ^ 32, h2mEnts := x.h2mEnts ++ (List.range n).map (fun i => ents.getD i []) }) ∧
      (ringLen x.ringH < x.h2mEnts.length + n → y = { x with h2mTail := tail % 2 ^ 32, errH := 1 }))

theorem h2mTail_posts {s : State} (hp : s.powered = true) {slot : Nat} {x : Session} (hslot : slotSes s slot = some x) (tail : Nat)
    (ents : List (List Byte)) :
    ∃ t y, exec (.h2mTail slot tail ents) s = .next t ∧ sesAt t x.id = some y ∧ H2mPosted s x tail ents t y := by
  have hx := slotSes_mem hslot
  rw [exec_h2mTail hslot]
  by_cases hstop : ringLen x.ringH = 0 ∨ x.errH ≠ 0
  · rw [h2mTail_of_stopped hstop]
    obtain ⟨t, ht, hy, htouch⟩ := set_next (z := { x with h2mTail := tail % 2 ^ 32 }) hp hx rfl
    exact ⟨t, _, ht, hy, rfl, rfl, fun _ => ⟨rfl, htouch⟩, fun hl he => by tauto, fun hl he => by tauto⟩
  · obtain ⟨hlen, herr⟩ : ringLen x.ringH ≠ 0 ∧ x.errH = 0 := by tauto
    cases hout : ringOutside x x.ringH with
    | true =>
      rw [h2mTail_of_outside hlen herr hout]
      obtain ⟨t, y, ht, hy, ⟨h1, h2, h3, h4⟩, htouch⟩ := setLogged_next (z := { x with h2mTail := tail % 2 ^ 32, errH := 3 })
        (P := fun y => y.h2mTail = tail % 2 ^ 32 ∧ y.errM = x.errM ∧ y.errH = 3 ∧ y.h2mEnts = x.h2mEnts) hp hx rfl (fun _ _ _ h => h)
        ⟨rfl, rfl, rfl, rfl⟩ 4 (Role.code x.role) 0xFF x.id
      exact ⟨t, y, ht, hy, h1, h2, fun h => absurd h hstop, fun _ _ _ => ⟨h3, h4, htouch⟩, fun _ _ h => by simp [hout] at h⟩
    | false =>
      rw [h2mTail_of_inside hlen herr hout]
      by_cases hover : ringLen x.ringH < x.h2mEnts.length + postedBy tail x.h2mTail
      · rw [if_pos hover]
        obtain ⟨t, ht, hy, htouch⟩ := set_next (z := { x with h2mTail := tail % 2 ^ 32, errH := 1 }) hp hx rfl
        refine ⟨t, _, ht, hy, rfl, rfl, fun h => absurd h hstop, fun _ _ h => by simp [hout] at h, fun _ _ _ => ⟨htouch, fun hle => ?_, fun _ => rfl⟩⟩
        exact absurd hover (Nat.not_lt.2 hle)
      · rw [if_neg hover]
        obtain ⟨t, ht, hy, htouch⟩ := set_next
          (z := { x with h2mTail := tail % 2 ^ 32, h2mEnts := x.h2mEnts ++ postedEnts (postedBy tail x.h2mTail) ents }) hp hx rfl
        exact ⟨t, _, ht, hy, rfl, rfl, fun h => absurd h hstop, fun _ _ h => by simp [hout] at h,
          fun _ _ _ => ⟨htouch, fun _ => rfl, fun hlt => absurd hlt hover⟩⟩

/-! ### M2H_TAIL (R588 to R590, R596) -/

theorem exec_m2hTail {s : State} {slot : Nat} {x : Session} (h : slotSes s slot = some x) (tail : Nat) (ents : List (List Byte)) :
    exec (.m2hTail slot tail ents) s = done s (m2hTail s x tail ents) := by
  have hexec : exec (.m2hTail slot tail ents) s = done s (match slotSes s slot with
    | some x => m2hTail s x tail ents
    | none => s) := rfl
  rw [hexec, h]

/-- The buffers that a session's ring holds with the posted ones. -/
def postedBufs (x : Session) (new : List (List Byte)) : List (Nat × Nat) :=
  x.m2hBufs ++ new.map (fun e => if bufOk x e then (entryAddr e, entryLen e) else (0, 0))

theorem m2hTail_of_stopped {s : State} {x : Session} (h : ringLen x.ringM = 0 ∨ x.errM ≠ 0) (tail : Nat) (ents : List (List Byte)) :
    m2hTail s x tail ents = setSes s { x with m2hTail := tail % 2 ^ 32 } := if_pos h

section M2h

variable {s : State} {x : Session} (hlen : ringLen x.ringM ≠ 0) (herr : x.errM = 0)

include hlen herr

theorem m2hTail_of_outside (h : ringOutside x x.ringM = true) (tail : Nat) (ents : List (List Byte)) :
    m2hTail s x tail ents = secFree (setSes s { x with m2hTail := tail % 2 ^ 32, errM := 3 }) 4 (Role.code x.role) 0xFF x.id :=
  (if_neg (by tauto)).trans (if_pos h)

theorem m2hTail_of_over (h : ringOutside x x.ringM = false) {tail : Nat} (hn : ringLen x.ringM < x.m2hBufs.length + postedBy tail x.m2hTail)
    (ents : List (List Byte)) : m2hTail s x tail ents = setSes s { x with m2hTail := tail % 2 ^ 32, errM := 2 } :=
  (if_neg (by tauto)).trans ((if_neg (by simp [h])).trans (if_pos hn))

/-- Buffers that all lie in the bounce ranges: the ring takes them, and what waits goes out. -/
theorem m2hTail_of_posted (h : ringOutside x x.ringM = false) {tail : Nat} (hn : x.m2hBufs.length + postedBy tail x.m2hTail ≤ ringLen x.ringM)
    {ents : List (List Byte)} (hin : ∀ e ∈ postedEnts (postedBy tail x.m2hTail) ents, inBounce x (entryAddr e) (entryLen e) = true) :
    m2hTail s x tail ents = resumeUnit (flushSession
      (setSes s { x with m2hTail := tail % 2 ^ 32, m2hBufs := postedBufs x (postedEnts (postedBy tail x.m2hTail) ents) }) x.id) := by
  have hnone : (postedEnts (postedBy tail x.m2hTail) ents).filter (fun e => !inBounce x (entryAddr e) (entryLen e)) = [] :=
    List.filter_eq_nil_iff.2 fun e he => by simp [hin e he]
  refine (if_neg (by tauto)).trans ((if_neg (by simp [h])).trans ((if_neg (Nat.not_lt.2 hn)).trans ?_))
  exact congrArg (fun l : List (List Byte) => resumeUnit (flushSession (l.foldl (fun t _ => secFree t 4 (Role.code x.role) 0xFF x.id)
    (setSes s { x with m2hTail := tail % 2 ^ 32, m2hBufs := postedBufs x (postedEnts (postedBy tail x.m2hTail) ents) })) x.id)) hnone

end M2h

/-- A session with nothing that waits, while the store is empty, has nothing to let out. -/
theorem flushSession_idle {s : State} {id : Nat} {x : Session} (hx : sesAt s id = some x) (hw : x.waiting = []) (hr : s.records = []) :
    flushSession s id = s := by
  have hflush : flushSession s id = flushRecords s := by
    rw [flushSession, hx]
    dsimp only
    rw [flushWaiting, hx]
    dsimp only
    rw [hw]
  rw [hflush, flushRecords_nil hr]

/-- With no commands that wait for room nothing resumes. -/
theorem resumeUnit_idle {s : State} (h : ∀ p ∈ partitions s, unitWaits s p = false) : resumeUnit s = s := by
  have hfold : ∀ l : List Nat, (∀ p ∈ l, unitWaits s p = false) →
      l.foldl (fun t p => if unitWaits t p then drainCommands t p t.beat else t) s = s := by
    intro l
    induction l with
    | nil => exact fun _ => rfl
    | cons p r ih =>
      intro hl
      rw [List.foldl_cons, if_neg (by simp [hl p (List.mem_cons_self ..)])]
      exact ih fun q hq => hl q (List.mem_cons_of_mem _ hq)
  exact hfold _ h

/-- A session that is set while nothing waits, neither with it nor for room in the store. -/
theorem setFlushed_next {s : State} {x z : Session} (hp : s.powered = true) (hx : x ∈ s.sessions) (hz : z.id = x.id) (hw : z.waiting = [])
    (hr : s.records = []) (hu : ∀ p ∈ partitions s, unitWaits s p = false) :
    ∃ t, done s (resumeUnit (flushSession (setSes s z) x.id)) = .next t ∧ sesAt t x.id = some z ∧ Touches [.sessions, .alertN] s t := by
  rw [flushSession_idle (sesAt_set hx hz) hw hr, resumeUnit_idle (s := setSes s z) hu]
  exact set_next hp hx hz

theorem m2hTail_posts {s : State} (hp : s.powered = true) {slot : Nat} {x : Session} (hslot : slotSes s slot = some x) (tail : Nat)
    (ents : List (List Byte)) :
    let new := postedEnts (postedBy tail x.m2hTail) ents
    ((ringLen x.ringM = 0 ∨ x.errM ≠ 0) → ∃ t, exec (.m2hTail slot tail ents) s = .next t ∧
      sesAt t x.id = some { x with m2hTail := tail % 2 ^ 32 } ∧ Touches [.sessions, .alertN] s t) ∧
    (ringLen x.ringM ≠ 0 → x.errM = 0 → ringOutside x x.ringM = true → ∃ t y, exec (.m2hTail slot tail ents) s = .next t ∧
      sesAt t x.id = some y ∧ y.errM = 3 ∧ y.errH = x.errH ∧ y.m2hBufs = x.m2hBufs ∧ Touches (.alertN :: secFields) s t) ∧
    (ringLen x.ringM ≠ 0 → x.errM = 0 → ringOutside x x.ringM = false → ringLen x.ringM < x.m2hBufs.length + postedBy tail x.m2hTail →
      ∃ t, exec (.m2hTail slot tail ents) s = .next t ∧ sesAt t x.id = some { x with m2hTail := tail % 2 ^ 32, errM := 2 } ∧
        Touches [.sessions, .alertN] s t) ∧
    (ringLen x.ringM ≠ 0 → x.errM = 0 → ringOutside x x.ringM = false → x.m2hBufs.length + postedBy tail x.m2hTail ≤ ringLen x.ringM →
      x.waiting = [] → s.records = [] → (∀ p ∈ partitions s, unitWaits s p = false) →
      (∀ e ∈ new, inBounce x (entryAddr e) (entryLen e) = true) →
      ∃ t, exec (.m2hTail slot tail ents) s = .next t ∧
        sesAt t x.id = some { x with m2hTail := tail % 2 ^ 32, m2hBufs := postedBufs x new } ∧ Touches [.sessions, .alertN] s t) := by
  intro new
  have hx := slotSes_mem hslot
  rw [exec_m2hTail hslot]
  refine ⟨fun hstop => ?_, fun hlen herr hout => ?_, fun hlen herr hin hn => ?_, fun hlen herr hin hn hw hr hu hb => ?_⟩
  · rw [m2hTail_of_stopped hstop]
    exact set_next hp hx rfl
  · rw [m2hTail_of_outside hlen herr hout]
    obtain ⟨t, y, ht, hy, ⟨h1, h2, h3⟩, htouch⟩ := setLogged_next (z := { x with m2hTail := tail % 2 ^ 32, errM := 3 })
      (P := fun y => y.errM = 3 ∧ y.errH = x.errH ∧ y.m2hBufs = x.m2hBufs) hp hx rfl (fun _ _ _ h => h) ⟨rfl, rfl, rfl⟩ 4 (Role.code x.role)
      0xFF x.id
    exact ⟨t, y, ht, hy, h1, h2, h3, htouch⟩
  · rw [m2hTail_of_over hlen herr hin hn]
    exact set_next hp hx rfl
  · rw [m2hTail_of_posted hlen herr hin hn hb]
    exact setFlushed_next hp hx rfl hw hr hu

/-! ### RING_WRITE (R588, R590, R620) -/

theorem touches_setRing (s : State) (x : Session) (m : Bool) (val : List Byte) : Touches [.records, .sessions, .out, .msixPba] s
    (setRing s x m val) :=
  .ite (((touches_setSes ..).mono rfl).trans (touches_flushRecords _)) ((touches_setSes ..).mono rfl)

/-- What a session says once one of its rings is set. -/
def RingSet (x : Session) (m : Bool) (val : List Byte) (y : Session) : Prop :=
  (m = true → y.ringM = val ∧ y.m2hBufs = [] ∧ y.m2hTail = 0 ∧ y.m2hHead = 0 ∧ y.errM = 0 ∧ y.errH = x.errH) ∧
    (m = false → y.ringH = val ∧ y.h2mEnts = [] ∧ y.h2mTail = 0 ∧ y.h2mHead = 0 ∧ y.errH = 0 ∧ y.errM = x.errM)

theorem sesAll_setRing {s : State} {x : Session} (hx : x ∈ s.sessions) (m : Bool) (val : List Byte) :
    SesAll x.id (RingSet x m val) (setRing s x m val) := by
  cases m with
  | true =>
    have hset : SesAll x.id (RingSet x true val)
        (setSes s { x with ringM := val, m2hTail := 0, m2hHead := 0, m2hBufs := [], errM := 0 }) :=
      sesAll_set hx rfl ⟨fun _ => ⟨rfl, rfl, rfl, rfl, rfl, rfl⟩, fun h => by simp at h⟩
    refine hset.flushRecords fun y hy hready => ?_
    obtain ⟨-, hbufs, -⟩ := hy.1 rfl
    simp [m2hReady, hbufs] at hready
  | false =>
    exact sesAll_set hx rfl ⟨fun h => by simp at h, fun _ => ⟨rfl, rfl, rfl, rfl, rfl, rfl⟩⟩

theorem ringWrite_takes {s : State} {ses : Nat} {x : Session} {m : Bool} {val : List Byte} (ho : OpenSession s ses 2 x)
    (hst : setStatus s x 0x9010 (if m then 7 else 6) val (decide (2 ≤ x.transport)) (ringBad val) false false = .ok) :
    SetTakes s (.ringWrite ses m val) ses 0x9010 (if m then 7 else 6) [.sessions, .records]
      (fun t => ∃ y, sesAt t ses = some y ∧ RingSet x m val y) := by
  obtain ⟨a, n, hadm⟩ := admitted_eq s ses
  have hid : x.id = ses := sesAt_id ho.sesAt_eq
  have hx : x ∈ (admitted s ses).sessions := by
    rw [(touches_admitted s ses).same .sessions (by decide)]
    exact mem_of_sesAt ho.sesAt_eq
  have hring := touches_setRing (admitted s ses) x m val
  have hset := sesAll_setRing hx m val
  rw [hid] at hset
  obtain ⟨t, ht, hout, htouch, hP⟩ := setTakes_of_setting (i := .ringWrite ses m val) (idx := 0x9010) (sub := if m then 7 else 6)
    (more := [.records, .sessions, .out, .msixPba]) (P := fun t => ∃ y, sesAt t ses = some y ∧ RingSet x m val y)
    (eff := fun s x => setRing s x m val) ho rfl (by rw [hadm]; exact hst) hring rfl (hring.rg_eq (by decide) (by decide) _ _)
    fun t ht => by
      rw [sesAt_congr (ht.same .sessions (by decide))]
      exact hset.found
  exact ⟨t, ht, hout, htouch.subset (by decide), hP⟩

end Sys2Proof
end

section
/-! SUPPORT. A record as it is taken from its ring (O58). -/

namespace Sys2Proof

open Machine

/-! ### A record as it is taken (R566, R590, R594, R596) -/

/-- A session whose front ring entry has been taken. -/
def recTaken (x : Session) : Session := { x with h2mEnts := x.h2mEnts.drop 1, h2mHead := (x.h2mHead + 1) % 2 ^ 32 }

/-- A session whose front record has been accepted in its sequence. -/
def recCounted (x : Session) : Session :=
  { x with h2mEnts := x.h2mEnts.drop 1, h2mHead := (x.h2mHead + 1) % 2 ^ 32, seqIn := x.seqIn + 1, recsIn := x.recsIn + 1 }

/-- A session is set, and the turn passes on. -/
def turned (s : State) (slot : Nat) (y : Session) : State := { setSes s y with rrSlot := (slot + 1) % 16 }

theorem touches_turned (s : State) (slot : Nat) (y : Session) : Touches [.sessions, .rrSlot] s (turned s slot y) := by
  refine ((touches_setSes s y).mono rfl).trans ⟨fun f hf => ?_⟩
  cases f
  case rrSlot => simp at hf
  all_goals rfl

theorem setSes_setSes (s : State) {y z : Session} (h : y.id = z.id) : setSes (setSes s y) z = setSes s z := by
  have hmap : (s.sessions.map (fun w => if w.id == y.id then y else w)).map (fun w => if w.id == z.id then z else w) =
      s.sessions.map (fun w => if w.id == z.id then z else w) := by
    rw [List.map_map]
    refine List.map_congr_left fun w _ => ?_
    by_cases hw : w.id = z.id
    · simp [Function.comp, h, hw]
    · simp [Function.comp, h, hw]
  exact congrArg (fun l => ({ s with sessions := l } : State)) hmap

/-- A record that verified, in the order of R591: its form, the session's rights, what is busy, and its effect. -/
def recJudged (w : State) (x : Session) (kind : Nat) (e h : List Byte) (hr : HostRec) (form : List Byte → Bool)
    (out busy : State → Session → List Byte → Bool) (act : State → Session → List Byte → State) (l : List Byte) : State :=
  if !(recForm x kind e h hr && form l) then putWaiting w x.id [hostAck (recSeq h) (leAt h 5 1) .range]
  else if out w (recCounted x) l then putWaiting w x.id [hostAck (recSeq h) (leAt h 5 1) .state]
  else if busy w (recCounted x) l then putWaiting w x.id [hostAck (recSeq h) (leAt h 5 1) .busy]
  else act w (recCounted x) l

section Take

variable {s : State} {slot kind : Nat} {h : List Byte} {hr : HostRec} {form : List Byte → Bool} {held : State → Session → List Byte → Bool}
  {out busy : State → Session → List Byte → Bool} {act : State → Session → List Byte → State} {x : Session} {e : List Byte}

theorem takeRecord_of_noSession (hs : slotSes s slot = none) : takeRecord s slot kind h hr form held out busy act = s := by
  rw [takeRecord, hs]

theorem takeRecord_of_empty (hs : slotSes s slot = some x) (he : x.h2mEnts = []) :
    takeRecord s slot kind h hr form held out busy act = s := by
  rw [takeRecord, hs]
  dsimp only
  rw [he]

/-- A ring whose answers have no room lets out what waits. -/
theorem takeRecord_of_full (hs : slotSes s slot = some x) (hready : m2hReady x = false) (hx : sesAt s x.id = some x) (hw : x.waiting = [])
    (hrec : s.records = []) : takeRecord s slot kind h hr form held out busy act = s := by
  rw [takeRecord, hs]
  dsimp only
  split
  · rfl
  · rw [if_pos (by simp [hready]), flushSession_idle hx hw hrec]

/-- Out of its turn, with an error of its ring, or held back, a record waits. -/
theorem takeRecord_of_waiting (hs : slotSes s slot = some x) (hready : m2hReady x = true)
    (hwait : x.errH ≠ 0 ∨ slotTurn s slot = false ∨ (recPlain x h hr).any (held s x) = true) :
    takeRecord s slot kind h hr form held out busy act = s := by
  rw [takeRecord, hs]
  dsimp only
  split
  · rfl
  · rw [if_neg (by simp [hready]), if_pos]
    obtain h1 | h2 | h3 := hwait
    · exact .inl h1
    · exact .inr (.inl (by simp [h2]))
    · exact .inr (.inr h3)

section Due

variable (hd : RecordDue s slot h e x)

include hd

theorem RecordDue.mem : x ∈ s.sessions := slotSes_mem hd.2.1

theorem RecordDue.ready : m2hReady x = true := hd.2.2.2.1

theorem RecordDue.ents : x.h2mEnts = e :: x.h2mEnts.drop 1 := by
  obtain ⟨-, -, -, -, -, -, hhead, -⟩ := hd
  obtain ⟨es, hes⟩ := List.head?_eq_some_iff.1 hhead
  rw [hes]
  rfl

/-- A record that is due and need not wait is checked. -/
theorem takeRecord_of_due (hheld : (recPlain x h hr).any (held s x) = false) :
    (recPlain x h hr = none → takeRecord s slot kind h hr form held out busy act =
      secFree (closeSession (turned s slot (recTaken x)) x.id) 1 (Role.code x.role) 0xFF x.id) ∧
    (∀ l, recPlain x h hr = some l → recSeq h ≠ x.seqIn →
      takeRecord s slot kind h hr form held out busy act = secFree (turned s slot (recTaken x)) 2 (Role.code x.role) 0xFF x.id) ∧
    (∀ l, recPlain x h hr = some l → recSeq h = x.seqIn →
      takeRecord s slot kind h hr form held out busy act = recJudged (turned s slot (recCounted x)) x kind e h hr form out busy act l) := by
  have hes := hd.ents
  obtain ⟨-, hslot, hturn, hready, herr, hrecs, -, hin⟩ := hd
  have hgo : ¬(x.errH ≠ 0 ∨ !slotTurn s slot ∨ (recPlain x h hr).any (held s x)) := by simp [herr, hturn, hheld]
  have hcounted : turned s slot (recCounted x) = setSes (turned s slot (recTaken x)) (recCounted x) :=
    congrArg (fun w : State => { w with rrSlot := (slot + 1) % 16 }) (setSes_setSes s (y := recTaken x) (z := recCounted x) rfl).symm
  rw [hcounted]
  refine ⟨fun hplain => ?_, fun l hplain hseq => ?_, fun l hplain hseq => ?_⟩
  all_goals
    rw [takeRecord, hslot]
    dsimp only
    rw [hes]
    dsimp only
    rw [if_neg (by simp [hready]), if_neg hgo, if_neg (by simp [hin]), if_neg (by omega), hplain]
  · rfl
  · exact if_pos hseq
  · exact if_neg (not_not.2 hseq)

end Due

end Take

end Sys2Proof
end

section
/-! SUPPORT. What waits for a session's buffers goes out, and acknowledgements (O58). -/

namespace Sys2Proof

open Machine

/-! ### What waits for a session's buffers goes out (R591, R592, R596) -/

/-- A session for which that waits. -/
def waitingWith (x : Session) (l : List Waiting) : Session := { x with waiting := l }

section Deliver

variable {id : Nat} {P : Session → Prop} {s t : State}

/-- What holds of a state and of what goes out of it, record by record, holds once all has gone out that may. -/
theorem flushWaiting_induct {R : State → Prop} (hrec : ∀ t, R t → R (flushRecords t))
    (hack : ∀ t x v ws, R t → sesAt t id = some x → x.waiting = .ack v :: ws → R (sendRec t (waitingWith x ws) 1 0 v))
    (hdata : ∀ t x a left ws n, R t → sesAt t id = some x → x.waiting = .data a left :: ws → n ≤ left →
      R (sendRec (readHost (useBg t a n) a n).2 (waitingWith x (if n < left then .data (a + n) (left - n) :: ws else ws)) 2 a
        (readHost (useBg t a n) a n).1)) :
    ∀ k s, R s → R (flushWaiting k s id) := by
  intro k
  induction k with
  | zero => exact fun _ h => h
  | succ k ih =>
    intro s hs
    unfold flushWaiting
    split
    · exact hs
    next x hx =>
      split
      · exact hrec s hs
      next w ws hw =>
        split
        · exact hs
        · split
          next v => exact ih _ (hack s x v ws hs hx hw)
          next a left =>
            dsimp only
            split
            · exact hs
            · exact ih _ (hdata s x a left ws _ hs hx hw (Nat.min_le_left ..))

/-- The fields that reading HBM for the host may change beside what goes out. -/
def hostReadFields : List Field := [.chReady, .act, .fresh, .parts, .capSeen, .faultq, .regs, .blobs]

theorem touches_readHost (s : State) (a n : Nat) : Touches [.fresh, .parts, .capSeen, .faultq, .regs, .blobs] s (readHost s a n).2 := by
  have hbare : Touches [.fresh, .parts, .capSeen, .faultq, .regs, .blobs] s (bareErrors s a n) := (touches_bareErrors ..).mono rfl
  unfold readHost
  refine List.foldlRecOn (motive := fun r : List Byte × State => Touches [.fresh, .parts, .capSeen, .faultq, .regs, .blobs] s r.2) _ _ hbare
    fun r hr e _ => hr.trans ((touches_draw ..).mono rfl)

theorem touches_hostRead (s : State) (a n : Nat) : Touches hostReadFields s (readHost (useBg s a n) a n).2 :=
  ((touches_useBg ..).mono rfl).trans ((touches_readHost ..).mono rfl)

theorem SesAll.flushWaiting (hP : ∀ y ws, P y → P (recSent (waitingWith y ws))) (h : SesAll id P s) (k : Nat) :
    SesAll id P (flushWaiting k s id) := by
  refine flushWaiting_induct (R := SesAll id P) (fun t ht => ht.flushRecords fun y hy _ => hP y y.waiting hy) (fun t x v ws ht hx _ => ?_)
    (fun t x a left ws n ht hx _ _ => ?_) k s h
  · exact ht.sendRec (fun _ => hP x _ (ht.of_sesAt hx)) ..
  · exact (ht.of_touches (touches_hostRead t a n) (by decide)).sendRec (fun _ => hP x _ (ht.of_sesAt hx)) ..

theorem mem_out_flushWaiting {o : Out} (h : o ∈ s.out) (k : Nat) : o ∈ (flushWaiting k s id).out := by
  refine flushWaiting_induct (R := fun t => o ∈ t.out) (fun t ht => mem_out_flushRecords ht) (fun t x v ws ht _ _ => mem_out_sendRec ht ..)
    (fun t x a left ws n ht _ _ _ => mem_out_sendRec ?_ ..) k s h
  rw [(touches_hostRead t a n).same .out (by decide)]
  exact ht

/-- The fields that records that go out change. -/
def sentFields : List Field := [.sessions, .records, .out, .msixPba]

/-- What waits is an acknowledgement. -/
def isAck : Waiting → Bool
  | .ack _ => true
  | .data .. => false

/-- Acknowledgements go out and nothing else happens. -/
theorem touches_flushWaiting_acks (h : SesAll id (fun y => y.waiting.all isAck = true) s) (k : Nat) :
    Touches sentFields s (flushWaiting k s id) := by
  refine (flushWaiting_induct (R := fun t => Touches sentFields s t ∧ SesAll id (fun y => y.waiting.all isAck = true) t)
    (fun t ht => ⟨ht.1.trans ((touches_flushRecords t).mono rfl), ht.2.flushRecords fun y hy _ => hy⟩) (fun t x v ws ht hx hw => ?_)
    (fun t x a left ws n ht hx hw _ => ?_) k s ⟨.refl, h⟩).1
  · have hx' := ht.2.of_sesAt hx
    rw [hw, List.all_cons, Bool.and_eq_true] at hx'
    exact ⟨ht.1.trans ((touches_sendRec ..).mono rfl), ht.2.sendRec (x := (waitingWith x ws)) (fun _ => hx'.2) ..⟩
  · have hx' := ht.2.of_sesAt hx
    simp [hw, isAck] at hx'

/-- An acknowledgement at the front goes out. -/
theorem flushWaiting_ack {x : Session} (hx : sesAt s id = some x) {v : List Byte} {ws : List Waiting} (hw : x.waiting = .ack v :: ws)
    (hr : m2hReady (waitingWith x []) = true) (k : Nat) :
    flushWaiting (k + 1) s id = flushWaiting k (sendRec s (waitingWith x ws) 1 0 v) id := by
  rw [flushWaiting, hx]
  dsimp only
  rw [hw]
  have hgo : ¬(!m2hReady (waitingWith x [])) = true := by simp [hr]
  exact if_neg hgo

/-- Data at the front goes out, as much as the next buffer takes. -/
theorem flushWaiting_data {x : Session} (hx : sesAt s id = some x) {a left : Nat} {ws : List Waiting} (hw : x.waiting = .data a left :: ws)
    (hr : m2hReady (waitingWith x []) = true) {n : Nat} (hn : n = min left (min (2 ^ 20) ((takeBuf x).1 - 48)))
    (hb : bgHeld s a n = false) (k : Nat) :
    flushWaiting (k + 1) s id = flushWaiting k (sendRec (readHost (useBg s a n) a n).2
      (waitingWith x (if n < left then .data (a + n) (left - n) :: ws else ws)) 2 a (readHost (useBg s a n) a n).1) id := by
  subst hn
  rw [flushWaiting, hx]
  dsimp only
  rw [hw]
  have hgo : ¬(!m2hReady (waitingWith x [])) = true := by simp [hr]
  exact (if_neg hgo).trans (if_neg (Bool.eq_false_iff.1 hb))

/-- Something is queued for a session for which nothing waits. -/
theorem putWaiting_eq {x : Session} (h : SesAll id (· = x) s) (hw : x.waiting = []) (l : List Waiting) :
    putWaiting s id l = flushWaiting (x.m2hBufs.length + 1) (setSes s (waitingWith x l)) id := by
  obtain ⟨y, hy, rfl⟩ := h.found
  have hid : y.id = id := sesAt_id hy
  rw [putWaiting, hy]
  change flushSession (setSes s (waitingWith y (y.waiting ++ l))) id = _
  rw [hw, List.nil_append, flushSession, sesAt_setSes (y := waitingWith y l) hy hid]
  rfl

end Deliver

/-! ### Acknowledgements (R591, R592) -/

section Ack

variable {w : State} {x : Session} (h : SesAll x.id (· = recCounted x) w) (hr : m2hReady x = true)

theorem waiting_of_ready (hr : m2hReady x = true) : x.waiting = [] := by
  simp only [m2hReady, Bool.and_eq_true, List.isEmpty_iff] at hr
  exact hr.2

/-- A session that is ready stays so when its record is counted, whatever waits. -/
theorem ready_recCounted (hr : m2hReady x = true) : m2hReady (waitingWith (recCounted x) []) = true := by
  have hw := waiting_of_ready hr
  simp only [m2hReady, Bool.and_eq_true] at hr ⊢
  exact ⟨hr.1, rfl⟩

include h in
/-- A session for which something is queued keeps its place in its records. -/
theorem seqIn_putWaiting (hr : m2hReady x = true) (l : List Waiting) : SesAll x.id (fun y => y.seqIn = x.seqIn + 1) (putWaiting w x.id l) := by
  rw [putWaiting_eq h (waiting_of_ready hr)]
  exact ((h.imp (Q := fun y => y.seqIn = x.seqIn + 1) fun _ hy => congrArg Session.seqIn hy).setSes fun _ => rfl).flushWaiting
    (fun _ _ hy => hy) _

include h

/-- The session with what is queued for it. -/
theorem sesAt_queued (l : List Waiting) :
    sesAt (setSes w (waitingWith (recCounted x) l)) x.id = some (waitingWith (recCounted x) l) := by
  obtain ⟨y, hy, -⟩ := h.found
  exact sesAt_setSes (y := (waitingWith (recCounted x) l)) hy rfl

include hr

theorem acknowledged_putWaiting (seq kind : Nat) (st : Status) : Acknowledged x seq kind st (putWaiting w x.id [hostAck seq kind st]) := by
  rw [putWaiting_eq h (waiting_of_ready hr), 
    flushWaiting_ack (v := leBytes 8 seq ++ leBytes 1 st.ctorIdx ++ leBytes 1 kind ++ leBytes 6 0) (ws := [])
      (sesAt_queued h [hostAck seq kind st]) rfl (ready_recCounted hr)]
  refine mem_out_flushWaiting (mem_out_vector _ (List.mem_append_right _ (List.mem_singleton.2 ?_))) _
  rfl

theorem touches_putAck (seq kind : Nat) (st : Status) : Touches sentFields w (putWaiting w x.id [hostAck seq kind st]) := by
  rw [putWaiting_eq h (waiting_of_ready hr)]
  have hset : SesAll x.id (fun y => y.waiting.all isAck = true) (setSes w (waitingWith (recCounted x) [hostAck seq kind st])) := by
    obtain ⟨⟨z, hz, hid⟩, -⟩ := h
    have hall := sesAll_set (P := fun y => y.waiting.all isAck = true) hz (z := (waitingWith (recCounted x) [hostAck seq kind st])) hid.symm rfl
    rwa [hid] at hall
  exact ((touches_setSes ..).mono rfl).trans (touches_flushWaiting_acks hset _)

end Ack

end Sys2Proof
end

section
/-! SUPPORT. What becomes of a record of any kind (O58). -/

namespace Sys2Proof

open Machine

/-! ### The numbers of the sessions stay as events go out -/

/-- The sessions have the numbers that they had. -/
def IdsKept (s t : State) : Prop := t.sessions.map Session.id = s.sessions.map Session.id

theorem IdsKept.refl {s : State} : IdsKept s s := rfl

theorem IdsKept.trans {s t r : State} (h : IdsKept s t) (g : IdsKept t r) : IdsKept s r := Eq.trans g h

theorem IdsKept.of_touches {l : List Field} {s t : State} (h : Touches l s t) (hl : Field.sessions ∉ l) : IdsKept s t :=
  congrArg (List.map Session.id) (h.same .sessions hl)

theorem idsKept_setSes (s : State) (z : Session) : IdsKept s (setSes s z) := by
  have hid : ∀ y : Session, (if y.id == z.id then z else y).id = y.id := fun y => by
    split
    next he => exact (beq_iff_eq.1 he).symm
    · rfl
  have hmap : (s.sessions.map (fun y => if y.id == z.id then z else y)).map Session.id = s.sessions.map Session.id := by
    rw [List.map_map]
    exact List.map_congr_left fun y _ => hid y
  exact hmap

theorem idsKept_sendEvent (s : State) (x : Session) (ty : Nat) (body : List Byte) : IdsKept s (sendEvent s x ty body) := by
  have hsecured : ∀ m z o, IdsKept s (emit (setSes (secure s x m).2 z) o) := fun m z o =>
    ((IdsKept.of_touches (touches_secure s x m) (by decide)).trans (idsKept_setSes ..)).trans (.of_touches (touches_emit ..) (by decide))
  unfold sendEvent
  split
  · exact .refl
  split
  · exact idsKept_setSes ..
  · dsimp only
    split
    · exact ((hsecured ..).trans (.of_touches (touches_eventFifo ..) (by decide))).trans (.of_touches (touches_vector ..) (by decide))
    · exact (hsecured ..).trans (.of_touches (touches_wire ..) (by decide))

theorem idsKept_secFree (s : State) (code role part ses : Nat) : IdsKept s (secFree s code role part ses) := by
  have hevents : ∀ (t : State) (test : Session → Bool) (ty : Nat) (body : List Byte), IdsKept t (eventAll t test ty body) := fun t test ty body => by
    refine List.foldlRecOn (motive := IdsKept t) _ _ .refl fun r hr x _ => ?_
    split
    · split
      · exact hr.trans (idsKept_sendEvent ..)
      · exact hr
    · exact hr
  have hlog : ∀ (t : State) (d : List Byte), IdsKept t (secLog t code role part ses d) := fun t d =>
    ((IdsKept.of_touches (touches_wb ..) (by decide)).trans (.of_touches (touches_bump ..) (by decide))).trans (hevents ..)
  exact (IdsKept.of_touches (touches_draw s) (by decide)).trans (hlog ..)

theorem sesAt_eq_none {s : State} {id : Nat} : sesAt s id = none ↔ id ∉ s.sessions.map Session.id := by
  rw [sesAt, List.find?_eq_none]
  constructor
  · intro h hm
    obtain ⟨y, hy, hid⟩ := List.mem_map.1 hm
    exact h y hy (beq_iff_eq.2 hid)
  · intro h y hy hid
    exact h (List.mem_map.2 ⟨y, hy, beq_iff_eq.1 hid⟩)

theorem IdsKept.sesAt_none {s t : State} {id : Nat} (h : IdsKept s t) (hn : sesAt s id = none) : sesAt t id = none := by
  rw [sesAt_eq_none] at hn ⊢
  rwa [h]

theorem sesAt_closeSession (s : State) (id : Nat) : sesAt (closeSession s id) id = none := by
  rw [sesAt_eq_none]
  intro hm
  obtain ⟨y, hy, hid⟩ := List.mem_map.1 hm
  have hne := (List.mem_filter.1 hy).2
  simp [hid] at hne

/-! ### What becomes of a record (R566, R591) -/

section Record

variable {s : State} (hp : s.powered = true) {slot kind : Nat} {hdr e : List Byte} {hr : HostRec} {form : List Byte → Bool}
  {held : State → Session → List Byte → Bool} {out busy : State → Session → List Byte → Bool} {act : State → Session → List Byte → State}
  {x : Session}

theorem sesAll_turned (hx : x ∈ s.sessions) {z : Session} (hz : z.id = x.id) : SesAll x.id (· = z) (turned s slot z) :=
  (sesAll_setSes hx hz).congr rfl

include hp

/-- A record that is acknowledged: the answer goes out, and its sequence is counted. -/
theorem acknowledged_next (hx : x ∈ s.sessions) (hready : m2hReady x = true) (seq k : Nat) (st : Status) :
    ∃ t y, done s (putWaiting (turned s slot (recCounted x)) x.id [hostAck seq k st]) = .next t ∧ sesAt t x.id = some y ∧
      y.seqIn = x.seqIn + 1 ∧ Acknowledged x seq k st t ∧ Touches ackFields s t := by
  have hall := sesAll_turned (s := s) (slot := slot) hx (z := recCounted x) rfl
  have hput := touches_putAck hall hready seq k st
  have hframe : Touches ackFields s (putWaiting (turned s slot (recCounted x)) x.id [hostAck seq k st]) :=
    ((touches_turned ..).mono rfl).trans (hput.mono rfl)
  obtain ⟨t, ht, hend⟩ := done_next_of hp hframe (by decide)
  obtain ⟨y, hy, hseq⟩ := ((seqIn_putWaiting hall hready [hostAck seq k st]).of_touches hend (by decide)).found
  refine ⟨t, y, ht, hy, hseq, ?_, hframe.trans (hend.mono rfl)⟩
  rw [Acknowledged, hend.same .out (by decide)]
  exact acknowledged_putWaiting hall hready seq k st

/-- A record whose tag does not verify ends its session. -/
theorem badTag_next : ∃ t, done s (secFree (closeSession (turned s slot (recTaken x)) x.id) 1 (Role.code x.role) 0xFF x.id) = .next t ∧
    sesAt t x.id = none ∧ Touches ([Field.records, .asks, .lockBy, .lockLeft, .rrSlot, .alertN] ++ secFields) s t := by
  have hframe : Touches ([Field.records, .asks, .lockBy, .lockLeft, .rrSlot, .alertN] ++ secFields) s
      (secFree (closeSession (turned s slot (recTaken x)) x.id) 1 (Role.code x.role) 0xFF x.id) :=
    ((touches_turned ..).mono rfl).trans (((touches_closeSession ..).mono rfl).trans ((touches_secFree ..).mono rfl))
  obtain ⟨t, ht, hend⟩ := done_next_of hp hframe (by decide)
  refine ⟨t, ht, ?_, hframe.trans (hend.mono rfl)⟩
  rw [sesAt_congr (hend.same .sessions (by decide))]
  exact (idsKept_secFree ..).sesAt_none (sesAt_closeSession ..)

/-- A record out of its sequence is dropped. -/
theorem outOfSequence_next (hx : x ∈ s.sessions) : ∃ t y, done s (secFree (turned s slot (recTaken x)) 2 (Role.code x.role) 0xFF x.id) = .next t ∧
    sesAt t x.id = some y ∧ y.seqIn = x.seqIn ∧ y.h2mEnts = x.h2mEnts.drop 1 ∧ Touches ([Field.rrSlot, .alertN] ++ secFields) s t := by
  have hall : SesAll x.id (fun y => y.seqIn = x.seqIn ∧ y.h2mEnts = x.h2mEnts.drop 1) (turned s slot (recTaken x)) :=
    (sesAll_turned hx (z := recTaken x) rfl).imp fun _ hy => hy ▸ ⟨rfl, rfl⟩
  have hframe : Touches ([Field.rrSlot, .alertN] ++ secFields) s (secFree (turned s slot (recTaken x)) 2 (Role.code x.role) 0xFF x.id) :=
    ((touches_turned ..).mono rfl).trans ((touches_secFree ..).mono rfl)
  obtain ⟨t, ht, hend⟩ := done_next_of hp hframe (by decide)
  obtain ⟨y, hy, hseq, hents⟩ := ((hall.secFree (fun _ _ _ h => h) 2 (Role.code x.role) 0xFF x.id).of_touches hend (by decide)).found
  exact ⟨t, y, ht, hy, hseq, hents, hframe.trans (hend.mono rfl)⟩

theorem idle_next {w : State} (h : w = s) : ∃ t, done s w = .next t ∧ Touches [.alertN] s t := by
  subst h
  exact done_next_of hp (Touches.refl (l := [])) rfl

end Record

/-- The commands that carry records, with the kind of the record. -/
def CarriesRecord (slot : Nat) (hdr : List Byte) (hr : HostRec) (i : Instr) (kind : Nat) : Prop :=
  (i = .hostWrite slot hdr hr ∧ kind = 1) ∨ (i = .hostReadRequest slot hdr hr ∧ kind = 2) ∨
    (i = .serveCommandRecord slot hdr hr ∧ kind = 3) ∨ (i = .installChunk slot hdr hr ∧ kind = 4)

/-- A command takes its record as `takeRecord` has it, with what holds it back. -/
structure TakesRecord (s : State) (slot kind : Nat) (hdr : List Byte) (hr : HostRec) (i : Instr) (form : List Byte → Bool)
    (held out busy : State → Session → List Byte → Bool) (act : State → Session → List Byte → State) : Prop where
  exec : exec i s = done s (takeRecord s slot kind hdr hr form held out busy act)
  goes : ∀ x l, RecordGoes s slot hdr hr l i → held s x l = false

theorem takesRecord_of_carries (s : State) {slot kind : Nat} {hdr : List Byte} {hr : HostRec} {i : Instr} (h : CarriesRecord slot hdr hr i kind) :
    ∃ form held out busy act, TakesRecord s slot kind hdr hr i form held out busy act := by
  obtain ⟨rfl, rfl⟩ | ⟨rfl, rfl⟩ | ⟨rfl, rfl⟩ | ⟨rfl, rfl⟩ := h
  · refine ⟨_, _, _, _, _, rfl, fun x l hg => ?_⟩
    simpa [RecordGoes] using hg
  · refine ⟨_, _, _, _, _, rfl, fun x l hg => ?_⟩
    simpa [RecordGoes] using hg
  · refine ⟨_, _, _, _, _, rfl, fun x l hg => ?_⟩
    simpa [RecordGoes] using hg
  · exact ⟨_, _, _, _, _, rfl, fun x l _ => rfl⟩

/-- A record of any kind: one that may not be taken waits, a bad tag ends the session, one out of sequence is dropped, and one of a wrong
form is acknowledged with RANGE. -/
theorem record_checks {s : State} (hp : s.powered = true) {slot kind : Nat} {hdr : List Byte} {hr : HostRec} {i : Instr}
    (hi : CarriesRecord slot hdr hr i kind) :
    (slotSes s slot = none ∨ (∃ x, slotSes s slot = some x ∧ (x.h2mEnts = [] ∨
        (m2hReady x = true ∧ (x.errH ≠ 0 ∨ slotTurn s slot = false)) ∨
          (m2hReady x = false ∧ sesAt s x.id = some x ∧ x.waiting = [] ∧ s.records = []))) →
      ∃ t, exec i s = .next t ∧ Touches [.alertN] s t) ∧
    (∀ e x, RecordDue s slot hdr e x → recPlain x hdr hr = none → ∃ t, exec i s = .next t ∧ sesAt t x.id = none ∧
      Touches ([Field.records, .asks, .lockBy, .lockLeft, .rrSlot, .alertN] ++ secFields) s t) ∧
    (∀ e x l, RecordDue s slot hdr e x → recPlain x hdr hr = some l → recSeq hdr ≠ x.seqIn → RecordGoes s slot hdr hr l i →
      ∃ t y, exec i s = .next t ∧ sesAt t x.id = some y ∧ y.seqIn = x.seqIn ∧ y.h2mEnts = x.h2mEnts.drop 1 ∧
        Touches ([Field.rrSlot, .alertN] ++ secFields) s t) ∧
    (∀ e x l, RecordNext s slot hdr e hr x l → RecordGoes s slot hdr hr l i → recForm x kind e hdr hr = false →
      ∃ t y, exec i s = .next t ∧ sesAt t x.id = some y ∧ y.seqIn = x.seqIn + 1 ∧
        Acknowledged x (recSeq hdr) (leAt hdr 5 1) .range t ∧ Touches ackFields s t) := by
  obtain ⟨form, held, out, busy, act, hexec, hgoes⟩ := takesRecord_of_carries s hi
  rw [hexec]
  have hfree : ∀ {x l}, recPlain x hdr hr = some l → RecordGoes s slot hdr hr l i → (recPlain x hdr hr).any (held s x) = false :=
    fun {x l} hplain hg => by rw [hplain, Option.any_some, hgoes x l hg]
  refine ⟨fun hwait => idle_next hp ?_, fun e x hd hplain => ?_, fun e x l hd hplain hseq hg => ?_, fun e x l hn hg hform => ?_⟩
  · obtain hno | ⟨x, hslot, hents | ⟨hready, hstop⟩ | ⟨hready, hx, hw, hrec⟩⟩ := hwait
    · exact takeRecord_of_noSession hno
    · exact takeRecord_of_empty hslot hents
    · exact takeRecord_of_waiting hslot hready (hstop.imp_right .inl)
    · exact takeRecord_of_full hslot hready hx hw hrec
  · obtain ⟨hnone, -, -⟩ := takeRecord_of_due (kind := kind) (form := form) (held := held) (out := out) (busy := busy) (act := act) (hr := hr) hd
      (by rw [hplain]; rfl)
    rw [hnone hplain]
    exact badTag_next hp
  · obtain ⟨-, hdrop, -⟩ := takeRecord_of_due (kind := kind) (form := form) (held := held) (out := out) (busy := busy) (act := act) hd
      (hfree hplain hg)
    rw [hdrop l hplain hseq]
    exact outOfSequence_next hp hd.mem
  · obtain ⟨hd, hplain, hseq⟩ := hn
    obtain ⟨-, -, hnext⟩ := takeRecord_of_due (kind := kind) (form := form) (held := held) (out := out) (busy := busy) (act := act) hd
      (hfree hplain hg)
    rw [hnext l hplain hseq, recJudged, hform, if_pos (by simp)]
    exact acknowledged_next hp hd.mem hd.ready ..

/-- Records of HBM and commands wait while background traffic may not go on, or while there is no room for what answers them. -/
theorem record_waits {s : State} (hp : s.powered = true) {slot : Nat} {hdr e : List Byte} {hr : HostRec} {x : Session} {l : List Byte}
    (hd : RecordDue s slot hdr e x) (hplain : recPlain x hdr hr = some l) :
    (bgHeld s (recTarget hdr) l.length = true → ∃ t, exec (.hostWrite slot hdr hr) s = .next t ∧ Touches [.alertN] s t) ∧
    (bgHeld s (recTarget hdr) (readLen l) = true → ∃ t, exec (.hostReadRequest slot hdr hr) s = .next t ∧ Touches [.alertN] s t) ∧
    (recordRoom s = 0 ∨ (∃ p ∈ partitions s, unitWaits s p = true) →
      ∃ t, exec (.serveCommandRecord slot hdr hr) s = .next t ∧ Touches [.alertN] s t) := by
  have hready := hd.ready
  obtain ⟨-, hslot, -⟩ := hd
  have hheld : ∀ held : State → Session → List Byte → Bool, held s x l = true → (recPlain x hdr hr).any (held s x) = true :=
    fun held hh => by rw [hplain, Option.any_some, hh]
  refine ⟨fun hh => ?_, fun hh => ?_, fun hh => ?_⟩
  · exact idle_next hp (takeRecord_of_waiting hslot hready (.inr (.inr (hheld (fun s _ l => bgHeld s (recTarget hdr) l.length) hh))))
  · exact idle_next hp (takeRecord_of_waiting hslot hready (.inr (.inr (hheld (fun s _ l => bgHeld s (recTarget hdr) (readLen l)) hh))))
  · refine idle_next hp (takeRecord_of_waiting hslot hready (.inr
    (.inr (hheld (fun s _ _ => recordRoom s == 0 || (partitions s).any (unitWaits s)) ?_))))
    rw [Bool.or_eq_true, beq_iff_eq, List.any_eq_true]
    exact hh

end Sys2Proof
end

section
/-! SUPPORT. HOST_WRITE (O58). -/

namespace Sys2Proof

open Machine

/-! ### Background traffic reads neither sessions nor whether a partition is used (R308) -/

/-- What background traffic waits for is as it was. -/
structure TrafficRead (s t : State) : Prop where
  variant : t.variant = s.variant
  parts : t.parts = s.parts
  cyc : t.cyc = s.cyc
  edge : t.edge = s.edge
  chReady : t.chReady = s.chReady
  regs : ∀ i j, j < 256 → j ≠ 2 → rg t i j = rg s i j

theorem TrafficRead.bgHeld_eq {s t : State} (h : TrafficRead s t) : bgHeld t = bgHeld s := by
  have hlow : partLow t = partLow s := funext fun d => by rw [partLow, partLow, h.regs _ _ (by decide) (by decide)]
  have hstate : planState t = planState s := funext fun p => h.regs _ _ (by decide) (by decide)
  have hpart : Machine.partAt t = Machine.partAt s := funext fun p => by rw [Machine.partAt, Machine.partAt, h.parts]
  have habs : absNow t = absNow s := by rw [absNow, absNow, h.edge, h.cyc]
  have hnow : bgNow t = bgNow s := funext fun d => by
    rw [bgNow, bgNow, hpart, hlow, hstate, h.cyc, h.chReady, habs, h.regs 0x2100 1 (by decide) (by decide)]
  funext a n
  rw [bgHeld, bgHeld, trafficHeld, trafficHeld, diesOf, diesOf, hnow, hpart, hlow, hstate, h.variant]

theorem touches_useParts (s : State) (l : List Nat) : Touches [.regs] s (useParts s l) := .foldl _ (fun _ _ => touches_wr ..) _ _

theorem rg_useParts_other (l : List Nat) : ∀ (s : State) (i : Nat) {j : Nat}, j < 256 → j ≠ 2 → rg (useParts s l) i j = rg s i j := by
  induction l with
  | nil => exact fun _ _ _ _ _ => rfl
  | cons p r ih =>
    intro s i j hj h2
    exact (ih _ i hj h2).trans (rg_wr_sub _ (by decide) hj h2)

/-- A partition whose HBM was reached is used. -/
theorem rg_useParts {p : Nat} (l : List Nat) : ∀ s : State, p ∈ l ∨ rg s (0x6040 + p) 2 = 1 → rg (useParts s l) (0x6040 + p) 2 = 1 := by
  induction l with
  | nil => exact fun _ h => h.resolve_left List.not_mem_nil
  | cons q r ih =>
    intro s h
    refine ih _ ?_
    by_cases hq : p = q
    · subst hq
      exact .inr (rg_wr_same ..)
    · obtain hm | hu := h
      · exact .inl ((List.mem_cons.1 hm).resolve_left hq)
      · have hkey : rkey (0x6040 + p) 2 ≠ rkey (0x6040 + q) 2 := by
          rw [ne_eq, rkey_inj (by decide) (by decide)]
          omega
        exact .inr ((rg_wr_other _ _ _ _ _ _ hkey).trans hu)

/-! ### HOST_WRITE (R303, R591, R592) -/

theorem recForm_kind {x : Session} {kind : Nat} {e h : List Byte} {r : HostRec} (hf : recForm x kind e h r = true) : leAt h 5 1 = kind := by
  simp only [recForm, Bool.and_eq_true, beq_iff_eq] at hf
  obtain ⟨⟨⟨⟨⟨⟨⟨-, hk⟩, -⟩, -⟩, -⟩, -⟩, -⟩, -⟩ := hf
  exact hk

/-- A record that is the next and is not held back is judged. -/
theorem takeRecord_of_next {s : State} {slot kind : Nat} {hdr e : List Byte} {hr : HostRec} {x : Session} {l : List Byte}
    {form : List Byte → Bool} {held out busy : State → Session → List Byte → Bool} {act : State → Session → List Byte → State}
    (hn : RecordNext s slot hdr e hr x l) (hheld : held s x l = false) : takeRecord s slot kind hdr hr form held out busy act =
      recJudged (turned s slot (recCounted x)) x kind e hdr hr form out busy act l := by
  obtain ⟨hd, hplain, hseq⟩ := hn
  obtain ⟨-, -, hnext⟩ := takeRecord_of_due (kind := kind) (form := form) (held := held) (out := out) (busy := busy) (act := act) hd
    (by rw [hplain, Option.any_some, hheld])
  exact hnext l hplain hseq

/-- A write that a partition of the session or of another bars. -/
def writeOut (s : State) (x : Session) (a n : Nat) : Bool := outsideParts s x a n || (rangeParts s a n).any (fun p => writeBarred s p a n)

/-- The write has reached HBM, and its partitions are used. -/
def hostWritten (w : State) (a : Nat) (l : List Byte) : State := useParts (poke (useBg w a l.length) a l) (rangeParts w a l.length)

/-- What a write record that verified comes to. -/
def writeJudged (s w : State) (x : Session) (hdr l : List Byte) : State :=
  if !(recTarget hdr % 64 == 0 && l.length % 64 == 0) then putWaiting w x.id [hostAck (recSeq hdr) 1 .range]
  else if writeOut s x (recTarget hdr) l.length then putWaiting w x.id [hostAck (recSeq hdr) 1 .state]
  else if underTest s (recTarget hdr) l.length then putWaiting w x.id [hostAck (recSeq hdr) 1 .busy]
  else putWaiting (hostWritten w (recTarget hdr) l) x.id [hostAck (recSeq hdr) 1 .ok]

theorem exec_hostWrite {s : State} {slot : Nat} {hdr e : List Byte} {hr : HostRec} {x : Session} {l : List Byte}
    (hn : RecordNext s slot hdr e hr x l) (hf : recForm x 1 e hdr hr = true) (hb : bgHeld s (recTarget hdr) l.length = false) :
    exec (.hostWrite slot hdr hr) s = done s (writeJudged s (turned s slot (recCounted x)) x hdr l) := by
  have htake := takeRecord_of_next (kind := 1) (form := fun l => recTarget hdr % 64 == 0 && l.length % 64 == 0)
    (held := fun s _ l => bgHeld s (recTarget hdr) l.length) (out := fun s x l => writeOut s x (recTarget hdr) l.length)
    (busy := fun s _ l => underTest s (recTarget hdr) l.length)
    (act := fun s x l => putWaiting (hostWritten s (recTarget hdr) l) x.id [hostAck (recSeq hdr) 1 .ok]) hn hb
  refine (congrArg (done s) htake).trans (congrArg (done s) ?_)
  rw [recJudged, recForm_kind hf, hf, Bool.true_and]
  rfl

section Write

variable {s : State} {slot : Nat} {x : Session}

theorem touches_hostWritten (w : State) (a : Nat) (l : List Byte) : Touches [.act, .chReady, .mem, .ecc, .regs] w (hostWritten w a l) :=
  ((touches_useBg ..).mono rfl).trans (((touches_poke ..).mono rfl).trans ((touches_useParts ..).mono rfl))

theorem mem_hostWritten (w : State) (a : Nat) (l : List Byte) : (hostWritten w a l).mem = mwrite w.mem a l := by
  have hbg : (useBg w a l.length).mem = w.mem := (touches_useBg ..).same .mem (by decide)
  rw [hostWritten, (touches_useParts ..).same .mem (by decide), poke, hbg]

/-- A write that is accepted: its bytes stand in HBM, its partitions are used, and it is acknowledged. -/
theorem written_next (hp : s.powered = true) (hx : x ∈ s.sessions) (hready : m2hReady x = true) (a seq : Nat) (l : List Byte) :
    ∃ t y, done s (putWaiting (hostWritten (turned s slot (recCounted x)) a l) x.id [hostAck seq 1 .ok]) = .next t ∧ sesAt t x.id = some y ∧
      y.seqIn = x.seqIn + 1 ∧ Acknowledged x seq 1 .ok t ∧ t.mem = mwrite s.mem a l ∧
      (∀ p ∈ rangeParts s a l.length, rg t (0x6040 + p) 2 = 1) ∧ BytesKept a l.length s t ∧
      Touches ([Field.mem, .ecc, .regs, .chReady, .act] ++ ackFields) s t := by
  have hw := touches_hostWritten (turned s slot (recCounted x)) a l
  have hall : SesAll x.id (· = recCounted x) (hostWritten (turned s slot (recCounted x)) a l) :=
    (sesAll_turned hx (z := recCounted x) rfl).of_touches hw (by decide)
  have hput := touches_putAck hall hready seq 1 .ok
  have hframe : Touches ([Field.mem, .ecc, .regs, .chReady, .act] ++ ackFields) s
      (putWaiting (hostWritten (turned s slot (recCounted x)) a l) x.id [hostAck seq 1 .ok]) :=
    ((touches_turned ..).mono rfl).trans ((hw.mono rfl).trans (hput.mono rfl))
  obtain ⟨t, ht, hend⟩ := done_next_of hp hframe (by decide)
  obtain ⟨y, hy, hseq⟩ := ((seqIn_putWaiting hall hready [hostAck seq 1 .ok]).of_touches hend (by decide)).found
  have hmem : t.mem = mwrite s.mem a l := by
    rw [hend.same .mem (by decide), hput.same .mem (by decide), mem_hostWritten]
    rfl
  refine ⟨t, y, ht, hy, hseq, ?_, hmem, fun p hp => ?_, fun b hb => ?_, hframe.trans (hend.mono rfl)⟩
  · rw [Acknowledged, hend.same .out (by decide)]
    exact acknowledged_putWaiting hall hready seq 1 .ok
  · rw [hend.rg_eq (by decide) (by decide), hput.rg_eq (by decide) (by decide)]
    exact rg_useParts _ _ (.inl hp)
  · rw [hmem, mget_mwrite_out _ _ _ _ hb]

theorem writeOut_iff (a n : Nat) : writeOut s x a n = true ↔
    outsideParts s x a n = true ∨ ∃ p ∈ rangeParts s a n, writeBarred s p a n = true := by rw [writeOut, Bool.or_eq_true, List.any_eq_true]

/-- What a write record comes to. -/
def WriteComes (s : State) (x : Session) (hdr l : List Byte) (t : State) : Prop :=
  let a := recTarget hdr
  let out := outsideParts s x a l.length = true ∨ ∃ p ∈ rangeParts s a l.length, writeBarred s p a l.length = true
  (a % 64 = 0 → l.length % 64 = 0 → ¬out → underTest s a l.length = false → Acknowledged x (recSeq hdr) 1 .ok t ∧
    t.mem = mwrite s.mem a l ∧ (∀ p ∈ rangeParts s a l.length, rg t (0x6040 + p) 2 = 1) ∧ BytesKept a l.length s t ∧
    Touches ([Field.mem, .ecc, .regs, .chReady, .act] ++ ackFields) s t) ∧
  (¬(a % 64 = 0 ∧ l.length % 64 = 0) → Acknowledged x (recSeq hdr) 1 .range t ∧ Touches ackFields s t) ∧
  (a % 64 = 0 → l.length % 64 = 0 → out → Acknowledged x (recSeq hdr) 1 .state t ∧ Touches ackFields s t) ∧
  (a % 64 = 0 → l.length % 64 = 0 → ¬out → underTest s a l.length = true → Acknowledged x (recSeq hdr) 1 .busy t ∧ Touches ackFields s t)

theorem hostWrite_comes {hdr e : List Byte} {hr : HostRec} {l : List Byte} (hn : RecordNext s slot hdr e hr x l)
    (hf : recForm x 1 e hdr hr = true) (hb : bgHeld s (recTarget hdr) l.length = false) :
    ∃ t y, exec (.hostWrite slot hdr hr) s = .next t ∧ sesAt t x.id = some y ∧ y.seqIn = x.seqIn + 1 ∧ WriteComes s x hdr l t := by
  have hp : s.powered = true := hn.1.1
  have hx := hn.1.mem
  have hready := hn.1.ready
  rw [exec_hostWrite hn hf hb, writeJudged]
  by_cases hform : recTarget hdr % 64 = 0 ∧ l.length % 64 = 0
  · rw [if_neg (by simp [hform])]
    by_cases hout : writeOut s x (recTarget hdr) l.length = true
    · rw [if_pos hout]
      obtain ⟨t, y, ht, hy, hseq, hack, htouch⟩ := acknowledged_next (slot := slot) hp hx hready (recSeq hdr) 1 .state
      have hout := (writeOut_iff _ _).1 hout
      exact ⟨t, y, ht, hy, hseq, fun _ _ h => absurd hout h, fun h => absurd hform h, fun _ _ _ => ⟨hack, htouch⟩, fun _ _ h => absurd hout h⟩
    · rw [if_neg hout]
      have hout : ¬(_ ∨ _) := fun h => hout ((writeOut_iff _ _).2 h)
      by_cases htest : underTest s (recTarget hdr) l.length = true
      · rw [if_pos htest]
        obtain ⟨t, y, ht, hy, hseq, hack, htouch⟩ := acknowledged_next (slot := slot) hp hx hready (recSeq hdr) 1 .busy
        exact ⟨t, y, ht, hy, hseq, fun _ _ _ h => by simp [htest] at h, fun h => absurd hform h, fun _ _ h => absurd h hout,
          fun _ _ _ _ => ⟨hack, htouch⟩⟩
      · rw [if_neg htest]
        obtain ⟨t, y, ht, hy, hseq, hack, hmem, hused, hkept, htouch⟩ := written_next (slot := slot) hp hx hready (recTarget hdr) (recSeq hdr) l
        exact ⟨t, y, ht, hy, hseq, fun _ _ _ _ => ⟨hack, hmem, hused, hkept, htouch⟩, fun h => absurd hform h, fun _ _ h => absurd h hout,
          fun _ _ _ h => absurd h htest⟩
  · have hbad : (!(recTarget hdr % 64 == 0 && l.length % 64 == 0)) = true := by
      simp only [Bool.not_eq_true', Bool.and_eq_false_iff, beq_eq_false_iff_ne]
      tauto
    rw [if_pos hbad]
    obtain ⟨t, y, ht, hy, hseq, hack, htouch⟩ := acknowledged_next (slot := slot) hp hx hready (recSeq hdr) 1 .range
    exact ⟨t, y, ht, hy, hseq, fun h1 h2 => absurd ⟨h1, h2⟩ hform, fun _ => ⟨hack, htouch⟩, fun h1 h2 => absurd ⟨h1, h2⟩ hform,
      fun h1 h2 => absurd ⟨h1, h2⟩ hform⟩

end Write

end Sys2Proof
end

section
/-! SUPPORT. Reading HBM for the host (O58). -/

namespace Sys2Proof

open Machine

/-! ### Reading HBM for the host (R332, R411) -/

/-- Every entry but those of the partitions. -/
def offPartitions (k : Nat) : Bool := !decide (0x6040 ≤ k / 256 ∧ k / 256 < 0x6044)

/-- An error met in a range of HBM is met in HBM. -/
theorem lt_of_mem_eccIn {s : State} {a n : Nat} {e : Nat × Nat} (h : a + n ≤ 4 * dieHbm) (he : e ∈ eccIn s a n) : e.1 < 4 * dieHbm := by
  have hword : eccWord (a + n - 1) ≤ a + n - 1 := by unfold eccWord; split <;> omega
  unfold eccIn at he
  split at he
  next => simp at he
  next hn =>
    have hle : e.1 ≤ eccWord (a + n - 1) := (of_decide_eq_true (List.mem_filter.1 he).2).2
    omega

theorem offPartitions_bareErrors {s : State} {a n : Nat} (h : a + n ≤ 4 * dieHbm) : RegsKept offPartitions s (bareErrors s a n) := by
  refine List.foldlRecOn (motive := RegsKept offPartitions s) _ _ .refl fun t ht e he => ht.trans ?_
  obtain ⟨-, hdie⟩ := spaceAt_hbm (lt_of_mem_eccIn h he)
  split
  · exact regsKept_capture _ _ rfl rfl
  · refine regsKept_bumpCorr _ _ (fun i hi j hj => ?_) rfl rfl
    have hdiv : rkey (i + dieAt e.1) j / 256 = i + dieAt e.1 := by unfold rkey; omega
    simp only [List.mem_cons, List.not_mem_nil, or_false] at hi
    simp only [offPartitions, hdiv, Bool.not_eq_true', decide_eq_false_iff_not]
    omega

/-- Only errors make a read of HBM differ from its bytes. -/
theorem readHost_of_sound {s : State} {a n : Nat} (h : eccIn s a n = []) : readHost s a n = (mread s.mem a n, s) := by
  rw [readHost, bareErrors, h]
  rfl

theorem regs_readHost (s : State) (a n : Nat) : (readHost s a n).2.regs = (bareErrors s a n).regs := by
  unfold readHost
  exact List.foldlRecOn (motive := fun r : List Byte × State => r.2.regs = (bareErrors s a n).regs) _ _ rfl
    fun r hr e _ => ((touches_draw r.2).same .regs (by decide)).trans hr

/-- A part of a range without errors is without errors. -/
theorem eccIn_sub {s : State} {a n b m : Nat} (h : eccIn s a n = []) (hlo : a ≤ b) (hhi : b + m ≤ a + n) : eccIn s b m = [] := by
  have hmono : ∀ {c d : Nat}, c ≤ d → eccWord c ≤ eccWord d := fun {c d} hcd => by
    have hbase : cmBase / 16 * 16 = cmBase := by decide
    unfold eccWord
    split <;> split <;> omega
  by_cases hm : m = 0
  · exact if_pos hm
  · rw [eccIn, if_neg (by omega)] at h
    rw [eccIn, if_neg hm, List.filter_eq_nil_iff]
    intro e he hin
    obtain ⟨h1, h2⟩ := of_decide_eq_true hin
    have hno := List.filter_eq_nil_iff.1 h e he
    refine hno (decide_eq_true ⟨(hmono hlo).trans h1, h2.trans (hmono (by omega))⟩)

theorem eccIn_congr {s t : State} (h : t.ecc = s.ecc) (a n : Nat) : eccIn t a n = eccIn s a n := by rw [eccIn, eccIn, h]

/-! ### Data that waits lies in its range (R591, R596) -/

/-- The data that waits for a session lies in a range. -/
def WaitsWithin (a n : Nat) (y : Session) : Prop := ∀ b m, Waiting.data b m ∈ y.waiting → a ≤ b ∧ b + m ≤ a + n

/-- What has gone out of a state while data of a range was read. -/
structure DataSent (id a n : Nat) (s t : State) : Prop where
  fields : Touches (hostReadFields ++ sentFields) s t
  regs : RegsKept offPartitions s t
  within : SesAll id (WaitsWithin a n) t
  sound : eccIn s a n = [] → Touches ([.chReady, .act] ++ sentFields) s t

variable {id a n : Nat} {s t : State}

theorem WaitsWithin.tail {y : Session} {w : Waiting} {ws : List Waiting} (h : WaitsWithin a n y) (hw : y.waiting = w :: ws) :
    WaitsWithin a n (recSent (waitingWith y ws)) := fun b m hm => h b m (by rw [hw]; exact List.mem_cons_of_mem _ hm)

/-- Once some data has gone out the rest still lies in the range. -/
theorem WaitsWithin.data {y : Session} {b left k : Nat} {ws : List Waiting} (h : WaitsWithin a n y) (hw : y.waiting = .data b left :: ws) :
    WaitsWithin a n (recSent (waitingWith y (if k < left then .data (b + k) (left - k) :: ws else ws))) := by
  split
  · intro c m hm
    obtain heq | hrest := List.mem_cons.1 hm
    · obtain ⟨rfl, rfl⟩ : c = b + k ∧ m = left - k := by simpa using heq
      obtain ⟨hlo, hhi⟩ := h b left (by rw [hw]; exact List.mem_cons_self ..)
      omega
    · exact h c m (by rw [hw]; exact List.mem_cons_of_mem _ hrest)
  · exact h.tail hw

theorem DataSent.flushWaiting (hn : a + n ≤ 4 * dieHbm) (h : SesAll id (WaitsWithin a n) s) (k : Nat) : DataSent id a n s (flushWaiting k s id) := by
  refine flushWaiting_induct (R := DataSent id a n s) (fun t ht => ?_) (fun t x v ws ht hx hw => ?_) (fun t x b left ws m ht hx hw hm => ?_) k s
    ⟨.refl, .refl, h, fun _ => .refl⟩
  · have hflush := touches_flushRecords t
    exact ⟨ht.fields.trans (hflush.mono rfl), ht.regs.trans (.of_eq (hflush.same .regs (by decide))), ht.within.flushRecords fun y hy _ => hy,
      fun he => (ht.sound he).trans (hflush.mono rfl)⟩
  · have hsend := touches_sendRec t (waitingWith x ws) 1 0 v
    exact ⟨ht.fields.trans (hsend.mono rfl), ht.regs.trans (.of_eq (hsend.same .regs (by decide))),
      ht.within.sendRec (fun _ => (ht.within.of_sesAt hx).tail hw) .., fun he => (ht.sound he).trans (hsend.mono rfl)⟩
  · have hbg := touches_useBg t b m
    have hread := touches_hostRead t b m
    obtain ⟨hlo, hhi⟩ := ht.within.of_sesAt hx b left (by rw [hw]; exact List.mem_cons_self ..)
    have hregs : RegsKept offPartitions t (readHost (useBg t b m) b m).2 :=
      RegsKept.trans (.of_eq (hbg.same .regs (by decide))) (RegsKept.trans (offPartitions_bareErrors (by omega)) (.of_eq (regs_readHost ..)))
    have hsound : eccIn s a n = [] → Touches [.chReady, .act] t (readHost (useBg t b m) b m).2 := fun he => by
      have hecc : (useBg t b m).ecc = s.ecc := (hbg.same .ecc (by decide)).trans (ht.fields.same .ecc (by decide))
      rw [readHost_of_sound ((eccIn_congr hecc b m).trans (eccIn_sub he hlo (by omega)))]
      exact hbg.mono rfl
    generalize hr : (readHost (useBg t b m) b m).2 = r at *
    have hsend := touches_sendRec r (waitingWith x (if m < left then .data (b + m) (left - m) :: ws else ws)) 2 b (readHost (useBg t b m) b m).1
    exact ⟨ht.fields.trans ((hread.mono rfl).trans (hsend.mono rfl)), (ht.regs.trans hregs).trans (.of_eq (hsend.same .regs (by decide))),
      (ht.within.of_touches hread (by decide)).sendRec (fun _ => (ht.within.of_sesAt hx).data hw) ..,
      fun he => (ht.sound he).trans (((hsound he).mono rfl).trans (hsend.mono rfl))⟩

end Sys2Proof
end

section
/-! SUPPORT. HOST_READ_REQUEST, SERVE_COMMAND_RECORD, and the settlement of O58. -/

namespace Sys2Proof

open Machine

/-! ### HOST_READ_REQUEST (R411, R591) -/

/-- A read request's form (R591). -/
def readForm (a : Nat) (l : List Byte) : Bool :=
  a % 64 == 0 && l.length == 16 && readLen l % 64 == 0 && decide (64 ≤ readLen l ∧ readLen l ≤ 2 ^ 32) && leAt l 8 8 == 0

/-- What a read request that verified comes to: its data and its acknowledgement are queued. -/
def readJudged (s w : State) (x : Session) (hdr l : List Byte) : State :=
  if outsideParts s x (recTarget hdr) (readLen l) then putWaiting w x.id [hostAck (recSeq hdr) 2 .state]
  else if underTest s (recTarget hdr) (readLen l) then putWaiting w x.id [hostAck (recSeq hdr) 2 .busy]
  else putWaiting (useParts w (rangeParts s (recTarget hdr) (readLen l))) x.id [.data (recTarget hdr) (readLen l), hostAck (recSeq hdr) 2 .ok]

theorem exec_hostReadRequest {s : State} {slot : Nat} {hdr e : List Byte} {hr : HostRec} {x : Session} {l : List Byte}
    (hn : RecordNext s slot hdr e hr x l) (hf : recForm x 2 e hdr hr = true) (hb : bgHeld s (recTarget hdr) (readLen l) = false)
    (hform : readForm (recTarget hdr) l = true) :
    exec (.hostReadRequest slot hdr hr) s = done s (readJudged s (turned s slot (recCounted x)) x hdr l) := by
  have htake := takeRecord_of_next (kind := 2) (form := readForm (recTarget hdr))
    (held := fun s _ l => bgHeld s (recTarget hdr) (readLen l)) (out := fun s x l => outsideParts s x (recTarget hdr) (readLen l))
    (busy := fun s _ l => underTest s (recTarget hdr) (readLen l))
    (act := fun s x l => putWaiting (useParts s (rangeParts s (recTarget hdr) (readLen l))) x.id
      [.data (recTarget hdr) (readLen l), hostAck (recSeq hdr) 2 .ok]) hn hb
  refine (congrArg (done s) htake).trans (congrArg (done s) ?_)
  rw [recJudged, recForm_kind hf, hf, hform, Bool.true_and, if_neg (by decide)]
  rfl

section Read

variable {s : State} {slot : Nat} {x : Session} {a n : Nat}

/-- The state from which a read's data goes out. -/
def readQueued (s : State) (slot : Nat) (x : Session) (a n seq : Nat) : State :=
  setSes (useParts (turned s slot (recCounted x)) (rangeParts s a n)) (waitingWith (recCounted x) [.data a n, hostAck seq 2 .ok])

theorem touches_readQueued (seq : Nat) : Touches [.sessions, .rrSlot, .regs] s (readQueued s slot x a n seq) :=
  ((touches_turned ..).mono rfl).trans (((touches_useParts ..).mono rfl).trans ((touches_setSes ..).mono rfl))

theorem rg_readQueued_other (seq i : Nat) {j : Nat} (hj : j < 256) (h2 : j ≠ 2) : rg (readQueued s slot x a n seq) i j = rg s i j := by
  rw [readQueued, (touches_setSes ..).rg_eq (by decide) (by decide), rg_useParts_other _ _ _ hj h2, (touches_turned ..).rg_eq (by decide) (by decide)]

theorem bgHeld_readQueued (seq : Nat) : bgHeld (readQueued s slot x a n seq) = bgHeld s := by
  have h := touches_readQueued (s := s) (slot := slot) (x := x) (a := a) (n := n) seq
  exact TrafficRead.bgHeld_eq ⟨h.same .variant (by decide), h.same .parts (by decide), h.same .cyc (by decide), h.same .edge (by decide),
    h.same .chReady (by decide), fun i j hj h2 => rg_readQueued_other seq i hj h2⟩

variable (hx : x ∈ s.sessions) (hready : m2hReady x = true)

include hx

theorem sesAll_used (l : List Nat) : SesAll x.id (· = recCounted x) (useParts (turned s slot (recCounted x)) l) :=
  (sesAll_turned hx (z := recCounted x) rfl).of_touches (touches_useParts ..) (by decide)

include hready

theorem putWaiting_read (seq : Nat) : putWaiting (useParts (turned s slot (recCounted x)) (rangeParts s a n)) x.id [.data a n, hostAck seq 2 .ok] =
    flushWaiting (x.m2hBufs.length + 1) (readQueued s slot x a n seq) x.id := putWaiting_eq (sesAll_used hx _) (waiting_of_ready hready) _

/-- The first record of a read holds what HBM holds, where it holds no error. -/
theorem mcrec_of_read (seq : Nat) {k : Nat} (hk : k = min n (min (2 ^ 20) ((takeBuf x).1 - 48))) (hb : bgHeld s a k = false)
    (he : eccIn s a k = []) : Out.mcrec x.id 2 (sentRecord x 2 a (mread s.mem a k)) ∈
      (putWaiting (useParts (turned s slot (recCounted x)) (rangeParts s a n)) x.id [.data a n, hostAck seq 2 .ok]).out := by
  have hq := touches_readQueued (s := s) (slot := slot) (x := x) (a := a) (n := n) seq
  have hses : sesAt (readQueued s slot x a n seq) x.id = some (waitingWith (recCounted x) [.data a n, hostAck seq 2 .ok]) :=
    sesAt_queued (sesAll_used hx _) _
  have hbg := touches_useBg (readQueued s slot x a n seq) a k
  have hecc : (useBg (readQueued s slot x a n seq) a k).ecc = s.ecc := (hbg.same .ecc (by decide)).trans (hq.same .ecc (by decide))
  have hmem : (useBg (readQueued s slot x a n seq) a k).mem = s.mem := (hbg.same .mem (by decide)).trans (hq.same .mem (by decide))
  rw [putWaiting_read hx hready, flushWaiting_data hses rfl (ready_recCounted hready) hk (by rwa [bgHeld_readQueued]),
    readHost_of_sound ((eccIn_congr hecc a k).trans he), hmem]
  refine mem_out_flushWaiting (mem_out_vector _ (List.mem_append_right _ (List.mem_singleton.2 ?_))) _
  rfl

/-- A read request that is accepted: its partitions are used, and its data goes out. -/
theorem read_next (hp : s.powered = true) (hin : a + n ≤ 4 * dieHbm) (seq : Nat) :
    ∃ t y, done s (putWaiting (useParts (turned s slot (recCounted x)) (rangeParts s a n)) x.id [.data a n, hostAck seq 2 .ok]) = .next t ∧
      sesAt t x.id = some y ∧ y.seqIn = x.seqIn + 1 ∧ (∀ p ∈ rangeParts s a n, rg t (0x6040 + p) 2 = 1) ∧ t.mem = s.mem ∧ t.cores = s.cores ∧
      (∀ k, k = min n (min (2 ^ 20) ((takeBuf x).1 - 48)) → bgHeld s a k = false → eccIn s a k = [] →
        Out.mcrec x.id 2 (sentRecord x 2 a (mread s.mem a k)) ∈ t.out) ∧
      (eccIn s a n = [] → Touches ([Field.regs, .chReady, .act] ++ ackFields) s t) := by
  have hq := touches_readQueued (s := s) (slot := slot) (x := x) (a := a) (n := n) seq
  have hwithin : SesAll x.id (WaitsWithin a n) (readQueued s slot x a n seq) := by
    obtain ⟨⟨z, hz, hid⟩, -⟩ := sesAll_used (slot := slot) hx (rangeParts s a n)
    have hset := sesAll_set (P := WaitsWithin a n) hz (z := waitingWith (recCounted x) [.data a n, hostAck seq 2 .ok]) hid.symm
      fun b m hm => by
        have hdata : b = a ∧ m = n := by simpa [waitingWith, hostAck] using hm
        omega
    rwa [hid] at hset
  have hsent := DataSent.flushWaiting hin hwithin (x.m2hBufs.length + 1)
  rw [← putWaiting_read hx hready] at hsent
  have hmcrec := fun k => mcrec_of_read (slot := slot) (a := a) (n := n) hx hready seq (k := k)
  have hseqs := seqIn_putWaiting (sesAll_used (slot := slot) hx (rangeParts s a n)) hready [.data a n, hostAck seq 2 .ok]
  generalize putWaiting (useParts (turned s slot (recCounted x)) (rangeParts s a n)) x.id [.data a n, hostAck seq 2 .ok] = v at *
  have hframe : Touches ([.rrSlot] ++ hostReadFields ++ sentFields) s v := (hq.mono rfl).trans (hsent.fields.mono rfl)
  obtain ⟨t, ht, hend⟩ := done_next_of hp hframe (by decide)
  obtain ⟨y, hy, hseq⟩ := (hseqs.of_touches hend (by decide)).found
  refine ⟨t, y, ht, hy, hseq, fun p hp => ?_, (hend.same .mem (by decide)).trans (hframe.same .mem (by decide)),
    (hend.same .cores (by decide)).trans (hframe.same .cores (by decide)), fun k hk hb he => ?_, fun he => ?_⟩
  · have hp4 : p < 4 := partition_lt (List.mem_filter.1 hp).1
    have hkey : offPartitions (rkey (0x6040 + p) 2) = false := by
      have hdiv : rkey (0x6040 + p) 2 / 256 = 0x6040 + p := by unfold rkey; omega
      simp only [offPartitions, hdiv, Bool.not_eq_false', decide_eq_true_eq]
      omega
    rw [hend.rg_eq (by decide) (by decide), hsent.regs.rg (hsent.fields.same .variant (by decide)) _ _ hkey, readQueued,
      (touches_setSes ..).rg_eq (by decide) (by decide)]
    exact rg_useParts _ _ (.inl hp)
  · rw [hend.same .out (by decide)]
    exact hmcrec k hk hb he
  · exact (hq.mono rfl).trans (((hsent.sound ((eccIn_congr (hq.same .ecc (by decide)) a n).trans he)).mono rfl).trans (hend.mono rfl))

end Read

/-- What a read request comes to. -/
def ReadComes (s : State) (x : Session) (hdr l : List Byte) (t : State) : Prop :=
  let a := recTarget hdr
  let n := min (readLen l) (min (2 ^ 20) ((takeBuf x).1 - 48))
  (outsideParts s x a (readLen l) = true → Acknowledged x (recSeq hdr) 2 .state t ∧ Touches ackFields s t) ∧
  (outsideParts s x a (readLen l) = false → underTest s a (readLen l) = true → Acknowledged x (recSeq hdr) 2 .busy t ∧ Touches ackFields s t) ∧
  (outsideParts s x a (readLen l) = false → underTest s a (readLen l) = false →
    (∀ p ∈ rangeParts s a (readLen l), rg t (0x6040 + p) 2 = 1) ∧ t.mem = s.mem ∧ t.cores = s.cores ∧
    (bgHeld s a n = false → eccIn s a n = [] → Out.mcrec x.id 2 (sentRecord x 2 a (mread s.mem a n)) ∈ t.out) ∧
    (eccIn s a (readLen l) = [] → Touches ([Field.regs, .chReady, .act] ++ ackFields) s t))

theorem hostRead_comes {s : State} {slot : Nat} {x : Session} {hdr e : List Byte} {hr : HostRec} {l : List Byte}
    (hn : RecordNext s slot hdr e hr x l) (hf : recForm x 2 e hdr hr = true) (hb : bgHeld s (recTarget hdr) (readLen l) = false)
    (hform : readForm (recTarget hdr) l = true) :
    ∃ t y, exec (.hostReadRequest slot hdr hr) s = .next t ∧ sesAt t x.id = some y ∧ y.seqIn = x.seqIn + 1 ∧ ReadComes s x hdr l t := by
  have hp : s.powered = true := hn.1.1
  have hx := hn.1.mem
  have hready := hn.1.ready
  rw [exec_hostReadRequest hn hf hb hform, readJudged]
  cases hout : outsideParts s x (recTarget hdr) (readLen l) with
  | true =>
    rw [if_pos rfl]
    obtain ⟨t, y, ht, hy, hseq, hack, htouch⟩ := acknowledged_next (slot := slot) hp hx hready (recSeq hdr) 2 .state
    exact ⟨t, y, ht, hy, hseq, fun _ => ⟨hack, htouch⟩, fun h => by simp [hout] at h, fun h => by simp [hout] at h⟩
  | false =>
    rw [if_neg (by decide)]
    cases htest : underTest s (recTarget hdr) (readLen l) with
    | true =>
      rw [if_pos rfl]
      obtain ⟨t, y, ht, hy, hseq, hack, htouch⟩ := acknowledged_next (slot := slot) hp hx hready (recSeq hdr) 2 .busy
      exact ⟨t, y, ht, hy, hseq, fun h => by simp [hout] at h, fun _ _ => ⟨hack, htouch⟩, fun _ h => by simp [htest] at h⟩
    | false =>
      rw [if_neg (by decide)]
      have hin : recTarget hdr + readLen l ≤ 4 * dieHbm := by
        have htop : dies s.variant * dieHbm ≤ 4 * dieHbm := Nat.mul_le_mul_right _ (by cases s.variant <;> decide)
        simp only [outsideParts, Bool.or_eq_false_iff, decide_eq_false_iff_not] at hout
        omega
      obtain ⟨t, y, ht, hy, hseq, hused, hmem, hcores, hmcrec, htouch⟩ := read_next (slot := slot) hx hready hp hin (recSeq hdr)
      exact ⟨t, y, ht, hy, hseq, fun h => by simp [hout] at h, fun _ h => by simp [htest] at h,
        fun _ _ => ⟨hused, hmem, hcores, hmcrec _ rfl, htouch⟩⟩

/-! ### SERVE_COMMAND_RECORD (R490, R591) -/

theorem touches_serveCommand (s : State) (ses : Option Nat) (c : List Byte) : Touches (.parts :: unitFields) s (serveCommand s ses c) :=
  .ite ((touches_setPart ..).mono rfl) ((unitServed_applyCommand ..).fields.mono rfl)

/-- A serving record's form (R591). -/
def serveForm (hdr l : List Byte) : Bool := recTarget hdr == 0 && l.length % 64 == 0 && decide (64 ≤ l.length ∧ l.length ≤ 65536)

/-- The commands of a record reach the serving unit in order. -/
def commandsServed (w : State) (x : Session) (l : List Byte) : State :=
  (serveCommands (l.length / 64) l).foldl (fun t c => serveCommand t (some x.id) c) w

theorem exec_serveCommandRecord {s : State} {slot : Nat} {hdr e : List Byte} {hr : HostRec} {x : Session} {l : List Byte}
    (hn : RecordNext s slot hdr e hr x l) (hf : recForm x 3 e hdr hr = true) (hform : serveForm hdr l = true) (hroom : recordRoom s ≠ 0)
    (hu : ∀ p ∈ partitions s, unitWaits s p = false) :
    exec (.serveCommandRecord slot hdr hr) s = done s (commandsServed (turned s slot (recCounted x)) x l) := by
  have hheld : (recordRoom s == 0 || (partitions s).any (unitWaits s)) = false := by
    rw [Bool.or_eq_false_iff, beq_eq_false_iff_ne, List.any_eq_false]
    exact ⟨hroom, fun p hp => Bool.eq_false_iff.1 (hu p hp)⟩
  have htake := takeRecord_of_next (kind := 3) (form := serveForm hdr)
    (held := fun s _ _ => recordRoom s == 0 || (partitions s).any (unitWaits s)) (out := fun _ _ _ => false) (busy := fun _ _ _ => false)
    (act := fun s x l => commandsServed s x l) hn hheld
  refine (congrArg (done s) htake).trans (congrArg (done s) ?_)
  rw [recJudged, hf, hform, Bool.true_and, if_neg (by decide), if_neg (by decide), if_neg (by decide)]
  rfl

theorem serveRecord_serves {s : State} {slot : Nat} {hdr e : List Byte} {hr : HostRec} {x : Session} {l : List Byte}
    (hn : RecordNext s slot hdr e hr x l) (hf : recForm x 3 e hdr hr = true) (hform : serveForm hdr l = true) (hroom : recordRoom s ≠ 0)
    (hu : ∀ p ∈ partitions s, unitWaits s p = false) :
    let r := commandsServed (turned s slot (recCounted x)) x l
    ∃ t, exec (.serveCommandRecord slot hdr hr) s = .next t ∧ t.serve = r.serve ∧ t.records = r.records ∧ t.parts = r.parts ∧
      t.mem = r.mem ∧ t.out = r.out ∧ t.sessions = r.sessions ∧ t.cores = s.cores := by
  intro r
  have hserved : Touches (.parts :: unitFields) (turned s slot (recCounted x)) r := .foldl _ (fun _ _ => touches_serveCommand ..) _ _
  have hframe : Touches (.rrSlot :: .parts :: unitFields) s r := ((touches_turned ..).mono rfl).trans (hserved.mono rfl)
  obtain ⟨t, ht, hend⟩ := done_next_of (hn.1.1 : s.powered = true) hframe (by decide)
  rw [exec_serveCommandRecord hn hf hform hroom hu]
  exact ⟨t, ht, hend.same .serve (by decide), hend.same .records (by decide), hend.same .parts (by decide), hend.same .mem (by decide),
    hend.same .out (by decide), hend.same .sessions (by decide), (hend.same .cores (by decide)).trans (hframe.same .cores (by decide))⟩

/-- Settles O58: the mailbox and PERST_N, the rings, and the records, first what holds of each kind and then what a write, a read and commands
come to. -/
theorem hostInterfaceWorks : Obligations.HostInterfaceWorks := fun _ hp =>
  ⟨fun len req dict clr ev => mbGo_takes hp len req dict clr ev, fun _ tail ents _ hslot => h2mTail_posts hp hslot tail ents,
    fun _ tail ents _ hslot => m2hTail_posts hp hslot tail ents, fun _ _ _ _ ho hst => ringWrite_takes ho hst,
    fun _ _ _ _ _ hi => record_checks hp hi, fun _ _ _ _ _ _ hd hplain => record_waits hp hd hplain,
    fun _ _ _ _ _ _ hn hf hb => hostWrite_comes hn hf hb,
    fun _ _ _ _ _ _ hn hf hb ha hl h64 hlo hhi hz => hostRead_comes hn hf hb (by simpa [readForm, ha, hl, h64, hlo, hz] using hhi),
    fun _ _ _ _ _ _ hn hf ha h64 hlo hhi hroom hu => serveRecord_serves hn hf (by simp [serveForm, ha, h64, hlo, hhi]) hroom hu,
    perstN_ends hp⟩

end Sys2Proof
end
